-- ==== Sys2Proof/Word.lean ====
section
/-! DEFINITION. The words of the block: bytes, FP32 words, sparse stores, and their plainest arithmetic. -/

namespace Sys2Proof

/-- One byte of memory, of a message or of a frame. -/
abbrev Byte := BitVec 8

/-- An FP32 word (00_scope.md: IEEE 754 binary32). -/
abbrev F32 := BitVec 32

/-- A 256-bit connection key (14_trust_and_isolation.md R364). -/
abbrev Key := BitVec 256

/-- A sparse table: (index, value) pairs in rising order of index, holding no entry equal to what an unlisted index reads as. -/
abbrev Store (α : Type) := List (Nat × α)

/-- A sparse byte memory: (address, byte) pairs in rising order of address, no listed byte zero. An unlisted byte reads zero. -/
abbrev Mem := List (Nat × Byte)

/-- The quotient rounded up. -/
def ceilDiv (a b : Nat) : Nat := (a + b - 1) / b

/-- Bit `i` of a natural number. -/
def bit (n i : Nat) : Bool := n / 2 ^ i % 2 == 1

/-- Bits `[lo + w - 1 : lo]` of a natural number (00_scope.md R6). -/
def field (n lo w : Nat) : Nat := n / 2 ^ lo % 2 ^ w

/-- A Boolean as a bit. -/
def b2n (b : Bool) : Nat := if b then 1 else 0

end Sys2Proof
end

