-- ==== Sys2Proof/Syntax.lean ====
section
/-! DEFINITION. The commands of the block: one constructor of `Instr` for each row of spec/opcode_table.json, in the
table's order. The table gives a row no operands, so an operand is what the row's rule takes from outside the node
(a message, a register access, a sample, a physical error that strikes in the step) or the index of the unit, request
or line the step acts on. -/

namespace Sys2Proof

/-- Bytes the host stored before a command: step 1 of the fence sequence that precedes R352 (13_host_attachment.md). -/
structure HostStore where
  /-- true: BAR2 of function `fn`; false: host memory -/
  bar2 : Bool
  /-- function index of R342 -/
  fn : Nat
  /-- BAR2 offset or host address -/
  addr : Nat
  bytes : List Byte
  deriving DecidableEq, Repr

/-- A frame as a port receives it (12_transport.md R309 to R318). `sealKey` is the key under which its GCM tag verifies. -/
structure RxFrame where
  /-- frame bytes by R294 -/
  size : Nat
  fcsOk : Bool
  dstMac : Nat
  vlan : Bool
  etherType : Nat
  ipVersion : Nat
  nextHeader : Nat
  extHeader : Bool
  dstIp : Nat
  udpDst : Nat
  /-- the 32-byte TFX header -/
  hdr : List Byte
  /-- the coded segment -/
  coded : List Byte
  sealKey : Option Key
  /-- the lane it came by, and the FEC codewords that the lane has corrected and failed to correct since the frame before -/
  lane : Nat
  fecCorrected : Nat
  fecUncorrected : Nat
  deriving DecidableEq, Repr

/-- Bit flips and uncorrectable shadow errors that struck the directory before a step (03_page_directory.md R76 to R78). -/
structure DirUpset where
  /-- (entry, key bits flipped, data bits flipped) -/
  flips : List (Nat × BitVec 80 × BitVec 48)
  /-- entries whose V bit flipped, and whose HELD bit flipped -/
  vFlips : List Nat
  heldFlips : List Nat
  /-- entries whose shadow reads with an uncorrectable error -/
  shadowUe : List Nat
  deriving DecidableEq, Repr

/-- Why a lane is declared lost (11_fabric_ports.md R285, R291). -/
inductive LaneFault where
  | lockLost
  /-- codewords not correctable within 1 µs -/
  | uncorrectable (codewords : Nat)
  | remoteFault | alignmentLost
  deriving DecidableEq, Repr

/-- A supply's level in mV, and for how long it has stood, in ns. -/
structure SupplyLevel where
  millivolts : Nat
  ns : Nat
  deriving DecidableEq, Repr

/-- An edge of a pin, with its sample in units of 125 ps. -/
structure PinEdge where
  rising : Bool
  sample : Nat
  deriving DecidableEq, Repr

/-- What a sweep's reads of the score sheet show: corrected errors, and words with uncorrectable ones, each a bank and a word
index (04_graver_engines.md R88, R110). -/
structure SheetRead where
  corrected : Nat
  ueWords : List (Nat × Nat)
  deriving DecidableEq, Repr

/-- Uncorrectable errors that a stack's patrol finds (09_strokes_and_passes.md R246): pages by slot index, and on a vault stack
64-bit words of its plate stores, counted from the active one's first (08_plates.md R226). -/
structure PatrolFinds where
  slots : List Nat
  plate : List Nat
  deriving DecidableEq, Repr

/-- What a flash target shows at mount (07_residency_and_tiers.md R202). -/
structure FlashTarget where
  channel : Nat
  target : Nat
  /-- some redundant copy of the parameter page has a valid CRC -/
  crcOk : Bool
  nvLpddr4 : Bool
  ezNand : Bool
  bitsPerCell : Nat
  /-- NAND page plus spare, bytes -/
  pageBytes : Nat
  /-- geometry: NAND pages of a block, and blocks of the target -/
  blockPages : Nat
  blocks : Nat
  /-- blocks with a factory bad-block mark -/
  badBlocks : List Nat
  /-- rated endurance, erases of a block -/
  endurance : Nat
  /-- tR maximum, microseconds -/
  trUs : Nat
  deriving DecidableEq, Repr

/-- Why a flash operation fails: FSH_STATUS.CAUSE (07_residency_and_tiers.md R208). -/
inductive FlashCause where
  | read | program | erase | noFreeBlock | parameterPage | training | timeout
  deriving DecidableEq, Repr

/-- The agents of R444 that reach the register bus (17_management_and_registers.md). -/
inductive Binding where
  | smbus | i3c | pcie
  deriving DecidableEq, Repr

/-- A request of the host that secure hold can defer (14_trust_and_isolation.md R384). -/
inductive HostPowerRequest where
  | d3hot (fn : Nat) | linkDisable (link : Nat)
  deriving DecidableEq, Repr

/-- The outcome of a start-up stage's own work (15_start_power_cooling.md R392, R394). -/
inductive StageResult where
  | done
  /-- a check of the identity failed (14_trust_and_isolation.md R360) -/
  | identityFail
  /-- a firmware check failed (14_trust_and_isolation.md R361) -/
  | firmwareFail
  /-- a regulator not regulated within 100 ms -/
  | regulatorFail
  /-- stacks that failed training (bit mask) -/
  | trainingFail (mask : Nat)
  /-- stacks that failed their pattern test (bit mask) -/
  | testFail (mask : Nat)
  deriving DecidableEq, Repr

/-- A lane's auto-negotiation result (11_fabric_ports.md R281). -/
inductive Ability where
  | kr1of200 | cr1of200 | kr4of800 | cr4of800 | gaui4 | kr1of100 | cr1of100 | none
  deriving DecidableEq, Repr

/-- What a unit saw in a second that no other command shows (16_faults_and_recovery.md R437): corrected errors, retries,
retrainings and uncorrectable errors, each as the table of R437 counts it before it divides. -/
structure WearInput where
  unit : Nat
  c : Nat
  r : Nat
  t : Nat
  u : Nat
  deriving DecidableEq, Repr

/-- The coolant readings of one flow window (15_start_power_cooling.md R404, R405), in the units of THM_COOL. -/
structure CoolSample where
  inTop : Int
  outTop : Int
  inBot : Int
  outBot : Int
  flowTop : Nat
  flowBot : Nat
  /-- a thermistor reads open or short (R466) -/
  thermFault : Bool
  /-- a meter gave no pulse for 2 s -/
  noPulse : Bool
  deriving DecidableEq, Repr

/-- One constructor per row of spec/opcode_table.json. -/
inductive Instr where
  | registerWrite (f off width : Nat) (value : BitVec 64)
  | rcFieldRead (f off width : Nat)
  | unalignedAccess (f off width : Nat) (write : Bool)
  | strobe (drift : List (Nat × Nat))
  | attn (conn : Nat)
  | attnCheckStroke (req : Nat) (ue : Option Nat)
  | admissionStroke (req : Nat) (ue : Option Nat)
  | admissionLookup (req : Nat) (upset : DirUpset)
  | workDispatch (req : Nat) (extentUe : List Nat)
  | bestEffortDispatch (part : Nat) (extentUe : List Nat)
  | attnTokenTaken (f : Nat)
  | append (conn : Nat) (ue : Option Nat)
  | commit (conn : Nat) (ue : Option Nat)
  | cancel (conn : Nat)
  | cancelAtSweepBoundary (g : Nat)
  | tailClearOnClose (ctx : Nat)
  | search (part : Nat)
  | count (part : Nat)
  | read (part : Nat)
  | invalidate (part : Nat)
  | write (part : Nat)
  | validate (part : Nat)
  | swap (part : Nat)
  | release (part : Nat)
  | bulkInvalidate (part : Nat)
  | directoryLeaseExpiry (entry : Nat)
  | extentGraceEnd (extent : Nat)
  | stateOnlySwapRetry
  | directoryPatrol (upset : DirUpset)
  | sweep1 (g : Nat) (ue : List Nat)
  | sweep2 (g : Nat) (read : SheetRead)
  | sweep3 (g : Nat) (ue : List Nat) (read : SheetRead)
  | blockClose (g : Nat)
  | chainMerge (stack req : Nat) (corrected : List Nat) (flitUe : List (Nat × Nat × Nat))
  | sheetPatrol (g : Nat) (corrected : List (Nat × Nat)) (ueWord : Option (Nat × Nat))
  | bankReady (g : Nat)
  | windowLine (island line : Nat)
  | overrun (g : Nat)
  | banksLine (island line : Nat)
  | refreshLine (island line : Nat) (finds : PatrolFinds)
  | extraRefresh (stack : Nat)
  | retrainLine (island line : Nat)
  | dircycLine (island line : Nat)
  | linkLine (island line : Nat)
  | maintLine (island line : Nat) (eraseFails programFails : List Nat)
  | closeLine (island line : Nat)
  | sendLine (island line : Nat)
  | beatLine (island line : Nat)
  | adaptLine (island line : Nat)
  | sampleLine (island line : Nat)
  | collatorMerge (req : Nat) (residueFault : Bool) (ueRows : List Nat)
  | childImpr (conn : Nat)
  | collatorEntryClose (tenant tag : Nat)
  | orphan (tenant tag : Nat)
  | contextWrite (f : Nat)
  | extentGet (f : Nat)
  | extentWrite (f : Nat)
  | extentPut (f : Nat)
  | stage (f : Nat)
  | tileStands (stack tile : Nat) (corrected : List (Nat × Nat))
  | stageReadFailed (stack tile : Nat)
  | tileFree (stack tile : Nat)
  | rehome (f : Nat) (failedReads : List Nat)
  | evict (f : Nat)
  | writeBack (f : Nat)
  | moveOut (f : Nat) (failedReads : List Nat)
  | moveOutCompletion (conn : Nat)
  | moveOutTimeout (f : Nat)
  | exportOut (f : Nat) (failedReads : List Nat)
  | pageWrite (f : Nat)
  | move (conn : Nat)
  | export_ (conn : Nat)
  | scraperEvict (part stack : Nat)
  | burnisherZero (stack : Nat)
  | reverify (slot : Nat) (ue : Bool)
  | writeBackPass (part : Nat)
  | tierProgramDone (index : Nat) (failed : List Nat)
  | tierRead (f : Nat) (ok : Bool)
  | tierWrite (f : Nat) (ok : Bool)
  | tierTrim (f : Nat) (ok : Bool)
  | tierStallRetry (ok : Bool)
  | fshCtrlSkip
  | flashMount (targets : List FlashTarget) (failure : Option FlashCause)
  | zeroSlots (f : Nat)
  | zeroTiles (f : Nat)
  | zeroB2 (f : Nat)
  | pltLoad (stores : List HostStore)
  | loadComplete
  | pltSeal
  | rankSwitch
  | pltArm
  | islandAck (island : Nat)
  | pltCommit
  | pltAbort
  | deltaBoundary
  | plateLost
  | heartbeat (conn : Nat)
  | peersLost (conn : Nat)
  | ppsEdge (sample : Nat) (high1us : Bool)
  | phaseStep
  | markMissing
  | setSeconds
  | rereg
  | registration (failed : Nat) (step : Option Nat)
  | timCtrlBarrier
  | barrier (conn : Nat)
  | barrierOutPulse
  | barrierInEdge (edge : PinEdge)
  | barrierStart
  | laneTrained (port lane : Nat) (ability : Ability)
  | laneLost (port lane : Nat) (cause : LaneFault)
  | prtCtrlRetrain (port lanes : Nat)
  | laneReturn (port lane : Nat)
  | portDrop (port : Nat)
  | portReturn (port : Nat)
  | frameStart (port : Nat)
  | frameReceive (port : Nat) (frame : RxFrame)
  | tfxFrameAccept (port : Nat)
  | ackSend (conn : Nat)
  | retransmit (conn psn : Nat)
  | rollStall (conn : Nat)
  | creditShrink (conn : Nat)
  | closingEnd (conn : Nat)
  | rdmaRd (conn : Nat) (dmaError : Bool)
  | rdmaWr (conn : Nat) (dmaError : Bool)
  | atomic (conn : Nat)
  | trig (conn : Nat)
  | resp (conn : Nat)
  | ringWrite (ring : Nat)
  | post (ring value : Nat) (stores : List HostStore)
  | reclaim (ring value : Nat)
  | ringLeaseExpiry (ring : Nat)
  | send (f : Nat)
  | regionReg (f : Nat)
  | regionDereg (f : Nat)
  | ringBind (f : Nat)
  | counterReset (f : Nat)
  | postWr (f : Nat)
  | wrCancel (f : Nat)
  | connClose (f : Nat)
  | cqDoorbell (f cls : Nat) (value : BitVec 64) (stores : List HostStore)
  | hostAttn (f : Nat)
  | hostCancel (f : Nat)
  | listCompletion (f cls : Nat)
  | cqEnable (f cls : Nat) (enable : Bool)
  | flr (f : Nat)
  | perst
  | hubB2map (index width : Nat) (value : BitVec 64)
  | remoteLoad (off len : Nat)
  | remoteStore (off : Nat) (data : List Byte)
  | deadTarget (load : Nat)
  | keyOffer
  | keyAccept
  | keyErase
  | curveOpDone
  | offerExpiry (conn epoch : Nat)
  | scrub
  | scrubStep (tenantScope : Bool) (id : Nat) (verifyOk : Bool)
  | fuseSvn
  | curveMult
  | unfence (knownAnswer : Bool)
  | b2Write
  | b2Read
  | getMeasurements (binding : Binding) (session : Option Nat) (nonce : List Byte)
  | keyExchange (binding : Binding) (point : List Byte)
  | ideKm (session stream : Nat) (key : Key) (vf : Option Nat)
  | ideFail (stream : Nat)
  | lockInterface (vf session : Nat)
  | startInterface (vf : Nat)
  | stopInterface (vf : Nat)
  | cut
  | deferredTakesEffect
  | vauxInRange (level : SupplyLevel) (strapBifur : Bool) (strapSmbA : Nat)
  | sysRstN (high : Bool) (lowNs : Nat) (strapBifur : Bool) (strapSmbA : Nat)
  | vinMainRange (level : SupplyLevel)
  | stageComplete (result : StageResult)
  | mainPowerStart
  | powerSample (watts deciamps millivolts : Nat)
  | dramTempSample (stack : Nat) (celsius : Int)
  | thermalDemand (stack : Nat)
  | flowWindow (sample : CoolSample)
  | coolantCut
  | cap (watts : Nat)
  | pwrGgateReq (index : Nat) (value : BitVec 64)
  | pwrGate (portDown : Nat) (flashDown : Bool)
  | gateTakesEffect
  | pwrCtrlSkip
  | holdEnter
  | holdExit
  | restart
  | off
  | graverHang (g : Nat)
  | leaseRevoked (unit : Nat)
  | coreReset (core : Nat)
  | trustRestart
  | reconcile
  | traceRecordWrite
  | evtSel (index : Nat)
  | clearUe
  | clearOther
  | wearUpdate (inputs : List WearInput)
  | mctpPacket (binding : Binding) (som eom : Bool) (seq msgTag : Nat) (payload : List Byte)
  | setEndpointId (binding : Binding) (eid : Nat)
  | regRead (binding : Binding)
  | regWrite (binding : Binding)
  | getSensorReading (sensor : Nat)
  | getPdr (handle : Nat)
  | setEventReceiver (receiver : Option Nat)
  | pollForPlatformEvent
  | platformEventRetry (acked : Bool)
  | sensorRefresh
  | requestUpdate
  | updateComponent (component : Nat) (image : List Byte) (svn version : Nat) (signatureOk : Bool)
  | verifyComponent
  | applyComplete
  | activateFirmware (selfContained : Bool)
  | cancelUpdate
  | updateTimeout
  | hostLinkTrained (link speed width : Nat) (cxlCache cxlMem : Bool)
  | hostPowerManagementRequest (req : HostPowerRequest)
  | junctionTemperatureSample (die : Nat) (celsius : Int)
  deriving DecidableEq, Repr

end Sys2Proof
end

