-- ==== Sys2Proof/Config.lean ====
section
/-! DEFINITION. What one device or one implementation fixes, and the free values of the model. A constant here has no
body: nothing in Lean can evaluate it or prove a value of it, so a claim that holds holds for every value. -/

namespace Sys2Proof.Config

/-- The fused device root secret ROOT (14_trust_and_isolation.md R359). -/
opaque root : BitVec 256
/-- The fused P-384 identity scalar ID_SCALAR (R359). -/
opaque idScalar : BitVec 384
/-- The fused device serial number SERIAL (R359). -/
opaque serial : BitVec 64
/-- The fused lifecycle code LIFECYCLE (R359). -/
opaque lifecycle : BitVec 4
/-- The fused grade: true is grade B (17_management_and_registers.md R455). -/
opaque gradeB : Bool
/-- Security-version counts burnt before the run (14_trust_and_isolation.md R359). -/
opaque svnTc : Nat
opaque svnHub : Nat
/-- SVN and version of the firmware images of the boot flash before the run, by component (0 trust core, 1 hub). -/
opaque imageSvn : Nat → Nat
opaque imageVersion : Nat → BitVec 32
/-- The bytes of the running firmware image of a component: what measurements 1 and 2 digest (R374). -/
opaque imageBytes : Nat → List Byte
/-- The 32 bytes N that the CTR_DRBG gives at its n-th draw (R364). -/
opaque drbg : Nat → List Byte
/-- The free choice behind every pick the manual leaves to the node: which pool slot, FREE extent, tile, TLPN, region of
equal rank is taken at the n-th pick. -/
opaque choice : Nat → Nat
/-- A free 64-bit value at the n-th use: a result the manual does not state. -/
opaque freeWord : Nat → BitVec 64

/-- The word kind, 0 to 2, with which the owner of a region registered it, by region key: what the sender of an RDMA_WR or an
ATOMIC codes its body in (11_fabric_ports.md R300), and is told by nothing the manual names (notes/assumptions/73.md). -/
opaque regionKind : Nat → Nat

/-- The PCI vendor identifier of the node's configuration space, as a vendor-defined message carries it
(17_management_and_registers.md R442). -/
opaque pciVendor : BitVec 16

/-- What an FP32 operation gives on operands for which the manual states no result: a NaN operand, or an operation IEEE 754
calls invalid (notes/assumptions/8.md). -/
opaque fpInvalid : F32 → F32 → F32

end Sys2Proof.Config
end

