-- ==== Sys2Proof/Machine/Flags.lean ====
section
/-! DEFINITION. The status codes and how several combine, the fault codes with their trace classes, unit identifiers,
trace event codes, TFX type codes, and where in the register map each event counter stands. -/

namespace Sys2Proof.Machine

/-! ### Status codes (00_scope.md R16, R17) -/

abbrev stOk : Nat := 0x00
abbrev stPageAbsent : Nat := 0x01
abbrev stPageDropped : Nat := 0x02
abbrev stPageSuspect : Nat := 0x03
abbrev stTierError : Nat := 0x04
abbrev stCancelled : Nat := 0x05
abbrev stMalformed : Nat := 0x08
abbrev stKeyAbsent : Nat := 0x10
abbrev stAuthFail : Nat := 0x11
abbrev stRingShort : Nat := 0x12
abbrev stBadPoint : Nat := 0x18
abbrev stBadScalar : Nat := 0x19
abbrev stDeltaBusy : Nat := 0x20
abbrev stDeltaAborted : Nat := 0x21
abbrev stPlanSlip : Nat := 0x28
abbrev stFenced : Nat := 0x30
abbrev stTargetDead : Nat := 0x31
abbrev stUncorrectable : Nat := 0x38

/-- The status codes of the node (R16). -/
def statusCodes : List Nat :=
  [stOk, stPageAbsent, stPageDropped, stPageSuspect, stTierError, stCancelled, stMalformed, stKeyAbsent, stAuthFail, stRingShort,
    stBadPoint, stBadScalar, stDeltaBusy, stDeltaAborted, stPlanSlip, stFenced, stTargetDead, stUncorrectable]

/-- A status that came from outside: the node emits no value that is not in the table (R16), and reports an unknown one as
ST_MALFORMED (DESIGN CHOICE, notes/assumptions/109.md). -/
def knownStatus (c : Nat) : Nat := if statusCodes.contains c then c else stMalformed

/-- The group of a status code: bits [7:3] (R16). -/
def stGroup (c : Nat) : Nat := c / 8

/-- A code under which the delivered result is valid: group 0x00, and ST_PLAN_SLIP (R17). -/
def stMild (c : Nat) : Bool := stGroup c == 0 || c == stPlanSlip

/-- The smaller of an accumulated code and a new one; `none` is "no code yet". -/
def minCode (acc : Option Nat) (c : Nat) : Option Nat :=
  match acc with
  | none => some c
  | some a => some (min a c)

/-- The lowest-valued code of a list, if it has one. -/
def lowest (cs : List Nat) : Option Nat := cs.foldl minCode none

/-- The one code reported for several conditions (R17). -/
def combine (cs : List Nat) : Nat :=
  let cs := cs.filter (· != stOk)
  match lowest (cs.filter fun c => !stMild c) with
  | some c => c
  | none => (lowest cs).getD stOk

/-- A condition with the status that reports it. -/
def codeIf (b : Bool) (status : Nat) : List Nat := if b then [status] else []

/-! ### TFX message types (R18) -/

abbrev tAttn : Nat := 0x01
abbrev tImpr : Nat := 0x02
abbrev tAppend : Nat := 0x03
abbrev tCommit : Nat := 0x04
abbrev tCancel : Nat := 0x05
abbrev tMove : Nat := 0x10
abbrev tExport : Nat := 0x11
abbrev tRdmaRd : Nat := 0x20
abbrev tRdmaWr : Nat := 0x21
abbrev tAtomic : Nat := 0x22
abbrev tTrig : Nat := 0x30
abbrev tHeartbeat : Nat := 0x31
abbrev tBarrier : Nat := 0x32

/-- The message types of the node (R18). -/
def messageTypes : List Nat :=
  [tAttn, tImpr, tAppend, tCommit, tCancel, tMove, tExport, tRdmaRd, tRdmaWr, tAtomic, tTrig, tHeartbeat, tBarrier]

/-! ### Unit identifiers (16_faults_and_recovery.md R412) -/

/-- A unit identifier: class in [23:16], index in [15:0]. -/
def unitId (cls index : Nat) : Nat := cls * 65536 + index % 65536

def unitGraver (g : Nat) : Nat := unitId 0x01 g
def unitStack (s : Nat) : Nat := unitId 0x02 s
def unitPort (p : Nat) : Nat := unitId 0x03 p
def unitLane (p l : Nat) : Nat := unitId 0x04 (4 * p + l)
def unitCollator : Nat := unitId 0x05 0
def unitChannel (c : Nat) : Nat := unitId 0x06 c
def unitCore (c : Nat) : Nat := unitId 0x07 c
def unitLink (l : Nat) : Nat := unitId 0x08 l
def unitSram (b : Nat) : Nat := unitId 0x09 b
def unitConn (c : Nat) : Nat := unitId 0x0A c
def unitTrust : Nat := unitId 0x0B 0
def unitNode : Nat := unitId 0x0C 0

/-! ### Fault codes (R412) -/

abbrev fUeData : Nat := 0x0101
abbrev fUeMeta : Nat := 0x0102
abbrev fUeRepeat : Nat := 0x0103
abbrev fGraverHang : Nat := 0x0201
abbrev fResidue : Nat := 0x0202
abbrev fCoreReset : Nat := 0x0203
abbrev fTrustRestart : Nat := 0x0204
abbrev fLeaseRevoked : Nat := 0x0205
abbrev fReconcile : Nat := 0x0206
abbrev fPortDrop : Nat := 0x0301
abbrev fPeerLost : Nat := 0x0302
abbrev fConnFailed : Nat := 0x0303
abbrev fDeadTarget : Nat := 0x0304
abbrev fRollStall : Nat := 0x0305
abbrev fPpsLost : Nat := 0x0401
abbrev fPpsFar : Nat := 0x0402
abbrev fRegLoss : Nat := 0x0403
abbrev fVinRange : Nat := 0x0501
abbrev fPowerHold : Nat := 0x0502
abbrev fThermalCritical : Nat := 0x0503
abbrev fCoolant : Nat := 0x0504
abbrev fPlateLost : Nat := 0x0601
abbrev fScrubFail : Nat := 0x0602
abbrev fTierStall : Nat := 0x0603

/-- The trace class of a fault's record. The manual names the classes (R430) but not which fault takes which:
DESIGN CHOICE, notes/assumptions/6.md. -/
def faultClass (code : Nat) : Nat :=
  if code == fGraverHang then 6
  else if code == fResidue then 7
  else if code == fCoreReset || code == fLeaseRevoked then 12
  else if code == fTrustRestart || code == fReconcile || code == fScrubFail || code == fRollStall then 10
  else if code == fPortDrop then 2
  else if code == fPeerLost || code == fConnFailed then 3
  else if code == fDeadTarget then 14
  else if code == fPpsLost || code == fPpsFar || code == fRegLoss then 8
  else if code / 256 == 5 then 9
  else if code == fTierStall then 5
  else 1

/-- The HOLD_CAUSE bit of a fault that puts the node in hold mode (R412). -/
def faultHold (code : Nat) : Option Nat :=
  if code == fUeRepeat then some 3
  else if code == fTrustRestart || code == fRegLoss || code == fPowerHold then some 5
  else if code == fThermalCritical then some 0
  else if code == fCoolant then some 1
  else if code == fPlateLost then some 2
  else none

/-! ### Event classes and codes (R430, R470) -/

abbrev clCorrected : Nat := 0
abbrev clUncorrectable : Nat := 1
abbrev clLane : Nat := 2
abbrev clTransport : Nat := 3
abbrev clSlip : Nat := 4
abbrev clResidency : Nat := 5
abbrev clGraver : Nat := 6
abbrev clCollator : Nat := 7
abbrev clTime : Nat := 8
abbrev clPower : Nat := 9
abbrev clTrust : Nat := 10
abbrev clRegister : Nat := 11
abbrev clLease : Nat := 12
abbrev clWear : Nat := 13
abbrev clHost : Nat := 14
abbrev clFold : Nat := 15

/-- The code of an event record: 0x8000 | (CLASS << 8) | n (R470). -/
def eventCode (cls n : Nat) : Nat := 0x8000 + cls * 256 + n

/-- An event counter: BAR0 offset, lowest bit and width of its field, the class of its event record, and whether the
happening it counts writes a record of its own (notes/assumptions/7.md). -/
structure Ctr where
  off : Nat
  lo : Nat
  width : Nat
  cls : Nat
  deriving DecidableEq, Repr

/-- The index of a counter in State.ctr. -/
def Ctr.key (c : Ctr) : Nat := c.off * 64 + c.lo

end Sys2Proof.Machine
end

