-- ==== Sys2Proof/Machine/State.lean ====
section
/-! DEFINITION. The state of the node as plain data: every register, table, buffer, queue, mode and pin the manual gives it,
the queue of waiting commands, the faults and refusals a step can end in, and the state after reset. A field's default
is its value at reset: the register tables' Reset column, and otherwise empty, zero or "none" (notes/assumptions/1.md). -/

namespace Sys2Proof.Machine

/-! ### Time (10_registration_and_time.md) -/

/-- TIM_STATUS.STATE: 0 free-running, 1 acquiring, 2 locked, 3 holdover (R278). -/
inductive Lock where
  | free | acquiring | locked | holdover
  deriving DecidableEq, Repr

structure TimeState where
  /-- strokes strobed since the model began: the model's own measure of elapsed time (notes/assumptions/3.md) -/
  elapsed : Nat := 0
  /-- TIM_NOW: the time base in ns -/
  now : Nat := 0
  /-- counting from stage 1 (R264 step 1) -/
  counting : Bool := false
  lock : Lock := .free
  /-- TIM_STATUS.REG and RUN -/
  reg : Bool := false
  run : Nat := 0
  secondsSet : Bool := false
  ppsFar : Bool := false
  /-- e of the last mark, 125 ps units -/
  lastErr : Int := 0
  missing : Nat := 0
  regFailMask : Nat := 0
  /-- TIM_PPS_DELAY -/
  ppsDelay : Nat := 0
  barDelay : Nat := 0
  /-- TIM_SECONDS -/
  seconds : Nat := 0
  /-- TIM_MARK -/
  mark : Nat := 0
  /-- sample of the first candidate edge of an acquisition, 125 ps units (R264) -/
  firstEdge : Option Nat := none
  /-- measured interval the PLL fraction was last set from, 125 ps units (R264, R265) -/
  pllInterval : Nat := 0
  /-- sample of the previous mark, 125 ps units -/
  lastSample : Option Nat := none
  /-- phase error still to remove, 125 ps units (R265) -/
  slew : Int := 0
  /-- whole second of the last mark or of the last counted missing mark -/
  lastSecond : Option Nat := none
  /-- the second for which a mark was accepted -/
  markedSecond : Option Nat := none
  /-- whole-second count for the next mark, once set (R268) -/
  setCount : Option Nat := none
  /-- fractions of a second of the latest rejected far edges in a row, four of them once the fault is raised (R267) -/
  farEdges : List Nat := []
  /-- returned from holdover with an error still above 3 ns (R267) -/
  settling : Bool := false
  deriving DecidableEq, Repr

/-- Registration and barriers (R270 to R276). -/
structure BarState where
  /-- TIM_BARRIER -/
  startPass : Nat := 0
  hops : Nat := 0
  pin : Bool := false
  repeat_ : Bool := false
  /-- TIM_BARRIER_ID -/
  nextId : Nat := 0
  pendingId : Nat := 0
  /-- START_PASS of the pending barrier -/
  pendingPass : Option Nat := none
  /-- pass X in which the pin master drives BARRIER_OUT (R276) -/
  pinPass : Option Nat := none
  /-- levels of BARRIER_OUT and BARRIER_IN -/
  barrierOut : Bool := false
  barrierIn : Bool := false
  /-- the stroke in which the pin master's own pulse ends (R276) -/
  outLow : Option Nat := none
  /-- REREG was written (R270) -/
  regWanted : Bool := false
  /-- attempts made so far in this round, 0 to 3 -/
  regTries : Nat := 0
  /-- pass of the next attempt -/
  regPass : Nat := 0
  /-- pass at whose boundary a registration that succeeded ends (R270) -/
  regEnd : Option Nat := none
  /-- stage 5 has seen its registration: a further one needs REREG -/
  registered : Bool := false
  deriving DecidableEq, Repr

/-! ### The page directory (03_page_directory.md) -/

/-- One directory entry (R54 to R56, R74, R78) with AGE (07_residency_and_tiers.md R189). -/
structure DirEntry where
  key : BitVec 80 := 0
  data : BitVec 48 := 0
  v : Bool := false
  held : Bool := false
  /-- stroke at which HELD went from 0 to 1 (R74) -/
  heldAt : Nat := 0
  /-- lost to an uncorrectable shadow error: exempt from the lease, with the extent it last named while valid (R78) -/
  lost : Bool := false
  lostExt : Option Nat := none
  age : Nat := 0
  deriving DecidableEq, Repr

/-- The shadow copy of an entry (R76): key, data, V and HELD. -/
structure DirShadow where
  key : BitVec 80 := 0
  data : BitVec 48 := 0
  v : Bool := false
  held : Bool := false
  deriving DecidableEq, Repr

/-- The state of an extent descriptor (R60). -/
inductive ExtState where
  | free
  | built (part : Nat)
  | live (part : Nat)
  /-- pass in which it entered GRACE -/
  | grace (part pass : Nat)
  deriving DecidableEq, Repr

/-- An extent descriptor: 64 page words (R59; an unlisted word is STATE 5, SLOT 0) and 64 tier words
(07_residency_and_tiers.md R178; an unlisted word is zero). -/
structure Extent where
  st : ExtState := .free
  words : Store Nat := []
  tiers : Store Nat := []
  /-- slots that page words of this BUILT extent named before they were rewritten: they leave with the extent (R181) -/
  former : List Nat := []
  deriving DecidableEq, Repr

/-- A command written to CMD and not yet served, with the KEY, MASK and DATA values present when it was written (R80). -/
structure DirCmd where
  op : Nat
  index : Nat
  key : BitVec 80
  mask : BitVec 80
  data : BitVec 48
  deriving DecidableEq, Repr

/-- The port of a partition (R80). -/
structure DirPort where
  key : BitVec 80 := 0
  mask : BitVec 80 := 0
  data : BitVec 48 := 0
  busy : Bool := false
  hit : Bool := false
  heldBit : Bool := false
  reason : Nat := 0
  code : Nat := 0
  index : Nat := 0
  count : Nat := 0
  rkey : BitVec 80 := 0
  rdata : BitVec 48 := 0
  cmd : Option DirCmd := none
  deriving DecidableEq, Repr

/-- A change of one page word: position in the run, the page and tier words it was decided on, and the new page word. -/
structure WordChange where
  pos : Nat
  old : Nat
  tier : Nat
  new : Nat
  deriving DecidableEq, Repr

/-- A state-only swap that waits for an extent or for a node-update cycle (R471): page word changes of the run that a
partition's key names. -/
structure StateSwap where
  part : Nat
  key : BitVec 80
  changes : List WordChange
  deriving DecidableEq, Repr

structure DirState where
  entries : Store DirEntry := []
  shadows : Store DirShadow := []
  extents : Store Extent := []
  ports : Store DirPort := []
  /-- (tenant, context) whose TAIL bits are to be cleared (R73) -/
  tailClear : List (Nat × Nat) := []
  stateSwaps : List StateSwap := []
  /-- next entry the patrol compares (R77) -/
  patrolPos : Nat := 0
  /-- what is left of the ranges of issue cycles that this stroke allots to node updates and to ports, range by range
  (R75, 09 R244, R247), of the cycles it allots to the patrol, and of those that no line allots (09 R248) -/
  nodeRanges : List Nat := []
  portRanges : List Nat := []
  patrolCycles : Nat := 0
  freeCycles : Nat := 0
  /-- creates of a write whose cycles earlier strokes have given, by layer and KV group: the index of its staged mark
  (R70, 09 R247) -/
  paid : Store Nat := []
  /-- the pass in which ports were last served, and the next port whose turn comes in it (R75) -/
  portPass : Nat := 0
  portNext : Nat := 0
  deriving DecidableEq, Repr

/-! ### Residency (07_residency_and_tiers.md) and the tables of 02 and 05 -/

/-- Condition of a page slot (R180, R181). -/
structure SlotUse where
  /-- a page word of a LIVE, BUILT or GRACE extent names it, or a write has taken it -/
  holding : Bool := false
  awaiting : Bool := false
  /-- written since it was last zeroed -/
  written : Bool := false
  /-- vacated by an eviction of the scraper, whose extent is in GRACE (R181) -/
  scraped : Bool := false
  deriving DecidableEq, Repr

/-- The name of a page (02_kv_pages.md R30). -/
structure PageName where
  ctx : Nat
  layer : Nat
  group : Nat
  page : Nat
  deriving DecidableEq, Repr

/-- An engine-ready tile (R185, R186). -/
structure Tile where
  page : PageName
  part : Nat
  /-- the last byte is written -/
  stands : Bool
  /-- stroke in which it came to stand -/
  stoodAt : Nat
  firstPass : Nat
  lastPass : Nat
  /-- stroke in which the staging read issued -/
  issuedAt : Option Nat := none
  deriving DecidableEq, Repr

/-- A tier program under way (R190, R194). -/
structure TierProgram where
  page : PageName
  part : Nat
  tlpn : Nat
  /-- complete a spill to STATE 2 when it succeeds -/
  spill : Bool
  /-- a row write was applied after the read began -/
  touched : Bool
  /-- the function whose EVICT or WRITE_BACK waits for it -/
  fn : Option Nat
  /-- what the read gave: the page's bytes, at 0, and the data of the run's entry (03_page_directory.md R70) -/
  bytes : Mem
  seen : BitVec 48
  deriving DecidableEq, Repr

/-- A page that moves by a node swap: its position in the run, its page word when that was decided, and its new one. -/
structure PageChange where
  pos : Nat
  old : Nat
  tier : Nat
  new : Nat
  /-- a spill that the tier could not take, which drops the page (R191) -/
  full : Bool := false
  deriving DecidableEq, Repr

/-- A node swap of a residency operation that is not made yet (R177, R183; 03_page_directory.md R70, R71). -/
structure RunChange where
  part : Nat
  ctx : Nat
  layer : Nat
  group : Nat
  /-- first page of the run -/
  run : Nat
  moves : List PageChange
  /-- the function whose command it serves; none for the scraper, with the home it relieves -/
  fn : Option Nat
  home : Option Nat
  /-- the pages have been read and copied, the entry's data as read then -/
  seen : Option (BitVec 48) := none
  /-- the compare has failed once (03 R71) -/
  retried : Bool := false
  /-- it copies a staged row or the tail page: the layer and group is frozen from its read on (R183) -/
  freezes : Bool := false
  deriving DecidableEq, Repr

/-- A drop record: tenant, context, layer, KV group, first page and page count of the pages of one evicted unit that were
dropped (R192); while the unit is being evicted, its dropped pages so far. -/
structure DropRec where
  part : Nat
  tenant : Nat
  ctx : Nat
  layer : Nat
  group : Nat
  pages : List Nat
  deriving DecidableEq, Repr

/-- A STAGE, REHOME, EVICT or WRITE_BACK whose tiles, swaps or programs are not all done (R182). -/
structure ResOp where
  fn : Nat
  part : Nat
  tiles : List Nat
  pages : List PageName
  doneCount : Nat
  codes : List Nat
  deriving DecidableEq, Repr

/-- A MOVE_OUT or EXPORT_OUT under way (R183, R199, R200). -/
structure MoveOut where
  fn : Nat
  part : Nat
  conn : Nat
  release : Bool
  isExport : Bool
  /-- it copies a staged row or the tail page -/
  copiesTail : Bool
  /-- pages still to send -/
  unsent : List PageName
  /-- pages sent and not yet completed: (TAG, page) -/
  waiting : List (Nat × PageName)
  doneCount : Nat
  codes : List Nat
  startedAt : Nat
  /-- layer and group it has frozen since its first read -/
  frozen : Option (Nat × Nat × Nat)
  deriving DecidableEq, Repr

/-- The tier operation that has stalled (R206). -/
inductive StallOp where
  | mount (targets : List FlashTarget)
  /-- a staging read, by tile -/
  | tile (key : Nat)
  | program (page : PageName)
  /-- the flash read of the next page of an EXPORT_OUT or MOVE_OUT -/
  | exportPage (fn : Nat)
  /-- the flash read of a page of a REHOME -/
  | rehomePage (page : PageName)
  /-- the tier-engine command at the front of a function's queue -/
  | command (fn : Nat)
  deriving DecidableEq, Repr

structure ResState where
  /-- context descriptors, by handle (02_kv_pages.md R33) -/
  ctxs : Store (BitVec 64) := []
  /-- committed length L (05_attention_requests.md R131) -/
  lens : Store Nat := []
  /-- the stroke of the last COMMIT, plus 1, and the length in force before it in that stroke (05_attention_requests.md
  R130), by context -/
  lensBefore : Store (Nat × Nat) := []
  /-- staged mark S by (context * 2^17 + layer * 2^8 + group) (02_kv_pages.md R44) -/
  staged : Store Nat := []
  /-- contexts whose descriptor or length-table entry has an uncorrectable error (16_faults_and_recovery.md R415) -/
  ctxUe : List Nat := []
  /-- page slots by slot index (02_kv_pages.md R41) -/
  slots : Store SlotUse := []
  /-- tiles by stack * 57,344 + tile -/
  tiles : Store Tile := []
  programs : List TierProgram := []
  moveOuts : List MoveOut := []
  ops : List ResOp := []
  /-- node swaps under way, oldest first -/
  changes : List RunChange := []
  /-- units being evicted that have dropped pages, and the drop records posted to each partition's residency result ring
  (R192); the manual gives the ring no address and no layout -/
  dropping : List DropRec := []
  drops : Store (List DropRec) := []
  /-- units the scraper passes over since their swap was abandoned: partition, home, entry and chunk (03 R71) -/
  passed : List (Nat × Nat × Nat × Nat) := []
  /-- (partition, home) where the scraper is between its low and its high mark (R181, R191) -/
  scraping : List (Nat × Nat) := []
  /-- pages exported this pass (R200) -/
  exportsThisPass : Nat := 0
  /-- write-backs issued this pass, by partition (R194) -/
  wbThisPass : Store Nat := []
  /-- burnisher page operations done in this stroke, by stack (R181) -/
  burnThisStroke : Store Nat := []
  /-- link uses open in this stroke, by stack: bit mask of USE (09 R244) -/
  linkUse : Store Nat := []
  /-- highest USE that a free stroke of a stack's link has served so far (09 R244) -/
  linkDone : Store Nat := []
  deriving DecidableEq, Repr

/-- A NAND block (R204). -/
structure FlashBlock where
  erases : Nat := 0
  /-- codewords programmed, and reads, since its erase; the stroke of its first program since then -/
  used : Nat := 0
  reads : Nat := 0
  since : Nat := 0
  /-- a codeword on it needed more than 72 corrected bits -/
  marginal : Bool := false
  retired : Bool := false
  deriving DecidableEq, Repr

/-- The flash tier (R201 to R208). -/
structure FlashState where
  /-- FSH_STATUS; its MODE follows from start-up, hold mode and the plate -/
  mounted : Bool := false
  stalled : Bool := false
  cause : Nat := 0
  trMax : Nat := 0
  /-- raw capacity in use and its good part, bytes; FSH_CAPACITY.USABLE_GIB -/
  rawBytes : Nat := 0
  goodBytes : Nat := 0
  usableGib : Nat := 0
  /-- the mount has been ended by SKIP, and start-up goes on without a tier (R206) -/
  skipped : Bool := false
  /-- the mounted targets with what their parameter pages state (R202) -/
  targets : List FlashTarget := []
  /-- the channels have left SDR timing mode 0 for NV-LPDDR4, and the stroke of their last training (R201) -/
  lpddr : Bool := false
  trainedAt : Option Nat := none
  /-- blocks by (channel * 8 + target) * 2^20 + block; an unlisted good block is free and was never erased (R204) -/
  blocks : Store FlashBlock := []
  /-- the block each channel is programming, as its index plus 1 -/
  opened : Store Nat := []
  /-- the block of each codeword, as its index plus 1, by TLPN * 32 + codeword (R203) -/
  places : Store Nat := []
  /-- write sequence of each TLPN's codewords (R203) -/
  seqs : Store Nat := []
  /-- FSH_TARGETS by channel: PRESENT and EXCLUDED masks -/
  present : Store Nat := []
  excluded : Store Nat := []
  /-- a maintenance stroke for the tier is open in this stroke (09 R244) -/
  maint : Bool := false
  /-- the stalled operation and the stroke of its last try -/
  stallOp : Option StallOp := none
  retryAt : Nat := 0
  /-- TLPNs written and not trimmed -/
  written : List Nat := []
  /-- partition each TLPN was written for: the metadata of R203 -/
  owner : Store Nat := []
  /-- erase and program bookkeeping of the translation layer: write sequence (R203) -/
  writeSeq : Nat := 0
  deriving DecidableEq, Repr

/-! ### Gravers (04_graver_engines.md) -/

/-- A page a work descriptor names: its bytes and the rows to compute (05_attention_requests.md R137). -/
structure WorkPage where
  page : Nat
  /-- in a tile: `home` is stack * 57,344 + tile; otherwise the slot index -/
  tile : Bool
  home : Nat
  /-- first row and count of real tokens -/
  row : Nat
  count : Nat
  deriving DecidableEq, Repr

/-- One block (R103): the candidate group, or committed tokens. -/
structure Block where
  cand : Bool
  /-- chunk number in canonical reduction -/
  chunk : Nat
  pages : List WorkPage
  deriving DecidableEq, Repr

/-- A row record of an impression (06_impressions_and_collation.md R152). -/
structure Row where
  m : F32
  l : F32
  tokens : Nat
  o : List F32
  deriving DecidableEq, Repr

/-- A fragment (R152): KIND 0 whole, 1 chunk span, 2 candidate block, 3 complete. -/
structure Frag where
  kind : Nat
  lo : Nat
  hi : Nat
  rows : List Row
  deriving DecidableEq, Repr

/-- A coverage entry (R155). -/
structure Cov where
  base : Nat
  count : Nat
  cand : Bool
  status : Nat
  rows : BitVec 64
  deriving DecidableEq, Repr

/-- What one graver is given for one request. -/
structure Desc where
  req : Nat
  blocks : List Block
  /-- its window has opened (R245), with the window's length and its chain's in strokes; none for best-effort work -/
  opened : Bool := false
  windowLen : Option Nat := none
  chainLen : Option Nat := none
  deriving DecidableEq, Repr

/-- One 32-token group of a row's quantised weights (R101): its scale byte, and E4M3 codes or BF16 words. -/
structure WGroup where
  scale : Nat
  codes : List Nat
  deriving DecidableEq, Repr

/-- GRV_STATUS.STATE (R112). -/
inductive GState where
  | idle | working | fenced | gated
  deriving DecidableEq, Repr

/-- The block a graver has open. -/
structure OpenBlock where
  block : Block
  /-- sweeps ended: 0, 1, 2 or 3 -/
  swept : Nat
  /-- stroke in which it was opened -/
  openedAt : Nat
  /-- row maxima, sums and outputs -/
  rowMax : List F32
  sums : List F32
  outs : List (List F32)
  /-- rows excluded by R110 -/
  deadRows : List Nat
  /-- page numbers excluded by R109 -/
  deadPages : List Nat
  saturated : Bool
  /-- counted as an overrun already (R106) -/
  overrun : Bool
  deriving DecidableEq, Repr

structure Graver where
  st : GState := .idle
  precise : Bool := false
  part : Nat := 0
  /-- sheet bank states, 0 off, 1 retention, 2 on (R89); an unlisted bank is off -/
  banks : Store Nat := []
  /-- banks waking, with the stroke at which they are on -/
  waking : List (Nat × Nat) := []
  /-- the score sheet: the 32 lanes of each 128-byte word, by bank * 256 + word index (R86); an unlisted word is zero -/
  sheet : Store (List (BitVec 32)) := []
  /-- descriptors delivered, in order of their windows -/
  descs : List Desc := []
  /-- the request whose window has opened -/
  current : Option Nat := none
  block : Option OpenBlock := none
  /-- a block has been open in the present stroke: what TEL_GBUSY.BUSY counts -/
  busy : Bool := false
  /-- closed fragments of the current request, and its coverage so far -/
  frags : List Frag := []
  cov : List Cov := []
  cancelled : Bool := false
  /-- the sweep that ran when the CANCEL came has ended (R111) -/
  atBoundary : Bool := false
  /-- finished requests whose impressions wait for the chain -/
  finished : List (Nat × List Frag × List Cov) := []
  /-- the current or last work ran outside its planned strokes (09 R253) -/
  delayed : Bool := false
  /-- thermal protection was active on its island while its work was delayed (09 R254) -/
  heated : Bool := false
  /-- the stroke after the window, and after its chain, of the current request; none for best-effort work -/
  windowEnd : Option Nat := none
  chainEnd : Option Nat := none
  /-- stroke at which the work lease was last renewed (16 R418) -/
  renewed : Nat := 0
  /-- GRV_BLOCKS.DONE -/
  done : Nat := 0
  /-- GRV_CHAIN.UP_OK and DOWN_OK -/
  upOk : Bool := false
  downOk : Bool := false
  deriving DecidableEq, Repr

/-! ### The plate (08_plates.md) -/

/-- A range of slots and tiles on a graver stack (R216), in the record's units. -/
structure StackQuota where
  slotFirstK : Nat := 0
  slotCountK : Nat := 0
  tileFirst : Nat := 0
  tileCount : Nat := 0
  poolLow : Nat := 0
  poolHigh : Nat := 0
  deriving DecidableEq, Repr

/-- The PARTITION record (R216). -/
structure PartRec where
  valid : Bool := false
  canonical : Bool := false
  confidential : Bool := false
  dirBaseK : Nat := 0
  dirCountK : Nat := 0
  wbMax : Nat := 0
  tierFirstK : Nat := 0
  tierCountK : Nat := 0
  tierHighK : Nat := 0
  tierLowK : Nat := 0
  gs : List StackQuota := []
  /-- vault ranges: (SLOT_FIRST_K, SLOT_COUNT_K) -/
  vaults : List (Nat × Nat) := []
  vaultLow : Nat := 0
  vaultHigh : Nat := 0
  deriving DecidableEq, Repr

/-- A tenant record (R216, R217). -/
structure TenantRec where
  owner : Nat := 0
  used : Bool := false
  cls : Nat := 0
  vault : Bool := false
  spill : Bool := false
  wbTail : Bool := false
  floor : Nat := 0
  deriving DecidableEq, Repr

/-- A connection record (R217, R218). -/
structure ConnRec where
  used : Bool := false
  requester : Bool := false
  tenant : Nat := 0
  part : Nat := 0
  ports : Nat := 0
  peerNode : Nat := 0
  keySlot : Nat := 0
  window : Nat := 0
  peerConn : Nat := 0
  peerAddr : Nat := 0
  deriving DecidableEq, Repr

/-- A slot record (R219, R220) with its partition. -/
structure SlotRec where
  part : Nat := 0
  slot : Nat := 0
  conn : Nat := 0
  kind : Nat := 0
  candG : Nat := 0xFF
  bucket : Nat := 0
  lookups : Nat := 0
  shareLimit : Nat := 0
  /-- bit G: graver G serves the slot -/
  gravers : Nat := 0
  tree : Nat := 0xFFFF
  deriving DecidableEq, Repr

/-- A child position of a tree line (R220). -/
structure TreeChild where
  primary : Nat := 0
  backup : Nat := 0xFFFF
  base : Nat := 0
  limit : Nat := 0
  deriving DecidableEq, Repr

/-- A tree line (R220, R221) with its partition. -/
structure TreeLine where
  part : Nat := 0
  index : Nat := 0
  parentConn : Nat := 0xFFFF
  grace : Nat := 0
  level : Nat := 0
  close : Nat := 0
  ownBase : Nat := 0
  ownLimit : Nat := 0
  children : List TreeChild := []
  deriving DecidableEq, Repr

/-- A line of a line program (09_strokes_and_passes.md R243). -/
structure Line where
  stroke : Nat := 0
  pass : Nat := 0
  op : Nat := 0
  lenM1 : Nat := 0
  arg0 : Nat := 0
  arg1 : Nat := 0
  deriving DecidableEq, Repr

/-- An island's line program (R242, R243). -/
structure LineProg where
  periodLog2 : Nat := 0
  lines : List Line := []
  deriving DecidableEq, Repr

/-- A port of the PORTS section (R222, R223). -/
structure PortRec where
  mode : Nat := 0
  failover : Nat := 0
  mac : Nat := 0
  ip : Nat := 0
  deriving DecidableEq, Repr

/-- A plate, decoded (R210 to R223). -/
structure Plate where
  epoch : Nat := 0
  deltaSeq : Nat := 0
  detClass : Nat := 0
  /-- role bytes GS0 to GS5, VS0, VS1 -/
  roles : List Nat := []
  /-- allotment bytes G0 to G95 -/
  alloc : List Nat := []
  parts : Store PartRec := []
  tenants : Store TenantRec := []
  conns : Store ConnRec := []
  /-- KEYMAP words: (use, owner) -/
  keymap : Store (Nat × Nat) := []
  slots : List SlotRec := []
  trees : List TreeLine := []
  /-- best-effort graver masks by partition -/
  bestEffort : Store Nat := []
  lines : Store LineProg := []
  nodeId : Nat := 0
  native : Bool := false
  udpPort : Nat := 0
  etherType : Nat := 0
  ports : List PortRec := []
  deriving DecidableEq, Repr

/-- A plate store: the length of the plate in it, and what its bytes decode to. The bytes stand in stack memory, in two copies
(R226). -/
structure PlateStore where
  len : Nat := 0
  plate : Plate := {}
  deriving DecidableEq, Repr

/-- PLT_STATUS.STATE (R238). -/
inductive PltSt where
  | none | loading | valid | sealed | lost
  deriving DecidableEq, Repr

/-- PLT_DELTA_STATUS.PHASE (R238). -/
inductive DeltaPhase where
  | idle | loaded | armed | committed
  deriving DecidableEq, Repr

structure PlateState where
  active : Option PlateStore := none
  shadow : Option PlateStore := none
  /-- the plate bytes a LOAD has copied and is checking -/
  loading : Option (List Byte) := none
  /-- plates that deltas have replaced, newest first, each with the stroke of its swap: work admitted under one finishes in its
  windows (R236) -/
  prior : List (Nat × Plate) := []
  /-- STATE before the LOAD -/
  before : PltSt := .none
  /-- line programs the islands run; none: the built-in schedule (09 R249) -/
  running : Option (Store LineProg) := none
  /-- the islands switch to the sealed plate's lines at the next pass boundary (R228) -/
  switchPending : Bool := false
  /-- PLT_LOAD_ADDR, PLT_LOAD_LEN -/
  loadAddr : Nat := 0
  loadLen : Nat := 0
  /-- PLT_STATUS -/
  st : PltSt := .none
  reason : Nat := 0
  code : Nat := 0
  sect : Nat := 0
  deltaSeq : Nat := 0
  /-- PLT_DELTA.BOUNDARY, and the boundary of the armed delta -/
  boundary : Nat := 0
  armedAt : Nat := 0
  phase : DeltaPhase := .idle
  dcode : Nat := 0
  acked : Nat := 0
  /-- PLT_DIGEST and PLT_SHADOW_DIGEST -/
  digest : BitVec 384 := 0
  shadowDigest : BitVec 384 := 0
  /-- partitions held from ARM to the swap or abort (R232) -/
  held : List Nat := []
  /-- a plate was sealed since the start (R11, R181) -/
  everSealed : Bool := false
  deriving DecidableEq, Repr

/-! ### Attention requests (05_attention_requests.md) and the schedule (09_strokes_and_passes.md) -/

/-- Where a request stands. -/
inductive Phase where
  /-- taken in, before its check stroke -/
  | taken
  /-- checked, before its admission stroke or in the best-effort queue -/
  | checked
  /-- admitted, lookups under way -/
  | lookups
  /-- dispatched to gravers -/
  | dispatched
  /-- its IMPR has been handed over; some graver still works on it -/
  | answered
  deriving DecidableEq, Repr

/-- One query row converted to the operand format (04 R93): a scale byte per block and the element codes. -/
structure QRow where
  scales : List Nat
  codes : List Nat
  deriving DecidableEq, Repr

/-- A run looked up: its base page and the extent and page count the lookup returned. -/
structure RunHit where
  base : Nat
  ext : Option (Nat × Nat)
  deriving DecidableEq, Repr

/-- A request in flight or waiting for its check stroke. -/
structure Req where
  id : Nat
  tenant : Nat
  part : Nat
  /-- the connection it came on; none for a host command -/
  conn : Option Nat
  port : Nat := 0
  /-- function of the host queue it came from, with its list's SEQ and command index -/
  host : Option (Nat × Nat × Nat) := none
  /-- where in that function's BAR2 its IMPR goes -/
  out : Nat := 0
  body : List Byte
  /-- the context's descriptor at the check, and the partition's reduction mode -/
  desc : BitVec 64 := 0
  canon : Bool := false
  tag : Nat
  /-- stroke of acceptance of its first segment, and of its completion -/
  firstStroke : Nat
  doneStroke : Nat := 0
  /-- admission stroke of the occurrence it aims at -/
  occ : Option Nat := none
  /-- the slot it named and holds, or named and missed (its tree line) -/
  slot : Option SlotRec := none
  /-- the tree line it was admitted with (08_plates.md R236) -/
  tree : Option TreeLine := none
  bestEffort : Bool := false
  phase : Phase := .taken
  /-- committed length, covered range, admission time and pass -/
  len : Nat := 0
  lo : Nat := 0
  hi : Nat := 0
  admitTime : Nat := 0
  admitPass : Nat := 0
  /-- run bases still to look up, and the hits -/
  runs : List Nat := []
  hits : List RunHit := []
  qrows : List QRow := []
  cov : List Cov := []
  /-- pages whose planned staging read has failed (07_residency_and_tiers.md R205) -/
  tierLost : List Nat := []
  /-- gravers that received a descriptor -/
  gravers : List Nat := []
  cancelled : Bool := false
  slip : Bool := false
  deriving DecidableEq, Repr

/-- Keys dealt to a graver that no received fragment accounts for yet (R134, R168). -/
structure Dealt where
  graver : Nat
  cand : Bool
  base : Nat
  count : Nat
  deriving DecidableEq, Repr

/-- What reached the collator from one source and is not merged yet. -/
structure Arrival where
  /-- graver stack 0 to 5, or 16 + child position; before the request is admitted a child has no position yet -/
  source : Nat
  /-- the connection a child's IMPR came on -/
  conn : Nat := 0
  frags : List Frag
  cov : List Cov
  status : Nat
  slip : Bool
  collapsed : Bool
  candIn : Bool
  sources : Nat
  admitAt : Nat
  /-- a child's shape: CANON, L, HEAD_DIM, NROWS; and whether its body is malformed (R172) -/
  canon : Bool := false
  len : Nat := 0
  headDim : Nat := 0
  nrows : Nat := 0
  malformed : Bool := false
  /-- it came within the grace (R171) -/
  inGrace : Bool := false
  /-- keys that a local source was dealt -/
  keys : List Dealt := []
  deriving DecidableEq, Repr

/-- A collator entry (06_impressions_and_collation.md R167 to R173). -/
structure ColEntry where
  tenant : Nat
  tag : Nat
  /-- this node's own request, once admitted -/
  req : Option Nat := none
  /-- what its gravers were dealt and have not delivered -/
  dealt : List Dealt := []
  arrivals : List Arrival := []
  /-- sources merged or held so far -/
  taken : List Arrival := []
  /-- coverage and conditions of what no taken source accounts for: late and refused sources -/
  cov : List Cov := []
  codes : List Nat := []
  /-- child positions accepted -/
  accepted : List Nat := []
  /-- merges of this entry that HUB_COL_MERGES has counted -/
  merged : Nat := 0
  /-- stroke of its CLOSE line once that line has run -/
  closedAt : Option Nat := none
  /-- its close stroke has moved later under thermal protection (09 R254): the stroke it was planned in -/
  closeMoved : Option Nat := none
  /-- pass in which a child opened it (R171) -/
  openedPass : Nat := 0
  deriving DecidableEq, Repr

structure SchedState where
  reqs : List Req := []
  nextReq : Nat := 0
  /-- best-effort queues, by partition: request ids in the order of their checks (R126) -/
  queues : Store (List Nat) := []
  /-- collator entries -/
  entries : List ColEntry := []
  /-- (tenant, TAG, pass) of entries closed in the last 64 passes that had children: a later child IMPR is an orphan (R173) -/
  closed : List (Nat × Nat × Nat) := []
  /-- SCH_ATTN_INFLIGHT.PEAK -/
  peak : Nat := 0
  /-- lines applied in this stroke: (island, line index) -/
  applied : List (Nat × Nat) := []
  /-- best-effort checks made in this stroke (R248) -/
  checks : Nat := 0
  /-- occurrences of write and move slots that a message has been admitted in: (slot, admission stroke) (05 R124, R140) -/
  slotTaken : List (Nat × Nat) := []
  /-- extra refresh strokes due: (stack, stroke) (R401) -/
  extraRefresh : List (Nat × Nat) := []
  /-- next DRAM channel to retrain, by stack (09 R244) -/
  retrainNext : Store Nat := []
  /-- slip in this pass and in the previous one (HEARTBEAT FLAGS.SLIP) -/
  slipNow : Bool := false
  slipPrev : Bool := false
  /-- UNORDERED ports (R256) -/
  unordered : Nat := 0
  deriving DecidableEq, Repr

/-! ### Fabric ports (11_fabric_ports.md) -/

/-- PRT_STATUS lane states (R285). -/
inductive LaneSt where
  | off | training | active | retired
  deriving DecidableEq, Repr

structure Lane where
  st : LaneSt := .off
  /-- stroke since which the lane has held lock without an uncorrectable codeword -/
  lockSince : Option Nat := none
  /-- wire bytes queued (R287) -/
  queued : Nat := 0
  deriving DecidableEq, Repr

/-- PRT_STATUS.PORT_STATE (R307). -/
inductive PortSt where
  | down | training | up | dropped
  deriving DecidableEq, Repr

/-- A SEND line that runs or waits to run (R295, 09 R255). -/
structure SendRun where
  /-- its index in the island's line program -/
  idx : Nat
  conn : Nat
  cls : Nat
  bytes : Nat
  /-- planned first stroke and length, and the length it runs for -/
  planned : Nat
  len : Nat
  runLen : Nat
  /-- its first stroke, once it has started; strokes it has run -/
  start : Option Nat
  done : Nat
  /-- it moved with a close stroke under thermal protection (09 R254) -/
  heat : Bool
  deriving DecidableEq, Repr

structure Port where
  st : PortSt := .down
  lanes : List Lane := [{}, {}, {}, {}]
  stretched : Bool := false
  stretchPending : Bool := false
  anOff : Bool := false
  /-- credit by conn * 8 + class (R295) -/
  credit : Store Nat := []
  granted : Nat := 0
  spent : Nat := 0
  deficit : Nat := 0
  /-- connection served last in step 2 of R297, by class -/
  lastServed : Store Nat := []
  sends : List SendRun := []
  /-- the smoothing queue: received frames (R299) -/
  smooth : List RxFrame := []
  smoothPeak : Nat := 0
  /-- PRT_TX_RAW, PRT_TX_CODED -/
  txRaw : Nat := 0
  txCoded : Nat := 0
  /-- gated by software (15 R400) -/
  gated : Bool := false
  deriving DecidableEq, Repr

/-! ### Transport (12_transport.md) -/

/-- TFX_CONN_STATE.STATE (R338). -/
inductive ConnSt where
  | unused | keyless | active | closing | failed
  deriving DecidableEq, Repr

/-- A TFX header, by field (R310 to R311). -/
structure Hdr where
  typ : Nat := 0
  op : Nat := 0
  cls : Nat := 0
  epoch : Nat := 0
  next : Bool := false
  clear : Bool := false
  kind : Nat := 0
  last : Bool := false
  conn : Nat := 0
  msgSeq : Nat := 0
  seq : Nat := 0
  ackPsn : Nat := 0
  sack : Nat := 0
  credit : Nat := 0
  credit0 : Nat := 0
  segOff : Nat := 0
  segLen : Nat := 0
  attnCredit : Nat := 0
  deriving DecidableEq, Repr

/-- What a message the node sends is for: how its end is reported. -/
inductive Purpose where
  /-- IMPR of the request with this id, completions, beats, barriers: no local report -/
  | none
  /-- host SEND: the RESP reaches the connection's ring under this TAG -/
  | hostSend (tag : Nat)
  /-- fired work request of this slot -/
  | workReq (slot : Nat)
  /-- MOVE or EXPORT of a MOVE_OUT -/
  | moveOut (fn : Nat)
  /-- remote load with this id -/
  | remoteLoad (id : Nat)
  | remoteStore
  deriving DecidableEq, Repr

/-- A message queued for sending (R311, R313). -/
structure OutMsg where
  typ : Nat
  isResp : Bool
  cls : Nat
  kind : Nat
  msgSeq : Nat
  tag : Nat
  body : List Byte
  /-- bytes already cut into frames -/
  sent : Nat
  purpose : Purpose
  /-- IMPR or completion carries ST_PLAN_SLIP -/
  slip : Bool
  /-- a planned IMPR whose SEND line has not started: its close stroke (09 R252) -/
  await : Option Nat
  /-- a planned IMPR -/
  planned : Bool
  /-- no answer is awaited: a TRIG, or an RDMA_WR with QUIET -/
  mute : Bool
  /-- the port on whose queue it stays (11_fabric_ports.md R293) -/
  via : Option Nat
  deriving DecidableEq, Repr

/-- A frame sent and not yet acknowledged (R325). -/
structure SentFrame where
  hdr : Hdr
  coded : List Byte
  key : Key
  /-- stroke of the last sending -/
  at_ : Nat
  timeouts : Nat
  /-- later PSNs that SACK has marked, and whether it was resent for that -/
  later : Nat
  sackSent : Bool
  /-- queued for retransmission -/
  again : Bool
  port : Nat
  lane : Nat
  tag : Nat
  purpose : Purpose
  mute : Bool
  /-- waiting to be sent again, the port on whose queue it stays (11_fabric_ports.md R293) -/
  via : Option Nat
  deriving DecidableEq, Repr

/-- A segment that has arrived: its offset, its PSN and its bytes. -/
structure Segment where
  off : Nat
  psn : Nat
  data : List Byte
  deriving DecidableEq, Repr

/-- A message being reassembled or complete and waiting for its turn (R316, R330). -/
structure Partial where
  msgSeq : Nat
  class0 : Bool
  typ : Nat
  isResp : Bool
  cls : Nat
  segs : List Segment := []
  /-- offset and PSN of the LAST segment, once it has arrived -/
  last : Option (Nat × Nat) := none
  /-- stroke in which the last missing segment arrived (R316) -/
  doneAt : Option Nat := none
  /-- discarded whole under R315: later segments are swallowed -/
  dead : Bool := false
  /-- of the first segment: receiving port, stroke of acceptance, an ATTN beyond ATTN_CREDIT -/
  port : Nat := 0
  at_ : Nat := 0
  beyond : Bool := false
  deriving DecidableEq, Repr

/-- A message handed to its consumer (R316, R330). -/
structure InMsg where
  conn : Nat
  typ : Nat
  isResp : Bool
  cls : Nat
  body : List Byte
  port : Nat
  /-- stroke of acceptance of its first segment, and of its completion -/
  at_ : Nat
  doneAt : Nat
  beyond : Bool
  deriving DecidableEq, Repr

/-- One credit pool of a connection as the node keeps it for the peer (R472). -/
structure Pool where
  used : Nat := 0
  returned : Nat := 0
  headroom : Nat := 0
  /-- limit advertised so far (not reduced mod 2^16) -/
  limit : Nat := 0
  /-- most units outstanding in this group of 64 passes -/
  peak : Nat := 0
  deriving DecidableEq, Repr

structure Conn where
  st : ConnSt := .unused
  sendEpoch : Nat := 0
  /-- rollover: last step reached, and the pass of step 1 (R319) -/
  rollStep : Nat := 0
  rollPass : Nat := 0
  peerNext : Bool := false
  peerClear : Bool := false
  nextTx : Nat := 0
  nextRx : Nat := 0
  ackSerial : Nat := 0
  /-- PSNs above NEXT_RX that are held (R323) -/
  held : List Nat := []
  partials : List Partial := []
  /-- next MSG_SEQ to send and to deliver: class 0, classes 1 to 7 -/
  seqTx0 : Nat := 0
  seqTx : Nat := 0
  seqRx0 : Nat := 0
  seqRx : Nat := 0
  queue : List OutMsg := []
  unacked : List SentFrame := []
  /-- the highest ACK_PSN taken from the peer (R324) -/
  ackTo : Nat := 0
  /-- limits taken from the peer, and what the node consumed (R326) -/
  limit : Nat := 36
  limit0 : Nat := 36
  attnLimit : Nat := 4
  consumed : Nat := 0
  consumed0 : Nat := 0
  pool : Pool := {}
  pool0 : Pool := {}
  attn : Pool := {}
  deriving DecidableEq, Repr

/-- A message with an answer whose RESP has not arrived. -/
structure Awaiting where
  tag : Nat
  typ : Nat
  purpose : Purpose
  deriving DecidableEq, Repr

/-- The rest of a connection's state. -/
structure ConnAux where
  /-- DATA or RESP frames since the last acknowledgement was sent, and the stroke of the oldest (R324) -/
  owed : Nat := 0
  oldest : Nat := 0
  ackNow : Bool := false
  /-- credit limits last sent -/
  sentLimit : Nat := 0
  sentLimit0 : Nat := 0
  ackPass : Nat := 0
  /-- DATA/RESP and ACK frames sent under each epoch key (R319) -/
  dataSent : List Nat := [0, 0]
  acksSent : List Nat := [0, 0]
  /-- ports that the connection has moved to by R292, since it left its home port, in order -/
  route : List Nat := []
  ring : Option Nat := none
  closeAt : Nat := 0
  /-- declared lost (09 R259), and when the last heartbeat was accepted, in strokes -/
  lost : Bool := false
  lastBeat : Nat := 0
  /-- an ACK frame stands ready to leave -/
  ackReady : Bool := false
  waits : List Awaiting := []
  /-- the record of a connection that a delta removed, while it finishes (08_plates.md R236) -/
  oldRec : Option ConnRec := none
  /-- group of 64 passes whose credit was last reviewed (R472) -/
  group : Nat := 0
  /-- ROLL_STALL has been raised for this rollover -/
  stalled : Bool := false
  deriving DecidableEq, Repr

/-- A registered region (R331). -/
structure Region where
  live : Bool := false
  /-- the index has been registered before -/
  seen : Bool := false
  /-- true: BAR2 of PF0's hub SRAM as function `fn` sees it; false: host memory -/
  bar2 : Bool := false
  fn : Nat := 0
  base : Nat := 0
  len : Nat := 0
  tenant : Nat := 0
  rights : Nat := 0
  kind : Nat := 0
  gen : Nat := 0
  deriving DecidableEq, Repr

/-- A posted work request (R335). -/
structure WorkReq where
  slot : Nat
  counter : Nat
  threshold : Nat
  conn : Nat
  typ : Nat
  cls : Nat
  ring : Nat
  fn : Nat
  body : Nat
  bodyLen : Nat
  tag : Nat
  fired : Bool
  deriving DecidableEq, Repr

/-- What a ring is to receive next: a message, RESP or local completion (R335, R336). -/
structure RingMsg where
  conn : Nat
  typ : Nat
  op : Nat
  tag : Nat
  status : Nat
  body : List Byte
  /-- class of the message whose credit returns when it is written -/
  cls : Option Nat
  deriving DecidableEq, Repr

/-- A receive ring (R336 to R338). -/
structure Ring where
  bufBase : Nat := 0
  cplBase : Nat := 0
  sizeLog2 : Nat := 0
  enable : Bool := false
  post : Nat := 0
  consumed : Nat := 0
  cplNext : Nat := 0
  phase : Bool := true
  waiting : List RingMsg := []
  /-- bytes of the front message already written, and the buffers it used -/
  written : Nat := 0
  firstBuf : Nat := 0
  nbuf : Nat := 0
  /-- bytes written into the last buffer taken; none when the next byte opens a buffer -/
  fill : Option Nat := none
  /-- the next frame waits for buffers, all posted ones reserved for it; the stroke of that or of the last post -/
  waits : Bool := false
  reservedAt : Nat := 0
  deriving DecidableEq, Repr

/-- Trigger counters (R334): value and the tenant they are allotted to. -/
structure Trigger where
  value : Nat := 0
  tenant : Option Nat := none
  deriving DecidableEq, Repr

structure TfxState where
  conns : Store Conn := []
  aux : Store ConnAux := []
  /-- messages handed to consumers and not yet taken -/
  inbox : List InMsg := []
  regions : Store Region := []
  triggers : Store Trigger := []
  workReqs : List WorkReq := []
  rings : Store Ring := []
  /-- TFX_CONN_SEL -/
  connSel : Nat := 0
  /-- TFX_NEXTHOP by port -/
  nextHop : Store Nat := []
  /-- ATTN tokens a host command holds -/
  hostTokens : Nat := 0
  /-- a RESP or message whose TAG the node allots next -/
  nextTag : Nat := 1
  deriving DecidableEq, Repr

/-! ### Host attachment (13_host_attachment.md) -/

/-- An accepted command list (R346 to R349). -/
structure CmdList where
  seq : Nat
  /-- BAR2 offset of the list in bytes, and its command count -/
  off : Nat
  ncmd : Nat
  part : Nat
  stop : Bool
  irq : Bool
  /-- the status with which the list ends before its first command: its header breaks R7 or names another partition (R348), or
  it comes from PF0 and names an assigned partition (R345) -/
  refused : Option Nat
  /-- index of the next command to start -/
  next : Nat
  /-- results of commands that have ended, by index: 0x10000 + STATUS, REASON, VALUE -/
  results : Store (Nat × Nat × Nat)
  /-- stopped by STOP (R349) -/
  stopped : Bool
  deriving DecidableEq, Repr

structure Queue where
  enable : Bool := false
  seq : Nat := 0
  lists : List CmdList := []
  deriving DecidableEq, Repr

/-- A host load at BAR4 waiting for its RESP (R354, R355). -/
structure RemoteLoad where
  id : Nat
  window : Nat
  len : Nat
  at_ : Nat
  deriving DecidableEq, Repr

/-- A remote window (R354, R357). -/
structure RWin where
  conn : Nat := 0
  valid : Bool := false
  watch : Bool := false
  rkey : Nat := 0
  base : Nat := 0
  deriving DecidableEq, Repr

structure HostState where
  /-- queues by 8 * function + class (R346) -/
  queues : Store Queue := []
  /-- HUB_HOST_STATUS -/
  speed : Nat := 0
  width : Nat := 0
  bifurcated : Bool := false
  cxlIo : Bool := false
  cxlCache : Bool := false
  cxlMem : Bool := false
  linkBUp : Bool := false
  /-- HUB_LINKB -/
  linkBPart : Nat := 0
  linkBValid : Bool := false
  /-- owners of BAR2 pages that are not PF0's alone -/
  b2map : Store Nat := []
  rwins : Store RWin := []
  loads : List RemoteLoad := []
  nextLoad : Nat := 0
  /-- the latch of R12: (function, register offset, high half) -/
  latch : Option (Nat × Nat × Nat) := none
  deriving DecidableEq, Repr

/-! ### The memories -/

structure MemState where
  /-- the page slots and tiles of all stacks, at stack * 2^36 + stack address (02_kv_pages.md R42,
  07_residency_and_tiers.md R185) -/
  stk : Mem := []
  /-- tier pages, at TLPN * 69,632 + byte -/
  tier : Mem := []
  /-- the 128 MiB of hub SRAM behind BAR2 -/
  bar2 : Mem := []
  /-- host memory as the node's DMA sees it -/
  host : Mem := []
  /-- TRU_MBX_REQ and TRU_MBX_RESP -/
  mbxReq : Mem := []
  mbxResp : Mem := []
  deriving DecidableEq, Repr

/-! ### Trust (14_trust_and_isolation.md) -/

/-- One position of a key slot: two ranks, the current one, and whether the position is live (R368). -/
structure KeyPos where
  rank0 : Option (BitVec 512) := none
  rank1 : Option (BitVec 512) := none
  current : Nat := 0
  live : Bool := false
  deriving DecidableEq, Repr

/-- A rank that a frame on its way through a port's cipher stage has latched (R369): the position (slot * 2 + position), the rank,
where the frame is, and the wire bytes up to the frame's end that have still to leave. -/
structure KeyLatch where
  pos : Nat
  rank : Nat
  port : Nat
  lane : Nat
  left : Nat
  deriving DecidableEq, Repr

/-- How a key command came: by the mailbox, or as an SPDM vendor-defined request inside a session (R371, R377). -/
inductive Via where
  | mailbox
  | spdm (binding : Binding) (session : Nat)
  deriving DecidableEq, Repr

/-- A curve-engine operation (R366). -/
inductive CurveOp where
  | offerPoint (via : Via) (conn epoch scalar : Nat)
  | offerSign (via : Via) (conn epoch scalar : Nat) (point : List Byte)
  | accept (via : Via) (conn epoch : Nat) (point : List Byte)
  | mult (scalar : Nat) (point : List Byte)
  | sign (binding : Binding) (session : Option Nat) (message : List Byte)
  | exchange (binding : Binding) (point : List Byte)
  deriving DecidableEq, Repr

/-- An offer's scalar and the stroke of its response (R365). -/
structure Offer where
  conn : Nat
  epoch : Nat
  scalar : Nat
  point : List Byte
  at_ : Nat
  deriving DecidableEq, Repr

/-- TDI states (R379). -/
inductive Tdi where
  | unlocked | locked | run | error
  deriving DecidableEq, Repr

/-- A scrub (R381 to R383). -/
structure Scrub where
  tenantScope : Bool
  id : Nat
  step : Nat
  repeated : Bool
  failed : Bool
  running : Bool
  /-- what the plate in force at its start gave the party: the partition (a tenant's owner), its record, its tenants, its
  connections with their key slots, and the flash slots of the partition -/
  part : Nat
  record : PartRec
  tenants : List Nat
  conns : List (Nat × Nat)
  flash : List Nat
  /-- slots and tiles a tenant's extents named, noted at step 2 -/
  slots : List Nat
  tiles : List Nat
  tlpns : List Nat
  extents : List Nat
  deriving DecidableEq, Repr

/-- An IDE stream (R376). -/
structure IdeStream where
  key : Key
  vf : Option Nat
  secure : Bool
  session : Nat
  deriving DecidableEq, Repr

structure TrustState where
  /-- key-slot positions by slot * 2 + position -/
  keys : Store KeyPos := []
  /-- ranks that running operations have latched, and the writes that wait for one, in the order of receipt (R369) -/
  latches : List KeyLatch := []
  keyWrites : List (Nat × BitVec 512) := []
  offers : List Offer := []
  /-- curve operations in arrival order; the front one runs since `curveAt` -/
  curve : List CurveOp := []
  curveAt : Nat := 0
  /-- mailbox: BUSY, CODE, REASON, RESP_LEN, and the CMD being served -/
  busy : Bool := false
  code : Nat := 0
  reason : Nat := 0
  respLen : Nat := 0
  cmd : Option Nat := none
  /-- TRU_STATUS -/
  lifecycle : Nat := 0
  idOk : Bool := false
  fwOk : Bool := false
  svnTc : Nat := 0
  svnHub : Nat := 0
  /-- SVN_TC and SVN_HUB as measurement block 4 has them, since stage 0 (R374) -/
  measuredSvn : Nat × Nat := (0, 0)
  /-- counts that FUSE_SVN has burnt up to -/
  burntTc : Nat := 0
  burntHub : Nat := 0
  /-- TDIs by VF; an unlisted VF is CONFIG_UNLOCKED -/
  tdis : Store Tdi := []
  /-- session that locked each VF -/
  tdiSession : Store Nat := []
  scrubs : List Scrub := []
  scrubFailed : Bool := false
  streams : Store IdeStream := []
  /-- open SPDM sessions -/
  sessions : List Nat := []
  nextSession : Nat := 1
  draws : Nat := 0
  deriving DecidableEq, Repr

/-! ### Power and cooling (15_start_power_cooling.md) -/

/-- DRAM bands (R401). -/
inductive Band where
  | normal | double | throttle | critical | shutdown
  deriving DecidableEq, Repr

/-- A stack's thermal state (R401, R402). -/
structure StackThermal where
  temp : Int := 0
  band : Band := .normal
  /-- band to enter at the next refresh stroke, or to fall to at the next pass boundary -/
  next : Option Band := none
  /-- stroke since which the reading has been above 100 degrees -/
  hotSince : Option Nat := none
  junction : Int := 0
  /-- stroke since which the junction has been at or above 110 degrees -/
  junctionHot : Option Nat := none
  demand : Nat := 0
  /-- stroke of the last change of the demand, or since which its direction stands -/
  demandAt : Nat := 0
  /-- clock level of the stack's graver island, from its last strobe on (R395) -/
  level : Nat := 0
  deriving DecidableEq, Repr

/-- Start-up (R389 to R394). -/
structure StartState where
  stage : Nat := 0
  /-- the stage's own work is under way (false: waiting at stage 0 for VAUX_3V3 or for main power) -/
  stageRunning : Bool := false
  /-- stroke in which the stage began -/
  stageAt : Nat := 0
  stage0Done : Bool := false
  stalled : Bool := false
  cause : Nat := 0
  failedStacks : Nat := 0
  /-- strokes of node time counted so far (R393) -/
  nodeStrokes : Nat := 0
  regulatorFails : Nat := 0
  vaux : Bool := false
  mainOn : Bool := false
  vinMv : Nat := 0
  /-- stroke since which VIN_MAIN has been in range -/
  vinSince : Option Nat := none
  vinFaulted : Bool := false
  /-- pins and straps (18_package_and_signals.md R460 to R462) -/
  sysRst : Bool := true
  strapBifur : Bool := false
  strapSmbA : Nat := 0
  thermTrip : Bool := false
  /-- orderly power-down asked for (R408), with its stroke -/
  offAt : Option Nat := none
  deriving DecidableEq, Repr

structure PowerState where
  hold : Bool := false
  /-- HOLD_CAUSE bits -/
  holdCause : Nat := 0
  cap : Nat := 0xC80
  capEff : Nat := 0xC80
  /-- PWR_MEAS -/
  pPass : Nat := 0
  pSec : Nat := 0
  vin : Nat := 0
  iin : Nat := 0
  /-- sums and counts of the samples of this pass and this second -/
  sumPass : Nat := 0
  numPass : Nat := 0
  sumSec : Nat := 0
  numSec : Nat := 0
  sumTel : Nat := 0
  numTel : Nat := 0
  lastWatts : Nat := 0
  demand : Nat := 0
  below : Nat := 0
  /-- samples in a row at demand 15 with input power above 3,200 W (R397) -/
  at15 : Nat := 0
  stacks8 : Store StackThermal := []
  hubJunction : Int := 0
  hubHot : Option Nat := none
  /-- PWR_GATE and PWR_GGATE requests and pending bits -/
  portDown : Nat := 0
  flashDown : Bool := false
  ggate : BitVec 96 := 0
  ggatePend : BitVec 96 := 0
  deriving DecidableEq, Repr

/-- Gating that has taken effect and the coolant loop (R400, R404, R405). -/
structure CoolState where
  flashGated : Bool := false
  portPend : Nat := 0
  flashPend : Bool := false
  /-- link-disable requests deferred by secure hold, by link -/
  linkPend : Nat := 0
  /-- THM_COOL -/
  inTop : Nat := 0
  outTop : Nat := 0
  inBot : Nat := 0
  outBot : Nat := 0
  flowTop : Nat := 0
  flowBot : Nat := 0
  warn : Bool := false
  /-- stroke since which the warning stands, and of its last standing -/
  warnSince : Nat := 0
  lastWarn : Option Nat := none
  /-- stroke since which a flow has been below 0.5 L/min -/
  lowFlowSince : Option Nat := none
  /-- a flow window has ended -/
  windows : Nat := 0
  deriving DecidableEq, Repr

/-! ### Faults and events (16_faults_and_recovery.md) -/

/-- An entry of the pending FIFO, or a record of the trace ring before its COMMIT word (R430). -/
structure Record where
  time : Nat
  cls : Nat
  severity : Nat
  code : Nat
  unit : Nat
  args : List Byte
  deriving DecidableEq, Repr

/-- A wear score (R437). -/
structure Wear where
  score : Nat := 0
  warn : Bool := false
  peak : Nat := 0
  deriving DecidableEq, Repr

/-- What a unit has counted since the last whole second towards its wear score (R437): corrected errors, retries, retrainings,
uncorrectable errors. -/
structure WearCount where
  c : Nat := 0
  r : Nat := 0
  t : Nat := 0
  u : Nat := 0
  deriving DecidableEq, Repr

structure FaultState where
  lastCode : Nat := 0
  lastUnit : Nat := 0
  /-- uncorrectable errors of the last 62,500 passes: (address identity, pass) (R416) -/
  ueSeen : List (Nat × Nat) := []
  fencedG : BitVec 96 := 0
  fencedPorts : Nat := 0
  fencedStacks : Nat := 0
  fencedChannels : Nat := 0
  fencedCollator : Bool := false
  wearSel : Nat := 0
  wear : Store Wear := []
  /-- second of the last wear update, and what units have counted since -/
  wearSecond : Nat := 0
  wearIn : Store WearCount := []
  recon : Nat := 0
  /-- units the last reconciliation disagreed on -/
  reconBad : List Nat := []
  /-- EVT_HEAD.SEQ; the trace ring itself lies in the memory of VS1 -/
  seq : Nat := 0
  fifo : List Record := []
  fifoPeak : Nat := 0
  lost : Nat := 0
  lostSinceRead : Nat := 0
  fold : Store Nat := []
  evtIndex : Nat := 0
  evtData : List Byte := []
  /-- units that UNFENCE has passed: they return to service at the next pass boundary (R425) -/
  unfencing : List Nat := []
  /-- pass of the last RESIDUE fault, and strokes of control-core resets (R424) -/
  lastResidue : Option Nat := none
  coreResets : List Nat := []
  deriving DecidableEq, Repr

/-! ### Management (17_management_and_registers.md) -/

/-- HUB_MGMT_STATUS.UPDATE (R455). -/
inductive UpdateSt where
  | idle | learn | ready | download | verify | apply | activation
  deriving DecidableEq, Repr

/-- A boot-flash bank of a component (R449). -/
structure Bank where
  valid : Bool := true
  svn : Nat := 0
  version : BitVec 32 := 0
  image : List Byte := []
  signatureOk : Bool := true
  /-- written during the run; otherwise the bank holds what Config names -/
  fresh : Bool := false
  deriving DecidableEq, Repr

/-- An MCTP message in assembly (R442). -/
structure Assembly where
  tag : Nat
  nextSeq : Nat
  bytes : List Byte
  deriving DecidableEq, Repr

structure MgmtState where
  eidSmbus : Nat := 0
  eidI3c : Nat := 0
  eidPcie : Nat := 0
  tcBank : Nat := 0
  hubBank : Nat := 0
  tcNext : Nat := 0
  hubNext : Nat := 0
  update : UpdateSt := .idle
  /-- component being updated, and stroke of the agent's last message -/
  component : Nat := 0
  agentAt : Nat := 0
  verifyFailed : Bool := false
  /-- banks by 2 * component + bank, component 0 trust core, 1 hub -/
  banks : Store Bank := []
  tcVersion : BitVec 32 := 0
  hubVersion : BitVec 32 := 0
  /-- assembly buffers by binding 0 to 2, and complete messages waiting -/
  assembly : Store Assembly := []
  messages : List (Nat × List Byte) := []
  /-- PLDM events queued: data bytes; receiver; tries of the front event and stroke of the last try -/
  events : List (List Byte) := []
  receiver : Option Nat := none
  tries : Nat := 0
  triedAt : Nat := 0
  /-- sensor readings and their threshold state, by sensor ID -/
  sensors : Store Int := []
  crossed : Store Nat := []
  grade : Bool := false
  serial : BitVec 64 := 0
  deriving DecidableEq, Repr

/-! ### Telemetry (17_management_and_registers.md R452, R455) -/

structure Counts where
  admitted : Nat := 0
  bestEffort : Nat := 0
  imprSent : Nat := 0
  refused : Nat := 0
  slipResults : Nat := 0
  droppedTokens : Nat := 0
  lookups : Nat := 0
  portCmds : Nat := 0
  levelMax : Nat := 0
  /-- per graver stack: BUSY, CLAIMED, REFRESH -/
  busy : Store Nat := []
  claimed : Store Nat := []
  refresh : Store Nat := []
  /-- per port: TX_BYTES, RX_BYTES -/
  tx : Store Nat := []
  rx : Store Nat := []
  deriving DecidableEq, Repr

structure TelState where
  live : Counts := {}
  snap : Counts := {}
  seq : Nat := 0
  pass : Nat := 0
  passes : Nat := 0
  pAvg : Nat := 0
  dirLaps : Nat := 0
  retrains : Nat := 0
  adapts : Nat := 0
  flashMaint : Nat := 0
  /-- patrol position and laps, by stack -/
  patrol : Store Nat := []
  laps : Store Nat := []
  deriving DecidableEq, Repr

/-! ### What leaves the node -/

/-- The Ethernet, IPv6 and UDP fields of a frame (12_transport.md R309). With native framing the fields of IPv6 and UDP are
zero. The UDP checksum is that of the frame as sent. -/
structure FrameAddr where
  dstMac : Nat
  srcMac : Nat
  etherType : Nat
  trafficClass : Nat
  flowLabel : Nat
  srcIp : Nat
  dstIp : Nat
  udpSrc : Nat
  udpDst : Nat
  /-- IPv6 version, next header and hop limit; 0 in native framing -/
  ipVersion : Nat
  nextHeader : Nat
  hopLimit : Nat
  deriving DecidableEq, Repr

/-- What the node has put out at its pins and buses, in order (notes/assumptions/4.md). -/
inductive Output where
  /-- a frame on a lane -/
  | frame (port lane : Nat) (addr : FrameAddr) (hdr : Hdr) (coded : List Byte) (key : Key) (size : Nat)
  /-- data returned to a register read, of a width in bytes -/
  | readData (value : BitVec 64) (width : Nat)
  | msix (fn vector : Nat)
  /-- a host load at BAR4 completes: data, Completer Abort or Unsupported Request -/
  | loadData (id : Nat) (data : List Byte)
  | completerAbort (id : Nat)
  | unsupportedRequest
  /-- an MCTP response or event message on a binding -/
  | mctp (binding : Nat) (message : List Byte)
  /-- the registration pulse of R270, the remote-fault signal of R285 -/
  | registrationPulse
  | remoteFault (port lane : Nat)
  /-- the level of BARRIER_OUT -/
  | barrierOut (high : Bool)
  deriving DecidableEq, Repr

/-! ### The whole node -/

structure State where
  /-- the commands that wait, first in first out -/
  pending : List Instr := []
  time : TimeState := {}
  bar : BarState := {}
  dir : DirState := {}
  res : ResState := {}
  fsh : FlashState := {}
  gravers : Store Graver := []
  plt : PlateState := {}
  sch : SchedState := {}
  ports : Store Port := []
  tfx : TfxState := {}
  host : HostState := {}
  mem : MemState := {}
  tru : TrustState := {}
  start : StartState := {}
  pwr : PowerState := {}
  cool : CoolState := {}
  flt : FaultState := {}
  mgmt : MgmtState := {}
  tel : TelState := {}
  /-- event counters by BAR0 offset * 64 + low bit of the field -/
  ctr : Store Nat := []
  out : List Output := []
  /-- the model's own count of free values used (notes/assumptions/5.md) -/
  free : Nat := 0
  deriving DecidableEq, Repr

/-- Why the machine stops. -/
inductive Fault where
  /-- A condition the manual calls undefined (16_faults_and_recovery.md R440). No command raises it: under such a condition
  protection still acts (00_scope.md R4), and the model goes on with a free outcome (notes/assumptions/94.md). -/
  | undefinedCondition (rule : String)
  deriving DecidableEq, Repr

/-- Why a command has no meaning. -/
inductive Refusal where
  /-- The command is not modelled yet: raised by an arm of exec only. Safe. -/
  | notModelled (mnemonic : String)
  deriving DecidableEq, Repr

/-- The machine right after reset: every register at the Reset column of its table, every table and queue empty
(notes/assumptions/1.md), no supply present. -/
def State.reset : State := {}

end Sys2Proof.Machine
end

