-- ==== Sys2Proof/Machine/Ops.lean ====
section
/-! DEFINITION. The shared operations: sparse stores and memories, byte order, free picks, event counters, event and
fault records, interrupts. -/

namespace Sys2Proof.Machine

/-! ### Sparse stores -/

/-- What a store holds at `k`; an unlisted index reads `d`. -/
def look {α : Type} (d : α) : Store α → Nat → α
  | [], _ => d
  | (k', v) :: t, k => if k' = k then v else look d t k

/-- `m` with `v` at `k`, in canonical form: writing what an unlisted index reads as removes the entry. -/
def put {α : Type} [DecidableEq α] (d : α) : Store α → Nat → α → Store α
  | [], k, v => if v = d then [] else [(k, v)]
  | (k', v') :: t, k, v =>
    if k < k' then (if v = d then (k', v') :: t else (k, v) :: (k', v') :: t)
    else if k = k' then (if v = d then t else (k, v) :: t)
    else (k', v') :: put d t k v

/-- Apply `f` to what stands at `k`. -/
def upd {α : Type} [DecidableEq α] (d : α) (m : Store α) (k : Nat) (f : α → α) : Store α :=
  put d m k (f (look d m k))

/-- Apply `f` to every listed value. -/
def mapStore {α : Type} [DecidableEq α] (d : α) (f : α → α) (m : Store α) : Store α :=
  m.filterMap fun x => if f x.2 = d then none else some (x.1, f x.2)

/-- The keys rise strictly from `lo`, and no entry equals the default. -/
def storeFrom {α : Type} [DecidableEq α] (d : α) : Nat → Store α → Bool
  | _, [] => true
  | lo, (k, v) :: t => decide (lo ≤ k) && decide (v ≠ d) && storeFrom d (k + 1) t

/-- The canonical form of a store. -/
def storeWf {α : Type} [DecidableEq α] (d : α) (m : Store α) : Bool := storeFrom d 0 m

/-- The canonical form of a byte memory. -/
def Memory.wf (m : Mem) : Bool := storeWf (0 : Byte) m

/-! ### Byte order (00_scope.md R5) -/

/-- The value of bytes, least significant first. -/
def leNat : List Byte → Nat
  | [] => 0
  | b :: t => b.toNat + 256 * leNat t

/-- The `n` low bytes of `v`, least significant first. -/
def leBytes : Nat → Nat → List Byte
  | 0, _ => []
  | n + 1, v => BitVec.ofNat 8 v :: leBytes n (v / 256)

/-- Bytes `off` to `off + n - 1`. -/
def sub (bs : List Byte) (off n : Nat) : List Byte := (bs.drop off).take n

/-- The `n`-byte field at `off`. -/
def u (bs : List Byte) (off n : Nat) : Nat := leNat (sub bs off n)

/-- Every byte of the field is zero. -/
def zeroes (bs : List Byte) : Bool := bs.all (· == 0)

/-- `bs` padded with zero bytes to length `n`, or cut to it. -/
def padTo (n : Nat) (bs : List Byte) : List Byte := (bs ++ List.replicate (n - bs.length) 0).take n

/-- A list of naturals as bytes. -/
def asBytes (l : List Nat) : List Byte := l.map (BitVec.ofNat 8)

/-! ### Byte memories -/

/-- One byte of memory. -/
def memByte (m : Mem) (a : Nat) : Byte := look 0 m a

/-- The listed bytes of `[a, a + n)`, moved down to 0. -/
def memSlice (m : Mem) (a n : Nat) : Mem :=
  m.filterMap fun x => if a ≤ x.1 ∧ x.1 < a + n then some (x.1 - a, x.2) else none

/-- `m` with the `n` bytes at `a` replaced by a slice. -/
def memPlace (m : Mem) (a n : Nat) (sl : Mem) : Mem :=
  m.filter (fun x => x.1 < a) ++ (sl.map fun x => (x.1 + a, x.2)) ++ m.filter fun x => a + n ≤ x.1

/-- `m` with the `n` bytes at `a` zero. -/
def memZero (m : Mem) (a n : Nat) : Mem := m.filter fun x => x.1 < a || a + n ≤ x.1

/-- The bytes of a list as a slice that starts at `i`. -/
def sparse : List Byte → Nat → Mem
  | [], _ => []
  | b :: t, i => if b = 0 then sparse t (i + 1) else (i, b) :: sparse t (i + 1)

/-- A slice from index `i` as `n` bytes. -/
def dense : Mem → Nat → Nat → List Byte
  | _, _, 0 => []
  | [], i, n + 1 => 0 :: dense [] (i + 1) n
  | (k, b) :: t, i, n + 1 => if k = i then b :: dense t (i + 1) n else 0 :: dense ((k, b) :: t) (i + 1) n

/-- The `n` bytes at `a`. -/
def memRead (m : Mem) (a n : Nat) : List Byte := dense (memSlice m a n) 0 n

/-- `m` with bytes stored at `a`. -/
def memWrite (m : Mem) (a : Nat) (bs : List Byte) : Mem := memPlace m a bs.length (sparse bs 0)

/-- The `n`-byte value at `a`. -/
def memNat (m : Mem) (a n : Nat) : Nat := leNat (memRead m a n)

/-! ### Lists -/

/-- The elements with their positions, from `i`. -/
def indexed {α : Type} : Nat → List α → List (Nat × α)
  | _, [] => []
  | i, a :: t => (i, a) :: indexed (i + 1) t

/-- The mask of the numbers below `n` that a test names. -/
def maskOf (n : Nat) (p : Nat → Bool) : Nat := (((List.range n).filter p).map (2 ^ ·)).sum

/-- `l` with `a` in place of every element `p` holds of. -/
def replaceWhere {α : Type} (p : α → Bool) (f : α → α) (l : List α) : List α := l.map fun x => if p x then f x else x

/-- `l` with every element once, the first kept. -/
def once : List Nat → List Nat
  | [] => []
  | a :: t => a :: (once t).filter (· != a)

/-- Insertion into a rising list, and sorting. -/
def insertNat (a : Nat) : List Nat → List Nat
  | [] => [a]
  | b :: t => if a ≤ b then a :: b :: t else b :: insertNat a t
def sortNat (l : List Nat) : List Nat := l.foldr insertNat []

/-! ### Free picks: choices the manual leaves to the node (notes/assumptions/5.md) -/

/-- A pick among `n` alternatives, 0 to n - 1. -/
def pick (n : Nat) (s : State) : Nat × State :=
  if n ≤ 1 then (0, s) else (Config.choice s.free % n, { s with free := s.free + 1 })

/-- A free 64-bit value. -/
def freeValue (s : State) : BitVec 64 × State := (Config.freeWord s.free, { s with free := s.free + 1 })

/-- The `k`-th number, from 0, that is not in a rising list of taken numbers. -/
def nthFree (taken : List Nat) (k : Nat) : Nat := taken.foldl (fun x t => if t ≤ x then x + 1 else x) k

/-! ### Time units: a stroke is 250 ns, a pass 64 strokes (09_strokes_and_passes.md R240) -/

abbrev strokeNs : Nat := 250
abbrev passNs : Nat := 16000
abbrev passStrokes : Nat := 64
/-- Strokes of one millisecond and of one second. -/
abbrev msStrokes : Nat := 4000
abbrev secStrokes : Nat := 4000000

/-- The pass number and the stroke within the pass of the time base (R240). -/
def passNow (s : State) : Nat := s.time.now / passNs
def strokeNow (s : State) : Nat := s.time.now / strokeNs % passStrokes
/-- The stroke number of the time base. -/
def strokeCount (s : State) : Nat := s.time.now / strokeNs

/-! ### Events and faults (16_faults_and_recovery.md R411, R430 to R432, R470) -/

/-- Add to the output log. -/
def emit (o : Output) (s : State) : State := { s with out := s.out ++ [o] }

/-- BARRIER_OUT takes its level: the master's own pulse, or with REPEAT the level of BARRIER_IN (10_registration_and_time.md
R276). -/
def driveBarrier (s : State) : State :=
  let level := s.bar.outLow.isSome || (s.bar.repeat_ && s.bar.barrierIn)
  if level = s.bar.barrierOut then s else emit (.barrierOut level) { s with bar.barrierOut := level }

/-- Signal an MSI-X vector of a function. -/
def interrupt (fn vector : Nat) (s : State) : State := emit (.msix fn vector) s

/-- A record enters the pending FIFO, whose last 8 of 64 entries take only faults, or is folded (R431, R432). -/
def logRecord (r : Record) (s : State) : State :=
  if s.flt.fifo.length < (if r.severity = 1 then 64 else 56) then
    { s with flt.fifo := s.flt.fifo ++ [r], flt.fifoPeak := max s.flt.fifoPeak (s.flt.fifo.length + 1) }
  else
    { s with
      flt.fold := upd 0 s.flt.fold r.cls fun n => min 0xFFFF (n + 1)
      flt.lost := min 0xFFFFFFFF (s.flt.lost + 1)
      flt.lostSinceRead := min 0xFFFFFFFF (s.flt.lostSinceRead + 1) }

/-- An event record with its own number within its class (R470). -/
def logEvent (cls n unit : Nat) (args : List Byte) (s : State) : State :=
  logRecord ⟨s.time.now, cls, 0, eventCode cls n, unit, padTo 40 args⟩ s

/-- A counter's value. -/
def ctrGet (c : Ctr) (s : State) : Nat := look 0 s.ctr c.key

/-- A counter rises by `n` and saturates at its width. -/
def tallyBy (n : Nat) (c : Ctr) (s : State) : State :=
  { s with ctr := upd 0 s.ctr c.key fun v => min (2 ^ c.width - 1) (v + n) }

/-- A counter rises by one, with no record of its own. -/
def tally (c : Ctr) (s : State) : State := tallyBy 1 c s

/-- An event that is counted: its counter rises and a generic record is written (R470). -/
def countEvent (c : Ctr) (unit : Nat) (s : State) : State :=
  logEvent c.cls 0xFF unit (leBytes 4 c.off ++ [BitVec.ofNat 8 c.lo]) (tally c s)

/-- A unit counts something towards its wear score (R437). -/
def countWear (unit : Nat) (f : WearCount → WearCount) (s : State) : State :=
  { s with flt.wearIn := upd {} s.flt.wearIn unit f }

abbrev ctrFaults : Ctr := ⟨0x00700008, 0, 16, 12⟩
abbrev ctrFences : Ctr := ⟨0x00700008, 16, 16, 12⟩
abbrev ctrReconFail : Ctr := ⟨0x00700008, 32, 16, 10⟩
abbrev ctrLeaseRevoked : Ctr := ⟨0x00700008, 48, 16, 12⟩

/-- A fault: FLT_STATUS, FLT_COUNTS.FAULTS, its record, and MSI-X vector 6 of PF0 (R411, R412, R432). Hold mode is
entered by `raise` of Hold.lean. -/
def raiseRecord (code unit : Nat) (args : List Byte) (s : State) : State :=
  interrupt 0 6 <|
  logRecord ⟨s.time.now, faultClass code, 1, code, unit, padTo 40 args⟩ <|
  tally ctrFaults { s with flt.lastCode := code, flt.lastUnit := unit }

end Sys2Proof.Machine
end

