-- ==== Sys2Proof/Machine/Counters.lean ====
section
/-! DEFINITION. The node's event counters (the RC fields of the register tables) with the trace class of their records
(notes/assumptions/7.md), and the registers that hold them. -/

namespace Sys2Proof.Machine

/-! ### Host, collator, management (13, 06, 17) -/

def cMctpDropped : Ctr := ⟨0x1008, 0, 16, clHost⟩
def cRegRefused : Ctr := ⟨0x1008, 16, 16, clHost⟩
def cEvtLost : Ctr := ⟨0x1008, 32, 16, clHost⟩
def cUpdateFail : Ctr := ⟨0x1008, 48, 16, clHost⟩
def cDupDropped : Ctr := ⟨0x1400, 0, 16, clCollator⟩
def cOrphan : Ctr := ⟨0x1400, 16, 16, clCollator⟩
def cSourceLate : Ctr := ⟨0x1400, 32, 16, clCollator⟩
def cCovCollapsed : Ctr := ⟨0x1400, 48, 16, clCollator⟩
def cMismatch : Ctr := ⟨0x1408, 0, 16, clCollator⟩
def cResidueFail : Ctr := ⟨0x1408, 16, 16, clCollator⟩
/-- HUB_COL_MERGES.DONE is read-only and wraps; it is held beside the counters. -/
def cColMerges : Ctr := ⟨0x1410, 0, 64, clCollator⟩
def cDeadLoads : Ctr := ⟨0x2008, 0, 16, clHost⟩
def cAborts : Ctr := ⟨0x2008, 16, 16, clHost⟩
def cFlr : Ctr := ⟨0x2008, 32, 16, clHost⟩
/-- BAR0 offset of queue (f, c) (R345). -/
def queueOff (f cls : Nat) : Nat := 0x10000 + (8 * f + cls) * 0x40
def cDbOverflow (f cls : Nat) : Ctr := ⟨queueOff f cls + 0x10, 0, 16, clHost⟩
def cDbBad (f cls : Nat) : Ctr := ⟨queueOff f cls + 0x10, 16, 16, clHost⟩

/-! ### Gravers (04 R112) -/

def graverOff (g : Nat) : Nat := 0x100000 + g * 0x1000
def cScoreSat (g : Nat) : Ctr := ⟨graverOff g + 0x10, 0, 16, clGraver⟩
def cSheetCe (g : Nat) : Ctr := ⟨graverOff g + 0x10, 16, 16, clCorrected⟩
def cSheetUe (g : Nat) : Ctr := ⟨graverOff g + 0x10, 32, 16, clUncorrectable⟩
def cOverrun (g : Nat) : Ctr := ⟨graverOff g + 0x10, 48, 16, clSlip⟩
def cChainCe (g : Nat) : Ctr := ⟨graverOff g + 0x20, 16, 16, clCorrected⟩

/-! ### Directory and residency (02, 03, 07) -/

def cCreateRefused : Ctr := ⟨0x200008, 0, 16, clResidency⟩
def cSwapAbandon : Ctr := ⟨0x200008, 16, 16, clResidency⟩
def cKeyRepaired : Ctr := ⟨0x200008, 32, 16, clCorrected⟩
def cEntryLost : Ctr := ⟨0x200008, 48, 16, clUncorrectable⟩
def cDemoted : Ctr := ⟨0x20C000, 0, 16, clResidency⟩
def cSpilled : Ctr := ⟨0x20C000, 16, 16, clResidency⟩
def cDropped : Ctr := ⟨0x20C000, 32, 16, clResidency⟩
def cStageLate : Ctr := ⟨0x20C000, 48, 16, clResidency⟩
def cIngestReject : Ctr := ⟨0x20C010, 0, 16, clResidency⟩
def cComputeSubst : Ctr := ⟨0x20C010, 16, 16, clGraver⟩
def cTierLost : Ctr := ⟨0x20C018, 0, 16, clResidency⟩
def cSpillFull : Ctr := ⟨0x20C018, 16, 16, clResidency⟩
def cMoveRefused : Ctr := ⟨0x20C018, 32, 16, clResidency⟩

/-! ### Ports (11 R307) -/

def portOff (p : Nat) : Nat := 0x300000 + p * 0x100
def cLaneLost (p : Nat) : Ctr := ⟨portOff p + 0x10, 0, 16, clLane⟩
def cPortDrop (p : Nat) : Ctr := ⟨portOff p + 0x10, 16, 16, clLane⟩
def cRequeued (p : Nat) : Ctr := ⟨portOff p + 0x10, 32, 16, clLane⟩
def cLaneReturn (p : Nat) : Ctr := ⟨portOff p + 0x10, 48, 16, clLane⟩
def cFcsBad (p : Nat) : Ctr := ⟨portOff p + 0x18, 0, 16, clLane⟩
def cOversize (p : Nat) : Ctr := ⟨portOff p + 0x18, 16, 16, clLane⟩
def cNotTfx (p : Nat) : Ctr := ⟨portOff p + 0x18, 32, 16, clLane⟩
def cWrongPort (p : Nat) : Ctr := ⟨portOff p + 0x18, 48, 16, clLane⟩
def cFecCorrected (p l : Nat) : Ctr := ⟨portOff p + 0x20 + l * 8, 0, 32, clLane⟩
def cFecUncorrected (p l : Nat) : Ctr := ⟨portOff p + 0x20 + l * 8, 32, 32, clLane⟩
def cCoded (p : Nat) : Ctr := ⟨portOff p + 0x40, 0, 16, clLane⟩
def cRaw (p : Nat) : Ctr := ⟨portOff p + 0x40, 16, 16, clLane⟩
def cIntegrity (p : Nat) : Ctr := ⟨portOff p + 0x40, 32, 16, clLane⟩
def cSmoothDrop (p : Nat) : Ctr := ⟨portOff p + 0x40, 48, 16, clLane⟩

/-! ### Transport (12 R338) -/

def cAuthFail : Ctr := ⟨0x301000, 0, 16, clTransport⟩
def cRetransmit : Ctr := ⟨0x301000, 16, 16, clTransport⟩
def cConnFailed : Ctr := ⟨0x301000, 32, 16, clTransport⟩
def cDupFrame : Ctr := ⟨0x301000, 48, 16, clTransport⟩
def cBadConn : Ctr := ⟨0x301008, 0, 16, clTransport⟩
def cCreditViol : Ctr := ⟨0x301008, 16, 16, clTransport⟩
def cOutOfRange : Ctr := ⟨0x301008, 32, 16, clTransport⟩
def cBadSegment : Ctr := ⟨0x301008, 48, 16, clTransport⟩
def cRollovers : Ctr := ⟨0x301010, 0, 16, clTrust⟩
def cRollStall : Ctr := ⟨0x301010, 16, 16, clTrust⟩
def cSeqExhaust : Ctr := ⟨0x301010, 32, 16, clTransport⟩
def cRegionFail : Ctr := ⟨0x301018, 0, 16, clTransport⟩
def cTrigBad : Ctr := ⟨0x301018, 16, 16, clTransport⟩
def cRingShort : Ctr := ⟨0x301018, 32, 16, clTransport⟩
def cRingWait : Ctr := ⟨0x301018, 48, 16, clTransport⟩

/-! ### Plate and schedule (08, 09, 05) -/

def cDeltasApplied : Ctr := ⟨0x400030, 0, 16, clHost⟩
def cDeltasAborted : Ctr := ⟨0x400030, 16, 16, clHost⟩
def cDeltasBusy : Ctr := ⟨0x400030, 32, 16, clHost⟩
def cLoadRefused : Ctr := ⟨0x400030, 48, 16, clHost⟩
def cThermalSlip : Ctr := ⟨0x40E010, 0, 16, clSlip⟩
def cLaneSlip : Ctr := ⟨0x40E010, 16, 16, clSlip⟩
def cOverrunSlip : Ctr := ⟨0x40E010, 32, 16, clSlip⟩
def cSendOverflow : Ctr := ⟨0x40E010, 48, 16, clSlip⟩
def cBeatsSent : Ctr := ⟨0x40E018, 0, 16, clTransport⟩
def cBeatBad : Ctr := ⟨0x40E018, 16, 16, clTransport⟩
def cPeersLost : Ctr := ⟨0x40E018, 32, 16, clTransport⟩
def cSkewAlarm : Ctr := ⟨0x40E018, 48, 16, clTime⟩
def cRefused : Ctr := ⟨0x40F000, 0, 16, clTransport⟩
def cBestEffort : Ctr := ⟨0x40F000, 16, 16, clTransport⟩
def cLate : Ctr := ⟨0x40F000, 32, 16, clSlip⟩
def cOverflow : Ctr := ⟨0x40F000, 48, 16, clTransport⟩
def cCancelled : Ctr := ⟨0x40F008, 0, 16, clTransport⟩
def cCancelMiss : Ctr := ⟨0x40F008, 16, 16, clTransport⟩
def cStackMiss : Ctr := ⟨0x40F008, 32, 16, clResidency⟩
def cCommitRefused : Ctr := ⟨0x40F008, 48, 16, clTransport⟩

/-! ### Time (10 R278) -/

def cPpsReject : Ctr := ⟨0x500038, 0, 16, clTime⟩
def cPpsGlitch : Ctr := ⟨0x500038, 16, 16, clTime⟩
def cBarBad : Ctr := ⟨0x500038, 32, 16, clTime⟩
def cBarLate : Ctr := ⟨0x500038, 48, 16, clTime⟩
def cRegFail : Ctr := ⟨0x500040, 0, 16, clTime⟩
def cRegLoss : Ctr := ⟨0x500040, 16, 16, clTime⟩

/-! ### Power and cooling (15 R409) -/

def cCapLimit : Ctr := ⟨0x600050, 0, 16, clPower⟩
def cCurrentLimit : Ctr := ⟨0x600050, 16, 16, clPower⟩
def cVinFault : Ctr := ⟨0x600050, 32, 16, clPower⟩
def cHoldRefused : Ctr := ⟨0x600050, 48, 16, clPower⟩
def cDoubleEntry : Ctr := ⟨0x601020, 0, 16, clPower⟩
def cThrottleEntry : Ctr := ⟨0x601020, 16, 16, clPower⟩
def cCoolantWarn : Ctr := ⟨0x601020, 32, 16, clPower⟩
def cShutdown : Ctr := ⟨0x601020, 48, 16, clPower⟩

/-! ### Trust (14 R387) and the flash tier (07 R208) -/

def cKeyWait : Ctr := ⟨0x900018, 0, 16, clTrust⟩
def cBadPoint : Ctr := ⟨0x900018, 16, 16, clTrust⟩
def cBadScalar : Ctr := ⟨0x900018, 32, 16, clTrust⟩
def cIdeFail : Ctr := ⟨0x900018, 48, 16, clTrust⟩
def cScrubFail : Ctr := ⟨0x900040, 16, 16, clTrust⟩
def cDeferred : Ctr := ⟨0x900048, 0, 16, clTrust⟩
def cCuts : Ctr := ⟨0x900048, 16, 16, clTrust⟩
def cExportSkip : Ctr := ⟨0x900048, 32, 16, clTrust⟩
def cStalls : Ctr := ⟨0xA00000, 16, 16, clResidency⟩
def cCwCorrected : Ctr := ⟨0xA00010, 0, 16, clCorrected⟩
def cCwFailed : Ctr := ⟨0xA00010, 16, 16, clUncorrectable⟩
def cRelocated : Ctr := ⟨0xA00010, 32, 16, clResidency⟩
def cRetired : Ctr := ⟨0xA00010, 48, 16, clResidency⟩

/-- Fields of counters that every register of 16-bit counters holds: 16 bits each at 0, 16, 32 and 48. -/
def fourCounters : List Nat :=
  [0x1008, 0x1400, 0x200008, 0x20C000, 0x301000, 0x301008, 0x301018, 0x400030, 0x40E010, 0x40E018, 0x40F000, 0x40F008,
   0x500038, 0x600050, 0x601020, 0x700008, 0x900018, 0xA00010]

end Sys2Proof.Machine
end

