-- ==== Sys2Proof/Machine/Fp.lean ====
section
/-! DEFINITION. The node's arithmetic, to the bit: exact dyadic values, the roundings of 00_scope.md R15 and
04_graver_engines.md, exp2dx (R99), tanhdx (R95), element and scale encodings (02_kv_pages.md R39), and the block
conversion of R93. -/

namespace Sys2Proof.Machine

/-! ### Exact values -/

/-- The exact value m * 2^e. -/
structure Ex where
  m : Int
  e : Int
  deriving DecidableEq, Repr

/-- m as an integer multiple of 2^e' for e' at most e. -/
def Ex.at (x : Ex) (e' : Int) : Int := x.m * 2 ^ (x.e - e').toNat

def exAdd (x y : Ex) : Ex :=
  let e := min x.e y.e
  ⟨x.at e + y.at e, e⟩

def exMul (x y : Ex) : Ex := ⟨x.m * y.m, x.e + y.e⟩

def exNeg (x : Ex) : Ex := ⟨-x.m, x.e⟩

/-- The exact sum of a list. -/
def exSum : List Ex → Ex
  | [] => ⟨0, 0⟩
  | x :: t => exAdd x (exSum t)

/-- x is at most y. -/
def exLe (x y : Ex) : Bool :=
  let e := min x.e y.e
  decide (x.at e ≤ y.at e)

def exLt (x y : Ex) : Bool := !exLe y x

/-- floor(x). -/
def exFloor (x : Ex) : Int := if 0 ≤ x.e then x.m * 2 ^ x.e.toNat else x.m / 2 ^ (-x.e).toNat

/-- floor(log2 |x|), for x not zero. -/
def exLog2 (x : Ex) : Int := (Nat.log2 x.m.natAbs : Int) + x.e

/-! ### Rounding (R15) -/

/-- The magnitude code of n * 2^e rounded to nearest, ties to even, in a format of `p` significand bits whose smallest
quantum is 2^qmin. Codes rise with the value and count on through the exponents, above the largest finite one too. -/
def magCode (p : Nat) (qmin : Int) (n : Nat) (e : Int) : Nat :=
  if n = 0 then 0
  else
    let q := max ((Nat.log2 n : Int) + e - ((p : Int) - 1)) qmin
    let r :=
      if q ≤ e then n * 2 ^ (e - q).toNat
      else
        let d := 2 ^ (q - e).toNat
        let a := n / d
        let rem := n % d
        if d < 2 * rem || (2 * rem == d && a % 2 == 1) then a + 1 else a
    (q - qmin).toNat * 2 ^ (p - 1) + r

/-- An FP32 word from a sign and a magnitude code; overflow gives an infinity, or with `sat` the largest finite value. -/
def pack32 (sat neg : Bool) (c : Nat) : F32 :=
  let c := if 0x7F800000 ≤ c then (if sat then 0x7F7FFFFF else 0x7F800000) else c
  BitVec.ofNat 32 (b2n neg * 2 ^ 31 + c)

/-- rne32 (or rne32s) of an exact value; `zneg` is the sign of a zero result. -/
def round32 (sat zneg : Bool) (x : Ex) : F32 :=
  if x.m = 0 then pack32 sat zneg 0 else pack32 sat (x.m < 0) (magCode 24 (-149) x.m.natAbs x.e)

/-- rne32 of an exact sum or product: an exact zero is +0. -/
def rne32 (x : Ex) : F32 := round32 false false x
def rne32s (x : Ex) : F32 := round32 true false x

/-! ### FP32 words -/

def fNeg (x : F32) : Bool := x.toNat / 2 ^ 31 == 1
def fMag (x : F32) : Nat := x.toNat % 2 ^ 31
def fIsInf (x : F32) : Bool := fMag x == 0x7F800000
def fIsNan (x : F32) : Bool := decide (0x7F800000 < fMag x)
def fIsZero (x : F32) : Bool := fMag x == 0
def fFinite (x : F32) : Bool := decide (fMag x < 0x7F800000)
/-- The word with its sign inverted. -/
def fFlip (x : F32) : F32 := x ^^^ 0x80000000

abbrev fPosInf : F32 := 0x7F800000
abbrev fNegInf : F32 := 0xFF800000
abbrev fMax : F32 := 0x7F7FFFFF
abbrev fOne : F32 := 0x3F800000
/-- LOG2E of R98. -/
abbrev log2e : F32 := 0x3FB8AA3B

/-- The exact value of a finite FP32 word. -/
def fVal (x : F32) : Ex :=
  let ef := fMag x / 2 ^ 23
  let fr := fMag x % 2 ^ 23
  let m : Nat := if ef = 0 then fr else fr + 2 ^ 23
  ⟨if fNeg x then -(m : Int) else m, (max ef 1 : Nat) - 150⟩

/-- Saturation of rne32s: an infinity becomes the largest finite value of its sign. -/
def fSat (sat : Bool) (x : F32) : F32 := if sat && fIsInf x then pack32 true (fNeg x) 0x7F800000 else x

/-- rne32 (rne32s with `sat`) of a + b. -/
def fAdd (sat : Bool) (a b : F32) : F32 :=
  if fIsNan a || fIsNan b then Config.fpInvalid a b
  else if fIsInf a then (if fIsInf b && fNeg a != fNeg b then Config.fpInvalid a b else fSat sat a)
  else if fIsInf b then fSat sat b
  else round32 sat (fNeg a && fNeg b) (exAdd (fVal a) (fVal b))

/-- rne32 (rne32s with `sat`) of a - b. -/
def fSub (sat : Bool) (a b : F32) : F32 := fAdd sat a (fFlip b)

/-- rne32 (rne32s with `sat`) of a * b. -/
def fMul (sat : Bool) (a b : F32) : F32 :=
  let neg := fNeg a != fNeg b
  if fIsNan a || fIsNan b then Config.fpInvalid a b
  else if fIsInf a || fIsInf b then
    (if fIsZero a || fIsZero b then Config.fpInvalid a b else pack32 sat neg 0x7F800000)
  else round32 sat neg (exMul (fVal a) (fVal b))

/-- IEEE division, rounded once (R95). -/
def fDiv (a b : F32) : F32 :=
  let neg := fNeg a != fNeg b
  if fIsNan a || fIsNan b then Config.fpInvalid a b
  else if fIsInf a then (if fIsInf b then Config.fpInvalid a b else pack32 false neg 0x7F800000)
  else if fIsInf b then pack32 false neg 0
  else if fIsZero b then (if fIsZero a then Config.fpInvalid a b else pack32 false neg 0x7F800000)
  else
    let x := fVal a
    let y := fVal b
    let num := x.m.natAbs * 2 ^ 80
    let den := y.m.natAbs
    -- a sticky last bit stands for the rest of the quotient
    let q := 2 * (num / den) + (if num % den = 0 then 0 else 1)
    pack32 false neg (magCode 24 (-149) q (x.e - y.e - 81))

/-- The order of R97: -infinity lowest, -0 below +0. -/
def fKey (x : F32) : Int := if fNeg x then -(fMag x : Int) - 1 else fMag x

/-- The larger of two words in the order of R97. -/
def fLarger (a b : F32) : F32 :=
  if fIsNan a || fIsNan b then Config.fpInvalid a b else if fKey a < fKey b then b else a

/-- rne16 to BF16, saturating to the largest finite value (R93, R101, R154); a zero keeps its sign. -/
def toBf16 (x : F32) : Nat :=
  let c := magCode 8 (-133) (fVal x).m.natAbs (fVal x).e
  b2n (fNeg x) * 2 ^ 15 + (if 0x7F80 ≤ c || fIsInf x then 0x7F7F else c)

/-! ### exp2dx (R99) -/

/-- The table t of R99: 2^(j/64) rounded to nearest FP32, in units of 2^-23. -/
def expTable : List Nat :=
  [0x800000, 0x8164D2, 0x82CD87, 0x843A29, 0x85AAC3, 0x871F62, 0x88980F, 0x8A14D5,
   0x8B95C2, 0x8D1ADF, 0x8EA43A, 0x9031DC, 0x91C3D3, 0x935A2B, 0x94F4F0, 0x96942D,
   0x9837F0, 0x99E046, 0x9B8D3A, 0x9D3EDA, 0x9EF532, 0xA0B051, 0xA27043, 0xA43516,
   0xA5FED7, 0xA7CD94, 0xA9A15B, 0xAB7A3A, 0xAD583F, 0xAF3B79, 0xB123F6, 0xB311C4] ++
  [0xB504F3, 0xB6FD92, 0xB8FBAF, 0xBAFF5B, 0xBD08A4, 0xBF179A, 0xC12C4D, 0xC346CD,
   0xC5672A, 0xC78D75, 0xC9B9BE, 0xCBEC15, 0xCE248C, 0xD06334, 0xD2A81E, 0xD4F35B,
   0xD744FD, 0xD99D16, 0xDBFBB8, 0xDE60F5, 0xE0CCDF, 0xE33F89, 0xE5B907, 0xE8396A,
   0xEAC0C7, 0xED4F30, 0xEFE4BA, 0xF28177, 0xF5257D, 0xF7D0DF, 0xFA83B3, 0xFD3E0C]

/-- exp2dx of a finite word strictly between -150 and 128. -/
def exp2Core (y : Ex) : F32 :=
  let k := exFloor ⟨y.m, y.e + 6⟩
  let f := exAdd y ⟨-k, -6⟩
  let i := k / 64
  let j := (k % 64).toNat
  let a := rne32 (exMul (fVal 0x3D635847) f)
  let a := fAdd false 0x3E75FDF0 a
  let a := rne32 (exMul (fVal a) f)
  let a := fAdd false 0x3F317218 a
  let q := rne32 (exMul (fVal a) f)
  let t : Ex := ⟨expTable.getD j 0, -23⟩
  let r := fVal (rne32 (exAdd t (fVal (rne32 (exMul t (fVal q))))))
  rne32s ⟨r.m, r.e + i⟩

/-- exp2dx of R99. -/
def exp2dx (y : F32) : F32 :=
  if fIsNan y then Config.fpInvalid y y
  else if fIsInf y then (if fNeg y then 0 else fMax)
  else if exLe (fVal y) ⟨-150, 0⟩ then 0
  else if exLe ⟨128, 0⟩ (fVal y) then fMax
  else exp2Core (fVal y)

/-- tanhdx of R95. -/
def tanhdx (x : F32) : F32 :=
  let a : F32 := BitVec.ofNat 32 (fMag x)
  let signed := fun t : F32 => BitVec.ofNat 32 (b2n (fNeg x) * 2 ^ 31 + fMag t)
  if fIsNan x then Config.fpInvalid x x
  else if fIsInf x then signed fOne
  else if exLt (fVal a) ⟨1, -12⟩ then x
  else if exLe ⟨10, 0⟩ (fVal a) then signed fOne
  else
    let e := exp2dx (fFlip (fMul false a 0x4038AA3B))
    signed (fDiv (fSub false fOne e) (fAdd false fOne e))

/-- The soft cap of R95: rne32(c * tanhdx(rne32(s * rc))). -/
def softcap (c s : F32) : F32 := fMul false c (tanhdx (fMul false s (fDiv fOne c)))

/-- The weight and merge factor of R98 and R159: exp2dx(rne32(rne32(x - m) * LOG2E)). -/
def expFactor (x m : F32) : F32 := exp2dx (fMul false (fSub false x m) log2e)

/-! ### Elements and scales (02_kv_pages.md R39, R40) -/

/-- The magnitude of a small-float code: `fb` fraction bits, bias `bias`. -/
def miniVal (fb bias code : Nat) : Ex :=
  let ef := code / 2 ^ fb
  let fr := code % 2 ^ fb
  ⟨((if ef = 0 then fr else fr + 2 ^ fb : Nat) : Int), (max ef 1 : Nat) - (bias : Int) - fb⟩

/-- A signed small-float value. -/
def miniSigned (bits fb bias code : Nat) : Ex :=
  let v := miniVal fb bias (code % 2 ^ (bits - 1))
  if code / 2 ^ (bits - 1) % 2 = 1 then exNeg v else v

/-- Element formats: the KV formats of R35 by code, and BF16. -/
inductive EFmt where
  | e4m3 | e5m2 | int8 | e2m1 | bf16
  deriving DecidableEq, Repr

/-- KV_FORMAT codes (R35). -/
def kvFmt (code : Nat) : Option EFmt :=
  if code = 0 then some .e4m3 else if code = 1 then some .e5m2 else if code = 2 then some .int8
  else if code = 3 then some .e2m1 else none

/-- An invalid element encoding (R39; R93 for BF16). -/
def elemBad (f : EFmt) (c : Nat) : Bool :=
  match f with
  | .e4m3 => c % 128 == 0x7F
  | .e5m2 => c / 4 % 32 == 31
  | .int8 | .e2m1 => false
  | .bf16 => c / 128 % 256 == 255

/-- The exact value of a valid element (R39). -/
def elemVal (f : EFmt) (c : Nat) : Ex :=
  match f with
  | .e4m3 => miniSigned 8 3 7 c
  | .e5m2 => miniSigned 8 2 15 c
  | .int8 => ⟨if c < 128 then c else (c : Int) - 256, -6⟩
  | .e2m1 => miniSigned 4 1 1 c
  | .bf16 => miniSigned 16 7 127 c

/-- The sign bit of an element (R40; an integer's sign for MXINT8). -/
def elemNeg (f : EFmt) (c : Nat) : Bool :=
  match f with
  | .e2m1 => bit c 3
  | .bf16 => bit c 15
  | .e4m3 | .e5m2 | .int8 => bit c 7

/-- The value 2^(x - 127) of a valid E8M0 scale byte. -/
def scaleVal (x : Nat) : Ex := ⟨1, (x : Int) - 127⟩

/-! ### Conversion (R93, R101) -/

/-- The operand formats of R91. -/
inductive OpFmt where
  | e4m3 | e2m1 | bf16
  deriving DecidableEq, Repr

/-- An operand format as an element format. -/
def opElem : OpFmt → EFmt
  | .e4m3 => .e4m3
  | .e2m1 => .e2m1
  | .bf16 => .bf16

/-- Round an exact value into a small-float format with saturation; `neg` is its sign. -/
def encodeMini (p : Nat) (qmin : Int) (largest signBit : Nat) (neg : Bool) (x : Ex) : Nat :=
  b2n neg * signBit + min largest (magCode p qmin x.m.natAbs x.e)

/-- A value encoded in an operand format: nearest, ties to even, saturating (R93). -/
def encodeOp (f : OpFmt) (neg : Bool) (x : Ex) : Nat :=
  match f with
  | .e4m3 => encodeMini 4 (-9) 0x7E 128 neg x
  | .e2m1 => encodeMini 2 (-1) 7 8 neg x
  | .bf16 => encodeMini 8 (-133) 0x7F7F 32768 neg x

/-- The larger magnitude. -/
def exAbsMax (xs : List Ex) : Ex :=
  xs.foldl (fun a x => let x : Ex := ⟨x.m.natAbs, x.e⟩; if exLt a x then x else a) ⟨0, 0⟩

/-- convert of R93: one block of values with their signs to a scale byte and element codes. -/
def convertBlock (f : OpFmt) (xs : List (Bool × Ex)) : Nat × List Nat :=
  match f with
  | .bf16 => (127, xs.map fun x => encodeOp .bf16 x.1 x.2)
  | .e4m3 | .e2m1 =>
    let amax := exAbsMax (xs.map (·.2))
    if amax.m = 0 then (0, xs.map fun _ => 0)
    else
      let emax : Int := if f = .e4m3 then 8 else 2
      let se := max (-127) (min 127 (exLog2 amax - emax))
      ((se + 127).toNat, xs.map fun x => encodeOp f x.1 ⟨x.2.m, x.2.e - se⟩)

end Sys2Proof.Machine
end

