-- ==== Sys2Proof/Machine/Impr.lean ====
section
/-! DEFINITION. Impressions (06_impressions_and_collation.md): the merge of rows and fragments, the canonical tree and its
cover, coverage records, and the IMPR body. -/

namespace Sys2Proof.Machine

/-! ### Rows and fragments (R152, R153, R159) -/

/-- The empty row of R158. -/
def emptyRow (d : Nat) : Row := ⟨fNegInf, 0, 0, List.replicate d 0⟩

/-- merge of R159, for two row records. -/
def mergeRow (a b : Row) : Row :=
  let t := a.tokens + b.tokens
  if a.m = fNegInf ∧ b.m = fNegInf then ⟨fNegInf, 0, t, a.o.map fun _ => 0⟩
  else
    let m := fLarger a.m b.m
    let ea := expFactor a.m m
    let eb := expFactor b.m m
    { m := m
      l := fAdd false (fMul false a.l ea) (fMul false b.l eb)
      tokens := t
      o := List.zipWith (fun x y => fAdd true (fMul true x ea) (fMul true y eb)) a.o b.o }

/-- An operand is empty when no key of its span was computed for any row (R159). -/
def rowsEmpty (rs : List Row) : Bool := rs.all fun r => r.tokens == 0

/-- A fragment merge: rows with equal index; an empty operand passes the other through unchanged (R159). -/
def mergeRows (a b : List Row) : List Row :=
  if rowsEmpty a then b else if rowsEmpty b then a else List.zipWith mergeRow a b

/-- Left fold of the native mode, skipping empty operands (R165). -/
def foldRows (first : List Row) (rest : List (List Row)) : List Row := rest.foldl mergeRows first

/-- The fragments of a kind. -/
def fragsOf (k : Nat) (fs : List Frag) : List Frag := fs.filter fun f => f.kind == k

/-! ### The canonical tree (R160, R161) -/

/-- Chunks of a request of committed length L: ceil(L / 4,096). -/
def chunkCount (len : Nat) : Nat := ceilDiv len 4096

/-- The span of tree node (k, i) over n chunks: first chunk, and the chunk after its last. -/
def nodeSpan (n k i : Nat) : Nat × Nat := (i * 2 ^ k, min ((i + 1) * 2 ^ k) n)

/-- The held fragment with exactly this span, if it is not empty. -/
def heldSpan (held : List Frag) (lo hi : Nat) : Option (List Row) :=
  match held.find? fun f => f.kind == 1 && f.lo == lo && f.hi == hi with
  | some f => if rowsEmpty f.rows then none else some f.rows
  | none => none

/-- merge with empty operands passed through (R160). -/
def mergeOpt : Option (List Row) → Option (List Row) → Option (List Row)
  | none, b => b
  | a, none => a
  | some a, some b => some (List.zipWith mergeRow a b)

/-- node(k, i) of R160; `none` is an empty operand. -/
def nodeVal (held : List Frag) (n : Nat) : Nat → Nat → Option (List Row)
  | 0, i => heldSpan held (nodeSpan n 0 i).1 (nodeSpan n 0 i).2
  | k + 1, i =>
    match heldSpan held (nodeSpan n (k + 1) i).1 (nodeSpan n (k + 1) i).2 with
    | some v => some v
    | none =>
      let a := nodeVal held n k (2 * i)
      if n ≤ (2 * i + 1) * 2 ^ k then a else mergeOpt a (nodeVal held n k (2 * i + 1))

/-- The level of the root: ceil(log2 n). -/
def rootLevel (n : Nat) : Nat := if n ≤ 1 then 0 else Nat.log2 (n - 1) + 1

/-- The maximal tree nodes under (k, i) whose spans lie wholly among the accounted chunks (R161), as fragments; empty
nodes give none. -/
def coverNodes (held : List Frag) (acc : Nat → Bool) (n : Nat) : Nat → Nat → List Frag
  | 0, i =>
    if i < n ∧ acc i then
      (match nodeVal held n 0 i with
       | some rs => [⟨1, i, i + 1, rs⟩]
       | none => [])
    else []
  | k + 1, i =>
    let sp := nodeSpan n (k + 1) i
    if sp.1 < n then
      (if (List.range (sp.2 - sp.1)).all fun q => acc (sp.1 + q) then
        (match nodeVal held n (k + 1) i with
         | some rs => [⟨1, sp.1, sp.2, rs⟩]
         | none => [])
       else coverNodes held acc n k (2 * i) ++ coverNodes held acc n k (2 * i + 1))
    else []

/-- The chunks lo to hi - 1 lie in a list of spans. -/
def inSpans (sp : List (Nat × Nat)) (q : Nat) : Bool := sp.any fun s => s.1 ≤ q && q < s.2

/-- What a holder passes on in canonical reduction (R161, R162). `acc` are the spans of chunks it accounts for, `n` the
request's chunk count, `nrows` and `d` the shape of its rows. -/
def canonicalFrags (held : List Frag) (acc : List (Nat × Nat)) (n nrows d : Nat) : List Frag :=
  let chunks := coverNodes held (inSpans acc) n (rootLevel n) 0
  let cand := (fragsOf 2 held).head?
  let finished := (List.range n).all (inSpans acc)
  match cand with
  | none => if chunks.isEmpty then [⟨0, 0, 0, List.replicate nrows (emptyRow d)⟩] else chunks
  | some c =>
    if finished then
      (match chunks with
       | [] => [⟨3, 0, 0, c.rows⟩]
       | r :: _ => [⟨3, 0, 0, mergeRows r.rows c.rows⟩])
    else chunks ++ [⟨2, 0, 0, c.rows⟩]

/-- The one fragment of the native mode (R165): a left fold over operands in order. -/
def nativeFrags (ops : List (List Row)) (nrows d : Nat) : List Frag :=
  match ops.filter fun r => !rowsEmpty r with
  | [] => [⟨0, 0, 0, List.replicate nrows (emptyRow d)⟩]
  | r :: rest => [⟨0, 0, 0, foldRows r rest⟩]

/-- Merges a left fold of these operands takes: what HUB_COL_MERGES.DONE counts (R176). -/
def mergeSteps (ops : List (List Row)) : Nat := (ops.filter fun r => !rowsEmpty r).length - 1

/-! ### Coverage (R155 to R158) -/

/-- The mask that names every used row. -/
def allRows (nrows : Nat) : BitVec 64 := BitVec.ofNat 64 (2 ^ nrows - 1)

/-- The order of R157: CAND, BASE, STATUS, ROWMASK. -/
def covLt (a b : Cov) : Bool :=
  let ka := [b2n a.cand, a.base, a.status, a.rows.toNat]
  let kb := [b2n b.cand, b.base, b.status, b.rows.toNat]
  decide (ka < kb)

/-- Insertion in the order of R157. -/
def covInsert (a : Cov) : List Cov → List Cov
  | [] => [a]
  | b :: t => if covLt b a then b :: covInsert a t else a :: b :: t

def covSort (l : List Cov) : List Cov := l.foldr covInsert []

/-- Two entries qualify for a join when they agree in CAND, STATUS and ROWMASK (R157). -/
def covSame (a b : Cov) : Bool := a.cand == b.cand && a.status == b.status && a.rows == b.rows

/-- Join `a` into the first entry of a list of the same kind that reaches it. Entries come in rising order of BASE. -/
def covJoinInto (a : Cov) : List Cov → List Cov
  | [] => [a]
  | b :: t =>
    if covSame a b && a.base ≤ b.base + b.count then
      { b with count := max b.count (a.base + a.count - b.base) } :: t
    else b :: covJoinInto a t

/-- R157: sorted and joined until no pair qualifies. -/
def covJoin (l : List Cov) : List Cov := covSort ((covSort l).foldl (fun acc a => covJoinInto a acc) [])

/-- Coverage entries that name keys (R156). -/
def covTokens (base count status : Nat) (rows : BitVec 64) : List Cov :=
  if count = 0 then [] else [⟨base, count, false, status, rows⟩]

/-! ### The IMPR body (R151 to R154) -/

/-- An IMPR in fields. -/
structure ImprMsg where
  tag : Nat
  status : Nat
  canon : Bool
  outBf16 : Bool
  final : Bool
  candIn : Bool
  slip : Bool
  collapsed : Bool
  nrows : Nat
  headDim : Nat
  ctx : Nat
  layer : Nat
  group : Nat
  headPos : Nat
  len : Nat
  lo : Nat
  hi : Nat
  node : Nat
  sources : Nat
  admitAt : Nat
  cov : List Cov
  frags : List Frag
  deriving DecidableEq, Repr

/-- FLAGS of the header. -/
def ImprMsg.flags (i : ImprMsg) : Nat :=
  b2n i.canon + 2 * b2n i.outBf16 + 4 * b2n i.final + 8 * b2n i.candIn + 16 * b2n i.slip + 32 * b2n i.collapsed

def f32Bytes (x : F32) : List Byte := leBytes 4 x.toNat

def rowBytes (bf16 : Bool) (r : Row) : List Byte :=
  f32Bytes r.m ++ f32Bytes r.l ++ leBytes 4 (r.tokens % 2 ^ 25) ++ leBytes 4 0 ++
    r.o.flatMap fun x => if bf16 then leBytes 2 (toBf16 x) else f32Bytes x

def fragBytes (bf16 : Bool) (f : Frag) : List Byte :=
  leBytes 2 f.kind ++ leBytes 2 (if f.kind = 1 then f.lo else 0) ++ leBytes 2 (if f.kind = 1 then f.hi else 0) ++
    leBytes 2 0 ++ f.rows.flatMap (rowBytes bf16)

def covBytes (c : Cov) : List Byte :=
  leBytes 8 (c.base % 2 ^ 25 + c.count % 2 ^ 25 * 2 ^ 25 + b2n c.cand * 2 ^ 50 + c.status * 2 ^ 56) ++
    leBytes 8 c.rows.toNat

/-- The body as bytes (R151 to R154). -/
def ImprMsg.bytes (i : ImprMsg) : List Byte :=
  leBytes 8 i.tag ++ leBytes 1 i.status ++ leBytes 1 i.flags ++ leBytes 1 i.nrows ++ leBytes 1 i.frags.length ++
  leBytes 2 i.cov.length ++ leBytes 1 i.headDim ++ leBytes 1 0 ++ leBytes 4 i.ctx ++ leBytes 2 i.layer ++
  leBytes 1 i.group ++ leBytes 1 i.headPos ++ leBytes 4 i.len ++ leBytes 4 i.lo ++ leBytes 4 i.hi ++
  leBytes 2 i.node ++ leBytes 2 i.sources ++ leBytes 8 i.admitAt ++ List.replicate 16 0 ++
  i.cov.flatMap covBytes ++ i.frags.flatMap (fragBytes i.outBf16)

/-- A refusal (R152). -/
def refusalImpr (tag status ctx layer group headPos : Nat) (final : Bool) : ImprMsg :=
  { tag, status, canon := false, outBf16 := false, final, candIn := false, slip := false, collapsed := false,
    nrows := 0, headDim := 0, ctx, layer, group, headPos, len := 0, lo := 0, hi := 0, node := 0, sources := 0,
    admitAt := 0, cov := [], frags := [] }

/-- A row record of an FP32 fragment. -/
def readRow (d : Nat) (b : List Byte) : Row :=
  { m := BitVec.ofNat 32 (u b 0 4), l := BitVec.ofNat 32 (u b 4 4), tokens := u b 8 4,
    o := (List.range d).map fun x => BitVec.ofNat 32 (u b (16 + 4 * x) 4) }

/-- Reserved fields of a row record that are not zero. -/
def rowReserved (b : List Byte) : Bool := u b 8 4 / 2 ^ 25 != 0 || u b 12 4 != 0

/-- The fragments of an FP32 body, and whether a reserved field is set. -/
def readFrags (nrows d : Nat) : Nat → List Byte → List Frag × Bool
  | 0, _ => ([], false)
  | n + 1, b =>
    let size := 16 + 4 * d
    let rows := (List.range nrows).map fun r => b.drop (8 + r * size)
    let kind := u b 0 1
    let bad := kind / 4 != 0 || u b 1 1 != 0 || u b 2 2 / 2 ^ 13 != 0 || u b 4 2 / 2 ^ 13 != 0 || u b 6 2 != 0 ||
      (kind % 4 != 1 && (u b 2 2 != 0 || u b 4 2 != 0)) || rows.any rowReserved
    let rest := readFrags nrows d n (b.drop (8 + nrows * size))
    (⟨kind % 4, u b 2 2, u b 4 2, rows.map (readRow d)⟩ :: rest.1, bad || rest.2)

def readCov (b : List Byte) : Cov :=
  let w := u b 0 8
  ⟨field w 0 25, field w 25 25, bit w 50, field w 56 8, BitVec.ofNat 64 (u b 8 8)⟩

/-- An IMPR body as a node's child sends it, decoded; none when it is malformed: a reserved field set, or a length that its
own fields do not imply (R7, R151). A child carries o in FP32 (R154): OUT_BF16 set, or a status that R16 does not know, in the
header or in a coverage entry, makes its body malformed too (DESIGN CHOICE, notes/assumptions/112.md). -/
def readImpr (b : List Byte) : Option ImprMsg :=
  let fl := u b 9 1
  let nrows := u b 10 1
  let nfrag := u b 11 1
  let ncov := u b 12 2
  let d := 32 * (u b 14 1 + 1)
  let covs := (List.range ncov).map fun i => sub b (64 + 16 * i) 16
  let fr := readFrags nrows d nfrag (b.drop (64 + 16 * ncov))
  let bad := fl / 64 != 0 || nrows / 128 != 0 || 25 < nfrag || 1024 < ncov || u b 14 1 / 8 != 0 || u b 15 1 != 0 ||
    u b 0x10 4 / 2 ^ 21 != 0 || u b 0x14 2 / 2 ^ 9 != 0 || u b 0x17 1 / 16 != 0 || u b 0x18 4 / 2 ^ 25 != 0 ||
    u b 0x1C 4 / 2 ^ 25 != 0 || u b 0x20 4 / 2 ^ 25 != 0 || u b 0x24 2 / 2 ^ 12 != 0 || !zeroes (sub b 0x30 16) ||
    covs.any (fun c => field (u c 0 8) 51 5 != 0 || !statusCodes.contains (field (u c 0 8) 56 8)) || fr.2 || bit fl 1 ||
    !statusCodes.contains (u b 8 1) ||
    b.length != 64 + 16 * ncov + nfrag * (8 + nrows * (16 + 4 * d))
  if b.length < 64 ∨ bad then none
  else some
    { tag := u b 0 8, status := u b 8 1, canon := bit fl 0, outBf16 := false, final := bit fl 2, candIn := bit fl 3,
      slip := bit fl 4, collapsed := bit fl 5, nrows := nrows, headDim := u b 14 1, ctx := u b 0x10 4,
      layer := u b 0x14 2, group := u b 0x16 1, headPos := u b 0x17 1, len := u b 0x18 4, lo := u b 0x1C 4,
      hi := u b 0x20 4, node := u b 0x24 2, sources := u b 0x26 2, admitAt := u b 0x28 8,
      cov := covs.map readCov, frags := fr.1 }

end Sys2Proof.Machine
end

