-- ==== Sys2Proof/Machine/Msg.lean ====
section
/-! DEFINITION. Shared operations on the plate in force, connections, messages handed to the transport, credit returns,
BAR2 and command results. -/

namespace Sys2Proof.Machine

/-! ### The plate in force -/

/-- The sealed plate; the empty plate when none is sealed. -/
def plate (s : State) : Plate :=
  match s.plt.active with
  | some p => p.plate
  | none => {}

/-- A sealed plate is in force (08_plates.md R224, R238): STATE 3, or a plate being loaded or waiting for its SEAL beside it. -/
def sealed (s : State) : Bool :=
  s.plt.st == .sealed || ((s.plt.st == .loading || s.plt.st == .valid) && s.plt.before == .sealed)

/-- The lines the islands run follow the plate (09_strokes_and_passes.md R249). -/
def partRec (p : Nat) (s : State) : PartRec := look {} (plate s).parts p
def tenantRec (t : Nat) (s : State) : TenantRec := look {} (plate s).tenants t
/-- The record of a connection; that of one that a delta removed, while it finishes, is no longer used. -/
def connRec (c : Nat) (s : State) : ConnRec :=
  let r := look {} (plate s).conns c
  if r.used then r
  else match (look {} s.tfx.aux c).oldRec with
    | some o => { o with used := false }
    | none => r

/-- TENANT belongs to the partition in the sealed plate (R216, R217). -/
def tenantIn (t p : Nat) (s : State) : Bool := (tenantRec t s).used && (tenantRec t s).owner == p

/-! ### Parties under TDISP or a scrub (14_trust_and_isolation.md R377, R381) -/

/-- A partition is assigned: its TDI is locked or runs. -/
def assigned (p : Nat) (s : State) : Bool :=
  match look Tdi.unlocked s.tru.tdis p with
  | .locked | .run => true
  | .unlocked | .error => false

/-- The partition or the tenant is scrub-pending. -/
def scrubPending (p t : Nat) (s : State) : Bool :=
  s.tru.scrubs.any fun x => (!x.tenantScope && x.id == p) || (x.tenantScope && x.id == t)

/-- An armed delta holds the partition (08_plates.md R232). -/
def heldPart (p : Nat) (s : State) : Bool := s.plt.held.contains p

/-! ### Connections and messages (12_transport.md) -/

def conn (c : Nat) (s : State) : Conn := look {} s.tfx.conns c
def setConn (c : Nat) (v : Conn) (s : State) : State := { s with tfx.conns := put {} s.tfx.conns c v }
def aux (c : Nat) (s : State) : ConnAux := look {} s.tfx.aux c
def setAux (c : Nat) (v : ConnAux) (s : State) : State := { s with tfx.aux := put {} s.tfx.aux c v }

/-- What is queued for sending on a connection. -/
structure Post where
  typ : Nat
  isResp : Bool := false
  cls : Nat := 0
  kind : Nat := 0
  tag : Nat := 0
  body : List Byte := []
  purpose : Purpose := .none
  slip : Bool := false
  await : Option Nat := none
  mute : Bool := false
  deriving DecidableEq, Repr

/-- The status with which a connection refuses messages submitted for sending (R321). -/
def sendRefusal (c : Nat) (s : State) : Option Nat :=
  match (conn c s).st with
  | .active => none
  | .unused | .closing => some stMalformed
  | .keyless => some stKeyAbsent
  | .failed => some stTargetDead

/-- The connection takes the message: an ACTIVE one every message, a CLOSING one the results and answers of work that it
took before (R321). In every other state nothing is queued (notes/assumptions/9.md). -/
def takesPost (k : Conn) (m : Post) : Bool := k.st == .active || (k.st == .closing && (m.isResp || m.typ == tImpr))

/-- A message is queued on its connection and takes the next MSG_SEQ of its series (R311, R321). -/
def queueMsg (c : Nat) (m : Post) (s : State) : State :=
  let k := conn c s
  if !takesPost k m then s
  else
    let seq := if m.cls = 0 then k.seqTx0 else k.seqTx
    let out : OutMsg := ⟨m.typ, m.isResp, m.cls, m.kind, seq, m.tag, m.body, 0, m.purpose, m.slip, m.await, m.await.isSome, m.mute, none⟩
    let k := { k with queue := k.queue ++ [out] }
    setConn c (if m.cls = 0 then { k with seqTx0 := (seq + 1) % 65536 } else { k with seqTx := (seq + 1) % 65536 }) s

/-- The completion header of R333. -/
def completionBody (tag status bytes : Nat) : List Byte :=
  leBytes 8 tag ++ leBytes 1 status ++ leBytes 3 0 ++ leBytes 4 bytes

/-- The status of a received completion. A header that is cut short or has a reserved byte set is malformed (R7): the operation it
ends fails with ST_MALFORMED (DESIGN CHOICE, notes/assumptions/109.md). -/
def completionStatus (body : List Byte) : Nat :=
  if body.length < 16 || !zeroes (sub body 9 3) then stMalformed else knownStatus (u body 8 1)

/-- A transport completion in class 0 (05_attention_requests.md R115; 07_residency_and_tiers.md R198). -/
def sendCompletion (c typ tag status bytes : Nat) (s : State) : State :=
  queueMsg c { typ, isResp := true, tag, body := completionBody tag status bytes } s

/-- Credit units that the segments of a body take (R313, R326). -/
def unitsOf (len : Nat) : Nat := len / 9024 * 36 + ceilDiv (len % 9024) 256

/-- The limit of a pool: never decreases (R472). -/
def advertise (p : Pool) : Pool := { p with limit := max p.limit (p.returned + p.headroom) }

/-- Units or tokens return to the peer: never more than it has consumed, since a connection that has started afresh has had
what it held before freed (R321, R322). -/
def giveBack (n : Nat) (p : Pool) : Pool := advertise { p with returned := min p.used (p.returned + n) }

/-- Units of a class return to the peer. -/
def giveUnits (c cls n : Nat) (s : State) : State :=
  let k := conn c s
  setConn c (if cls = 0 then { k with pool0 := giveBack n k.pool0 } else { k with pool := giveBack n k.pool }) s

/-- The consumer has taken a message of `len` body bytes: its credit returns (R327). -/
def returnCredit (c cls len : Nat) (s : State) : State := giveUnits c cls (unitsOf len) s

/-- An ATTN token returns to its sender (R328). -/
def returnToken (c : Nat) (s : State) : State :=
  let k := conn c s
  setConn c { k with attn := giveBack 1 k.attn } s

/-- The first message of a connection that waits for a consumer of a type (R330). -/
def inboxFind (c typ : Nat) (isResp : Bool) (s : State) : Option InMsg :=
  s.tfx.inbox.find? fun m => m.conn == c && m.typ == typ && m.isResp == isResp

/-- Remove the first message equal to `m`. -/
def dropFirst (m : InMsg) : List InMsg → List InMsg
  | [] => []
  | a :: t => if a = m then t else a :: dropFirst m t

def inboxTake (m : InMsg) (s : State) : State := { s with tfx.inbox := dropFirst m s.tfx.inbox }

/-! ### Functions and BAR2 (13_host_attachment.md R342 to R344) -/

/-- The partition a function acts for: none for PF0. -/
def fnPart (f : Nat) (s : State) : Option Nat :=
  if f = 0 then none
  else if f ≤ 128 then some (f - 1)
  else if s.host.linkBValid then some s.host.linkBPart else none

/-- OWNER of a BAR2 page: 0xFF is PF0 alone (R357). -/
def b2Owner (page : Nat) (s : State) : Nat := look 0xFF s.host.b2map page

/-- The BAR2 pages of a partition, ascending. -/
def b2Pages (p : Nat) (s : State) : List Nat := (s.host.b2map.filter fun x => x.2 == p).map (·.1)

/-- The hub SRAM page behind page `k` of a function's BAR2. -/
def b2Page (f k : Nat) (s : State) : Option Nat :=
  if f = 0 then (if k < 512 then some k else none)
  else match fnPart f s with
    | some p => (b2Pages p s)[k]?
    | none => none

abbrev b2PageBytes : Nat := 262144

/-- The segments (hub SRAM offset, length) behind a range of a function's BAR2, over at most `fuel` pages; none when the
range leaves the function's pages (R344). -/
def b2Segs (f : Nat) (s : State) : Nat → Nat → Nat → Option (List (Nat × Nat))
  | _, _, 0 => some []
  | 0, _, _ + 1 => none
  | fuel + 1, off, len + 1 =>
    let n := min (len + 1) (b2PageBytes - off % b2PageBytes)
    match b2Page f (off / b2PageBytes) s with
    | none => none
    | some p => (b2Segs f s fuel (off + n) (len + 1 - n)).map fun r => (p * b2PageBytes + off % b2PageBytes, n) :: r

def b2Range (f off len : Nat) (s : State) : Option (List (Nat × Nat)) := b2Segs f s 514 off len

/-- The range lies in the function's own pages. -/
def b2Ok (f off len : Nat) (s : State) : Bool := (b2Range f off len s).isSome

/-- The bytes of a range of a function's BAR2; empty when it leaves the function's pages. -/
def b2Read (f off len : Nat) (s : State) : List Byte :=
  match b2Range f off len s with
  | some segs => segs.flatMap fun x => memRead s.mem.bar2 x.1 x.2
  | none => []

/-- Store bytes over segments in order. -/
def storeSegs : List (Nat × Nat) → List Byte → Mem → Mem
  | [], _, m => m
  | (a, n) :: t, bs, m => storeSegs t (bs.drop n) (memWrite m a (bs.take n))

/-- Bytes written to a function's BAR2; nothing when the range leaves its pages. -/
def b2Write (f off : Nat) (bs : List Byte) (s : State) : State :=
  match b2Range f off bs.length s with
  | some segs => { s with mem.bar2 := storeSegs segs bs s.mem.bar2 }
  | none => s

/-! ### Command queues (R345 to R349) -/

def queueIdx (f cls : Nat) : Nat := 8 * f + cls
def hostQueue (f cls : Nat) (s : State) : Queue := look {} s.host.queues (queueIdx f cls)
def setQueue (f cls : Nat) (q : Queue) (s : State) : State :=
  { s with host.queues := put {} s.host.queues (queueIdx f cls) q }

/-- A command's result is noted in its list (R347, R349): STATUS, REASON, VALUE. With STOP, a status outside group 0x00
other than ST_PLAN_SLIP stops the list. -/
def endCommand (f cls seq idx status reason value : Nat) (s : State) : State :=
  let q := hostQueue f cls s
  let upList := fun l : CmdList =>
    if l.seq = seq then
      { l with
        results := put (0, 0, 0) l.results idx (status + 0x10000, reason, value)
        stopped := l.stopped || (l.stop && !stMild status) }
    else l
  setQueue f cls { q with lists := q.lists.map upList } s

end Sys2Proof.Machine
end

