-- ==== Sys2Proof/Machine/Operands.lean ====
section
/-! DEFINITION. Operand forms: contexts and their geometry, page addresses, directory keys and page words, and the headers
of the messages ATTN, APPEND and COMMIT. -/

namespace Sys2Proof.Machine

/-! ### Contexts (02_kv_pages.md R30 to R38) -/

/-- A context descriptor in fields (R33). -/
structure Geo where
  tenant : Nat
  part : Nat
  fmt : Nat
  /-- HEAD_DIM; d = 32 * (headDim + 1) -/
  headDim : Nat
  hppLog2 : Nat
  layersM1 : Nat
  groupsM1 : Nat
  isOpen : Bool
  deriving DecidableEq, Repr

/-- A descriptor word in fields. -/
def geoOf (w : Nat) : Geo :=
  { tenant := field w 0 10, part := field w 10 7, fmt := field w 17 3, headDim := field w 20 3,
    hppLog2 := field w 23 3, layersM1 := field w 26 9, groupsM1 := field w 35 8, isOpen := bit w 63 }

def ctxWord (h : Nat) (s : State) : BitVec 64 := look 0 s.res.ctxs h
def ctxGeo (h : Nat) (s : State) : Geo := geoOf (ctxWord h s).toNat
/-- The head dimension d. -/
def Geo.d (g : Geo) : Nat := 32 * (g.headDim + 1)
/-- The KV heads per page h. -/
def Geo.h (g : Geo) : Nat := 2 ^ g.hppLog2
/-- The bytes of n elements. -/
def Geo.bytes (g : Geo) (n : Nat) : Nat := if g.fmt = 3 then n / 2 else n
/-- The element format. -/
def Geo.elem (g : Geo) : EFmt := (kvFmt g.fmt).getD .e4m3

/-- The committed length L of a context (05_attention_requests.md R131). -/
def ctxLen (h : Nat) (s : State) : Nat := look 0 s.res.lens h
/-- The index of a layer and KV group's staged mark. -/
def stagedKey (ctx layer group : Nat) : Nat := ctx * 2 ^ 17 + layer * 2 ^ 8 + group
/-- The staged mark S (R44). -/
def stagedMark (ctx layer group : Nat) (s : State) : Nat := look 0 s.res.staged (stagedKey ctx layer group)

abbrev maxTokens : Nat := 16777216

/-- The largest heads per page, as a power of two capped at 16, for which h * 256 * d * b is at most 65,536 (R32). -/
def hMaxLog2 (fmt d : Nat) : Nat :=
  let fits := fun k => 2 ^ k * 256 * (if fmt = 3 then d / 2 else d) ≤ 65536
  if fits 4 then 4 else if fits 3 then 3 else if fits 2 then 2 else if fits 1 then 1 else 0

/-! ### Page slots and tiles (R41, R42) -/

abbrev slotCount : Nat := 6553600
/-- Bytes of a page: its data slot, then its scale plane. -/
abbrev pageBytes : Nat := 69632
abbrev tilesPerStack : Nat := 57344

/-- The stack that holds a slot: GS0 to GS5 are 0 to 5, VS0 and VS1 are 6 and 7 (R41). -/
def slotStack (slot : Nat) : Nat := if slot < 5505024 then slot / 917504 else 6 + (slot - 5505024) / 524288
/-- The first slot index of a stack. -/
def stackFirst (st : Nat) : Nat := if st < 6 then st * 917504 else 5505024 + (st - 6) * 524288
def stackSlots (st : Nat) : Nat := if st < 6 then 917504 else 524288

/-- A stack address, 36 bits, in the model's one memory of all stacks. -/
def stackAddr (st a : Nat) : Nat := st * 2 ^ 36 + a

/-- 64-bit words of the active and the shadow plate store, which follow each other in each vault stack (08_plates.md R226), and
the address of one. -/
abbrev plateWords : Nat := 2 ^ 24
def plateWordAddr (st w : Nat) : Nat := stackAddr st (0x880000000 + 8 * w)
/-- SCALE_BASE of a stack (R42). -/
def scaleBase (st : Nat) : Nat := if st < 6 then 0xE00000000 else 0x800000000
/-- The last stack address of a stack's scale region (R42). -/
def scaleEnd (st : Nat) : Nat := if st < 6 then 0xEDFFFFFFF else 0x87FFFFFFF

/-- Where a page lies: the addresses of its data slot of 64 KiB and of its scale plane of 4 KiB. -/
structure Place where
  data : Nat
  scale : Nat
  deriving DecidableEq, Repr

/-- A page slot's place (R42). -/
def slotPlace (slot : Nat) : Place :=
  let st := slotStack slot
  let n := slot - stackFirst st
  ⟨stackAddr st (n * 0x10000), stackAddr st (scaleBase st + n * 0x1000)⟩

/-- A tile's place, by stack * 57,344 + tile (07_residency_and_tiers.md R185). -/
def tilePlace (key : Nat) : Place :=
  let st := key / tilesPerStack
  let t := key % tilesPerStack
  ⟨stackAddr st (0xF00000000 + t * 0x10000), stackAddr st (0xFE0000000 + t * 0x1000)⟩

/-- The address of a byte of a page: its data slot's 65,536 bytes come first, then its scale plane's 4,096. -/
def Place.byte (p : Place) (off : Nat) : Nat := if off < 65536 then p.data + off else p.scale + (off - 65536)

/-- The bytes of a page, at 0. -/
def readPage (m : Mem) (p : Place) : Mem :=
  memSlice m p.data 65536 ++ (memSlice m p.scale 4096).map fun x => (x.1 + 65536, x.2)
/-- A page's bytes are replaced by those of a slice at 0. -/
def writePage (m : Mem) (p : Place) (sl : Mem) : Mem :=
  memPlace (memPlace m p.data 65536 (memSlice sl 0 65536)) p.scale 4096 (memSlice sl 65536 4096)
/-- `n` pages of one stack in a row become zero. -/
def zeroPages (m : Mem) (p : Place) (n : Nat) : Mem := memZero (memZero m p.data (n * 65536)) p.scale (n * 4096)
/-- Where they lie: first address and length of each span. -/
def pageSpans (p : Place) (n : Nat) : List (Nat × Nat) := [(p.data, n * 65536), (p.scale, n * 4096)]

/-- The byte offset of a K or V row of head position j within the data slot (R36). -/
def rowOff (g : Geo) (v : Bool) (j r : Nat) : Nat :=
  (if v then 0x8000 else 0) + j * (128 * g.bytes g.d) + r * g.bytes g.d
/-- The byte offset of a row's scales within the page: the data slot's 65,536 bytes, then the scale plane (R38). -/
def scaleOff (g : Geo) (v : Bool) (j r : Nat) : Nat := 65536 + (if v then 0x800 else 0) + (j * 128 + r) * (g.d / 32)

/-- The `e`-th element code of a row's packed bytes (R36). -/
def elemAt (fmt : Nat) (row : List Byte) (e : Nat) : Nat :=
  if fmt = 3 then
    let b := (row.getD (e / 2) 0).toNat
    if e % 2 = 0 then b % 16 else b / 16
  else (row.getD e 0).toNat

/-- An invalid element or scale byte stands in a row of elements, or of scales (R49). -/
def elemsBad (fmt n : Nat) (row : List Byte) : Bool :=
  fmt != 3 && (row.take n).any fun b => elemBad ((kvFmt fmt).getD .e4m3) b.toNat
def scalesBad (row : List Byte) : Bool := row.any fun b => b.toNat == 255

/-! ### Directory keys and page words (03_page_directory.md R55 to R60) -/

def dirKey (tenant ctx layer group runBase : Nat) : BitVec 80 :=
  BitVec.ofNat 80 (tenant + ctx * 2 ^ 10 + layer * 2 ^ 31 + group * 2 ^ 40 + runBase * 2 ^ 48)
def keyTenant (k : BitVec 80) : Nat := field k.toNat 0 10
def keyCtx (k : BitVec 80) : Nat := field k.toNat 10 21
def keyLayer (k : BitVec 80) : Nat := field k.toNat 31 9
def keyGroup (k : BitVec 80) : Nat := field k.toNat 40 8
def keyRun (k : BitVec 80) : Nat := field k.toNat 48 22

def dirData (ext countM1 : Nat) (tail : Bool) : BitVec 48 :=
  BitVec.ofNat 48 (ext + countM1 * 2 ^ 20 + b2n tail * 2 ^ 26)
def dataExt (d : BitVec 48) : Nat := field d.toNat 0 20
def dataCount (d : BitVec 48) : Nat := field d.toNat 20 6 + 1
def dataTail (d : BitVec 48) : Bool := bit d.toNat 26
def dataReserved (d : BitVec 48) : Bool := d.toNat / 2 ^ 27 != 0

/-- The page word of an extent that was never written: STATE 5, SLOT 0 (R60). -/
abbrev noneWord : Nat := 5 * 2 ^ 23
def wordSlot (w : Nat) : Nat := field w 0 23
def wordState (w : Nat) : Nat := field w 23 3
def pageWord (state slot : Nat) : Nat := slot + state * 2 ^ 23

/-- An entry as the associative memory holds it, bit flips and all. -/
def rawEntry (i : Nat) (s : State) : DirEntry := look {} s.dir.entries i
def dirShadow (i : Nat) (s : State) : DirShadow := look {} s.dir.shadows i
/-- An entry with the key, data, V and HELD of its shadow. -/
def fromShadow (h : DirShadow) (e : DirEntry) : DirEntry := { e with key := h.key, data := h.data, v := h.v, held := h.held }
/-- An entry as an operation on it gets it: checked against its shadow, and rewritten from it where they differ (R76). -/
def dirEntry (i : Nat) (s : State) : DirEntry := fromShadow (dirShadow i s) (rawEntry i s)
/-- Every entry that is not in its reset state, ascending, as operations get it. -/
def dirView (s : State) : List (Nat × DirEntry) := s.dir.shadows.map fun x => (x.1, dirEntry x.1 s)
def extent (x : Nat) (s : State) : Extent := look {} s.dir.extents x
def extWord (x : Extent) (i : Nat) : Nat := look noneWord x.words i
def extTier (x : Extent) (i : Nat) : Nat := look 0 x.tiers i

/-- The directory range of a partition: BASE and COUNT (R61). -/
def dirRange (p : Nat) (s : State) : Nat × Nat := ((partRec p s).dirBaseK * 1024, (partRec p s).dirCountK * 1024)

/-- An entry is valid and matches a key under a mask (R63). -/
def DirEntry.hits (e : DirEntry) (key mask : BitVec 80) : Bool := e.v && (e.key &&& mask) == (key &&& mask)

/-- The indices of a partition's range, ascending, that the associative memory answers to a key under a mask. -/
def rawHits (p : Nat) (key mask : BitVec 80) (s : State) : List Nat :=
  let r := dirRange p s
  (s.dir.entries.filter fun x => r.1 ≤ x.1 && x.1 < r.1 + r.2 && x.2.hits key mask).map (·.1)

/-- The hits that a search delivers, ascending: those that still match once they are checked against their shadows
(R63, R76). -/
def dirMatches (p : Nat) (key mask : BitVec 80) (s : State) : List Nat :=
  (rawHits p key mask s).filter fun i => (dirEntry i s).hits key mask

/-- The mask of an admission lookup: bits [69:0] (R63). -/
abbrev lookupMask : BitVec 80 := BitVec.ofNat 80 (2 ^ 70 - 1)
abbrev fullMask : BitVec 80 := BitVec.ofNat 80 (2 ^ 80 - 1)

/-- The entry a lookup of a run finds: at most one by R58. -/
def dirLookup (p : Nat) (key : BitVec 80) (s : State) : Option Nat := (dirMatches p key lookupMask s).head?

/-! ### The ATTN header (05_attention_requests.md R117) -/

structure AttnHdr where
  tag : Nat
  ctx : Nat
  layer : Nat
  group : Nat
  headPos : Nat
  heads : Nat
  cands : Nat
  qfmt : Nat
  opfmt : Nat
  causal : Bool
  softcap : Bool
  precise : Bool
  outBf16 : Bool
  lenAny : Bool
  candKv : Bool
  slot : Nat
  bucket : Nat
  window : Nat
  scale : F32
  cap : F32
  length : Nat
  base : Nat
  limit : Nat
  masks : List Nat
  deriving DecidableEq, Repr

def attnHdr (b : List Byte) : AttnHdr :=
  let opt := u b 0x12 2
  { tag := u b 0 8, ctx := field (u b 8 4) 0 21, layer := field (u b 0xC 2) 0 9, group := u b 0xE 1,
    headPos := field (u b 0xF 1) 0 4, heads := field (u b 0x10 1) 0 4 + 1, cands := field (u b 0x10 1) 4 4 + 1,
    qfmt := field (u b 0x11 1) 0 2, opfmt := field (u b 0x11 1) 2 2, causal := bit opt 0, softcap := bit opt 1,
    precise := bit opt 2, outBf16 := bit opt 3, lenAny := bit opt 4, candKv := bit opt 5, slot := u b 0x14 2,
    bucket := field (u b 0x16 1) 0 4, window := field (u b 0x18 4) 0 24, scale := BitVec.ofNat 32 (u b 0x1C 4),
    cap := BitVec.ofNat 32 (u b 0x20 4), length := field (u b 0x24 4) 0 25, base := field (u b 0x28 4) 0 25,
    limit := field (u b 0x2C 4) 0 25, masks := (List.range 16).map fun c => u b (0x30 + 2 * c) 2 }

/-- A reserved field of the ATTN header is set (R7, R117). -/
def attnReserved (b : List Byte) : Bool :=
  u b 8 4 / 2 ^ 21 != 0 || u b 0xC 2 / 2 ^ 9 != 0 || u b 0xF 1 / 16 != 0 || u b 0x11 1 / 16 != 0 ||
  u b 0x12 2 / 64 != 0 || u b 0x16 1 / 16 != 0 || u b 0x17 1 != 0 || u b 0x18 4 / 2 ^ 24 != 0 ||
  u b 0x24 4 / 2 ^ 25 != 0 || u b 0x28 4 / 2 ^ 25 != 0 || u b 0x2C 4 / 2 ^ 25 != 0 || !zeroes (sub b 0x50 16)

/-- n rounded up to a multiple of 16. -/
def pad16 (n : Nat) : Nat := ceilDiv n 16 * 16

/-- Rows of the request: H * C. -/
def AttnHdr.rows (a : AttnHdr) : Nat := a.heads * a.cands

/-- Bytes of the query region before padding (R119). -/
def queryBytes (a : AttnHdr) (g : Geo) : Nat :=
  if a.qfmt = 0 then a.rows * 2 * g.d else a.rows * g.d + a.rows * (g.d / 32)

/-- Bytes of one candidate record (R120). -/
def candRecBytes (g : Geo) : Nat := 2 * g.bytes g.d + 2 * (g.d / 32)

/-- Bytes of the candidate region before padding. -/
def candBytes (a : AttnHdr) (g : Geo) : Nat := if a.candKv then a.cands * candRecBytes g else 0

/-- The length the fields imply (R116 to R120). -/
def attnLength (a : AttnHdr) (g : Geo) : Nat := 96 + pad16 (queryBytes a g) + pad16 (candBytes a g)

/-- The set bits of a mask among the first sixteen. -/
def maskBits (m : Nat) : List Nat := (List.range 16).filter fun i => bit m i

/-- depth of a candidate: set bits of its mask minus one (R123). -/
def maskDepth (m : Nat) : Nat := (maskBits m).length - 1

/-- The ancestry rules of R122 hold for candidate c. -/
def ancestryOk (masks : List Nat) (cands c : Nat) : Bool :=
  let m := masks.getD c 0
  if cands ≤ c then m == 0
  else
    bit m c && m / 2 ^ (c + 1) == 0 &&
      match ((maskBits m).filter (· < c)).getLast? with
      | some p => m == masks.getD p 0 ||| 2 ^ c
      | none => m == 2 ^ c

/-- The element codes of block k of query row r, and its scale byte (R119). -/
def queryBlock (a : AttnHdr) (g : Geo) (b : List Byte) (r k : Nat) : Nat × List Nat :=
  if a.qfmt = 0 then (127, (List.range 32).map fun e => u b (96 + 2 * (r * g.d + 32 * k + e)) 2)
  else
    (u b (96 + a.rows * g.d + r * (g.d / 32) + k) 1,
      (List.range 32).map fun e => u b (96 + r * g.d + 32 * k + e) 1)

/-- The arrival format of query elements. -/
def queryFmt (a : AttnHdr) : EFmt := if a.qfmt = 0 then .bf16 else if a.qfmt = 1 then .e4m3 else .e5m2
def operandFmt (a : AttnHdr) : OpFmt := if a.opfmt = 0 then .e4m3 else if a.opfmt = 1 then .e2m1 else .bf16

/-- A query block holds an infinity, a NaN or a 0xFF scale (R93). -/
def queryBlockBad (a : AttnHdr) (x : Nat × List Nat) : Bool :=
  (a.qfmt != 0 && x.1 == 255) || x.2.any (elemBad (queryFmt a))

/-- The converted block (R93): unchanged when the arrival format is the operand format. -/
def convertQuery (a : AttnHdr) (x : Nat × List Nat) : Nat × List Nat :=
  if opElem (operandFmt a) = queryFmt a then x
  else
    convertBlock (operandFmt a) (x.2.map fun c =>
      (elemNeg (queryFmt a) c, exMul (scaleVal (if a.qfmt = 0 then 127 else x.1)) (elemVal (queryFmt a) c)))

/-- The converted rows of a request. -/
def queryRows (a : AttnHdr) (g : Geo) (b : List Byte) : List QRow :=
  (List.range a.rows).map fun r =>
    let blocks := (List.range (g.d / 32)).map fun k => convertQuery a (queryBlock a g b r k)
    ⟨blocks.map (·.1), blocks.flatMap (·.2)⟩

/-- The candidate record of candidate c (R120). -/
def candRec (a : AttnHdr) (g : Geo) (b : List Byte) (c : Nat) : List Byte :=
  sub b (96 + pad16 (queryBytes a g) + c * candRecBytes g) (candRecBytes g)

/-- A candidate record holds an invalid encoding (R49). -/
def candRecBad (g : Geo) (r : List Byte) : Bool :=
  elemsBad g.fmt (2 * g.bytes g.d) r || scalesBad (r.drop (2 * g.bytes g.d))

/-! ### APPEND and COMMIT (R138, R139, R141) -/

/-- Bytes of a token record (R139). -/
def tokenRecBytes (g : Geo) : Nat := 2 * g.h * g.bytes g.d + 2 * g.h * (g.d / 32)

/-- A token record holds an invalid encoding (R49). -/
def tokenRecBad (g : Geo) (r : List Byte) : Bool :=
  elemsBad g.fmt (2 * g.h * g.bytes g.d) r || scalesBad (r.drop (2 * g.h * g.bytes g.d))

/-- The rows a write stores at one layer and KV group: first token and one record per token. -/
structure RowWrite where
  ctx : Nat
  layer : Nat
  group : Nat
  t0 : Nat
  recs : List (List Byte)
  deriving DecidableEq, Repr

/-- The fields shared by APPEND and COMMIT. -/
structure WriteHdr where
  tag : Nat
  ctx : Nat
  layer : Nat
  group : Nat
  slot : Nat
  nrows : Nat
  t0 : Nat
  /-- rows follow: always for APPEND -/
  hasRows : Bool
  newL : Nat
  /-- a reserved field is set -/
  reserved : Bool
  deriving DecidableEq, Repr

def appendHdr (b : List Byte) : WriteHdr :=
  { tag := u b 0 8, ctx := field (u b 8 4) 0 21, layer := field (u b 0xC 2) 0 9, group := u b 0xE 1,
    slot := u b 0x10 2, nrows := field (u b 0x12 1) 0 6 + 1, t0 := field (u b 0x14 4) 0 24, hasRows := true, newL := 0,
    reserved := u b 8 4 / 2 ^ 21 != 0 || u b 0xC 2 / 2 ^ 9 != 0 || u b 0xF 1 != 0 || u b 0x12 1 / 64 != 0 ||
      u b 0x13 1 != 0 || u b 0x14 4 / 2 ^ 24 != 0 || !zeroes (sub b 0x18 8) }

def commitHdr (b : List Byte) : WriteHdr :=
  let rows := bit (u b 0x12 1) 0
  { tag := u b 0 8, ctx := field (u b 8 4) 0 21, layer := field (u b 0x18 2) 0 9, group := u b 0x1A 1,
    slot := u b 0x10 2, nrows := field (u b 0x13 1) 0 6 + 1, t0 := field (u b 0x14 4) 0 24, hasRows := rows,
    newL := field (u b 0xC 4) 0 25,
    reserved := u b 8 4 / 2 ^ 21 != 0 || u b 0xC 4 / 2 ^ 25 != 0 || u b 0x12 1 / 2 != 0 || u b 0x13 1 / 64 != 0 ||
      u b 0x14 4 / 2 ^ 24 != 0 || u b 0x18 2 / 2 ^ 9 != 0 || !zeroes (sub b 0x1B 5) ||
      (!rows && (u b 0x13 1 != 0 || u b 0x14 4 != 0 || u b 0x18 2 != 0 || u b 0x1A 1 != 0)) }

/-- The token records that follow a 32-byte header. -/
def tokenRecs (g : Geo) (n : Nat) (b : List Byte) : List (List Byte) :=
  (List.range n).map fun i => sub b (32 + i * tokenRecBytes g) (tokenRecBytes g)

end Sys2Proof.Machine
end

