-- ==== Sys2Proof/Machine/Collate.lean ====
section
/-! DEFINITION. What stands behind a request's answer: collator entries, the encoding of its IMPR, refusals, and their
hand-off to the transport or to the host (05_attention_requests.md, 06_impressions_and_collation.md). -/

namespace Sys2Proof.Machine

/-! ### Requests and entries -/

def reqFind (id : Nat) (s : State) : Option Req := s.sch.reqs.find? fun r => r.id == id
def setReq (r : Req) (s : State) : State :=
  { s with sch.reqs := replaceWhere (fun x => x.id == r.id) (fun _ => r) s.sch.reqs }
def graver (g : Nat) (s : State) : Graver := look {} s.gravers g
def setGraver (g : Nat) (v : Graver) (s : State) : State := { s with gravers := put {} s.gravers g v }
/-- A graver holds work of a request. -/
def graverHas (id : Nat) (g : Graver) : Bool :=
  g.current == some id || (g.descs.any fun d => d.req == id) || g.finished.any fun f => f.1 == id
def anyGraverHas (id : Nat) (s : State) : Bool := s.gravers.any fun x => graverHas id x.2
/-- A request has been answered: it stays, as work only, while a graver still holds some of it. -/
def dropReq (id : Nat) (s : State) : State :=
  { s with
    sch.reqs := if anyGraverHas id s then replaceWhere (fun x => x.id == id) (fun x => { x with phase := .answered }) s.sch.reqs
      else s.sch.reqs.filter fun x => x.id != id
    sch.queues := s.sch.queues.filterMap fun q =>
      let l := q.2.filter (· != id)
      if l.isEmpty then none else some (q.1, l) }

def entryFind (id : Nat) (s : State) : Option ColEntry := s.sch.entries.find? fun e => e.req == some id
def setEntry (e : ColEntry) (s : State) : State :=
  let same := fun x : ColEntry => x.req == e.req && x.tenant == e.tenant && x.tag == e.tag
  { s with sch.entries := replaceWhere same (fun _ => e) s.sch.entries }
def dropEntry (id : Nat) (s : State) : State :=
  { s with sch.entries := s.sch.entries.filter fun e => e.req != some id }

/-- Answered requests whose work has ended are forgotten. -/
def pruneAnswered (s : State) : State :=
  { s with sch.reqs := s.sch.reqs.filter fun r => r.phase != .answered || anyGraverHas r.id s }

/-- A request is in flight from the end of its check stroke until its IMPR is handed over (R128). -/
def inFlight (r : Req) : Bool := r.phase != .taken && r.phase != .answered
def inFlightCount (s : State) : Nat := (s.sch.reqs.filter inFlight).length

/-- The geometry a request was checked with. -/
def Req.geo (r : Req) : Geo := geoOf r.desc.toNat
def Req.hdr (r : Req) : AttnHdr := attnHdr r.body

/-- The collation-tree line of a slot in the plate in force (R170, R220). -/
def slotTree (r : Req) (s : State) : Option TreeLine :=
  match r.slot with
  | some sl => if sl.tree = 0xFFFF then none
      else (plate s).trees.find? fun t => t.part == sl.part && t.index == sl.tree
  | none => none

/-- The collation-tree line of a request: the one it was admitted with, and before that its slot's (08_plates.md R236). -/
def treeOf (r : Req) (s : State) : Option TreeLine :=
  match r.phase with
  | .taken | .checked => slotTree r s
  | .lookups | .dispatched | .answered => r.tree

/-- The parent's connection; none when the requester is answered (R127, R170). -/
def parentConn (r : Req) (s : State) : Option Nat :=
  match treeOf r s with
  | some t => if t.parentConn = 0xFFFF then none else some t.parentConn
  | none => none

/-- The requester is answered: FINAL of the IMPR. -/
def isFinal (r : Req) (s : State) : Bool := (parentConn r s).isNone

/-- The range a child position accounts for under committed length `len` (R220, R133). -/
def childRange (c : TreeChild) (len : Nat) : Nat × Nat := (c.base, if c.limit = 0 then len else min c.limit len)

/-- The child position of a connection in a tree line: as its primary or its backup node (R170). -/
def positionIn (t : TreeLine) (c : Nat) : Option Nat :=
  ((indexed 0 t.children).find? fun x => x.2.primary == c || x.2.backup == c).map (·.1)

/-- The child positions of a request's tree line. -/
def childrenOf (r : Req) (s : State) : List TreeChild :=
  match treeOf r s with
  | some t => t.children
  | none => []

/-! ### Telemetry counts of answers (17_management_and_registers.md R455) -/

def sat32 (n : Nat) : Nat := min 0xFFFFFFFF n

/-- An IMPR is handed over: TEL counts. -/
def telImpr (i : ImprMsg) (s : State) : State :=
  let dropped := ((i.cov.filter fun c => c.status == stPageDropped && !c.cand).map (·.count)).sum
  { s with
    tel.live.imprSent := sat32 (s.tel.live.imprSent + 1)
    tel.live.slipResults := sat32 (s.tel.live.slipResults + b2n (i.slip || i.status == stPlanSlip))
    tel.live.droppedTokens := sat32 (s.tel.live.droppedTokens + dropped) }

/-! ### Hand-off -/

/-- The 64-byte command entry `idx` of a list (R347). -/
def listCommand (f : Nat) (l : CmdList) (idx : Nat) (s : State) : List Byte := b2Read f (l.off + 64 + 64 * idx) 64 s

/-- Function indices from here on stand for work of a function that was reset under it (13_host_attachment.md R351): the
remainder is the function. -/
abbrev detached : Nat := 1000

/-- Write an IMPR to a host command's OUT and end the command (R350). -/
def hostImpr (f seq idx out : Nat) (i : ImprMsg) (s : State) : State :=
  endCommand f 0 seq idx i.status 0 i.bytes.length (b2Write (f % detached) out i.bytes s)

/-- The word kind of an IMPR (11_fabric_ports.md R300). -/
def imprKind (i : ImprMsg) : Nat := if i.final && i.outBf16 then 2 else 1

/-- The entry of a request with child positions has closed: its TAG is remembered for 64 passes (R173,
notes/assumptions/13.md). -/
def noteClosed (r : Req) (s : State) : State :=
  if (childrenOf r s).isEmpty || (entryFind r.id s).isNone then s
  else { s with sch.closed :=
    ((s.sch.closed.filter fun x => passNow s < x.2.2 + 64) ++ [(r.tenant, r.tag, passNow s)]) }

/-- The request leaves: its IMPR goes to the transport or to the host, its ATTN token returns, its entry is gone
(R27, R128, R328). -/
def handOver (r : Req) (i : ImprMsg) (s : State) : State :=
  let s := noteClosed r s
  let s := telImpr i (dropEntry r.id (dropReq r.id s))
  match r.host, r.conn with
  | some (f, seq, idx), _ => { hostImpr f seq idx r.out i s with tfx.hostTokens := s.tfx.hostTokens - 1 }
  | none, some c =>
    let dest := (parentConn r s).getD c
    let await := if r.phase = .dispatched ∧ !r.bestEffort ∧ !s.pwr.hold then some (strokeCount s) else none
    queueMsg dest { typ := tImpr, kind := imprKind i, tag := i.tag, body := i.bytes, slip := i.slip, await } (returnToken c s)
  | none, none => s

/-- A refusal (R115, R152): counted in REFUSED, answered with no rows. -/
def refuseReq (r : Req) (status : Nat) (s : State) : State :=
  let a := r.hdr
  let s := countEvent cRefused unitNode s
  let s := { s with tel.live.refused := sat32 (s.tel.live.refused + 1) }
  handOver r (refusalImpr a.tag status a.ctx a.layer a.group a.headPos (isFinal r s)) s

/-! ### The encoding of a result (R151 to R162) -/

/-- Coverage entries for keys that a graver was dealt and has not delivered. -/
def dealtCov (status nrows : Nat) (ds : List Dealt) : List Cov :=
  ds.map fun d => ⟨d.base, d.count, d.cand, status, allRows nrows⟩

/-- The chunk span of a token range. -/
def chunkSpan (lo hi : Nat) : Nat × Nat := (lo / 4096, ceilDiv hi 4096)

/-- Token ranges accounted for: the request's own and its children's. -/
def accounted (r : Req) (s : State) : List (Nat × Nat) :=
  ((r.lo, r.hi) :: (childrenOf r s).map (childRange · r.len)).filter fun x => x.1 < x.2

/-- The sources an entry holds, in order: stacks ascending, then children by position (R165). -/
def heldInOrder (e : ColEntry) : List Arrival :=
  (List.range 32).flatMap fun src => e.taken.filter fun a => a.source == src

/-- What the holder forms of some sources' fragments over the chunks in `acc` (R161, R162, R165). A KIND 3 fragment is the
complete result and passes unchanged. -/
def formFrags (r : Req) (held : List Frag) (acc : List (Nat × Nat)) : List Frag :=
  let a := r.hdr
  if r.canon then
    match (fragsOf 3 held).head? with
    | some f => [f]
    | none => canonicalFrags held acc (chunkCount r.len) a.rows r.geo.d
  else nativeFrags (held.map (·.rows)) a.rows r.geo.d

/-- The fragments of the answer. -/
def answerFrags (r : Req) (e : ColEntry) (s : State) : List Frag :=
  formFrags r ((heldInOrder e).flatMap (·.frags)) ((accounted r s).map fun x => chunkSpan x.1 x.2)

/-- Fragments that are not empty. -/
def fullFrags (l : List Frag) : Nat := (l.filter fun f => !rowsEmpty f.rows).length

/-- Merges that form the answer from what the collator holds (R176). -/
def answerMerges (r : Req) (e : ColEntry) (s : State) : Nat :=
  fullFrags ((heldInOrder e).flatMap (·.frags)) - fullFrags (answerFrags r e s)

/-- A source may still bring something: a stack that has keys to deliver, a child position that has not been accepted, or an
arrival that waits. -/
def sourcePending (e : ColEntry) (src : Nat) : Bool :=
  (e.arrivals.any fun a => a.source == src) ||
    if src < 16 then e.dealt.any fun d => d.graver / 16 == src else !e.accepted.contains (src - 16)

/-- Chunks that sources may still bring. -/
def chunksPending (r : Req) (e : ColEntry) (s : State) : List (Nat × Nat) :=
  ((e.dealt ++ e.arrivals.flatMap (·.keys)).filter fun d => !d.cand).map (fun d => chunkSpan d.base (d.base + d.count)) ++
    ((indexed 0 (childrenOf r s)).filter fun x => sourcePending e (16 + x.1)).map fun x =>
      let rg := childRange x.2 r.len
      chunkSpan rg.1 rg.2

/-- Merges that the collator can have made by now: it merges as sources arrive, in the order of R161 or R165, and holds any
operand that order needs later (R167). -/
def mergesNow (r : Req) (e : ColEntry) (s : State) : Nat :=
  let sources := List.range (16 + (childrenOf r s).length)
  let ready := if r.canon then heldInOrder e
    else
      let first := ((sources.filter (sourcePending e)).head?).getD 32
      (heldInOrder e).filter fun a => a.source < first
  let pending := chunksPending r e s
  let acc := ((List.range (chunkCount r.len)).filter fun q =>
    inSpans ((accounted r s).map fun x => chunkSpan x.1 x.2) q && !inSpans pending q).map fun q => (q, q + 1)
  let frags := ready.flatMap (·.frags)
  fullFrags frags - fullFrags (formFrags r frags acc)

/-- HUB_COL_MERGES.DONE counts the merges of an entry as they are made. -/
def countMerges (n : Nat) (e : ColEntry) (s : State) : ColEntry × State :=
  ({ e with merged := max e.merged n },
    { s with ctr := upd 0 s.ctr cColMerges.key fun k => (k + (n - e.merged)) % 2 ^ 64 })

/-- R158: what replaces a result with too many coverage entries. -/
def collapse (nrows d cands : Nat) (i : ImprMsg) : ImprMsg :=
  let st := (lowest (i.cov.map (·.status))).getD stOk
  { i with
    frags := [⟨0, 0, 0, List.replicate nrows (emptyRow d)⟩]
    cov := covTokens i.lo (i.hi - i.lo) st (allRows nrows) ++
      if i.candIn then [⟨0, cands, true, st, allRows nrows⟩] else []
    collapsed := true }

/-- Coverage entries of a request before they are joined (R157). -/
def resultCov (r : Req) (e : ColEntry) (extra : List Cov) : List Cov :=
  covJoin (r.cov ++ e.cov ++ (e.taken.flatMap (·.cov)) ++ extra)

/-- The result has too many coverage entries (R158). -/
def tooMany (cov : List Cov) : Bool := 1024 < cov.length

/-- The IMPR of a request from its entry; `extra` are coverage entries for what no fragment accounts for, `codes` further
conditions (R151 to R158). A result that accounts for no committed token has LO = HI = RANGE_BASE (DESIGN CHOICE,
notes/assumptions/113.md). -/
def resultImpr (r : Req) (e : ColEntry) (extra : List Cov) (codes : List Nat) (s : State) : ImprMsg :=
  let a := r.hdr
  let cov := resultCov r e extra
  let slip := r.slip || e.taken.any fun x => x.slip || x.inGrace || x.status == stPlanSlip
  let acc := accounted r s
  let lo := (lowest (acc.map (·.1))).getD r.lo
  let i : ImprMsg :=
    { tag := a.tag
      status := combine (cov.map (·.status) ++ e.codes ++ (e.taken.map (·.status)) ++ codes ++ codeIf slip stPlanSlip)
      canon := r.canon, outBf16 := isFinal r s && a.outBf16, final := isFinal r s
      candIn := a.candKv || e.taken.any (·.candIn), slip := slip, collapsed := e.taken.any (·.collapsed), nrows := a.rows
      headDim := r.geo.headDim, ctx := a.ctx, layer := a.layer, group := a.group, headPos := a.headPos, len := r.len, lo := lo
      hi := acc.foldl (fun m x => max m x.2) lo, node := (plate s).nodeId
      sources := min 4096 (1 + (e.taken.map (·.sources)).sum)
      admitAt := e.taken.foldl (fun m x => if x.source < 16 then m else min m x.admitAt) r.admitTime, cov := cov
      frags := answerFrags r e s }
  if tooMany cov then collapse a.rows r.geo.d a.cands i else i

/-- Send a request's result: counts a collapse (R158) and the last merges that form it (R176). -/
def sendResult (r : Req) (e : ColEntry) (extra : List Cov) (codes : List Nat) (s : State) : State :=
  let s := if tooMany (resultCov r e extra) then countEvent cCovCollapsed unitCollator s else s
  handOver r (resultImpr r e extra codes s) (countMerges (answerMerges r e s) e s).2

/-! ### Sources of an entry (R167 to R173) -/

/-- Empty the rows of a fragment that an error struck. -/
def blankRows (d : Nat) (bad : List Nat) (f : Frag) : Frag :=
  { f with rows := (indexed 0 f.rows).map fun x => if bad.contains x.1 then emptyRow d else x.2 }

/-- The range that a child's source accounts for. -/
def sourceRange (r : Req) (a : Arrival) (s : State) : Nat × Nat :=
  match (childrenOf r s)[a.source - 16]? with
  | some c => childRange c r.len
  | none => (0, 0)

/-- The keys a source accounts for, reported with one status: a stack's own keys, a child's range. -/
def sourceCov (r : Req) (a : Arrival) (status : Nat) (s : State) : List Cov :=
  if a.source < 16 then dealtCov status r.hdr.rows a.keys
  else
    let rg := sourceRange r a s
    covTokens rg.1 (rg.2 - rg.1) status (allRows r.hdr.rows)

/-- Coverage of rows that a collator-buffer error struck, over the source's keys: a child's range, and the candidate keys when
it accounts for them (R169). -/
def struckCov (r : Req) (a : Arrival) (bad : List Nat) (s : State) : List Cov :=
  let keys := sourceCov r a stUncorrectable s ++
    if 16 ≤ a.source && a.candIn then [⟨0, r.hdr.cands, true, stUncorrectable, 0⟩] else []
  bad.flatMap fun row => keys.map fun c => { c with rows := BitVec.ofNat 64 (2 ^ row) }

/-- A source with the rows that a buffer error struck excluded (R169). -/
def strikeRows (r : Req) (bad : List Nat) (a : Arrival) (s : State) : Arrival :=
  { a with frags := a.frags.map (blankRows r.geo.d bad), cov := a.cov ++ struckCov r a bad s }

/-- A fragment with a computed key. -/
def nonEmpty (fs : List Frag) : Bool := fs.any fun f => !rowsEmpty f.rows

/-- A source brings the complete result (R162). -/
def isComplete (a : Arrival) : Bool := a.frags.any fun f => f.kind == 3

/-- A child agrees with its parent's request in shape (R172). -/
def childAgrees (r : Req) (a : Arrival) : Bool :=
  a.canon == r.canon && a.len == r.len && a.headDim == r.geo.headDim && a.nrows == r.hdr.rows

/-- A source is refused as a mismatch: its keys are absent (R172). -/
def refuseSource (r : Req) (x : ColEntry × State) (a : Arrival) : ColEntry × State :=
  ({ x.1 with cov := x.1.cov ++ sourceCov r a stPageAbsent x.2 }, countEvent cMismatch unitCollator x.2)

/-- A source joins the entry (R167, R171, R172). `bad` are rows that a buffer error struck. A child's body that is malformed is
refused as such whatever its STATUS byte says (DESIGN CHOICE, notes/assumptions/112.md). A complete result stands alone: other
sources with a non-empty fragment are refused, whichever came first (R162). -/
def joinArrival (r : Req) (e : ColEntry) (a : Arrival) (bad : List Nat) (s : State) : ColEntry × State :=
  let child := decide (16 ≤ a.source)
  if child && !a.malformed && !stMild a.status then
    ({ e with cov := e.cov ++ sourceCov r a a.status s, codes := e.codes ++ [a.status] }, s)
  else if (child && (a.malformed || !childAgrees r a)) || (e.taken.any isComplete && nonEmpty a.frags) then
    refuseSource r (e, s) a
  else
    let clash := fun x : Arrival => isComplete a && nonEmpty x.frags
    let j := (e.taken.filter clash).foldl (refuseSource r) ({ e with taken := e.taken.filter fun x => !clash x }, s)
    let e := { j.1 with taken := j.1.taken ++ [strikeRows r bad a s] }
    countMerges (mergesNow r e j.2) e j.2

/-- Every source that waits joins. -/
def joinAll (r : Req) (e : ColEntry) (s : State) : ColEntry × State :=
  e.arrivals.foldl (fun x a => joinArrival r x.1 a [] x.2) ({ e with arrivals := [] }, s)

/-- Missing sources of an entry, once per stack (R168). -/
def lateStacks (e : ColEntry) : List Nat := once (e.dealt.map fun d => d.graver / 16)

/-- The entry closes for its local sources: what was dealt and not received is absent (R168). -/
def cutLocal (r : Req) (e : ColEntry) (s : State) : ColEntry × State :=
  ({ e with cov := e.cov ++ dealtCov stPageAbsent r.hdr.rows e.dealt, dealt := [] },
    (lateStacks e).foldl (fun s st => countEvent cSourceLate (unitStack st) s) s)

/-- The child positions of a request that have not been accepted. -/
def missingChildren (r : Req) (e : ColEntry) (s : State) : List (Nat × TreeChild) :=
  (indexed 0 (childrenOf r s)).filter fun x => !e.accepted.contains x.1

/-- The entry is answered: children that have not arrived are absent and late (R171). A request that was never admitted has no
entry that a child could miss. -/
def answerEntry (r : Req) (e : ColEntry) (codes : List Nat) (s : State) : State :=
  let missing := missingChildren r e s
  let t := if (entryFind r.id s).isSome then missing.foldl (fun s _ => countEvent cSourceLate unitCollator s) s else s
  let absent := missing.flatMap fun x =>
    let rg := childRange x.2 r.len
    covTokens rg.1 (rg.2 - rg.1) stPageAbsent (allRows r.hdr.rows)
  sendResult r e absent codes t

/-- A request's entry closes and its IMPR is encoded. -/
def closeEntry (r : Req) (e : ColEntry) (s : State) : State :=
  let c := cutLocal r e s
  answerEntry r c.1 (codeIf r.cancelled stCancelled) c.2

/-- The entry closes with every source that has arrived. -/
def closeNow (r : Req) (e : ColEntry) (s : State) : State :=
  let j := joinAll r e s
  closeEntry r j.1 (setEntry j.1 j.2)

/-! ### Early ends (R147, R434) -/

/-- The collator entry a request works with: its own, or an empty one when it has none yet. -/
def entryOrNew (r : Req) (s : State) : ColEntry :=
  (entryFind r.id s).getD { tenant := r.tenant, tag := r.tag, req := some r.id }

/-- The covered range [B, E) of a request under a committed length (R133). -/
def coveredRange (a : AttnHdr) (len : Nat) : Nat × Nat :=
  (a.base, max a.base (if a.limit = 0 then len else min a.limit len))

/-- Everything a request covers, reported with one status: candidate keys with CANDKV, and the range. -/
def wholeCov (r : Req) (status : Nat) : List Cov :=
  let a := r.hdr
  covTokens r.lo (r.hi - r.lo) status (allRows a.rows) ++
    if a.candKv then [⟨0, a.cands, true, status, allRows a.rows⟩] else []

/-- A request that has not been dispatched ends at once with an IMPR that reports its own keys with `status` (R147, R434);
children that have arrived are merged, and the others are absent (notes/assumptions/113.md). Before its admission it is
measured against the committed length now in force (notes/assumptions/10.md). -/
def endUndispatched (r : Req) (status : Nat) (s : State) : State :=
  let r := if r.phase = .checked then
      let len := ctxLen r.hdr.ctx s
      let c := coveredRange r.hdr len
      { r with len := len, lo := c.1, hi := c.2, admitTime := s.time.now }
    else r
  let r := { r with cov := [] }
  let j := joinAll r (entryOrNew r s) s
  answerEntry r { j.1 with cov := j.1.cov ++ wholeCov r status } [status] j.2

/-- The fragments and coverage of every graver that worked on a request: closed blocks count (R147, R421). -/
def graverShare (id : Nat) (x : Nat × Graver) : Option (Nat × List Frag × List Cov) :=
  let g := x.2
  match g.finished.find? fun f => f.1 == id with
  | some f => some (x.1, f.2.1, f.2.2)
  | none => if g.current = some id then some (x.1, g.frags, g.cov) else none

/-- What one graver passes on of its closed blocks: in native mode one fold (R103, R165). -/
def graverFrags (r : Req) (fs : List Frag) : List Frag :=
  if r.canon then fs else nativeFrags (fs.map (·.rows)) r.hdr.rows r.geo.d

/-- The stack fragments of gravers that deliver together: the canonical cover of what they hold, or the native fold in
ascending graver index (R161, R165, R166). `acc` are the chunks dealt to them. -/
def stackFrags (r : Req) (shares : List (Nat × List Frag × List Cov)) (acc : List (Nat × Nat)) : List Frag :=
  let a := r.hdr
  let held := shares.flatMap fun x => graverFrags r x.2.1
  if r.canon then canonicalFrags held acc (chunkCount r.len) a.rows r.geo.d
  else nativeFrags (held.map (·.rows)) a.rows r.geo.d

/-- The blocks of a graver's work on a request that are not closed: its open block and those of its descriptors. -/
def openBlocks (id : Nat) (g : Graver) : List Block :=
  (if g.current = some id then (match g.block with | some b => [b.block] | none => []) else []) ++
    ((g.descs.filter fun d => d.req == id).flatMap (·.blocks))

/-- Coverage for the computable keys of a block. -/
def blockCov (r : Req) (status : Nat) (b : Block) : List Cov :=
  let a := r.hdr
  if b.cand then [⟨0, a.cands, true, status, allRows a.rows⟩]
  else b.pages.flatMap fun p => covTokens (p.page * 128 + p.row) p.count status (allRows a.rows)

/-- A graver forgets a request. -/
def graverForget (id : Nat) (g : Graver) : Graver :=
  { g with
    descs := g.descs.filter fun d => d.req != id
    finished := g.finished.filter fun f => f.1 != id
    current := if g.current = some id then none else g.current
    block := if g.current = some id then none else g.block
    frags := if g.current = some id then [] else g.frags
    cov := if g.current = some id then [] else g.cov
    cancelled := if g.current = some id then false else g.cancelled
    atBoundary := if g.current = some id then false else g.atBoundary
    st := if g.current = some id && g.st = .working then .idle else g.st }

/-- The sources that the gravers of a request still hold, stack by stack: their closed blocks, and every key of an open block
with `status`. -/
def localShares (r : Req) (status : Nat) (e : ColEntry) (s : State) : List Arrival :=
  (List.range 6).filterMap fun st =>
    let mine := s.gravers.filter fun x => x.1 / 16 == st && graverHas r.id x.2
    let shares := mine.filterMap (graverShare r.id)
    if mine.isEmpty then none
    else some
      { source := st, frags := if r.canon then shares.flatMap fun x => x.2.1 else stackFrags r shares []
        cov := (shares.flatMap fun x => x.2.2) ++ mine.flatMap fun x => (openBlocks r.id x.2).flatMap (blockCov r status)
        status := stOk, slip := false, collapsed := false, candIn := false, sources := 0, admitAt := r.admitTime
        keys := e.dealt.filter fun d => mine.any fun x => x.1 == d.graver }

/-- A dispatched request ends now with the blocks already closed; every key of its open blocks is reported with `status`
(R434), and what was dealt to gravers that are fenced or gated is absent (16_faults_and_recovery.md R421). Once its local
sources have closed, what its gravers still hold comes too late (R168). -/
def endDispatched (r : Req) (status : Nat) (s : State) : State :=
  let j := joinAll r (entryOrNew r s) s
  let e := j.1
  let held := if e.closedAt.isSome then [] else localShares r status e s
  let gone := e.dealt.filter fun d => !graverHas r.id (graver d.graver s)
  let e := { e with dealt := [], cov := e.cov ++ dealtCov stPageAbsent r.hdr.rows gone }
  let k := held.foldl (fun x a => joinArrival r x.1 a [] x.2) (e, j.2)
  answerEntry r k.1 [] { k.2 with gravers := mapStore {} (graverForget r.id) k.2.gravers }

end Sys2Proof.Machine
end

