-- ==== Sys2Proof/Machine/Arith.lean ====
section
/-! DEFINITION. The arithmetic of one block on one graver (04_graver_engines.md R92 to R103): keys and values read from
pages or candidate records, scores with soft cap and masks, weights, row sums and outputs. -/

namespace Sys2Proof.Machine

/-! ### Keys of a block -/

/-- One key of a block: its token (or candidate number), and where its K and V stand. -/
structure KeyTok where
  cand : Bool
  /-- token, or candidate number -/
  tok : Nat
  /-- page number within the context, and row within the page -/
  page : Nat
  row : Nat
  tile : Bool
  home : Nat
  deriving DecidableEq, Repr

/-- The keys of a block in ascending order (R137). -/
def blockKeys (cands : Nat) (b : Block) : List KeyTok :=
  if b.cand then (List.range cands).map fun c => ⟨true, c, 0, 0, false, 0⟩
  else b.pages.flatMap fun p =>
    (List.range p.count).map fun i => ⟨false, p.page * 128 + p.row + i, p.page, p.row + i, p.tile, p.home⟩

/-- Elements and scales of a key's K (or V) vector of the request's head position. -/
def keyBytes (r : Req) (v : Bool) (k : KeyTok) (s : State) : List Byte × List Byte :=
  let g := r.geo
  let a := r.hdr
  if k.cand then
    let rec_ := candRec a g r.body k.tok
    let n := g.bytes g.d
    (sub rec_ (if v then n else 0) n, sub rec_ (2 * n + if v then g.d / 32 else 0) (g.d / 32))
  else
    let p := if k.tile then tilePlace k.home else slotPlace k.home
    (memRead s.mem.stk (p.byte (rowOff g v a.headPos k.row)) (g.bytes g.d),
      memRead s.mem.stk (p.byte (scaleOff g v a.headPos k.row)) (g.d / 32))

/-- The exact values of block `k` of a vector, its scale included; none when an encoding is invalid (R51). -/
def vecBlock (g : Geo) (x : List Byte × List Byte) (k : Nat) : Option (List Ex) :=
  let codes := (List.range 32).map fun e => elemAt g.fmt x.1 (32 * k + e)
  let sc := (x.2.getD k 0).toNat
  if sc = 255 ∨ codes.any (elemBad g.elem) then none
  else some (codes.map fun c => exMul (scaleVal sc) (elemVal g.elem c))

/-- The blocks of a vector. -/
def vecBlocks (r : Req) (v : Bool) (s : State) (k : KeyTok) : List (Option (List Ex)) :=
  (List.range (r.geo.d / 32)).map (vecBlock r.geo (keyBytes r v k s))

/-- The exact values of block `k` of a converted query row. -/
def qBlock (a : AttnHdr) (q : QRow) (k : Nat) : List Ex :=
  let sc := scaleVal (q.scales.getD k 127)
  ((q.codes.drop (32 * k)).take 32).map fun c => exMul sc (elemVal (opElem (operandFmt a)) c)

/-! ### Scores (R94, R95, R96) -/

/-- An operation's saturated result, and whether it saturated. -/
def satOp (f : Bool → F32) : F32 × Bool := (f true, fIsInf (f false))

/-- The sum over blocks of R94: terms added in ascending block order. -/
def scoreSum (qs : List (List Ex)) (ks : List (Option (List Ex))) : F32 × Bool :=
  let terms := List.zipWith (fun q k => match k with
    | some k => let x := exSum (List.zipWith exMul q k); satOp fun sat => round32 sat false x
    | none => (0, false)) qs ks
  match terms with
  | [] => (0, false)
  | t :: rest => rest.foldl (fun acc t =>
      let x := satOp fun sat => fAdd sat acc.1 t.1
      (x.1, acc.2 || t.2 || x.2)) t

/-- score(q, t) of R94 before the masks, and whether it saturated. -/
def score (a : AttnHdr) (qs : List (List Ex)) (ks : List (Option (List Ex))) : F32 × Bool :=
  let acc := scoreSum qs ks
  let x := satOp fun sat => fMul sat acc.1 a.scale
  (if a.softcap then softcap a.cap x.1 else x.1, acc.2 || x.2)

/-- A key is masked for a row of candidate `c` (R96, R123). -/
def masked (a : AttnHdr) (len c : Nat) (k : KeyTok) : Bool :=
  let pos := len + maskDepth (a.masks.getD c 0)
  let kpos := if k.cand then len + maskDepth (a.masks.getD k.tok 0) else k.tok
  (a.causal && pos < kpos) || (0 < a.window && kpos + a.window ≤ pos) ||
    (k.cand && !bit (a.masks.getD c 0) k.tok)

/-- The scores of a block, row by row, with masks applied; and whether some score saturated (R94, R96, R109). -/
def blockScores (r : Req) (b : Block) (dead : List Nat) (s : State) : List (List F32) × Bool :=
  let a := r.hdr
  let keys := (blockKeys a.cands b).map fun k => (k, vecBlocks r false s k)
  let rows := (indexed 0 r.qrows).map fun x =>
    let qs := (List.range (r.geo.d / 32)).map (qBlock a x.2)
    keys.map fun k =>
      let sc := score a qs k.2
      let off := masked a r.len (x.1 / a.heads) k.1 || (!b.cand && dead.contains k.1.page)
      (if off then fNegInf else sc.1, sc.2)
  (rows.map fun row => row.map (·.1), rows.any fun row => row.any (·.2))

/-- The keys of a block that are computed: those of pages with an uncorrectable error are not (R109, R153). -/
def liveKeys (cands : Nat) (b : Block) (dead : List Nat) : List KeyTok :=
  (blockKeys cands b).filter fun k => k.cand || !dead.contains k.page

/-- Substituted blocks of a block's K (or V): their keys and block numbers. A block hit by a memory error is never substituted
(R51). -/
def substituted (r : Req) (b : Block) (v : Bool) (dead : List Nat) (s : State) : List (KeyTok × Nat) :=
  (liveKeys r.hdr.cands b dead).flatMap fun k =>
    (indexed 0 (vecBlocks r v s k)).filterMap fun x => if x.2.isNone then some (k, x.1) else none

/-- The row maximum of R97; -infinity for an empty row. -/
def rowMaximum (row : List F32) : F32 := row.foldl fLarger fNegInf

/-! ### Weights and sums (R98, R100, R101) -/

/-- The tree of R100, one halving per step of `fuel`. -/
def treeSum : Nat → List F32 → F32
  | _, [] => 0
  | _, [x] => x
  | 0, x :: _ => x
  | fuel + 1, l => treeSum fuel (pairSums l)
where
  /-- Adjacent pairs added; a last odd one stands. -/
  pairSums : List F32 → List F32
    | a :: b :: t => fAdd false a b :: pairSums t
    | l => l

/-- Groups of 32 tokens anchored at absolute positions; candidate keys form one group (R100). The keys come ascending. -/
def groupKeys : List (KeyTok × F32) → List (List (KeyTok × F32))
  | [] => []
  | x :: t =>
    match groupKeys t with
    | [] => [[x]]
    | [] :: gs => [x] :: gs
    | (y :: g) :: gs =>
      if x.1.cand || x.1.tok / 32 == y.1.tok / 32 then (x :: y :: g) :: gs else [x] :: (y :: g) :: gs

/-- Weights of a row whose maximum is `m`: +0 in a row with no score (R97, R98). -/
def rowWeights (m : F32) (row : List F32) : List F32 :=
  if m = fNegInf then row.map fun _ => 0 else row.map fun x => expFactor x m

/-- One group's weights in the form of R101. -/
def quantise (precise : Bool) (ps : List F32) : WGroup :=
  if precise then ⟨127, ps.map toBf16⟩
  else let x := convertBlock .e4m3 (ps.map fun p => (fNeg p, fVal p)); ⟨x.1, x.2⟩

/-- The exact weights of a group. -/
def groupVals (precise : Bool) (g : WGroup) : List Ex :=
  g.codes.map fun c => if precise then elemVal .bf16 c else exMul (scaleVal g.scale) (elemVal .e4m3 c)

/-- l and the quantised weights of one row (R100, R101). Keys that are excluded stand in no group, so that the tree is the one
without them (06_impressions_and_collation.md R155, R164). -/
def sumRow (precise : Bool) (keys : List KeyTok) (m : F32) (live : KeyTok → Bool) (row : List F32) : F32 × List WGroup :=
  let gs := groupKeys ((List.zip keys (rowWeights m row)).filter fun x => live x.1)
  (treeSum 12 (gs.map fun g => g.foldl (fun acc x => fAdd false acc x.2) 0),
    gs.map fun g => quantise precise (g.map (·.2)))

/-! ### The score sheet (R86 to R90) -/

/-- The bank, and the index within all words, of word (r, g): bank (r + g) mod 32, word 4 r + (g >> 5) of it (R86). -/
def sheetBank (r g : Nat) : Nat := (r + g) % 32
def sheetIndex (r g : Nat) : Nat := sheetBank r g * 256 + 4 * r + g / 32

/-- The row and the token group of a word of a bank. -/
def wordRow (word : Nat) : Nat := word / 4
def wordGroup (bank word : Nat) : Nat := 32 * (word % 4) + (bank + 32 - wordRow word % 32) % 32

/-- What a word reads that nothing has written since its bank was off (R89). -/
def zeroWord : List (BitVec 32) := List.replicate 32 0

/-- The first `n` lanes of a row. -/
def sheetRow (m : Store (List (BitVec 32))) (r n : Nat) : List (BitVec 32) :=
  ((List.range (ceilDiv n 32)).flatMap fun g => look zeroWord m (sheetIndex r g)).take n

/-- Lanes written from the start of a row, whole words at a time. -/
def writeSheetRow (r : Nat) (lanes : List (BitVec 32)) (m : Store (List (BitVec 32))) : Store (List (BitVec 32)) :=
  (List.range (ceilDiv lanes.length 32)).foldl (fun m g =>
    put zeroWord m (sheetIndex r g) ((List.range 32).map fun i => lanes.getD (32 * g + i) 0)) m

/-- The block's scores, in all 64 rows of the sheet: those a request does not use hold zero (R81; notes/assumptions/110.md). -/
def writeScores (n : Nat) (rows : List (List F32)) (m : Store (List (BitVec 32))) : Store (List (BitVec 32)) :=
  (List.range 64).foldl (fun m r => writeSheetRow r (rows.getD r (List.replicate n 0)) m) m

/-- Bytes as lanes, least significant first. -/
def byteLanes (b : List Byte) : List (BitVec 32) :=
  (List.range (ceilDiv b.length 4)).map fun i => BitVec.ofNat 32 (u b (4 * i) 4)

/-- A row's quantised weights as bytes: the codes of every group, then, without the precise option, a scale byte for each group:
66 or 128 bytes for a token of 64 rows (R104). The manual does not lay them out (DESIGN CHOICE, notes/assumptions/110.md). -/
def weightBytes (precise : Bool) (gs : List WGroup) : List Byte :=
  if precise then gs.flatMap fun g => g.codes.flatMap (leBytes 2)
  else (gs.flatMap fun g => g.codes.flatMap (leBytes 1)) ++ gs.flatMap fun g => leBytes 1 g.scale

/-- Sheet words that a row's weights take, for `t` tokens in `n` groups. -/
def weightWords (precise : Bool) (t n : Nat) : Nat := ceilDiv (if precise then 2 * t else t + n) 128

/-- The weights of a row from its bytes, for groups of these sizes. -/
def readWeights (precise : Bool) (sizes : List Nat) (b : List Byte) : List WGroup :=
  let size := if precise then 2 else 1
  (indexed 0 sizes).map fun x =>
    let first := (sizes.take x.1).sum
    ⟨if precise then 127 else u b (sizes.sum + x.1) 1, (List.range x.2).map fun i => u b (size * (first + i)) size⟩

/-- The weights that the sheet holds for the rows of a request. -/
def sheetWeights (precise : Bool) (nrows : Nat) (sizes : List Nat) (m : Store (List (BitVec 32))) : List (List WGroup) :=
  (List.range nrows).map fun r =>
    readWeights precise sizes
      ((sheetRow m r (32 * weightWords precise sizes.sum sizes.length)).flatMap fun x => leBytes 4 x.toNat)

/-- Every bank of a graver is on. -/
def banksOn (gv : Graver) : Bool := (List.range 32).all fun b => look 0 gv.banks b == 2

/-- A bank goes off: its words lose their contents (R89). -/
def dropBank (b : Nat) (gv : Graver) : Graver :=
  { gv with banks := put 0 gv.banks b 0, waking := gv.waking.filter fun x => x.1 != b
            sheet := gv.sheet.filter fun x => x.1 / 256 != b }

/-- Every bank goes off. -/
def banksOff (gv : Graver) : Graver := { gv with banks := [], waking := [], sheet := [] }

/-! ### Outputs (R102) -/

/-- V element `x` of a key: zero when its block is substituted. -/
def vElem (k : KeyTok × List (Option (List Ex))) (x : Nat) : Ex :=
  match k.2.getD (x / 32) none with
  | some vs => vs.getD (x % 32) ⟨0, 0⟩
  | none => ⟨0, 0⟩

/-- o of one row: per element the tree of the group terms. -/
def outRow (precise : Bool) (d : Nat) (vs : List (List (KeyTok × List (Option (List Ex))))) (ws : List WGroup) : List F32 :=
  (List.range d).map fun x =>
    treeSum 12 (List.zipWith (fun ks w =>
      rne32s (exSum (List.zipWith (fun p k => exMul p (vElem k x)) (groupVals precise w) ks))) vs ws)

/-- The computed keys of a block in their groups. -/
def blockGroups (r : Req) (b : Block) (dead : List Nat) : List (List KeyTok) :=
  (groupKeys ((liveKeys r.hdr.cands b dead).map fun k => (k, 0))).map fun g => g.map (·.1)

/-- The computed keys of a block in their groups, with their V blocks. -/
def groupedV (r : Req) (b : Block) (dead : List Nat) (s : State) : List (List (KeyTok × List (Option (List Ex)))) :=
  (blockGroups r b dead).map fun g => g.map fun k => (k, vecBlocks r true s k)

/-- The whole of a block, from its scores: maxima, sums, weights (R97 to R101). -/
def blockWeights (r : Req) (b : Block) (dead : List Nat) (scores : List (List F32)) :
    List F32 × List (F32 × List WGroup) :=
  let keys := blockKeys r.hdr.cands b
  let live := fun k : KeyTok => k.cand || !dead.contains k.page
  let ms := scores.map rowMaximum
  (ms, List.zipWith (fun m row => sumRow r.hdr.precise keys m live row) ms scores)

/-- The outputs of a block from its weights (R102): +0 in a row with no score. -/
def blockOuts (r : Req) (b : Block) (dead : List Nat) (ms : List F32) (ws : List (List WGroup)) (s : State) :
    List (List F32) :=
  let vs := groupedV r b dead s
  List.zipWith (fun m w => if m = fNegInf then List.replicate r.geo.d 0
    else outRow r.hdr.precise r.geo.d vs w) ms ws

/-- The block impression, one row per used row (R103, R110). -/
def blockRows (r : Req) (b : Block) (dead deadRows : List Nat) (ms ls : List F32) (os : List (List F32)) : List Row :=
  let t := (liveKeys r.hdr.cands b dead).length
  (indexed 0 (List.zip ms (List.zip ls os))).map fun x =>
    if deadRows.contains x.1 then emptyRow r.geo.d else ⟨x.2.1, x.2.2.1, t, x.2.2.2⟩

/-- Coverage of what a block excludes: pages for every row, and the whole block for rows of R110 (R109, R110, R156). -/
def blockExcluded (r : Req) (b : Block) (dead deadRows : List Nat) : List Cov :=
  let a := r.hdr
  let pages := b.pages.filter fun p => dead.contains p.page
  let all := pages.flatMap fun p => covTokens (p.page * 128 + p.row) p.count stUncorrectable (allRows a.rows)
  let rows := deadRows.flatMap fun row =>
    let mask : BitVec 64 := BitVec.ofNat 64 (2 ^ row)
    if b.cand then [⟨0, a.cands, true, stUncorrectable, mask⟩]
    else b.pages.flatMap fun p => covTokens (p.page * 128 + p.row) p.count stUncorrectable mask
  all ++ rows

end Sys2Proof.Machine
end

