-- ==== Sys2Proof/Machine/Flash.lean ====
section
/-! DEFINITION. The flash tier's medium (07_residency_and_tiers.md R201 to R204): channels and targets, where the codewords of a
TLPN lie, and the translation layer's blocks. Where R204 leaves a choice (which of two equal blocks, how much one maintenance
stroke does, when an empty block is erased), notes/assumptions/54.md names what the model does. -/

namespace Sys2Proof.Machine

abbrev codewordBytes : Nat := 4096
/-- A codeword on NAND: its ciphertext, 16 bytes of metadata and 496 of parity. -/
abbrev nandCodeword : Nat := 4608
/-- Codewords of a tier page (R203). -/
abbrev codewordsPerPage : Nat := 17
abbrev dayStrokes : Nat := 86400 * secStrokes

/-! ### Targets (R202) -/

/-- Raw bytes of a target, spare areas included, and those of its blocks without a factory mark. -/
def targetRaw (t : FlashTarget) : Nat := t.blocks * t.blockPages * t.pageBytes
def targetGood (t : FlashTarget) : Nat := t.blocks - (once t.badBlocks).length
def targetGoodBytes (t : FlashTarget) : Nat := targetGood t * t.blockPages * t.pageBytes
/-- Codewords that a block holds. -/
def targetCodewords (t : FlashTarget) : Nat := t.blockPages * (t.pageBytes / nandCodeword)

/-- The index of a target's first block. -/
def targetFirst (t : FlashTarget) : Nat := (t.channel * 8 + t.target) * 2 ^ 20

/-- The mounted targets of a channel. -/
def channelTargets (c : Nat) (s : State) : List FlashTarget := s.fsh.targets.filter fun t => t.channel == c

/-- The channel of a block. -/
def blockChannel (b : Nat) : Nat := b / 2 ^ 23

def flashBlock (b : Nat) (s : State) : FlashBlock := look {} s.fsh.blocks b
def setNand (b : Nat) (v : FlashBlock) (s : State) : State := { s with fsh.blocks := put {} s.fsh.blocks b v }

/-- The mounted target of a block. -/
def blockTarget (b : Nat) (s : State) : Option FlashTarget := s.fsh.targets.find? fun t => targetFirst t / 2 ^ 20 == b / 2 ^ 20

/-! ### Where codewords lie (R203) -/

/-- The channel of codeword `i` of a TLPN. -/
def codewordChannel (t i : Nat) : Nat := 4 * (t % 4) + i % 4

/-- The channels of a TLPN. -/
def tlpnChannels (t : Nat) : List Nat := (List.range 4).map fun i => codewordChannel t i

/-- A codeword's index, and the AES-XTS tweak of its data unit. -/
def codewordIdx (t i : Nat) : Nat := t * 32 + i

/-- The codewords whose block this is. -/
def blockHolds (b : Nat) (s : State) : List Nat := (s.fsh.places.filter fun x => x.2 == b + 1).map (·.1)

/-! ### Blocks (R204) -/

/-- Blocks of a channel that are known to hold something, or to be retired. -/
def takenBlocks (c : Nat) (s : State) : List Nat :=
  (s.fsh.blocks.filter fun x => blockChannel x.1 == c && (0 < x.2.used || x.2.retired)).map (·.1)

def goodBlocks (c : Nat) (s : State) : Nat := ((channelTargets c s).map targetGood).sum

/-- Free blocks of a channel. -/
def freeBlocks (c : Nat) (s : State) : Nat := goodBlocks c s - (takenBlocks c s).length

/-- The reserve of a channel: 2 % of its good blocks. -/
def reserveBlocks (c : Nat) (s : State) : Nat := ceilDiv (goodBlocks c s) 50

/-- The lowest block of a target that was never erased and is free. -/
def pristine (t : FlashTarget) (s : State) : Option Nat :=
  let listed := (s.fsh.blocks.filter fun x => x.1 / 2 ^ 20 == targetFirst t / 2 ^ 20).map fun x => x.1 % 2 ^ 20
  let b := nthFree (sortNat (once (t.badBlocks ++ listed))) 0
  if b < t.blocks then some (targetFirst t + b) else none

/-- The free block of a channel with the lowest erase count. -/
def freshBlock (c : Nat) (s : State) : Option Nat :=
  match ((channelTargets c s).filterMap fun t => pristine t s).head? with
  | some b => some b
  | none =>
    let free := s.fsh.blocks.filter fun x => blockChannel x.1 == c && x.2.used == 0 && !x.2.retired
    (lowest (free.map (·.2.erases))).bind fun e => ((free.find? fun x => x.2.erases == e).map (·.1))

/-- The block that a channel is programming, while it has room. -/
def openNand (c : Nat) (s : State) : Option Nat :=
  let b := look 0 s.fsh.opened c
  if b = 0 then none
  else match blockTarget (b - 1) s with
    | some t => if (flashBlock (b - 1) s).used < targetCodewords t then some (b - 1) else none
    | none => none

/-- A block to program on a channel, opened where none is; none when only the reserve is left (`keep` blocks stay free), and on a
fenced channel. -/
def blockFor (c keep : Nat) (s : State) : Option (Nat × State) :=
  if bit s.flt.fencedChannels c then none
  else match openNand c s with
    | some b => some (b, s)
    | none =>
      if freeBlocks c s ≤ keep then none
      else (freshBlock c s).map fun b => (b, { s with fsh.opened := put 0 s.fsh.opened c (b + 1) })

/-- One codeword is programmed into a block of its channel. -/
def placeCodeword (keep idx c : Nat) (s : State) : Option State :=
  (blockFor c keep s).map fun x =>
    let b := flashBlock x.1 x.2
    let s := setNand x.1 { b with used := b.used + 1, since := if b.used = 0 then s.time.elapsed else b.since } x.2
    { s with fsh.places := put 0 s.fsh.places idx (x.1 + 1) }

/-- The codewords of a TLPN are programmed on their channels; none when one of them finds no block outside the channel's reserve,
which only the rewriting of a failed program may use. -/
def placeTlpn (rewrite : Bool) (t : Nat) (s : State) : Option State :=
  (List.range codewordsPerPage).foldl
    (fun o i => o.bind fun s =>
      placeCodeword (if rewrite then 0 else reserveBlocks (codewordChannel t i) s) (codewordIdx t i) (codewordChannel t i) s)
    (some s)

/-- The channels of a TLPN have room for its codewords outside their reserves. -/
def tierRoom (t : Nat) (s : State) : Bool := (placeTlpn false t s).isSome

/-- A program fails on a channel: the block is retired, and what it holds is relocated in maintenance strokes. -/
def retireOpen (s : State) (c : Nat) : State :=
  match blockFor c 0 s with
  | some (b, s) =>
    tally cRetired { setNand b { flashBlock b s with retired := true } s with fsh.opened := put 0 s.fsh.opened c 0 }
  | none => s

/-- The codewords of TLPNs leave the map. -/
def unplace (gone : Nat → Bool) (s : State) : State :=
  { s with
    fsh.places := s.fsh.places.filter fun x => !gone (x.1 / 32)
    fsh.seqs := s.fsh.seqs.filter fun x => !gone x.1
    fsh.written := s.fsh.written.filter fun t => !gone t
    fsh.owner := s.fsh.owner.filter fun x => !gone x.1
    mem.tier := s.mem.tier.filter fun x => !gone (x.1 / pageBytes) }

/-- A block's data are gone: it is erased, or retired where its erase fails or its rated endurance is reached. -/
def eraseBlock (fails : Bool) (s : State) (b : Nat) : State :=
  let v := flashBlock b s
  let worn := match blockTarget b s with | some t => t.endurance ≤ v.erases + 1 | none => false
  let s := if look 0 s.fsh.opened (blockChannel b) = b + 1 then { s with fsh.opened := put 0 s.fsh.opened (blockChannel b) 0 } else s
  let s := if !v.retired && (fails || worn) then tally cRetired s else s
  setNand b { erases := v.erases + 1, retired := v.retired || fails || worn } s

/-- Blocks that were programmed and hold no codeword any more. -/
def emptyBlocks (s : State) : List Nat := ((s.fsh.blocks.filter fun x => 0 < x.2.used).map (·.1)).filter fun b => (blockHolds b s).isEmpty

/-- Reads of a block since its erase that call for its relocation, and the days that its data may stand. -/
def readLimit (bits : Nat) : Nat := if bits = 1 then 500000 else if bits = 3 then 50000 else 10000
def retentionDays (bits : Nat) : Nat := if bits = 1 then 90 else if bits = 3 then 30 else 7

/-- Erase counts of a channel's good blocks: the lowest among those that hold data, and the spread over all. -/
def wearSpread (c : Nat) (s : State) : Nat :=
  let all := (s.fsh.blocks.filter fun x => blockChannel x.1 == c).map (·.2.erases)
  let low := if (s.fsh.blocks.filter fun x => blockChannel x.1 == c).length < goodBlocks c s then 0 else (lowest all).getD 0
  all.foldl max 0 - low

/-- The block holds data that the translation layer must relocate: read too often, held too long, marginal or retired. -/
def mustRelocate (b : Nat) (s : State) : Bool :=
  let v := flashBlock b s
  match blockTarget b s with
  | some t =>
    v.retired || v.marginal || readLimit t.bitsPerCell ≤ v.reads ||
      v.since + retentionDays t.bitsPerCell * dayStrokes < s.time.elapsed
  | none => v.retired

/-- The block of a channel to relocate next: one that must be, or the coldest where wear has spread too far. -/
def relocationOf (c : Nat) (s : State) : Option Nat :=
  let held := (s.fsh.blocks.filter fun x => blockChannel x.1 == c && 0 < x.2.used).map (·.1)
  match held.find? fun b => mustRelocate b s with
  | some b => some b
  | none =>
    let rated := ((channelTargets c s).map (·.endurance)).foldl max 0
    if rated < 20 * wearSpread c s then
      (lowest (held.map fun b => (flashBlock b s).erases)).bind fun e => held.find? fun b => (flashBlock b s).erases == e
    else none

/-- A block is relocated: every codeword is read, decoded and written to another block of its channel, under its TLPN, and the
block is erased. A write that fails first retires the block it was to go to. The block stays as it is where the channel has no
other. -/
def relocateBlock (eraseFails writeFails : Bool) (b : Nat) (s : State) : State :=
  let c := blockChannel b
  let start := if look 0 s.fsh.opened c = b + 1 then { s with fsh.opened := put 0 s.fsh.opened c 0 } else s
  let start := if writeFails then retireOpen start c else start
  match (blockHolds b s).foldl (fun o i => o.bind fun s => placeCodeword 0 i c s) (some start) with
  | some s => eraseBlock eraseFails (tally cRelocated s) b
  | none => if writeFails then start else s

/-- What a maintenance stroke of the tier does: the channels are trained (R201), empty blocks are erased, and each channel
relocates at most one block. `fails` are the blocks whose erase fails, `programFails` the channels whose relocation meets a failed
write. -/
def tierMaintenance (fails programFails : List Nat) (s : State) : State :=
  if !s.fsh.mounted then s
  else
    let s := { s with fsh.trainedAt := some s.time.elapsed }
    let s := (emptyBlocks s).foldl (fun s b => eraseBlock (fails.contains b) s b) s
    (List.range 16).foldl (fun s c => match relocationOf c s with
      | some b => if bit s.flt.fencedChannels c then s else relocateBlock (fails.contains b) (programFails.contains c) b s
      | none => s) s

/-! ### Reads -/

/-- Every codeword of the TLPN is read once: the blocks count it. -/
def noteRead (t : Nat) (s : State) : State :=
  (List.range codewordsPerPage).foldl (fun s i =>
    let b := look 0 s.fsh.places (codewordIdx t i)
    if b = 0 then s else setNand (b - 1) { flashBlock (b - 1) s with reads := (flashBlock (b - 1) s).reads + 1 } s) s

/-- Codewords were corrected, each with its count of bits: more than 72 make its block's data marginal. -/
def noteCorrected (t : Nat) (cs : List (Nat × Nat)) (s : State) : State :=
  cs.foldl (fun s x =>
    let b := look 0 s.fsh.places (codewordIdx t x.1)
    if b = 0 || x.2 ≤ 72 then s else setNand (b - 1) { flashBlock (b - 1) s with marginal := true } s)
    (tallyBy cs.length cCwCorrected s)

end Sys2Proof.Machine
end

