-- ==== Sys2Proof/Machine/DirOps.lean ====
section
/-! DEFINITION. The directory's shared operations (03_page_directory.md): extents and their quota, writing an entry with its
shadow, the node's create and swap, and state-only swaps. -/

namespace Sys2Proof.Machine

abbrev extentCount : Nat := 1048576

def setExtent (x : Nat) (v : Extent) (s : State) : State := { s with dir.extents := put {} s.dir.extents x v }

/-- The partition that holds an extent in BUILT, LIVE or GRACE. -/
def extPart : ExtState → Option Nat
  | .free => none
  | .built p | .live p | .grace p _ => some p

/-- Extents a partition holds in BUILT, LIVE and GRACE together (R60). -/
def extHeld (p : Nat) (s : State) : Nat := (s.dir.extents.filter fun x => extPart x.2.st == some p).length
/-- Extents in FREE. -/
def extFree (s : State) : Nat := extentCount - (s.dir.extents.filter fun x => x.2.st != .free).length
/-- A partition holds at most four times its entry count of extents (R60). -/
def extQuota (p : Nat) (s : State) : Nat := 4 * (dirRange p s).2

/-- One FREE extent becomes BUILT for a partition, with 64 words of STATE 5 and 64 tier words of zero (R60); none when the
pool or the quota cannot supply it. -/
def allocExtent (p : Nat) (s : State) : Option (Nat × State) :=
  if extFree s = 0 ∨ extQuota p s ≤ extHeld p s then none
  else
    let k := pick (extFree s) s
    let x := nthFree ((s.dir.extents.filter fun x => x.2.st != .free).map (·.1)) k.1
    some (x, setExtent x { st := .built p } k.2)

/-- An extent enters GRACE in this pass (R60). -/
def extToGrace (x : Nat) (s : State) : State :=
  match (extent x s).st with
  | .live p => setExtent x { extent x s with st := .grace p (passNow s) } s
  | .free | .built _ | .grace _ _ => s

/-- A BUILT extent becomes LIVE. -/
def extToLive (x : Nat) (s : State) : State :=
  match (extent x s).st with
  | .built p => setExtent x { extent x s with st := .live p } s
  | .free | .live _ | .grace _ _ => s

/-- An entry is BUILT for the partition. -/
def extBuiltFor (x p : Nat) (s : State) : Bool := (extent x s).st == .built p

/-- An entry and its shadow copy are written together (R76). -/
def writeEntry (i : Nat) (e : DirEntry) (s : State) : State :=
  { s with
    dir.entries := put {} s.dir.entries i e
    dir.shadows := put {} s.dir.shadows i ⟨e.key, e.data, e.v, e.held⟩ }

/-! ### Integrity (R76) -/

/-- An entry equals its shadow. -/
def shadowAgrees (i : Nat) (s : State) : Bool := dirEntry i s == rawEntry i s

/-- An entry is rewritten from its shadow, and counted (R76). -/
def repairEntry (i : Nat) (s : State) : State :=
  countEvent cKeyRepaired unitNode { s with dir.entries := put {} s.dir.entries i (dirEntry i s) }

/-- The entries that differ from their shadows among some are rewritten. -/
def repairAll (is : List Nat) (s : State) : State :=
  is.foldl (fun s i => if shadowAgrees i s then s else repairEntry i s) s

/-- Every hit of a search is checked against its shadow (R76). -/
def repairHits (p : Nat) (key mask : BitVec 80) (s : State) : State := repairAll (rawHits p key mask s) s

/-! ### Issue cycles (R65, R75; 09_strokes_and_passes.md R247 to R249) -/

/-- Cycles are taken from the first range that still holds them all (R247). -/
def takeRange (n : Nat) : List Nat → Option (List Nat)
  | [] => none
  | r :: t => if n ≤ r then some ((r - n) :: t) else (takeRange n t).map (r :: ·)

/-- No line allots directory cycles: the built-in schedule, or hold mode (R249). Every cycle of the stroke is then free to
every use. -/
def dirOpen (s : State) : Bool := s.plt.running.isNone || s.pwr.hold

/-- An operation takes issue cycles that no line allots. -/
def takeFree (n : Nat) (s : State) : Option State :=
  if n ≤ s.dir.freeCycles then some { s with dir.freeCycles := s.dir.freeCycles - n } else none

/-- A node operation takes its issue cycles, all in one node-update range; none when it must wait. -/
def takeNode (n : Nat) (s : State) : Option State :=
  match takeRange n s.dir.nodeRanges with
  | some r => some { s with dir.nodeRanges := r }
  | none => if dirOpen s then takeFree n s else none

/-- A port command takes its issue cycles, all in one port range. -/
def takePort (n : Nat) (s : State) : Option State :=
  match takeRange n s.dir.portRanges with
  | some r => some { s with dir.portRanges := r }
  | none => if dirOpen s then takeFree n s else none

/-- Operations take their cycles one after another, each in one range; how many could, and what is left. -/
def takeEach : List Nat → State → Nat × State
  | [], s => (0, s)
  | c :: t, s =>
    match takeNode c s with
    | some s' => let r := takeEach t s'; (r.1 + 1, r.2)
    | none => (0, s)

/-- The node operations of one write take their cycles, over several strokes where one stroke's ranges do not hold them
(R247): whether all have them now. -/
def payNode (key : Nat) (costs : List Nat) (s : State) : Bool × State :=
  let before := look 0 s.dir.paid key
  let due := costs.drop before
  let r := takeEach due s
  if r.1 = due.length then (true, { r.2 with dir.paid := put 0 r.2.dir.paid key 0 })
  else (false, { r.2 with dir.paid := put 0 r.2.dir.paid key (before + r.1) })

/-! ### The node's updates (R70 to R72, R471) -/

/-- How a node swap ends: made; not made for want of an extent (R471); or not made because the entry's data are not what
the node last read (R71). -/
inductive SwapEnd where
  | made (s : State)
  | noExtent
  | changed
  deriving DecidableEq, Repr

/-- The node's swap (R70): the run's data, while they equal what the node last read, name a new LIVE extent with these page
and tier words, and the old extent enters GRACE. An extent built for a swap that is not made returns to FREE (R71). -/
def nodeSwap (i : Nat) (seen : BitVec 48) (words tiers : Store Nat) (countM1 : Nat) (tail : Bool) (s : State) : SwapEnd :=
  let s := repairAll [i] s
  let e := dirEntry i s
  let old := dataExt e.data
  match (extPart (extent old s).st).bind fun p => (allocExtent p s).map fun x => (p, x) with
  | none => .noExtent
  | some (p, x, s) =>
    if e.data ≠ seen then .changed
    else .made <| extToGrace old <| writeEntry i { e with data := dirData x countM1 tail } <|
      setExtent x { st := .live p, words := words, tiers := tiers } s

/-- The lowest-indexed free entry of a partition's range (R70). -/
def freeEntry (p : Nat) (s : State) : Option Nat :=
  let r := dirRange p s
  let taken := ((dirView s).filter fun x => r.1 ≤ x.1 && x.1 < r.1 + r.2 && (x.2.v || x.2.held)).map (·.1)
  let i := nthFree taken r.1
  if i < r.1 + r.2 then some i else none

/-- The node's create (R70): the lowest-indexed free entry, on a new LIVE extent with these words. None when no entry or
extent can be had (R72). An entry that no admission lookup has hit has AGE 0, the oldest: the manual gives a new entry no
AGE (DESIGN CHOICE, notes/assumptions/102.md). -/
def nodeCreate (p : Nat) (key : BitVec 80) (words tiers : Store Nat) (countM1 : Nat) (tail : Bool) (s : State) :
    Option State :=
  match freeEntry p s, allocExtent p s with
  | some i, some (x, s) =>
    some <| writeEntry i { key := key, data := dirData x countM1 tail, v := true } <|
      setExtent x { st := .live p, words := words, tiers := tiers } s
  | _, _ => none

/-- The entry that maps a run, its extent and the pages it maps. -/
def runOf (tenant ctx layer group page part : Nat) (s : State) : Option Nat :=
  dirLookup part (dirKey tenant ctx layer group (page / 64 * 64)) s

/-- The page word of a page under an entry: STATE 5 beyond COUNT_M1 (R57). -/
def entryWord (i page : Nat) (s : State) : Nat :=
  let e := dirEntry i s
  if page % 64 < dataCount e.data then extWord (extent (dataExt e.data) s) (page % 64) else noneWord

/-- The tier word of a page under an entry. -/
def entryTier (i page : Nat) (s : State) : Nat :=
  let e := dirEntry i s
  if page % 64 < dataCount e.data then extTier (extent (dataExt e.data) s) (page % 64) else 0

/-- The page word of a context's page, with the entry that maps it. -/
def pageOf (ctx layer group page : Nat) (s : State) : Option (Nat × Nat) :=
  let g := ctxGeo ctx s
  (runOf g.tenant ctx layer group page g.part s).map fun i => (i, entryWord i page s)

/-! ### Slots and tail pages (02_kv_pages.md R46, R181) -/

/-- Slots that page words of an extent name, or named before it was rewritten, and those of all BUILT, LIVE and GRACE extents
(R181). -/
def slotsOf (x : Extent) : List Nat :=
  (x.words.filter fun w => wordState w.2 == 0 || wordState w.2 == 1 || wordState w.2 == 4).map (fun w => wordSlot w.2) ++ x.former
def namedSlots (s : State) : List Nat := s.dir.extents.flatMap fun x => slotsOf x.2

/-- A slot is no longer named by any extent: it awaits zeroing (R181). -/
def slotAwaits (s : State) (slot : Nat) : State :=
  { s with res.slots := upd {} s.res.slots slot fun u => { u with holding := false, awaiting := true, scraped := false } }

/-- TAIL of an entry is set or cleared in place. -/
def setTailBit (i : Nat) (tail : Bool) (s : State) : State :=
  let e := dirEntry i s
  if dataTail e.data = tail then s
  else writeEntry i { e with data := dirData (dataExt e.data) (dataCount e.data - 1) tail } s

/-- A page slot holds the page: STATE 0, 1 or 4. -/
def slotHolds (w : Nat) : Bool := wordState w == 0 || wordState w == 1 || wordState w == 4

/-- The tail page of a layer and KV group (R46). -/
def tailPage (ctx layer group : Nat) (s : State) : Option Nat :=
  let m := stagedMark ctx layer group s
  if m = 0 then none
  else
    match pageOf ctx layer group (m / 128) s with
    | some (_, w) => if slotHolds w then some (m / 128) else some ((m - 1) / 128)
    | none => some ((m - 1) / 128)

abbrev groupMask : BitVec 80 := BitVec.ofNat 80 (2 ^ 48 - 1)

/-- TAIL stands in the entry of the run that holds the tail page, and in no other run of the layer and group. -/
def placeTail (ctx layer group : Nat) (s : State) : State :=
  let g := ctxGeo ctx s
  let key := dirKey g.tenant ctx layer group 0
  let s := repairHits g.part key groupMask s
  let all := dirMatches g.part key groupMask s
  let at_ := (tailPage ctx layer group s).bind fun p => runOf g.tenant ctx layer group p g.part s
  all.foldl (fun s i => setTailBit i (at_ == some i) s) s

/-! ### Changing the words of a run -/

/-- Page words with changes applied. -/
def changeWords (ws : Store Nat) (ch : List (Nat × Nat)) : Store Nat :=
  ch.foldl (fun m x => put noneWord m x.1 x.2) ws
def changeTiers (ts : Store Nat) (ch : List (Nat × Nat)) : Store Nat :=
  ch.foldl (fun m x => put 0 m x.1 x.2) ts

/-- A change of a state-only swap still applies: the page and its TLPN are those it was decided on. -/
def WordChange.applies (c : WordChange) (x : Extent) : Bool :=
  extWord x c.pos == c.old && extTier x c.pos % 2 ^ 30 == c.tier % 2 ^ 30

/-- One attempt at a state-only swap (R471): none while no extent or no node-update cycle can be had. A run that is gone,
or whose pages have changed since, needs no change any more. -/
def tryStateSwap (w : StateSwap) (s : State) : Option State :=
  match dirLookup w.part w.key s with
  | none => some s
  | some i =>
    let e := dirEntry i s
    let x := extent (dataExt e.data) s
    let ch := w.changes.filter fun c => c.applies x
    -- a page that is kept keeps its TLPN (07_residency_and_tiers.md R194)
    let gone := (ch.filter fun c => wordState c.new == 3).map fun c => (c.pos, 0)
    if ch.isEmpty then some s
    else match takeNode 1 s with
      | none => none
      | some s =>
        match nodeSwap i e.data (changeWords x.words (ch.map fun c => (c.pos, c.new))) (changeTiers x.tiers gone)
            (dataCount e.data - 1) (dataTail e.data) s with
        | .made s' => some (placeTail (keyCtx e.key) (keyLayer e.key) (keyGroup e.key) s')
        | .noExtent | .changed => none

/-- A state-only swap is made, or waits and is retried in later node-update cycles (R471). -/
def stateSwap (i : Nat) (changes : List (Nat × Nat)) (s : State) : State :=
  let e := dirEntry i s
  let x := extent (dataExt e.data) s
  match (extPart (extent (dataExt e.data) s).st) with
  | none => s
  | some p =>
    let w : StateSwap := ⟨p, e.key, changes.map fun c => ⟨c.1, extWord x c.1, extTier x c.1, c.2⟩⟩
    if changes.isEmpty then s
    else match tryStateSwap w s with
      | some s' => s'
      | none => { s with dir.stateSwaps := s.dir.stateSwaps ++ [w] }

/-- The pages of an entry whose word satisfies `p`, changed to a STATE with SLOT kept (STATE 4) or zero (STATE 3). -/
def markPages (p : Nat → Bool) (state : Nat) (i : Nat) (s : State) : State :=
  let e := dirEntry i s
  let x := extent (dataExt e.data) s
  if !e.v then s
  else
    let ch := (x.words.filter fun w => w.1 < dataCount e.data && p w.2).map fun w =>
      (w.1, pageWord state (if state = 4 then wordSlot w.2 else 0))
    stateSwap i ch s

/-- Every STATE 0 page that a list of slots holds becomes suspect (R415, R420). -/
def suspectSlots (slots : List Nat) (s : State) : State :=
  let hit := fun w => wordState w == 0 && slots.contains (wordSlot w)
  let es := ((dirView s).filter fun x => x.2.v).map (·.1)
  if slots.isEmpty then s
  else es.foldl (fun s i => if ((extent (dataExt (dirEntry i s).data) s).words.any fun w => hit w.2)
    then markPages hit 4 i s else s) s

end Sys2Proof.Machine
end

