-- ==== Sys2Proof/Machine/Hold.lean ====
section
/-! DEFINITION. Hold mode and the faults that enter it (16_faults_and_recovery.md R412, R415, R416, R434), and the ends of
host commands and residency operations that hold mode and other rules share. -/

namespace Sys2Proof.Machine

/-! ### The command a queue runs (13_host_attachment.md R347) -/

/-- The list at the front of a queue and the index of its next command, while that list still has one to run. -/
def currentCmd (f cls : Nat) (s : State) : Option (CmdList × Nat) :=
  match (hostQueue f cls s).lists with
  | l :: _ => if l.refused.isSome || l.stopped || l.ncmd ≤ l.next then none else some (l, l.next)
  | [] => none

/-- The next command of the front list is taken up. -/
def advanceCmd (f cls : Nat) (s : State) : State :=
  let q := hostQueue f cls s
  match q.lists with
  | l :: t => setQueue f cls { q with lists := { l with next := l.next + 1 } :: t } s
  | [] => s

/-- The current command ends with a status, a reason and a value. -/
def finishCmd (f cls status reason value : Nat) (s : State) : State :=
  match currentCmd f cls s with
  | some (l, i) => endCommand f cls l.seq i status reason value (advanceCmd f cls s)
  | none => s

/-- The command a queue has come to. -/
structure Cmd where
  f : Nat
  cls : Nat
  seq : Nat
  idx : Nat
  part : Nat
  tenant : Nat
  op : Nat
  bytes : List Byte
  deriving DecidableEq, Repr

/-- The `n`-byte argument at an ARGS offset. -/
def Cmd.arg (c : Cmd) (off n : Nat) : Nat := u c.bytes (8 + off) n

/-- The front command of a queue. -/
def frontCmd (f cls : Nat) (s : State) : Option Cmd :=
  (currentCmd f cls s).map fun x =>
    let b := listCommand f x.1 x.2 s
    { f, cls, seq := x.1.seq, idx := x.2, part := x.1.part, tenant := field (u b 2 2) 0 10, op := u b 0 1, bytes := b }

/-- The front command of a queue, when it has this OP. Commands for a partition that an armed delta holds wait
(08_plates.md R232). -/
def hostCmd (f cls op : Nat) (s : State) : Option Cmd :=
  match frontCmd f cls s with
  | some c => if c.op = op ∧ !heldPart c.part s then some c else none
  | none => none

/-- OPs of a class. -/
def knownOp (cls op : Nat) : Bool :=
  0 < op && (if cls = 0 then op ≤ 2 else if cls = 1 then op ≤ 0x0B else if cls = 2 then op ≤ 8 else op ≤ 3)

/-- Commands with an OP the class does not know end with REASON 1 as the queue comes to them. -/
def settleGo (f cls : Nat) : Nat → State → State
  | 0, s => s
  | n + 1, s =>
    match frontCmd f cls s with
    | some c => if knownOp cls c.op then s else settleGo f cls n (finishCmd f cls stMalformed 1 0 s)
    | none => s

def settle (f cls : Nat) (s : State) : State := settleGo f cls 1024 s

/-! ### Deltas (08_plates.md R235) -/

/-- The loaded, armed or committed delta ends with ST_DELTA_ABORTED. -/
def abortDelta (s : State) : State :=
  countEvent cDeltasAborted unitNode
    { s with plt.phase := .idle, plt.dcode := stDeltaAborted, plt.held := [], plt.shadow := none }

/-! ### Entering hold mode (R434) -/

/-- Every request in flight receives its IMPR. -/
def endRequest (status : Nat) (s : State) (r : Req) : State :=
  match r.phase with
  | .taken | .answered => s
  | .checked | .lookups => endUndispatched r status s
  | .dispatched => endDispatched r status s

/-- A MOVE_OUT ends: its command gets a status and the pages done, and its layer and group is no longer frozen (R183). -/
def endMoveOut (m : MoveOut) (status : Nat) (s : State) : State :=
  settle m.fn 1 <| finishCmd m.fn 1 (combine (status :: m.codes)) 0 m.doneCount
    { s with res.moveOuts := s.res.moveOuts.filter fun x => x != m }

/-- A STAGE, REHOME, EVICT or WRITE_BACK ends with a status of its own beside its pages'. -/
def endOp (o : ResOp) (status : Nat) (s : State) : State :=
  settle o.fn 1 <| finishCmd o.fn 1 (combine (status :: o.codes)) 0 o.doneCount
    { s with res.ops := s.res.ops.filter fun x => x != o }

/-- A part of a running operation is done: the operation ends with its last part. -/
def opsAdvance (hit : ResOp → Bool) (f : ResOp → ResOp) (s : State) : State :=
  s.res.ops.foldl (fun s o =>
    if hit o then
      let o' := f o
      let s := { s with res.ops := replaceWhere (fun x => x.fn == o.fn) (fun _ => o') s.res.ops }
      if o'.tiles.isEmpty && o'.pages.isEmpty then endOp o' stOk s else s
    else s) s

/-- The code of a page whose part is done; none is success. -/
def ResOp.note (o : ResOp) (code : Option Nat) : ResOp :=
  match code with
  | some c => { o with codes := o.codes ++ [c] }
  | none => { o with doneCount := o.doneCount + 1 }

def tileProgress (key : Nat) (code : Option Nat) (s : State) : State :=
  opsAdvance (fun o => o.tiles.contains key)
    (fun o => ResOp.note { o with tiles := o.tiles.filter (· != key) } code) s

def pageProgress (n : PageName) (code : Option Nat) (s : State) : State :=
  opsAdvance (fun o => o.pages.contains n)
    (fun o => ResOp.note { o with pages := o.pages.filter (· != n) } code) s

/-! ### Node swaps of residency operations (07_residency_and_tiers.md R177, R182) -/

/-- The page at a position of a change's run. -/
def RunChange.page (c : RunChange) (pos : Nat) : PageName := ⟨c.ctx, c.layer, c.group, c.run + pos⟩
def RunChange.pages (c : RunChange) : List PageName := c.moves.map fun m => c.page m.pos

/-- The slots that a change has taken for its pages. -/
def RunChange.slots (c : RunChange) : List Nat := (c.moves.filter fun m => wordState m.new < 2).map fun m => wordSlot m.new

/-- Two pages lie in one unit: the same chunk of one layer and group. -/
def sameUnit (a b : PageName) : Bool := a.ctx == b.ctx && a.layer == b.layer && a.group == b.group && a.page / 32 == b.page / 32

/-- Work that may still drop a page of the unit is under way. -/
def unitOpen (n : PageName) (s : State) : Bool :=
  (s.res.programs.any fun p => p.spill && sameUnit p.page n) || s.res.changes.any fun c => c.pages.any (sameUnit n)

/-- The drop records of units whose eviction is over are posted (R192). -/
def postDrops (s : State) : State :=
  let done := fun d : DropRec => !unitOpen ⟨d.ctx, d.layer, d.group, d.pages.headD 0⟩ s
  (s.res.dropping.filter done).foldl (fun s d =>
    { s with res.drops := upd [] s.res.drops d.part fun l => l ++ [{ d with pages := sortNat d.pages }] })
    { s with res.dropping := s.res.dropping.filter fun d => !done d }

/-- Running residency and tier work ends with ST_FENCED, EXPORT_OUT excepted. Slots taken for pages that have not moved await
zeroing again. -/
def fenceWork (s : State) : State :=
  let s := (s.res.moveOuts.filter fun m => !m.isExport).foldl (fun s m => endMoveOut m stFenced s) s
  let s := s.res.ops.foldl (fun s o => endOp o stFenced s) s
  let s := (s.res.changes.flatMap (·.slots)).foldl slotAwaits s
  postDrops { s with res.programs := [], res.changes := [], res.tiles := s.res.tiles.filter fun t => t.2.stands }

/-- The effects of entry, in the stroke of entry (R434). Gravers are gated later (15_start_power_cooling.md R406). -/
def holdEffects (s : State) : State :=
  let s := { s with time.run := if s.time.run = 2 then 0 else s.time.run }
  let s := match s.plt.phase with
    | .armed | .committed => abortDelta s
    | .idle | .loaded => s
  fenceWork (s.sch.reqs.foldl (endRequest stPageAbsent) s)

/-- Enter hold mode with a cause bit (R407, R409). In hold mode already, only the cause is added. -/
def enterHold (cause : Nat) (s : State) : State :=
  let was := s.pwr.hold
  let s := { s with pwr.hold := true, pwr.holdCause := s.pwr.holdCause ||| 2 ^ cause }
  if was then s else holdEffects s

/-- Raise a fault: its record and signal, and hold mode where the fault table says so (R412). -/
def raise (code unit : Nat) (args : List Byte) (s : State) : State :=
  let s := raiseRecord code unit args s
  match faultHold code with
  | some b => enterHold b s
  | none => s

/-! ### Uncorrectable errors (R415, R416) -/

/-- Passes of one second. -/
abbrev secPasses : Nat := 62500

/-- The errors of the last 62,500 passes. -/
def ueRecent (s : State) : List (Nat × Nat) := s.flt.ueSeen.filter fun x => passNow s < x.2 + secPasses

/-- An uncorrectable error at an address is told of, and counts towards UE_REPEAT unless that address has already counted within
the window; the sixteenth that counts raises UE_REPEAT (R416). -/
def strikeUe (addr : Nat) (tell : State → State) (s : State) : State :=
  let seen := ueRecent s
  if seen.any fun x => x.1 == addr then tell { s with flt.ueSeen := seen }
  else
    let s := tell { s with flt.ueSeen := seen ++ [(addr, passNow s)] }
    if seen.length + 1 = 16 then raise fUeRepeat unitNode [] s else s

/-- Stacks and hub SRAM bank groups count their uncorrectable errors towards their wear too (R437). -/
def wearUe (unit : Nat) (s : State) : State :=
  if unit / 65536 = 2 ∨ unit / 65536 = 9 then countWear unit (fun w => { w with u := w.u + 1 }) s else s

/-- An uncorrectable error at an address raises its fault (R415). -/
def countUe (addr code unit : Nat) (args : List Byte) (s : State) : State :=
  strikeUe addr (raise code unit args) (wearUe unit s)

/-- An uncorrectable error that is made good raises no fault of its own. -/
def noteUe (addr unit : Nat) (s : State) : State := strikeUe addr id (wearUe unit s)

/-- Address identities of R416: DRAM pages by slot, then tiles, sheets, chains, hub SRAM and metadata. -/
def ueSlot (slot : Nat) : Nat := slot
def ueTile (stack tile : Nat) : Nat := 2 ^ 24 + stack * tilesPerStack + tile
def ueSheet (g bank word : Nat) : Nat := 2 ^ 25 + (g * 32 + bank) * 256 + word
def ueFlit (g row : Nat) : Nat := 2 ^ 26 + g * 64 + row
def ueMeta (i : Nat) : Nat := 2 ^ 27 + i
def ueExtent (i : Nat) : Nat := 2 ^ 28 + i
def ueCollator (r : Nat) : Nat := 2 ^ 29 + r
def ueCtx (h : Nat) : Nat := 2 ^ 30 + h
def uePlate (st w : Nat) : Nat := 2 ^ 31 + st * plateWords + w

/-- An uncorrectable error strikes a context's descriptor or length-table entry, in the unit `ue` (R415). -/
def strikeCtx (ctx : Nat) (ue : Option Nat) (s : State) : State :=
  match ue with
  | some unit => countUe (ueCtx ctx) fUeMeta unit (leBytes 4 ctx) { s with res.ctxUe := once (s.res.ctxUe ++ [ctx]) }
  | none => s

end Sys2Proof.Machine
end

