-- ==== Sys2Proof/Machine/Command.lean ====
section
/-! DEFINITION. What every host command shares (13_host_attachment.md R344 to R349): its entry, its own fields, the refusal
reasons, and how it ends. -/

namespace Sys2Proof.Machine

/-- The command ends, and the queue comes to the next one (R347). -/
def endCmd (c : Cmd) (status reason value : Nat) (s : State) : State :=
  settle c.f c.cls (finishCmd c.f c.cls status reason value s)

/-- A refusal with its reason (R348). -/
def refuseCmd (c : Cmd) (reason : Nat) (s : State) : State := endCmd c stMalformed reason 0 s

/-- A number has no bit outside the named fields (low bit, width). -/
def onlyFields (fs : List (Nat × Nat)) (n : Nat) : Bool :=
  n == (fs.map fun x => field n x.1 x.2 * 2 ^ x.1).sum

/-- Bits [lo + 8 * off] of ARGS that are named: (byte offset, width in bits). -/
def argFields (fs : List (Nat × Nat)) : List (Nat × Nat) := fs.map fun x => (8 * x.1, x.2)

/-- The reason that refuses a command before its own rules: 1 for a reserved field, 3 for its TENANT. `fs` are the named
fields of ARGS (byte offset, width in bits). -/
def cmdReason (c : Cmd) (fs : List (Nat × Nat)) (s : State) : Option Nat :=
  if u c.bytes 1 1 != 0 || u c.bytes 2 2 / 1024 != 0 || u c.bytes 4 4 != 0 ||
      !onlyFields (argFields fs) (c.arg 0 48) then some 1
  else if !tenantIn c.tenant c.part s then some 3
  else none

/-- The status with which a command ends that nothing refuses: for an assigned partition from PF0 (R345), for a party that is
scrub-pending (14_trust_and_isolation.md R381), and for one that hold mode bars (16_faults_and_recovery.md R435). -/
def partyStatus (barred : Bool) (c : Cmd) (s : State) : Option Nat :=
  let st := combine (codeIf (c.f == 0 && assigned c.part s) stAuthFail ++
    codeIf (barred || scrubPending c.part c.tenant s) stFenced)
  if st = stOk then none else some st

/-- Run the command a queue has come to. Of several conditions R17 reports ST_MALFORMED, whose code is the lowest. -/
def runFront (c : Cmd) (fs : List (Nat × Nat)) (barred : Bool) (reason : Cmd → State → Option Nat) (ok : Cmd → State → State)
    (s : State) : State :=
  match cmdReason c fs s, reason c s, partyStatus barred c s with
  | some r, _, _ => refuseCmd c r s
  | none, some r, _ => refuseCmd c r s
  | none, none, some st => endCmd c st 0 0 s
  | none, none, none => ok c s

/-- Run a command: its own meaning when it passes the shared checks and its own. -/
def runCmd (f cls op : Nat) (fs : List (Nat × Nat)) (barred : Bool) (reason : Cmd → State → Option Nat)
    (ok : Cmd → State → State) (s : State) : State :=
  match hostCmd f cls op s with
  | none => s
  | some c => runFront c fs barred reason ok s

/-- The lowest reason among those that hold. -/
def lowestReason (rs : List (Bool × Nat)) : Option Nat := lowest ((rs.filter (·.1)).map (·.2))

end Sys2Proof.Machine
end

