-- ==== Sys2Proof/Machine/Sched.lean ====
section
/-! DEFINITION. Which lines an island runs in a stroke, and which resources are free (09_strokes_and_passes.md R240 to R249). -/

namespace Sys2Proof.Machine

/-- Line operations of R244, by island kind. -/
abbrev opWindow : Nat := 1
abbrev opBanks : Nat := 2
abbrev opRefresh : Nat := 3
abbrev opRetrain : Nat := 4
abbrev opSlot : Nat := 1
abbrev opDircyc : Nat := 2
abbrev opLink : Nat := 3
abbrev opVaultRefresh : Nat := 4
abbrev opMaint : Nat := 5
abbrev opClose : Nat := 1
abbrev opSend : Nat := 1
abbrev opBeat : Nat := 2
abbrev opAdapt : Nat := 3
abbrev opSample : Nat := 1

abbrev islHub : Nat := 6
abbrev islCollator : Nat := 7
abbrev islPort : Nat := 8
abbrev islTime : Nat := 16

/-- The line program an island runs. -/
def progOf (isl : Nat) (s : State) : LineProg :=
  match s.plt.running with
  | some m => look {} m isl
  | none => {}

/-- Strokes of the cycle. -/
def cycleLen (p : LineProg) : Nat := passStrokes * 2 ^ p.periodLog2

/-- The operations that run in hold mode and before the barrier start (R249, 10_registration_and_time.md R273). -/
def runsAlways (isl op : Nat) : Bool :=
  if isl < 6 then op == opRefresh || op == opRetrain
  else if isl = islHub then op == opVaultRefresh || op == opMaint
  else if isl = islCollator then false
  else if isl < islTime then op == opBeat || op == opAdapt
  else op == opSample

/-- Only those lines run. -/
def restricted (s : State) : Bool := s.pwr.hold || decide (s.time.run < 2)

/-- The lines an island runs, with their indices. -/
def linesOf (isl : Nat) (s : State) : List (Nat × Line) :=
  (indexed 0 (progOf isl s).lines).filter fun x => !restricted s || runsAlways isl x.2.op

/-- First stroke of a line within the cycle. -/
def Line.base (l : Line) : Nat := l.pass * passStrokes + l.stroke

/-- Strokes since the line's latest start, in the stroke `st` of a cycle of `c` strokes. -/
def Line.age (l : Line) (c st : Nat) : Nat := (st % c + c - l.base % c) % c

/-- The line claims the stroke, with `extra` strokes behind its own (R243). -/
def Line.claims (l : Line) (c st extra : Nat) : Bool := decide (l.age c st ≤ l.lenM1 + extra)

/-- Some line of an island with this operation and satisfying `p` claims the stroke. -/
def claimed (isl op st : Nat) (p : Line → Bool) (s : State) : Bool :=
  (linesOf isl s).any fun x => x.2.op == op && p x.2 && x.2.claims (cycleLen (progOf isl s)) st 0

/-! ### Work that a delta's swap carries (08_plates.md R236) -/

/-- Lines of a plate that a delta has replaced are numbered from here on: `carriedLine` for each swap since. -/
abbrev carriedLine : Nat := 2 ^ 15

/-- How many swaps lie between stroke `a` and now: 0 when the plate now in force was in force then. -/
def planIndex (a : Nat) (s : State) : Nat := (s.plt.prior.filter fun x => decide (a < x.1)).length

/-- An island's line program of the plate `k` swaps ago. -/
def planProg (k isl : Nat) (s : State) : LineProg :=
  if k = 0 then progOf isl s
  else match s.plt.prior[k - 1]? with
    | some x => look {} x.2.lines isl
    | none => {}

/-- Operations that finish work admitted under a replaced plate. -/
def carriesWork (isl op : Nat) : Bool := (isl < 6 && op == 1) || (isl == islCollator && op == 1)

/-- The lines of the plate `k` swaps ago that an island still runs, with their indices. -/
def planLines (k isl : Nat) (s : State) : List (Nat × Line) :=
  if k = 0 then linesOf isl s
  else if restricted s then []
  else (indexed (k * carriedLine) (planProg k isl s).lines).filter fun x => carriesWork isl x.2.op

/-- The line `idx` of an island, when it has this operation, starts in the present stroke and has not been applied in it. -/
def dueLine (isl idx op : Nat) (s : State) : Option Line :=
  let k := idx / carriedLine
  match (planLines k isl s).find? fun x => x.1 == idx with
  | some (_, l) =>
    if l.op = op ∧ l.age (cycleLen (planProg k isl s)) (strokeCount s) = 0 ∧ !s.sch.applied.contains (isl, idx) then some l
    else none
  | none => none

/-- The line `idx`, when it claims the present stroke and has not been applied in it. -/
def dueStroke (isl idx op : Nat) (s : State) : Option Line :=
  match (linesOf isl s).find? fun x => x.1 == idx with
  | some (_, l) =>
    if l.op = op ∧ l.claims (cycleLen (progOf isl s)) (strokeCount s) 0 ∧ !s.sch.applied.contains (isl, idx) then some l
    else none
  | none => none

def markApplied (isl idx : Nat) (s : State) : State := { s with sch.applied := s.sch.applied ++ [(isl, idx)] }

/-! ### Fields of lines (R244) -/

/-- SLOT and GMASK of a WINDOW, with its chain strokes. -/
def Line.slot (l : Line) : Nat := field l.arg0 0 16
def Line.gmask (l : Line) : Nat := field l.arg0 16 16
def Line.chain (l : Line) : Nat := field l.arg1 0 4
/-- OPEN, CLOSE and FIRST_CYCLE of a SLOT line. -/
def Line.openAfter (l : Line) : Nat := field l.arg0 16 12
def Line.closeAfter (l : Line) : Nat := field l.arg1 0 12
def Line.firstCycle (l : Line) : Nat := field l.arg1 12 9
def Line.linkStack (l : Line) : Nat := field l.arg0 0 3
def Line.linkUse (l : Line) : Nat := field l.arg0 4 3

/-- The SLOT lines of a slot. -/
def slotLines (slot : Nat) (s : State) : List Line :=
  ((linesOf islHub s).filter fun x => x.2.op == opSlot && x.2.slot == slot).map (·.2)

/-- The admission stroke of the first occurrence of a slot whose check stroke is `st` or later (R124, R244). -/
def nextOccurrence (slot st : Nat) (s : State) : Option Nat :=
  lowest <| (slotLines slot s).map fun l =>
    let c := cycleLen (progOf islHub s)
    st + 1 + (l.base % c + c - (st + 1) % c) % c

/-- The SLOT line whose occurrence is admitted in stroke `a`. -/
def slotLineAt (slot a : Nat) (s : State) : Option Line :=
  (slotLines slot s).find? fun l => l.age (cycleLen (progOf islHub s)) a == 0

/-- The SLOT line of a slot, in the plate `k` swaps ago, whose occurrence is admitted in stroke `a`. -/
def planSlotLine (k slot a : Nat) (s : State) : Option Line :=
  let p := planProg k islHub s
  p.lines.find? fun l => l.op == opSlot && l.slot == slot && l.age (cycleLen p) a == 0

/-- A request of a slot was admitted under the plate `k` swaps ago, `after` of its SLOT line before the present stroke: the
occurrence that a WINDOW or CLOSE line of that plate serves (R245). -/
def servesReq (k slot : Nat) (after : Line → Nat) (s : State) (r : Req) : Bool :=
  !r.bestEffort && (r.slot.map (·.slot)) == some slot &&
    match r.occ with
    | some a => a ≤ strokeCount s && planIndex a s == k &&
        (match planSlotLine k slot a s with
         | some l => a + after l == strokeCount s
         | none => false)
    | none => false

/-! ### Free resources (R246, R248, R249) -/

/-- A refresh stroke of a stack. With no plate's lines, stroke 15 of every 16 is one. -/
def refreshes (stack st : Nat) (s : State) : Bool :=
  s.sch.extraRefresh.contains (stack, st) ||
    match s.plt.running with
    | none => st % 16 == 15
    | some _ =>
      if stack < 6 then claimed stack opRefresh st (fun _ => true) s
      else claimed islHub opVaultRefresh st (fun l => l.linkStack == stack) s

/-- A window, with its chain, of a request that a swap has carried claims a graver in a stroke (08_plates.md R236). -/
def carriedClaims (g st : Nat) (s : State) : Bool :=
  s.sch.reqs.any fun r =>
    match r.occ, r.slot with
    | some a, some sl =>
      let k := planIndex a s
      let p := planProg k (g / 16) s
      !r.bestEffort && r.phase != .answered && 0 < k &&
        (match planSlotLine k sl.slot a s with
         | some o => p.lines.any fun l => l.op == opWindow && l.slot == sl.slot && bit l.gmask (g % 16) &&
             l.age (cycleLen p) (a + o.openAfter) == 0 && a + o.openAfter ≤ st && st ≤ a + o.openAfter + l.lenM1 + l.chain
         | none => false)
    | _, _ => false

/-- A graver is free in a stroke: outside its windows, its chain strokes and its stack's REFRESH and RETRAIN strokes. -/
def graverFree (g st : Nat) (s : State) : Bool :=
  let isl := g / 16
  let c := cycleLen (progOf isl s)
  !refreshes isl st s && !claimed isl opRetrain st (fun _ => true) s && !carriedClaims g st s &&
    !(linesOf isl s).any fun x => x.2.op == opWindow && bit x.2.gmask (g % 16) && x.2.claims c st x.2.chain

/-- A stack's link is free in a stroke. -/
def linkFree (stack st : Nat) (s : State) : Bool :=
  !refreshes stack st s && !claimed islHub opLink st (fun l => l.linkStack == stack) s

/-- A free stroke of a stack's link serves a use: pending work of every use, in ascending order of USE (R244). -/
def linkSpare (stack use : Nat) (s : State) : Bool :=
  linkFree stack (strokeCount s) s && look 0 s.res.linkDone stack ≤ use

/-- The stack link serves a use in the present stroke: a LINK stroke of that use that has been opened, or a free stroke
(R244, R248). A refresh stroke stops every transfer (R246). -/
def linkServes (stack use : Nat) (s : State) : Bool :=
  !refreshes stack (strokeCount s) s && (bit (look 0 s.res.linkUse stack) use || linkSpare stack use s)

/-- Work of a use has run on the links of some stacks in the present stroke. -/
def linkUsed (sts : List Nat) (use : Nat) (s : State) : State :=
  { s with res.linkDone := sts.foldl (fun m st => upd 0 m st fun n => max n use) s.res.linkDone }

/-! ### Directory cycles that no line allots (R248, R249, R250) -/

/-- N_max of R250 for a slot record of a partition with `n` gravers of its own: the most runs an occurrence looks up. -/
def SlotRec.maxRuns (r : SlotRec) (bucket : Bool) : Nat :=
  if bucket then ceilDiv (512 * 2 ^ r.bucket) 8192 + 1
  else ceilDiv (((List.range 96).filter fun g => bit r.gravers g).length * r.shareLimit) 8192 + 1

/-- A partition of 16 gravers or fewer uses length buckets (05_attention_requests.md R132). -/
def Plate.bucketPart (p : Plate) (part : Nat) : Bool := (p.alloc.filter fun b => b == part).length ≤ 16

/-- Lookup cycles that SLOT lines allot in stroke `st`: LOOKUPS of each, over the strokes its lookups span (R129, R250
rule 6). -/
def slotCycles (st : Nat) (s : State) : Nat :=
  let c := cycleLen (progOf islHub s)
  (((linesOf islHub s).filter (·.2.op == opSlot)).map fun x =>
    match (plate s).slots.find? fun r => r.slot == x.2.slot && r.kind == 0 with
    | some r => if x.2.age c st < ceilDiv (r.maxRuns ((plate s).bucketPart r.part)) r.lookups then r.lookups else 0
    | none => 0).sum

/-- Cycles that DIRCYC lines allot in stroke `st`. -/
def lineCycles (st : Nat) (s : State) : Nat :=
  (((linesOf islHub s).filter fun x => x.2.op == opDircyc && x.2.claims (cycleLen (progOf islHub s)) st 0).map fun x =>
    field x.2.arg0 9 9).sum

/-- Directory cycles of a stroke that no SLOT lookup and no DIRCYC line allots (R248). -/
def spareCycles (st : Nat) (s : State) : Nat := 500 - slotCycles st s - lineCycles st s

/-! ### Collator buffer (R250 rule 9, 06_impressions_and_collation.md R168) -/

abbrev collatorUnits : Nat := 512

/-- Units of 64 KiB that CLOSE lines reserve in stroke `st`, each from its admission stroke to its close stroke plus the
slot's grace. -/
def reservedUnits (st : Nat) (s : State) : Nat :=
  let c := cycleLen (progOf islCollator s)
  (((linesOf islCollator s).filter (·.2.op == opClose)).map fun x =>
    let sl := (plate s).slots.find? fun r => r.slot == x.2.slot
    let grace := match sl with
      | some r => (((plate s).trees.find? fun t => t.part == r.part && t.index == r.tree).map (·.grace)).getD 0
      | none => 0
    let before := ((slotLines x.2.slot s).map (·.closeAfter)).foldl max 0
    let behind := (x.2.base % c + c - st % c) % c
    if behind ≤ before || x.2.age c st ≤ grace then field x.2.arg1 0 16 else 0).sum

end Sys2Proof.Machine
end

