-- ==== Sys2Proof/Machine/Gravers.lean ====
section
/-! DEFINITION. The graver commands: sweeps, block close, the chain, overruns, cancellation at a sweep boundary, the sheet
patrol, waking banks and the hang of a graver (04_graver_engines.md, 16_faults_and_recovery.md R418 to R421). -/

namespace Sys2Proof.Machine

/-! ### Work of a graver -/

/-- Thermal protection is active on a graver island: its clock level is above 0 (15_start_power_cooling.md R402), or the
node's power demand holds it there. -/
def clockLevel (st : Nat) (s : State) : Nat := (look {} s.pwr.stacks8 st).level
def thermalActive (st : Nat) (s : State) : Bool := 0 < clockLevel st s

/-- The request a working graver runs. A CANCEL takes effect at the next sweep boundary: the sweep that was running still ends
(R111). -/
def graverReq (g : Nat) (s : State) : Option Req :=
  let gv := graver g s
  if gv.st != .working || (gv.cancelled && gv.atBoundary) then none else gv.current.bind fun id => reqFind id s

/-- A work lease is renewed at a sweep boundary and at each return to idle (R418). -/
def renew (s : State) (g : Graver) : Graver := { g with renewed := s.time.elapsed }

/-- The next block of the current request is taken from its descriptor. -/
def takeBlock (gv : Graver) : Option (Block × Graver) :=
  match gv.block, gv.current with
  | none, some id =>
    match gv.descs.find? fun d => d.req == id with
    | some d =>
      match d.blocks with
      | b :: t => some (b, { gv with descs := replaceWhere (fun x => x.req == id) (fun x => { x with blocks := t }) gv.descs })
      | [] => none
    | none => none
  | _, _ => none

/-- The next block of the current request opens, and its sweep 1 runs. -/
def openNext (s : State) (gv : Graver) : Graver :=
  match takeBlock gv, gv.current.bind fun id => reqFind id s with
  | some (b, gv), some r =>
    { gv with block := some ⟨b, 0, strokeCount s, [], [], [], [], [], false, false⟩, busy := true, precise := r.hdr.precise }
  | _, _ => gv

/-- The event of R51 for a substituted block: the home of its page, head position, K or V, row, block and TAG
(17_management_and_registers.md R470). A tile has no slot index: its stack * 57,344 + tile number stands there (DESIGN CHOICE,
notes/assumptions/111.md). -/
def substEvent (r : Req) (g : Nat) (v : Bool) (x : KeyTok × Nat) (s : State) : State :=
  logEvent clGraver 0x01 (unitGraver g)
    (leBytes 4 x.1.home ++ leBytes 1 r.hdr.headPos ++ leBytes 1 (b2n v) ++ leBytes 1 x.1.row ++ leBytes 1 x.2 ++
      leBytes 8 r.tag) (tally cComputeSubst s)

/-- The uncorrectable DRAM errors of a read: one per page, each making its page suspect (R109, R415). -/
def pageErrors (g : Nat) (b : Block) (ue : List Nat) (s : State) : State :=
  let hit := b.pages.filter fun p => ue.contains p.page
  let s := hit.foldl (fun s p =>
    countUe (if p.tile then 2 ^ 24 + p.home else ueSlot p.home) fUeData (unitStack (g / 16)) (leBytes 4 p.home) s) s
  suspectSlots ((hit.filter fun p => !p.tile).map (·.home)) s

/-- Uncorrectable errors of sheet words, each a bank and a word index: SHEET_UE and a fault each (R110). -/
def sheetErrors (g : Nat) (words : List (Nat × Nat)) (s : State) : State :=
  words.foldl (fun s w =>
    countUe (ueSheet g w.1 w.2) fUeData (unitGraver g) (leBytes 4 (w.1 * 256 + w.2))
      (countWear (unitGraver g) (fun x => { x with u := x.u + 1 }) (tally (cSheetUe g) s))) s

/-- Corrected errors of sheet words (R88). -/
def sheetCorrected (g n : Nat) (s : State) : State :=
  (List.range n).foldl (fun s _ => countEvent (cSheetCe g) (unitGraver g) s)
    (countWear (unitGraver g) (fun w => { w with c := w.c + n }) s)

/-- Words that a sweep reads, those of the first `n` groups of each row (R110: no sweep reads a word that its own block has not
written). -/
def sweptWords (n : Nat) (words : List (Nat × Nat)) : List (Nat × Nat) :=
  words.filter fun w => w.1 < 32 && w.2 < 256 && wordGroup w.1 w.2 < n

/-- The rows of a request that words belong to. -/
def wordRows (r : Req) (words : List (Nat × Nat)) : List Nat :=
  once ((words.map fun w => wordRow w.2).filter fun x => x < r.hdr.rows)

/-- The open block and the sheet are replaced, a sweep has ended, and the lease is renewed. -/
def endSweep (g : Nat) (b : OpenBlock) (sheet : Store (List (BitVec 32))) (s : State) : State :=
  let gv := graver g s
  setGraver g (renew s { gv with block := some b, sheet := sheet, atBoundary := gv.cancelled }) s

/-- The open block of a graver after `swept` sweeps. The sheet is read and written in state on only (R89). -/
def openAt (g swept : Nat) (s : State) : Option (Req × OpenBlock) :=
  match graverReq g s, (graver g s).block with
  | some r, some b => if b.swept = swept && (swept == 3 || banksOn (graver g s)) then some (r, b) else none
  | _, _ => none

/-- Near-bank reads of a block pause in the stack's refresh and retraining strokes (R84; 09_strokes_and_passes.md R246, R253);
the candidate group reads no DRAM (R105). -/
def readsPause (g : Nat) (b : Block) (s : State) : Bool :=
  !b.cand && (refreshes (g / 16) (strokeCount s) s || claimed (g / 16) opRetrain (strokeCount s) (fun _ => true) s)

/-- Tokens of a block. -/
def blockLen (r : Req) (b : Block) : Nat := (blockKeys r.hdr.cands b).length

/-- SWEEP_1 (R94 to R97): the block's scores go to the sheet. `ue` are pages whose K read has an uncorrectable error. -/
def execSweep1State (g : Nat) (ue : List Nat) (s : State) : State :=
  match openAt g 0 s with
  | some (r, b) =>
    if readsPause g b.block s then s
    else
      let dead := ue.filter fun p => b.block.pages.any fun x => x.page == p
      let sc := blockScores r b.block dead s
      let s := endSweep g { b with swept := 1, rowMax := sc.1.map rowMaximum, deadPages := dead, saturated := sc.2 }
        (writeScores (blockLen r b.block) sc.1 (graver g s).sheet) s
      let s := if sc.2 then countEvent (cScoreSat g) (unitGraver g) s else s
      let s := (substituted r b.block false dead s).foldl (fun s x => substEvent r g false x s) s
      pageErrors g b.block dead s
  | none => s

/-- The scores that the sheet holds for the rows of a request. -/
def sheetScores (r : Req) (b : Block) (m : Store (List (BitVec 32))) : List (List F32) :=
  (List.range r.hdr.rows).map fun row => sheetRow m row (blockLen r b)

/-- The quantised weights of every row go to the row's first words (the sweep table; R97). -/
def writeWeights (precise : Bool) (words : Nat) (rows : List (List WGroup)) (m : Store (List (BitVec 32))) :
    Store (List (BitVec 32)) :=
  (List.range 64).foldl (fun m row => writeSheetRow row
    (match rows[row]? with
     | some gs => byteLanes (weightBytes precise gs)
     | none => List.replicate (32 * words) 0) m) m

/-- Sizes of the groups of a block's computed keys. -/
def groupSizes (r : Req) (b : OpenBlock) : List Nat := (blockGroups r b.block b.deadPages).map (·.length)

/-- Sheet words of each row that hold the weights of a block. -/
def blockWeightWords (r : Req) (b : OpenBlock) : Nat :=
  weightWords r.hdr.precise (groupSizes r b).sum (groupSizes r b).length

/-- SWEEP_2 (R98 to R101): weights, sums and quantised weights. `corrected` errors of its reads are counted; `ueWords` are sheet
words with uncorrectable errors, each a bank and a word index. -/
def execSweep2State (g corrected : Nat) (ueWords : List (Nat × Nat)) (s : State) : State :=
  match openAt g 1 s with
  | some (r, b) =>
    let sheet := (graver g s).sheet
    let w := blockWeights r b.block b.deadPages (sheetScores r b.block sheet)
    let hit := sweptWords (ceilDiv (blockLen r b.block) 32) ueWords
    sheetErrors g hit <| sheetCorrected g corrected <| endSweep g
      { b with swept := 2, rowMax := w.1, sums := w.2.map (·.1), deadRows := b.deadRows ++ wordRows r hit }
      (writeWeights r.hdr.precise (blockWeightWords r b) (w.2.map (·.2)) sheet) s
  | none => s

/-- SWEEP_3 (R102): the outputs. `ue` are pages whose V read has an uncorrectable error: their tokens leave the block for
every row, so maxima and sums are those without them (R109; notes/assumptions/110.md). -/
def execSweep3State (g : Nat) (ue : List Nat) (corrected : Nat) (ueWords : List (Nat × Nat)) (s : State) : State :=
  match openAt g 2 s with
  | some (r, b) =>
    if readsPause g b.block s then s
    else
      let new := ue.filter fun p => (b.block.pages.any fun x => x.page == p) && !b.deadPages.contains p
      let dead := b.deadPages ++ new
      let sheet := (graver g s).sheet
      let w := if new.isEmpty then
          (b.rowMax, List.zip b.sums (sheetWeights r.hdr.precise r.hdr.rows (groupSizes r b) sheet))
        else blockWeights r b.block dead (blockScores r b.block dead s).1
      let hit := sweptWords (blockWeightWords r b) ueWords
      let outs := blockOuts r b.block dead w.1 (w.2.map (·.2)) s
      let s := sheetErrors g hit <| sheetCorrected g corrected <| endSweep g
        { b with swept := 3, rowMax := w.1, sums := w.2.map (·.1), outs := outs, deadPages := dead
                 deadRows := b.deadRows ++ wordRows r hit } sheet s
      let s := (substituted r b.block true dead s).foldl (fun s x => substEvent r g true x s) s
      pageErrors g b.block new s
  | none => s

/-! ### Block close and the end of a request's work on a graver -/

/-- The fragment of a closed block (R103, R161, R162). -/
def blockFrag (r : Req) (b : Block) (rows : List Row) : Frag :=
  if !r.canon then ⟨0, 0, 0, rows⟩ else if b.cand then ⟨2, 0, 0, rows⟩ else ⟨1, b.chunk, b.chunk + 1, rows⟩

/-- The next opened descriptor starts when the open work ends, outside its planned strokes (R253). -/
def nextWork (s : State) (gv : Graver) : Graver :=
  match gv.descs.find? (·.opened) with
  | some d => openNext s (renew s { gv with current := some d.req, st := .working, delayed := true, heated := false
                                            windowEnd := d.windowLen.map (strokeCount s + ·)
                                            chainEnd := d.windowLen.bind fun w => d.chainLen.map (strokeCount s + w + ·) })
  | none => renew s { gv with current := none, st := .idle, delayed := false, windowEnd := none, chainEnd := none }

/-- A graver's work on its current request ends: its fragments and coverage wait for the chain. -/
def finishWork (extra : List Cov) (s : State) (gv : Graver) : Graver :=
  match gv.current with
  | some id =>
    nextWork s { gv with
      finished := gv.finished ++ [(id, gv.frags, gv.cov ++ extra)]
      descs := gv.descs.filter fun d => d.req != id
      block := none, frags := [], cov := [], cancelled := false, atBoundary := false }
  | none => gv

/-- A late graver's request carries the slip of its delay (R253). -/
def markSlip (g : Nat) (s : State) : State :=
  let gv := graver g s
  match gv.current.bind fun id => reqFind id s with
  | some r => if gv.delayed then setReq { r with slip := true } s else s
  | none => s

/-- The impression of an open block whose third sweep has ended joins the graver's fragments (R103). The sheet keeps the remains
of the block (R90). -/
def closeOpen (r : Req) (b : OpenBlock) (gv : Graver) : Graver :=
  let rows := blockRows r b.block b.deadPages b.deadRows b.rowMax b.sums b.outs
  { gv with
    block := none
    frags := gv.frags ++ [blockFrag r b.block rows]
    cov := gv.cov ++ blockExcluded r b.block b.deadPages b.deadRows
    done := (gv.done + 1) % 2 ^ 64 }

/-- BLOCK_CLOSE (R103, R105): the block's impression is formed; the next block opens, or the graver's work on the request ends. -/
def execBlockCloseState (g : Nat) (s : State) : State :=
  match if (graver g s).cancelled then none else openAt g 3 s with
  | some (r, b) =>
    let gv := closeOpen r b (graver g s)
    let left := (gv.descs.filter fun d => d.req == r.id).flatMap (·.blocks)
    let s := markSlip g s
    setGraver g (if left.isEmpty then finishWork [] s gv else openNext s (renew s gv)) s
  | none => s

/-- A cancelled graver is at a sweep boundary: the sweep that ran at the CANCEL has ended. -/
def sweepBoundary (gv : Graver) : Bool :=
  match gv.block with
  | some b => b.swept == 3 || gv.atBoundary
  | none => true

/-- CANCEL_AT_SWEEP_BOUNDARY (R111): a block whose sweep 3 has ended is closed, every later one abandoned. -/
def execCancelAtSweepBoundaryState (g : Nat) (s : State) : State :=
  let gv := graver g s
  match gv.st, gv.cancelled && sweepBoundary gv, gv.current.bind fun id => reqFind id s with
  | .working, true, some r =>
    let gv := match gv.block with
      | some b => if b.swept = 3 then closeOpen r b gv else gv
      | none => gv
    let lost := (openBlocks r.id gv).flatMap (blockCov r stCancelled)
    let s := markSlip g s
    setGraver g (finishWork lost s gv) s
  | _, _, _ => s

/-! ### The chain (R107, R108, R166, R421) -/

/-- What a flit that graver `g` sends carries (R107, R166): the gravers whose shares it folds, and its chunks. In native
reduction it is the fold of the participants up to `g`, which goes to the next one above; in canonical reduction the right child
that starts with chunk `c`, which goes to the holder of its left sibling when the stack holds their parent whole. -/
def flitCarries (r : Req) (acc : List (Nat × Nat)) (gs : List Nat) (g c : Nat) : Option ((Nat → Bool) × Nat × Nat) :=
  if r.canon then
    let n := chunkCount r.len
    let size := (((List.range 13).map (2 ^ ·)).filter fun k => c % k == 0).foldl max 1
    let hi := min (c + size) n
    let whole := (List.range (hi + size - c)).all fun q => inSpans acc (c - size + q)
    if 0 < c && c < n && whole then some (fun _ => true, c, hi) else none
  else if gs.contains g && gs.any fun x => g < x then some (fun x => decide (x ≤ g), 0, 0)
  else none

/-- An uncorrectable flit strikes a row of what it carries (R108). -/
def strikeShare (r : Req) (row : Nat) (w : (Nat → Bool) × Nat × Nat) (x : Nat × List Frag × List Cov) :
    Nat × List Frag × List Cov :=
  let hit := fun f : Frag => w.1 x.1 && (!r.canon || (f.kind == 1 && decide (w.2.1 ≤ f.lo) && decide (f.hi ≤ w.2.2)))
  (x.1, x.2.1.map fun f => if hit f then blankRows r.geo.d [row] f else f, x.2.2)

/-- The keys whose row an uncorrectable flit strikes (R108). -/
def flitCov (r : Req) (row : Nat) (w : (Nat → Bool) × Nat × Nat) (ds : List Dealt) : List Cov :=
  let mask := BitVec.ofNat 64 (2 ^ row)
  (ds.filter fun d => w.1 d.graver).flatMap fun d =>
    if r.canon then
      let lo := max d.base (w.2.1 * 4096)
      if d.cand then [] else covTokens lo (min (d.base + d.count) (w.2.2 * 4096) - lo) stUncorrectable mask
    else [⟨d.base, d.count, d.cand, stUncorrectable, mask⟩]

/-- CHAIN_MERGE: the finished gravers of a stack fold their impressions, and the result crosses to the collator. A graver
waits for a partner that is still open only before the chain strokes begin, or under thermal protection (R421).
`corrected` are the gravers that corrected a flit, `flitUe` uncorrectable ones: the graver that sent the flit, the row, and in
canonical reduction the first chunk of the fragment it carried. -/
def execChainMergeState (st id : Nat) (corrected : List Nat) (flitUe : List (Nat × Nat × Nat)) (s : State) : State :=
  let done := s.gravers.filter fun x => x.1 / 16 == st && x.2.finished.any fun f => f.1 == id
  let partners := s.gravers.filter fun x => x.1 / 16 == st && (!(openBlocks id x.2).isEmpty || x.2.current == some id)
  let isOpen := !partners.isEmpty
  let began := partners.all fun x =>
    if x.2.current = some id then (match x.2.windowEnd with | some e => e ≤ strokeCount s | none => false)
    else (x.2.descs.filter fun d => d.req == id).all (·.opened)
  let forget := fun (s : State) =>
    pruneAnswered
      { s with gravers := mapStore {} (fun gv => { gv with finished := gv.finished.filter fun f => f.1 != id }) s.gravers }
  if done.isEmpty || (isOpen && (thermalActive st s || !began)) then s
  else match reqFind id s, (entryFind id s).filter fun e => e.closedAt.isNone with
    | some r, some e =>
      let s := corrected.foldl (fun s g =>
        countEvent (cChainCe g) (unitGraver g) (countWear (unitGraver g) (fun w => { w with c := w.c + 1 }) s)) s
      let gs := done.map (·.1)
      let mine := e.dealt.filter fun d => gs.contains d.graver
      let acc := (mine.filter fun d => !d.cand).map fun d => chunkSpan d.base (d.base + d.count)
      let hits := flitUe.filterMap fun x =>
        if x.2.1 < r.hdr.rows then (flitCarries r acc gs x.1 x.2.2).map fun w => (x.1, x.2.1, w) else none
      let s := hits.foldl (fun s x => countUe (ueFlit x.1 x.2.1) fUeData (unitGraver x.1) (leBytes 4 x.2.1) s) s
      let shares := (done.filterMap (graverShare id)).map fun x =>
        hits.foldl (fun x h => strikeShare r h.2.1 h.2.2 x) x
      let arr : Arrival :=
        { source := st, frags := stackFrags r shares acc
          cov := (shares.flatMap fun x => x.2.2) ++ hits.flatMap fun h => flitCov r h.2.1 h.2.2 mine
          status := stOk, slip := r.slip, collapsed := false, candIn := false, sources := 0, admitAt := r.admitTime, keys := mine }
      -- an error that enters hold mode has ended the request
      match entryFind id s with
      | some e => forget (setEntry { e with arrivals := e.arrivals ++ [arr], dealt := e.dealt.filter fun d => !gs.contains d.graver } s)
      | none => s
    | _, _ => forget (countEvent cOrphan unitCollator s)

/-! ### Overruns, patrol, banks (R88, R89, R106, R253) -/

/-- OVERRUN (R106, R253): a block that was open when its window ended is counted once; when the chain strokes have ended too, the
open work is delayed and its request slips. -/
def execOverrunState (g : Nat) (s : State) : State :=
  let gv := graver g s
  match gv.block, gv.windowEnd, gv.chainEnd with
  | some b, some we, some ce =>
    if strokeCount s < we then s
    else
      let s := if b.overrun || we ≤ b.openedAt then s
        else countEvent (cOverrun g) (unitGraver g) (countWear (unitGraver g) (fun w => { w with r := w.r + 1 }) s)
      let late := ce ≤ strokeCount s
      let s := setGraver g { gv with block := some { b with overrun := true }, delayed := gv.delayed || late } s
      markSlip g s
  | _, _, _ => s

/-- A bank is on and the word index names one of its words. -/
def wordOn (gv : Graver) (w : Nat × Nat) : Bool := w.1 < 32 && w.2 < 256 && look 0 gv.banks w.1 == 2

/-- SHEET_PATROL (R88, R110): words of banks that are on are checked. `corrected` words had a corrected error each; an
uncorrectable one excludes its row when the open block has written the word, and otherwise affects no result. -/
def execSheetPatrolState (g : Nat) (corrected : List (Nat × Nat)) (ueWord : Option (Nat × Nat)) (s : State) : State :=
  let gv := graver g s
  let s := sheetCorrected g (corrected.filter (wordOn gv)).length s
  match ueWord.filter (wordOn gv) with
  | none => s
  | some w =>
    let s := match gv.block, gv.current.bind fun id => reqFind id s with
      | some b, some r =>
        if b.swept = 0 then s
        else
          let rows := wordRows r (sweptWords (ceilDiv (blockLen r b.block) 32) [w])
          let gv := graver g s
          setGraver g { gv with block := some { b with deadRows := b.deadRows ++ rows } } s
      | _, _ => s
    sheetErrors g [w] s

/-- BANK_READY (R89): banks whose wake delay has passed are on. -/
def execBankReadyState (g : Nat) (s : State) : State :=
  let gv := graver g s
  let ready := gv.waking.filter fun b => b.2 ≤ s.time.elapsed
  setGraver g { gv with
    banks := ready.foldl (fun m b => put 0 m b.1 2) gv.banks
    waking := gv.waking.filter fun b => s.time.elapsed < b.2 } s

/-! ### Hang and fence (16 R418 to R421) -/

/-- The slots that a graver's open descriptors name. -/
def descSlots (gv : Graver) : List Nat :=
  let bs := (match gv.block with | some b => [b.block] | none => []) ++ gv.descs.flatMap (·.blocks)
  bs.flatMap fun b => (b.pages.filter fun p => !p.tile).map (·.home)

/-- A graver is fenced (R420): its clock stops, its banks go off, the pages its open descriptors named become suspect. -/
def fenceGraver (g : Nat) (s : State) : State :=
  let gv := graver g s
  let slots := descSlots gv
  let s := tally ctrFences { s with flt.fencedG := s.flt.fencedG ||| BitVec.ofNat 96 (2 ^ g) }
  let s := setGraver g { banksOff gv with st := .fenced, descs := [], current := none, block := none, frags := [], cov := []
                                          finished := [], cancelled := false, atBoundary := false } s
  suspectSlots slots s

/-- A best-effort request all of whose sources are in or lost closes now (R127). -/
def bestEffortDone (r : Req) (e : ColEntry) (s : State) : Bool :=
  r.bestEffort && r.phase == .dispatched && e.arrivals.isEmpty &&
    e.dealt.all fun d => (graver d.graver s).st == .fenced || (graver d.graver s).st == .gated

/-- Best-effort requests that a fence leaves with no open source close (R127). -/
def closeBestEffort (s : State) : State :=
  s.sch.reqs.foldl (fun s r => match entryFind r.id s with
    | some e => if bestEffortDone r e s then closeEntry r e s else s
    | none => s) s

/-- GRAVER_HANG (R418, R420): a work lease of 2 passes that was not renewed fences the graver. -/
def execGraverHangState (g : Nat) (s : State) : State :=
  let gv := graver g s
  if gv.st = .working ∧ gv.renewed + 2 * passStrokes ≤ s.time.elapsed then
    closeBestEffort (fenceGraver g (raise fGraverHang (unitGraver g) [] (tally ctrLeaseRevoked s)))
  else s

/-! ### The commands -/

def execSweep1 (g : Nat) (ue : List Nat) (s : State) : Host.Outcome State Fault Refusal := .next (execSweep1State g ue s)
def execSweep2 (g : Nat) (read : SheetRead) (s : State) : Host.Outcome State Fault Refusal :=
  .next (execSweep2State g read.corrected read.ueWords s)
def execSweep3 (g : Nat) (ue : List Nat) (read : SheetRead) (s : State) : Host.Outcome State Fault Refusal :=
  .next (execSweep3State g ue read.corrected read.ueWords s)
def execBlockClose (g : Nat) (s : State) : Host.Outcome State Fault Refusal := .next (execBlockCloseState g s)
def execCancelAtSweepBoundary (g : Nat) (s : State) : Host.Outcome State Fault Refusal :=
  .next (execCancelAtSweepBoundaryState g s)
def execChainMerge (st id : Nat) (corrected : List Nat) (flitUe : List (Nat × Nat × Nat)) (s : State) :
    Host.Outcome State Fault Refusal := .next (execChainMergeState st id corrected flitUe s)
def execOverrun (g : Nat) (s : State) : Host.Outcome State Fault Refusal := .next (execOverrunState g s)
def execSheetPatrol (g : Nat) (corrected : List (Nat × Nat)) (ueWord : Option (Nat × Nat)) (s : State) :
    Host.Outcome State Fault Refusal := .next (execSheetPatrolState g corrected ueWord s)
def execBankReady (g : Nat) (s : State) : Host.Outcome State Fault Refusal := .next (execBankReadyState g s)
def execGraverHang (g : Nat) (s : State) : Host.Outcome State Fault Refusal := .next (execGraverHangState g s)

end Sys2Proof.Machine
end

