-- ==== Sys2Proof/Machine/Directory.lean ====
section
/-! DEFINITION. The directory's commands (03_page_directory.md): integrity and patrol, port commands, tail clears, held-entry
leases, the end of GRACE and retried state-only swaps. -/

namespace Sys2Proof.Machine

/-! ### Integrity (R76 to R78) -/

/-- One entry is struck, its shadow not. -/
def strikeEntry (i : Nat) (f : DirEntry → DirEntry) (s : State) : State :=
  if i < 262144 then { s with dir.entries := upd {} s.dir.entries i f } else s

/-- Bit flips strike entries, not their shadows. -/
def applyFlips (u : DirUpset) (s : State) : State :=
  let s := u.flips.foldl (fun s x => strikeEntry x.1 (fun e => { e with key := e.key ^^^ x.2.1, data := e.data ^^^ x.2.2 }) s) s
  let s := u.vFlips.foldl (fun s i => strikeEntry i (fun e => { e with v := !e.v }) s) s
  u.heldFlips.foldl (fun s i => strikeEntry i (fun e => { e with held := !e.held }) s) s

/-- An uncorrectable shadow error: the entry is invalid and held, exempt from its lease, and the extent it named is kept
(R78). -/
def entryLost (i : Nat) (s : State) : State :=
  let e := rawEntry i s
  let kept := if e.v then some (dataExt e.data) else e.lostExt
  countUe (ueMeta i) fUeMeta (unitSram (248 + i / 32768)) (leBytes 4 i)
    (tally cEntryLost (writeEntry i { e with v := false, held := true, lost := true, lostExt := kept } s))

/-- A search of a partition's range that delivers only a hit that agrees with its shadow: the lowest match at or above
`from_` (R63, R64, R76). Hits whose shadows cannot be read are lost (R78). -/
def checkedSearch (p : Nat) (key mask : BitVec 80) (from_ : Nat) (ue : List Nat) (s : State) : Option Nat × State :=
  let s := ((rawHits p key mask s).filter ue.contains).foldl (fun s i => entryLost i s) s
  let s := repairHits p key mask s
  ((dirMatches p key mask s).find? fun i => from_ ≤ i, s)

/-- The patrol compares one entry (R77). -/
def patrolEntry (ue : List Nat) (s : State) (i : Nat) : State :=
  if ue.contains i then entryLost i s else repairAll [i] s

/-- DIRECTORY_PATROL (R77): the entries of the stroke's patrol cycles are compared with their shadows, one a cycle. -/
def execDirectoryPatrolState (u : DirUpset) (s : State) : State :=
  let s := applyFlips u s
  let pos := s.dir.patrolPos
  let n := min s.dir.patrolCycles (262144 - pos)
  let inRange := fun i => pos ≤ i && i < pos + n
  let hit := (once ((s.dir.entries.map (·.1)) ++ (s.dir.shadows.map (·.1)) ++ u.shadowUe)).filter inRange
  let s := hit.foldl (patrolEntry u.shadowUe) s
  let next := pos + n
  { s with
    dir.patrolPos := if next = 262144 then 0 else next
    dir.patrolCycles := 0
    tel.dirLaps := if next = 262144 then (s.tel.dirLaps + 1) % 2 ^ 32 else s.tel.dirLaps }

/-! ### Extents leaving an entry -/

/-- A lost entry's kept extent enters GRACE (R78). -/
def releaseLost (e : DirEntry) (s : State) : State :=
  match e.lostExt with
  | some x => extToGrace x s
  | none => s

/-- TLPNs that the tier words of LIVE extents carry. -/
def tlpnsOf (x : Extent) : List Nat := (x.tiers.filter fun t => bit t.2 29).map fun t => field t.2 0 29
def liveTlpns (s : State) : List Nat :=
  (s.dir.extents.filter fun x => match x.2.st with | .live _ => true | .free | .built _ | .grace _ _ => false).flatMap
    fun x => tlpnsOf x.2

/-- A TLPN is trimmed (07_residency_and_tiers.md R194). -/
def trimTlpn (s : State) (t : Nat) : State := unplace (· == t) s

/-- An extent becomes FREE: slots that no extent names any more await zeroing, TLPNs no LIVE tier word carries are
trimmed. -/
def freeExtent (x : Nat) (s : State) : State :=
  let old := extent x s
  let s := setExtent x {} s
  let named := namedSlots s
  let live := liveTlpns s
  let s := ((slotsOf old).filter fun n => !named.contains n).foldl slotAwaits s
  ((tlpnsOf old).filter fun t => !live.contains t).foldl trimTlpn s

/-- EXTENT_GRACE_END (R60): every request admitted in or before the pass of entry has completed. -/
def execExtentGraceEndState (x : Nat) (s : State) : State :=
  match (extent x s).st with
  | .grace _ pass =>
    let busy := s.sch.reqs.any fun r =>
      (match r.phase with | .lookups | .dispatched => true | .taken | .checked | .answered => false) && r.admitPass ≤ pass
    if pass < passNow s && !busy then freeExtent x s else s
  | .free | .built _ | .live _ => s

/-! ### Node updates -/

/-- One waiting swap is tried: it is made, or goes on waiting behind those tried before it. -/
def retrySwap (s : State) (w : StateSwap) : State :=
  match tryStateSwap w s with
  | some s' => s'
  | none => { s with dir.stateSwaps := s.dir.stateSwaps ++ [w] }

/-- STATE_ONLY_SWAP_RETRY (R471): each waiting swap is tried in the order of its request, in a node-update cycle of its
own. -/
def execStateOnlySwapRetryState (s : State) : State :=
  s.dir.stateSwaps.foldl retrySwap { s with dir.stateSwaps := [] }

/-- The mask of tenant and context. -/
abbrev ctxMask : BitVec 80 := BitVec.ofNat 80 (2 ^ 31 - 1)

/-- TAIL_CLEAR_ON_CLOSE (R73): one masked operation clears TAIL in every entry of the closed context. -/
def execTailClearOnCloseState (ctx : Nat) (s : State) : State :=
  match s.dir.tailClear.find? fun x => x.2 == ctx, takeNode 1 s with
  | some (tenant, _), some s =>
    let key := dirKey tenant ctx 0 0 0
    let s := repairAll ((s.dir.entries.filter fun x => x.2.hits key ctxMask).map (·.1)) s
    let hit := ((dirView s).filter fun x => x.2.hits key ctxMask).map (·.1)
    let s := hit.foldl (fun s i =>
      let e := dirEntry i s
      writeEntry i { e with data := dirData (dataExt e.data) (dataCount e.data - 1) false } s) s
    { s with dir.tailClear := s.dir.tailClear.filter fun x => x != (tenant, ctx) }
  | _, _ => s

/-- DIRECTORY_LEASE_EXPIRY (R74): a held entry's lease of 65,536 passes has run out. The record names the entry's EXT_PTR,
also where INVALIDATE held the entry and no BUILT extent stands behind it: the manual does not say what the record then
holds (DESIGN CHOICE, notes/assumptions/103.md). -/
def execDirectoryLeaseExpiryState (i : Nat) (s : State) : State :=
  let e := dirEntry i s
  if !e.v && e.held && !e.lost && decide (e.heldAt + 65536 * passStrokes ≤ s.time.elapsed) then
    let part := ((plate s).parts.find? fun p => p.2.dirBaseK * 1024 ≤ i && i < (p.2.dirBaseK + p.2.dirCountK) * 1024)
    logEvent clLease 0x01 unitNode
      (leBytes 4 i ++ leBytes 4 (dataExt e.data) ++ leBytes 1 ((part.map (·.1)).getD 0))
      (writeEntry i { e with held := false, heldAt := 0 } s)
  else s

/-! ### Port commands (R67, R75, R80) -/

def dirPort (p : Nat) (s : State) : DirPort := look {} s.dir.ports p
def setPort (p : Nat) (v : DirPort) (s : State) : State := { s with dir.ports := put {} s.dir.ports p v }

/-- The command of a partition's port that is served now, with the state that has given it its issue cycles: its turn in
this pass has come, no lower port waits for its own, and one range of the stroke's port cycles holds the command. -/
def portTurn (p op cost : Nat) (s : State) : Option (DirCmd × State) :=
  let next := if s.dir.portPass = passNow s then s.dir.portNext else 0
  match (dirPort p s).cmd with
  | some c =>
    if c.op = op ∧ next ≤ p ∧ !(s.dir.ports.any fun q => next ≤ q.1 && q.1 < p && q.2.cmd.isSome) then
      (takePort cost s).map fun s => (c, { s with
        dir.portPass := passNow s, dir.portNext := p + 1
        tel.live.portCmds := min 0xFFFFFFFF (s.tel.live.portCmds + 1) })
    else none
  | none => none

/-- The result stands (R80): BUSY falls, CODE and REASON are the command's, and `f` writes the fields that the command gives.
A field that it does not give keeps its value, and so do CODE and REASON while BUSY is 1: the manual does not say what they
read (DESIGN CHOICE, notes/assumptions/104.md). -/
def portDone (p : Nat) (f : DirPort → DirPort) (s : State) : State :=
  setPort p { f (dirPort p s) with busy := false, cmd := none, reason := 0, code := stOk } s

/-- A refusal with the lowest of the failing reasons; `ok` when nothing fails (R67). -/
def portResult (p : Nat) (reasons : List (Bool × Nat)) (ok : State → State) (s : State) : State :=
  match lowest ((reasons.filter (·.1)).map (·.2)) with
  | some r => setPort p { dirPort p s with busy := false, cmd := none, reason := r, code := stMalformed } s
  | none => ok s

/-- The index is outside the partition's range. -/
def badIndex (p i : Nat) (s : State) : Bool :=
  let r := dirRange p s
  i < r.1 || r.1 + r.2 ≤ i

def reservedKey (k : BitVec 80) : Bool := k.toNat / 2 ^ 70 != 0

def execSearchState (p : Nat) (s : State) : State :=
  match portTurn p 1 1 s with
  | none => s
  | some (c, s) =>
    portResult p [(badIndex p c.index s, 1), (reservedKey c.key, 2)] (fun s =>
      let h := checkedSearch p c.key c.mask c.index [] s
      match h.1 with
      | some j =>
        let e := dirEntry j h.2
        portDone p (fun pt => { pt with hit := true, index := j, rkey := e.key, rdata := e.data }) h.2
      | none => portDone p (fun pt => { pt with hit := false }) h.2) s

def execCountState (p : Nat) (s : State) : State :=
  match portTurn p 2 1 s with
  | none => s
  | some (c, s) =>
    portResult p [(reservedKey c.key, 2)] (fun s =>
      let s := repairHits p c.key c.mask s
      portDone p (fun pt => { pt with count := (dirMatches p c.key c.mask s).length }) s) s

def execReadState (p : Nat) (s : State) : State :=
  match portTurn p 3 1 s with
  | none => s
  | some (c, s) =>
    portResult p [(badIndex p c.index s, 1)] (fun s =>
      let s := repairAll [c.index] s
      let e := dirEntry c.index s
      portDone p (fun pt => { pt with hit := e.v, heldBit := e.held, rkey := e.key, rdata := e.data }) s) s

def execInvalidateState (p : Nat) (s : State) : State :=
  match portTurn p 4 1 s with
  | none => s
  | some (c, s) =>
    let e := dirEntry c.index s
    portResult p [(badIndex p c.index s, 1), (!e.v, 6), (dataTail e.data, 7)] (fun s =>
      portDone p id <| extToGrace (dataExt e.data) <|
        writeEntry c.index { e with v := false, held := true, heldAt := s.time.elapsed } <| repairAll [c.index] s) s

def execWriteState (p : Nat) (s : State) : State :=
  match portTurn p 5 1 s with
  | none => s
  | some (c, s) =>
    let e := dirEntry c.index s
    portResult p [(badIndex p c.index s, 1), (e.v, 6)] (fun s =>
      portDone p id <|
        writeEntry c.index { e with
          key := c.key, data := c.data, held := true, heldAt := if e.held then e.heldAt else s.time.elapsed } <|
        repairAll [c.index] s) s

/-- The key of an entry to be validated breaks R55, R34's ranges, or names a context or tenant it may not. -/
def keyCheckFails (p : Nat) (k : BitVec 80) (s : State) : Bool :=
  let g := ctxGeo (keyCtx k) s
  reservedKey k || keyRun k % 64 != 0 || 131008 < keyRun k || !g.isOpen || g.tenant != keyTenant k ||
    g.layersM1 < keyLayer k || g.groupsM1 < keyGroup k || !tenantIn (keyTenant k) p s

/-- VALIDATE (R67): the reason is the lowest of those that fail. A duplicate is another entry with an equal key
(notes/assumptions/11.md). -/
def execValidateState (p : Nat) (s : State) : State :=
  match portTurn p 6 9 s with
  | none => s
  | some (c, s) =>
    let e := dirEntry c.index s
    portResult p
      [(badIndex p c.index s, 1), (keyCheckFails p e.key s || dataReserved e.data, 3),
       ((dirMatches p e.key fullMask s).any (· != c.index), 4),
       (!extBuiltFor (dataExt e.data) p s, 5), (e.v || !e.held, 6), (dataTail e.data, 7)] (fun s =>
      portDone p id <| releaseLost e <| extToLive (dataExt e.data) <|
        writeEntry c.index { e with v := true, held := false, heldAt := 0, lost := false, lostExt := none } <|
        repairHits p e.key fullMask <| repairAll [c.index] s) s

def execSwapState (p : Nat) (s : State) : State :=
  match portTurn p 7 1 s with
  | none => s
  | some (c, s) =>
    let e := dirEntry c.index s
    portResult p
      [(badIndex p c.index s, 1), (dataReserved c.data, 3), (!extBuiltFor (dataExt c.data) p s, 5), (!e.v, 6),
       (dataTail e.data || dataTail c.data, 7), (e.data != (dirPort p s).rdata, 8)] (fun s =>
      portDone p id <| extToGrace (dataExt e.data) <| extToLive (dataExt c.data) <|
        writeEntry c.index { e with data := c.data } <| repairAll [c.index] s) s

def execReleaseState (p : Nat) (s : State) : State :=
  match portTurn p 8 1 s with
  | none => s
  | some (c, s) =>
    let e := dirEntry c.index s
    portResult p [(badIndex p c.index s, 1), (e.v || !e.held, 6)] (fun s =>
      portDone p id <| releaseLost e <|
        writeEntry c.index { e with held := false, heldAt := 0, lost := false, lostExt := none } <|
        repairAll [c.index] s) s

/-- Every match without TAIL is invalidated and freed, its extent in GRACE. -/
def bulkInvalidate (p : Nat) (key mask : BitVec 80) (s : State) : Nat × State :=
  let s := repairHits p key mask s
  let hit := (dirMatches p key mask s).filter fun i => !dataTail (dirEntry i s).data
  (hit.length, hit.foldl (fun s i =>
    let e := dirEntry i s
    extToGrace (dataExt e.data) (writeEntry i { e with v := false, held := false } s)) s)

def execBulkInvalidateState (p : Nat) (s : State) : State :=
  match portTurn p 9 1 s with
  | none => s
  | some (c, s) =>
    portResult p [(reservedKey c.key, 2)] (fun s =>
      let b := bulkInvalidate p c.key c.mask s
      portDone p (fun pt => { pt with count := b.1 }) b.2) s

/-! ### The commands -/

def execSearch (p : Nat) (s : State) : Host.Outcome State Fault Refusal := .next (execSearchState p s)
def execCount (p : Nat) (s : State) : Host.Outcome State Fault Refusal := .next (execCountState p s)
def execRead (p : Nat) (s : State) : Host.Outcome State Fault Refusal := .next (execReadState p s)
def execInvalidate (p : Nat) (s : State) : Host.Outcome State Fault Refusal := .next (execInvalidateState p s)
def execWrite (p : Nat) (s : State) : Host.Outcome State Fault Refusal := .next (execWriteState p s)
def execValidate (p : Nat) (s : State) : Host.Outcome State Fault Refusal := .next (execValidateState p s)
def execSwap (p : Nat) (s : State) : Host.Outcome State Fault Refusal := .next (execSwapState p s)
def execRelease (p : Nat) (s : State) : Host.Outcome State Fault Refusal := .next (execReleaseState p s)
def execBulkInvalidate (p : Nat) (s : State) : Host.Outcome State Fault Refusal := .next (execBulkInvalidateState p s)
def execTailClearOnClose (ctx : Nat) (s : State) : Host.Outcome State Fault Refusal :=
  .next (execTailClearOnCloseState ctx s)
def execDirectoryLeaseExpiry (i : Nat) (s : State) : Host.Outcome State Fault Refusal :=
  .next (execDirectoryLeaseExpiryState i s)
def execExtentGraceEnd (x : Nat) (s : State) : Host.Outcome State Fault Refusal := .next (execExtentGraceEndState x s)
def execStateOnlySwapRetry (s : State) : Host.Outcome State Fault Refusal := .next (execStateOnlySwapRetryState s)
def execDirectoryPatrol (u : DirUpset) (s : State) : Host.Outcome State Fault Refusal :=
  .next (execDirectoryPatrolState u s)

end Sys2Proof.Machine
end

