-- ==== Sys2Proof/Machine/Rows.lean ====
section
/-! DEFINITION. Writing rows and pages (02_kv_pages.md R45, R46; 03_page_directory.md R70 to R72, R471;
07_residency_and_tiers.md R180, R193): slots from the pool, runs created or swapped, tail pages, rows stored, and the turn of
a write that a message brings (02_kv_pages.md R48; 05_attention_requests.md R124, R140, R144). -/

namespace Sys2Proof.Machine

/-! ### Slots of a partition (07 R180, R181) -/

/-- The slots of a partition's quota on a stack: first slot index and count. -/
def quotaRange (p stack : Nat) (s : State) : Nat × Nat :=
  let r := partRec p s
  if stack < 6 then
    let q := r.gs.getD stack {}
    (stackFirst stack + q.slotFirstK * 1024, q.slotCountK * 1024)
  else
    let v := r.vaults.getD (stack - 6) (0, 0)
    (stackFirst stack + v.1 * 1024, v.2 * 1024)

/-- A slot lies in a partition's quota. -/
def inQuota (p slot : Nat) (s : State) : Bool :=
  let r := quotaRange p (slotStack slot) s
  r.1 ≤ slot && slot < r.1 + r.2

/-- Slots of the quota on a stack that are not in the pool, ascending. -/
def notPooled (p stack : Nat) (s : State) : List Nat :=
  let r := quotaRange p stack s
  (s.res.slots.filter fun x => r.1 ≤ x.1 && x.1 < r.1 + r.2 && (x.2.holding || x.2.awaiting)).map (·.1)

/-- Zeroed slots in a partition's pool for a stack. -/
def poolCount (p stack : Nat) (s : State) : Nat := (quotaRange p stack s).2 - (notPooled p stack s).length

/-- A slot is taken from the pool; none when the pool is empty. -/
def takeSlot (p stack : Nat) (s : State) : Option (Nat × State) :=
  let n := poolCount p stack s
  if n = 0 then none
  else
    let k := pick n s
    let slot := nthFree (notPooled p stack s) ((quotaRange p stack s).1 + k.1)
    some (slot, { k.2 with res.slots := put {} k.2.res.slots slot { holding := true, written := true } })

/-- The stack of the lowest-numbered STATE 0 page of a chunk, if it has one. -/
def chunkStack (ctx layer group chunk : Nat) (s : State) : Option Nat :=
  ((List.range 32).filterMap fun i =>
    match pageOf ctx layer group (chunk * 32 + i) s with
    | some (_, w) => if wordState w = 0 then some (slotStack (wordSlot w)) else none
    | none => none).head?

/-- The partition's graver stacks with a non-zero quota, ascending. -/
def quotaStacks (p : Nat) (s : State) : List Nat := (List.range 6).filter fun st => 0 < (quotaRange p st s).2

/-- The stack a new page takes its slot from (R180); none when the partition has no quota on any. -/
def newPageStack (p ctx layer group page : Nat) (s : State) : Option Nat :=
  match chunkStack ctx layer group (page / 32) s with
  | some st => some st
  | none =>
    let l := quotaStacks p s
    l[(ctx + layer + group + page / 32) % l.length]?

/-! ### Runs -/

/-- The page words and tier words of pages of one run are set: the run is created, or swapped to a new extent. None when
an entry or an extent cannot be had. -/
def setRunPages (ctx layer group run : Nat) (words tiers : List (Nat × Nat)) (s : State) : Option State :=
  let g := ctxGeo ctx s
  let last := (words.map (·.1)).foldl max 0
  let s := repairHits g.part (dirKey g.tenant ctx layer group run) lookupMask s
  match runOf g.tenant ctx layer group run g.part s with
  | some i =>
    let e := dirEntry i s
    let x := extent (dataExt e.data) s
    let keep := fun (m : Store Nat) => m.filter fun w => w.1 < dataCount e.data
    match nodeSwap i e.data (changeWords (keep x.words) words) (changeTiers (keep x.tiers) tiers)
        (max last (dataCount e.data - 1)) (dataTail e.data) s with
    | .made s => some s
    | .noExtent | .changed => none
  | none =>
    nodeCreate g.part (dirKey g.tenant ctx layer group run) (changeWords [] words) (changeTiers [] tiers) last false s

/-! ### Rows -/

/-- The bytes of a token record go to a page slot's row (R36, R38, R139). -/
def storeRow (g : Geo) (p : Place) (r : Nat) (rec : List Byte) (m : Mem) : Mem :=
  let b := g.bytes g.d
  let sc := g.d / 32
  (List.range g.h).foldl (fun m j =>
    memWrite (memWrite (memWrite (memWrite m (p.byte (rowOff g false j r)) (sub rec (j * b) b))
      (p.byte (rowOff g true j r)) (sub rec (g.h * b + j * b) b))
      (p.byte (scaleOff g false j r)) (sub rec (2 * g.h * b + j * sc) sc))
      (p.byte (scaleOff g true j r)) (sub rec (2 * g.h * b + g.h * sc + j * sc) sc)) m

/-- Pages that rows t0 to t0 + n - 1 touch. -/
def touchedPages (t0 n : Nat) : List Nat := (List.range ((t0 + n - 1) / 128 - t0 / 128 + 1)).map (t0 / 128 + ·)

/-- The layer and KV group is frozen by a MOVE_OUT or REHOME that copies a staged row or its tail page (07 R183). -/
def frozen (ctx layer group : Nat) (s : State) : Bool :=
  (s.res.moveOuts.any fun m => m.frozen == some (ctx, layer, group)) ||
    s.res.changes.any fun c => c.freezes && c.seen.isSome && c.ctx == ctx && c.layer == layer && c.group == group

/-- Slots for new pages, in ascending order; none when a pool is empty. -/
def takeSlots (p ctx layer group : Nat) : List Nat → State → Option (List (Nat × Nat) × State)
  | [], s => some ([], s)
  | page :: t, s =>
    match newPageStack p ctx layer group page s with
    | none => none
    | some st =>
      match takeSlot p st s with
      | none => none
      | some (slot, s) => (takeSlots p ctx layer group t s).map fun r => ((page, slot) :: r.1, r.2)

/-- The runs of new pages are created or swapped. -/
def installPages (ctx layer group : Nat) (pages : List (Nat × Nat)) (s : State) : Option State :=
  (once (pages.map fun x => x.1 / 64 * 64)).foldl (fun o run => o.bind fun s =>
    setRunPages ctx layer group run
      ((pages.filter fun x => x.1 / 64 * 64 == run).map fun x => (x.1 % 64, pageWord 0 x.2))
      ((pages.filter fun x => x.1 / 64 * 64 == run).map fun x => (x.1 % 64, 0)) s) (some s)

/-- A row write to a page with a tier copy sets DIRTY in the tier word (R193), and a program under way on the page notes
the write (R194). -/
def setDirty (ctx layer group page : Nat) (s : State) : State :=
  match pageOf ctx layer group page s with
  | none => s
  | some (i, _) =>
    let x := dataExt (dirEntry i s).data
    let ex := extent x s
    let w := extTier ex (page % 64)
    let ps := replaceWhere (fun p => p.page == ⟨ctx, layer, group, page⟩) (fun p => { p with touched := true }) s.res.programs
    let s := { s with res.programs := ps }
    if bit w 29 && !bit w 30 then setExtent x { ex with tiers := put 0 ex.tiers (page % 64) (w + 2 ^ 30) } s else s

/-- What a write comes to: stored; refused, with `true` for want of an entry or extent (R72, R471); or still waiting for the
issue cycles of its directory updates (09_strokes_and_passes.md R247) or for a stack's link (R244). -/
inductive WriteEnd where
  | stored (s : State)
  | refused (create : Bool)
  | waits (s : State)
  deriving DecidableEq, Repr

/-- The stacks that hold some pages of a layer and KV group. -/
def pageStacks (ctx layer group : Nat) (pages : List Nat) (s : State) : List Nat :=
  once (pages.filterMap fun p => (pageOf ctx layer group p s).bind fun x =>
    if slotHolds x.2 then some (slotStack (wordSlot x.2)) else none)

/-- The links of the stacks that a write's rows go to carry them now: a planned write and a host's in LINK strokes of USE 0
and in free strokes, a best-effort write in free strokes only (05_attention_requests.md R126). All of them carry in one
stroke (DESIGN CHOICE, notes/assumptions/106.md). -/
def linkTurn (bestEffort : Bool) (sts : List Nat) (s : State) : Bool :=
  sts.all fun st => linkServes st 0 s && (!bestEffort || linkSpare st 0 s)

/-- A write's directory updates, one for each run of new pages, with the issue cycles each takes (R65). -/
def updateCosts (ctx layer group : Nat) (fresh : List Nat) (s : State) : List Nat :=
  let g := ctxGeo ctx s
  (once (fresh.map fun p => p / 64)).map fun r => if (runOf g.tenant ctx layer group (r * 64) g.part s).isSome then 1 else 10

/-- A write that can be made (`place`) is made once its issue cycles and links are there. -/
def writeWhen (bestEffort : Bool) (ctx layer group : Nat) (pages fresh : List Nat) (place : State → Except Bool State)
    (s : State) : WriteEnd :=
  match place s with
  | .error c => .refused c
  | .ok t =>
    let sts := pageStacks ctx layer group pages t
    if !linkTurn bestEffort sts s then .waits s
    else match payNode (stagedKey ctx layer group) (updateCosts ctx layer group fresh s) s with
      | (false, s) => .waits s
      | (true, s) =>
        match place s with
        | .error c => .refused c
        | .ok t => .stored (linkUsed sts 0 t)

/-- Some page that rows reach was dropped: only an incoming MOVE or a PAGE_WRITE brings it back (07 R192). The manual does not
say how a write of rows to it ends; the model refuses the write as one whose page cannot be had (DESIGN CHOICE,
notes/assumptions/107.md). -/
def reachesDropped (w : RowWrite) (s : State) : Bool :=
  (touchedPages w.t0 w.recs.length).any fun p =>
    match pageOf w.ctx w.layer w.group p s with
    | some (_, x) => wordState x == 3
    | none => false

/-- Pages of a write that no slot holds. -/
def freshPages (w : RowWrite) (s : State) : List Nat :=
  (touchedPages w.t0 w.recs.length).filter fun p =>
    match pageOf w.ctx w.layer w.group p s with
    | some (_, x) => !slotHolds x
    | none => true

/-- The rows of a write that passed its checks are stored whole, or nothing is (R46). -/
def placeRows (w : RowWrite) (s : State) : Except Bool State :=
  let g := ctxGeo w.ctx s
  let pages := touchedPages w.t0 w.recs.length
  if frozen w.ctx w.layer w.group s || reachesDropped w s then .error false
  else match takeSlots g.part w.ctx w.layer w.group (freshPages w s) s with
    | none => .error false
    | some (got, s) =>
      match installPages w.ctx w.layer w.group got s with
      | none => .error true
      | some s =>
        let s := pages.foldl (fun s p => setDirty w.ctx w.layer w.group p s) s
        let m := (indexed w.t0 w.recs).foldl (fun m x =>
          match pageOf w.ctx w.layer w.group (x.1 / 128) s with
          | some (_, word) => storeRow g (slotPlace (wordSlot word)) (x.1 % 128) x.2 m
          | none => m) s.mem.stk
        let k := stagedKey w.ctx w.layer w.group
        let s := { s with mem.stk := m, res.staged := upd 0 s.res.staged k fun n => max n (w.t0 + w.recs.length) }
        .ok (placeTail w.ctx w.layer w.group s)

def storeRows (bestEffort : Bool) (w : RowWrite) (s : State) : WriteEnd :=
  writeWhen bestEffort w.ctx w.layer w.group (touchedPages w.t0 w.recs.length) (freshPages w s) (placeRows w) s

/-- A write refused under R46, R72 or R471: nothing changes but the counter. -/
def refusedWrite (create : Bool) (s : State) : State := if create then countEvent cCreateRefused unitNode s else s

/-! ### The turn of a write (02 R48; 05 R124 to R126, R140, R144; 12_transport.md R330) -/

/-- The slot record that a SLOT field names in a partition, of one kind: 0 attention, 1 write, 2 move. -/
def slotOf (part slot kind : Nat) (s : State) : Option SlotRec :=
  (plate s).slots.find? fun r => r.part == part && r.slot == slot && r.kind == kind

/-- A message that writes pages or lengths: APPEND, COMMIT, MOVE or EXPORT. -/
def isWrite (m : InMsg) : Bool :=
  (m.typ == tAppend || m.typ == tCommit || m.typ == tMove || m.typ == tExport) && !m.isResp

/-- A message that writes: its connection's later writes wait for it (12_transport.md R330). -/
def isOrderedWrite (m : InMsg) : Bool := isWrite m || (m.typ == tRdmaWr && !m.isResp)

/-- Context, SLOT field and kind of slot that a write's header names. -/
def writeCtx (m : InMsg) : Nat := field (u m.body 8 4) 0 21
def writeSlot (m : InMsg) : Nat := if m.typ = tMove ∨ m.typ = tExport then u m.body 0x16 2 else u m.body 0x10 2
def writeKind (m : InMsg) : Nat := if m.typ = tMove ∨ m.typ = tExport then 2 else 1

/-- The occurrence a write aims at, by its admission stroke: SLOT names a slot of its partition and kind whose record names
its connection, the body was whole before the check stroke, and no write admitted before holds the occurrence (R124). -/
def writeOcc (m : InMsg) (s : State) : Option Nat :=
  match slotOf (connRec m.conn s).part (writeSlot m) (writeKind m) s with
  | none => none
  | some sr =>
    match nextOccurrence sr.slot m.at_ s with
    | some a => if sr.conn = m.conn ∧ m.doneAt + 1 < a ∧ !s.sch.slotTaken.contains (sr.slot, a) then some a else none
    | none => none

/-- How a write stands in the present stroke: planned, in its admission stroke; of the best-effort class, also when its
stroke has passed; or still before its stroke. -/
inductive Turn where
  | planned (slot occ : Nat)
  | bestEffort
  | early
  deriving DecidableEq, Repr

def writeTurn (m : InMsg) (s : State) : Turn :=
  match writeOcc m s with
  | none => .bestEffort
  | some a => if strokeCount s < a then .early else if a = strokeCount s then .planned (writeSlot m) a else .bestEffort

/-- The write goes before another of the same context that could be admitted in the same stroke: it came by a lower port, or
by the same port earlier (R48). `l` are the waiting writes in arrival order. -/
def goesFirst (m : InMsg) (l : List InMsg) (s : State) : Bool :=
  let ready := fun x : InMsg => x != m && writeCtx x == writeCtx m && writeTurn x s != .early
  let before := l.takeWhile (· != m)
  !(l.any fun x => ready x && x.port < m.port) && !(before.any fun x => ready x && x.port == m.port)

/-- The write of a connection that is admitted now, when it has this type: the writes of one connection are admitted in the
order sent, an RDMA_WR among them (R144, 12_transport.md R330), those of one stroke in the order of R48, and writes for a partition that an armed delta holds wait
(08_plates.md R232). -/
def nextWrite (c typ : Nat) (s : State) : Option InMsg :=
  let ws := s.tfx.inbox.filter isWrite
  let mine := s.tfx.inbox.find? fun m => m.conn == c && isOrderedWrite m
  match mine with
  | some m =>
    if m.typ = typ ∧ writeTurn m s ≠ .early ∧ goesFirst m ws s ∧ !heldPart (connRec c s).part s then some m else none
  | none => none

/-- A write is admitted: it holds its occurrence, and its credit returns (R124, R327). -/
def takeWrite (m : InMsg) (s : State) : State :=
  let s := match writeTurn m s with
    | .planned sl a => { s with sch.slotTaken := s.sch.slotTaken ++ [(sl, a)] }
    | .bestEffort | .early => s
  returnCredit m.conn m.cls m.body.length (inboxTake m s)

end Sys2Proof.Machine
end

