-- ==== Sys2Proof/Machine/Attention.lean ====
section
/-! DEFINITION. Attention requests (05_attention_requests.md): taking an ATTN in, its check and admission strokes, lookups,
dispatch and the best-effort class, APPEND, COMMIT and CANCEL. -/

namespace Sys2Proof.Machine

/-! ### Taking an ATTN in (R114, R124, R125, R128) -/

abbrev maxInFlight : Nat := 16384

/-- The request holds its slot's occurrence against another ATTN of the same occurrence: completed in an earlier stroke, or
in the same one on a lower-numbered port, or earlier on one port (R125). -/
def sameOccurrence (a b : Req) : Bool :=
  !a.bestEffort && !b.bestEffort && a.occ.isSome && a.occ == b.occ && (a.slot.map (·.slot)) == (b.slot.map (·.slot))

/-- An ATTN is taken in. `doneAt` is the stroke in which its body was complete. -/
def takeIn (r : Req) (s : State) : State :=
  { s with sch.reqs := s.sch.reqs ++ [{ r with id := s.sch.nextReq }], sch.nextReq := s.sch.nextReq + 1 }

/-- A request that loses its occurrence joins the best-effort class. -/
def joinBestEffort (r : Req) : Req := { r with bestEffort := true, occ := none }

/-- The request of a message, aimed at an occurrence of its slot or at the best-effort class (R124, R125). -/
def aimed (m : InMsg) (s : State) : Req :=
  let k := connRec m.conn s
  let h := attnHdr m.body
  let sl := slotOf k.part h.slot 0 s
  let r : Req :=
    { id := 0, tenant := k.tenant, part := k.part, conn := some m.conn, port := m.port, body := m.body, tag := h.tag,
      firstStroke := m.at_, doneStroke := m.doneAt, slot := sl }
  match sl with
  | none => joinBestEffort r
  | some sr =>
    match nextOccurrence sr.slot m.at_ s with
    | some a => if sr.conn = m.conn ∧ m.doneAt + 1 < a then { r with occ := some a } else joinBestEffort r
    | none => joinBestEffort r

/-- ATTN (R124, R128): the connection's first waiting ATTN is taken in or discarded. -/
def execAttnState (c : Nat) (s : State) : State :=
  match inboxFind c tAttn false s with
  | none => s
  | some m =>
    let s := inboxTake m s
    if m.beyond || maxInFlight ≤ inFlightCount s then
      let s := countEvent cOverflow (unitConn c) (returnCredit c m.cls m.body.length s)
      if m.beyond then s else returnToken c s
    else
      let r := aimed m s
      match s.sch.reqs.find? (sameOccurrence r) with
      | none => takeIn r s
      | some o =>
        -- a tie within one stroke goes to the lower-numbered port
        if o.phase = .taken ∧ o.doneStroke = m.doneAt ∧ m.port < o.port then
          takeIn r (setReq (joinBestEffort o) s)
        else takeIn (joinBestEffort r) s

/-! ### The check stroke (R118, R127, R163, R221) -/

/-- The partition uses length buckets (R132). -/
def bucketPart (p : Nat) (s : State) : Bool := (plate s).bucketPart p

/-- The best-effort gravers of a partition. -/
def bestEffortMask (p : Nat) (s : State) : Nat := look 0 (plate s).bestEffort p

/-- A graver is fenced or gated. -/
def graverOut (g : Nat) (s : State) : Bool := (graver g s).st == .fenced || (graver g s).st == .gated

/-- The usable best-effort gravers, ascending (R127). -/
def bestEffortGravers (p : Nat) (s : State) : List Nat :=
  (List.range 96).filter fun g => bit (bestEffortMask p s) g && !graverOut g s

/-- R50 for a message of a tenant. -/
def namesFail (tenant ctx layer group : Nat) (s : State) : Bool :=
  let g := ctxGeo ctx s
  !g.isOpen || g.tenant != tenant || g.layersM1 < layer || g.groupsM1 < group

/-- Inline candidate KV holds an invalid encoding (R49). -/
def attnIngestBad (b : List Byte) (s : State) : Bool :=
  let a := attnHdr b
  let g := ctxGeo a.ctx s
  g.isOpen && a.candKv && (List.range a.cands).any fun c => candRecBad g (candRec a g b c)

/-- SCALE or CAP is finite and above zero. -/
def finitePositive (x : F32) : Bool := fFinite x && !fNeg x && !fIsZero x

/-- The padding of the query and candidate regions holds a byte that is not zero (R119, R120). -/
def paddingBad (a : AttnHdr) (g : Geo) (b : List Byte) : Bool :=
  let q := queryBytes a g
  let c := candBytes a g
  !zeroes (sub b (96 + q) (pad16 q - q)) || !zeroes (sub b (96 + pad16 q + c) (pad16 c - c))

/-- Some check of R118 that rests on the message alone fails. -/
def attnFieldsBad (a : AttnHdr) (g : Geo) (b : List Byte) : Bool :=
  b.length != attnLength a g || 65536 < b.length || attnReserved b || a.qfmt == 3 || a.opfmt == 3 || 64 < a.rows ||
  g.h ≤ a.headPos || !finitePositive a.scale || (!a.softcap && a.cap != 0) || (a.softcap && !finitePositive a.cap) ||
  (a.lenAny && a.length != 0) || a.base % 4096 != 0 || (a.limit != 0 && a.limit ≤ a.base) || maxTokens < a.limit ||
  paddingBad a g b || (List.range 16).any (fun c => !ancestryOk a.masks a.cands c) ||
  (List.range a.rows).any fun r => (List.range (g.d / 32)).any fun k => queryBlockBad a (queryBlock a g b r k)

/-- Some check that rests on the plate fails. -/
def attnPlateBad (r : Req) (a : AttnHdr) (s : State) : Bool :=
  (bucketPart r.part s == false && a.bucket != 0) ||
  (a.candKv && (match r.slot with | some sl => sl.candG == 0xFF | none => false)) ||
  ((partRec r.part s).canonical && a.limit % 4096 != 0) ||
  (match treeOf r s with | some t => a.base != t.ownBase || a.limit != t.ownLimit | none => false) ||
  (r.bestEffort && bestEffortMask r.part s == 0) ||
  (!r.bestEffort && bucketPart r.part s && (match r.slot with | some sl => sl.bucket != a.bucket | none => false))

/-- The status that refuses an ATTN in its check; ST_OK when it passes. Of several conditions R17 reports one
(00_scope.md). -/
def attnStatus (r : Req) (s : State) : Nat :=
  let a := r.hdr
  let g := ctxGeo a.ctx s
  combine <|
    codeIf (r.body.length < 96 || namesFail r.tenant a.ctx a.layer a.group s || attnFieldsBad a g r.body ||
      attnIngestBad r.body s || attnPlateBad r a s) stMalformed ++
    codeIf (s.pwr.hold || scrubPending r.part r.tenant s ||
      (r.bestEffort && (bestEffortGravers r.part s).isEmpty)) stFenced ++
    codeIf (s.res.ctxUe.contains a.ctx) stUncorrectable

/-- The check of a taken-in ATTN: its ingest check, its credit, and refusal or a place in flight. An ATTN that named a slot
and missed it counts in LATE at its check in the best-effort class: R125 does not give the moment (DESIGN CHOICE,
notes/assumptions/105.md). -/
def checkReq (r : Req) (s : State) : State :=
  let s := if r.bestEffort && r.hdr.slot != 0xFFFF then countEvent cLate unitNode s else s
  let s := if attnIngestBad r.body s then countEvent cIngestReject unitNode s else s
  let s := match r.conn with
    | some c => returnCredit c 1 r.body.length s
    | none => s
  let st := attnStatus r s
  if st ≠ stOk then refuseReq r st s
  else
    let s := setReq { r with phase := .checked, desc := ctxWord r.hdr.ctx s, canon := (partRec r.part s).canonical } s
    let s := if r.bestEffort then { s with sch.queues := upd [] s.sch.queues r.part fun q => q ++ [r.id] } else s
    { s with sch.peak := max s.sch.peak (inFlightCount s) }

/-- ATTN_CHECK_STROKE: a planned request is checked in the stroke before its admission stroke; at most 8 best-effort
checks run in one stroke (R118, R248). -/
def execAttnCheckStrokeState (id : Nat) (ue : Option Nat) (s : State) : State :=
  match reqFind id s with
  | some r =>
    let struck := strikeCtx r.hdr.ctx ue s
    if r.phase ≠ .taken then s
    else if heldPart r.part s then setReq { r with bestEffort := true, occ := none } s
    else if r.bestEffort then
      (if s.sch.checks < 8 then checkReq r { struck with sch.checks := s.sch.checks + 1 } else s)
    else if r.occ = some (strokeCount s + 1) then checkReq r struck
    else s
  | none => s

/-! ### The admission stroke (R129 to R133, R251) -/

/-- The runs a request looks up, ascending (R133). -/
def coveredRuns (lo hi : Nat) : List Nat :=
  if hi ≤ lo then []
  else (List.range ((hi - 1) / 128 / 64 - lo / 128 / 64 + 1)).map fun i => (lo / 128 / 64 + i) * 64

/-- The length in force for an admission in this stroke (R130). -/
def lenAtAdmission (ctx : Nat) (s : State) : Nat :=
  let b := look (0, 0) s.res.lensBefore ctx
  if b.1 = strokeCount s + 1 then b.2 else ctxLen ctx s

/-- Gravers set in a mask, ascending. -/
def maskGravers (m : Nat) : List Nat := (List.range 96).filter fun g => bit m g

/-- The share of R132 in tokens per graver. -/
def shareTokens (canon : Bool) (lo hi n : Nat) : Nat :=
  if hi ≤ lo then 0
  else
    let unit := if canon then 4096 else 128
    ceilDiv (ceilDiv hi unit - lo / unit) n * unit

/-- What the slot does not allow (R132, R251). -/
def slotRefuses (r : Req) (sl : SlotRec) (lo hi runs : Nat) (s : State) : Bool :=
  (if bucketPart r.part s then 512 * 2 ^ sl.bucket < hi - lo
   else sl.shareLimit < shareTokens r.canon lo hi (maskGravers sl.gravers).length) ||
  (match r.occ.bind fun a => slotLineAt sl.slot a s with
   | some l => l.openAfter < ceilDiv runs sl.lookups + ceilDiv runs 256
   | none => false)

/-- The status that refuses a request in its admission stroke. -/
def admissionStatus (r : Req) (len lo hi : Nat) (s : State) : Nat :=
  let a := r.hdr
  combine <|
    codeIf (!(ctxGeo a.ctx s).isOpen || (!a.lenAny && a.length != len) ||
      (!r.bestEffort && (match r.slot with
        | some sl => slotRefuses r sl lo hi (coveredRuns lo hi).length s
        | none => false))) stMalformed ++
    codeIf (s.res.ctxUe.contains a.ctx) stUncorrectable

/-- A child's IMPR that came before its parent's admission takes its position in the request's tree line, the first for a
position winning (R170, R173). -/
def placeChild (t : TreeLine) (x : ColEntry × State) (a : Arrival) : ColEntry × State :=
  match positionIn t a.conn with
  | none => (x.1, countEvent cOrphan (unitConn a.conn) x.2)
  | some pos =>
    if x.1.accepted.contains pos then (x.1, countEvent cDupDropped (unitConn a.conn) x.2)
    else ({ x.1 with accepted := x.1.accepted ++ [pos], arrivals := x.1.arrivals ++ [{ a with source := 16 + pos }] }, x.2)

/-- The request's collator entry opens, or the one a child's IMPR opened becomes its own (R171). -/
def openEntry (r : Req) (s : State) : State :=
  let mine := fun e : ColEntry => e.req == none && e.tenant == r.tenant && e.tag == r.tag
  let s := { s with sch.closed := s.sch.closed.filter fun x => x.1 != r.tenant || x.2.1 != r.tag }
  match treeOf r s, s.sch.entries.find? mine with
  | some t, some e =>
    let j := e.arrivals.foldl (placeChild t) ({ e with req := some r.id, arrivals := [] }, s)
    { j.2 with sch.entries := replaceWhere mine (fun _ => j.1) j.2.sch.entries }
  | _, _ => { s with sch.entries := s.sch.entries ++ [{ tenant := r.tenant, tag := r.tag, req := some r.id }] }

/-- The admission of a checked request. -/
def admitReq (r : Req) (s : State) : State :=
  let len := lenAtAdmission r.hdr.ctx s
  let c := coveredRange r.hdr len
  let st := admissionStatus r len c.1 c.2 s
  if st ≠ stOk then refuseReq r st s
  else
    let r := { r with phase := .lookups, tree := treeOf r s, len := len, lo := c.1, hi := c.2, admitTime := s.time.now
                      admitPass := passNow s, runs := coveredRuns c.1 c.2 }
    let s := openEntry r (setReq r s)
    if r.bestEffort then s else { s with tel.live.admitted := sat32 (s.tel.live.admitted + 1) }

/-- The best-effort request that its partition's queue admits next. -/
def nextQueued (r : Req) (s : State) : Bool :=
  match (look [] s.sch.queues r.part).find? fun id =>
      match reqFind id s with | some q => q.phase == .checked | none => false with
  | some id => id == r.id
  | none => false

/-- ADMISSION_STROKE. -/
def execAdmissionStrokeState (id : Nat) (ue : Option Nat) (s : State) : State :=
  match reqFind id s with
  | some r =>
    if r.phase = .checked ∧ !heldPart r.part s ∧ (if r.bestEffort then nextQueued r s else r.occ == some (strokeCount s)) then
      admitReq r (strikeCtx r.hdr.ctx ue s)
    else s
  | none => s

/-- The issue cycle of a request's next lookup: a planned request has as many in a stroke as its slot allots (R129), a
best-effort one takes a cycle that no line allots (R127, 09_strokes_and_passes.md R248). -/
def lookupCycle (r : Req) (s : State) : Option State :=
  match r.bestEffort, r.slot, r.occ with
  | false, some sl, some a => if r.hits.length < sl.lookups * (strokeCount s + 1 - a) then some s else none
  | _, _, _ => takeFree 1 s

/-- ADMISSION_LOOKUP (R63, R76, R129): the next run of a request is looked up. -/
def execAdmissionLookupState (id : Nat) (u : DirUpset) (s : State) : State :=
  match reqFind id s with
  | none => s
  | some r =>
    match r.phase, r.runs, lookupCycle r s with
    | .lookups, run :: rest, some s =>
        let a := r.hdr
        let h := checkedSearch r.part (dirKey r.tenant a.ctx a.layer a.group run) lookupMask 0 u.shadowUe (applyFlips u s)
        let s := h.2
        let s := match h.1 with
          | some i => { s with dir.entries := upd {} s.dir.entries i fun e => { e with age := passNow s } }
          | none => s
        let ext := h.1.map fun i => (dataExt (dirEntry i s).data, dataCount (dirEntry i s).data)
        let s := setReq { r with runs := rest, hits := r.hits ++ [⟨run, ext⟩] } s
        { s with tel.live.lookups := sat32 (s.tel.live.lookups + 1) }
    | _, _, _ => s

/-! ### Work generation (R133 to R137) -/

/-- A covered page once its word is read: computable, with its stack, or reported with a status. -/
inductive PageUse where
  | compute (page : WorkPage) (stack : Nat)
  | absent (page row count status : Nat)
  deriving DecidableEq, Repr

/-- The tile of a page that serves a request: staged for the pass, and for work that starts now already standing (R133,
R186, notes/assumptions/12.md). -/
def tileFor (name : PageName) (part : Nat) (now : Bool) (s : State) : Option Nat :=
  (s.res.tiles.find? fun t =>
    t.2.page == name && t.2.part == part && passNow s ≤ t.2.lastPass &&
      (!now || (t.2.stands && t.2.stoodAt < strokeCount s))).map (·.1)

/-- The status of a page that is not computed (R21, R59). -/
def absentStatus (state : Nat) : Nat :=
  if state = 3 then stPageDropped else if state = 4 then stPageSuspect else stPageAbsent

/-- What becomes of one covered page. -/
def pageUse (r : Req) (x : Option (Nat × Nat)) (ue : List Nat) (page : Nat) (s : State) : PageUse :=
  let a := r.hdr
  let row := if page = r.lo / 128 then r.lo % 128 else 0
  let count := min 128 (r.hi - page * 128) - row
  match x with
  | none => .absent page row count stPageAbsent
  | some (ext, n) =>
    let w := if page % 64 < n then extWord (extent ext s) (page % 64) else noneWord
    if ue.contains ext then .absent page row count stUncorrectable
    else if r.tierLost.contains page then .absent page row count stTierError
    else if wordState w = 0 then .compute ⟨page, false, wordSlot w, row, count⟩ (slotStack (wordSlot w))
    else if wordState w = 1 ∨ wordState w = 2 then
      match tileFor ⟨a.ctx, a.layer, a.group, page⟩ r.part r.bestEffort s with
      | some t => .compute ⟨page, true, t, row, count⟩ (t / tilesPerStack)
      | none => .absent page row count stPageAbsent
    else .absent page row count (absentStatus (wordState w))

/-- The pages of a looked-up run that a request covers. -/
def runPages (r : Req) (h : RunHit) (ue : List Nat) (s : State) : List PageUse :=
  ((List.range 64).map (h.base + ·)).filterMap fun p =>
    if r.lo / 128 ≤ p ∧ p ≤ (r.hi - 1) / 128 then some (pageUse r h.ext ue p s) else none

/-- Computable pages with their stacks. -/
def computable (us : List PageUse) : List (WorkPage × Nat) :=
  us.filterMap fun | .compute p st => some (p, st) | .absent .. => none

/-- The home stack of a chunk: that of its lowest-numbered computable page. -/
def chunkHome (ps : List (WorkPage × Nat)) (q : Nat) : Option Nat :=
  (ps.find? fun x => x.1.page / 32 == q).map (·.2)

/-- Units floor(i*u/n) to floor((i+1)*u/n) - 1 of a list. -/
def dealPart {α : Type} (l : List α) (i n : Nat) : List α :=
  (l.drop (i * l.length / n)).take ((i + 1) * l.length / n - i * l.length / n)

/-- Pages in blocks of 4,096 tokens (04_graver_engines.md R103). -/
def pageBlocks : Nat → List WorkPage → List Block
  | 0, _ => []
  | n + 1, ps => if ps.isEmpty then [] else ⟨false, 0, ps.take 32⟩ :: pageBlocks n (ps.drop 32)

/-- deal of R134 for one stack: the blocks of each graver. `gs` are the stack's gravers in order, `bucket` the bucket's span
in a bucket partition. -/
def dealStack (r : Req) (ps : List (WorkPage × Nat)) (bucket : Option Nat) (st : Nat) (gs : List Nat) :
    List (Nat × List Block) :=
  let mine := ps.filter fun x => x.2 == st
  let n := gs.length
  if r.canon then
    let home := fun q => chunkHome ps q == some st
    let units := match bucket with
      | some span => (List.range (ceilDiv span 4096)).map (r.lo / 4096 + ·)
      | none => (once (mine.map fun x => x.1.page / 32)).filter home
    (indexed 0 gs).map fun x =>
      (x.2, ((dealPart units x.1 n).filter home).map fun q =>
        ⟨false, q, (mine.filter fun p => p.1.page / 32 == q).map (·.1)⟩)
  else
    let units := match bucket with
      | some span => (List.range (ceilDiv span 128)).map (r.lo / 128 + ·)
      | none => mine.map fun x => x.1.page
    (indexed 0 gs).map fun x =>
      let own := dealPart units x.1 n
      let pages := (mine.filter fun p => own.contains p.1.page).map (·.1)
      (x.2, pageBlocks (pages.length + 1) pages)

/-- Pages that R135 reports absent: off their chunk's home stack, or on a stack with no graver. -/
def missedPages (r : Req) (ps : List (WorkPage × Nat)) (sts : List Nat) : List WorkPage :=
  (ps.filter fun x =>
    (r.canon && chunkHome ps (x.1.page / 32) != some x.2) || !sts.contains x.2).map (·.1)

/-- Runs of adjoining pages of a block, as dealt tokens. -/
def dealtRuns (g : Nat) : List WorkPage → List Dealt
  | [] => []
  | p :: t =>
    match dealtRuns g t with
    | d :: ds =>
      if p.page * 128 + p.row + p.count = d.base then ⟨g, false, p.page * 128 + p.row, p.count + d.count⟩ :: ds
      else ⟨g, false, p.page * 128 + p.row, p.count⟩ :: d :: ds
    | [] => [⟨g, false, p.page * 128 + p.row, p.count⟩]

/-- What a graver is dealt. -/
def dealtOf (cands : Nat) (x : Nat × List Block) : List Dealt :=
  x.2.flatMap fun b => if b.cand then [⟨x.1, true, 0, cands⟩] else dealtRuns x.1 b.pages

/-- The gravers that serve a request, the bucket span, and the graver of the candidate block (R127, R134, R136). -/
def workGravers (r : Req) (s : State) : List Nat × Option Nat × Option Nat :=
  let a := r.hdr
  if r.bestEffort then
    let gs := bestEffortGravers r.part s
    (gs, none, if a.candKv then gs.head? else none)
  else match r.slot with
    | some sl =>
      (maskGravers sl.gravers, if bucketPart r.part s then some (512 * 2 ^ sl.bucket) else none,
        if a.candKv then some sl.candG else none)
    | none => ([], none, none)

/-- The work of a request: what each graver is given, in ascending graver index. -/
def workOf (r : Req) (us : List PageUse) (s : State) : List (Nat × List Block) :=
  let w := workGravers r s
  let ps := computable us
  let dealt := (List.range 6).flatMap fun st => dealStack r ps w.2.1 st (w.1.filter fun g => g / 16 == st)
  let withCand := fun g (bs : List Block) => if w.2.2 = some g then ⟨true, 0, []⟩ :: bs else bs
  ((sortNat (once ((dealt.map (·.1)) ++ w.2.2.toList))).map fun g =>
    (g, withCand g ((dealt.filter fun x => x.1 == g).flatMap (·.2)))).filter fun x => !x.2.isEmpty

/-- Coverage of the pages that are not computed. -/
def absentCov (nrows : Nat) (us : List PageUse) : List Cov :=
  us.flatMap fun
    | .absent page row count status => covTokens (page * 128 + row) count status (allRows nrows)
    | .compute .. => []

/-- Every page of a request with its use; extents in `ue` read with uncorrectable errors (R78). -/
def allPages (r : Req) (ue : List Nat) (s : State) : List PageUse := r.hits.flatMap fun h => runPages r h ue s

/-- Descriptors are delivered, the entry knows what each graver was dealt (R136, R167). -/
def deliver (r : Req) (us : List PageUse) (s : State) : State :=
  let a := r.hdr
  let work := workOf r us s
  let w := workGravers r s
  let missed := missedPages r (computable us) (once (w.1.map (· / 16)))
  let cov := absentCov a.rows us ++
    missed.flatMap fun p => covTokens (p.page * 128 + p.row) p.count stPageAbsent (allRows a.rows)
  let s := missed.foldl (fun s _ => countEvent cStackMiss unitNode s) s
  let s := work.foldl (fun s x =>
    let gv := graver x.1 s
    if graverOut x.1 s then s
    else
      let d : Desc := { req := r.id, blocks := x.2 }
      setGraver x.1 { gv with descs := gv.descs ++ [d] } s) s
  let r := { r with phase := .dispatched, cov := r.cov ++ cov, gravers := work.map (·.1), hits := []
                    qrows := queryRows a r.geo r.body }
  let s := setReq r s
  match entryFind r.id s with
  | some e => setEntry { e with dealt := work.flatMap (dealtOf a.cands) } s
  | none => s

/-- Uncorrectable errors of extent descriptors that a request reads (R78). -/
def extentErrors (r : Req) (ue : List Nat) (s : State) : State :=
  let hit := once ((r.hits.filterMap fun h => h.ext.map (·.1)).filter fun x => ue.contains x)
  hit.foldl (fun s x => countUe (ueExtent x) fUeMeta (unitStack 6) (leBytes 4 x) s) s

/-- The last of a request's dispatch strokes, admitted in stroke `a` with `n` runs and `lookups` cycles a stroke: lookups
run in K strokes and extents are read in the next D (R129). -/
def dispatchStroke (a n lookups : Nat) : Nat := a + ceilDiv n lookups + max 1 (ceilDiv n 256) - 1

/-- WORK_DISPATCH (R129, R133 to R137): the work of a planned request whose lookup results all stand goes to its gravers in
the last of its dispatch strokes. -/
def execWorkDispatchState (id : Nat) (ue : List Nat) (s : State) : State :=
  match reqFind id s with
  | none => s
  | some r =>
    if r.phase ≠ .lookups ∨ !r.runs.isEmpty ∨ r.bestEffort then s
    else match r.slot, r.occ with
      | some sl, some a =>
        if strokeCount s < dispatchStroke a r.hits.length sl.lookups then s
        else deliver r (allPages r ue s) (extentErrors r ue s)
      | _, _ => s

/-! ### The best-effort class (R126, R127) -/

/-- Operand factors of R91. -/
def scoreFactor (a : AttnHdr) (g : Geo) : Nat :=
  if a.opfmt = 2 then 8 else if g.fmt = 3 then 1 else if a.opfmt = 1 then 1 else 2
def valueFactor (a : AttnHdr) (g : Geo) : Nat := (if a.precise then 4 else 1) * (if g.fmt = 3 then 1 else 2)

/-- Graver cycles of a read of `b` bytes (R104): b * F / 1,500, with F 1.5 in grade A and 1.35 in grade B. -/
def readCycles (gradeB : Bool) (b : Nat) : Nat := if gradeB then ceilDiv (b * 9) 10000 else ceilDiv b 1000
/-- Bytes that a number of cycles can read ahead (R105). -/
def readAhead (gradeB : Bool) (c : Nat) : Nat := min 393216 (if gradeB then c * 10000 / 9 else c * 1000)

/-- Cycles of the blocks in order: `ahead` bytes of the first one's K are prefetched, `close` cycles of the previous block's
close run alongside its first sweep (R104, R105). -/
def blockCycles (gradeB : Bool) (a : AttnHdr) (g : Geo) : List Block → Nat → Nat → Nat
  | [], _, close => close
  | b :: t, ahead, close =>
    let tok := if b.cand then a.cands else (b.pages.map (·.count)).sum
    let bytes := if b.cand then 0 else tok * g.bytes g.d + tok * (g.d / 32)
    let w := (if a.precise then 128 else 66) * tok
    let s1 := 16 + max (max (ceilDiv (tok * g.d * scoreFactor a g) 2048) (ceilDiv tok 16)) (readCycles gradeB (bytes - ahead))
    let s2 := 16 + ceilDiv tok 16 + 8
    let s3 := 16 + max (max (ceilDiv (tok * g.d * valueFactor a g) 2048) (ceilDiv w 4096)) (readCycles gradeB bytes)
    max s1 close + s2 + s3 + blockCycles gradeB a g t (readAhead gradeB s2) (48 + ceilDiv (64 * (16 + 4 * g.d)) 256)

/-- Whole strokes of a share: 375 graver cycles a stroke in grade A, 337.5 in grade B (R24). -/
def shareStrokes (gradeB : Bool) (a : AttnHdr) (g : Geo) (bs : List Block) : Nat :=
  let c := blockCycles gradeB a g bs 0 0
  if gradeB then ceilDiv (2 * c) 675 else ceilDiv c 375

/-- A graver is idle with nothing waiting, and its next `n` strokes are free. -/
def graverOpen (g n : Nat) (s : State) : Bool :=
  let gv := graver g s
  gv.st == .idle && gv.descs.isEmpty && gv.finished.isEmpty &&
    (List.range n).all fun i => graverFree g (strokeCount s + 1 + i) s

/-- Collator buffer of a result, in units of 64 KiB: its largest IMPR. -/
def resultUnits (r : Req) : Nat :=
  ceilDiv (64 + 16 * 1024 + 25 * (8 + r.hdr.rows * (16 + 4 * r.geo.d))) 65536

/-- Buffer space for a best-effort result is free (06_impressions_and_collation.md R168). -/
def bufferFree (r : Req) (s : State) : Bool :=
  let used := ((s.sch.reqs.filter fun q => q.bestEffort && q.phase == .dispatched).map resultUnits).sum
  used + resultUnits r + reservedUnits (strokeCount s) s ≤ collatorUnits

/-- Gravers start on best-effort work at once. -/
def startBestEffort (id : Nat) (s : State) (g : Nat) : State :=
  let gv := graver g s
  setGraver g (openNext s (renew s { gv with
    current := some id, st := .working, delayed := false, heated := false, windowEnd := none, chainEnd := none })) s

/-- The head of a partition's queue is ready for dispatch: its lookups stand. -/
def headReady (p : Nat) (s : State) : Option Req :=
  match look [] s.sch.queues p with
  | id :: _ =>
    match reqFind id s with
    | some r => if r.phase = .lookups ∧ r.runs.isEmpty then some r else none
    | none => none
  | [] => none

/-! ### Host ATTN (R128; 13_host_attachment.md R350) -/

/-- ATTN tokens that connections hold: at least 4 for each used one (R328). -/
def connTokens (s : State) : Nat :=
  ((plate s).conns.map fun x => if x.2.used then max 4 ((conn x.1 s).attn.limit - (conn x.1 s).attn.returned) else 0).sum

/-- A token that no connection and no host command holds is free. -/
def tokenFree (s : State) : Bool := s.tfx.hostTokens + connTokens s < maxInFlight

def attnArgs : List (Nat × Nat) := [(0x00, 64), (0x08, 17), (0x10, 64), (0x18, 21)]

/-- The least OUT_LEN of a host ATTN. -/
def outNeeded (a : AttnHdr) (g : Geo) (canon : Bool) : Nat :=
  64 + 16384 + (if canon then 25 else 1) * (8 + a.rows * (16 + 4 * g.d))

/-- The body of a host ATTN. -/
def hostBody (c : Cmd) (s : State) : List Byte := b2Read c.f (c.arg 0 8) (field (c.arg 8 4) 0 17) s

/-- The reason that refuses a host ATTN before it is submitted. -/
def hostAttnReason (c : Cmd) (s : State) : Option Nat :=
  let a := attnHdr (hostBody c s)
  let outLen := field (c.arg 0x18 4) 0 21
  if !b2Ok c.f (c.arg 0 8) (field (c.arg 8 4) 0 17) s || !b2Ok c.f (c.arg 0x10 8) outLen s ||
      outLen < outNeeded a (ctxGeo a.ctx s) (partRec c.part s).canonical then some 2
  else if a.slot ≠ 0xFFFF then some 6
  else none

/-- The command takes a token and its body is taken in; the queue goes on to the next command. -/
def submitAttn (c : Cmd) (s : State) : State :=
  let body := hostBody c s
  let r : Req :=
    { id := 0, tenant := c.tenant, part := c.part, conn := none, host := some (c.f, c.seq, c.idx), out := c.arg 0x10 8, body
      tag := u body 0 8, firstStroke := strokeCount s, bestEffort := true }
  settle c.f 0 (advanceCmd c.f 0 (takeIn r { s with tfx.hostTokens := s.tfx.hostTokens + 1 }))

/-- HOST_ATTN: refused, or submitted when a token is free; otherwise it waits in its queue. In hold mode the check refuses
it with ST_FENCED (16_faults_and_recovery.md R435). -/
def execHostAttnState (f : Nat) (s : State) : State :=
  runCmd f 0 1 attnArgs false hostAttnReason (fun c s => if tokenFree s then submitAttn c s else s) s

/-- ATTN_TOKEN_TAKEN: a waiting host ATTN takes a token that has become free. -/
def execAttnTokenTakenState (f : Nat) (s : State) : State :=
  match hostCmd f 0 1 s with
  | some c =>
    if tokenFree s && (cmdReason c attnArgs s).isNone && (hostAttnReason c s).isNone && (partyStatus false c s).isNone then
      submitAttn c s
    else s
  | none => s

/-! ### CANCEL (R147, R148) -/

/-- A graver abandons the parts of a request whose window has not opened; a running one stops at its sweep boundary. -/
def cancelOn (r : Req) (g : Graver) : Graver :=
  if g.current = some r.id then { g with cancelled := true, atBoundary := false }
  else if g.descs.any fun d => d.req == r.id then
    { g with
      finished := g.finished ++ [(r.id, [], (openBlocks r.id g).flatMap (blockCov r stCancelled))]
      descs := g.descs.filter fun d => d.req != r.id }
  else g

/-- One request in flight ends. -/
def cancelReq (s : State) (r : Req) : State :=
  let s := countEvent cCancelled unitNode s
  match r.phase with
  | .taken | .answered => s
  | .checked | .lookups => endUndispatched r stCancelled s
  | .dispatched => { setReq { r with cancelled := true } s with gravers := mapStore {} (cancelOn r) s.gravers }

/-- The checks of this stroke come before a CANCEL of the same stroke (R148): those that are due of requests with its TAG. -/
def checkBefore (tenant tag : Nat) (s : State) : State :=
  (s.sch.reqs.filter fun r => r.tenant == tenant && r.tag == tag && r.phase == .taken).foldl
    (fun s r => execAttnCheckStrokeState r.id none s) s

/-- Every request of a tenant in flight with a TAG ends; the number that ended. -/
def cancelTag (tenant tag : Nat) (s : State) : Nat × State :=
  let s := checkBefore tenant tag s
  let hit := s.sch.reqs.filter fun r => r.tenant == tenant && r.tag == tag && inFlight r && !r.cancelled
  if hit.isEmpty then (0, countEvent cCancelMiss unitNode s) else (hit.length, hit.foldl cancelReq s)

/-- CANCEL: the connection's first waiting CANCEL is admitted in the first stroke after its receipt. -/
def execCancelState (c : Nat) (s : State) : State :=
  match if heldPart (connRec c s).part s then none else inboxFind c tCancel false s with
  | none => s
  | some m =>
    if strokeCount s ≤ m.doneAt then s
    else
      let s := returnCredit c m.cls m.body.length (inboxTake m s)
      if m.body.length ≠ 16 ∨ !zeroes (m.body.drop 8) then countEvent cCancelMiss (unitConn c) s
      else (cancelTag (connRec c s).tenant (u m.body 0 8) s).2

/-- HOST_CANCEL. -/
def execHostCancelState (f : Nat) (s : State) : State :=
  runCmd f 0 2 [(0x00, 64)] s.pwr.hold (fun _ _ => none) (fun c s =>
    let r := cancelTag c.tenant (c.arg 0 8) s
    endCmd c stOk 0 r.1 r.2) s

/-! ### APPEND and COMMIT (R138 to R144) -/

/-- A message's KV rows hold an invalid encoding (R49). -/
def rowsBad (h : WriteHdr) (b : List Byte) (s : State) : Bool :=
  let g := ctxGeo h.ctx s
  g.isOpen && h.hasRows && (tokenRecs g h.nrows b).any (tokenRecBad g)

/-- R45. -/
def spanBad (h : WriteHdr) (s : State) : Bool :=
  h.t0 < ctxLen h.ctx s || stagedMark h.ctx h.layer h.group s < h.t0 || maxTokens < h.t0 + h.nrows

/-- The length the fields imply (R116, R139, R141). -/
def writeLength (h : WriteHdr) (s : State) : Nat :=
  32 + if h.hasRows then h.nrows * tokenRecBytes (ctxGeo h.ctx s) else 0

/-- The status of the checks that APPEND and COMMIT share, up to R45; ST_OK when they pass. Of several conditions R17
reports one (00_scope.md). -/
def writeStatus (part tenant : Nat) (h : WriteHdr) (b : List Byte) (s : State) : Nat :=
  combine <|
    codeIf (b.length < 32 || h.reserved || namesFail tenant h.ctx h.layer h.group s || b.length != writeLength h s ||
      65536 < b.length || rowsBad h b s || (h.hasRows && spanBad h s)) stMalformed ++
    codeIf (s.pwr.hold || scrubPending part tenant s) stFenced ++
    codeIf (s.res.ctxUe.contains h.ctx) stUncorrectable

/-- NEW_L passes (R142, R143): from L to 16,777,216, and at most the S of every appending layer and KV group, with the S
that the COMMIT's own rows would give. -/
def newLBad (h : WriteHdr) (s : State) : Bool :=
  let own := stagedKey h.ctx h.layer h.group
  let mark := fun (x : Nat × Nat) => if h.hasRows && x.1 == own then max x.2 (h.t0 + h.nrows) else x.2
  let all := s.res.staged.filter fun x => x.1 / 2 ^ 17 == h.ctx
  let added := if h.hasRows && stagedMark h.ctx h.layer h.group s == 0 then [h.t0 + h.nrows] else []
  h.newL < ctxLen h.ctx s || maxTokens < h.newL || (all.any fun x => mark x < h.newL) || added.any (· < h.newL)

/-- L becomes NEW_L in this stroke; requests admitted in it still read the L before it. -/
def setLen (ctx newL : Nat) (s : State) : State :=
  let b := look (0, 0) s.res.lensBefore ctx
  { s with
    res.lensBefore := if b.1 = strokeCount s + 1 then s.res.lensBefore
      else put (0, 0) s.res.lensBefore ctx (strokeCount s + 1, ctxLen ctx s)
    res.lens := put 0 s.res.lens ctx newL }

/-- What an APPEND or a COMMIT comes to. -/
def applyWrite (bestEffort : Bool) (part tenant : Nat) (h : WriteHdr) (commit : Bool) (b : List Byte) (s : State) :
    Option Nat × State :=
  let st := combine (writeStatus part tenant h b s :: codeIf (commit && newLBad h s) stMalformed)
  if st ≠ stOk then (some st, s)
  else
    let done := fun (s : State) => if commit then setLen h.ctx h.newL s else s
    if h.hasRows then
      match storeRows bestEffort ⟨h.ctx, h.layer, h.group, h.t0, tokenRecs (ctxGeo h.ctx s) h.nrows b⟩ s with
      | .stored s => (some stOk, done s)
      | .refused create => (some stPageAbsent, refusedWrite create s)
      | .waits s => (none, s)
    else (some stOk, done s)

/-- An APPEND or COMMIT is admitted: its credit returns, it is applied or refused, and its completion is sent. Until its
issue cycles and links are there, it waits. -/
def admitWrite (commit : Bool) (m : InMsg) (ue : Option Nat) (s : State) : State :=
  let h := if commit then commitHdr m.body else appendHdr m.body
  let s := strikeCtx h.ctx ue s
  match applyWrite (writeTurn m s == .bestEffort) (connRec m.conn s).part (connRec m.conn s).tenant h commit m.body s with
  | (none, s) => s
  | (some st, t) =>
    let t := takeWrite m t
    let t := if rowsBad h m.body s then countEvent cIngestReject (unitConn m.conn) t else t
    let t := if st = stOk then t else countEvent cCommitRefused (unitConn m.conn) t
    sendCompletion m.conn m.typ h.tag st 0 t

def execAppendState (c : Nat) (ue : Option Nat) (s : State) : State :=
  match nextWrite c tAppend s with
  | some m => admitWrite false m ue s
  | none => s

def execCommitState (c : Nat) (ue : Option Nat) (s : State) : State :=
  match nextWrite c tCommit s with
  | some m => admitWrite true m ue s
  | none => s

/-! ### The commands -/

def execAttn (c : Nat) (s : State) : Host.Outcome State Fault Refusal := .next (execAttnState c s)
def execAttnCheckStroke (id : Nat) (ue : Option Nat) (s : State) : Host.Outcome State Fault Refusal :=
  .next (execAttnCheckStrokeState id ue s)
def execAdmissionStroke (id : Nat) (ue : Option Nat) (s : State) : Host.Outcome State Fault Refusal :=
  .next (execAdmissionStrokeState id ue s)
def execAdmissionLookup (id : Nat) (u : DirUpset) (s : State) : Host.Outcome State Fault Refusal :=
  .next (execAdmissionLookupState id u s)
def execWorkDispatch (id : Nat) (ue : List Nat) (s : State) : Host.Outcome State Fault Refusal :=
  .next (execWorkDispatchState id ue s)
def execAttnTokenTaken (f : Nat) (s : State) : Host.Outcome State Fault Refusal := .next (execAttnTokenTakenState f s)
def execAppend (c : Nat) (ue : Option Nat) (s : State) : Host.Outcome State Fault Refusal :=
  .next (execAppendState c ue s)
def execCommit (c : Nat) (ue : Option Nat) (s : State) : Host.Outcome State Fault Refusal :=
  .next (execCommitState c ue s)
def execCancel (c : Nat) (s : State) : Host.Outcome State Fault Refusal := .next (execCancelState c s)
def execHostAttn (f : Nat) (s : State) : Host.Outcome State Fault Refusal := .next (execHostAttnState f s)
def execHostCancel (f : Nat) (s : State) : Host.Outcome State Fault Refusal := .next (execHostCancelState f s)

end Sys2Proof.Machine
end

