-- ==== Sys2Proof/Machine/Collator.lean ====
section
/-! DEFINITION. The collator's commands (06_impressions_and_collation.md R167 to R173): merging sources, child IMPRs, close
strokes, the end of a parent's grace, and orphans. -/

namespace Sys2Proof.Machine

/-! ### Merging one source -/

/-- A residue mismatch (R169, R424): the failed merge result is discarded; no rows, ST_FENCED; a second within 62,500 passes
fences the collator. -/
def residueFails (r : Req) (s : State) : State :=
  let a := r.hdr
  let again : Bool := match s.flt.lastResidue with | some p => passNow s < p + secPasses | none => false
  let s := handOver r (refusalImpr a.tag stFenced a.ctx a.layer a.group a.headPos (isFinal r s)) s
  let s := raise fResidue unitCollator [] (tally cResidueFail { s with flt.lastResidue := some (passNow s) })
  if again then enterHold 5 (tally ctrFences { s with flt.fencedCollator := true }) else s

/-- COLLATOR_MERGE: the first source that waits for request `id` is merged. -/
def execCollatorMergeState (id : Nat) (residueFault : Bool) (ueRows : List Nat) (s : State) : State :=
  match reqFind id s, entryFind id s with
  | some r, some e =>
    match e.arrivals with
    | [] => s
    | a :: rest =>
      if residueFault then residueFails r s
      else
        let bad := once (ueRows.filter fun x => x < r.hdr.rows)
        let s := bad.foldl (fun s x => countUe (ueCollator (id * 64 + x)) fUeData unitCollator (leBytes 4 x) s) s
        -- an error that enters hold mode has ended the request
        if (entryFind id s).isNone then s
        else
          let j := joinArrival r { e with arrivals := rest } a bad s
          let s := setEntry j.1 j.2
          if bestEffortDone r j.1 s then closeEntry r j.1 s else s
  | _, _ => s

/-! ### Children (R170 to R173) -/

/-- Some tree line of the connection's partition gives it a child position. -/
def isChild (c : Nat) (s : State) : Bool :=
  (plate s).trees.any fun t => t.part == (connRec c s).part && (positionIn t c).isSome

/-- A child's IMPR as a source, at a position. -/
def childArrival (c pos : Nat) (body : List Byte) (grace : Bool) : Arrival :=
  match readImpr body with
  | some i =>
    { source := 16 + pos, conn := c, frags := i.frags, cov := i.cov, status := i.status, slip := i.slip
      collapsed := i.collapsed, candIn := i.candIn, sources := i.sources, admitAt := i.admitAt, canon := i.canon, len := i.len
      headDim := i.headDim, nrows := i.nrows, inGrace := grace }
  | none =>
    { source := 16 + pos, conn := c, frags := [], cov := [], status := stOk, slip := false, collapsed := false
      candIn := false, sources := 0, admitAt := 0, malformed := true, inGrace := grace }

/-- CHILD_IMPR: the first IMPR that waits on a connection is accepted for its position, or dropped (R173). The request's tree
line gives the connection its position; until the request is admitted, the arrival waits without one
(notes/assumptions/15.md). -/
def execChildImprState (c : Nat) (s : State) : State :=
  match inboxFind c tImpr false s with
  | none => s
  | some m =>
    let s := returnCredit c m.cls m.body.length (inboxTake m s)
    let tenant := (connRec c s).tenant
    let tag := u m.body 0 8
    let e := s.sch.entries.find? fun e => e.tenant == tenant && e.tag == tag
    let orphan := countEvent cOrphan (unitConn c) s
    let repeated := countEvent cDupDropped (unitConn c) s
    match e, (e.bind (·.req)).bind fun id => reqFind id s with
    | some e, some r =>
      match (treeOf r s).bind fun t => positionIn t c with
      | none => orphan
      | some pos =>
        if e.accepted.contains pos then repeated
        else setEntry { e with accepted := e.accepted ++ [pos]
                               arrivals := e.arrivals ++ [childArrival c pos m.body e.closedAt.isSome] } s
    | some e, none =>
      if !isChild c s then orphan
      else if e.arrivals.any fun a => a.conn == c then repeated
      else setEntry { e with arrivals := e.arrivals ++ [childArrival c 0 m.body false] } s
    | none, _ =>
      if !isChild c s || s.sch.closed.any fun x => x.1 == tenant && x.2.1 == tag && passNow s < x.2.2 + 64 then orphan
      else { s with sch.entries := s.sch.entries ++
        [{ tenant, tag, arrivals := [childArrival c 0 m.body false], openedPass := passNow s }] }

/-- ORPHAN (R171): an entry that a child opened, whose own ATTN was not admitted within 64 passes. -/
def execOrphanState (tenant tag : Nat) (s : State) : State :=
  let mine := fun e : ColEntry => e.req == none && e.tenant == tenant && e.tag == tag && e.openedPass + 64 ≤ passNow s
  if s.sch.entries.any mine then
    countEvent cOrphan unitCollator { s with sch.entries := s.sch.entries.filter fun e => !mine e }
  else s

/-! ### Closing (R168, R171; 09_strokes_and_passes.md R254) -/

/-- Some graver still to deliver runs late, and thermal protection was active on its island while it did: the delay is
sanctioned (R254). -/
def sanctioned (e : ColEntry) (s : State) : Bool :=
  e.dealt.any fun d =>
    let gv := graver d.graver s
    gv.delayed && (gv.heated || thermalActive (d.graver / 16) s)

/-- The close of an entry at its close stroke: at once, or for its local sources only while its children have grace. -/
def closeStroke (r : Req) (e : ColEntry) (s : State) : State :=
  let grace := ((treeOf r s).map (·.grace)).getD 0
  if !(missingChildren r e s).isEmpty && 0 < grace then
    let j := joinAll r e s
    let c := cutLocal r j.1 j.2
    setEntry { c.1 with closedAt := some (strokeCount s), closeMoved := none } c.2
  else closeNow r e s

/-- CLOSE_LINE: the close stroke of the occurrence admitted CLOSE strokes earlier. -/
def execCloseLineState (isl idx : Nat) (s : State) : State :=
  match if isl = islCollator then dueLine isl idx opClose s else none with
  | none => s
  | some l =>
    let s := markApplied isl idx s
    let hits := s.sch.reqs.filter (servesReq (idx / carriedLine) l.slot Line.closeAfter s)
    hits.foldl (fun s r =>
      match r.phase with
      | .taken | .answered => s
      | .checked | .lookups => endUndispatched r stPageAbsent s
      | .dispatched =>
        match entryFind r.id s with
        | none => s
        | some e =>
          if sanctioned e s then setEntry { e with closeMoved := some (strokeCount s) } s else closeStroke r e s) s

/-- COLLATOR_ENTRY_CLOSE (R171, R254): the grace of an entry has passed, or its moved close stroke has come: every local
source is in, or 64 strokes have gone by. -/
def execCollatorEntryCloseState (tenant tag : Nat) (s : State) : State :=
  match s.sch.entries.find? fun e => e.tenant == tenant && e.tag == tag && (e.closedAt.isSome || e.closeMoved.isSome) with
  | none => s
  | some e =>
    match e.req.bind fun id => reqFind id s with
    | none => s
    | some r =>
      let grace := ((treeOf r s).map (·.grace)).getD 0
      match e.closedAt, e.closeMoved with
      | some c, _ => if c + grace ≤ strokeCount s then closeNow r e s else s
      | none, some p => if e.dealt.isEmpty || p + 64 ≤ strokeCount s then closeStroke r e s else s
      | none, none => s

/-! ### The commands -/

def execCollatorMerge (id : Nat) (residueFault : Bool) (ueRows : List Nat) (s : State) : Host.Outcome State Fault Refusal :=
  .next (execCollatorMergeState id residueFault ueRows s)
def execChildImpr (c : Nat) (s : State) : Host.Outcome State Fault Refusal := .next (execChildImprState c s)
def execOrphan (tenant tag : Nat) (s : State) : Host.Outcome State Fault Refusal := .next (execOrphanState tenant tag s)
def execCloseLine (isl idx : Nat) (s : State) : Host.Outcome State Fault Refusal := .next (execCloseLineState isl idx s)
def execCollatorEntryClose (tenant tag : Nat) (s : State) : Host.Outcome State Fault Refusal :=
  .next (execCollatorEntryCloseState tenant tag s)

end Sys2Proof.Machine
end

