-- ==== Sys2Proof/Machine/Sha.lean ====
section
/-! DEFINITION. SHA-384, HMAC-SHA-384, the key-derivation function of 14_trust_and_isolation.md R362 and CRC-32C. The manual
names these functions and leaves their definition to their own standards (notes/assumptions/31.md). -/

namespace Sys2Proof.Machine

abbrev W64 := BitVec 64

/-! ### SHA-384 -/

def shaK : List W64 :=
  [0x428a2f98d728ae22, 0x7137449123ef65cd, 0xb5c0fbcfec4d3b2f, 0xe9b5dba58189dbbc,
   0x3956c25bf348b538, 0x59f111f1b605d019, 0x923f82a4af194f9b, 0xab1c5ed5da6d8118,
   0xd807aa98a3030242, 0x12835b0145706fbe, 0x243185be4ee4b28c, 0x550c7dc3d5ffb4e2,
   0x72be5d74f27b896f, 0x80deb1fe3b1696b1, 0x9bdc06a725c71235, 0xc19bf174cf692694,
   0xe49b69c19ef14ad2, 0xefbe4786384f25e3, 0x0fc19dc68b8cd5b5, 0x240ca1cc77ac9c65] ++
  [0x2de92c6f592b0275, 0x4a7484aa6ea6e483, 0x5cb0a9dcbd41fbd4, 0x76f988da831153b5,
   0x983e5152ee66dfab, 0xa831c66d2db43210, 0xb00327c898fb213f, 0xbf597fc7beef0ee4,
   0xc6e00bf33da88fc2, 0xd5a79147930aa725, 0x06ca6351e003826f, 0x142929670a0e6e70,
   0x27b70a8546d22ffc, 0x2e1b21385c26c926, 0x4d2c6dfc5ac42aed, 0x53380d139d95b3df,
   0x650a73548baf63de, 0x766a0abb3c77b2a8, 0x81c2c92e47edaee6, 0x92722c851482353b] ++
  [0xa2bfe8a14cf10364, 0xa81a664bbc423001, 0xc24b8b70d0f89791, 0xc76c51a30654be30,
   0xd192e819d6ef5218, 0xd69906245565a910, 0xf40e35855771202a, 0x106aa07032bbd1b8,
   0x19a4c116b8d2d0c8, 0x1e376c085141ab53, 0x2748774cdf8eeb99, 0x34b0bcb5e19b48a8,
   0x391c0cb3c5c95a63, 0x4ed8aa4ae3418acb, 0x5b9cca4f7763e373, 0x682e6ff3d6b2b8a3,
   0x748f82ee5defb2fc, 0x78a5636f43172f60, 0x84c87814a1f0ab72, 0x8cc702081a6439ec] ++
  [0x90befffa23631e28, 0xa4506cebde82bde9, 0xbef9a3f7b2c67915, 0xc67178f2e372532b,
   0xca273eceea26619c, 0xd186b8c721c0c207, 0xeada7dd6cde0eb1e, 0xf57d4f7fee6ed178,
   0x06f067aa72176fba, 0x0a637dc5a2c898a6, 0x113f9804bef90dae, 0x1b710b35131c471b,
   0x28db77f523047d84, 0x32caab7b40c72493, 0x3c9ebe0a15c9bebc, 0x431d67c49c100d4c,
   0x4cc5d4becb3e42b6, 0x597f299cfc657e2a, 0x5fcb6fab3ad6faec, 0x6c44198c4a475817]

def shaInit : List W64 :=
  [0xcbbb9d5dc1059ed8, 0x629a292a367cd507, 0x9159015a3070dd17, 0x152fecd8f70e5939,
   0x67332667ffc00b31, 0x8eb44a8768581511, 0xdb0c2e0d64f98fa7, 0x47b5481dbefa4fa4]

/-- The 8-byte value of bytes, most significant first. -/
def beNat : List Byte → Nat := fun l => l.foldl (fun a b => a * 256 + b.toNat) 0

/-- The `n` low bytes of `v`, most significant first. -/
def beBytes (n v : Nat) : List Byte := (leBytes n v).reverse

/-- The message with its padding: 0x80, zeros, and the bit length in 16 bytes. -/
def shaPad (m : List Byte) : List Byte :=
  m ++ [0x80] ++ List.replicate ((239 - m.length % 128) % 128) 0 ++ beBytes 16 (8 * m.length)

/-- The pieces of `n` bytes each of a string, at most `k` of them. -/
def pieces (n : Nat) : Nat → List Byte → List (List Byte)
  | 0, _ => []
  | k + 1, bs => bs.take n :: pieces n k (bs.drop n)

def ror (x : W64) (n : Nat) : W64 := x.rotateRight n

/-- The next word of a message schedule, whose words stand latest first. -/
def shaNext (w : List W64) : W64 :=
  let a := w.getD 1 0
  let b := w.getD 14 0
  (ror a 19 ^^^ ror a 61 ^^^ (a >>> 6)) + w.getD 6 0 + (ror b 1 ^^^ ror b 8 ^^^ (b >>> 7)) + w.getD 15 0

def shaSched : Nat → List W64 → List W64
  | 0, w => w
  | n + 1, w => shaSched n (shaNext w :: w)

/-- The working variables a to h. -/
structure ShaVars where
  a : W64
  b : W64
  c : W64
  d : W64
  e : W64
  f : W64
  g : W64
  h : W64
  deriving DecidableEq, Repr

def shaRound (v : ShaVars) (kw : W64 × W64) : ShaVars :=
  let t1 := v.h + (ror v.e 14 ^^^ ror v.e 18 ^^^ ror v.e 41) + ((v.e &&& v.f) ^^^ (~~~v.e &&& v.g)) + kw.1 + kw.2
  let t2 := (ror v.a 28 ^^^ ror v.a 34 ^^^ ror v.a 39) + ((v.a &&& v.b) ^^^ (v.a &&& v.c) ^^^ (v.b &&& v.c))
  ⟨t1 + t2, v.a, v.b, v.c, v.d + t1, v.e, v.f, v.g⟩

def shaVars (h : List W64) : ShaVars :=
  ⟨h.getD 0 0, h.getD 1 0, h.getD 2 0, h.getD 3 0, h.getD 4 0, h.getD 5 0, h.getD 6 0, h.getD 7 0⟩

/-- One block of 128 bytes. -/
def shaBlock (h : List W64) (blk : List Byte) : List W64 :=
  let w0 := (pieces 8 16 blk).map fun x => BitVec.ofNat 64 (beNat x)
  let w := (shaSched 64 w0.reverse).reverse
  let v := (shaK.zip w).foldl shaRound (shaVars h)
  List.zipWith (· + ·) h [v.a, v.b, v.c, v.d, v.e, v.f, v.g, v.h]

def sha384 (m : List Byte) : List Byte :=
  let p := shaPad m
  let h := (pieces 128 (p.length / 128) p).foldl shaBlock shaInit
  (h.take 6).flatMap fun x => beBytes 8 x.toNat

/-- A digest as the number whose bytes it holds in order (08_plates.md R238). -/
def digestOf (m : List Byte) : BitVec 384 := BitVec.ofNat 384 (leNat (sha384 m))

/-! ### HMAC and the KDF (R362) -/

def hmac (key m : List Byte) : List Byte :=
  let k := padTo 128 (if 128 < key.length then sha384 key else key)
  sha384 (k.map (· ^^^ 0x5c) ++ sha384 (k.map (· ^^^ 0x36) ++ m))

/-- The bytes of a label. -/
def ascii (t : String) : List Byte := t.toList.map fun c => BitVec.ofNat 8 c.toNat

def kdf (ki : List Byte) (label : String) (context : List Byte) (bits : Nat) : List Byte :=
  ((List.range (ceilDiv bits 384)).flatMap fun i =>
    hmac ki (leBytes 4 (i + 1) ++ ascii label ++ [0] ++ context ++ leBytes 4 bits)).take (bits / 8)

/-! ### CRC-32C -/

def crcByte (c : BitVec 32) (b : Byte) : BitVec 32 :=
  (List.range 8).foldl (fun c _ => if c.getLsbD 0 then (c >>> 1) ^^^ 0x82F63B78 else c >>> 1) (c ^^^ b.setWidth 32)

def crc32c (m : List Byte) : Nat := (~~~(m.foldl crcByte 0xFFFFFFFF)).toNat

end Sys2Proof.Machine
end

