-- ==== Sys2Proof/Machine/Curve.lean ====
section
/-! DEFINITION. The curve engine's arithmetic (14_trust_and_isolation.md R362, R364, R367): P-384, its point strings, the checks
of a point and a scalar, and the deterministic signature. The manual names P-384, SEC 1 and RFC 6979 and leaves their
definition to those standards (notes/assumptions/31.md). -/

namespace Sys2Proof.Machine

/-! ### The curve -/

abbrev p384 : Nat := 2 ^ 384 - 2 ^ 128 - 2 ^ 96 + 2 ^ 32 - 1
abbrev n384 : Nat :=
  0xffffffffffffffffffffffffffffffffffffffffffffffffc7634d81f4372ddf581a0db248b0a77aecec196accc52973
abbrev b384 : Nat :=
  0xb3312fa7e23ee7e4988e056be3f82d19181d9c6efe8141120314088f5013875ac656398d8a2ed19d2a85c8edd3ec2aef
abbrev gx384 : Nat :=
  0xaa87ca22be8b05378eb1c71ef320ad746e1d3b628ba79b9859f741e082542a385502f25dbf55296c3a545e3872760ab7
abbrev gy384 : Nat :=
  0x3617de4a96262c6f5d9e98bf9292dc29f8f41dbd289a147ce9da3113b5f0b8c00a60b1ce1d7e819d7a431d7c90ea0e5f

/-- `a ^ e mod m`, over the `k` low bits of `e`. -/
def powMod (m : Nat) : Nat → Nat → Nat → Nat
  | 0, _, _ => 1 % m
  | k + 1, a, e => (if e % 2 = 1 then a else 1) * powMod m k (a * a % m) (e / 2) % m

/-- The inverse modulo a prime of at most 384 bits. -/
def invMod (m a : Nat) : Nat := powMod m 384 (a % m) (m - 2)

def subMod (m a b : Nat) : Nat := (a + m - b % m) % m

/-- A point in Jacobian coordinates (X, Y, Z); Z = 0 is the point at infinity. -/
structure Jac where
  x : Nat
  y : Nat
  z : Nat
  deriving DecidableEq, Repr

def Jac.zero : Jac := ⟨1, 1, 0⟩

def Jac.double (p : Jac) : Jac :=
  let m := p384
  let d := p.z * p.z % m
  let g := p.y * p.y % m
  let b := p.x * g % m
  let a := 3 * (subMod m p.x d * ((p.x + d) % m)) % m
  let x := subMod m (a * a) (8 * b)
  let y := subMod m (a * subMod m (4 * b) x) (8 * (g * g))
  ⟨x, y, 2 * p.y * p.z % m⟩

def Jac.add (p q : Jac) : Jac :=
  let m := p384
  if p.z = 0 then q
  else if q.z = 0 then p
  else
    let zp := p.z * p.z % m
    let zq := q.z * q.z % m
    let up := p.x * zq % m
    let uq := q.x * zp % m
    let sp := p.y * zq * q.z % m
    let sq := q.y * zp * p.z % m
    if up = uq then (if sp = sq then p.double else Jac.zero)
    else
      let h := subMod m uq up
      let r := subMod m sq sp
      let hh := h * h % m
      let v := up * hh % m
      let x := subMod m (r * r) (h * hh + 2 * v)
      ⟨x, subMod m (r * subMod m v x) (sp * (h * hh)), p.z * q.z * h % m⟩

/-- The multiple of a point by the `k` low bits of a scalar. -/
def Jac.mul : Nat → Nat → Jac → Jac
  | 0, _, _ => Jac.zero
  | k + 1, e, p => (if e % 2 = 1 then p else Jac.zero).add (Jac.mul k (e / 2) p.double)

/-- The affine coordinates. -/
def Jac.affine (p : Jac) : Nat × Nat :=
  let i := invMod p384 p.z
  (p.x * i * i % p384, p.y * i * i * i % p384)

/-- d * (X, Y), with d below 2^384. -/
def curveMul (d : Nat) (q : Nat × Nat) : Nat × Nat := (Jac.mul 384 d ⟨q.1, q.2, 1⟩).affine

/-! ### Strings and checks (R362, R367) -/

/-- A point as SEC 1 encodes it. -/
def pointBytes (q : Nat × Nat) : List Byte := 4 :: (beBytes 48 q.1 ++ beBytes 48 q.2)

/-- X and Y of a point string. -/
def pointOf (bs : List Byte) : Nat × Nat := (beNat (sub bs 1 48), beNat (sub bs 49 48))

/-- The engine rejects a point. -/
def pointBad (bs : List Byte) : Bool :=
  let q := pointOf bs
  bs.getD 0 0 != 4 || p384 ≤ q.1 || p384 ≤ q.2 || (q.1 == 0 && q.2 == 0) ||
    q.2 * q.2 % p384 != (subMod p384 (q.1 * q.1 * q.1) (3 * q.1) + b384) % p384

/-- The engine rejects a scalar. -/
def scalarBad (d : Nat) : Bool := d == 0 || n384 ≤ d

/-- d * G as a string. -/
def publicPoint (d : Nat) : List Byte := pointBytes (curveMul d (gx384, gy384))

/-! ### The signature (R364: RFC 6979) -/

/-- The first 384 bits of a digest as a number. -/
def hashNat (h : List Byte) : Nat := beNat (h.take 48)

/-- The pair (r, s) of a signature with a given nonce, unless one of them is zero. -/
def signWith (d z k : Nat) : Option (Nat × Nat) :=
  let r := (curveMul k (gx384, gy384)).1 % n384
  let t := invMod n384 k * ((z + r * d) % n384) % n384
  if r = 0 ∨ t = 0 then none else some (r, t)

/-- Nonces in turn, until one gives a signature. -/
def signGo (d z : Nat) : Nat → List Byte → List Byte → Nat × Nat
  | 0, _, _ => (0, 0)
  | n + 1, key, v =>
    let v := hmac key v
    let k := beNat v
    match if scalarBad k then none else signWith d z k with
    | some x => x
    | none =>
      let key := hmac key (v ++ [0])
      signGo d z n key (hmac key v)

/-- The ECDSA P-384 signature of a message with SHA-384, r || s. -/
def ecdsaSign (d : Nat) (m : List Byte) : List Byte :=
  let h := sha384 m
  let seed := beBytes 48 d ++ beBytes 48 (hashNat h % n384)
  let v := List.replicate 48 (1 : Byte)
  let k := hmac (List.replicate 48 0) (v ++ [0] ++ seed)
  let v := hmac k v
  let k := hmac k (v ++ [1] ++ seed)
  let v := hmac k v
  let rs := signGo d (hashNat h) 64 k v
  beBytes 48 rs.1 ++ beBytes 48 rs.2

end Sys2Proof.Machine
end

