-- ==== Sys2Proof/Machine/Lines.lean ====
section
/-! DEFINITION. The lines of the graver, hub-core and time-base islands (09_strokes_and_passes.md R244 to R246): windows, sheet
banks, refresh and extra refresh, retraining, directory cycles, stack links, maintenance and telemetry samples. -/

namespace Sys2Proof.Machine

/-! ### WINDOW (R245; 07_residency_and_tiers.md R187) -/

/-- The tile of a page of a request does not stand by the present stroke: the tile at its place was freed, or has come to
hold another page (01_node_overview.md R21). -/
def tileLate (r : Req) (p : WorkPage) (s : State) : Bool :=
  let name : PageName := ⟨r.hdr.ctx, r.hdr.layer, r.hdr.group, p.page⟩
  p.tile && !(s.res.tiles.any fun t =>
    t.1 == p.home && t.2.stands && t.2.page == name && t.2.part == r.part && t.2.stoodAt < strokeCount s)

/-- A graver's descriptor for a request loses the pages that `bad` names; the coverage reports them with a status. -/
def dropPages (bad : WorkPage → Bool) (status : Nat) (r : Req) (g : Nat) (s : State) : State :=
  let gv := graver g s
  let mine := fun d : Desc => d.req == r.id
  let gone := ((gv.descs.filter mine).flatMap fun d => d.blocks.flatMap fun b => b.pages.filter bad)
  if gone.isEmpty then s
  else
    let trim := fun d : Desc =>
      let bs := d.blocks.map fun b => { b with pages := b.pages.filter fun p => !bad p }
      { d with blocks := bs.filter fun b => b.cand || !b.pages.isEmpty }
    let descs := (replaceWhere mine trim gv.descs).filter fun d => !d.blocks.isEmpty
    let cov := gone.flatMap fun p => covTokens (p.page * 128 + p.row) p.count status (allRows r.hdr.rows)
    let lost := fun d : Dealt => d.graver == g && gone.any fun p => d.base ≤ p.page * 128 + p.row && p.page * 128 + p.row < d.base + d.count
    -- what the graver is still to deliver is what its descriptor still names
    let left := (descs.filter mine).flatMap fun d => d.blocks.flatMap fun b => b.pages
    let s := setGraver g { gv with descs := descs } s
    let s := match reqFind r.id s with
      | some r => setReq { r with cov := r.cov ++ cov } s
      | none => s
    match entryFind r.id s with
    | some e =>
      let keep := e.dealt.filter fun d => !lost d
      let again := if e.dealt.any lost then left.map fun p => (⟨g, false, p.page * 128 + p.row, p.count⟩ : Dealt) else []
      setEntry { e with dealt := (keep.filter fun d => d.graver != g || d.cand) ++
        (if e.dealt.any lost then again else keep.filter fun d => d.graver == g && !d.cand) } s
    | none => s

/-- At its window's first stroke a request loses the pages whose tiles are late; each is absent and counted (R187). -/
def dropLate (r : Req) (g : Nat) (s : State) : State :=
  let late := (((graver g s).descs.filter fun d => d.req == r.id).flatMap fun d =>
    d.blocks.flatMap fun b => b.pages.filter fun p => tileLate r p s)
  let out := dropPages (fun p => tileLate r p s) stPageAbsent r g s
  late.foldl (fun s _ => countEvent cStageLate (unitStack (g / 16)) s) out

/-- The window of a graver opens for a request: it starts at once when idle, and otherwise when its open work ends. -/
def openWindow (id : Nat) (l : Line) (s : State) (g : Nat) : State :=
  let gv := graver g s
  if !(gv.descs.any fun d => d.req == id) || gv.st = .fenced || gv.st = .gated then s
  else
    let w := strokeCount s
    let len := l.lenM1 + 1
    if gv.current.isNone then
      setGraver g (openNext s (renew s { gv with
        current := some id, st := .working, delayed := false, heated := false
        windowEnd := some (w + len), chainEnd := some (w + len + l.chain) })) s
    else
      let mark := fun d : Desc => { d with opened := true, windowLen := some len, chainLen := some l.chain }
      setGraver g { gv with descs := replaceWhere (fun d => d.req == id) mark gv.descs } s

/-- The request that a window of a slot serves: admitted OPEN strokes before it, under the plate whose line the window is
(R245; 08_plates.md R236). -/
def windowReq (k slot : Nat) (s : State) : Option Req :=
  s.sch.reqs.find? fun r => (r.phase == .dispatched || r.phase == .answered) && servesReq k slot Line.openAfter s r

def execWindowLineState (isl idx : Nat) (s : State) : State :=
  match if isl < 6 then dueLine isl idx opWindow s else none with
  | none => s
  | some l =>
    let s := markApplied isl idx s
    match windowReq (idx / carriedLine) l.slot s with
    | none => s
    | some r =>
      let gs := ((List.range 16).filter fun e => bit l.gmask e).map (16 * isl + ·)
      let s := gs.foldl (fun s g => dropLate r g s) s
      gs.foldl (openWindow r.id l) s

/-! ### BANKS (04_graver_engines.md R89) -/

/-- A bank moves to off, retention or on; from off it is on two strokes later, from retention at the next boundary. A bank
that goes off loses its contents. -/
def moveBank (state : Nat) (s : State) (gv : Graver) (b : Nat) : Graver :=
  let now := look 0 gv.banks b
  let waking := gv.waking.filter fun x => x.1 != b
  if state = 2 then
    if now = 2 then gv
    else if gv.waking.any fun x => x.1 == b then gv
    else { gv with waking := gv.waking ++ [(b, s.time.elapsed + if now = 1 then 1 else 2)] }
  else if state = 0 then dropBank b gv
  else { gv with banks := put 0 gv.banks b state, waking := waking }

def execBanksLineState (isl idx : Nat) (s : State) : State :=
  match if isl < 6 then dueLine isl idx opBanks s else none with
  | none => s
  | some l =>
    let state := field l.arg0 16 2
    let gs := ((List.range 16).filter fun e => bit l.arg0 e).map (16 * isl + ·)
    let banks := (List.range 32).filter fun b => bit l.arg1 b
    gs.foldl (fun s g =>
      let gv := graver g s
      if gv.st = .fenced || gv.st = .gated then s else setGraver g (banks.foldl (moveBank state s) gv) s)
      (markApplied isl idx s)

/-! ### Refresh (R84, R246; 15_start_power_cooling.md R401) -/

def bandRank : Band → Nat
  | .normal => 0 | .double => 1 | .throttle => 2 | .critical => 3 | .shutdown => 4

def stackHeat (st : Nat) (s : State) : StackThermal := look {} s.pwr.stacks8 st
/-- Where the thermal demand goes: 2 up, 1 down, 0 nowhere (15 R402). -/
def heatDir (h : StackThermal) : Nat :=
  if 2 ≤ bandRank h.band || decide (100 < h.junction) then 2
  else if decide (h.temp ≤ 93) && decide (h.junction ≤ 98) then 1
  else 0

def setHeat (st : Nat) (v : StackThermal) (s : State) : State :=
  let v := if heatDir v = heatDir (stackHeat st s) then v else { v with demandAt := s.time.elapsed }
  { s with pwr.stacks8 := put {} s.pwr.stacks8 st v }

/-- A stack enters a band: the entry is counted, and the critical band enters hold mode (15 R401). -/
def enterBand (st : Nat) (b : Band) (s : State) : State :=
  let s := setHeat st { stackHeat st s with band := b, next := none } s
  match b with
  | .normal => s
  | .double => countEvent cDoubleEntry (unitStack st) s
  | .throttle => countEvent cThrottleEntry (unitStack st) s
  | .critical | .shutdown => raise fThermalCritical (unitStack st) [] s

/-- A stack is in the throttle band or above. -/
def hot (st : Nat) (s : State) : Bool := 2 ≤ bandRank (stackHeat st s).band

/-- Units of 64 KiB in a stack. -/
abbrev patrolUnits : Nat := 1048576

/-- A word of a vault stack's plate stores with an uncorrectable error is repaired from the other copy (08_plates.md R226;
notes/assumptions/121.md). -/
def repairPlate (st : Nat) (s : State) (w : Nat) : State :=
  let s := noteUe (uePlate st w) (unitStack st) s
  { s with mem.stk := memWrite s.mem.stk (plateWordAddr st w) (memRead s.mem.stk (plateWordAddr (13 - st) w) 8) }

/-- What every refresh stroke of a stack does: its count and its patrol of 64 KiB, which finds uncorrectable errors. -/
def refreshStroke (st : Nat) (finds : PatrolFinds) (s : State) : State :=
  let pos := look 0 s.tel.patrol st + 1
  let s := { s with
    tel.patrol := put 0 s.tel.patrol st (pos % patrolUnits)
    tel.laps := if pos = patrolUnits then upd 0 s.tel.laps st fun n => (n + 1) % 65536 else s.tel.laps
    tel.live.refresh := if st < 6 then upd 0 s.tel.live.refresh st fun n => min 0x1FFF (n + 1) else s.tel.live.refresh }
  let s := (finds.slots.filter fun x => slotStack x == st && x < slotCount).foldl
    (fun s x => countUe (ueSlot x) fUeData (unitStack st) (leBytes 4 x) s) s
  if st < 6 then s else (finds.plate.filter fun w => w < plateWords).foldl (repairPlate st) s

/-- A planned refresh stroke: a rising band takes effect, and in the throttle band or above an extra refresh stroke follows 8
strokes later. -/
def plannedRefresh (st : Nat) (finds : PatrolFinds) (s : State) : State :=
  let h := stackHeat st s
  let s := match h.next with
    | some b => if bandRank h.band < bandRank b then enterBand st b s else s
    | none => s
  let s := if 2 ≤ bandRank (stackHeat st s).band then
      { s with sch.extraRefresh := s.sch.extraRefresh ++ [(st, strokeCount s + 8)] }
    else s
  refreshStroke st finds s

/-- REFRESH_LINE. Under the built-in schedule stroke 15 of every 16 refreshes every stack; `idx` is then the vault stack of
the hub-core island's refresh. -/
def execRefreshLineState (isl idx : Nat) (finds : PatrolFinds) (s : State) : State :=
  match s.plt.running with
  | none =>
    let st := if isl < 6 then isl else 6 + idx % 2
    if strokeCount s % 16 = 15 ∧ isl ≤ 6 ∧ !s.sch.applied.contains (st, 0x10000) then
      plannedRefresh st finds (markApplied st 0x10000 s)
    else s
  | some _ =>
    if isl < 6 then
      match dueLine isl idx opRefresh s with
      | some _ => plannedRefresh isl finds (markApplied isl idx s)
      | none => s
    else match if isl = islHub then dueLine isl idx opVaultRefresh s else none with
      | some l => plannedRefresh l.linkStack finds (markApplied isl idx s)
      | none => s

/-- A WINDOW line, with its chain, claims the present stroke on a graver island. -/
def windowClaims (isl : Nat) (s : State) : Bool :=
  (linesOf isl s).any fun x => x.2.op == opWindow && x.2.claims (cycleLen (progOf isl s)) (strokeCount s) x.2.chain
/-- A WINDOW line claims the present stroke for work. -/
def windowOpen (isl : Nat) (s : State) : Bool := claimed isl opWindow (strokeCount s) (fun _ => true) s

/-- Delayed work of an island's gravers runs in the present stroke past its planned strokes; thermal protection has delayed it,
or not (R254). -/
def delayedWork (isl : Nat) (heat : Bool) (s : State) : Bool :=
  s.gravers.any fun x => x.1 / 16 == isl && x.2.st == .working && x.2.delayed && x.2.heated == heat

/-- A graver island departs in the present stroke by its clock level or by work that thermal protection has delayed (R257). -/
def thermalDeparts (isl : Nat) (s : State) : Bool :=
  (0 < clockLevel isl s && windowOpen isl s) || delayedWork isl true s

/-- An island's claim is displaced: its departure is counted once in a stroke (R257). -/
def departOnce (isl unit : Nat) (s : State) : State :=
  if s.sch.applied.contains (isl, 0x10003) then s
  else countEvent cThermalSlip unit { markApplied isl 0x10003 s with sch.slipNow := true }

/-- EXTRA_REFRESH (R401, R257): a due extra refresh stroke runs, and each island whose claim it displaces departs, once for
the island whatever the number of stacks refreshed. -/
def execExtraRefreshState (st : Nat) (s : State) : State :=
  if s.sch.extraRefresh.contains (st, strokeCount s) && !s.sch.applied.contains (st, 0x10001) then
    let s := refreshStroke st ⟨[], []⟩ (markApplied st 0x10001 s)
    let s := if st < 6 && windowClaims st s && !thermalDeparts st s then departOnce st (unitStack st) s else s
    if claimed islHub opLink (strokeCount s) (fun l => l.linkStack == st) s then departOnce islHub unitNode s else s
  else s

/-! ### Retraining, directory cycles, links, maintenance -/

def retrainChannel (st : Nat) (s : State) : State :=
  { s with sch.retrainNext := upd 0 s.sch.retrainNext st (· + 1), tel.retrains := (s.tel.retrains + 1) % 65536 }

def execRetrainLineState (isl idx : Nat) (s : State) : State :=
  match if isl < 6 then dueStroke isl idx opRetrain s else none with
  | some _ => retrainChannel isl (markApplied isl idx s)
  | none => s

/-- DIRCYC_LINE (R244, R247): each claimed stroke opens a range of issue cycles of one use. -/
def execDircycLineState (isl idx : Nat) (s : State) : State :=
  match if isl = islHub then dueStroke isl idx opDircyc s else none with
  | some l =>
    let n := field l.arg0 9 9
    let s := markApplied isl idx s
    match field l.arg0 18 2 with
    | 1 => { s with dir.nodeRanges := s.dir.nodeRanges ++ [n] }
    | 2 => { s with dir.portRanges := s.dir.portRanges ++ [n] }
    | 3 => { s with dir.patrolCycles := s.dir.patrolCycles + n }
    | _ => s
  | none => s

/-- Staging reads of a stack issue in a stroke that its link gives to staging (07_residency_and_tiers.md R186). -/
def issueStaging (st : Nat) (s : State) : State :=
  { s with res.tiles := s.res.tiles.map fun t =>
      if t.1 / tilesPerStack == st && t.2.issuedAt.isNone then (t.1, { t.2 with issuedAt := some (strokeCount s) }) else t }

def execLinkLineState (isl idx : Nat) (s : State) : State :=
  match if isl = islHub then dueStroke isl idx opLink s else none with
  | some l =>
    let s := markApplied isl idx s
    let s := { s with res.linkUse := upd 0 s.res.linkUse l.linkStack fun m => m ||| 2 ^ l.linkUse }
    if l.linkUse = 1 then issueStaging l.linkStack s else s
  | none => s

/-- MAINT_LINE (R244; 07_residency_and_tiers.md R204): a vault stack's channel is retrained, or the flash tier's maintenance
runs, in which the erases of some blocks fail. -/
def execMaintLineState (isl idx : Nat) (eraseFails programFails : List Nat) (s : State) : State :=
  match if isl = islHub then dueStroke isl idx opMaint s else none with
  | some l =>
    let s := markApplied isl idx s
    match field l.arg0 0 2 with
    | 1 => retrainChannel (field l.arg0 2 3) s
    | 2 => tierMaintenance eraseFails programFails { s with fsh.maint := true, tel.flashMaint := (s.tel.flashMaint + 1) % 65536 }
    | _ => s
  | none => s

/-! ### Telemetry (17_management_and_registers.md R452) -/

/-- The live counts become the snapshots. -/
def telCopy (s : State) : State :=
  { s with
    tel.snap := s.tel.live
    tel.live := {}
    tel.seq := (s.tel.seq + 1) % 2 ^ 64
    tel.pass := passNow s
    tel.passes := min 0xFFFF (passNow s - s.tel.pass)
    tel.pAvg := if s.pwr.numTel = 0 then s.pwr.lastWatts else s.pwr.sumTel / s.pwr.numTel
    pwr.sumTel := 0
    pwr.numTel := 0 }

def execSampleLineState (isl idx : Nat) (s : State) : State :=
  match if isl = islTime then dueLine isl idx opSample s else none with
  | some _ => telCopy (markApplied isl idx s)
  | none => s

/-! ### The commands -/

def execWindowLine (isl idx : Nat) (s : State) : Host.Outcome State Fault Refusal := .next (execWindowLineState isl idx s)
def execBanksLine (isl idx : Nat) (s : State) : Host.Outcome State Fault Refusal := .next (execBanksLineState isl idx s)
def execRefreshLine (isl idx : Nat) (finds : PatrolFinds) (s : State) : Host.Outcome State Fault Refusal :=
  .next (execRefreshLineState isl idx finds s)
def execExtraRefresh (st : Nat) (s : State) : Host.Outcome State Fault Refusal := .next (execExtraRefreshState st s)
def execRetrainLine (isl idx : Nat) (s : State) : Host.Outcome State Fault Refusal := .next (execRetrainLineState isl idx s)
def execDircycLine (isl idx : Nat) (s : State) : Host.Outcome State Fault Refusal := .next (execDircycLineState isl idx s)
def execLinkLine (isl idx : Nat) (s : State) : Host.Outcome State Fault Refusal := .next (execLinkLineState isl idx s)
def execMaintLine (isl idx : Nat) (eraseFails programFails : List Nat) (s : State) : Host.Outcome State Fault Refusal :=
  .next (execMaintLineState isl idx eraseFails programFails s)
def execSampleLine (isl idx : Nat) (s : State) : Host.Outcome State Fault Refusal := .next (execSampleLineState isl idx s)

end Sys2Proof.Machine
end

