-- ==== Sys2Proof/Machine/Tier.lean ====
section
/-! DEFINITION. The flash tier (07_residency_and_tiers.md R201 to R208): TLPNs, pages read and programmed, stalls, the
tier-engine commands and the mount. -/

namespace Sys2Proof.Machine

/-- FSH_STATUS.MODE: 0 service, 1 start-up, 3 recovery (R205, R208). The manual does not say which states 2 (test) and 3 show:
the model shows 3 in hold mode and while no plate is sealed after start-up, and never 2 (DESIGN CHOICE,
notes/assumptions/108.md). -/
def fshMode (s : State) : Nat := if s.start.stage < 6 then 1 else if s.pwr.hold || !sealed s then 3 else 0

/-- The tier is in service (R205). -/
def inService (s : State) : Bool := fshMode s == 0

/-- The flash-tier controller serves operations: mounted, and not gated (15_start_power_cooling.md R400). -/
def tierOn (s : State) : Bool := s.fsh.mounted && !s.cool.flashGated

/-! ### TLPNs -/

/-- The tier range of a partition: first TLPN and count (08_plates.md R216). -/
def tierRange (p : Nat) (s : State) : Nat × Nat := ((partRec p s).tierFirstK * 4096, (partRec p s).tierCountK * 4096)

def inTier (p t : Nat) (s : State) : Bool :=
  let r := tierRange p s
  r.1 ≤ t && t < r.1 + r.2

/-- TLPNs of a partition's range that are written or being written, ascending. -/
def tierTaken (p : Nat) (s : State) : List Nat :=
  sortNat (once ((s.fsh.written ++ s.res.programs.map (·.tlpn)).filter fun t => inTier p t s))

/-- The partition's tier usage (R191). -/
def tierUsed (p : Nat) (s : State) : Nat := (tierTaken p s).length

/-- A TLPN of the partition's quota that holds nothing; none when the quota is full, the flash reserve is reached (R191) or the
tier is off. -/
def tierAlloc (p : Nat) (s : State) : Option (Nat × State) :=
  let n := (tierRange p s).2 - tierUsed p s
  if !tierOn s || n = 0 then none
  else
    let k := pick n s
    let t := nthFree (tierTaken p s) ((tierRange p s).1 + k.1)
    if tierRoom t s then some (t, k.2) else none

/-- Some tier word carries the TLPN, or a program that will set one is under way (R205). -/
def carried (t : Nat) (s : State) : Bool :=
  (s.dir.extents.any fun x => (tlpnsOf x.2).contains t) || s.res.programs.any fun p => p.tlpn == t

/-- The codewords of a TLPN carry the metadata that a read for the partition expects, and none lies on a fenced channel: any
other read fails (R203; 14_trust_and_isolation.md R363, 16_faults_and_recovery.md R424). -/
def tierReadable (p t : Nat) (s : State) : Bool :=
  s.fsh.written.contains t && look 0 s.fsh.owner t == p && !((tlpnChannels t).any fun c => bit s.flt.fencedChannels c)

/-- What a read of a TLPN gives: the page's 69,632 bytes. -/
def readTier (t : Nat) (s : State) : Mem := memSlice s.mem.tier (t * pageBytes) pageBytes

/-- A page's bytes are written to a TLPN for a partition, its 17 codewords each to a block of its channel, under the next write
sequence (R203); none when a channel has no block for one, its reserve left out unless a failed program is rewritten (R204). -/
def writeTier (rewrite : Bool) (p t : Nat) (sl : Mem) (s : State) : Option State :=
  (placeTlpn rewrite t s).map fun s =>
    { s with
      mem.tier := memPlace s.mem.tier (t * pageBytes) pageBytes sl
      fsh.written := once (s.fsh.written ++ [t])
      fsh.owner := put 0 s.fsh.owner t p
      fsh.writeSeq := s.fsh.writeSeq + 1
      fsh.seqs := put 0 s.fsh.seqs t (s.fsh.writeSeq + 1) }

/-- A range of TLPNs is trimmed. -/
def trimRange (first n : Nat) (s : State) : State := unplace (fun t => first ≤ t && t < first + n) s

/-- The bytes of a page in its home, at 0: from its slot, or from flash. -/
def homeSlice (word tier : Nat) (s : State) : Mem :=
  if wordState word = 2 then readTier (field tier 0 29) s else readPage s.mem.stk (slotPlace (wordSlot word))

/-- A read of a page in its home counts for the blocks it comes from (R204). -/
def noteHomeRead (word tier : Nat) (s : State) : State :=
  if wordState word = 2 then noteRead (field tier 0 29) s else s

/-! ### Programs (R190, R194) -/

/-- A tier program of a page starts with its read; none when the tier can take no page. A page with a tier copy is rewritten under
its own TLPN. -/
def startProgram (n : PageName) (p : Nat) (spill : Bool) (fn : Option Nat) (s : State) : Option State :=
  match pageOf n.ctx n.layer n.group n.page s with
  | none => none
  | some (i, w) =>
    let t := entryTier i n.page s
    let old := field t 0 29
    let got := if bit t 29 && tierOn s then (if tierRoom old s then some (old, s) else none) else tierAlloc p s
    got.map fun x =>
      let pr : TierProgram := ⟨n, p, x.1, spill, false, fn, homeSlice w t s, (dirEntry i s).data⟩
      { x.2 with res.programs := x.2.res.programs ++ [pr] }

/-- A program of the page is under way. -/
def programming (n : PageName) (s : State) : Bool := s.res.programs.any fun p => p.page == n

/-! ### Stalls (R206) -/

def causeNum : FlashCause → Nat
  | .read => 1 | .program => 2 | .erase => 3 | .noFreeBlock => 4 | .parameterPage => 5 | .training => 6 | .timeout => 7

/-- A tier operation stalls outside service. While another one is stalled it only waits. -/
def stallTier (op : StallOp) (cause : Nat) (s : State) : State :=
  if s.fsh.stalled then s
  else raise fTierStall unitNode [] <|
    tally cStalls { s with fsh.stalled := true, fsh.cause := cause, fsh.stallOp := some op, fsh.retryAt := s.time.elapsed }

def endStall (s : State) : State :=
  { s with fsh.stalled := false, fsh.cause := 0, fsh.stallOp := none }

/-! ### Tier-engine commands (R205; 13_host_attachment.md R350) -/

def tierFields (op : Nat) : List (Nat × Nat) := if op = 3 then [(0, 29), (4, 32)] else [(0, 29), (8, 64)]

/-- TLPNs a command names: first and count. -/
def tierNamed (c : Cmd) : Nat × Nat := (field (c.arg 0 4) 0 29, if c.op = 3 then c.arg 4 4 else 1)

/-- The lowest reason that refuses a tier-engine command. -/
def tierReason (c : Cmd) (s : State) : Option Nat :=
  let n := tierNamed c
  let r := tierRange c.part s
  let tlpns := s.dir.extents.flatMap fun x => tlpnsOf x.2
  let names := fun t => n.1 ≤ t && t < n.1 + n.2
  if c.op ≠ 3 && !b2Ok c.f (c.arg 8 8) pageBytes s then some 2
  else if n.1 < r.1 || r.1 + r.2 < n.1 + n.2 then some 3
  else if tlpns.any names || s.res.programs.any fun p => names p.tlpn then some 4
  else if n.2 = 0 || 65536 < n.2 then some 6
  else none

/-- What a tier-engine command does when the flash serves it. -/
def tierEffect (c : Cmd) (s : State) : State :=
  let n := tierNamed c
  if c.op = 1 then endCmd c stOk 0 0 (noteRead n.1 (b2Write c.f (c.arg 8 8) (dense (readTier n.1 s) 0 pageBytes) s))
  else if c.op = 2 then
    match writeTier false c.part n.1 (sparse (b2Read c.f (c.arg 8 8) pageBytes s) 0) s with
    | some s => endCmd c stOk 0 0 s
    | none => endCmd c stTierError 0 0 s
  else endCmd c stOk 0 n.2 (trimRange n.1 n.2 s)

/-- What it does when the flash fails it: the command ends in service, and stalls outside. -/
def tierFails (c : Cmd) (s : State) : State :=
  if inService s then endCmd c stTierError 0 0 (if c.op = 1 then tally cCwFailed s else s)
  else stallTier (.command c.f) c.op s

/-- TIER_READ, TIER_WRITE and TIER_TRIM; `ok` says whether the flash serves the operation. -/
def tierCommand (op f : Nat) (ok : Bool) (s : State) : State :=
  runCmd f 4 op (tierFields op) false tierReason (fun c s =>
    if s.fsh.stallOp = some (.command f) then s
    else if s.cool.flashGated then endCmd c stTierError 0 0 s
    else if ok && s.fsh.mounted && (op != 1 || tierReadable c.part (tierNamed c).1 s) then tierEffect c s
    else tierFails c s) s

def execTierReadState (f : Nat) (ok : Bool) (s : State) : State := tierCommand 1 f ok s
def execTierWriteState (f : Nat) (ok : Bool) (s : State) : State := tierCommand 2 f ok s
def execTierTrimState (f : Nat) (ok : Bool) (s : State) : State := tierCommand 3 f ok s

/-! ### The mount (R202) -/

/-- The target's parameter page excludes it. -/
def targetUnfit (t : FlashTarget) : Bool :=
  !t.crcOk || !t.nvLpddr4 || t.ezNand || !(t.bitsPerCell == 1 || t.bitsPerCell == 3 || t.bitsPerCell == 4) ||
    t.pageBytes < 2 * 4608 || 8 ≤ t.target

/-- The targets in ascending order of channel, then target. -/
def targetOrder (ts : List FlashTarget) : List FlashTarget :=
  (List.range 16).flatMap fun c => (sortNat (once ((ts.filter (·.channel == c)).map (·.target)))).filterMap fun t =>
    ts.find? fun x => x.channel == c && x.target == t

/-- Bytes of 32 TB and of 28 TB (notes/assumptions/17.md). -/
abbrev rawLimit : Nat := 32 * 10 ^ 12
abbrev usableLimit : Nat := 28 * 10 ^ 12

/-- One target is mounted or excluded. Raw capacity counts the target's whole pages, spare areas included, as R203 measures a
TLPN (notes/assumptions/17.md). -/
def mountTarget (s : State) (t : FlashTarget) : State :=
  let mark := fun (m : Store Nat) => if t.target < 8 then upd 0 m t.channel fun v => v ||| 2 ^ t.target else m
  let s := { s with fsh.present := mark s.fsh.present }
  let raw := s.fsh.rawBytes + targetRaw t
  if targetUnfit t || rawLimit < raw then { s with fsh.excluded := mark s.fsh.excluded }
  else
    { s with
      fsh.rawBytes := raw, fsh.goodBytes := s.fsh.goodBytes + targetGoodBytes t, fsh.targets := s.fsh.targets ++ [t]
      fsh.trMax := max s.fsh.trMax (min 0xFFFF t.trUs) }

/-- The mount is complete: presence, exclusions, TR_MAX and capacity; the channels run NV-LPDDR4 and are trained (R201), and
every TLPN is trimmed (15_start_power_cooling.md R392). -/
def mounted (ts : List FlashTarget) (s : State) : State :=
  let clean := { s with
    fsh.present := [], fsh.excluded := [], fsh.targets := [], fsh.rawBytes := 0, fsh.goodBytes := 0, fsh.trMax := 0 }
  let s := (targetOrder ts).foldl mountTarget clean
  let s := unplace (fun _ => true) { s with fsh.lpddr := true, fsh.trainedAt := some s.time.elapsed, fsh.opened := [] }
  let s := (emptyBlocks s).foldl (eraseBlock false) s
  { s with fsh.mounted := true, fsh.usableGib := min usableLimit (s.fsh.goodBytes * 7 / 8) / 2 ^ 30 }

/-- FLASH_MOUNT: the mount of start-up stage 2. A failure stalls the stage (R206). -/
def execFlashMountState (ts : List FlashTarget) (failure : Option FlashCause) (s : State) : State :=
  if s.start.stage = 2 && s.start.stageRunning && !s.fsh.mounted && !s.fsh.skipped && !s.fsh.stalled then
    match failure with
    | some c => stallTier (.mount ts) (causeNum c) s
    | none => mounted ts s
  else s

/-! ### The commands -/

def execTierRead (f : Nat) (ok : Bool) (s : State) : Host.Outcome State Fault Refusal := .next (execTierReadState f ok s)
def execTierWrite (f : Nat) (ok : Bool) (s : State) : Host.Outcome State Fault Refusal := .next (execTierWriteState f ok s)
def execTierTrim (f : Nat) (ok : Bool) (s : State) : Host.Outcome State Fault Refusal := .next (execTierTrimState f ok s)
def execFlashMount (ts : List FlashTarget) (failure : Option FlashCause) (s : State) : Host.Outcome State Fault Refusal :=
  .next (execFlashMountState ts failure s)

end Sys2Proof.Machine
end

