-- ==== Sys2Proof/Machine/Residency.lean ====
section
/-! DEFINITION. Residency commands (07_residency_and_tiers.md R182 to R187; 02_kv_pages.md R34; 03_page_directory.md R60;
13_host_attachment.md R350): contexts, extents, tiles, rehoming, eviction on command, write-backs and their programs. -/

namespace Sys2Proof.Machine

/-! ### What residency commands share -/

/-- The function's residency command is still running. -/
def resBusy (f : Nat) (s : State) : Bool := (s.res.ops.any fun o => o.fn == f) || s.res.moveOuts.any fun m => m.fn == f

/-- A residency command runs when its queue has come to it; in hold mode all but EVICT and EXPORT_OUT end with ST_FENCED
(16_faults_and_recovery.md R435). -/
def runRes (f op : Nat) (inHold : Bool) (fs : List (Nat × Nat)) (reason : Cmd → State → Option Nat)
    (ok : Cmd → State → State) (s : State) : State :=
  match hostCmd f 1 op s with
  | none => s
  | some c =>
    if resBusy f s then s
    else runFront c fs (s.pwr.hold && !inHold) reason ok s

/-! ### CONTEXT_WRITE (R33, R34, R131) -/

/-- Some valid directory entry maps pages of the context. -/
def ctxMapped (ctx : Nat) (s : State) : Bool := s.dir.entries.any fun x => x.2.v && keyCtx x.2.key == ctx

/-- A write that only changes OPEN from 1 to 0. -/
def ctxCloses (old new : Nat) : Bool := bit old 63 && new + 2 ^ 63 == old

/-- R34 rejects the descriptor. -/
def ctxRejects (ctx new : Nat) (s : State) : Bool :=
  let old := (ctxWord ctx s).toNat
  let g := geoOf new
  field new 43 20 != 0 ||
    (!ctxCloses old new &&
      (4 ≤ g.fmt || 4 < g.hppLog2 || hMaxLog2 g.fmt g.d < g.hppLog2 || !tenantIn g.tenant g.part s ||
        (bit old 63 && ctxMapped ctx s && new % 2 ^ 63 != old % 2 ^ 63)))

/-- The descriptor is stored. Opening sets L and every S of the context to zero and ends an uncorrectable error of its
entries; closing leaves its TAIL bits to be cleared (R73, R131, R143, R415). -/
def storeCtx (ctx new : Nat) (s : State) : State :=
  let old := (ctxWord ctx s).toNat
  let opens := !bit old 63 && bit new 63
  let closes := bit old 63 && !bit new 63
  let s := { s with res.ctxs := put 0 s.res.ctxs ctx (BitVec.ofNat 64 new) }
  let s := if opens then
      { s with
        res.lens := put 0 s.res.lens ctx 0
        res.lensBefore := put (0, 0) s.res.lensBefore ctx (0, 0)
        res.staged := s.res.staged.filter fun x => x.1 / 2 ^ 17 != ctx
        res.ctxUe := s.res.ctxUe.filter (· != ctx) }
    else s
  if closes then { s with dir.tailClear := s.dir.tailClear ++ [((geoOf old).tenant, ctx)] } else s

def execContextWriteState (f : Nat) (s : State) : State :=
  runRes f 1 false [(0, 21), (8, 64)]
    (fun c s =>
      let ctx := field (c.arg 0 4) 0 21
      let old := ctxGeo ctx s
      lowestReason [((old.isOpen && old.part != c.part) || (geoOf (c.arg 8 8)).part != c.part, 3),
        (ctxRejects ctx (c.arg 8 8) s, 6)])
    (fun c s => endCmd c stOk 0 0 (storeCtx (field (c.arg 0 4) 0 21) (c.arg 8 8) s)) s

/-! ### Extent commands (R60, R179, R350) -/

/-- COUNT BUILT extents, in the order obtained; none when they cannot all be had. -/
def allocExtents (p : Nat) : Nat → State → Option (List Nat × State)
  | 0, s => some ([], s)
  | n + 1, s => (allocExtent p s).bind fun x => (allocExtents p n x.2).map fun r => (x.1 :: r.1, r.2)

def execExtentGetState (f : Nat) (s : State) : State :=
  runRes f 2 false [(0, 32), (8, 64)]
    (fun c s =>
      let n := c.arg 0 4
      lowestReason [(!b2Ok c.f (c.arg 8 8) (4 * min n 64) s, 2),
        (extFree s < n || extQuota c.part s < extHeld c.part s + n, 5), (n = 0 || 64 < n, 6)])
    (fun c s =>
      match allocExtents c.part (c.arg 0 4) s with
      | some (xs, s) => endCmd c stOk 0 xs.length (b2Write c.f (c.arg 8 8) (xs.flatMap (leBytes 4)) s)
      | none => refuseCmd c 5 s) s

/-- A slot lies in another partition's quota. -/
def otherQuota (p slot : Nat) (s : State) : Bool := (plate s).parts.any fun x => x.1 != p && inQuota x.1 slot s

/-- R179 refuses a page word. -/
def wordRefused (p w : Nat) (s : State) : Bool :=
  let st := wordState w
  let slot := wordSlot w
  w / 2 ^ 26 != 0 || st == 2 || st == 4 || st == 6 || st == 7 ||
    (st == 0 && 6 ≤ slotStack slot) || (st == 1 && (slotStack slot < 6 || slotCount ≤ slot)) ||
    (st < 2 && !inQuota p slot s) || ((st == 3 || st == 5) && slot != 0)

/-- The slots of a BUILT extent's new words hold pages. Slots that its earlier words named stay with it until it becomes FREE
(R181). -/
def reword (x : Nat) (words : Store Nat) (s : State) : State :=
  let s := setExtent x { extent x s with words := words, former := once (slotsOf (extent x s)) } s
  (slotsOf (extent x s)).foldl (fun s n =>
    { s with res.slots := upd {} s.res.slots n fun u => { u with holding := true, awaiting := false, written := true } }) s

/-- The reason that refuses a command on an extent: another partition's, or not BUILT. -/
def extentReasons (c : Cmd) (s : State) : List (Bool × Nat) :=
  let p := extPart (extent (field (c.arg 0 4) 0 20) s).st
  [(p.isSome && p != some c.part, 3), (!extBuiltFor (field (c.arg 0 4) 0 20) c.part s, 4)]

def extentWords (c : Cmd) (s : State) : List Nat :=
  let b := b2Read c.f (c.arg 8 8) 256 s
  (List.range 64).map fun i => u b (4 * i) 4

def execExtentWriteState (f : Nat) (s : State) : State :=
  runRes f 3 false [(0, 20), (8, 64)]
    (fun c s =>
      let ws := extentWords c s
      lowestReason ([(!b2Ok c.f (c.arg 8 8) 256 s, 2),
        (ws.any fun w => wordState w < 2 && otherQuota c.part (wordSlot w) s, 3)] ++ extentReasons c s ++
        [(ws.any fun w => wordRefused c.part w s, 6)]))
    (fun c s =>
      endCmd c stOk 0 0 (reword (field (c.arg 0 4) 0 20) (changeWords [] (indexed 0 (extentWords c s))) s)) s

def execExtentPutState (f : Nat) (s : State) : State :=
  runRes f 4 false [(0, 20)] (fun c s => lowestReason (extentReasons c s))
    (fun c s => endCmd c stOk 0 0 (freeExtent (field (c.arg 0 4) 0 20) s)) s

/-! ### Commands that name pages (R182) -/

/-- The pages a command names. -/
structure Named where
  ctx : Nat
  layer : Nat
  group : Nat
  first : Nat
  count : Nat
  deriving DecidableEq, Repr

def namedPages (c : Cmd) : Named :=
  ⟨field (c.arg 0 4) 0 21, field (c.arg 4 2) 0 9, c.arg 6 1, field (c.arg 8 4) 0 17, c.arg 0xC 4⟩

def Named.pages (n : Named) : List Nat := (List.range n.count).map (n.first + ·)
def Named.at_ (n : Named) (page : Nat) : PageName := ⟨n.ctx, n.layer, n.group, page⟩

def pageFields : List (Nat × Nat) := [(0, 21), (4, 9), (6, 8), (8, 17), (0xC, 32)]

/-- R50 and the ranges of FIRST_PAGE and COUNT (notes/assumptions/16.md). -/
def pageReasons (c : Cmd) (s : State) : List (Bool × Nat) :=
  let n := namedPages c
  [(namesFail c.tenant n.ctx n.layer n.group s, 4), (n.count = 0 || 64 < n.count || 131072 < n.first + n.count, 6)]

/-- A node swap under way moves some of the pages. -/
def changing (n : Named) (s : State) : Bool :=
  s.res.changes.any fun c => c.pages.any fun x => x.ctx == n.ctx && x.layer == n.layer && x.group == n.group && n.pages.contains x.page

/-- A command that names pages: as `runRes`, and ST_UNCORRECTABLE where the context's entries are lost (R415). It waits for
operations that came before it on its pages (R184). -/
def runNamed (f op : Nat) (inHold : Bool) (fs : List (Nat × Nat)) (reasons : Cmd → State → List (Bool × Nat))
    (ok : Cmd → Named → State → State) (s : State) : State :=
  runRes f op inHold (pageFields ++ fs) (fun c s => lowestReason (pageReasons c s ++ reasons c s))
    (fun c s' =>
      if changing (namedPages c) s' then s
      else if s'.res.ctxUe.contains (namedPages c).ctx then endCmd c stUncorrectable 0 0 s' else ok c (namedPages c) s') s

/-- The page word in force, and its tier word; an unmapped page reads STATE 5. -/
def wordOf (n : PageName) (s : State) : Nat := ((pageOf n.ctx n.layer n.group n.page s).map (·.2)).getD noneWord
def tierOf (n : PageName) (s : State) : Nat :=
  match pageOf n.ctx n.layer n.group n.page s with
  | some (i, _) => entryTier i n.page s
  | none => 0

/-- The page holds a staged row (R44). -/
def pageStaged (n : PageName) (s : State) : Bool :=
  let m := stagedMark n.ctx n.layer n.group s
  max (ctxLen n.ctx s) (128 * n.page) < min m (128 * n.page + 128)
def pageIsTail (n : PageName) (s : State) : Bool := tailPage n.ctx n.layer n.group s == some n.page
/-- The page is full (R47). -/
def pageFull (n : PageName) (s : State) : Bool :=
  let m := stagedMark n.ctx n.layer n.group s
  m == 0 || 128 * (n.page + 1) ≤ m

/-- The page may be evicted (R47, R188): it is full, holds no staged row and is not the tail page. -/
def evictable (n : PageName) (s : State) : Bool := pageFull n s && !pageStaged n s && !pageIsTail n s

/-- The read of a page from flash fails: by the flash, because its codewords do not answer for it (R203), or because the
controller is gated (15_start_power_cooling.md R400). -/
def readFails (failed : List Nat) (n : PageName) (s : State) : Bool :=
  failed.contains n.page || s.cool.flashGated || !tierReadable (ctxGeo n.ctx s).part (field (tierOf n s) 0 29) s

def freeTile (key : Nat) (s : State) : State := { s with res.tiles := s.res.tiles.filter fun x => x.1 != key }

/-- The page of a tile is in a home that tiles serve. -/
def tileServes (t : Tile) (s : State) : Bool :=
  let st := wordState (wordOf t.page s)
  st == 1 || st == 2

/-- The code of a page that left STATE 1 and 2 while its tile was awaited. -/
def leftCode (n : PageName) (s : State) : Option Nat :=
  let st := wordState (wordOf n s)
  if st = 0 then none else some (absentStatus st)

/-- Tiles of pages that have left STATE 1 and 2 are freed at once (R186). -/
def freeGone (s : State) : State :=
  (s.res.tiles.filter fun t => !tileServes t.2 s).foldl (fun s t => tileProgress t.1 (leftCode t.2.page s) (freeTile t.1 s)) s

/-- A read of the page from flash failed: it is dropped and counted in TIER_LOST (R205). A gated controller reads nothing, and
the page stays. -/
def pageLost (n : PageName) (s : State) : State :=
  let at_ := if s.cool.flashGated then none else pageOf n.ctx n.layer n.group n.page s
  let s := if s.cool.flashGated then s else countEvent cTierLost unitNode (tally cCwFailed s)
  match at_ with
  | some (i, _) => freeGone (stateSwap i [(n.page % 64, pageWord 3 0)] s)
  | none => s

/-- Pages of one unit are dropped: they join its drop record, which is posted when its eviction is over (R192). -/
def noteDrops (part : Nat) (ns : List PageName) (s : State) : State :=
  match ns with
  | [] => s
  | n :: _ =>
    let mine := fun d : DropRec => d.part == part && sameUnit n ⟨d.ctx, d.layer, d.group, d.pages.headD 0⟩
    let add := fun d : DropRec => { d with pages := d.pages ++ ns.map (·.page) }
    let l := if s.res.dropping.any mine then replaceWhere mine add s.res.dropping
      else s.res.dropping ++ [add ⟨part, (ctxGeo n.ctx s).tenant, n.ctx, n.layer, n.group, []⟩]
    { s with res.dropping := l }

/-! ### Operations that wait for tiles and programs -/

/-- An operation ends, or waits for the tiles and programs it has started. -/
def startOp (c : Cmd) (tiles : List Nat) (pages : List PageName) (done : Nat) (codes : List Nat) (s : State) : State :=
  if tiles.isEmpty && pages.isEmpty then endCmd c (combine codes) 0 done s
  else { s with res.ops := s.res.ops ++ [⟨c.f, c.part, tiles, pages, done, codes⟩] }

/-! ### Node swaps of residency operations (R177, R183; 03_page_directory.md R70, R71, R471) -/

/-- The tier word of a page that has moved (R182, R194): none without a tier copy to keep, and not DIRTY where it came to a graver
stack from elsewhere. -/
def movedTier (m : PageChange) (tier : Nat) : Nat :=
  if wordState m.new = 3 ∨ wordState m.new = 5 then 0
  else if wordState m.new = 0 ∧ wordState m.old ≠ 0 then tier % 2 ^ 30
  else tier

/-- The page and its tier copy are still those the change was decided on. -/
def PageChange.applies (m : PageChange) (x : Extent) : Bool :=
  let t := extTier x m.pos
  extWord x m.pos == m.old && t % 2 ^ 30 == m.tier % 2 ^ 30 && (wordState m.new != 2 || (bit t 29 && !bit t 30))

/-- The moves that copy bytes: those to a page slot. -/
def RunChange.copies (c : RunChange) : List PageChange := c.moves.filter fun m => wordState m.new < 2

/-- The stacks whose links a change's copies use. -/
def RunChange.links (c : RunChange) : List Nat :=
  once (c.copies.flatMap fun m =>
    (if wordState m.old < 2 then [slotStack (wordSlot m.old)] else []) ++ [slotStack (wordSlot m.new)])

/-- Moves leave a change: their slots await zeroing, and their pages get a code. -/
def leaveOut (code : Nat) (c : RunChange) (out : PageChange → Bool) (s : State) : State :=
  (c.moves.filter out).foldl (fun s m =>
    pageProgress (c.page m.pos) (some code) (if wordState m.new < 2 then slotAwaits s (wordSlot m.new) else s)) s

/-- The unit a scraper's change relieves, as it is passed over after an abandoned swap. -/
def RunChange.unit (c : RunChange) (home entry : Nat) : Nat × Nat × Nat × Nat :=
  (c.part, home, entry, ((c.moves.map (·.pos)).headD 0) / 32)

/-- A swap is abandoned: its pages stay where they are (03 R71, R471). The scraper passes its unit over. -/
def abandonChange (c : RunChange) (s : State) : State :=
  let s := leaveOut stPageAbsent c (fun _ => true) (countEvent cSwapAbandon unitNode s)
  match c.home, runOf (ctxGeo c.ctx s).tenant c.ctx c.layer c.group c.run c.part s with
  | some h, some i => { s with res.passed := s.res.passed ++ [c.unit h i] }
  | _, _ => s

def countTimes (n : Nat) (c : Ctr) (s : State) : State := (List.range n).foldl (fun s _ => countEvent c unitNode s) s

/-- A swap has been made: its counts and drop records, the slots that an eviction of the scraper leaves behind, the tail page, tiles
whose pages have left them, and the operation it serves. -/
def changeMade (c : RunChange) (s : State) : State :=
  let came := fun st => (c.moves.filter fun m => wordState m.new == st)
  let demoted := ((came 1).filter fun m => wordState m.old == 0).length
  let s := countTimes demoted cDemoted <| countTimes (came 2).length cSpilled <| countTimes (came 3).length cDropped <|
    countTimes (c.moves.filter (·.full)).length cSpillFull s
  let s := match c.home with
    | some h =>
      let left := (c.moves.filter fun m => wordState m.old < 2).map fun m => wordSlot m.old
      let s := { s with res.passed := s.res.passed.filter fun x => x.1 != c.part || x.2.1 != h }
      left.foldl (fun s n => { s with res.slots := upd {} s.res.slots n fun u => { u with scraped := true } }) s
    | none => s
  let s := noteDrops c.part ((came 3).map fun m => c.page m.pos) s
  let s := freeGone (placeTail c.ctx c.layer c.group s)
  postDrops (c.pages.foldl (fun s n => pageProgress n none s) s)

/-- What an attempt at a change comes to: over, or still waiting for links, a flash read or a node-update cycle. -/
inductive ChangeEnd where
  | over (s : State)
  | waits (c : RunChange) (s : State)
  deriving DecidableEq, Repr

/-- The pages of a change are read and copied on the links of USE 5, once these serve it. `failed` are the pages whose flash reads
fail: in service they are dropped and leave the change, and outside service the operation stalls (R205, R206). -/
def readChange (failed : List Nat) (c : RunChange) (s : State) : Option (RunChange × State) :=
  let lost := fun m : PageChange => wordState m.old == 2 && wordState m.new < 2 && readFails failed (c.page m.pos) s
  if !c.links.all fun st => linkServes st 5 s then none
  else
    let s := linkUsed c.links 5 s
    let s := (c.moves.filter lost).foldl (fun s m => pageLost (c.page m.pos) s) (leaveOut stTierError c lost s)
    let c := { c with moves := c.moves.filter fun m => !lost m }
    let s := c.copies.foldl (fun s m =>
      { noteHomeRead m.old m.tier s with
        mem.stk := writePage s.mem.stk (slotPlace (wordSlot m.new)) (homeSlice m.old m.tier s) }) s
    match runOf (ctxGeo c.ctx s).tenant c.ctx c.layer c.group c.run c.part s with
    | some i =>
      let tail := c.copies.any fun m => pageStaged (c.page m.pos) s || pageIsTail (c.page m.pos) s
      some ({ c with seen := some (dirEntry i s).data, freezes := tail }, s)
    | none => some ({ c with seen := some 0 }, s)

/-- A flash read of the change has stalled. -/
def stalledOn (c : RunChange) (s : State) : Bool :=
  match s.fsh.stallOp with
  | some (.rehomePage n) => c.pages.contains n
  | _ => false

/-- The page whose flash read stalls a change outside service. -/
def stallsOn (failed : List Nat) (c : RunChange) (s : State) : Option PageName :=
  if inService s || s.cool.flashGated then none
  else (c.copies.find? fun m => wordState m.old == 2 && readFails failed (c.page m.pos) s).map fun m => c.page m.pos

/-- The swap of a change whose pages have been read: a first failed compare reads the entry again for one more try, and a second
one abandons it (03 R71). -/
def swapChange (c : RunChange) (seen : BitVec 48) (s : State) : ChangeEnd :=
  match runOf (ctxGeo c.ctx s).tenant c.ctx c.layer c.group c.run c.part s, takeNode 1 s with
  | none, _ => .over (abandonChange c s)
  | some _, none => .waits c s
  | some i, some s =>
    let e := dirEntry i s
    let x := extent (dataExt e.data) s
    match nodeSwap i seen (changeWords x.words (c.moves.map fun m => (m.pos, m.new)))
        (changeTiers x.tiers (c.moves.map fun m => (m.pos, movedTier m (extTier x m.pos))))
        (dataCount e.data - 1) (dataTail e.data) s with
    | .made s => .over (changeMade c s)
    | .noExtent => .over (abandonChange c s)
    | .changed =>
      let stay := c.moves.filter fun m => m.applies x
      if c.retried || stay.isEmpty then .over (abandonChange c s)
      else .waits { c with moves := stay, seen := some e.data, retried := true } (leaveOut stPageAbsent c (fun m => !m.applies x) s)

/-- One attempt at a change. -/
def tryChange (failed : List Nat) (c : RunChange) (s : State) : ChangeEnd :=
  match c.seen with
  | some d => if c.moves.isEmpty then .over s else swapChange c d s
  | none =>
    if stalledOn c s then .waits c s
    else match stallsOn failed c s with
    | some n => .waits c (stallTier (.rehomePage n) 1 s)
    | none =>
      match readChange failed c s with
      | none => .waits c s
      | some (c, s) =>
        match c.seen with
        | some d => if c.moves.isEmpty then .over s else swapChange c d s
        | none => .waits c s

/-- The changes under way that `mine` holds of are tried, oldest first. -/
def driveChanges (mine : RunChange → Bool) (failed : List Nat) (s : State) : State :=
  (s.res.changes.filter mine).foldl (fun s c =>
    let s := { s with res.changes := s.res.changes.filter (· != c) }
    match tryChange failed c s with
    | .over s => s
    | .waits c s => { s with res.changes := s.res.changes ++ [c] }) s

/-- A change is taken up, and tried at once. -/
def startChange (c : RunChange) (s : State) : State :=
  if c.moves.isEmpty then s
  else driveChanges (· == c) [] { s with res.changes := s.res.changes ++ [c] }

/-- The changes that serve a function's command are tried. -/
def driveOwn (f : Nat) (failed : List Nat) (s : State) : State := driveChanges (fun c => c.fn == some f) failed s
def drivesOwn (f : Nat) (s : State) : Bool := s.res.changes.any fun c => c.fn == some f

/-! ### Tiles (R185, R186) -/

/-- The tile keys of a partition's quota on a stack: first key and count. -/
def tileRange (p st : Nat) (s : State) : Nat × Nat :=
  let q := (partRec p s).gs.getD st {}
  (st * tilesPerStack + q.tileFirst * 64, q.tileCount * 64)

def tilesTaken (p st : Nat) (s : State) : List Nat :=
  let r := tileRange p st s
  (s.res.tiles.filter fun t => r.1 ≤ t.1 && t.1 < r.1 + r.2).map (·.1)

/-- A tile is reserved for each page; the reads have not issued. -/
def reserveTiles (p st first last : Nat) : List PageName → State → List Nat × State
  | [], s => ([], s)
  | n :: t, s =>
    let taken := tilesTaken p st s
    let k := pick ((tileRange p st s).2 - taken.length) s
    let key := nthFree taken ((tileRange p st s).1 + k.1)
    let tile : Tile := { page := n, part := p, stands := false, stoodAt := 0, firstPass := first, lastPass := last }
    let all := (k.2.res.tiles.filter fun x => x.1 < key) ++ [(key, tile)] ++ k.2.res.tiles.filter fun x => key < x.1
    let r := reserveTiles p st first last t { k.2 with res.tiles := all }
    (key :: r.1, r.2)

/-- The tile of a page on a stack. -/
def tileOn (n : PageName) (st : Nat) (s : State) : Option (Nat × Tile) :=
  s.res.tiles.find? fun t => t.2.page == n && t.1 / tilesPerStack == st

def execStageState (f : Nat) (s : State) : State :=
  runNamed f 5 false [(0x10, 32), (0x18, 64), (0x20, 64)] (fun c _ => [(6 ≤ c.arg 0x10 4, 6)])
    (fun c n s =>
      let st := c.arg 0x10 4
      let last := c.arg 0x20 8
      let names := n.pages.map n.at_
      let inTile := fun x => wordState (wordOf x s) == 1 || wordState (wordOf x s) == 2
      let have_ := names.filter fun x => inTile x && (tileOn x st s).isSome
      let need := names.filter fun x => inTile x && (tileOn x st s).isNone
      let home := names.filter fun x => wordState (wordOf x s) == 0
      let codes := (names.filter fun x => 3 ≤ wordState (wordOf x s)).map fun x => absentStatus (wordState (wordOf x s))
      if (tileRange c.part st s).2 - (tilesTaken c.part st s).length < need.length then endCmd c stPageAbsent 0 0 s
      else
        let later := fun t : Nat × Tile =>
          if have_.contains t.2.page && t.1 / tilesPerStack == st then (t.1, { t.2 with lastPass := max t.2.lastPass last }) else t
        let s := { s with res.tiles := s.res.tiles.map later }
        let r := reserveTiles c.part st (c.arg 0x18 8) last need s
        startOp c r.1 [] (home.length + have_.length) codes r.2) s

/-- The staging read of a tile has issued and its last byte is not written. -/
def tilePending (key : Nat) (s : State) : Option Tile :=
  match s.res.tiles.find? fun t => t.1 == key with
  | some (_, t) => if !t.stands && t.issuedAt.isSome && s.fsh.stallOp != some (.tile key) then some t else none
  | none => none

/-- The tile's bytes are written and it stands; an earlier tile of its page on another stack is freed. -/
def tileStood (key : Nat) (t : Tile) (s : State) : State :=
  let sl := homeSlice (wordOf t.page s) (tierOf t.page s) s
  let s := noteHomeRead (wordOf t.page s) (tierOf t.page s) s
  let keep := s.res.tiles.filter fun x => x.1 == key || x.2.page != t.page
  let s := { s with
    mem.stk := writePage s.mem.stk (tilePlace key) sl
    res.tiles := replaceWhere (fun x => x.1 == key) (fun _ => (key, { t with stands := true, stoodAt := strokeCount s })) keep }
  tileProgress key none s

/-- Requests that planned a tile lose its page with ST_TIER_ERROR (R205): those dispatched to it, and those admitted for its layer and
group whose lookups are under way. -/
def dropPlanned (key : Nat) (n : PageName) (s : State) : State :=
  let looks := fun r : Req => r.phase == .lookups && r.hdr.ctx == n.ctx && r.hdr.layer == n.layer && r.hdr.group == n.group
  let s := { s with sch.reqs := replaceWhere looks (fun r => { r with tierLost := r.tierLost ++ [n.page] }) s.sch.reqs }
  (s.sch.reqs.filter fun r => r.phase == .dispatched || r.phase == .answered).foldl (fun s r =>
    (s.gravers.map (·.1)).foldl (fun s g => dropPages (fun p => p.tile && p.home == key) stTierError r g s) s) s

/-- A staging read ends in failure. -/
def stageFails (key : Nat) (t : Tile) (s : State) : State :=
  pageLost t.page (tileProgress key (some stTierError) (freeTile key (dropPlanned key t.page s)))

/-- The staging read of a tile's page from flash fails after its soft-decision re-reads (R204): in service the page is lost, and
outside the step stalls. -/
def stageReadFails (key : Nat) (t : Tile) (s : State) : State :=
  if inService s || s.cool.flashGated then stageFails key t s else stallTier (.tile key) 1 s

/-- TILE_STANDS: the last byte of a staged page is written; `corrected` are codewords that were corrected, with their bits. -/
def execTileStandsState (st tile : Nat) (corrected : List (Nat × Nat)) (s : State) : State :=
  let key := st * tilesPerStack + tile
  match tilePending key s with
  | none => s
  | some t =>
    if wordState (wordOf t.page s) = 2 then
      if readFails [] t.page s then stageReadFails key t s
      else tileStood key t (noteCorrected (field (tierOf t.page s) 0 29) corrected s)
    else if tileServes t s then tileStood key t s
    else tileProgress key (leftCode t.page s) (freeTile key s)

def execStageReadFailedState (st tile : Nat) (s : State) : State :=
  let key := st * tilesPerStack + tile
  match tilePending key s with
  | none => s
  | some t => if wordState (wordOf t.page s) ≠ 2 then s else stageReadFails key t s

/-- TILE_FREE: at the end of its last pass of use, or when its page has left STATE 1 and 2. -/
def execTileFreeState (st tile : Nat) (s : State) : State :=
  let key := st * tilesPerStack + tile
  match s.res.tiles.find? fun t => t.1 == key with
  | none => s
  | some (_, t) =>
    if t.lastPass < passNow s || !tileServes t s then
      tileProgress key (if tileServes t s then some stPageAbsent else leftCode t.page s) (freeTile key s)
    else s

/-! ### REHOME (R182, R183) -/

/-- The runs of names, in order. -/
def runsOf (ns : List PageName) : List (List PageName) :=
  (once (ns.map fun n => n.page / 64)).map fun r => ns.filter fun n => n.page / 64 == r

/-- The move of a page to a new page word. -/
def moveTo (n : PageName) (new : Nat) (full : Bool) (s : State) : PageChange := ⟨n.page % 64, wordOf n s, tierOf n s, new, full⟩

/-- A slot on a stack is reserved for each page. -/
def reserveSlots (p st : Nat) : List PageName → State → List PageChange × State
  | [], s => ([], s)
  | n :: t, s =>
    match takeSlot p st s with
    | some (slot, s') => let r := reserveSlots p st t s'; (moveTo n (pageWord 0 slot) false s :: r.1, r.2)
    | none => ([], s)

/-- The pages of one run start to move to a stack: slots are reserved and one node swap is taken up. -/
def rehomeRun (p st f : Nat) (s : State) (ns : List PageName) : State :=
  match ns with
  | [] => s
  | n :: _ =>
    let r := reserveSlots p st ns s
    { r.2 with res.changes := r.2.res.changes ++
        [{ part := p, ctx := n.ctx, layer := n.layer, group := n.group, run := n.page / 64 * 64, moves := r.1, fn := some f, home := none }] }

/-- REHOME starts, or goes on with the swaps it waits for. A page that stands on the target already counts as done, and takes no slot
(DESIGN CHOICE, notes/assumptions/22.md). -/
def execRehomeState (f : Nat) (failed : List Nat) (s : State) : State :=
  if drivesOwn f s then driveOwn f failed s
  else runNamed f 6 false [(0x10, 32)] (fun c _ => [(6 ≤ c.arg 0x10 4, 6)])
    (fun c n s =>
      let st := c.arg 0x10 4
      let names := n.pages.map n.at_
      let state := fun x => wordState (wordOf x s)
      let there := names.filter fun x => state x == 0 && slotStack (wordSlot (wordOf x s)) == st
      let all := names.filter fun x => state x < 3 && !there.contains x
      let codes := (names.filter fun x => 3 ≤ state x).map fun x => absentStatus (state x)
      if poolCount c.part st s < all.length then endCmd c stPageAbsent 0 0 s
      else driveOwn f failed (startOp c [] all there.length codes ((runsOf all).foldl (rehomeRun c.part st f) s))) s

/-! ### Relieving a home: what EVICT and the scraper share (R190 to R192) -/

/-- What becomes of a unit's pages. -/
structure Relief where
  moves : List PageChange := []
  /-- pages whose programs have started -/
  waits : List PageName := []
  codes : List Nat := []
  doneCount : Nat := 0
  /-- a spill must wait for its stack's link -/
  early : Bool := false
  deriving DecidableEq, Repr

/-- A vault stack with a zeroed slot of the partition. -/
def vaultStack (p : Nat) (s : State) : Option (Nat × State) :=
  let l := [6, 7].filter fun st => 0 < poolCount p st s
  match l with
  | [] => none
  | a :: _ =>
    let k := pick l.length s
    some (l.getD k.1 a, k.2)

/-- A page goes to the vault; none when its pool is empty. -/
def toVault (p : Nat) (n : PageName) (r : Relief) (s : State) : Option (Relief × State) :=
  match vaultStack p s with
  | none => none
  | some (st, s) =>
    (takeSlot p st s).map fun x => ({ r with moves := r.moves ++ [moveTo n (pageWord 1 x.1) false s] }, x.2)

/-- A page goes to flash: at once with a clean tier copy, otherwise once its program succeeds, whose read takes its stack's link
(USE 3). None when the tier cannot take it. -/
def toFlash (p : Nat) (n : PageName) (fn : Option Nat) (r : Relief) (s : State) : Option (Relief × State) :=
  let t := tierOf n s
  let st := slotStack (wordSlot (wordOf n s))
  if bit t 29 && !bit t 30 then some ({ r with moves := r.moves ++ [moveTo n (pageWord 2 0) false s] }, s)
  else if programming n s then
    let join := fun x : TierProgram => { x with spill := true, fn := if fn.isSome then fn else x.fn }
    some ({ r with waits := r.waits ++ [n] },
      { s with res.programs := replaceWhere (fun x => x.page == n) join s.res.programs })
  else if !linkServes st 3 s then some ({ r with early := true }, s)
  else (startProgram n p true fn s).map fun s => ({ r with waits := r.waits ++ [n] }, linkUsed [st] 3 s)

/-- A page is dropped; `full` where the tier should have taken it. -/
def toNowhere (n : PageName) (full : Bool) (r : Relief) (s : State) : Relief :=
  { r with moves := r.moves ++ [moveTo n (pageWord 3 0) full s] }

/-- The one node swap of a unit. -/
def reliefChange (p : Nat) (n : PageName) (fn home : Option Nat) (r : Relief) : RunChange :=
  { part := p, ctx := n.ctx, layer := n.layer, group := n.group, run := n.page / 64 * 64, moves := r.moves, fn, home }

/-! ### EVICT (R182) -/

/-- One page of an EVICT with its target: 0 vault, 1 flash, 2 drop. A page that stands in the target already counts as done. -/
def evictPage (p target : Nat) (fn : Nat) (acc : Relief × State) (n : PageName) : Relief × State :=
  let r := acc.1
  let s := acc.2
  let st := wordState (wordOf n s)
  let own := ({ r with codes := r.codes ++ [absentStatus st] }, s)
  let done := ({ r with doneCount := r.doneCount + 1 }, s)
  if st = 5 || 5 < st then own
  else if target = 2 then (if st = 3 then done else (toNowhere n false r s, s))
  else if 3 ≤ st then own
  else if target = 0 then
    (if st ≠ 0 then done
     else (toVault p n r s).getD ({ r with codes := r.codes ++ [stPageAbsent] }, s))
  else
    (if st = 2 then done
     else (toFlash p n (some fn) r s).getD ({ r with codes := r.codes ++ [stTierError] }, s))

/-- The chunks a command's pages fall into. -/
def chunksOf (n : Named) : List Named :=
  (once (n.pages.map (· / 32))).map fun q =>
    let ps := n.pages.filter fun p => p / 32 == q
    { n with first := ps.headD 0, count := ps.length }

/-- One unit of an EVICT: what has become of its pages joins what became of those before it. -/
def evictUnit (p target fn : Nat) (acc : List RunChange × Relief × State) (n : Named) : List RunChange × Relief × State :=
  let r := (n.pages.map n.at_).foldl (evictPage p target fn) (({} : Relief), acc.2.2)
  let all := acc.2.1
  let c := reliefChange p (n.at_ n.first) (some fn) none r.1
  (if c.moves.isEmpty then acc.1 else acc.1 ++ [c],
    { moves := [], waits := all.waits ++ r.1.waits ++ c.pages, codes := all.codes ++ r.1.codes
      doneCount := all.doneCount + r.1.doneCount, early := all.early || r.1.early }, r.2)

/-- EVICT starts once the links serve its spills, or goes on with the swaps it waits for. -/
def execEvictState (f : Nat) (s : State) : State :=
  if drivesOwn f s then driveOwn f [] s
  else runNamed f 7 true [(0x10, 32)]
    (fun c s =>
      let n := namedPages c
      let t := tenantRec c.tenant s
      let target := c.arg 0x10 4
      [((target = 0 && !t.vault) || (target = 1 && !t.spill), 4),
       ((n.pages.map n.at_).any fun x => pageStaged x s || pageIsTail x s, 4), (3 ≤ target, 6)])
    (fun c n s' =>
      let r := (chunksOf n).foldl (evictUnit c.part (c.arg 0x10 4) f) ([], {}, s')
      if r.2.1.early then s
      else
        driveOwn f [] (startOp c [] r.2.1.waits r.2.1.doneCount r.2.1.codes { r.2.2 with res.changes := r.2.2.res.changes ++ r.1 })) s

/-! ### WRITE_BACK (R194) -/

/-- The page may be written back as far as its fullness goes. -/
def wbAllowed (tenant : Nat) (n : PageName) (s : State) : Bool :=
  (tenantRec tenant s).wbTail || (pageFull n s && !pageIsTail n s)

/-- One page of a WRITE_BACK. -/
def writeBackPage (p tenant fn : Nat) (acc : Relief × State) (n : PageName) : Relief × State :=
  let r := acc.1
  let s := acc.2
  let st := wordState (wordOf n s)
  let t := tierOf n s
  let stack := slotStack (wordSlot (wordOf n s))
  if 3 ≤ st then ({ r with codes := r.codes ++ [absentStatus st] }, s)
  else if st = 2 ∨ (bit t 29 ∧ !bit t 30) then ({ r with doneCount := r.doneCount + 1 }, s)
  else if !wbAllowed tenant n s then ({ r with codes := r.codes ++ [stPageAbsent] }, s)
  else if programming n s then ({ r with waits := r.waits ++ [n] }, s)
  else if !linkServes stack 3 s then ({ r with early := true }, s)
  else match startProgram n p false (some fn) s with
    | some s => ({ r with waits := r.waits ++ [n] }, linkUsed [stack] 3 s)
    | none => ({ r with codes := r.codes ++ [stTierError] }, s)

/-- WRITE_BACK starts once the links serve the reads of its programs. -/
def execWriteBackState (f : Nat) (s : State) : State :=
  runNamed f 8 false [] (fun c s => [(!(tenantRec c.tenant s).spill, 4)])
    (fun c n s' =>
      let r := (n.pages.map n.at_).foldl (writeBackPage c.part c.tenant f) (({} : Relief), s')
      if r.1.early then s else startOp c [] r.1.waits r.1.doneCount r.1.codes r.2) s

/-! ### Programs end (R190, R191, R194) -/

/-- The home that an eviction of a page relieves: its graver stack, or the vault. -/
def homeOf (w : Nat) : Nat := min 6 (slotStack (wordSlot w))

/-- A program fails with no replacement block, or finds its channels at their reserve: a spill of the scraper drops its page, and
an operation reports ST_TIER_ERROR (R182, R191, R205). -/
def programFails (pr : TierProgram) (s : State) : State :=
  let s := { s with res.programs := s.res.programs.filter fun x => x.page != pr.page }
  let n := pr.page
  let w := wordOf n s
  let c := reliefChange pr.part n none (some (homeOf w)) (toNowhere n true {} s)
  let s := if pr.spill && pr.fn.isNone && wordState w < 2 && evictable n s then startChange c s else s
  postDrops (pageProgress n (some stTierError) s)

/-- A program succeeds: its bytes stand under the TLPN and the tier word says so. A spill becomes STATE 2, by a swap that compares
the entry with what the program read, unless rows came to the page since or it may not be evicted any more (R47). A page that has
left STATE 0 and 1 keeps nothing of it. -/
def programOk (rewrite : Bool) (pr : TierProgram) (s : State) : State :=
  let n := pr.page
  let out := { s with res.programs := s.res.programs.filter fun x => x.page != n }
  match pageOf n.ctx n.layer n.group n.page s with
  | none => postDrops (pageProgress n (some stPageAbsent) out)
  | some (i, w) =>
    if 2 ≤ wordState w then postDrops (pageProgress n (some (absentStatus (wordState w))) out)
    else match writeTier rewrite pr.part pr.tlpn pr.bytes out with
      | none => programFails pr s
      | some s =>
        let x := dataExt (dirEntry i s).data
        let t := pr.tlpn + 2 ^ 29 + if pr.touched then 2 ^ 30 else 0
        let s := setExtent x { extent x s with tiers := put 0 (extent x s).tiers (n.page % 64) t } s
        if !pr.spill then pageProgress n none s
        else if pr.touched || !evictable n s then postDrops (pageProgress n (some stPageAbsent) s)
        else
          let c := reliefChange pr.part n pr.fn (if pr.fn.isNone then some (homeOf w) else none) { moves := [moveTo n (pageWord 2 0) false s] }
          startChange { c with seen := some pr.seen } s

/-- TIER_PROGRAM_DONE: the program of a page ends; `failed` are channels on which a codeword's program failed. A block that fails is
retired, and its codeword is rewritten elsewhere (R204). -/
def execTierProgramDoneState (index : Nat) (failed : List Nat) (s : State) : State :=
  match s.res.programs[index]? with
  | none => s
  | some pr =>
    let bad := once (failed.filter fun c => (tlpnChannels pr.tlpn).contains c)
    if s.fsh.stallOp = some (.program pr.page) then s
    else if s.cool.flashGated then programFails pr s
    else
      let s := bad.foldl retireOpen s
      if (placeTlpn (!bad.isEmpty) pr.tlpn s).isSome then programOk (!bad.isEmpty) pr s
      else if inService s then programFails pr s
      else stallTier (.program pr.page) 4 s

/-! ### The commands -/

def execContextWrite (f : Nat) (s : State) : Host.Outcome State Fault Refusal := .next (execContextWriteState f s)
def execExtentGet (f : Nat) (s : State) : Host.Outcome State Fault Refusal := .next (execExtentGetState f s)
def execExtentWrite (f : Nat) (s : State) : Host.Outcome State Fault Refusal := .next (execExtentWriteState f s)
def execExtentPut (f : Nat) (s : State) : Host.Outcome State Fault Refusal := .next (execExtentPutState f s)
def execStage (f : Nat) (s : State) : Host.Outcome State Fault Refusal := .next (execStageState f s)
def execTileStands (st tile : Nat) (corrected : List (Nat × Nat)) (s : State) : Host.Outcome State Fault Refusal :=
  .next (execTileStandsState st tile corrected s)
def execStageReadFailed (st tile : Nat) (s : State) : Host.Outcome State Fault Refusal :=
  .next (execStageReadFailedState st tile s)
def execTileFree (st tile : Nat) (s : State) : Host.Outcome State Fault Refusal := .next (execTileFreeState st tile s)
def execRehome (f : Nat) (failed : List Nat) (s : State) : Host.Outcome State Fault Refusal := .next (execRehomeState f failed s)
def execEvict (f : Nat) (s : State) : Host.Outcome State Fault Refusal := .next (execEvictState f s)
def execWriteBack (f : Nat) (s : State) : Host.Outcome State Fault Refusal := .next (execWriteBackState f s)
def execTierProgramDone (index : Nat) (failed : List Nat) (s : State) : Host.Outcome State Fault Refusal :=
  .next (execTierProgramDoneState index failed s)

end Sys2Proof.Machine
end

