-- ==== Sys2Proof/Machine/Moves.lean ====
section
/-! DEFINITION. Pages that come and go whole (07_residency_and_tiers.md R183, R195 to R200): MOVE and EXPORT received, PAGE_WRITE,
MOVE_OUT and EXPORT_OUT with their completions. -/

namespace Sys2Proof.Machine

/-! ### Header and payload (R195, R196) -/

structure MoveHdr where
  tag : Nat
  ctx : Nat
  layer : Nat
  group : Nat
  tail : Bool
  page : Nat
  rows : Nat
  slot : Nat
  /-- a reserved field is set -/
  reserved : Bool
  deriving DecidableEq, Repr

def moveHdr (b : List Byte) : MoveHdr :=
  { tag := u b 0 8, ctx := field (u b 8 4) 0 21, layer := field (u b 0xC 2) 0 9, group := u b 0xE 1,
    tail := bit (u b 0xF 1) 0, page := field (u b 0x10 4) 0 17, rows := u b 0x14 1, slot := u b 0x16 2,
    reserved := u b 8 4 / 2 ^ 21 != 0 || u b 0xC 2 / 2 ^ 9 != 0 || u b 0xF 1 / 2 != 0 || u b 0x10 4 / 2 ^ 17 != 0 ||
      u b 0x15 1 != 0 || !zeroes (sub b 0x18 8) }

/-- The header's 32 bytes. -/
def MoveHdr.bytes (h : MoveHdr) : List Byte :=
  leBytes 8 h.tag ++ leBytes 4 h.ctx ++ leBytes 2 h.layer ++ leBytes 1 h.group ++ leBytes 1 (b2n h.tail) ++
    leBytes 4 h.page ++ leBytes 1 h.rows ++ leBytes 1 0 ++ leBytes 2 h.slot ++ leBytes 8 0

/-- Bytes of one data part, and of one scale part. -/
def Geo.dataPart (g : Geo) : Nat := g.h * 128 * g.bytes g.d
def Geo.scalePart (g : Geo) : Nat := g.h * 128 * (g.d / 32)
def Geo.payload (g : Geo) : Nat := 2 * g.dataPart + 2 * g.scalePart

/-- The four parts of a page: offset in the page, and length. -/
def Geo.parts (g : Geo) : List (Nat × Nat) :=
  [(0, g.dataPart), (0x8000, g.dataPart), (65536, g.scalePart), (65536 + 0x800, g.scalePart)]

/-- The used bytes of a page whose bytes stand at 0. -/
def pagePayload (g : Geo) (m : Mem) : List Byte := g.parts.flatMap fun x => memRead m x.1 x.2

/-- A payload as the bytes of a page at 0. -/
def payloadPage (g : Geo) (b : List Byte) : Mem :=
  (g.parts.foldl (fun (acc : Mem × List Byte) x => (memWrite acc.1 x.1 (acc.2.take x.2), acc.2.drop x.2))
    (([] : Mem), b)).1

/-- An invalid encoding stands in a payload (02_kv_pages.md R49). -/
def payloadBad (g : Geo) (b : List Byte) : Bool :=
  elemsBad g.fmt (2 * g.dataPart) b || scalesBad ((b.drop (2 * g.dataPart)).take (2 * g.scalePart))

/-- A byte of a row at or above ROWS is not zero. -/
def rowsNotZero (g : Geo) (rows : Nat) (b : List Byte) : Bool :=
  let m := payloadPage g b
  (List.range g.h).any fun j => (List.range (128 - rows)).any fun i =>
    let r := rows + i
    [rowOff g false j r, rowOff g true j r].any (fun a => !zeroes (memRead m a (g.bytes g.d))) ||
      [scaleOff g false j r, scaleOff g true j r].any fun a => !zeroes (memRead m a (g.d / 32))

/-! ### An incoming page (R197, R198) -/

/-- The checks on rows, the page's state and the tail: steps 4, 5 and 6. -/
def moveRowsBad (g : Geo) (h : MoveHdr) (payload : List Byte) : Bool :=
  h.rows = 0 || 128 < h.rows || (!h.tail && h.rows != 128) || maxTokens < h.page * 128 + h.rows || rowsNotZero g h.rows payload

def moveStateBad (h : MoveHdr) (s : State) : Bool :=
  wordState (wordOf ⟨h.ctx, h.layer, h.group, h.page⟩ s) < 3 || (h.tail && stagedMark h.ctx h.layer h.group s != 0)

/-- Steps 1 to 6 fail for a MOVE or EXPORT body. -/
def moveFails (tenant : Nat) (isExport : Bool) (b : List Byte) (s : State) : Bool :=
  let h := moveHdr b
  let g := ctxGeo h.ctx s
  b.length < 32 || h.reserved || (isExport && h.slot != 0xFFFF) || namesFail tenant h.ctx h.layer h.group s ||
    b.length != 32 + g.payload || 69664 < b.length || payloadBad g (b.drop 32) || moveRowsBad g h (b.drop 32) ||
    moveStateBad h s

/-- The page is stored in a slot of the pool, its run created or swapped; TAIL sets S (R180, R197, R198). -/
def placePage (h : MoveHdr) (payload : List Byte) (s : State) : Except Bool State :=
  let g := ctxGeo h.ctx s
  match newPageStack g.part h.ctx h.layer h.group h.page s with
  | none => .error false
  | some st =>
    match takeSlot g.part st s with
    | none => .error false
    | some (slot, s) =>
      match setRunPages h.ctx h.layer h.group (h.page / 64 * 64) [(h.page % 64, pageWord 0 slot)] [(h.page % 64, 0)] s with
      | none => .error true
      | some s =>
        let k := stagedKey h.ctx h.layer h.group
        let s := { s with
          mem.stk := writePage s.mem.stk (slotPlace slot) (payloadPage g payload)
          res.staged := if h.tail then put 0 s.res.staged k (h.page * 128 + h.rows) else s.res.staged }
        .ok (placeTail h.ctx h.layer h.group s)

/-- An incoming page that passed its checks ends with a status; none while it waits for links or issue cycles. -/
def takePage (bestEffort : Bool) (h : MoveHdr) (payload : List Byte) (s : State) : Option Nat × State :=
  match writeWhen bestEffort h.ctx h.layer h.group [h.page] [h.page] (placePage h payload) s with
  | .stored s => (some stOk, s)
  | .refused create => (some stPageAbsent, refusedWrite create s)
  | .waits s => (none, s)

/-- The status that refuses a MOVE or EXPORT; ST_OK when it passes. -/
def moveStatus (part tenant : Nat) (isExport : Bool) (b : List Byte) (s : State) : Nat :=
  combine <|
    codeIf (moveFails tenant isExport b s) stMalformed ++
    codeIf (s.pwr.hold || scrubPending part tenant s) stFenced ++
    codeIf (s.res.ctxUe.contains (moveHdr b).ctx) stUncorrectable

/-- A payload whose context is open holds an invalid encoding (R49). -/
def moveIngestBad (b : List Byte) (s : State) : Bool :=
  let g := ctxGeo (moveHdr b).ctx s
  g.isOpen && payloadBad g (b.drop 32)

/-- A MOVE or EXPORT is admitted and answered, or waits for links or issue cycles. -/
def admitMove (isExport : Bool) (m : InMsg) (s : State) : State :=
  let h := moveHdr m.body
  let part := (connRec m.conn s).part
  let tenant := (connRec m.conn s).tenant
  let st := moveStatus part tenant isExport m.body s
  let r := if st ≠ stOk then (some st, s) else takePage (writeTurn m s == .bestEffort) h (m.body.drop 32) s
  match r with
  | (none, s) => s
  | (some st, t) =>
    let t := takeWrite m t
    let t := if moveIngestBad m.body s then countEvent cIngestReject (unitConn m.conn) t else t
    let t := if moveFails tenant isExport m.body s then countEvent cMoveRefused unitNode t else t
    sendCompletion m.conn m.typ h.tag st 0 t

def execMoveState (c : Nat) (s : State) : State :=
  match nextWrite c tMove s with
  | some m => admitMove false m s
  | none => s

def execExportState (c : Nat) (s : State) : State :=
  match nextWrite c tExport s with
  | some m => admitMove true m s
  | none => s

/-- The page a PAGE_WRITE brings. -/
def pageWriteHdr (c : Cmd) : MoveHdr :=
  let n := namedPages c
  { tag := 0, ctx := n.ctx, layer := n.layer, group := n.group, tail := bit (c.arg 0x21 1) 0, page := n.first,
    rows := c.arg 0x20 1, slot := 0xFFFF, reserved := false }

/-- The payload of a PAGE_WRITE, in host memory. -/
def pageWritePayload (c : Cmd) (s : State) : List Byte := memRead s.mem.host (c.arg 0x18 8) (ctxGeo (namedPages c).ctx s).payload

/-- The payload of a PAGE_WRITE whose context is open holds an invalid encoding: it counts whatever else refuses the command
(R49). -/
def pageWriteBad (c : Cmd) (s : State) : Bool :=
  let g := ctxGeo (namedPages c).ctx s
  g.isOpen && payloadBad g (pageWritePayload c s)

def pageWriteFields : List (Nat × Nat) := pageFields ++ [(0x18, 64), (0x20, 8), (0x21, 1)]

/-- What refuses a PAGE_WRITE as R196 and R197 refuse a MOVE. -/
def pageWriteReasons (c : Cmd) (s : State) : List (Bool × Nat) :=
  let h := pageWriteHdr c
  [(namesFail c.tenant h.ctx h.layer h.group s || moveStateBad h s, 4),
   (pageWriteBad c s || moveRowsBad (ctxGeo h.ctx s) h (pageWritePayload c s), 6)]

/-- A PAGE_WRITE that its queue has come to counts bad KV (R49) and a refusal. -/
def pageWriteCounts (f : Nat) (s : State) : State :=
  match hostCmd f 1 0x0B s with
  | none => s
  | some c =>
    if resBusy f s then s
    else
      let t := if pageWriteBad c s then countEvent cIngestReject unitNode s else s
      if (cmdReason c pageWriteFields s).isNone && (namedPages c).count == 1 && (lowestReason (pageWriteReasons c s)).isSome then
        countEvent cMoveRefused unitNode t
      else t

/-- PAGE_WRITE (R182): one page from host memory, as an incoming MOVE. -/
def execPageWriteState (f : Nat) (s : State) : State :=
  runRes f 0x0B false pageWriteFields
    (fun c s => lowestReason (((namedPages c).count != 1, 6) :: pageWriteReasons c s))
    (fun c s =>
      let h := pageWriteHdr c
      if s.res.ctxUe.contains h.ctx then endCmd c stUncorrectable 0 0 s
      else match takePage false h (pageWritePayload c s) s with
        | (some st, s) => endCmd c st 0 0 s
        | (none, s) => s) (pageWriteCounts f s)

/-! ### MOVE_OUT (R199) -/

/-- Class of the MOVE and EXPORT messages the node sends (notes/assumptions/27.md). -/
abbrev moveClass : Nat := 1

/-- The rows of a page on this node: 128, or those below S in the tail page. -/
def rowsOf (n : PageName) (s : State) : Nat :=
  if pageIsTail n s then min 128 (stagedMark n.ctx n.layer n.group s - 128 * n.page) else 128

/-- The body that carries a page. -/
def moveBody (tag : Nat) (n : PageName) (s : State) : List Byte :=
  let h : MoveHdr := { tag, ctx := n.ctx, layer := n.layer, group := n.group, tail := pageIsTail n s, page := n.page
                       rows := rowsOf n s, slot := 0xFFFF, reserved := false }
  h.bytes ++ pagePayload (ctxGeo n.ctx s) (homeSlice (wordOf n s) (tierOf n s) s)

/-- One page is sent under the next TAG; a connection that refuses it gives the page its status (12_transport.md R321). -/
def sendPage (m : MoveOut) (n : PageName) (s : State) : MoveOut × State :=
  match sendRefusal m.conn s with
  | some status => ({ m with codes := m.codes ++ [status] }, s)
  | none =>
    let tag := s.tfx.nextTag
    let body := moveBody tag n s
    let s := { s with tfx.nextTag := (tag + 1) % 2 ^ 64 }
    ({ m with waiting := m.waiting ++ [(tag, n)] },
      queueMsg m.conn { typ := if m.isExport then tExport else tMove, cls := moveClass, tag, body, purpose := .moveOut m.fn } s)

/-- The operation's place in State takes its new value; it ends once nothing is left to send or to wait for. -/
def keepMoveOut (m : MoveOut) (s : State) : State :=
  let s := { s with res.moveOuts := (s.res.moveOuts.filter fun x => x.fn != m.fn) ++ [m] }
  if m.unsent.isEmpty && m.waiting.isEmpty then endMoveOut m stOk s else s

/-- The connection a command names is its tenant's own. -/
def connOwned (c : Cmd) (k : Nat) (s : State) : Bool :=
  let r := connRec k s
  r.used && r.tenant == c.tenant && r.part == c.part

/-- Some named page holds a staged row or is the tail page. -/
def copiesTail (n : Named) (s : State) : Bool := (n.pages.map n.at_).any fun x => pageStaged x s || pageIsTail x s

/-- Pages of one pass that exports may take. -/
abbrev exportsPerPass : Nat := 8

/-- The next page of an operation cannot be sent: the operation goes on with a code for it. -/
def skipPage (m : MoveOut) (codes : List Nat) (s : State) : State :=
  keepMoveOut { m with unsent := m.unsent.tail, codes := m.codes ++ codes } s

/-- The next pages of a MOVE_OUT or EXPORT_OUT are read and sent, as far as their links of USE 4 serve them, and for an EXPORT_OUT as
far as the pass allows (R200). A flash read that fails loses the page in service and stalls the operation outside (R205, R206); an
export skips the pages of an assigned partition (14_trust_and_isolation.md R377). The first read of an operation that copies a staged
row or the tail page freezes the layer and group (R183). -/
def sendGo (f : Nat) (failed : List Nat) : Nat → State → State
  | 0, s => s
  | fuel + 1, s =>
    match s.res.moveOuts.find? fun m => m.fn == f with
    | none => s
    | some m =>
      match m.unsent with
      | [] => s
      | n :: rest =>
        let w := wordOf n s
        let st := wordState w
        if m.isExport && assigned m.part s then sendGo f failed fuel (skipPage m [] (countEvent cExportSkip unitNode s))
        else if 3 ≤ st then sendGo f failed fuel (skipPage m [absentStatus st] s)
        else if m.isExport && exportsPerPass ≤ s.res.exportsThisPass then s
        else if st < 2 && !linkServes (slotStack (wordSlot w)) 4 s then s
        else if st = 2 && readFails failed n s then
          if s.cool.flashGated then sendGo f failed fuel (skipPage m [stTierError] s)
          else if inService s then sendGo f failed fuel (skipPage m [stTierError] (pageLost n s))
          else stallTier (.exportPage f) 1 s
        else
          let s := if st < 2 then linkUsed [slotStack (wordSlot w)] 4 s else noteHomeRead w (tierOf n s) s
          let m := { m with unsent := rest, frozen := if m.copiesTail then some (n.ctx, n.layer, n.group) else none }
          let r := sendPage m n s
          let sent := if m.isExport then r.2.res.exportsThisPass + 1 else r.2.res.exportsThisPass
          sendGo f failed fuel (keepMoveOut r.1 { r.2 with res.exportsThisPass := sent })

/-- Pages a command names, and one more turn that ends the operation. -/
abbrev sendFuel : Nat := 65

/-- A MOVE_OUT or EXPORT_OUT of the function has pages to send, and has not stalled. -/
def sending (f : Nat) (isExport : Bool) (s : State) : Bool :=
  s.res.moveOuts.any fun m => m.fn == f && m.isExport == isExport

/-- The operation a command starts. -/
def newMoveOut (isExport : Bool) (c : Cmd) (n : Named) (s : State) : MoveOut :=
  { fn := c.f, part := c.part, conn := field (c.arg 0x10 4) 0 16, release := !isExport && bit (c.arg 0x10 4) 16, isExport
    copiesTail := !isExport && copiesTail n s, unsent := n.pages.map n.at_, waiting := [], doneCount := 0, codes := []
    startedAt := s.time.elapsed, frozen := none }

/-- MOVE_OUT starts, or goes on with its pages. -/
def execMoveOutState (f : Nat) (failed : List Nat) (s : State) : State :=
  if s.fsh.stallOp = some (.exportPage f) then s
  else if sending f false s then sendGo f failed sendFuel s
  else runNamed f 9 false [(0x10, 17)]
    (fun c s =>
      let n := namedPages c
      let release := bit (c.arg 0x10 4) 16
      let reaches := (n.pages.map n.at_).any fun x => pageIsTail x s
      [(!connOwned c (field (c.arg 0x10 4) 0 16) s, 3), (copiesTail n s && !(release && reaches), 4)])
    (fun c n s => sendGo f failed sendFuel { s with res.moveOuts := s.res.moveOuts ++ [newMoveOut false c n s] }) s

/-- A page whose completion carries ST_OK leaves this node: STATE 5, no tile, and with the tail page no S and no TAIL (R199).
None when the swap finds no extent. -/
def releasePage (n : PageName) (s : State) : Option State :=
  match pageOf n.ctx n.layer n.group n.page s with
  | none => some s
  | some (i, _) =>
    let e := dirEntry i s
    let x := extent (dataExt e.data) s
    let tail := pageIsTail n s
    let pos := n.page % 64
    match nodeSwap i e.data (put noneWord x.words pos noneWord) (put 0 x.tiers pos 0) (dataCount e.data - 1)
        (dataTail e.data && !tail) s with
    | .made s =>
      let staged := if tail then put 0 s.res.staged (stagedKey n.ctx n.layer n.group) 0 else s.res.staged
      some (freeGone (placeTail n.ctx n.layer n.group { s with res.staged := staged }))
    | .noExtent | .changed => none

/-- A page of a MOVE_OUT or EXPORT_OUT has ended with a status. -/
def moveEnded (m : MoveOut) (tag status : Nat) (s : State) : State :=
  match m.waiting.find? fun w => w.1 == tag with
  | none => s
  | some (_, n) =>
    let m := { m with waiting := m.waiting.filter fun w => w.1 != tag }
    if status ≠ stOk then keepMoveOut { m with codes := m.codes ++ [status] } s
    else if m.release && !m.isExport then
      match releasePage n s with
      | some s => keepMoveOut { m with doneCount := m.doneCount + 1 } s
      | none => keepMoveOut { m with codes := m.codes ++ [stPageAbsent] } (countEvent cSwapAbandon unitNode s)
    else keepMoveOut { m with doneCount := m.doneCount + 1 } s

/-- The operation of a connection that waits for a TAG. -/
def moveWaiting (k tag : Nat) (s : State) : Option MoveOut :=
  s.res.moveOuts.find? fun m => m.conn == k && m.waiting.any fun w => w.1 == tag

/-- MOVE_OUT_COMPLETION: the completion of a MOVE or EXPORT that this node sent. A page that it releases waits for a node-update
cycle. -/
def execMoveOutCompletionState (c : Nat) (s : State) : State :=
  match s.tfx.inbox.find? fun m => m.conn == c && m.isResp && (m.typ == tMove || m.typ == tExport) with
  | none => s
  | some msg =>
    let status := completionStatus msg.body
    let back := fun (s : State) => returnCredit msg.conn msg.cls msg.body.length (inboxTake msg s)
    let tag := u msg.body 0 8
    match moveWaiting c tag s with
    | some m =>
      if status = stOk && m.release then
        match takeNode 1 s with
        | some s => moveEnded m tag status (back s)
        | none => s
      else moveEnded m tag status (back s)
    | none => back s

/-- MOVE_OUT_TIMEOUT: no completion after 1 ms (R183). -/
def execMoveOutTimeoutState (f : Nat) (s : State) : State :=
  match s.res.moveOuts.find? fun m => m.fn == f && !m.isExport with
  | some m => if m.startedAt + msStrokes ≤ s.time.elapsed then endMoveOut m stTargetDead s else s
  | none => s

/-! ### EXPORT_OUT (R200) -/

/-- EXPORT_OUT starts, or goes on with its pages. -/
def execExportOutState (f : Nat) (failed : List Nat) (s : State) : State :=
  if s.fsh.stallOp = some (.exportPage f) then s
  else if sending f true s then sendGo f failed sendFuel s
  else
    runNamed f 0x0A true [(0x10, 17)]
      (fun c s => [(!connOwned c (field (c.arg 0x10 4) 0 16) s, 3), (!s.pwr.hold, 4)])
      (fun c n s => sendGo f failed sendFuel { s with res.moveOuts := s.res.moveOuts ++ [newMoveOut true c n s] }) s

/-- The page at which an EXPORT_OUT or MOVE_OUT stalled is read after all, or ends with ST_TIER_ERROR. -/
def exportUnstall (f : Nat) (ok : Bool) (s : State) : State :=
  match s.res.moveOuts.find? fun m => m.fn == f with
  | none => s
  | some m => if ok then sendGo f [] sendFuel s else skipPage m [stTierError] s

/-! ### The commands -/

def execMove (c : Nat) (s : State) : Host.Outcome State Fault Refusal := .next (execMoveState c s)
def execExport (c : Nat) (s : State) : Host.Outcome State Fault Refusal := .next (execExportState c s)
def execPageWrite (f : Nat) (s : State) : Host.Outcome State Fault Refusal := .next (execPageWriteState f s)
def execMoveOut (f : Nat) (failed : List Nat) (s : State) : Host.Outcome State Fault Refusal := .next (execMoveOutState f failed s)
def execMoveOutCompletion (c : Nat) (s : State) : Host.Outcome State Fault Refusal := .next (execMoveOutCompletionState c s)
def execMoveOutTimeout (f : Nat) (s : State) : Host.Outcome State Fault Refusal := .next (execMoveOutTimeoutState f s)
def execExportOut (f : Nat) (failed : List Nat) (s : State) : Host.Outcome State Fault Refusal :=
  .next (execExportOutState f failed s)

end Sys2Proof.Machine
end

