-- ==== Sys2Proof/Machine/Stipple.lean ====
section
/-! DEFINITION. The stipple codec (11_fabric_ports.md R300 to R305). A word kind is 0 (not coded), 1 (W32) or 2 (W16). -/

namespace Sys2Proof.Machine

/-- Bytes of a word of a kind, and of its residue. -/
def wordSize (kind : Nat) : Nat := if kind = 2 then 2 else 4
def residueSize (kind : Nat) : Nat := if kind = 2 then 1 else 3

/-- Bits of the mantissa. -/
def mantBits (kind : Nat) : Nat := if kind = 2 then 7 else 23

/-- Exponent and residue of a word: sign above the mantissa (R302). -/
def wordExp (kind w : Nat) : Nat := w / 2 ^ mantBits kind % 256
def wordResidue (kind w : Nat) : Nat := w % 2 ^ mantBits kind + w / 2 ^ (mantBits kind + 8) * 2 ^ mantBits kind
/-- The word of an exponent and a residue. -/
def joinWord (kind e r : Nat) : Nat :=
  r % 2 ^ mantBits kind + e * 2 ^ mantBits kind + r / 2 ^ mantBits kind * 2 ^ (mantBits kind + 8)

/-- Cut bytes into pieces of `n`, over at most `fuel` pieces. -/
def cut (n : Nat) : Nat → List Byte → List (List Byte)
  | 0, _ => []
  | fuel + 1, bs => if bs.isEmpty then [] else bs.take n :: cut n fuel (bs.drop n)

def pieces_ (n : Nat) (bs : List Byte) : List (List Byte) := cut n bs.length bs

/-- CRC-16 of a block: polynomial 0x1021, initial value 0xFFFF, no reflection (R301). -/
def crc16Bits : Nat → Nat → Nat
  | 0, c => c
  | n + 1, c => crc16Bits n (if c / 32768 % 2 = 1 then (c * 2 % 65536) ^^^ 0x1021 else c * 2 % 65536)
def crc16 (bs : List Byte) : Nat := bs.foldl (fun c b => crc16Bits 8 (c ^^^ (b.toNat * 256))) 0xFFFF

/-- Insertion into a list of (count, exponent), by count descending, then exponent ascending. -/
def insertCount (x : Nat × Nat) : List (Nat × Nat) → List (Nat × Nat)
  | [] => [x]
  | y :: t => if y.1 < x.1 || (y.1 == x.1 && x.2 < y.2) then x :: y :: t else y :: insertCount x t

/-- The dictionary: at most 16 exponents of the non-zero words (R304). -/
def dictOf (exps : List Nat) : List Nat :=
  let counts := (once exps).map fun e => ((exps.filter (· == e)).length, e)
  ((counts.foldr insertCount []).take 16).map (·.2)

/-- One symbol with its bits: (value, width) (R303). -/
def symbolBits (dict : List Nat) (e : Nat) : Nat × Nat :=
  match dict.findIdx? (· == e) with
  | some i => (i, 5)
  | none => (16 + e * 32, 13)

/-- The symbols of a block's words; `run` counts the zero words of the run in progress. -/
def symbolsOf (kind : Nat) (dict : List Nat) : List Nat → Nat → List (Nat × Nat)
  | [], run => if run = 0 then [] else [(17 + (run - 1) * 32, 13)]
  | w :: t, run =>
    if w = 0 then
      if run = 255 then (17 + 255 * 32, 13) :: symbolsOf kind dict t 0 else symbolsOf kind dict t (run + 1)
    else
      (if run = 0 then [] else [(17 + (run - 1) * 32, 13)]) ++ symbolBits dict (wordExp kind w) :: symbolsOf kind dict t 0

/-- Fields packed from bit 0 upwards: their value and their width. -/
def packBits (xs : List (Nat × Nat)) : Nat × Nat :=
  xs.foldr (fun x acc => (x.1 + acc.1 * 2 ^ x.2, x.2 + acc.2)) (0, 0)

/-- The coded payload of a block (R302). -/
def codedPayload (kind : Nat) (ws : List Nat) (dict : List Nat) : List Byte :=
  let p := packBits (symbolsOf kind dict ws 0)
  asBytes dict ++ leBytes (ceilDiv p.2 8) p.1 ++
    (ws.filter (· != 0)).flatMap fun w => leBytes (residueSize kind) (wordResidue kind w)

/-- A block header (R301). -/
def blockHeader (mode ndict rawLen codedLen check : Nat) : List Byte :=
  leBytes 1 (mode + ndict * 4) ++ [0] ++ leBytes 2 rawLen ++ leBytes 2 codedLen ++ leBytes 2 check

/-- One block encoded, and whether it is coded (R304). -/
def encodeBlock (kind : Nat) (bs : List Byte) : List Byte × Bool :=
  let raw := (blockHeader 0 0 bs.length bs.length (crc16 bs) ++ bs, false)
  if kind = 0 ∨ bs.length % wordSize kind ≠ 0 then raw
  else
    let ws := (pieces_ (wordSize kind) bs).map leNat
    let dict := dictOf ((ws.filter (· != 0)).map (wordExp kind))
    let p := codedPayload kind ws dict
    if p.length < bs.length then (blockHeader kind dict.length bs.length p.length (crc16 bs) ++ p, true) else raw

/-- A segment as it is sent (R313, R314): its bytes, and its blocks coded and raw. -/
structure Encoded where
  bytes : List Byte
  coded : Nat
  raw : Nat
  deriving DecidableEq, Repr

def encodeSegment (kind : Nat) (bs : List Byte) : Encoded :=
  if kind = 0 then ⟨bs, 0, 0⟩
  else
    let blocks := (pieces_ 4096 bs).map (encodeBlock kind)
    ⟨blocks.flatMap (·.1), (blocks.filter (·.2)).length, (blocks.filter fun b => !b.2).length⟩

/-! ### Decoding (R305) -/

/-- What a symbol says of the words it covers: an exponent, or a run of zero words. -/
inductive Sym where
  | exp (e : Nat)
  | zeros (n : Nat)
  deriving DecidableEq, Repr

/-- Read symbols until `left` words are covered: the symbols and the bits they take. -/
def readSyms (dict : List Nat) : Nat → Nat → Nat → Option (List Sym × Nat)
  | 0, _, left => if left = 0 then some ([], 0) else none
  | fuel + 1, v, left =>
    if left = 0 then some ([], 0)
    else
      let c := v % 32
      if c < 16 then
        match dict[c]? with
        | some e => (readSyms dict fuel (v / 32) (left - 1)).map fun r => (.exp e :: r.1, r.2 + 5)
        | none => none
      else if c = 16 then
        (readSyms dict fuel (v / 8192) (left - 1)).map fun r => (.exp (v / 32 % 256) :: r.1, r.2 + 13)
      else if c = 17 then
        let n := v / 32 % 256 + 1
        if left < n then none else (readSyms dict fuel (v / 8192) (left - n)).map fun r => (.zeros n :: r.1, r.2 + 13)
      else none

/-- The plaintext of symbols and residues. -/
def plainOf (kind : Nat) : List Sym → List Byte → List Byte
  | [], _ => []
  | .zeros n :: t, rs => List.replicate (n * wordSize kind) 0 ++ plainOf kind t rs
  | .exp e :: t, rs =>
    leBytes (wordSize kind) (joinWord kind e (leNat (rs.take (residueSize kind)))) ++ plainOf kind t (rs.drop (residueSize kind))

def isExp : Sym → Bool
  | .exp _ => true
  | .zeros _ => false

/-- A coded payload decoded; none where R305 rejects it. -/
def decodePayload (kind ndict rawLen : Nat) (p : List Byte) : Option (List Byte) :=
  if rawLen % wordSize kind ≠ 0 ∨ p.length < ndict then none
  else
    let body := leNat (p.drop ndict)
    match readSyms ((p.take ndict).map (·.toNat)) (rawLen + 1) body (rawLen / wordSize kind) with
    | none => none
    | some (syms, bits) =>
      let symBytes := ceilDiv bits 8
      let residues := (syms.filter isExp).length * residueSize kind
      if p.length ≠ ndict + symBytes + residues then none
      else if body % 2 ^ (8 * symBytes) / 2 ^ bits ≠ 0 then none
      else some (plainOf kind syms (p.drop (ndict + symBytes)))

/-- The first block of a coded segment: its plaintext and what follows it. `kind` is the segment's. -/
def decodeBlock (kind : Nat) (bs : List Byte) : Option (List Byte × List Byte) :=
  let form := u bs 0 1
  let mode := form % 4
  let ndict := form / 4 % 32
  let rawLen := u bs 2 2
  let codedLen := u bs 4 2
  let p := sub bs 8 codedLen
  if bs.length < 8 || form / 128 != 0 || u bs 1 1 != 0 || mode == 3 || 16 < ndict || (mode == 0 && ndict != 0) ||
      rawLen == 0 || 4096 < rawLen || 4096 < codedLen || (mode == 0 && codedLen != rawLen) || p.length != codedLen ||
      (mode != 0 && mode != kind) then none
  else
    match if mode = 0 then some p else decodePayload mode ndict rawLen p with
    | some plain => if crc16 plain = u bs 6 2 then some (plain, bs.drop (8 + codedLen)) else none
    | none => none

/-- The blocks of a segment, over at most `fuel` blocks. -/
def decodeBlocks (kind : Nat) : Nat → List Byte → Option (List (List Byte))
  | 0, bs => if bs.isEmpty then some [] else none
  | fuel + 1, bs =>
    if bs.isEmpty then some []
    else match decodeBlock kind bs with
      | some (plain, rest) => (decodeBlocks kind fuel rest).map fun t => plain :: t
      | none => none

/-- A received segment decoded; none is an integrity error (R305, R314). -/
def decodeSegment (kind segLen : Nat) (bs : List Byte) : Option (List Byte) :=
  if kind = 0 then (if bs.length = segLen then some bs else none)
  else match decodeBlocks kind bs.length bs with
    | some bl =>
      if (bl.map List.length).sum = segLen ∧ bl.dropLast.all fun b => b.length == 4096 then some bl.flatten else none
    | none => none

end Sys2Proof.Machine
end

