-- ==== Sys2Proof/Machine/Time.lean ====
section
/-! DEFINITION. Registration and time (10_registration_and_time.md): acquisition, registration marks, holdover, the whole-second
count, island registration, and the barriers. Times of samples are in units of 125 ps. -/

namespace Sys2Proof.Machine

/-- Units of 125 ps in a tick, in a second, and the windows of R264, R265 and R267. -/
abbrev unitsPerNs : Nat := 8
abbrev unitsPerSec : Nat := 8000000000
abbrev markWindow : Nat := 8000
abbrev holdWindow : Nat := 800000
abbrev acquireWindow : Nat := 1200000

/-- What TIM_STATUS.STATE reads: acquiring while the error carried out of holdover is above 3 ns (R267). -/
def timState (s : State) : Nat :=
  match s.time.lock with
  | .free => 0
  | .acquiring => 1
  | .locked => if s.time.settling && 24 < s.time.slew.natAbs then 1 else 2
  | .holdover => 3

/-- The expected sample of whole second `sec` (R263). -/
def expectedSample (sec : Nat) (s : State) : Nat := sec * unitsPerSec + s.time.ppsDelay

/-- The whole second whose expected sample is nearest to a sample. -/
def nearestSecond (sample : Nat) (s : State) : Nat := (sample + unitsPerSec / 2 - s.time.ppsDelay) / unitsPerSec

/-- The phase error of a sample against a second (R263). -/
def phaseError (sample sec : Nat) (s : State) : Int := (sample : Int) - (expectedSample sec s : Int)

/-- The whole-second count that the next mark would carry (R268). -/
def countInForce (s : State) : Nat :=
  match s.time.setCount, s.time.lastSecond with
  | some c, _ => c
  | none, some l => l + 1
  | none, none => s.time.now / 1000000000 + 1

/-- A count has been set already. -/
def countSet (s : State) : Bool := s.time.secondsSet || s.time.setCount.isSome

/-- A setting names another count than the one in force, outside hold mode (R268). -/
def secondsConflict (c : Nat) (s : State) : Bool := countSet s && c != countInForce s && !s.pwr.hold

/-- The next mark takes the count (R268). -/
def setCountTo (c : Nat) (s : State) : State :=
  if countSet s && c == countInForce s then s else { s with time.setCount := some c }

/-- SET_SECONDS (R268). -/
def execSetSecondsState (s : State) : State :=
  if secondsConflict s.time.seconds s then countEvent cBarBad unitNode s else setCountTo s.time.seconds s

/-! ### PPS edges (R263 to R267) -/

/-- The time base moves forward by a step; it never moves backwards (R261). -/
def stepTime (ns : Nat) (s : State) : State := { s with time.now := s.time.now + ns }

/-- The count that a mark at second `sec` takes: the one set, where that does not move the time base backwards. -/
def takeCount (sec : Nat) (s : State) : Nat × State :=
  match s.time.setCount with
  | none => (sec, s)
  | some c =>
    let s := { s with time.setCount := none }
    if c < sec then (sec, countEvent cBarBad unitNode s)
    else (c, stepTime ((c - sec) * 1000000000) { s with time.secondsSet := true })

/-- The second edge of an acquisition: the PLL fraction is set, the time base steps so that the sample lies on the expected
fraction of a second, and the node is locked (R264). -/
def acquire (sample interval : Nat) (s : State) : State :=
  let sec := ceilDiv (sample - s.time.ppsDelay) unitsPerSec
  let shift := (expectedSample sec s - sample) / unitsPerNs
  let s := stepTime shift { s with time.pllInterval := interval, time.lock := .locked, time.firstEdge := none
                                   time.slew := 0, time.settling := false, time.farEdges := [], time.missing := 0 }
  let r := takeCount sec s
  { r.2 with
    time.lastSample := some (expectedSample r.1 r.2)
    time.lastSecond := some r.1
    time.markedSecond := some r.1 }

/-- A registration mark (R265). -/
def registrationMark (sample sec : Nat) (s : State) : State :=
  let e := phaseError sample sec s
  let r := takeCount sec s
  let sample := sample + (r.1 - sec) * unitsPerSec
  let s := r.2
  { s with
    time.mark := sample / unitsPerNs
    time.lastErr := e
    time.pllInterval := match s.time.lastSample with
      | some p => sample - p
      | none => s.time.pllInterval
    time.lastSample := some sample
    time.slew := e
    time.settling := if s.time.lock = .holdover then decide (24 < e.natAbs) else s.time.settling && decide (24 < e.natAbs)
    time.lock := .locked
    time.missing := 0
    time.farEdges := []
    time.lastSecond := some r.1
    time.markedSecond := some r.1 }

/-- Two fractions of a second agree within 1 µs. -/
def fractionsAgree (a b : Nat) : Bool :=
  let d := if a ≤ b then b - a else a - b
  decide (d ≤ markWindow) || decide (unitsPerSec - markWindow ≤ d)

/-- Every two of the fractions agree. -/
def allAgree (fs : List Nat) : Bool := fs.all fun a => fs.all (fractionsAgree a)

/-- An edge rejected in holdover: the latest four in a row that agree raise the PPS-far fault (R267), once until a mark ends
the holdover (notes/assumptions/65.md). -/
def farEdge (sample : Nat) (s : State) : State :=
  if 4 ≤ s.time.farEdges.length then s
  else
    let fs := s.time.farEdges ++ [sample % unitsPerSec]
    if fs.length < 4 then { s with time.farEdges := fs }
    else if allAgree fs then raise fPpsFar unitNode [] { s with time.farEdges := fs, time.ppsFar := true }
    else { s with time.farEdges := fs.drop 1 }

def execPpsEdgeState (sample : Nat) (high : Bool) (s : State) : State :=
  if !s.time.counting then s
  else if !high then countEvent cPpsGlitch unitNode s
  else match s.time.lock with
    | .free => { s with time.lock := .acquiring, time.firstEdge := some sample }
    | .acquiring =>
      match s.time.firstEdge with
      | none => { s with time.firstEdge := some sample }
      | some f =>
        if f + unitsPerSec ≤ sample + acquireWindow ∧ sample ≤ f + unitsPerSec + acquireWindow then acquire sample (sample - f) s
        else { s with time.firstEdge := some sample }
    | .locked =>
      let sec := nearestSecond sample s
      if (phaseError sample sec s).natAbs ≤ markWindow ∧ s.time.markedSecond ≠ some sec then registrationMark sample sec s
      else countEvent cPpsReject unitNode s
    | .holdover =>
      let sec := nearestSecond sample s
      if (phaseError sample sec s).natAbs ≤ holdWindow ∧ s.time.markedSecond ≠ some sec then registrationMark sample sec s
      else farEdge sample (countEvent cPpsReject unitNode s)

/-- Up to `n` units come off an error. -/
def slewBy (n : Nat) (e : Int) : Int := if 0 ≤ e then max 0 (e - n) else min 0 (e + n)

/-- PHASE_STEP: in stroke 63, at most 8 steps of 125 ps (R265). -/
def execPhaseStepState (s : State) : State :=
  if strokeNow s = 63 ∧ s.time.slew ≠ 0 ∧ !s.sch.applied.contains (islTime, 0x10002) then
    markApplied islTime 0x10002 { s with time.slew := slewBy 8 s.time.slew }
  else s

/-- MARK_MISSING: the window of the next expected mark has passed (R266). -/
def execMarkMissingState (s : State) : State :=
  let window := if s.time.lock = .holdover then holdWindow else markWindow
  match s.time.lock, s.time.lastSecond with
  | .locked, some l | .holdover, some l =>
    if expectedSample (l + 1) s + window < s.time.now * unitsPerNs then
      let s := { s with time.lock := .holdover, time.missing := min 0xFF (s.time.missing + 1), time.lastSecond := some (l + 1) }
      if s.time.missing = 8 then raise fPpsLost unitNode [] s else s
    else s
  | _, _ => s

/-! ### Island registration (R270, R271) -/

/-- A registration is to run: stage 5 of start-up has come with the time base locked, or REREG was written; and none is under
way. After the registration of stage 5 a further one needs REREG (R271). -/
def regDue (s : State) : Bool :=
  s.bar.regEnd.isNone &&
    ((s.bar.regWanted && s.pwr.hold) || (s.start.stage == 5 && !s.bar.registered && s.time.lock == .locked))

/-- REREG (R270): ignored outside hold mode. -/
def execReregState (s : State) : State :=
  if s.pwr.hold then { s with bar.regWanted := true, bar.regTries := 0, bar.regPass := passNow s + 1 } else s

/-- The step to the PPS that a re-registration may make: it keeps the whole-second count, and never goes backwards. -/
def reregStep (dest : Option Nat) (s : State) : State :=
  match dest with
  | some n =>
    if s.pwr.hold && s.bar.regWanted && s.time.now / 1000000000 == n / 1000000000 && s.time.now ≤ n then { s with time.now := n } else s
  | none => s

/-- REGISTRATION: the pulse goes out at a pass boundary and the echoes are compared; `failed` names the islands, of 0 to 17,
whose echo was off by more than a tick (R270). One that succeeds ends 2 passes after its pulse (`endRegistration`). -/
def execRegistrationState (failed : Nat) (dest : Option Nat) (s : State) : State :=
  if regDue s && strokeNow s == 0 && s.bar.regPass ≤ passNow s then
    let s := emit .registrationPulse s
    let bad := failed % 2 ^ 18
    if bad = 0 then
      let s := reregStep dest s
      { s with time.reg := false, bar.regEnd := some (passNow s + 2) }
    else
      let tries := s.bar.regTries + 1
      let s := { s with time.reg := false, time.regFailMask := bad, bar.regTries := min 3 tries
                        bar.regPass := passNow s + (if 3 ≤ tries then 1000 else 1) }
      if 3 ≤ tries then
        countEvent cRegFail unitNode
          (if s.start.stage = 5 then { s with start.stalled := true, start.cause := 8 } else s)
      else s
  else s

/-- The end of a registration that succeeded: REG is 1, and a stall of stage 5 for it ends (R270). -/
def endRegistration (s : State) : State :=
  let stage5 := s.start.stage == 5 && s.start.cause == 8
  { s with
    time.reg := true
    time.regFailMask := 0
    time.ppsFar := s.time.ppsFar && !s.bar.regWanted
    bar.regEnd := none
    bar.regWanted := false
    bar.regTries := 0
    bar.registered := true
    start.stalled := s.start.stalled && !stage5
    start.cause := if stage5 then 0 else s.start.cause }

/-- At a pass boundary the registration under way ends, where it is its second since the pulse. -/
def registrationEnds (s : State) : State :=
  match s.bar.regEnd with
  | some p => if p ≤ passNow s then endRegistration s else s
  | none => s

/-- An island's copy is 2 ticks or more off at a strobe (R271). -/
def registrationLoss (s : State) : State :=
  if s.time.reg then
    raise fRegLoss unitNode [] (countEvent cRegLoss unitNode { s with time.reg := false })
  else s

/-! ### Barriers (R273 to R276) -/

/-- The fields of a BARRIER body (R274). -/
structure Barrier where
  startPass : Nat
  id : Nat
  hops : Nat
  setSeconds : Bool
  origin : Nat
  seconds : Nat
  deriving DecidableEq, Repr

/-- The body of a barrier. -/
def Barrier.bytes (b : Barrier) : List Byte :=
  leBytes 8 b.startPass ++ leBytes 4 b.id ++ leBytes 1 b.hops ++ leBytes 1 (b2n b.setSeconds) ++ leBytes 2 b.origin ++
    leBytes 8 b.seconds ++ leBytes 8 0

/-- A body read as a barrier; none where it breaks R7. -/
def readBarrier (x : List Byte) : Option Barrier :=
  let set := u x 0xD 1 == 1
  if x.length != 32 || u x 0 8 / 2 ^ 48 != 0 || u x 0xC 1 / 16 != 0 || u x 0xD 1 / 2 != 0 || u x 0xE 2 / 4096 != 0 ||
      u x 0x18 8 != 0 || (!set && u x 0x10 8 != 0) then none
  else some ⟨u x 0 8, u x 8 4, u x 0xC 1, set, u x 0xE 2, u x 0x10 8⟩

/-- A barrier is discarded (R275). -/
def barrierBad (b : Barrier) (s : State) : Bool :=
  (s.time.run == 2 && !s.pwr.hold) || (b.setSeconds && secondsConflict b.seconds s) || decide (b.startPass < passNow s + 2) ||
    (b.setSeconds && decide (b.startPass < (b.seconds + 2) * secPasses))

/-- Connections of the plate with REQUESTER = 0. -/
def nodeConns (s : State) : List Nat := ((plate s).conns.filter fun x => x.2.used && !x.2.requester).map (·.1)

/-- The barrier is relayed once, with HOPS less one. -/
def relayBarrier (b : Barrier) (s : State) : State :=
  if b.hops = 0 then s
  else
    let body := Barrier.bytes { b with hops := b.hops - 1 }
    (nodeConns s).foldl (fun s c => queueMsg c { typ := tBarrier, body } s) s

/-- A barrier that is to be pending. -/
def pendBarrier (pass id : Nat) (s : State) : State :=
  { s with time.run := 1, bar.pendingPass := some pass, bar.pendingId := id % 2 ^ 32 }

/-- A barrier is handled by R275. -/
def takeBarrier (b : Barrier) (s : State) : State :=
  if barrierBad b s then countEvent cBarBad unitNode s
  else if b.id ≤ s.bar.pendingId then s
  else
    let s := pendBarrier b.startPass b.id s
    relayBarrier b (if b.setSeconds then setCountTo b.seconds s else s)

/-- BARRIER: a received barrier. On a connection with REQUESTER = 1 it is not accepted (R275). -/
def execBarrierState (c : Nat) (s : State) : State :=
  match inboxFind c tBarrier false s with
  | none => s
  | some m =>
    let s := returnCredit c m.cls m.body.length (inboxTake m s)
    if (connRec c s).requester then s
    else match readBarrier m.body with
      | none => countEvent cBarBad unitNode s
      | some b => takeBarrier b s

/-- TIM_CTRL_BARRIER: the barrier of TIM_BARRIER, or the pulse of a pin master (R275, R276). -/
def execTimCtrlBarrierState (s : State) : State :=
  if s.bar.pin then { s with bar.pinPass := some (passNow s + 1) }
  else takeBarrier ⟨s.bar.startPass, s.bar.nextId, s.bar.hops, false, (plate s).nodeId, 0⟩ s

/-- A rising edge of the chain as a node samples it, the delay of its cable taken off (R276). -/
def sampleBarrier (sample : Nat) (s : State) : State :=
  let ns := (sample - s.time.barDelay) / unitsPerNs
  let stroke := ns / strokeNs % passStrokes
  if 32 ≤ stroke ∧ stroke ≤ 47 then pendBarrier (ns / passNs + 64) (s.bar.pendingId + 1) s
  else countEvent cBarBad unitNode s

/-- BARRIER_OUT_PULSE (R276): the master drives the pulse, and samples its rising edge as every node of the chain does. -/
def execBarrierOutPulseState (s : State) : State :=
  if s.bar.pinPass = some (passNow s) ∧ strokeNow s = 32 then
    sampleBarrier (s.time.now * unitsPerNs)
      (driveBarrier { s with bar.pinPass := none, bar.outLow := some (s.time.elapsed + 16) })
  else s

/-- BARRIER_IN_EDGE (R276; 18_package_and_signals.md R467): an edge of BARRIER_IN, which a node with REPEAT copies; a rising
one is sampled. -/
def execBarrierInEdgeState (rising : Bool) (sample : Nat) (s : State) : State :=
  let s := driveBarrier { s with bar.barrierIn := rising }
  if rising then sampleBarrier sample s else s

/-- BARRIER_START (R273): at the boundary of START_PASS every line runs, or the barrier is missed. -/
def execBarrierStartState (s : State) : State :=
  match s.bar.pendingPass with
  | some p =>
    if s.time.run = 1 ∧ strokeNow s = 0 ∧ p ≤ passNow s then
      let s := { s with bar.pendingPass := none }
      if s.time.reg && timState s == 2 && !s.pwr.hold then { s with time.run := 2 }
      else countEvent cBarLate unitNode { s with time.run := 0 }
    else s
  | none => s

/-! ### Heartbeats (09_strokes_and_passes.md R258, R259) -/

/-- A BEAT line of the plate names the connection. -/
def watched (c : Nat) (s : State) : Bool :=
  (plate s).lines.any fun x => islPort ≤ x.1 && x.1 < islTime && x.2.lines.any fun l => l.op == opBeat && l.arg0 % 65536 == c

/-- The body of a heartbeat is acceptable on its connection. -/
def beatOk (c : Nat) (x : List Byte) (s : State) : Bool :=
  watched c s && x.length == 32 && u x 8 2 / 4096 == 0 && u x 0xA 1 / 16 == 0 && u x 0xB 1 == 0 && u x 0x18 8 == 0 &&
    !(connRec c s).requester && u x 8 2 == (connRec c s).peerNode

/-- HEARTBEAT (R258). -/
def execHeartbeatState (c : Nat) (s : State) : State :=
  match inboxFind c tHeartbeat false s with
  | none => s
  | some m =>
    let s := returnCredit c m.cls m.body.length (inboxTake m s)
    if !beatOk c m.body s then countEvent cBeatBad (unitConn c) s
    else
      let sent := u m.body 0 8
      let here := m.doneAt / passStrokes
      let s := setAux c { aux c s with lastBeat := s.time.elapsed } s
      if here + 1 < sent ∨ sent + 1 < here then countEvent cSkewAlarm (unitConn c) s else s

/-- PEERS_LOST: no heartbeat for 48 passes (R259). -/
def execPeersLostState (c : Nat) (s : State) : State :=
  let a := aux c s
  if watched c s && !a.lost && a.lastBeat + 48 * passStrokes ≤ s.time.elapsed then
    raise fPeerLost (unitConn c) [] (tally cPeersLost (setAux c { a with lost := true } s))
  else s

/-! ### The commands -/

def execPpsEdge (sample : Nat) (high : Bool) (s : State) : Host.Outcome State Fault Refusal := .next (execPpsEdgeState sample high s)
def execPhaseStep (s : State) : Host.Outcome State Fault Refusal := .next (execPhaseStepState s)
def execMarkMissing (s : State) : Host.Outcome State Fault Refusal := .next (execMarkMissingState s)
def execSetSeconds (s : State) : Host.Outcome State Fault Refusal := .next (execSetSecondsState s)
def execRereg (s : State) : Host.Outcome State Fault Refusal := .next (execReregState s)
def execRegistration (failed : Nat) (dest : Option Nat) (s : State) : Host.Outcome State Fault Refusal :=
  .next (execRegistrationState failed dest s)
def execBarrier (c : Nat) (s : State) : Host.Outcome State Fault Refusal := .next (execBarrierState c s)
def execTimCtrlBarrier (s : State) : Host.Outcome State Fault Refusal := .next (execTimCtrlBarrierState s)
def execBarrierOutPulse (s : State) : Host.Outcome State Fault Refusal := .next (execBarrierOutPulseState s)
def execBarrierInEdge (edge : PinEdge) (s : State) : Host.Outcome State Fault Refusal :=
  .next (execBarrierInEdgeState edge.rising edge.sample s)
def execBarrierStart (s : State) : Host.Outcome State Fault Refusal := .next (execBarrierStartState s)
def execHeartbeat (c : Nat) (s : State) : Host.Outcome State Fault Refusal := .next (execHeartbeatState c s)
def execPeersLost (c : Nat) (s : State) : Host.Outcome State Fault Refusal := .next (execPeersLostState c s)

end Sys2Proof.Machine
end

