-- ==== Sys2Proof/Machine/Wire.lean ====
section
/-! DEFINITION. What ports and transport share: ports and the plate's framing, connection keys, headers, credit pools, the
states of a connection and the ends of its messages, and messages bound for rings (11_fabric_ports.md, 12_transport.md). -/

namespace Sys2Proof.Machine

/-! ### Ports (11 R280, R295) -/

def fport (p : Nat) (s : State) : Port := look {} s.ports p
def setFport (p : Nat) (v : Port) (s : State) : State := { s with ports := put {} s.ports p v }

/-- The record of a port in the plate. -/
def portRec (p : Nat) (s : State) : PortRec := ((plate s).ports[p]?).getD {}
def portMode (p : Nat) (s : State) : Nat := (portRec p s).mode

/-- Four separate links joined by the transport. -/
def bonded (mode : Nat) : Bool := mode == 0 || mode == 1 || mode == 5

def activeLanes (v : Port) : Nat := (v.lanes.filter fun l => l.st == .active).length

/-- The port's ADAPT line claims the present stroke. -/
def adapts (p : Nat) (s : State) : Bool := claimed (islPort + p) opAdapt (strokeCount s) (fun _ => true) s

/-- The capacity of a port in the present stroke (R295). -/
def portCapacity (p : Nat) (s : State) : Nat :=
  if adapts p s then 0
  else
    let full := if portMode p s = 5 then 12288 else 24576
    if (fport p s).stretched then full / 4 * 3 else full

/-- The port works: it is up, not fenced and not gated. -/
def portWorks (p : Nat) (s : State) : Bool := (fport p s).st == .up && !bit s.flt.fencedPorts p && !(fport p s).gated

/-- The home port of a connection: the lowest of its PORTS mask (notes/assumptions/32.md). -/
def homePort (c : Nat) (s : State) : Option Nat := (List.range 8).find? fun p => bit (connRec c s).ports p

/-- The ports that have carried a connection, its home port first: each dropped while it did, but the last (R292). -/
def chainPorts (c : Nat) (s : State) : List Nat :=
  (homePort c s).toList ++ (aux c s).route.filter fun q => bit (connRec c s).ports q

/-- The port to which a connection belongs now. -/
def seat (c : Nat) (s : State) : Option Nat := (chainPorts c s).getLast?

/-- The lowest working port of a connection that a mask holds. -/
def workingPort (c : Nat) (mask : Nat → Bool) (s : State) : Option Nat :=
  (List.range 8).find? fun q => mask q && bit (connRec c s).ports q && portWorks q s

/-- The port that carries a connection's free-budget frames (R292): where that of the connection does not work and no port
qualified when it dropped, the lowest working port of its PORTS mask. -/
def carrier (c : Nat) (s : State) : Option Nat :=
  match seat c s with
  | none => none
  | some h => if portWorks h s then some h else workingPort c (fun _ => true) s

/-- The connection has moved away from its dropped home port. -/
def connMoved (c p : Nat) (s : State) : Bool := homePort c s != some p

/-- A lane of a port takes a new value. -/
def setLane (l : Nat) (f : Lane → Lane) (v : Port) : Port := { v with lanes := v.lanes.modify l f }

/-! ### Keys (14_trust_and_isolation.md R368, R369) -/

def keyPos (slot pos : Nat) (s : State) : KeyPos := look {} s.tru.keys (2 * slot + pos)
def setKeyPos (slot pos : Nat) (v : KeyPos) (s : State) : State := { s with tru.keys := put {} s.tru.keys (2 * slot + pos) v }

/-- The key in force at a position; none where it is absent. -/
def liveKey (slot pos : Nat) (s : State) : Option (BitVec 512) :=
  let k := keyPos slot pos s
  if k.live then (if k.current = 0 then k.rank0 else k.rank1) else none

/-- The key of an epoch of a connection. -/
def connKey (c epoch : Nat) (s : State) : Option Key := (liveKey (connRec c s).keySlot epoch s).map (·.setWidth 256)

/-- A running operation has latched a rank of a position, numbered as the store numbers it. -/
def rankLatched (i rank : Nat) (s : State) : Bool := s.tru.latches.any fun x => x.pos == i && x.rank == rank

/-- What an absent position keeps: the ranks that running operations still use; the others are zero. -/
def restPos (i : Nat) (k : KeyPos) (s : State) : KeyPos :=
  let rank0 := if rankLatched i 0 s then k.rank0 else none
  let rank1 := if rankLatched i 1 s then k.rank1 else none
  if rank0.isNone && rank1.isNone then {} else { rank0, rank1, current := k.current, live := false }

/-- The position becomes absent at once; of writes that meet, the later stands. -/
def erasePos (slot pos : Nat) (s : State) : State :=
  let i := 2 * slot + pos
  setKeyPos slot pos (restPos i (keyPos slot pos s) s) { s with tru.keyWrites := s.tru.keyWrites.filter fun w => w.1 != i }

/-- The key goes into the rank that is not current, which becomes current. -/
def writeRank (key : BitVec 512) (k : KeyPos) : KeyPos :=
  if k.current = 0 then { k with rank1 := some key, current := 1, live := true }
  else { k with rank0 := some key, current := 0, live := true }

/-- A position is written by its number, unless the rank to be written is latched or an earlier write waits for it. -/
def writePos (i : Nat) (key : BitVec 512) (s : State) : Option State :=
  let k := look {} s.tru.keys i
  if rankLatched i (1 - k.current) s || s.tru.keyWrites.any fun w => w.1 == i then none
  else some { s with tru.keys := put {} s.tru.keys i (writeRank key k) }

/-- A key is installed or rewritten; a write that has to wait is counted. -/
def installPos (slot pos : Nat) (key : BitVec 512) (s : State) : State :=
  let i := 2 * slot + pos
  match writePos i key s with
  | some s => s
  | none => countEvent cKeyWait unitTrust { s with tru.keyWrites := s.tru.keyWrites ++ [(i, key)] }

/-- A frame that starts latches the current rank of its key's position until its last byte has left its lane. -/
def latchRank (slot pos port lane left : Nat) (s : State) : State :=
  let x : KeyLatch := ⟨2 * slot + pos, (keyPos slot pos s).current, port, lane, left⟩
  { s with tru.latches := s.tru.latches ++ [x] }

/-- Writes that waited go through in the order of receipt, as far as their ranks are free. -/
def writesGo : List (Nat × BitVec 512) → State → State
  | [], s => s
  | w :: t, s =>
    match writePos w.1 w.2 s with
    | some s => writesGo t s
    | none => writesGo t { s with tru.keyWrites := s.tru.keyWrites ++ [w] }

/-- Latches end: ranks of absent positions become zero with their last latch, and waiting writes go through. -/
def endLatches (rest : List KeyLatch) (s : State) : State :=
  let s := { s with tru.latches := rest }
  let keys := s.tru.keys.filterMap fun x =>
    let k := if x.2.live then x.2 else restPos x.1 x.2 s
    if k = {} then none else some (x.1, k)
  writesGo s.tru.keyWrites { s with tru.keys := keys, tru.keyWrites := [] }

/-- The key-rank leases of a port have expired (16_faults_and_recovery.md R418): the ranks that its frames latch are zeroed. -/
def zeroRanks (p : Nat) (s : State) : State :=
  let gone := fun (i rank : Nat) => s.tru.latches.any fun x => x.port == p && x.pos == i && x.rank == rank
  let keys := s.tru.keys.filterMap fun x =>
    let k : KeyPos := { x.2 with
      rank0 := if gone x.1 0 then none else x.2.rank0
      rank1 := if gone x.1 1 then none else x.2.rank1 }
    if k.rank0.isNone && k.rank1.isNone then none else some (x.1, k)
  endLatches (s.tru.latches.filter fun x => x.port != p) { s with tru.keys := keys }

/-! ### The TFX header (R309 to R311) -/

def seqMod : Nat := 2 ^ 32

/-- The header as it is sent. -/
def Hdr.bytes (h : Hdr) : List Byte :=
  leBytes 1 1 ++ leBytes 1 h.typ ++
    leBytes 1 (h.op + h.cls * 4 + h.epoch * 32 + b2n h.next * 64 + b2n h.clear * 128) ++
    leBytes 1 (h.kind + b2n h.last * 4) ++ leBytes 2 h.conn ++ leBytes 2 h.msgSeq ++ leBytes 4 h.seq ++
    leBytes 4 h.ackPsn ++ leBytes 4 h.sack ++ leBytes 2 h.credit ++ leBytes 2 h.credit0 ++ leBytes 4 h.segOff ++
    leBytes 4 (h.segLen + h.attnCredit * 65536)

/-- A received header by field. -/
def readHdr (b : List Byte) : Hdr :=
  let ops := u b 2 1
  { typ := u b 1 1, op := ops % 4, cls := ops / 4 % 8, epoch := ops / 32 % 2, next := bit ops 6, clear := bit ops 7
    kind := u b 3 1 % 4, last := bit (u b 3 1) 2, conn := u b 4 2, msgSeq := u b 6 2, seq := u b 8 4
    ackPsn := u b 0xC 4, sack := u b 0x10 4, credit := u b 0x14 2, credit0 := u b 0x16 2, segOff := u b 0x18 3
    segLen := u b 0x1C 2 % 16384, attnCredit := u b 0x1E 2 }

/-- A reserved field of the header is not zero, VERSION is not 1, or OP or KIND is reserved. -/
def hdrReserved (b : List Byte) : Bool :=
  u b 0 1 != 1 || u b 2 1 % 4 == 3 || u b 3 1 % 4 == 3 || u b 3 1 / 8 != 0 || u b 0x1B 1 != 0 || u b 0x1C 2 / 16384 != 0

/-- An ACK frame has the values of R311. -/
def ackFieldsOk (h : Hdr) : Bool :=
  h.typ == tHeartbeat && h.segLen == 0 && h.segOff == 0 && h.msgSeq == 0 && h.kind == 0 && !h.last && h.cls == 0

/-- The bytes of a frame beyond its coded segment. -/
def overhead (s : State) : Nat := if (plate s).native then 66 else 114

/-- A value of width `n` bits lies ahead of another. -/
def ahead (n new old : Nat) : Bool :=
  let d := (new + 2 ^ n - old % 2 ^ n) % 2 ^ n
  decide (0 < d) && decide (d < 2 ^ (n - 1))

/-- An absolute count moves up to a value of which the low `n` bits are known to lie ahead. -/
def raiseTo (n new old : Nat) : Nat := if ahead n new old then old + (new + 2 ^ n - old % 2 ^ n) % 2 ^ n else old

/-! ### Credit (R326 to R328, R472) -/

abbrev poolUnits : Nat := 163840
abbrev attnTokens : Nat := 16384
abbrev reserveUnits : Nat := 36
abbrev reserveTokens : Nat := 4

/-- Units of a segment. -/
def segUnits (n : Nat) : Nat := ceilDiv n 256

/-- WINDOW in bytes (R329). -/
def windowBytes (c : Nat) (s : State) : Nat := max 9 (connRec c s).window * 1024

/-- The caps of R472. -/
def poolCap0 : Nat := 8192
def poolCap (c : Nat) (s : State) : Nat := ceilDiv (windowBytes c s) 256

/-- Connections of the plate in use. -/
def usedConns (s : State) : List Nat := ((plate s).conns.filter fun x => x.2.used).map (·.1)

/-- What a shared part has left: `total` less the reserves and less what connections hold above their reserve. -/
def sharedFree (total reserve : Nat) (g : Conn → Nat) (s : State) : Nat :=
  total - (usedConns s).length * reserve - (s.tfx.conns.map fun x => g x.2 - reserve).sum

/-- What a pool holds of the shared part: its headroom, or what the limit already advertised still grants or has granted
beyond it (R472: a smaller headroom takes effect only as returns reach that limit). -/
def Pool.grants (p : Pool) : Nat := max p.headroom (p.limit - p.returned)

def poolFree (s : State) : Nat := sharedFree poolUnits reserveUnits (fun k => k.pool.grants) s
def pool0Free (s : State) : Nat := sharedFree poolUnits reserveUnits (fun k => k.pool0.grants) s
/-- Tokens that host commands hold come off the same 16,384 (R328; 05_attention_requests.md R128). -/
def attnFree (s : State) : Nat := sharedFree (attnTokens - s.tfx.hostTokens) reserveTokens (fun k => k.attn.grants) s

/-- The peer consumes `n`; a consumption that reaches the limit doubles the headroom, up to the cap and to what is free. -/
def consume (n cap free : Nat) (p : Pool) : Pool :=
  let p := { p with used := p.used + n, peak := max p.peak (p.used + n - p.returned) }
  if p.limit ≤ p.used then
    advertise { p with headroom := max p.headroom (min cap (p.headroom + min p.headroom free)) }
  else p

/-- The review of an aligned group of 64 passes. -/
def shrinkPool (reserve : Nat) (p : Pool) : Pool :=
  let out := p.used - p.returned
  if 2 * p.peak ≤ p.headroom then { p with headroom := max reserve (p.headroom / 2), peak := out } else { p with peak := out }

/-- A connection that starts afresh in an epoch (R321, R326). -/
def freshConn (epoch : Nat) : Conn :=
  { st := .active, sendEpoch := epoch, pool := { headroom := 36, limit := 36 }, pool0 := { headroom := 36, limit := 36 },
    attn := { headroom := 4, limit := 4 } }

/-! ### Messages bound for a ring (R336) -/

def ring (r : Nat) (s : State) : Ring := look {} s.tfx.rings r
def setRing (r : Nat) (v : Ring) (s : State) : State := { s with tfx.rings := put { } s.tfx.rings r v }

/-- A message waits for a ring; on a connection bound to none it is discarded, and its credit returns. -/
def toRing (r : Option Nat) (m : RingMsg) (s : State) : State :=
  let back := fun s => match m.cls with
    | some k => returnCredit m.conn k m.body.length s
    | none => s
  match r with
  | some r => if (ring r s).enable then setRing r { ring r s with waiting := (ring r s).waiting ++ [m] } s
      else back (countEvent cRingWait (unitConn m.conn) s)
  | none => back (countEvent cRingWait (unitConn m.conn) s)

/-! ### Ends of messages (R322, R335; 13_host_attachment.md R355) -/

def dropWait (w : Awaiting) : List Awaiting → List Awaiting
  | [] => []
  | a :: t => if a = w then t else a :: dropWait w t

/-- A work request's slot is freed, and its ring receives the local completion (R335). -/
def endWorkReq (slot status : Nat) (s : State) : State :=
  match s.tfx.workReqs.find? fun w => w.slot == slot with
  | none => s
  | some w =>
    toRing (some w.ring) ⟨w.conn, w.typ, 2, w.tag, status, [], none⟩
      { s with tfx.workReqs := s.tfx.workReqs.filter fun x => x.slot != slot }

/-- A remote load completes with Completer Abort. -/
def abortLoad (id : Nat) (s : State) : State :=
  countEvent cAborts (unitLink 0) (emit (.completerAbort id) { s with host.loads := s.host.loads.filter fun l => l.id != id })

/-- A window, and whether it is of the watch class. -/
def rwin (w : Nat) (s : State) : RWin := look {} s.host.rwins w

/-- A message that waited for its answer ends without one. -/
def endAwaiting (c status : Nat) (s : State) (w : Awaiting) : State :=
  match w.purpose with
  | .hostSend tag => toRing (aux c s).ring ⟨c, w.typ, 1, tag, status, [], none⟩ s
  | .workReq slot => endWorkReq slot status s
  | .remoteLoad id =>
    match s.host.loads.find? fun l => l.id == id with
    | some l => if (rwin l.window s).watch then s else abortLoad id s
    | none => s
  | .none | .moveOut _ | .remoteStore => s

/-- Messages of a connection that no answer will end, and that are queued or sent and not acknowledged: type and purpose. A
work request's slot is free once its message is sent whole (R335). -/
def muteMessages (k : Conn) : List (Nat × Purpose) :=
  let queued := k.queue.filter (·.mute)
  let same := fun (f : SentFrame) (m : OutMsg) => (m.cls == 0) == (f.hdr.cls == 0) && m.msgSeq == f.hdr.msgSeq
  let sent := k.unacked.filter fun f => f.mute && f.hdr.last && !queued.any (same f)
  queued.map (fun m => (m.typ, m.purpose)) ++ sent.map fun f => (f.hdr.typ, f.purpose)

/-- Every message queued or in flight on a connection that stood as `k` ends with a status (R321, R322). -/
def endMessages (c status : Nat) (k : Conn) (s : State) : State :=
  let a := aux c s
  let s := setAux c { a with waits := [] } s
  let s := a.waits.foldl (endAwaiting c status) s
  let s := (muteMessages k).foldl (fun s x => endAwaiting c status s ⟨0, x.1, x.2⟩) s
  (s.res.moveOuts.filter fun m => m.conn == c).foldl (fun s m =>
    m.waiting.foldl (fun s w =>
      match s.res.moveOuts.find? fun x => x.fn == m.fn && x.isExport == m.isExport with
      | some x => moveEnded x w.1 status s
      | none => s) s) s

/-- A connection loses both keys: from any used state to KEYLESS, or to UNUSED where the plate does not use it (R321). -/
def toKeyless (c : Nat) (s : State) : State :=
  let was := conn c s
  let a := aux c s
  let s := setConn c { st := if (connRec c s).used then .keyless else .unused } s
  let s := setAux c { ring := a.ring, lost := a.lost, lastBeat := a.lastBeat, waits := a.waits, group := a.group, route := a.route } s
  match was.st with
  | .active | .closing => endMessages c stKeyAbsent was s
  | .unused | .keyless | .failed => s

/-- No frame has been sent under the key that an epoch takes next (R319). -/
def freshEpoch (c epoch : Nat) (s : State) : State :=
  let a := aux c s
  setAux c { a with dataSent := a.dataSent.set epoch 0, acksSent := a.acksSent.set epoch 0 } s

/-- An epoch's key has sent as many DATA and RESP frames, or ACK frames, as it may (R319). -/
def epochSpent (c epoch : Nat) (s : State) : Bool :=
  let a := aux c s
  decide (2 ^ 31 ≤ (a.dataSent[epoch]?).getD 0) || decide (2 ^ 31 ≤ (a.acksSent[epoch]?).getD 0)

/-- The connection's key position is erased; with neither epoch live it is KEYLESS. -/
def eraseConnKey (c epoch : Nat) (s : State) : State :=
  let slot := (connRec c s).keySlot
  let s := freshEpoch c epoch (erasePos slot epoch s)
  if (liveKey slot 0 s).isNone && (liveKey slot 1 s).isNone then
    (if (conn c s).st = .unused then s else toKeyless c s)
  else s

/-- ACTIVE or CLOSING to FAILED (R322): its credit is freed with its messages. -/
def failConn (c : Nat) (s : State) : State :=
  let k := conn c s
  let s := setConn c { k with st := .failed, queue := [], unacked := [], held := [], partials := [], pool := {}, pool0 := {}
                              attn := {} } s
  raise fConnFailed (unitConn c) [] (tally cConnFailed (endMessages c stTargetDead k s))

/-- ACTIVE to CLOSING (R321). -/
def closeConn (c : Nat) (s : State) : State :=
  if (conn c s).st = .active then
    setAux c { aux c s with closeAt := s.time.elapsed } (setConn c { conn c s with st := .closing } s)
  else s

/-! ### Sending with an answer to await -/

/-- The word kind of a message that the host sends (11_fabric_ports.md R300): for an RDMA_WR or an ATOMIC that of the peer's
region (notes/assumptions/73.md). -/
def postKind (typ : Nat) (body : List Byte) : Nat :=
  if typ = tRdmaWr ∨ typ = tAtomic then Config.regionKind (u body 8 4) % 3 else 0

/-- A message of the host is submitted: queued, and noted while its answer is due. -/
def submitMsg (c : Nat) (m : Post) (s : State) : State :=
  let s := queueMsg c m s
  if m.purpose = .none || m.mute then s
  else setAux c { aux c s with waits := (aux c s).waits ++ [⟨m.tag, m.typ, m.purpose⟩] } s

/-! ### Rollover (R319, R320) -/

/-- The epochs live on a connection. -/
def bothLive (c : Nat) (s : State) : Bool := (connKey c 0 s).isSome && (connKey c 1 s).isSome

/-- The steps of a rollover that have become due. -/
def rollCheck (c : Nat) (s : State) : State :=
  let k := conn c s
  let s := if k.rollStep = 1 && bothLive c s && k.peerNext then
      setConn c { k with sendEpoch := 1 - k.sendEpoch, rollStep := 2 } s
    else s
  let k := conn c s
  let s := if k.rollStep = 2 && k.unacked.all fun f => f.hdr.epoch == k.sendEpoch then setConn c { k with rollStep := 3 } s else s
  let k := conn c s
  if k.rollStep = 3 && k.peerClear then
    let s := setConn c { k with rollStep := 0, peerNext := false, peerClear := false } s
    let s := setAux c { aux c s with stalled := false } s
    countEvent cRollovers (unitConn c) (freshEpoch c (1 - k.sendEpoch) (erasePos (connRec c s).keySlot (1 - k.sendEpoch) s))
  else s

end Sys2Proof.Machine
end

