-- ==== Sys2Proof/Machine/Ports.lean ====
section
/-! DEFINITION. The fabric ports (11_fabric_ports.md; 09_strokes_and_passes.md R252, R255 to R257): lanes, stretch, port drop
and return, the lines of port islands, egress and the receive path. -/

namespace Sys2Proof.Machine

/-! ### Frames handed back (R289, R291) -/

/-- Frames that lanes of a port started and that are not acknowledged are to be sent again. -/
def handBack (p : Nat) (lane : Nat → Bool) (s : State) : State :=
  let hit := fun f : SentFrame => f.port == p && lane f.lane && !f.again
  let n := (s.tfx.conns.map fun x => (x.2.unacked.filter hit).length).sum
  let again := fun k : Conn => { k with unacked := replaceWhere hit (fun f => { f with again := true, via := none }) k.unacked }
  let s := { s with tfx.conns := mapStore {} again s.tfx.conns }
  (List.range n).foldl (fun s _ => countEvent (cRequeued p) (unitPort p) s)
    (countWear (unitPort p) (fun w => { w with r := w.r + n }) s)

/-! ### Lanes (R281, R285, R286) -/

/-- The ability is one of the port's mode; with AN_OFF, MODE 5 is 100GBASE-KR1 (R281). -/
def abilityFits (mode : Nat) (anOff : Bool) (a : Ability) : Bool :=
  match mode, a with
  | 0, .kr1of200 | 1, .cr1of200 | 2, .kr4of800 | 3, .cr4of800 | 4, .gaui4 | 5, .kr1of100 => true
  | 5, .cr1of100 => !anOff
  | _, _ => false

/-- The stretch of a port ends with its fourth ACTIVE lane: runs that have not started keep their planned length (R290). -/
def unstretch (v : Port) : Port :=
  if activeLanes v < 4 then v
  else { v with stretched := false, stretchPending := false
                sends := v.sends.map fun r => if r.start.isNone then { r with runLen := r.len } else r }

/-- FEC codewords of a lane that its port has corrected, and that it has not (R307): each is an event of the lane, and one not
corrected begins a retired lane's second anew (R286). -/
def fecEvents (p l corrected failed : Nat) (s : State) : State :=
  let s := countWear (unitLane p l) (fun w => { w with c := w.c + corrected, u := w.u + failed }) s
  let s := (List.range corrected).foldl (fun s _ => countEvent (cFecCorrected p l) (unitLane p l) s) s
  let s := (List.range failed).foldl (fun s _ => countEvent (cFecUncorrected p l) (unitLane p l) s) s
  if failed = 0 then s
  else setFport p (setLane l (fun x => { x with lockSince := x.lockSince.map fun _ => s.time.elapsed }) (fport p s)) s

/-- LANE_TRAINED: a lane, or in MODE 2 to 4 the four-lane link, completes training. A retired lane holds lock from then on,
and returns by R286 or R293. -/
def execLaneTrainedState (p l : Nat) (a : Ability) (s : State) : State :=
  let v := fport p s
  let mode := portMode p s
  if s.start.stage < 3 || v.st == .dropped || v.gated || !abilityFits mode v.anOff a then
    (if v.st = .dropped ∧ abilityFits mode v.anOff a then
      setFport p (setLane l (fun x => { x with lockSince := some (x.lockSince.getD s.time.elapsed) }) v) s
    else s)
  else
    let train := fun x : Lane => match x.st with
      | .off | .training => { x with st := .active, lockSince := some s.time.elapsed }
      | .retired => { x with lockSince := some (x.lockSince.getD s.time.elapsed) }
      | .active => x
    let v := unstretch (if bonded mode then setLane l train v else { v with lanes := v.lanes.map train })
    setFport p { v with st := if v.st ≠ .up ∧ activeLanes v = 4 then .up else if v.st = .down then .training else v.st } s

/-- An ACTIVE lane is declared lost (R285, R289); one that is not ACTIVE loses its lock. -/
def loseLane (p l : Nat) (s : State) : State :=
  let v := fport p s
  match v.lanes[l]? with
  | some x =>
    if x.st = .active then
      let v := setLane l (fun x => { x with st := .retired, lockSince := none, queued := 0 }) v
      let v := if bonded (portMode p s) && 3 ≤ activeLanes v then { v with stretchPending := true } else v
      handBack p (· == l) (emit (.remoteFault p l) (countEvent (cLaneLost p) (unitLane p l)
        (countWear (unitLane p l) (fun w => { w with t := w.t + 1 }) (setFport p v s))))
    else setFport p (setLane l (fun x => { x with lockSince := none }) v) s
  | none => s

/-- LANE_LOST: codewords not corrected are counted, and 8 of them within 1 µs lose the lane, as every other cause does
(R285). -/
def execLaneLostState (p l : Nat) (cause : LaneFault) (s : State) : State :=
  match cause with
  | .uncorrectable n =>
    let s := fecEvents p l 0 n s
    if 8 ≤ n ∧ (((fport p s).lanes[l]?).map (·.st)) = some .active then loseLane p l s else s
  | .lockLost | .remoteFault | .alignmentLost => loseLane p l s

/-- PRT_CTRL.RETRAIN: the named lanes that are ACTIVE are declared lost. -/
def execPrtCtrlRetrainState (p mask : Nat) (s : State) : State :=
  ((List.range 4).filter fun l => bit mask l && (((fport p s).lanes[l]?).map (·.st)) == some .active).foldl
    (fun s l => loseLane p l s) s

/-- A lane has held lock for 62,500 passes. -/
def laneStable (x : Lane) (s : State) : Bool :=
  match x.lockSince with
  | some t => t + secStrokes ≤ s.time.elapsed
  | none => false

/-- LANE_RETURN (R286, R290): at a pass boundary a stable retired lane of an up port is ACTIVE again. -/
def execLaneReturnState (p l : Nat) (s : State) : State :=
  let v := fport p s
  match v.lanes[l]? with
  | some x =>
    if v.st = .up ∧ x.st = .retired ∧ laneStable x s ∧ strokeNow s = 0 then
      let v := unstretch (setLane l (fun x => { x with st := .active, queued := 0 }) v)
      countEvent (cLaneReturn p) (unitLane p l) (setFport p v s)
    else s
  | none => s

/-! ### Port drop and return (R291 to R293) -/

/-- Connections of the plate, and those that have state. -/
def allConns (s : State) : List Nat := once (usedConns s ++ s.tfx.conns.map (·.1))

/-- A connection that a dropped port carried moves to the lowest port of its PORTS mask and of the dropped port's FAILOVER mask
that is up; what stayed on the dropped port's queue is free to leave by any (R292). -/
def moveConn (p : Nat) (s : State) (c : Nat) : State :=
  let k := conn c s
  let s := setConn c
    { k with queue := replaceWhere (fun m => m.via == some p) (fun m => { m with via := none }) k.queue
             unacked := replaceWhere (fun f => f.via == some p) (fun f => { f with via := none }) k.unacked } s
  if seat c s ≠ some p then s
  else match workingPort c (bit (portRec p s).failover) s with
    | some q => setAux c { aux c s with route := (aux c s).route ++ [q] } s
    | none => s

/-- A connection returns to a port that has come back; what is queued stays with the port that carried it (R293). -/
def returnConn (p : Nat) (s : State) (c : Nat) : State :=
  match if (chainPorts c s).contains p then carrier c s else none with
  | none => s
  | some q =>
    if q = p then s
    else
      let k := conn c s
      let s := setConn c
        { k with queue := replaceWhere (fun m => m.via.isNone) (fun m => { m with via := some q }) k.queue
                 unacked := replaceWhere (fun f => f.again && f.via.isNone) (fun f => { f with via := some q }) k.unacked } s
      let a := aux c s
      setAux c { a with route := if homePort c s = some p then [] else a.route.takeWhile (· != p) ++ [p] } s

/-- A port drops: its lanes retire, its frames return, its connections are carried by others. -/
def dropPort (p : Nat) (s : State) : State :=
  let v := fport p s
  let retire := fun x : Lane => { x with st := .retired, queued := 0, lockSince := if x.st = .active then some s.time.elapsed else x.lockSince }
  let s := setFport p { v with st := .dropped, lanes := v.lanes.map retire, stretched := false, stretchPending := false,
                               credit := [], sends := [], granted := 0, spent := 0, deficit := 0 } s
  let s := countWear (unitPort p) (fun w => { w with t := w.t + 1 }) (handBack p (fun _ => true) s)
  let s := raise fPortDrop (unitPort p) [] (tally (cPortDrop p) s)
  (allConns s).foldl (moveConn p) s

/-- CARRIED_BY (R307): the ports that carry connections moved from a dropped port. -/
def carriedBy (p : Nat) (s : State) : Nat :=
  if (fport p s).st = .dropped then
    maskOf 8 fun q => (usedConns s).any fun c => (chainPorts c s).contains p && carrier c s == some q
  else 0

/-- PORT_DROP: too few lanes are ACTIVE. -/
def execPortDropState (p : Nat) (s : State) : State :=
  let v := fport p s
  if v.st = .up ∧ activeLanes v < (if bonded (portMode p s) then 3 else 4) then dropPort p s else s

/-- PORT_RETURN: at a pass boundary, with enough lanes stable for a second. -/
def execPortReturnState (p : Nat) (s : State) : State :=
  let v := fport p s
  let n := (v.lanes.filter fun x => laneStable x s).length
  if v.st ≠ .up ∧ !v.gated ∧ !bit s.flt.fencedPorts p ∧ strokeNow s = 0 ∧ (n = 4 ∨ (bonded (portMode p s) ∧ n = 3)) then
    let back := fun x : Lane => if laneStable x s then { x with st := .active } else x
    setFport p { v with st := .up, lanes := v.lanes.map back, stretched := decide (n = 3) }
      ((allConns s).foldl (returnConn p) s)
  else s

/-! ### SEND lines (R295; 09 R252, R254 to R256) -/

/-- A port island departs from its lines in the present stroke by lane loss: counted once. -/
def laneSlip (p : Nat) (s : State) : State :=
  if s.sch.applied.contains (islPort + p, 0x10003) then s
  else markApplied (islPort + p) 0x10003 (countEvent cLaneSlip (unitPort p) { s with sch.slipNow := true })

/-- The run is stretched or deferred: later lines wait for it, in its last stroke too, and its line runs outside its planned
strokes (R255). -/
def SendRun.departs (r : SendRun) : Bool := !r.heat && (r.len < r.runLen || r.start != some r.planned)

/-- The present stroke is one of those the run was planned for. -/
def SendRun.onPlan (r : SendRun) (st : Nat) : Bool := decide (r.planned ≤ st) && decide (st < r.planned + r.len)

/-- The close stroke that a line of class 0 follows has moved and has not come, so the line moves with it (09 R254). -/
def closePending (c planned : Nat) (s : State) : Bool :=
  s.sch.entries.any fun e =>
    match e.closeMoved, e.closedAt, e.req.bind fun id => reqFind id s with
    | some p, none, some r => p < planned && ((parentConn r s).orElse fun _ => r.conn) == some c &&
        decide (strokeCount s ≤ planned + passStrokes)
    | _, _, _ => false

/-- Credit that a run grants in its next stroke. -/
def SendRun.share (r : SendRun) : Nat :=
  let total := 64 * r.bytes * r.len
  if r.done + 1 = r.runLen then total - total / r.runLen * (r.runLen - 1) else total / r.runLen

/-- Planned IMPRs that waited for a class-0 line of their connection may leave once it starts. -/
def releaseAwait (c : Nat) (s : State) : State :=
  let k := conn c s
  let free := fun m : OutMsg => match m.await with
    | some t => if t < strokeCount s then { m with await := none } else m
    | none => m
  setConn c { k with queue := k.queue.map free } s

/-- The run of a line in the present stroke. -/
def runSend (p : Nat) (s : State) (r : SendRun) : State :=
  let v := fport p s
  let st := strokeCount s
  let keep := fun (r' : SendRun) (s : State) =>
    setFport p { fport p s with sends := replaceWhere (fun x => x == r) (fun _ => r') (fport p s).sends } s
  if r.runLen ≤ r.done || adapts p s then s
  else
    let ahead := v.sends.any fun x => x.planned < r.planned && x.departs
    let heat := r.cls == 0 && closePending r.conn r.planned s
    if r.start.isNone && !r.heat && !heat && r.planned + passStrokes ≤ st then
      setFport p { v with sends := [], credit := [] } { s with sch.unordered := s.sch.unordered ||| 2 ^ p }
    else if r.start.isNone && (ahead || heat) then
      if heat then keep { r with heat := true } s
      else laneSlip p s
    else
      let q := r.conn * 8 + r.cls
      let n := r.share
      let v := { v with credit := upd 0 v.credit q (· + n), granted := v.granted + n }
      let s := keep { r with start := some (r.start.getD st), done := r.done + 1 } (setFport p v s)
      let s := if r.start.isNone && r.cls == 0 then releaseAwait r.conn s else s
      if r.heat || r.onPlan st then s else laneSlip p s

/-- SEND_LINE: in every stroke in which the line, or its stretched or deferred run, claims credit. -/
def execSendLineState (isl idx : Nat) (s : State) : State :=
  if isl < islPort || islTime ≤ isl || s.sch.applied.contains (isl, idx) then s
  else match (linesOf isl s).find? fun x => x.1 == idx && x.2.op == opSend with
    | none => s
    | some (_, l) =>
      let p := isl - islPort
      let c := cycleLen (progOf isl s)
      let st := strokeCount s
      let s := markApplied isl idx s
      if !portWorks p s || bit s.sch.unordered p then
        (if l.claims c st 0 && (fport p s).st != .down && (fport p s).st != .training then laneSlip p s else s)
      else
        let len := l.lenM1 + 1
        let s := if l.age c st = 0 then
            let v := fport p s
            let r : SendRun := { idx := idx, conn := l.arg0 % 65536, cls := field l.arg0 16 3, bytes := l.arg1 % 32768,
                                 planned := st, len := len, runLen := if v.stretched then ceilDiv (4 * len) 3 else len,
                                 start := none, done := 0, heat := false }
            setFport p { v with sends := v.sends ++ [r] } s
          else s
        ((fport p s).sends.filter fun r => r.idx == idx).foldl (runSend p) s

/-! ### BEAT and ADAPT lines (09 R244, R258) -/

/-- The body of a heartbeat in the present stroke. -/
def beatBody (s : State) : List Byte :=
  let degraded := s.ports.any fun x => x.2.stretched || x.2.st == .dropped
  let throttled := (List.range 6).any fun g => thermalActive g s || hot g s
  let flags := b2n s.pwr.hold + 2 * b2n degraded + 4 * b2n throttled + 8 * b2n s.sch.slipPrev
  leBytes 8 (passNow s) ++ leBytes 2 (plate s).nodeId ++ leBytes 1 flags ++ leBytes 1 0 ++ leBytes 4 s.plt.deltaSeq ++
    leBytes 8 (s.time.now / strokeNs * strokeNs) ++ leBytes 8 0

def execBeatLineState (isl idx : Nat) (s : State) : State :=
  match if islPort ≤ isl && isl < islTime then dueLine isl idx opBeat s else none with
  | none => s
  | some l =>
    let c := l.arg0 % 65536
    let s := markApplied isl idx s
    if (conn c s).st = .active then tally cBeatsSent (queueMsg c { typ := tHeartbeat, body := beatBody s } s) else s

def execAdaptLineState (isl idx : Nat) (s : State) : State :=
  match if islPort ≤ isl && isl < islTime then dueStroke isl idx opAdapt s else none with
  | some _ => markApplied isl idx { s with tel.adapts := (s.tel.adapts + 1) % 65536 }
  | none => s

/-! ### Egress (R287, R294 to R297; 12_transport.md R313, R324 to R329) -/

/-- What stands at the head of a queue. -/
inductive Head where
  | ack
  | again (f : SentFrame)
  | fresh (m : OutMsg)
  deriving DecidableEq, Repr

/-- A queue with its head and the frame bytes that this takes. -/
structure Cand where
  conn : Nat
  cls : Nat
  head : Head
  size : Nat
  deriving DecidableEq, Repr

/-- Some working port that follows its lines has a class-0 SEND line for the connection. -/
def hasSendLine (c : Nat) (s : State) : Bool :=
  (List.range 8).any fun p => portWorks p s && !bit s.sch.unordered p &&
    (linesOf (islPort + p) s).any fun x => x.2.op == opSend && x.2.arg0 % 65536 == c && field x.2.arg0 16 3 == 0

/-- The message waits for its SEND line (09 R252). -/
def awaits (c : Nat) (m : OutMsg) (s : State) : Bool := m.await.isSome && hasSendLine c s

/-- Plaintext bytes of the message's next segment. -/
def nextSeg (m : OutMsg) : Nat := min 9024 (m.body.length - m.sent)

/-- A message or frame stands on a port's queue: on the port that it stays with, else where its connection may leave. -/
def stands (p : Nat) (via : Option Nat) (may : Bool) : Bool :=
  match via with
  | some q => q == p
  | none => may

/-- Credit, window, the epoch's count and its key allow the frame to be started for the first time (R319, R326, R329). -/
def mayStart (c : Nat) (m : OutMsg) (s : State) : Bool :=
  let k := conn c s
  let n := nextSeg m
  let flying := ((k.unacked.filter fun f => f.hdr.cls != 0).map fun f => f.hdr.segLen).sum
  let any := k.unacked.any fun f => f.hdr.cls != 0
  (connKey c k.sendEpoch s).isSome && !epochSpent c k.sendEpoch s &&
    (if m.cls = 0 then decide (k.consumed0 + segUnits n ≤ k.limit0)
      else decide (k.consumed + segUnits n ≤ k.limit) && (!any || decide (flying + n ≤ windowBytes c s)))

/-- The head of a port's queue of a connection and class. -/
def classHead (p c cls : Nat) (may : Bool) (s : State) : Option Head :=
  let k := conn c s
  if may && cls = 0 && (aux c s).ackReady && (connKey c k.sendEpoch s).isSome && !epochSpent c k.sendEpoch s then some .ack
  else match k.unacked.find? fun f => f.again && f.hdr.cls == cls && stands p f.via may && !epochSpent c f.hdr.epoch s with
    | some f => some (.again f)
    | none =>
      match k.queue.find? fun m => m.cls == cls && stands p m.via may && !awaits c m s with
      | some m => if mayStart c m s then some (.fresh m) else none
      | none => none

/-- The body of a result that carries ST_PLAN_SLIP, and for an IMPR FLAGS.SLIP (09 R255, R256; 00_scope.md R17). -/
def slipBody (impr : Bool) (b : List Byte) : List Byte :=
  let status := combine [u b 8 1, stPlanSlip]
  let flags := if impr then u b 9 1 ||| 16 else u b 9 1
  b.take 8 ++ leBytes 1 status ++ leBytes 1 flags ++ b.drop 10

/-- A frame of a message that leaves here and now carries the slip. -/
def slips (p c cls : Nat) (s : State) : Bool :=
  (homePort c s).any (fun h => h != p && (fport h s).st == .dropped) || bit s.sch.unordered p ||
    (fport p s).sends.any fun r => r.conn == c && r.cls == cls && r.start.isSome && r.departs

/-- The message as it would leave: the first segment of a slipping result is marked. -/
def marked (p c : Nat) (m : OutMsg) (s : State) : OutMsg :=
  if m.sent = 0 && !m.slip && (m.via.isSome || slips p c m.cls s) && ((m.typ == tImpr && !m.isResp) || m.isResp) then
    { m with slip := true, body := slipBody (m.typ == tImpr && !m.isResp) m.body }
  else m

/-- The segment that a message sends next, encoded. -/
def segment (m : OutMsg) : Encoded := encodeSegment m.kind (sub m.body m.sent (nextSeg m))

/-- Bytes of the frame of a head. -/
def headSize (p c : Nat) (h : Head) (s : State) : Nat :=
  overhead s + match h with
    | .ack => 0
    | .again f => f.coded.length
    | .fresh m => (segment (marked p c m s)).bytes.length

/-- The queues that have a frame to start: those of the connections that `may` names, and what stays with the port. -/
def cands (p : Nat) (may : Nat → Bool) (s : State) : List Cand :=
  let cs := (s.tfx.conns.filter fun x => x.2.st == .active || x.2.st == .closing).map (·.1)
  cs.flatMap fun c => (List.range 8).filterMap fun k => (classHead p c k (may c) s).map fun h => ⟨c, k, h, headSize p c h s⟩

/-- The lowest class, then the lowest connection after `after`, wrapping. -/
def before (a b : Cand) : Bool := a.cls < b.cls || (a.cls == b.cls && a.conn < b.conn)
def firstCand (cs : List Cand) : Option Cand :=
  cs.foldl (fun acc x => match acc with | some y => some (if before x y then x else y) | none => some x) none

/-- Step 1 of R297. -/
def byCredit (p : Nat) (s : State) : Option Cand :=
  let v := fport p s
  firstCand ((cands p (fun c => bit (connRec c s).ports p && (v.credit.any fun x => x.1 / 8 == c)) s).filter fun x =>
    x.size ≤ look 0 v.credit (x.conn * 8 + x.cls))

/-- The free budget of the present stroke is above zero (R295). -/
def freeBudget (p : Nat) (s : State) : Bool :=
  let v := fport p s
  decide (v.deficit + v.spent < portCapacity p s - v.granted)

/-- Another working port holds credit that covers the frame: it leaves there, on its line's reserved bytes first (R252). -/
def reservedElsewhere (p : Nat) (x : Cand) (s : State) : Bool :=
  let stays := match x.head with
    | .ack => false
    | .again f => f.via.isSome
    | .fresh m => m.via.isSome
  !stays && s.ports.any fun q => q.1 != p && portWorks q.1 s && decide (x.size ≤ look 0 q.2.credit (x.conn * 8 + x.cls))

/-- Step 2 of R297. -/
def byBudget (p : Nat) (s : State) : Option Cand :=
  if !freeBudget p s then none
  else
    let all := (cands p (fun c => carrier c s == some p) s).filter fun x => !reservedElsewhere p x s
    match firstCand all with
    | none => none
    | some x =>
      let same := all.filter fun y => y.cls == x.cls
      let last := look 0 (fport p s).lastServed x.cls
      match firstCand (same.filter fun y => last ≤ y.conn) with
      | some y => some y
      | none => some x

/-- The ACTIVE lane with the fewest wire bytes queued; in MODE 2 to 4 the one link. -/
def laneFor (p : Nat) (s : State) : Option Nat :=
  let ls := (indexed 0 (fport p s).lanes).filter fun x => x.2.st == .active
  if bonded (portMode p s) then
    (ls.foldl (fun acc x => match acc with
      | some (y : Nat × Lane) => some (if x.2.queued < y.2.queued then x else y)
      | none => some x) none).map (·.1)
  else if ls.isEmpty then none else some 0

/-- SACK of the frames held beyond NEXT_RX (R310). -/
def sackOf (k : Conn) : Nat :=
  ((List.range 32).map fun i => if k.held.contains ((k.nextRx + 1 + i) % seqMod) then 2 ^ i else 0).sum

/-- The header fields that every frame carries (R324). -/
def ackHdr (c : Nat) (s : State) : Hdr :=
  let k := conn c s
  { epoch := k.sendEpoch, next := decide (1 ≤ k.rollStep), clear := decide (k.rollStep = 3), conn := (connRec c s).peerConn
    ackPsn := k.nextRx, sack := sackOf k, credit := k.pool.limit % 65536, credit0 := k.pool0.limit % 65536
    attnCredit := k.attn.limit % 65536 }

/-- An acknowledgement has been sent. -/
def ackSent (c : Nat) (s : State) : State :=
  let k := conn c s
  setAux c { aux c s with owed := 0, ackNow := false, ackReady := false, sentLimit := k.pool.limit, sentLimit0 := k.pool0.limit } s

/-- The addresses of a frame (R309). -/
def frameAddr (p c cls : Nat) (s : State) : FrameAddr :=
  let pl := plate s
  let r := portRec p s
  let peer := (connRec c s).peerAddr
  if pl.native then ⟨peer % 2 ^ 48, r.mac, pl.etherType, 0, 0, 0, 0, 0, 0, 0, 0, 0⟩
  else ⟨look 0 s.tfx.nextHop p, r.mac, 0x86DD, cls * 32, c, r.ip, peer, 0xC000 + c % 16384, pl.udpPort, 6, 17, 64⟩

/-- The wire bytes that a lane has still to send. -/
def laneQueued (p lane : Nat) (s : State) : Nat := ((fport p s).lanes.getD lane {}).queued

/-- The frame goes onto a lane through the cipher stage, which latches its key's rank: its bytes are counted. -/
def putFrame (p lane c : Nat) (h : Hdr) (coded : List Byte) (key : Key) (s : State) : State :=
  let size := overhead s + coded.length
  let s := setFport p (setLane lane (fun x => { x with queued := x.queued + size + 20 }) (fport p s)) s
  let s := latchRank (connRec c s).keySlot h.epoch p lane (laneQueued p lane s) s
  emit (.frame p lane (frameAddr p c h.cls s) h coded key size)
    { s with tel.live.tx := upd 0 s.tel.live.tx p fun n => sat32 (n + size) }

/-- One more DATA or RESP frame, or ACK frame, under an epoch's key: at 2^31 the sender stops (R319). -/
def countSent (ack : Bool) (c epoch : Nat) (s : State) : State :=
  let a := aux c s
  let a := if ack then { a with acksSent := a.acksSent.modify epoch (· + 1) } else { a with dataSent := a.dataSent.modify epoch (· + 1) }
  let n := ((if ack then a.acksSent else a.dataSent)[epoch]?).getD 0
  let s := setAux c a s
  if n = 2 ^ 31 then countEvent cSeqExhaust (unitConn c) s else s

/-- A message with no answer has been sent whole (R335). -/
def messageSent (m : OutMsg) (s : State) : State :=
  match m.purpose with
  | .workReq slot => if m.mute then endWorkReq slot stOk s else s
  | .none | .hostSend _ | .moveOut _ | .remoteLoad _ | .remoteStore => s

/-- A fresh frame is built and started. -/
def startFresh (p lane c : Nat) (m0 : OutMsg) (key : Key) (free : Bool) (s : State) : State :=
  let m := marked p c m0 s
  let k := conn c s
  let n := nextSeg m
  let enc := segment m
  let last := m.sent + n == m.body.length
  let base := ackHdr c s
  let h : Hdr := { base with typ := m.typ, op := b2n m.isResp, cls := m.cls, kind := m.kind, last := last, msgSeq := m.msgSeq,
                             seq := k.nextTx, segOff := m.sent, segLen := n }
  let m' := { m with sent := m.sent + n }
  let queue := if last then k.queue.filter fun x => x != m0 else replaceWhere (fun x => x == m0) (fun _ => m') k.queue
  let f : SentFrame := { hdr := h, coded := enc.bytes, key := key, at_ := s.time.elapsed, timeouts := 0, later := 0,
                         sackSent := false, again := false, port := p, lane := lane, tag := m.tag, purpose := m.purpose
                         mute := m.mute, via := none }
  let k := { k with queue := queue, unacked := k.unacked ++ [f], nextTx := (k.nextTx + 1) % seqMod }
  let s := setConn c (if m.cls = 0 then { k with consumed0 := k.consumed0 + segUnits n } else { k with consumed := k.consumed + segUnits n }) s
  let s := if m.slip && !m0.slip then { s with tel.live.slipResults := sat32 (s.tel.live.slipResults + 1) } else s
  let s := if m.kind = 0 then s
    else
      let v := fport p s
      tallyBy enc.coded (cCoded p) <| tallyBy enc.raw (cRaw p) <|
        setFport p { v with txRaw := (v.txRaw + n) % 2 ^ 64, txCoded := (v.txCoded + enc.bytes.length) % 2 ^ 64 } s
  let s := if free && m.planned && !bit s.sch.unordered p && !connMoved c p s && m.typ == tImpr then
      countEvent cSendOverflow (unitPort p) s
    else s
  let s := putFrame p lane c h enc.bytes key (countSent false c h.epoch (ackSent c s))
  if last then messageSent m s else s

/-- The chosen frame starts. -/
def startCand (p lane : Nat) (x : Cand) (free : Bool) (s : State) : State :=
  let c := x.conn
  let k := conn c s
  match x.head with
  | .ack =>
    match connKey c k.sendEpoch s with
    | some key =>
      let base := ackHdr c s
      let h : Hdr := { base with typ := tHeartbeat, op := 2, seq := k.ackSerial }
      let s := setConn c { k with ackSerial := (k.ackSerial + 1) % seqMod } s
      let s := ackSent c s
      putFrame p lane c h [] key (countSent true c h.epoch (setAux c { aux c s with ackPass := passNow s } s))
    | none => s
  | .again f =>
    let f' := { f with again := false, at_ := s.time.elapsed, port := p, lane := lane, via := none }
    let s := setConn c { k with unacked := replaceWhere (fun y => y == f) (fun _ => f') k.unacked } s
    -- the frame was lost on the lane that had it
    let s := countWear (unitLane f.port f.lane) (fun w => { w with r := w.r + 1 }) s
    putFrame p lane c f.hdr f.coded f.key (countEvent cRetransmit (unitConn c) s)
  | .fresh m =>
    match connKey c k.sendEpoch s with
    | some key => startFresh p lane c m key free s
    | none => s

/-- A port's queue of a connection and class holds a frame. -/
def queueHolds (p c cls : Nat) (s : State) : Bool :=
  let k := conn c s
  (cls == 0 && (aux c s).ackReady) || (k.unacked.any fun f => f.again && f.hdr.cls == cls && stands p f.via true) ||
    k.queue.any fun m => m.cls == cls && stands p m.via true

/-- Credit of a queue ends when its last frame has started (R296). -/
def endCredit (p c cls : Nat) (s : State) : State :=
  if queueHolds p c cls s then s else setFport p { fport p s with credit := put 0 (fport p s).credit (c * 8 + cls) 0 } s

/-- FRAME_START: the port chooses the next frame and places it on a lane. -/
def execFrameStartState (p : Nat) (s : State) : State :=
  match if portWorks p s then laneFor p s else none with
  | none => s
  | some lane =>
    match byCredit p s with
    | some x =>
      let v := fport p s
      let s := setFport p { v with credit := upd 0 v.credit (x.conn * 8 + x.cls) (· - x.size) } s
      endCredit p x.conn x.cls (startCand p lane x false s)
    | none =>
      match byBudget p s with
      | some x =>
        let v := fport p s
        let s := setFport p { v with spent := v.spent + x.size, lastServed := put 0 v.lastServed x.cls (x.conn + 1) } s
        endCredit p x.conn x.cls (startCand p lane x true s)
      | none => s

/-! ### The receive path (R298, R299; 12 R310) -/

/-- The frame is a TFX frame of the plate's framing (12 R310). -/
def isTfx (p : Nat) (x : RxFrame) (s : State) : Bool :=
  let pl := plate s
  let r := portRec p s
  x.dstMac == r.mac && !x.vlan &&
    (if pl.native then x.etherType == pl.etherType
      else x.etherType == 0x86DD && x.ipVersion == 6 && x.nextHeader == 17 && !x.extHeader && x.dstIp == r.ip && x.udpDst == pl.udpPort)

abbrev smoothBytes : Nat := 262144
abbrev smoothKept : Nat := 32768

/-- Bytes in the smoothing queue, and those of classes above 0. -/
def smoothLevel (v : Port) : Nat := (v.smooth.map (·.size)).sum
def smoothHigh (v : Port) : Nat := ((v.smooth.filter fun x => (readHdr x.hdr).cls != 0).map (·.size)).sum

/-- FRAME_RECEIVE: the filter of R298, then the smoothing queue. -/
def execFrameReceiveState (p : Nat) (x : RxFrame) (s : State) : State :=
  let dark := fun v : Port => v.st == .down || v.st == .training || v.gated || bit s.flt.fencedPorts p
  let s := if dark (fport p s) then s else fecEvents p x.lane x.fecCorrected x.fecUncorrected s
  let v := fport p s
  let h := readHdr x.hdr
  if dark v then s
  else if !x.fcsOk then countEvent (cFcsBad p) (unitPort p) s
  else if x.size < 64 || 9216 < x.size then countEvent (cOversize p) (unitPort p) s
  else if !isTfx p x s then countEvent (cNotTfx p) (unitPort p) s
  else if (connRec h.conn s).used && !bit (connRec h.conn s).ports p then countEvent (cWrongPort p) (unitPort p) s
  else
    let s := { s with tel.live.rx := upd 0 s.tel.live.rx p fun n => sat32 (n + x.size) }
    let room := smoothLevel v + x.size ≤ smoothBytes && (h.cls == 0 || decide (smoothHigh v + x.size ≤ smoothBytes - smoothKept))
    if room then
      setFport p { v with smooth := v.smooth ++ [x], smoothPeak := max v.smoothPeak (smoothLevel v + x.size) } s
    else countEvent (cSmoothDrop p) (unitPort p) s

/-! ### The commands -/

def execSendLine (isl idx : Nat) (s : State) : Host.Outcome State Fault Refusal := .next (execSendLineState isl idx s)
def execBeatLine (isl idx : Nat) (s : State) : Host.Outcome State Fault Refusal := .next (execBeatLineState isl idx s)
def execAdaptLine (isl idx : Nat) (s : State) : Host.Outcome State Fault Refusal := .next (execAdaptLineState isl idx s)
def execLaneTrained (p l : Nat) (a : Ability) (s : State) : Host.Outcome State Fault Refusal := .next (execLaneTrainedState p l a s)
def execLaneLost (p l : Nat) (cause : LaneFault) (s : State) : Host.Outcome State Fault Refusal :=
  .next (execLaneLostState p l cause s)
def execPrtCtrlRetrain (p mask : Nat) (s : State) : Host.Outcome State Fault Refusal := .next (execPrtCtrlRetrainState p mask s)
def execLaneReturn (p l : Nat) (s : State) : Host.Outcome State Fault Refusal := .next (execLaneReturnState p l s)
def execPortDrop (p : Nat) (s : State) : Host.Outcome State Fault Refusal := .next (execPortDropState p s)
def execPortReturn (p : Nat) (s : State) : Host.Outcome State Fault Refusal := .next (execPortReturnState p s)
def execFrameStart (p : Nat) (s : State) : Host.Outcome State Fault Refusal := .next (execFrameStartState p s)
def execFrameReceive (p : Nat) (x : RxFrame) (s : State) : Host.Outcome State Fault Refusal := .next (execFrameReceiveState p x s)

end Sys2Proof.Machine
end

