-- ==== Sys2Proof/Machine/Transport.lean ====
section
/-! DEFINITION. The transport's receive side and its timers (12_transport.md R311 to R330, R472): a frame leaves the smoothing
queue, acknowledgements, retransmission, rollover stalls, credit review and the end of a closing connection. -/

namespace Sys2Proof.Machine

/-! ### Acknowledgements taken from a frame (R324) -/

/-- A PSN lies before another, mod 2^32. -/
def psnBefore (a b : Nat) : Bool := ahead 32 b a

/-- ACK_PSN, SACK and the credit limits of an accepted frame. -/
def takeAck (c : Nat) (h : Hdr) (s : State) : State :=
  let k := conn c s
  let upto := if ahead 32 h.ackPsn k.ackTo && decide ((h.ackPsn + seqMod - k.ackTo) % seqMod ≤ (k.nextTx + seqMod - k.ackTo) % seqMod)
    then h.ackPsn else k.ackTo
  let sacked := fun f : SentFrame =>
    let d := (f.hdr.seq + seqMod - (h.ackPsn + 1) % seqMod) % seqMod
    d < 32 && bit h.sack d
  let marks := k.unacked.filter sacked
  let left := k.unacked.filter fun f => !psnBefore f.hdr.seq upto && !sacked f
  let left := left.map fun f => { f with later := f.later + (marks.filter fun y => psnBefore f.hdr.seq y.hdr.seq).length }
  rollCheck c (setConn c
    { k with ackTo := upto, unacked := left, limit := raiseTo 16 h.credit k.limit, limit0 := raiseTo 16 h.credit0 k.limit0
             attnLimit := raiseTo 16 h.attnCredit k.attnLimit } s)

/-- NEXT and CLEAR of an accepted frame under epoch `e` (R319). -/
def takeRoll (c e : Nat) (h : Hdr) (s : State) : State :=
  let k := conn c s
  let newer := if k.rollStep = 1 then 1 - k.sendEpoch else k.sendEpoch
  rollCheck c (setConn c
    { k with peerNext := h.next || (k.rollStep = 1 && k.peerNext)
             peerClear := k.peerClear || (decide (1 ≤ k.rollStep) && e == newer && h.clear) } s)

/-! ### Segments and messages (R311, R312, R315, R316, R330) -/

/-- Only these travel in class 0 (R312). -/
def classFits (h : Hdr) : Bool := h.cls != 0 || h.op == 1 || h.typ == tImpr || h.typ == tHeartbeat || h.typ == tBarrier

/-- A tree line of the plate names the connection as a child or backup. -/
def isChildConn (c : Nat) (s : State) : Bool :=
  (plate s).trees.any fun t => t.children.any fun x => x.primary == c || x.backup == c

/-- The segments by rising offset, one after the other. -/
def Partial.body (x : Partial) : List Byte :=
  (sortNat (x.segs.map (·.off))).flatMap fun o => ((x.segs.find? fun y => y.off == o).map (·.data)).getD []

/-- A complete message reaches its consumer: the collator, a ring, or the command of its type. -/
def handMessage (c : Nat) (x : Partial) (done : Nat) (s : State) : State :=
  let body := x.body
  if x.typ = tImpr ∧ !x.isResp ∧ !isChildConn c s then
    toRing (aux c s).ring ⟨c, tImpr, 0, u body 0 8, u body 8 1, body, some x.cls⟩ s
  else
    let m : InMsg := { conn := c, typ := x.typ, isResp := x.isResp, cls := x.cls, body := body, port := x.port, at_ := x.at_
                       doneAt := done, beyond := x.beyond }
    { s with tfx.inbox := s.tfx.inbox ++ [m] }

/-- The number of the next message of a series to hand over. -/
def nextNumber (class0 : Bool) (k : Conn) : Nat := if class0 then k.seqRx0 else k.seqRx
def bumpNumber (class0 : Bool) (k : Conn) : Conn :=
  if class0 then { k with seqRx0 := (k.seqRx0 + 1) % 65536 } else { k with seqRx := (k.seqRx + 1) % 65536 }

/-- A number lies outside the 16 from the next to hand over. -/
def outsideWindow (class0 : Bool) (n : Nat) (k : Conn) : Bool := decide (16 ≤ (n + 65536 - nextNumber class0 k) % 65536)

/-- The message of a series and number. -/
def findPartial (class0 : Bool) (n : Nat) (k : Conn) : Option Partial :=
  k.partials.find? fun x => x.class0 == class0 && x.msgSeq == n
def dropPartial (x : Partial) (k : Conn) : Conn :=
  { k with partials := k.partials.filter fun y => !(y.class0 == x.class0 && y.msgSeq == x.msgSeq) }
def setPartial (x : Partial) (k : Conn) : Conn := { dropPartial x k with partials := (dropPartial x k).partials ++ [x] }

/-- Messages of a series whose turn has come are handed over; a discarded one is passed over (R330). -/
def handOn (c : Nat) (class0 : Bool) : Nat → State → State
  | 0, s => s
  | n + 1, s =>
    let k := conn c s
    match findPartial class0 (nextNumber class0 k) k with
    | none => s
    | some x =>
      if x.dead then handOn c class0 n (setConn c (bumpNumber class0 k) s)
      else match x.doneAt with
        | some t => handOn c class0 n (handMessage c x t (setConn c (bumpNumber class0 (dropPartial x k)) s))
        | none => s

/-- The longest message body (R315). -/
abbrev maxBody : Nat := 2097152

/-- A message is discarded whole: the credit of its segments returns, and later ones are swallowed. -/
def killPartial (c : Nat) (x : Partial) (s : State) : State :=
  giveUnits c x.cls ((x.segs.map fun y => segUnits y.data.length).sum)
    (setConn c (setPartial { x with segs := [], dead := true, doneAt := none } (conn c s)) s)

/-- The segment breaks none of the rules of R312 and R315 beside those that its message has already. -/
def segmentFits (x : Partial) (h : Hdr) : Bool :=
  classFits h && h.segOff % 9024 == 0 && (h.last || h.segLen == 9024) && decide (1 ≤ h.segLen) && decide (h.segLen ≤ 9024) &&
    decide (h.segOff + h.segLen ≤ maxBody) &&
    (x.segs.all fun y => if y.off < h.segOff then psnBefore y.psn h.seq else decide (h.segOff < y.off) && psnBefore h.seq y.psn) &&
    (match x.last with
     | some l => !h.last && decide (h.segOff < l.1)
     | none => !h.last || x.segs.all fun y => decide (y.off < h.segOff))

/-- The segment joins its message, which is complete once its LAST segment and every earlier one have arrived (R316). -/
def joinSegment (p : Nat) (h : Hdr) (seg : List Byte) (beyond : Bool) (now : Nat) (x : Partial) : Partial :=
  let segs := x.segs ++ [⟨h.segOff, h.seq, seg⟩]
  let last := if h.last then some (h.segOff, h.seq) else x.last
  let x := if h.segOff = 0 then { x with port := p, at_ := now, beyond } else x
  { x with segs, last, doneAt := match last with
      | some l => if segs.length = l.1 / 9024 + 1 then some now else none
      | none => none }

/-- One segment, as it arrives. A TYPE outside R18 counts in BAD_CONN on every frame (R311), a message that breaks R312 or R315
once in BAD_SEGMENT. -/
def takeSegment (p c : Nat) (h : Hdr) (seg : List Byte) (beyond : Bool) (s : State) : State :=
  let class0 := h.cls == 0
  let unknown := !messageTypes.contains h.typ
  let s := if unknown then countEvent cBadConn (unitConn c) s else s
  let k := conn c s
  let x : Partial := (findPartial class0 h.msgSeq k).getD
    { msgSeq := h.msgSeq, class0, typ := h.typ, isResp := h.op == 1, cls := h.cls }
  let dead := { x with last := if h.last then some (h.segOff, h.seq) else x.last }
  if x.dead then giveUnits c h.cls (segUnits h.segLen) (setConn c (setPartial dead k) s)
  else if unknown || outsideWindow class0 h.msgSeq k || !segmentFits x h then
    giveUnits c h.cls (segUnits h.segLen) (killPartial c dead (if unknown then s else countEvent cBadSegment (unitConn c) s))
  else setConn c (setPartial (joinSegment p h seg beyond (strokeCount s) x) k) s

/-- NEXT_RX moves past every consecutive held PSN (R323). -/
def advance : Nat → Conn → Conn
  | 0, k => k
  | n + 1, k =>
    if k.held.contains k.nextRx then
      advance n { k with held := k.held.filter (· != k.nextRx), nextRx := (k.nextRx + 1) % seqMod }
    else k

/-- A segment lies below NEXT_RX and the one before it in its message does not: it did not follow it in PSN order (R315). -/
def brokenOrder (k : Conn) (x : Partial) : Bool :=
  !x.dead && x.segs.any fun y => psnBefore y.psn k.nextRx && y.off != 0 && !(x.segs.any fun z => z.off + 9024 == y.off)

/-- What a moved NEXT_RX settles: messages whose order is broken are discarded, and discarded ones of which no segment can
still come are forgotten. -/
def settleRx (c : Nat) (s : State) : State :=
  let s := ((conn c s).partials.filter (brokenOrder (conn c s))).foldl (fun s x =>
    killPartial c x (countEvent cBadSegment (unitConn c) s)) s
  let k := conn c s
  let over_ := fun x : Partial => x.dead && outsideWindow x.class0 x.msgSeq k && x.last.any fun l => psnBefore l.2 k.nextRx
  setConn c { k with partials := k.partials.filter fun x => !over_ x } s

/-! ### TFX_FRAME_ACCEPT (R311, R314, R318, R323) -/

/-- The epoch under which a frame authenticates: that it names, then the other (R318). -/
def authEpoch (c : Nat) (h : Hdr) (sealKey : Option Key) (s : State) : Option Nat :=
  match sealKey with
  | none => none
  | some key => if connKey c h.epoch s = some key then some h.epoch
      else if connKey c (1 - h.epoch) s = some key then some (1 - h.epoch) else none

/-- A frame that is held: its credit, its ATTN token and the acknowledgement it is owed. -/
def holdFrame (p c : Nat) (h : Hdr) (seg : List Byte) (s : State) : State :=
  let k := conn c s
  let n := segUnits h.segLen
  let isAttn := h.typ == tAttn && h.op == 0 && h.segOff == 0
  let beyond := isAttn && decide (k.attn.limit ≤ k.attn.used)
  let s1 := setConn c
    (if h.cls = 0 then { k with pool0 := consume n poolCap0 (pool0Free s) k.pool0 }
      else { k with pool := consume n (poolCap c s) (poolFree s) k.pool }) s
  let k := conn c s1
  let k := if isAttn && !beyond then { k with attn := consume 1 64 (attnFree s1) k.attn } else k
  let a := aux c s1
  let a := { a with owed := a.owed + 1, oldest := if a.owed = 0 then s1.time.elapsed else a.oldest }
  let s := takeSegment p c h seg beyond (setAux c a (setConn c { k with held := k.held ++ [h.seq] } s1))
  handOn c true 17 (handOn c false 17 (settleRx c (setConn c (advance 1024 (conn c s)) s)))

/-- A DATA or RESP frame by its PSN. -/
def takePsn (p c : Nat) (h : Hdr) (seg : List Byte) (s : State) : State :=
  let k := conn c s
  let d := (h.seq + seqMod - k.nextRx) % seqMod
  if 2 ^ 31 ≤ d || k.held.contains h.seq then
    setAux c { aux c s with ackNow := true } (countEvent cDupFrame (unitConn c) s)
  else if 1024 ≤ d then countEvent cOutOfRange (unitConn c) s
  else
    let pool := if h.cls = 0 then k.pool0 else k.pool
    if pool.limit < pool.used + segUnits h.segLen then countEvent cCreditViol (unitConn c) s
    else holdFrame p c h seg s

def execTfxFrameAcceptState (p : Nat) (s : State) : State :=
  let v := fport p s
  match v.smooth with
  | [] => s
  | x :: t =>
    if bit s.flt.fencedPorts p then s
    else
      let s := setFport p { v with smooth := t } s
      let h := readHdr x.hdr
      let c := h.conn
      if (conn c s).st = .unused then countEvent cBadConn (unitConn c) s
      else match authEpoch c h x.sealKey s with
        | none => countEvent cAuthFail (unitConn c) s
        | some e =>
          if hdrReserved x.hdr || (h.op == 2 && !ackFieldsOk h) then countEvent cBadConn (unitConn c) s
          else match if h.op = 2 then some [] else decodeSegment h.kind h.segLen x.coded with
            | none => countEvent (cIntegrity p) (unitPort p) s
            | some seg =>
              let s := takeRoll c e h (takeAck c h s)
              match (conn c s).st with
              | .active | .closing => if h.op = 2 then s else takePsn p c h seg s
              | .failed | .keyless | .unused => s

/-! ### Acknowledgement, retransmission, rollover, credit, close -/

/-- A separate acknowledgement is due (R324, and step 1 of R319). -/
def ackDue (c : Nat) (s : State) : Bool :=
  let a := aux c s
  let k := conn c s
  (k.st == .active || k.st == .closing) &&
    (decide (4 ≤ a.owed) || (decide (1 ≤ a.owed) && decide (a.oldest + 4 ≤ s.time.elapsed)) || a.ackNow ||
      decide (a.sentLimit + 36 ≤ k.pool.limit) || decide (a.sentLimit0 + 36 ≤ k.pool0.limit) ||
      (decide (1 ≤ k.rollStep) && decide (a.ackPass < passNow s)))

/-- ACK_SEND: the ACK frame takes its place at the head of class 0. -/
def execAckSendState (c : Nat) (s : State) : State :=
  if ackDue c s then setAux c { aux c s with ackReady := true } s else s

/-- Strokes of the retransmission timer, 50 µs (R325). -/
abbrev retransmitStrokes : Nat := 200

/-- RETRANSMIT (R325). -/
def execRetransmitState (c psn : Nat) (s : State) : State :=
  let k := conn c s
  match k.unacked.find? fun f => f.hdr.seq == psn with
  | none => s
  | some f =>
    let keep := fun g : SentFrame => setConn c { k with unacked := replaceWhere (fun y => y.hdr.seq == psn) (fun _ => g) k.unacked } s
    if 4 ≤ f.later ∧ !f.sackSent ∧ !f.again then keep { f with again := true, sackSent := true }
    else if f.at_ + retransmitStrokes ≤ s.time.elapsed then
      if f.timeouts + 1 = 16 then failConn c s
      else keep { f with again := true, timeouts := f.timeouts + 1, at_ := s.time.elapsed }
    else s

/-- ROLL_STALL (R320). -/
def execRollStallState (c : Nat) (s : State) : State :=
  let k := conn c s
  let a := aux c s
  if 1 ≤ k.rollStep ∧ k.rollPass + secPasses ≤ passNow s ∧ !a.stalled then
    raise fRollStall (unitConn c) [] (tally cRollStall (setAux c { a with stalled := true } s))
  else s

/-- CREDIT_SHRINK: the review of the group of 64 passes that has ended (R472). -/
def execCreditShrinkState (c : Nat) (s : State) : State :=
  let a := aux c s
  let k := conn c s
  if a.group < passNow s / 64 then
    setAux c { a with group := passNow s / 64 } (setConn c
      { k with pool := shrinkPool reserveUnits k.pool, pool0 := shrinkPool reserveUnits k.pool0
               attn := shrinkPool reserveTokens k.attn } s)
  else s

/-- CLOSING_END (R321). -/
def execClosingEndState (c : Nat) (s : State) : State :=
  let k := conn c s
  let a := aux c s
  let moves := s.res.moveOuts.any fun m => m.conn == c && !m.waiting.isEmpty
  let drained := k.queue.isEmpty && k.unacked.isEmpty && a.waits.isEmpty && !moves
  if k.st = .closing ∧ (drained ∨ a.closeAt + msStrokes ≤ s.time.elapsed) then
    let slot := (connRec c s).keySlot
    let mine := match look (0, 0) (plate s).keymap slot with
      | (use, owner) => use == 0 || (use == 1 && owner == c)
    toKeyless c (if mine then erasePos slot 0 (erasePos slot 1 s) else s)
  else s

/-! ### The commands -/

def execTfxFrameAccept (p : Nat) (s : State) : Host.Outcome State Fault Refusal := .next (execTfxFrameAcceptState p s)
def execAckSend (c : Nat) (s : State) : Host.Outcome State Fault Refusal := .next (execAckSendState c s)
def execRetransmit (c psn : Nat) (s : State) : Host.Outcome State Fault Refusal := .next (execRetransmitState c psn s)
def execRollStall (c : Nat) (s : State) : Host.Outcome State Fault Refusal := .next (execRollStallState c s)
def execCreditShrink (c : Nat) (s : State) : Host.Outcome State Fault Refusal := .next (execCreditShrinkState c s)
def execClosingEnd (c : Nat) (s : State) : Host.Outcome State Fault Refusal := .next (execClosingEndState c s)

end Sys2Proof.Machine
end

