-- ==== Sys2Proof/Machine/Remote.lean ====
section
/-! DEFINITION. Remote operations: registered regions, RDMA_RD, RDMA_WR, ATOMIC, triggers and pre-posted work requests, the
answers that come back, and remote loads and stores of the host (12_transport.md R331 to R335; 13_host_attachment.md R353 to
R355). -/

namespace Sys2Proof.Machine

/-! ### Regions (R331) -/

def region (i : Nat) (s : State) : Region := look {} s.tfx.regions i
def setRegion (i : Nat) (r : Region) (s : State) : State := { s with tfx.regions := put {} s.tfx.regions i r }

/-- The key of an entry. -/
def regionKey (i : Nat) (s : State) : Nat := (region i s).gen * 2 ^ 18 + i

/-- Rights of a region. -/
abbrev rightRead : Nat := 0
abbrev rightWrite : Nat := 1
abbrev rightAtomic : Nat := 2

/-- The region a key names, for a tenant and a right. -/
def regionFor (key tenant right : Nat) (s : State) : Option Region :=
  let r := region (key % 2 ^ 18) s
  if r.live && r.gen == key / 2 ^ 18 && r.tenant == tenant && bit r.rights right then some r else none

/-- The bytes lie in the region. -/
def inRegion (r : Region) (off n : Nat) (s : State) : Bool :=
  decide (off + n ≤ r.len) && (!r.bar2 || b2Ok r.fn (r.base + off) n s)

def regionRead (r : Region) (off n : Nat) (s : State) : List Byte :=
  if r.bar2 then b2Read r.fn (r.base + off) n s else memRead s.mem.host (r.base + off) n

def regionWrite (r : Region) (off : Nat) (bs : List Byte) (s : State) : State :=
  if r.bar2 then b2Write r.fn (r.base + off) bs s else { s with mem.host := memWrite s.mem.host (r.base + off) bs }

/-! ### Work requests (R334, R335) -/

def trigger (i : Nat) (s : State) : Trigger := look {} s.tfx.triggers i
def setTrigger (i : Nat) (t : Trigger) (s : State) : State := { s with tfx.triggers := put {} s.tfx.triggers i t }

/-- An RDMA_WR that asks for no answer on success. -/
def isQuiet (typ : Nat) (body : List Byte) : Bool := typ == tRdmaWr && bit (u body 0xC 1) 1

/-- A work request fires: its message is queued as if the host had just submitted it. -/
def fireOne (s : State) (w : WorkReq) : State :=
  let s := { s with tfx.workReqs := replaceWhere (fun x => x.slot == w.slot) (fun x => { x with fired := true }) s.tfx.workReqs }
  match sendRefusal w.conn s with
  | some st => endWorkReq w.slot st s
  | none =>
    let body := b2Read w.fn w.body w.bodyLen s
    submitMsg w.conn { typ := w.typ, cls := w.cls, kind := postKind w.typ body, tag := u body 0 8, body
                       purpose := .workReq w.slot, mute := isQuiet w.typ body || w.typ == tTrig } s

/-- Requests of a counter that have reached their threshold fire in posting order. -/
def fireAll (i : Nat) (s : State) : State :=
  (s.tfx.workReqs.filter fun w => w.counter == i && !w.fired && decide (w.threshold ≤ (trigger i s).value)).foldl fireOne s

/-- A trigger of a tenant raises its counter. -/
def raiseTrigger (c i count : Nat) (s : State) : State :=
  let t := trigger i s
  if t.tenant = some (connRec c s).tenant then
    fireAll i (setTrigger i { t with value := min 0xFFFFFFFF (t.value + count) } s)
  else countEvent cTrigBad (unitConn c) s

/-! ### Remote operations (R331 to R333) -/

/-- A remote operation's answer: its completion header and data, in the class of the request. -/
def answer (c : Nat) (m : InMsg) (kind status bytes : Nat) (data : List Byte) (s : State) : State :=
  let tag := u m.body 0 8
  queueMsg c { typ := m.typ, isResp := true, cls := m.cls, kind, tag, body := completionBody tag status bytes ++ data } s

/-- The remote operation of a connection that runs next, when it has this type: those of one connection run in the order in
which they were handed over, and an RDMA_WR after every earlier write (R330). -/
def nextRemote (c typ : Nat) (s : State) : Option InMsg :=
  let l := s.tfx.inbox.filter fun m => m.conn == c && !m.isResp
  match l.find? fun m => m.typ == tRdmaRd || m.typ == tRdmaWr || m.typ == tAtomic || m.typ == tTrig with
  | some m =>
    if m.typ = typ ∧ (typ ≠ tRdmaWr ∨ l.find? isOrderedWrite = some m) then some m else none
  | none => none

/-- A waiting remote operation is taken, and told whether its party is scrub-pending; it stays for a partition that an armed
delta holds. -/
def takeRemote (c typ : Nat) (run : InMsg → Bool → State → State) (s : State) : State :=
  match nextRemote c typ s with
  | none => s
  | some m =>
    let r := connRec c s
    if heldPart r.part s then s
    else run m (scrubPending r.part r.tenant s) (returnCredit c m.cls m.body.length (inboxTake m s))

/-- The conditions that end an operation on `n` bytes at its OFFSET without effect, beside the check of its region (R331), as
their one status (R17). -/
def remoteStatus (n : Nat) (bodyBad fenced dma : Bool) (regionBad : Region → Bool) (g : Option Region) (m : InMsg) (s : State) : Nat :=
  combine (codeIf bodyBad stMalformed ++ codeIf fenced stFenced ++ match g with
    | none => [stAuthFail]
    | some r => codeIf (!inRegion r (u m.body 0x10 8) n s || regionBad r) stMalformed ++ codeIf (dma && !r.bar2) stTargetDead)

/-- An operation runs on the region its key names, or is answered with the status it ends with. -/
def onRegion (c right n : Nat) (bodyBad fenced dma : Bool) (regionBad : Region → Bool) (m : InMsg)
    (run : Region → State → State) (s : State) : State :=
  let g := regionFor (u m.body 8 4) (connRec c s).tenant right s
  let st := remoteStatus n bodyBad fenced dma regionBad g m s
  match g with
  | some r => if st = stOk then run r s else answer c m r.kind st 0 [] s
  | none => answer c m 0 st 0 [] (if st = stAuthFail then countEvent cRegionFail (unitConn c) s else s)

/-- RDMA_RD. -/
def execRdmaRdState (c : Nat) (dmaError : Bool) (s : State) : State :=
  takeRemote c tRdmaRd (fun m fenced s =>
    let n := u m.body 0xC 4
    let bad := m.body.length != 0x20 || n == 0 || decide (1048576 < n) || u m.body 0x18 8 != 0
    onRegion c rightRead n bad fenced dmaError (fun _ => false) m (fun r s =>
      answer c m r.kind stOk n (regionRead r (u m.body 0x10 8) n s) s) s) s

/-- An RDMA_WR body breaks its rules. -/
def writeBad (b : List Byte) : Bool :=
  let trig := bit (u b 0xC 1) 0
  b.length ≤ 0x20 || 0x20 + 1048576 < b.length || u b 0xC 1 / 4 != 0 || u b 0xD 3 != 0 || u b 0x18 4 / 2 ^ 17 != 0 ||
    u b 0x1E 2 != 0 || (!trig && (u b 0x18 4 != 0 || u b 0x1C 2 != 0))

/-- RDMA_WR. -/
def execRdmaWrState (c : Nat) (dmaError : Bool) (s : State) : State :=
  takeRemote c tRdmaWr (fun m fenced s =>
    let data := m.body.drop 0x20
    onRegion c rightWrite data.length (writeBad m.body) fenced dmaError (fun _ => false) m (fun r s =>
      let s := regionWrite r (u m.body 0x10 8) data s
      let s := if bit (u m.body 0xC 1) 0 then raiseTrigger c (u m.body 0x18 4) (u m.body 0x1C 2) s else s
      if bit (u m.body 0xC 1) 1 then s else answer c m r.kind stOk data.length [] s) s) s

/-- The value an ATOMIC stores (R332): OPCODE 0 fetch-add, 1 compare-swap, 2 swap. -/
def atomicValue (opcode old operand compare_ : Nat) : Nat :=
  if opcode = 0 then (old + operand) % 2 ^ 64
  else if opcode = 1 then (if old = compare_ then operand else old)
  else operand

/-- ATOMIC. -/
def execAtomicState (c : Nat) (s : State) : State :=
  takeRemote c tAtomic (fun m fenced s =>
    let b := m.body
    let opcode := u b 0xC 4
    let off := u b 0x10 8
    let bad := b.length != 0x28 || decide (3 ≤ opcode) || (opcode != 1 && u b 0x20 8 != 0) || off % 8 != 0
    onRegion c rightAtomic 8 bad fenced false (fun r => !r.bar2) m (fun r s =>
      let old := leNat (regionRead r off 8 s)
      let s := regionWrite r off (leBytes 8 (atomicValue opcode old (u b 0x18 8) (u b 0x20 8))) s
      answer c m r.kind stOk 8 (leBytes 8 old) s) s) s

/-- TRIG: no answer (R334). -/
def execTrigState (c : Nat) (s : State) : State :=
  takeRemote c tTrig (fun m fenced s =>
    let b := m.body
    if fenced || b.length != 16 || u b 0 4 / 2 ^ 17 != 0 || u b 4 4 == 0 || u b 8 8 != 0 then s
    else raiseTrigger c (u b 0 4) (u b 4 4) s) s

/-! ### Answers (R335; 13 R354) -/

/-- RESP: the answer to a message of the host, of a work request or of a remote load. An answer that nothing awaits is
discarded, but for the failure of a QUIET write, which reaches the ring (notes/assumptions/33.md). -/
def execRespState (c : Nat) (s : State) : State :=
  match s.tfx.inbox.find? fun m => m.conn == c && m.isResp && m.typ != tMove && m.typ != tExport with
  | none => s
  | some m =>
    let s := inboxTake m s
    let back := returnCredit c m.cls m.body.length
    let tag := u m.body 0 8
    let status := completionStatus m.body
    let a := aux c s
    let toHost := fun (tag : Nat) (s : State) => toRing a.ring ⟨c, m.typ, 1, tag, status, m.body, some m.cls⟩ s
    match a.waits.find? fun w => w.tag == tag && w.typ == m.typ with
    | none => if m.typ = tRdmaWr ∧ status ≠ stOk then toHost tag s else back s
    | some w =>
      let s := setAux c { a with waits := dropWait w a.waits } s
      match w.purpose with
      | .hostSend t => toHost t s
      | .workReq slot =>
        match s.tfx.workReqs.find? fun x => x.slot == slot with
        | some x => endWorkReq slot status (toHost x.tag s)
        | none => back s
      | .remoteLoad id =>
        let s := back s
        if status = stOk then
          emit (.loadData id (m.body.drop 16)) { s with host.loads := s.host.loads.filter fun l => l.id != id }
        else abortLoad id s
      | .none | .moveOut _ | .remoteStore => back s

/-! ### Remote loads and stores of the host (13 R354, R355) -/

/-- Strokes of 20 µs. -/
abbrev deadStrokes : Nat := 80

/-- The target of a window is dead. -/
def deadWindow (w : Nat) (s : State) : Bool :=
  let c := (rwin w s).conn
  (conn c s).st == .failed || (aux c s).lost || s.host.loads.any fun l => l.window == w && decide (l.at_ + deadStrokes ≤ s.time.elapsed)

/-- The access breaks R354. -/
def accessBad (off n : Nat) (s : State) : Bool :=
  n == 0 || 64 < n || decide (64 < off % 64 + n) || !(rwin (off / 2 ^ 26) s).valid

/-- The region offset of a BAR4 offset. -/
def remoteOffset (off : Nat) (s : State) : Nat := ((rwin (off / 2 ^ 26) s).base + off % 2 ^ 26) % 2 ^ 64

/-- The TAG of the node's next message. -/
def takeTag (s : State) : Nat × State := (s.tfx.nextTag, { s with tfx.nextTag := (s.tfx.nextTag + 1) % 2 ^ 64 })

/-- REMOTE_LOAD: one RDMA_RD in class 1. -/
def execRemoteLoadState (off n : Nat) (s : State) : State :=
  if accessBad off n s then emit .unsupportedRequest s
  else
    let w := off / 2 ^ 26
    let win := rwin w s
    let id := s.host.nextLoad
    let l : RemoteLoad := { id := id, window := w, len := n, at_ := s.time.elapsed }
    let s := { s with host.nextLoad := id + 1, host.loads := s.host.loads ++ [l] }
    match sendRefusal win.conn s with
    | some _ => if win.watch then s else abortLoad id s
    | none =>
      let t := takeTag s
      let body := leBytes 8 t.1 ++ leBytes 4 win.rkey ++ leBytes 4 n ++ leBytes 8 (remoteOffset off s) ++ leBytes 8 0
      submitMsg win.conn { typ := tRdmaRd, cls := 1, tag := t.1, body, purpose := .remoteLoad id } t.2

/-- REMOTE_STORE: one RDMA_WR with QUIET; discarded with a fault where the target is dead. -/
def execRemoteStoreState (off : Nat) (data : List Byte) (s : State) : State :=
  if accessBad off data.length s then emit .unsupportedRequest s
  else
    let w := off / 2 ^ 26
    let win := rwin w s
    if deadWindow w s then raise fDeadTarget (unitConn win.conn) [] s
    else
      let t := takeTag s
      let body := leBytes 8 t.1 ++ leBytes 4 win.rkey ++ leBytes 1 2 ++ leBytes 3 0 ++ leBytes 8 (remoteOffset off s) ++
        leBytes 8 0 ++ data
      queueMsg win.conn { typ := tRdmaWr, cls := 1, kind := postKind tRdmaWr body, tag := t.1, body, purpose := .remoteStore, mute := true } t.2

/-- DEAD_TARGET: a load of the watch class on a dead target completes with all ones. -/
def execDeadTargetState (id : Nat) (s : State) : State :=
  match s.host.loads.find? fun l => l.id == id with
  | none => s
  | some l =>
    let win := rwin l.window s
    let c := win.conn
    if win.watch && (((conn c s).st != .active && (conn c s).st != .closing) || (aux c s).lost ||
        decide (l.at_ + deadStrokes ≤ s.time.elapsed)) then
      let s := { s with host.loads := s.host.loads.filter fun x => x.id != id }
      let s := setAux c { aux c s with waits := (aux c s).waits.filter fun w => w.purpose != .remoteLoad id } s
      raise fDeadTarget (unitConn c) []
        (tally cDeadLoads (emit (.loadData id (List.replicate l.len 0xFF)) s))
    else s

/-! ### Transport commands (13 R349, R350) -/

def runTransport (f op : Nat) (fs : List (Nat × Nat)) (reasons : Cmd → State → List (Bool × Nat))
    (ok : Cmd → State → State) (s : State) : State :=
  runCmd f 2 op fs false (fun c s => lowestReason (reasons c s)) ok s

/-- The command names a used connection of its partition. -/
def connMine (c : Cmd) (k : Nat) (s : State) : Bool := (connRec k s).used && (connRec k s).part == c.part

/-- Types that the host may send. -/
def hostTypes : List Nat := [tRdmaRd, tRdmaWr, tAtomic, tTrig]

/-- What the message of a SEND or POST_WR must satisfy. -/
def messageReasons (c : Cmd) (k typ cls body len : Nat) (s : State) : List (Bool × Nat) :=
  [(!connOwned c k s, 3), (!hostTypes.contains typ || cls == 0, 6), (len == 0 || !b2Ok c.f body len s, 2)]

/-- SEND. -/
def execSendState (f : Nat) (s : State) : State :=
  runTransport f 1 [(0, 16), (2, 8), (3, 3), (8, 64), (0x10, 21), (0x18, 64)]
    (fun c s => messageReasons c (c.arg 0 2) (c.arg 2 1) (c.arg 3 1) (c.arg 8 8) (c.arg 0x10 4) s)
    (fun c s =>
      let k := c.arg 0 2
      match sendRefusal k s with
      | some st => endCmd c st 4 0 s
      | none =>
        let len := c.arg 0x10 4
        let body := b2Read c.f (c.arg 8 8) len s
        let typ := c.arg 2 1
        endCmd c stOk 0 len
          (submitMsg k { typ, cls := c.arg 3 1, kind := postKind typ body, tag := u body 0 8, body
                         purpose := if typ = tTrig then .none else .hostSend (c.arg 0x18 8)
                         mute := isQuiet typ body || typ == tTrig } s)) s

/-- The tenant of an entry belongs to the command's partition. -/
def tenantMine (c : Cmd) (t : Nat) (s : State) : Bool := tenantIn t c.part s

/-- REGION_REG (R331). -/
def execRegionRegState (f : Nat) (s : State) : State :=
  runTransport f 2 [(0, 18), (4, 6), (8, 64), (0x10, 64)]
    (fun c s =>
      let r := region (c.arg 0 4) s
      let bar2 := bit (c.arg 4 1) 0
      [(r.live && !tenantMine c r.tenant s, 3), (field (c.arg 4 1) 4 2 == 3, 6), (bar2 && !b2Ok c.f (c.arg 8 8) (c.arg 0x10 8) s, 2)])
    (fun c s =>
      let i := c.arg 0 4
      let w := c.arg 4 1
      let old := region i s
      let r : Region := { live := true, seen := true, bar2 := bit w 0, fn := c.f, base := c.arg 8 8, len := c.arg 0x10 8
                          tenant := c.tenant, rights := field w 1 3, kind := field w 4 2
                          gen := if old.seen then (old.gen + 1) % 2 ^ 14 else old.gen }
      let s := setRegion i r s
      endCmd c stOk 0 (regionKey i s) s) s

/-- REGION_DEREG. -/
def execRegionDeregState (f : Nat) (s : State) : State :=
  runTransport f 3 [(0, 18)]
    (fun c s =>
      let r := region (c.arg 0 4) s
      [(r.live && !tenantMine c r.tenant s, 3), (!r.live, 4)])
    (fun c s =>
      let i := c.arg 0 4
      endCmd c stOk 0 0 (setRegion i { seen := true, gen := (region i s).gen } s)) s

/-- RING_BIND. -/
def execRingBindState (f : Nat) (s : State) : State :=
  runTransport f 4 [(0, 16), (2, 16)]
    (fun c s =>
      let r := c.arg 2 2
      [(!connMine c (c.arg 0 2) s, 3), (r != 0xFFFF && decide (r < 256) && r / 2 != c.part, 3), (r != 0xFFFF && decide (256 ≤ r), 6)])
    (fun c s =>
      let k := c.arg 0 2
      let r := c.arg 2 2
      endCmd c stOk 0 0 (setAux k { aux k s with ring := if r = 0xFFFF then none else some r } s)) s

/-- The counter is free, or allotted to a tenant of the command's partition. -/
def counterFree (c : Cmd) (i : Nat) (s : State) : Bool :=
  match (trigger i s).tenant with
  | none => true
  | some t => tenantMine c t s

/-- COUNTER_RESET: the counter takes the value and is allotted to the command's tenant (notes/assumptions/34.md). -/
def execCounterResetState (f : Nat) (s : State) : State :=
  runTransport f 5 [(0, 17), (4, 32)]
    (fun c s => [(!counterFree c (c.arg 0 4) s, 3)])
    (fun c s => endCmd c stOk 0 0 (setTrigger (c.arg 0 4) { value := c.arg 4 4, tenant := some c.tenant } s)) s

abbrev workSlots : Nat := 1048576

/-- POST_WR (R335). -/
def execPostWrState (f : Nat) (s : State) : State :=
  runTransport f 6 [(0, 17), (4, 32), (8, 16), (0xA, 8), (0xB, 3), (0xC, 16), (0x10, 64), (0x18, 21), (0x20, 64)]
    (fun c s =>
      let ring := c.arg 0xC 2
      messageReasons c (c.arg 8 2) (c.arg 0xA 1) (c.arg 0xB 1) (c.arg 0x10 8) (c.arg 0x18 4) s ++
        [((trigger (c.arg 0 4) s).tenant.all fun t => !tenantMine c t s, 3), (decide (ring < 256) && ring / 2 != c.part, 3),
         (decide (256 ≤ ring), 6), (decide (workSlots ≤ s.tfx.workReqs.length), 5)])
    (fun c s =>
      let k := pick (workSlots - s.tfx.workReqs.length) s
      let s := k.2
      let slot := nthFree (sortNat (s.tfx.workReqs.map (·.slot))) k.1
      let w : WorkReq := { slot := slot, counter := c.arg 0 4, threshold := c.arg 4 4, conn := c.arg 8 2, typ := c.arg 0xA 1
                           cls := c.arg 0xB 1, ring := c.arg 0xC 2, fn := c.f, body := c.arg 0x10 8, bodyLen := c.arg 0x18 4
                           tag := c.arg 0x20 8, fired := false }
      let s := endCmd c stOk 0 slot { s with tfx.workReqs := s.tfx.workReqs ++ [w] }
      if w.threshold ≤ (trigger w.counter s).value then fireOne s w else s) s

/-- WR_CANCEL. -/
def execWrCancelState (f : Nat) (s : State) : State :=
  runTransport f 7 [(0, 20)]
    (fun c s =>
      match s.tfx.workReqs.find? fun w => w.slot == c.arg 0 4 with
      | some w => [(!connMine c w.conn s, 3), (w.fired, 4)]
      | none => [(true, 4)])
    (fun c s => endCmd c stOk 0 0 { s with tfx.workReqs := s.tfx.workReqs.filter fun w => w.slot != c.arg 0 4 }) s

/-- CONN_CLOSE (R321). -/
def execConnCloseState (f : Nat) (s : State) : State :=
  runTransport f 8 [(0, 16)]
    (fun c s => [(!connMine c (c.arg 0 2) s, 3), ((conn (c.arg 0 2) s).st != .active, 4)])
    (fun c s => endCmd c stOk 0 0 (closeConn (c.arg 0 2) s)) s

/-! ### The commands -/

def execRdmaRd (c : Nat) (dmaError : Bool) (s : State) : Host.Outcome State Fault Refusal := .next (execRdmaRdState c dmaError s)
def execRdmaWr (c : Nat) (dmaError : Bool) (s : State) : Host.Outcome State Fault Refusal := .next (execRdmaWrState c dmaError s)
def execAtomic (c : Nat) (s : State) : Host.Outcome State Fault Refusal := .next (execAtomicState c s)
def execTrig (c : Nat) (s : State) : Host.Outcome State Fault Refusal := .next (execTrigState c s)
def execResp (c : Nat) (s : State) : Host.Outcome State Fault Refusal := .next (execRespState c s)
def execRemoteLoad (off n : Nat) (s : State) : Host.Outcome State Fault Refusal := .next (execRemoteLoadState off n s)
def execRemoteStore (off : Nat) (data : List Byte) (s : State) : Host.Outcome State Fault Refusal :=
  .next (execRemoteStoreState off data s)
def execDeadTarget (id : Nat) (s : State) : Host.Outcome State Fault Refusal := .next (execDeadTargetState id s)
def execSend (f : Nat) (s : State) : Host.Outcome State Fault Refusal := .next (execSendState f s)
def execRegionReg (f : Nat) (s : State) : Host.Outcome State Fault Refusal := .next (execRegionRegState f s)
def execRegionDereg (f : Nat) (s : State) : Host.Outcome State Fault Refusal := .next (execRegionDeregState f s)
def execRingBind (f : Nat) (s : State) : Host.Outcome State Fault Refusal := .next (execRingBindState f s)
def execCounterReset (f : Nat) (s : State) : Host.Outcome State Fault Refusal := .next (execCounterResetState f s)
def execPostWr (f : Nat) (s : State) : Host.Outcome State Fault Refusal := .next (execPostWrState f s)
def execWrCancel (f : Nat) (s : State) : Host.Outcome State Fault Refusal := .next (execWrCancelState f s)
def execConnClose (f : Nat) (s : State) : Host.Outcome State Fault Refusal := .next (execConnCloseState f s)

end Sys2Proof.Machine
end

