-- ==== Sys2Proof/Machine/Rings.lean ====
section
/-! DEFINITION. Receive rings (12_transport.md R336, R337; 16_faults_and_recovery.md R418): posting, writing, reclaiming, and
the lease of buffers that a frame waits for. -/

namespace Sys2Proof.Machine

/-- Entries of a ring's arrays. -/
def ringSize (r : Ring) : Nat := 2 ^ r.sizeLog2

/-- Descriptors posted and not yet taken. -/
def ringAvail (r : Ring) : Nat := (r.post + ringSize r - r.consumed % ringSize r) % ringSize r

/-- A buffer descriptor of host memory: ADDR and LEN. -/
def bufDesc (r : Ring) (i : Nat) (s : State) : Nat × Nat :=
  let a := r.bufBase + 16 * (i % ringSize r)
  (memNat s.mem.host a 8, memNat s.mem.host (a + 8) 4)

/-- The places that the next bytes go to, (address, length), over at most `n` buffers: what is left of the open buffer, then
posted ones. -/
def ringRoom (r : Ring) (s : State) : List (Nat × Nat) :=
  let now := match r.fill with
    | some k => let d := bufDesc r (r.consumed + ringSize r - 1) s
      [(d.1 + k, d.2 - k)]
    | none => []
  now ++ (List.range (ringAvail r)).map fun i => bufDesc r (r.consumed + i) s

/-- Bytes written over places in order: the memory, the places touched, and the bytes in the last one. -/
def fillPlaces : List (Nat × Nat) → List Byte → Mem → Nat → Mem × Nat × Nat
  | [], _, m, n => (m, n, 0)
  | (a, len) :: t, bs, m, n =>
    if bs.length ≤ len then (memWrite m a bs, n + 1, bs.length)
    else fillPlaces t (bs.drop len) (memWrite m a (bs.take len)) (n + 1)

/-- The completion entry of the front message (R336): written whole, PHASE last; MSI-X vector 5 of the function follows. -/
def ringComplete (i status bytes : Nat) (m : RingMsg) (s : State) : State :=
  let r := ring i s
  let entry := leBytes 8 m.tag ++ leBytes 2 m.conn ++ leBytes 1 m.typ ++ leBytes 1 status ++ leBytes 4 bytes ++
    leBytes 4 r.firstBuf ++ leBytes 2 r.nbuf ++ leBytes 1 m.op ++ leBytes 5 0 ++ leBytes 4 (b2n r.phase)
  let host := memWrite s.mem.host (r.cplBase + 32 * r.cplNext) entry
  let next := (r.cplNext + 1) % ringSize r
  let r := { r with cplNext := next, phase := if next = 0 then !r.phase else r.phase, waiting := r.waiting.tail
                    written := 0, firstBuf := 0, nbuf := 0, fill := none, waits := false }
  interrupt (1 + i / 2) 5 (setRing i r { s with mem.host := host })

/-- Credit of a ring message's bytes returns. -/
def ringCredit (m : RingMsg) (n : Nat) (s : State) : State :=
  match m.cls with
  | some k => returnCredit m.conn k n s
  | none => s

/-- The next frame's bytes of the front message, in the buffers there is room in. -/
def ringFrame (i : Nat) (m : RingMsg) (s : State) : State :=
  let r := ring i s
  let n := min 9024 (m.body.length - r.written)
  let places := ringRoom r s
  let w := fillPlaces places (sub m.body r.written n) s.mem.host 0
  let fresh := w.2.1 - b2n r.fill.isSome
  let last := r.written + n == m.body.length
  let used := if w.2.1 = 1 then w.2.2 + r.fill.getD 0 else w.2.2
  let r := { r with
    consumed := (r.consumed + fresh) % ringSize r
    written := r.written + n
    firstBuf := if r.nbuf = 0 then r.consumed else r.firstBuf
    nbuf := r.nbuf + fresh
    fill := if last then none else some used
    waits := false }
  let s := ringCredit m n (setRing i r { s with mem.host := w.1 })
  if last then ringComplete i m.status m.body.length m s else s

/-- RING_WRITE: a frame of the front message is written when there are buffers for it, and waits otherwise. -/
def execRingWriteState (i : Nat) (s : State) : State :=
  let r := ring i s
  match if r.enable then r.waiting else [] with
  | [] => s
  | m :: _ =>
    let n := min 9024 (m.body.length - r.written)
    if n = 0 then ringComplete i m.status m.body.length m (setRing i { r with firstBuf := if r.nbuf = 0 then r.consumed else r.firstBuf } s)
    else if ((ringRoom r s).map (·.2)).sum < n then
      if r.waits then s
      else countEvent cRingWait (unitConn m.conn) (setRing i { r with waits := true, reservedAt := s.time.elapsed } s)
    else ringFrame i m s

/-- Stores of the host that precede a command (13_host_attachment.md, the fence sequence). -/
def hostStore (s : State) (x : HostStore) : State :=
  if x.bar2 then b2Write x.fn x.addr x.bytes s else { s with mem.host := memWrite s.mem.host x.addr x.bytes }

/-- POST: descriptors up to the index are posted, and the wait of a frame is renewed. -/
def execPostState (i value : Nat) (stores : List HostStore) (s : State) : State :=
  let s := stores.foldl hostStore s
  let r := ring i s
  setRing i { r with post := value % ringSize r, reservedAt := s.time.elapsed } s

/-- The front message loses its buffers: the rest of it is dropped, and it ends with ST_RING_SHORT (R337). -/
def ringShort (i : Nat) (s : State) : State :=
  let r := ring i s
  match r.waiting with
  | [] => s
  | m :: _ =>
    let s := ringCredit m (m.body.length - r.written) s
    countEvent cRingShort (unitConn m.conn) (ringComplete i stRingShort r.written m s)

/-- RECLAIM: posted buffers that the node has not finished are returned, from the index on. -/
def execReclaimState (i value : Nat) (s : State) : State :=
  let r := ring i s
  let size := ringSize r
  let open_ := b2n r.fill.isSome
  let first := (r.consumed + size - open_) % size
  let back := (value % size + size - first) % size
  let avail := ringAvail r + open_
  if avail ≤ back then s
  else
    let takesOpen := r.fill.isSome && back == 0
    let s := setRing i { r with post := if takesOpen then r.consumed else value % size } s
    if r.waits || takesOpen then ringShort i s else s

/-- RING_LEASE_EXPIRY: a frame has waited 62,500 passes for buffers: its message ends as by a reclaim. -/
def execRingLeaseExpiryState (i : Nat) (s : State) : State :=
  let r := ring i s
  match r.waiting with
  | [] => s
  | m :: _ =>
    if r.waits ∧ r.reservedAt + secStrokes ≤ s.time.elapsed then
      raise fLeaseRevoked (unitConn m.conn) [] (tally ctrLeaseRevoked (ringShort i s))
    else s

def execRingWrite (i : Nat) (s : State) : Host.Outcome State Fault Refusal := .next (execRingWriteState i s)
def execPost (i value : Nat) (stores : List HostStore) (s : State) : Host.Outcome State Fault Refusal :=
  .next (execPostState i value stores s)
def execReclaim (i value : Nat) (s : State) : Host.Outcome State Fault Refusal := .next (execReclaimState i value s)
def execRingLeaseExpiry (i : Nat) (s : State) : Host.Outcome State Fault Refusal := .next (execRingLeaseExpiryState i s)

end Sys2Proof.Machine
end

