-- ==== Sys2Proof/Machine/Scraper.lean ====
section
/-! DEFINITION. The scraper, the burnisher, write-back passes and stalled tier operations (07_residency_and_tiers.md R181, R188 to
R194, R206; 16_faults_and_recovery.md R423; 13_host_attachment.md R350). -/

namespace Sys2Proof.Machine

/-! ### What there is to evict (R188, R189) -/

/-- A home that the scraper relieves: graver stacks 0 to 5, the vault 6, the flash tier 7. -/
def atHome (home w : Nat) : Bool :=
  if home < 6 then wordState w == 0 && slotStack (wordSlot w) == home
  else if home = 6 then wordState w == 1
  else wordState w == 2

/-- The page at a position of an entry's run. -/
def entryPage (e : DirEntry) (pos : Nat) : PageName :=
  ⟨keyCtx e.key, keyLayer e.key, keyGroup e.key, keyRun e.key + pos⟩

/-- A unit: half a run, with its eligible pages ascending. -/
structure ScrapeUnit where
  entry : Nat
  chunk : Nat
  tenant : Nat
  cls : Nat
  age : Nat
  pages : List PageName
  deriving DecidableEq, Repr

/-- Valid entries of a partition's range. -/
def partEntries (p : Nat) (s : State) : List (Nat × DirEntry) :=
  let r := dirRange p s
  (dirView s).filter fun x => r.1 ≤ x.1 && x.1 < r.1 + r.2 && x.2.v

/-- The page is on its way out of its home: a spill of it is being programmed, or a node swap that moves it is under way. -/
def leaving (n : PageName) (s : State) : Bool :=
  (s.res.programs.any fun p => p.spill && p.page == n) || s.res.changes.any fun c => c.pages.contains n

/-- Graver-stack slots that hold a tenant's pages in a partition and keep them. -/
def tenantSlots (p tenant : Nat) (s : State) : Nat :=
  (((partEntries p s).filter fun x => keyTenant x.2.key == tenant).map fun x =>
    ((extent (dataExt x.2.data) s).words.filter fun w =>
      w.1 < dataCount x.2.data && wordState w.2 == 0 && !leaving (entryPage x.2 w.1) s).length).sum

/-- The eligible pages of one chunk of an entry, ascending. -/
def chunkPages (home chunk : Nat) (e : DirEntry) (s : State) : List PageName :=
  (((extent (dataExt e.data) s).words.filter fun w =>
      w.1 / 32 == chunk && w.1 < dataCount e.data && atHome home w.2).map fun w => entryPage e w.1).filter fun n =>
    evictable n s && !leaving n s

/-- The units of a partition that hold something to evict, in order of entry and chunk; a tenant keeps its FLOOR. Units whose swap
was abandoned are passed over (03 R71). -/
def scrapeUnits (p home : Nat) (s : State) : List ScrapeUnit :=
  ((partEntries p s).flatMap fun x => [0, 1].map fun chunk =>
    let t := keyTenant x.2.key
    let room := if home < 6 then tenantSlots p t s - (tenantRec t s).floor else 32
    (⟨x.1, chunk, t, (tenantRec t s).cls, x.2.age, (chunkPages home chunk x.2 s).take room⟩ : ScrapeUnit)).filter
      fun q => !q.pages.isEmpty && !s.res.passed.contains (p, home, q.entry, q.chunk)

/-- `a` is evicted before `b`, of which it stands later in entry and chunk order. -/
def evictedBefore (home : Nat) (a b : ScrapeUnit) : Bool :=
  if home < 7 && a.cls != b.cls then b.cls < a.cls else a.age < b.age

/-- The unit the scraper chooses. -/
def chooseUnit (home : Nat) (us : List ScrapeUnit) : Option ScrapeUnit :=
  us.foldl (fun best x => match best with
    | none => some x
    | some b => if evictedBefore home x b then some x else some b) none

/-! ### When it runs (R181, R191) -/

/-- Slots of the partition's quota on a stack that hold pages. -/
def heldSlots (p st : Nat) (s : State) : Nat :=
  let r := quotaRange p st s
  (s.res.slots.filter fun x => r.1 ≤ x.1 && x.1 < r.1 + r.2 && x.2.holding).length

/-- Slots of the quota on a stack that the scraper's evictions hold in GRACE. -/
def graceSlots (p st : Nat) (s : State) : Nat :=
  let r := quotaRange p st s
  (s.res.slots.filter fun x => r.1 ≤ x.1 && x.1 < r.1 + r.2 && x.2.holding && x.2.scraped).length

/-- The stacks of a home. -/
def homeStacks (home : Nat) : List Nat := if home < 6 then [home] else [6, 7]

def homeFree (p home : Nat) (s : State) : Nat :=
  ((homeStacks home).map fun st => (quotaRange p st s).2 - heldSlots p st s).sum
def homeGrace (p home : Nat) (s : State) : Nat := ((homeStacks home).map fun st => graceSlots p st s).sum

/-- POOL_LOW and POOL_HIGH of a home. -/
def poolMarks (p home : Nat) (s : State) : Nat × Nat :=
  let r := partRec p s
  if home < 6 then ((r.gs.getD home {}).poolLow, (r.gs.getD home {}).poolHigh) else (r.vaultLow, r.vaultHigh)

/-- The home is to be relieved now: below its low mark, or still short of its high mark. -/
def mustScrape (p home : Nat) (s : State) : Bool :=
  let on := s.res.scraping.contains (p, home)
  if home < 7 then
    let m := poolMarks p home s
    if on then homeFree p home s + homeGrace p home s < m.2 else homeFree p home s < m.1
  else
    let r := partRec p s
    if on then r.tierLowK * 4096 < tierUsed p s else r.tierHighK * 4096 < tierUsed p s

/-- The scraper notes that it is between the marks, or no longer. -/
def markScrape (p home : Nat) (on : Bool) (s : State) : State :=
  let rest := s.res.scraping.filter (· != (p, home))
  { s with res.scraping := if on then rest ++ [(p, home)] else rest }

/-! ### One eviction (R190 to R192) -/

/-- The scraper acts on one page. A spill the tier cannot take becomes a drop (R191). -/
def scrapePage (p home : Nat) (acc : Relief × State) (n : PageName) : Relief × State :=
  let r := acc.1
  let s := acc.2
  let t := tenantRec (ctxGeo n.ctx s).tenant s
  let down := if t.spill && home < 7 then (toFlash p n none r s).getD (toNowhere n true r s, s) else (toNowhere n false r s, s)
  if home < 6 && t.vault then (toVault p n r s).getD down else down

/-- A unit is evicted with one node swap, once the links serve its spills. -/
def scrapeUnit (p home : Nat) (q : ScrapeUnit) (s : State) : State :=
  match q.pages with
  | [] => s
  | n :: _ =>
    let r := q.pages.foldl (scrapePage p home) (({} : Relief), s)
    if r.1.early then s else startChange (reliefChange p n none (some home) r.1) r.2

/-- The next unit of a home is chosen; with every eligible one passed over, all are open to choice again. -/
def scrapeNext (p home : Nat) (s : State) : State :=
  match chooseUnit home (scrapeUnits p home s) with
  | some q => scrapeUnit p home q s
  | none => { s with res.passed := s.res.passed.filter fun x => x.1 != p || x.2.1 != home }

/-- SCRAPER_EVICT: one unit of a home; 7 is the flash tier, whose usage runs from TIER_HIGH down to TIER_LOW. A swap of the scraper
that waits for links or for a node-update cycle comes first. -/
def execScraperEvictState (p home : Nat) (s : State) : State :=
  let mine := fun c : RunChange => c.part == p && c.home == some home
  if s.pwr.hold || !sealed s then s
  else if s.res.changes.any mine then driveChanges mine [] s
  else if mustScrape p home s then scrapeNext p home (markScrape p home true s)
  else markScrape p home false s

/-! ### The burnisher (R181, R423) -/

abbrev burnPerStroke : Nat := 4

/-- Page operations the burnisher has left on a stack in this stroke. -/
def burnLeft (st : Nat) (s : State) : Nat :=
  if linkServes st 2 s && !bit s.flt.fencedStacks st then burnPerStroke - look 0 s.res.burnThisStroke st else 0

def burn (st n : Nat) (s : State) : State := { s with res.burnThisStroke := upd 0 s.res.burnThisStroke st (· + n) }

/-- Suspect pages: entry, position and slot. -/
def suspects (s : State) : List (Nat × Nat × Nat) :=
  ((dirView s).filter fun x => x.2.v).flatMap fun x =>
    ((extent (dataExt x.2.data) s).words.filter fun w => w.1 < dataCount x.2.data && wordState w.2 == 4).map fun w =>
      (x.1, w.1, wordSlot w.2)

/-- A slot is zeroed and returns to its pool. -/
def zeroSlot (s : State) (slot : Nat) : State :=
  { s with mem.stk := zeroPages s.mem.stk (slotPlace slot) 1, res.slots := put {} s.res.slots slot {} }

/-- Some awaiting slots of a stack are zeroed; which ones is the burnisher's choice. -/
def zeroSome (st : Nat) : Nat → State → State
  | 0, s => s
  | n + 1, s =>
    let l := (s.res.slots.filter fun x => slotStack x.1 == st && x.2.awaiting && !x.2.holding).map (·.1)
    match l with
    | [] => s
    | a :: _ =>
      let k := pick l.length s
      zeroSome st n (burn st 1 (zeroSlot k.2 (l.getD k.1 a)))

/-- BURNISHER_ZERO: what re-verification leaves of the stroke's budget zeroes awaiting slots. -/
def execBurnisherZeroState (st : Nat) (s : State) : State :=
  zeroSome st (burnLeft st s - ((suspects s).filter fun x => slotStack x.2.2 == st).length) s

/-- REVERIFY: a suspect page is read again; `ue` says whether an uncorrectable error shows. -/
def execReverifyState (slot : Nat) (ue : Bool) (s : State) : State :=
  let hit := (suspects s).filter fun x => x.2.2 == slot
  let st := slotStack slot
  if hit.isEmpty || burnLeft st s = 0 then s
  else
    let s := burn st 1 s
    if ue then
      let s := countUe (ueSlot slot) fUeData (unitStack st) (leBytes 4 slot) s
      postDrops <| hit.foldl (fun s x =>
        let n := entryPage (dirEntry x.1 s) x.2.1
        noteDrops (ctxGeo n.ctx s).part [n] <| countEvent cDropped unitNode <| stateSwap x.1 [(x.2.1, pageWord 3 0)] s) s
    else hit.foldl (fun s x => stateSwap x.1 [(x.2.1, pageWord 0 slot)] s) s

/-! ### Write-back passes (R194) -/

/-- Pages of a partition that qualify and whose stack serves tier work now, with their AGE, in entry order. -/
def wbPages (p : Nat) (s : State) : List (Nat × PageName) :=
  ((partEntries p s).filter fun x => (tenantRec (keyTenant x.2.key) s).spill).flatMap fun x =>
    let ex := extent (dataExt x.2.data) s
    ((ex.words.filter fun w =>
        let n := entryPage x.2 w.1
        let t := extTier ex w.1
        w.1 < dataCount x.2.data && wordState w.2 < 2 && (!bit t 29 || bit t 30) && wbAllowed (keyTenant x.2.key) n s &&
          !programming n s && linkServes (slotStack (wordSlot w.2)) 3 s)).map fun w => (x.2.age, entryPage x.2 w.1)

/-- WRITE_BACK_PASS: the qualifying page of oldest AGE, at most WB_MAX in a pass. -/
def execWriteBackPassState (p : Nat) (s : State) : State :=
  if !inService s || (partRec p s).wbMax ≤ look 0 s.res.wbThisPass p then s
  else
    let best := (wbPages p s).foldl (fun (b : Option (Nat × PageName)) x => match b with
      | none => some x
      | some y => if x.1 < y.1 then some x else some y) none
    match best with
    | none => s
    | some (_, n) =>
      match startProgram n p false none (linkUsed [slotStack (wordSlot (wordOf n s))] 3 s) with
      | some s => { s with res.wbThisPass := upd 0 s.res.wbThisPass p (· + 1) }
      | none => s

/-! ### Burnisher commands (13 R350) -/

/-- Page slots a ZERO_SLOTS names: first slot index and count. -/
def zeroNamed (c : Cmd) : Nat × Nat := (stackFirst (field (c.arg 0 1) 0 3) + c.arg 4 4, c.arg 8 4)

/-- An index lies in a range of a first index and a count. -/
def inSpan (r : Nat × Nat) (i : Nat) : Bool := r.1 ≤ i && i < r.1 + r.2

def zeroSlotsReason (c : Cmd) (s : State) : Option Nat :=
  let n := zeroNamed c
  let q := quotaRange c.part (field (c.arg 0 1) 0 3) s
  lowestReason [(n.1 < q.1 || q.1 + q.2 < n.1 + n.2 || (namedSlots s).any (inSpan n), 4), (n.2 = 0 || 65536 < n.2, 6)]

def execZeroSlotsState (f : Nat) (s : State) : State :=
  runCmd f 3 1 [(0, 3), (4, 32), (8, 32)] false zeroSlotsReason (fun c s =>
    let n := zeroNamed c
    endCmd c stOk 0 n.2
      { s with
        mem.stk := zeroPages s.mem.stk (slotPlace n.1) n.2
        res.slots := s.res.slots.filter fun x => !inSpan n x.1 }) s

/-- Tiles a ZERO_TILES names: first tile over all stacks and count. -/
def tilesNamed (c : Cmd) : Nat × Nat := (field (c.arg 0 1) 0 3 * tilesPerStack + c.arg 4 4, c.arg 8 4)

def zeroTilesReason (c : Cmd) (s : State) : Option Nat :=
  let st := field (c.arg 0 1) 0 3
  let n := tilesNamed c
  let q := tileRange c.part st s
  lowestReason [(6 ≤ st || n.1 < q.1 || q.1 + q.2 < n.1 + n.2 || s.res.tiles.any fun t => inSpan n t.1, 4),
    (n.2 = 0 || 4096 < n.2, 6)]

def execZeroTilesState (f : Nat) (s : State) : State :=
  runCmd f 3 2 [(0, 3), (4, 32), (8, 32)] false zeroTilesReason (fun c s =>
    let n := tilesNamed c
    endCmd c stOk 0 n.2 { s with mem.stk := zeroPages s.mem.stk (tilePlace n.1) n.2 }) s

/-- Segments of PF0's BAR2 that a ZERO_B2 names. -/
def zeroB2Range (c : Cmd) (s : State) : Option (List (Nat × Nat)) :=
  if c.arg 8 8 % 64 ≠ 0 then none else b2Range c.f (c.arg 0 8) (c.arg 8 8) s

def execZeroB2State (f : Nat) (s : State) : State :=
  runCmd f 3 3 [(0, 64), (8, 64)] false (fun c s => lowestReason [((zeroB2Range c s).isNone, 2)]) (fun c s =>
    let segs := (zeroB2Range c s).getD []
    endCmd c stOk 0 0 { s with mem.bar2 := segs.foldl (fun m x => memZero m x.1 x.2) s.mem.bar2 }) s

/-! ### Stalled operations (R206) -/

/-- The stalled operation goes through, or ends with ST_TIER_ERROR. -/
def endStalled (op : StallOp) (ok : Bool) (s : State) : State :=
  match op with
  | .mount ts => if ok then mounted ts s else { s with fsh.skipped := true }
  | .tile key =>
    match s.res.tiles.find? fun t => t.1 == key with
    | none => s
    | some (_, t) =>
      if !ok then tileProgress key (some stTierError) (freeTile key s)
      else if tileServes t s then tileStood key t s
      else tileProgress key (leftCode t.page s) (freeTile key s)
  | .program n =>
    match s.res.programs.find? fun p => p.page == n with
    | none => s
    | some pr =>
      if ok then programOk true pr s
      else postDrops <| pageProgress n (some stTierError) { s with res.programs := s.res.programs.filter fun x => x.page != n }
  | .exportPage f => exportUnstall f ok s
  | .rehomePage n =>
    let mine := fun c : RunChange => c.pages.contains n
    if ok then driveChanges mine [] s
    else
      let out := fun c : RunChange => fun m : PageChange => c.page m.pos == n
      let s' := (s.res.changes.filter mine).foldl (fun s c => leaveOut stTierError c (out c) s) s
      { s' with res.changes := replaceWhere mine (fun c => { c with moves := c.moves.filter fun m => !out c m }) s'.res.changes }
  | .command f =>
    match frontCmd f 4 s with
    | none => s
    | some c => if ok then tierEffect c s else endCmd c stTierError 0 0 s

/-- TIER_STALL_RETRY: once per ms. -/
def execTierStallRetryState (ok : Bool) (s : State) : State :=
  match s.fsh.stallOp with
  | none => s
  | some op =>
    if s.time.elapsed < s.fsh.retryAt + msStrokes then s
    else if ok then endStalled op true (endStall s)
    else { s with fsh.retryAt := s.time.elapsed }

/-- FSH_CTRL.SKIP. -/
def execFshCtrlSkipState (s : State) : State :=
  match s.fsh.stallOp with
  | none => s
  | some op => endStalled op false (endStall s)

/-! ### The commands -/

def execScraperEvict (p home : Nat) (s : State) : Host.Outcome State Fault Refusal := .next (execScraperEvictState p home s)
def execBurnisherZero (st : Nat) (s : State) : Host.Outcome State Fault Refusal := .next (execBurnisherZeroState st s)
def execReverify (slot : Nat) (ue : Bool) (s : State) : Host.Outcome State Fault Refusal := .next (execReverifyState slot ue s)
def execWriteBackPass (p : Nat) (s : State) : Host.Outcome State Fault Refusal := .next (execWriteBackPassState p s)
def execZeroSlots (f : Nat) (s : State) : Host.Outcome State Fault Refusal := .next (execZeroSlotsState f s)
def execZeroTiles (f : Nat) (s : State) : Host.Outcome State Fault Refusal := .next (execZeroTilesState f s)
def execZeroB2 (f : Nat) (s : State) : Host.Outcome State Fault Refusal := .next (execZeroB2State f s)
def execTierStallRetry (ok : Bool) (s : State) : Host.Outcome State Fault Refusal := .next (execTierStallRetryState ok s)
def execFshCtrlSkip (s : State) : Host.Outcome State Fault Refusal := .next (execFshCtrlSkipState s)

end Sys2Proof.Machine
end

