-- ==== Sys2Proof/Machine/PlateBits.lean ====
section
/-! DEFINITION. The plate's bytes (08_plates.md R210 to R223, R230): header, directory, sections and records, what they decode
to, and the plate that a delta results in. -/

namespace Sys2Proof.Machine

/-! ### Header and directory (R210, R212) -/

structure PlateHdr where
  magic : Nat
  format : Nat
  flags : Nat
  epoch : Nat
  deltaSeq : Nat
  detClass : Nat
  nsect : Nat
  length : Nat
  base : List Byte
  reserved : Bool
  deriving DecidableEq, Repr

def plateHdr (b : List Byte) : PlateHdr :=
  let f := u b 6 2
  { magic := u b 0 4, format := u b 4 2, flags := f, epoch := u b 8 4, deltaSeq := u b 0xC 4, detClass := u b 0x10 4,
    nsect := u b 0x14 4, length := u b 0x18 4, base := sub b 0x20 48,
    reserved := f / 2 != 0 || u b 0x1C 4 != 0 || !zeroes (sub b 0x50 48) }

/-- FLAGS.DELTA. -/
def isDelta (b : List Byte) : Bool := bit (u b 6 2) 0

/-- A directory entry with its section's bytes. -/
structure Sect where
  idx : Nat
  typ : Nat
  scope : Nat
  off : Nat
  len : Nat
  crc : Nat
  reserved : Bool
  bytes : List Byte
  deriving DecidableEq, Repr

def sectAt (b : List Byte) (i : Nat) : Sect :=
  let o := 0x80 + 16 * i
  let off := u b (o + 4) 4
  let len := u b (o + 8) 4
  { idx := i, typ := u b o 1, scope := u b (o + 1) 1, off, len, crc := u b (o + 12) 4, reserved := u b (o + 2) 2 != 0
    bytes := sub b off len }

def sections (b : List Byte) : List Sect := (List.range (u b 0x14 4)).map (sectAt b)

abbrev tRoles : Nat := 0x01
abbrev tAlloc : Nat := 0x02
abbrev tPart : Nat := 0x03
abbrev tTenants : Nat := 0x04
abbrev tConns : Nat := 0x05
abbrev tKeymap : Nat := 0x06
abbrev tSlots : Nat := 0x07
abbrev tTrees : Nat := 0x08
abbrev tBest : Nat := 0x09
abbrev tLines : Nat := 0x0A
abbrev tPorts : Nat := 0x0B

/-- The section of a type, when it is there. -/
def sectOf (ss : List Sect) (typ : Nat) : Option Sect := ss.find? fun x => x.typ == typ
def sectBytes (ss : List Sect) (typ : Nat) : List Byte := ((sectOf ss typ).map (·.bytes)).getD []

/-- The records of `n` bytes of a section. -/
def records (n : Nat) (b : List Byte) : List (List Byte) := pieces n (b.length / n) b

/-- A table in canonical form. -/
def storeOf {α : Type} [DecidableEq α] (d : α) (l : List α) : Store α := (indexed 0 l).filter fun x => x.2 ≠ d

/-! ### Records (R214 to R223) -/

def stackQuota (b : List Byte) : StackQuota :=
  { slotFirstK := field (u b 0 4) 0 10, slotCountK := field (u b 0 4) 10 10, tileFirst := field (u b 4 4) 0 10
    tileCount := field (u b 4 4) 10 10, poolLow := field (u b 8 4) 0 20, poolHigh := field (u b 12 4) 0 20 }

def partRecord (b : List Byte) : PartRec :=
  let fl := u b 0 1
  let dir := u b 4 4
  { valid := bit fl 0, canonical := bit fl 1, confidential := bit fl 2, dirBaseK := field dir 0 8
    dirCountK := field dir 8 9, wbMax := field (u b 8 4) 0 8, tierFirstK := field (u b 0x10 4) 0 17
    tierCountK := field (u b 0x14 4) 0 18, tierHighK := field (u b 0x18 4) 0 18, tierLowK := field (u b 0x1C 4) 0 18
    gs := (List.range 6).map fun s => stackQuota (sub b (0x20 + 16 * s) 16)
    vaults := (List.range 2).map fun v => (field (u b (0x80 + 8 * v) 8) 0 9, field (u b (0x80 + 8 * v) 8) 9 10)
    vaultLow := field (u b 0x90 4) 0 20, vaultHigh := field (u b 0x94 4) 0 20 }

/-- A reserved bit of a partition record is set. -/
def partReserved (b : List Byte) : Bool :=
  u b 0 1 / 8 != 0 || u b 1 3 != 0 || u b 4 4 / 2 ^ 17 != 0 || u b 8 4 / 256 != 0 || u b 0xC 4 != 0 ||
    u b 0x10 4 / 2 ^ 17 != 0 || [0x14, 0x18, 0x1C].any (fun o => u b o 4 / 2 ^ 18 != 0) ||
    (List.range 6).any (fun s => [0, 4, 8, 12].any fun o => u b (0x20 + 16 * s + o) 4 / 2 ^ 20 != 0) ||
    [0x80, 0x88].any (fun o => u b o 8 / 2 ^ 19 != 0) || [0x90, 0x94].any (fun o => u b o 4 / 2 ^ 20 != 0) ||
    !zeroes (sub b 0x98 40)

def tenantRecord (b : List Byte) : TenantRec :=
  { owner := field (u b 0 1) 0 7, used := bit (u b 0 1) 7, cls := field (u b 1 1) 0 2, vault := bit (u b 1 1) 2
    spill := bit (u b 1 1) 3, wbTail := bit (u b 1 1) 4, floor := field (u b 4 4) 0 23 }
def tenantReserved (b : List Byte) : Bool :=
  u b 1 1 / 32 != 0 || u b 2 2 != 0 || u b 4 4 / 2 ^ 23 != 0 || !zeroes (sub b 8 8)

def connRecord (b : List Byte) : ConnRec :=
  { used := bit (u b 0 2) 0, requester := bit (u b 0 2) 1, tenant := field (u b 2 2) 0 10, part := field (u b 4 1) 0 7
    ports := u b 5 1, peerNode := field (u b 6 2) 0 12, keySlot := field (u b 8 2) 0 12, window := u b 0xA 2
    peerConn := u b 0xC 2, peerAddr := u b 0x10 16 }
def connReserved (b : List Byte) : Bool :=
  u b 0 2 / 4 != 0 || u b 2 2 / 1024 != 0 || u b 4 1 / 128 != 0 || u b 6 2 / 4096 != 0 || u b 8 2 / 4096 != 0 ||
    u b 0xE 2 != 0

def keyWord (b : List Byte) : Nat × Nat := (field (u b 0 4) 0 2, field (u b 0 4) 2 16)
def keyReserved (b : List Byte) : Bool := u b 0 4 / 2 ^ 18 != 0

def slotRecord (part : Nat) (b : List Byte) : SlotRec :=
  { part, slot := u b 0 2, conn := u b 2 2, kind := field (u b 4 1) 0 2, candG := u b 5 1, bucket := field (u b 6 1) 0 4
    lookups := u b 7 1, shareLimit := field (u b 8 4) 0 25, gravers := u b 0xC 12, tree := u b 0x18 2 }
def slotReserved (b : List Byte) : Bool :=
  u b 4 1 / 4 != 0 || u b 6 1 / 16 != 0 || u b 8 4 / 2 ^ 25 != 0 || !zeroes (sub b 0x1A 6)

def treeChild (b : List Byte) : TreeChild :=
  { primary := u b 0 2, backup := u b 2 2, base := field (u b 4 4) 0 25, limit := field (u b 8 4) 0 25 }

/-- NCHILD of a tree line. -/
def treeCount (b : List Byte) : Nat := field (u b 4 1) 0 5

def treeRecord (part : Nat) (b : List Byte) : TreeLine :=
  { part, index := u b 0 2, parentConn := u b 2 2, grace := field (u b 5 1) 0 6, level := field (u b 6 1) 0 3
    close := u b 8 2, ownBase := field (u b 0x10 8) 0 25, ownLimit := field (u b 0x10 8) 32 25
    children := (List.range (min 16 (treeCount b))).map fun c => treeChild (sub b (0x18 + 12 * c) 12) }
/-- Reserved fields of a tree line. R221 has the child positions beyond NCHILD zero and no check of R224 names them: they count
as reserved, for check 5 (DESIGN CHOICE, notes/assumptions/114.md). -/
def treeReserved (b : List Byte) : Bool :=
  u b 4 1 / 32 != 0 || u b 5 1 / 64 != 0 || u b 6 1 / 8 != 0 || u b 7 1 != 0 || !zeroes (sub b 0xA 6) ||
    field (u b 0x10 8) 25 7 != 0 || u b 0x10 8 / 2 ^ 57 != 0 ||
    (List.range 16).any fun c =>
      let x := sub b (0x18 + 12 * c) 12
      if c < treeCount b then u x 4 4 / 2 ^ 25 != 0 || u x 8 4 / 2 ^ 25 != 0 else !zeroes x

def lineRecord (b : List Byte) : Line :=
  let w := u b 0 4
  { stroke := field w 0 6, pass := field w 6 6, op := field w 12 4, lenM1 := field w 16 12, arg0 := u b 4 4, arg1 := u b 8 8 }

/-- A LINES section (09_strokes_and_passes.md R242, R243). -/
def lineProg (b : List Byte) : LineProg :=
  { periodLog2 := field (u b 0 1) 0 3, lines := (records 16 (b.drop 16)).map lineRecord }
def linesReserved (b : List Byte) : Bool :=
  u b 0 1 / 8 != 0 || u b 2 2 != 0 || !zeroes (sub b 8 8) || (records 16 (b.drop 16)).any fun x => u x 0 4 / 2 ^ 28 != 0

def portRecord (b : List Byte) : PortRec := { mode := u b 0 1, failover := u b 1 1, mac := u b 2 6, ip := u b 8 16 }
def portsReserved (b : List Byte) : Bool :=
  u b 0 2 / 4096 != 0 || u b 2 1 / 2 != 0 || u b 3 1 != 0 || !zeroes (sub b 8 8) ||
    (List.range 8).any fun p => !zeroes (sub b (0x10 + 32 * p + 24) 8)

/-! ### The plate -/

/-- What the bytes of a plate say. -/
def decodePlate (b : List Byte) : Plate :=
  let h := plateHdr b
  let ss := sections b
  let ofType := fun t => ss.filter fun x => x.typ == t
  let ports := sectBytes ss tPorts
  { epoch := h.epoch, deltaSeq := h.deltaSeq, detClass := h.detClass
    roles := (sectBytes ss tRoles).map (·.toNat)
    alloc := (sectBytes ss tAlloc).map (·.toNat)
    parts := ((ofType tPart).map fun x => (x.scope, partRecord x.bytes)).filter fun x => x.2 ≠ {}
    tenants := storeOf {} ((records 16 (sectBytes ss tTenants)).map tenantRecord)
    conns := storeOf {} ((records 32 (sectBytes ss tConns)).map connRecord)
    keymap := storeOf (0, 0) ((records 4 (sectBytes ss tKeymap)).map keyWord)
    slots := (ofType tSlots).flatMap fun x => (records 32 x.bytes).map (slotRecord x.scope)
    trees := (ofType tTrees).flatMap fun x => (records 216 x.bytes).map (treeRecord x.scope)
    bestEffort := ((ofType tBest).map fun x => (x.scope, u x.bytes 0 12)).filter fun x => x.2 ≠ 0
    lines := ((ofType tLines).map fun x => (x.scope, lineProg x.bytes)).filter fun x => x.2 ≠ {}
    nodeId := field (u ports 0 2) 0 12, native := bit (u ports 2 1) 0, udpPort := u ports 4 2, etherType := u ports 6 2
    ports := (List.range 8).map fun p => portRecord (sub ports (0x10 + 32 * p) 32) }

/-- A plate as a store keeps it. -/
def plateStore (b : List Byte) : PlateStore := { len := b.length, plate := decodePlate b }

/-- Where the active store and the shadow store lie: in VS1, with a mirror at the same address in VS0 (R226). -/
abbrev activeAddr : Nat := 0x880000000
abbrev shadowAddr : Nat := 0x884000000
def storePlaces (addr : Nat) : List Nat := [7 * 2 ^ 36 + addr, 6 * 2 ^ 36 + addr]

/-- Plate bytes are written to both copies of a store, and read from the first, which an error is repaired in from the other. -/
def writeStore (addr : Nat) (b : List Byte) (s : State) : State :=
  { s with mem.stk := (storePlaces addr).foldl (fun m a => memWrite m a b) s.mem.stk }
def readStore (addr : Nat) (p : PlateStore) (s : State) : List Byte := memRead s.mem.stk (7 * 2 ^ 36 + addr) p.len

/-- The shadow store becomes the active store (R228, R234). -/
def activate (p : PlateStore) (s : State) : State :=
  { writeStore activeAddr (readStore shadowAddr p s) s with
    plt.active := some p, plt.shadow := none, plt.digest := s.plt.shadowDigest, plt.deltaSeq := p.plate.deltaSeq }

/-! ### The plate a delta results in (R230) -/

def sectBefore (a b : Sect) : Bool := a.typ < b.typ || (a.typ == b.typ && a.scope ≤ b.scope)

def insertSect (a : Sect) : List Sect → List Sect
  | [] => [a]
  | b :: t => if sectBefore a b then a :: b :: t else b :: insertSect a t

/-- The sections of the result: the base's with the delta's replaced or removed. -/
def mergeSections (base delta : List Sect) : List Sect :=
  let same := fun a b : Sect => a.typ == b.typ && a.scope == b.scope
  ((base.filter fun x => !delta.any (same x)) ++ delta.filter fun x => x.len != 0).foldr insertSect []

/-- Sections laid out from an offset: their directory entries and bytes. -/
def layOut : Nat → List Sect → List Byte × List Byte
  | _, [] => ([], [])
  | at_, x :: t =>
    let len := x.bytes.length
    let next := ceilDiv (at_ + len) 64 * 64
    let r := layOut next t
    (leBytes 1 x.typ ++ leBytes 1 x.scope ++ leBytes 2 0 ++ leBytes 4 at_ ++ leBytes 4 len ++ leBytes 4 (crc32c x.bytes) ++ r.1,
      x.bytes ++ List.replicate (next - at_ - len) 0 ++ r.2)

/-- The resulting plate's bytes. -/
def applyDelta (base delta : List Byte) : List Byte :=
  let h := plateHdr base
  let ss := mergeSections (sections base) (sections delta)
  let first := ceilDiv (0x80 + 16 * ss.length) 64 * 64
  let r := layOut first ss
  let body := padTo first ((List.replicate 0x80 (0 : Byte)) ++ r.1) ++ r.2
  let hdr := leBytes 4 h.magic ++ leBytes 2 h.format ++ leBytes 2 0 ++ leBytes 4 h.epoch ++ leBytes 4 (plateHdr delta).deltaSeq ++
    leBytes 4 h.detClass ++ leBytes 4 ss.length ++ leBytes 4 body.length ++ List.replicate 100 0
  hdr ++ body.drop 0x80

end Sys2Proof.Machine
end

