-- ==== Sys2Proof/Machine/Trust.lean ====
section
/-! DEFINITION. The trust core (14_trust_and_isolation.md): the mailbox, keys and the curve engine, SPDM, IDE streams, TDISP,
scrubs, and what a cut does to keys. -/

namespace Sys2Proof.Machine

/-! ### The trust core runs (15_start_power_cooling.md R389, 18_package_and_signals.md R460) -/

def trustUp (s : State) : Bool := s.start.vaux && s.start.sysRst

/-! ### The mailbox (R371) -/

def mbxCmd (s : State) : Nat := memNat s.mem.mbxReq 0 2
def mbxArgs (s : State) : List Byte := memRead s.mem.mbxReq 8 (min 4088 (memNat s.mem.mbxReq 2 2))

/-- The request ends: BUSY clears, and CODE, REASON and the response stand. -/
def mbxEnd (code reason : Nat) (resp : List Byte) (s : State) : State :=
  { s with tru.busy := false, tru.cmd := none, tru.code := code, tru.reason := reason, tru.respLen := resp.length,
           mem.mbxResp := memWrite s.mem.mbxResp 0 resp }
def mbxRefuse (reason : Nat) (s : State) : State := mbxEnd stMalformed reason [] s

/-- A request that takes curve operations holds BUSY (R372). -/
def mbxHold (s : State) : State := { s with tru.busy := true, tru.cmd := some (mbxCmd s) }

/-- GO with a command: ignored while BUSY reads 1; refused for a reserved field, then for its length. -/
def mailbox (cmd : Nat) (lenOk : Nat → Bool) (ok : List Byte → State → State) (s : State) : State :=
  if !trustUp s || s.tru.busy || mbxCmd s != cmd then s
  else if memNat s.mem.mbxReq 4 4 != 0 then mbxRefuse 1 s
  else if !lenOk (memNat s.mem.mbxReq 2 2) then mbxRefuse 2 s
  else ok (mbxArgs s) s

/-! ### Key commands (R364, R369, R372, R377) -/

/-- The binding's number among the management interfaces. -/
def bindingNum : Binding → Nat
  | .smbus => 0 | .i3c => 1 | .pcie => 2

/-- The answer to a key command, where it came from. An SPDM answer is a secured message: its type, its session, CODE, REASON
and the response. -/
def answerKey (via : Via) (code reason : Nat) (resp : List Byte) (s : State) : State :=
  match via with
  | .mailbox => mbxEnd code reason resp s
  | .spdm b session =>
    emit (.mctp (bindingNum b) (leBytes 1 6 ++ leBytes 4 session ++ leBytes 1 code ++ leBytes 1 reason ++ resp)) s

/-- The session of a partition's TDI made this request. -/
def viaOwner (via : Via) (p : Nat) (s : State) : Bool :=
  match via with
  | .mailbox => !assigned p s
  | .spdm _ session => assigned p s && look 0 s.tru.tdiSession p == session

/-- Why a key command for a connection is refused: CODE and REASON. -/
def keyRefusal (via : Via) (c : Nat) (s : State) : Option (Nat × Nat) :=
  let r := connRec c s
  if !r.used || look (0, 0) (plate s).keymap r.keySlot != (1, c) then some (stMalformed, 3)
  else if !viaOwner via r.part s then some (stAuthFail, 3)
  else none

/-- A curve operation joins the queue; the engine starts it at once when it is free (R366). -/
def queueCurve (op : CurveOp) (s : State) : State :=
  { s with tru.curve := s.tru.curve ++ [op], tru.curveAt := if s.tru.curve.isEmpty then s.time.elapsed else s.tru.curveAt }

/-- Bytes of the fused secrets. -/
def rootBytes : List Byte := leBytes 32 Config.root.toNat
def idScalar : Nat := Config.idScalar.toNat

/-- le32(PLATE_EPOCH) || le16(CONN) || EPOCH. -/
def keyContext (c epoch : Nat) (s : State) : List Byte := leBytes 4 (plate s).epoch ++ leBytes 2 c ++ leBytes 1 epoch

/-- A scalar that the CTR_DRBG's n-th draw gives. -/
def drawScalar (c epoch n : Nat) (s : State) : Nat :=
  beNat (kdf rootBytes "KOIQUE TFX ECDH" (keyContext c epoch s ++ padTo 32 (Config.drbg n)) 384)

/-- Draws until a scalar lies in 1 to n - 1; past 64 draws, one reduced into that range (notes/assumptions/46.md). -/
def drawGo (c epoch : Nat) : Nat → State → Nat × State
  | 0, s => (drawScalar c epoch s.tru.draws s % (n384 - 1) + 1, { s with tru.draws := s.tru.draws + 1 })
  | k + 1, s =>
    let d := drawScalar c epoch s.tru.draws s
    let s := { s with tru.draws := s.tru.draws + 1 }
    if scalarBad d then drawGo c epoch k s else (d, s)

/-- KEY_OFFER begins. -/
def offerKey (via : Via) (a : List Byte) (s : State) : State :=
  let c := u a 0 2
  let epoch := u a 2 1
  if 1 < epoch then answerKey via stMalformed 6 [] s
  else match keyRefusal via c s with
    | some x => answerKey via x.1 x.2 [] s
    | none =>
      let d := drawGo c epoch 64 s
      queueCurve (.offerPoint via c epoch d.1) (if via = .mailbox then mbxHold d.2 else d.2)

/-- The offer of a connection epoch that stands: its accept comes within 1 s of its response. -/
def offerFor (c epoch : Nat) (s : State) : Option Offer :=
  s.tru.offers.find? fun o => o.conn == c && o.epoch == epoch && decide (s.time.elapsed < o.at_ + secStrokes)
def dropOffer (c epoch : Nat) (s : State) : State :=
  { s with tru.offers := s.tru.offers.filter fun o => !(o.conn == c && o.epoch == epoch) }

/-- KEY_ACCEPT begins. -/
def acceptKey (via : Via) (a : List Byte) (s : State) : State :=
  let c := u a 0 2
  let epoch := u a 2 1
  if 1 < epoch then answerKey via stMalformed 6 [] s
  else match keyRefusal via c s with
    | some x => answerKey via x.1 x.2 [] s
    | none =>
      if (offerFor c epoch s).isNone then answerKey via stMalformed 4 [] s
      else queueCurve (.accept via c epoch (sub a 3 97)) (if via = .mailbox then mbxHold s else s)

/-- KEY_ERASE: the named positions become absent at once. -/
def eraseKey (via : Via) (a : List Byte) (s : State) : State :=
  let c := u a 0 2
  let mask := u a 2 1
  if 3 < mask then answerKey via stMalformed 1 [] s
  else match keyRefusal via c s with
    | some x => answerKey via x.1 x.2 [] s
    | none =>
      let s := if bit mask 0 then eraseConnKey c 0 s else s
      answerKey via stOk 0 [] (if bit mask 1 then eraseConnKey c 1 s else s)

/-- The node's frames on a connection carry DIR = 0: the peer is a requester, or the node of the higher NODE_ID (12 R317). -/
def nodeDir0 (c : Nat) (s : State) : Bool := (connRec c s).requester || (plate s).nodeId < (connRec c s).peerNode

/-- The key of a connection epoch, from the node's scalar and point and the peer's point (R364). -/
def agreedKey (c epoch scalar : Nat) (own peer : List Byte) (s : State) : BitVec 512 :=
  let z := beBytes 48 (curveMul scalar (pointOf peer)).1
  let q := if nodeDir0 c s then own ++ peer else peer ++ own
  BitVec.ofNat 512 (leNat (kdf z "KOIQUE TFX KEY" (keyContext c epoch s ++ q) 256))

/-- A key stands in a position of a connection's slot: KEYLESS becomes ACTIVE and starts afresh (12_transport.md R321); an
ACTIVE connection that held only the other epoch begins a rollover (R319). -/
def installConnKey (c epoch : Nat) (key : BitVec 512) (s : State) : State :=
  let slot := (connRec c s).keySlot
  let was := liveKey slot epoch s
  let s := freshEpoch c epoch (installPos slot epoch key s)
  match (conn c s).st with
  | .keyless =>
    let a := aux c s
    setAux c { ring := a.ring, lost := a.lost, lastBeat := a.lastBeat, sentLimit := 36, sentLimit0 := 36
               group := passNow s / 64, route := a.route } (setConn c (freshConn epoch) s)
  | .active =>
    if was.isNone then rollCheck c (setConn c { conn c s with rollStep := 1, rollPass := passNow s } s) else s
  | .unused | .closing | .failed => s

/-! ### The curve engine (R366, R367) -/

/-- Strokes of one operation: 1.9 ms. -/
abbrev curveStrokes : Nat := 7600

/-- SHA-384 of the offer: NODE_ID, connection, epoch, PLATE_EPOCH and the point. -/
def offerMessage (c epoch : Nat) (q : List Byte) (s : State) : List Byte :=
  ascii "KOIQUE OFFER" ++ leBytes 2 (plate s).nodeId ++ leBytes 2 c ++ leBytes 1 epoch ++ leBytes 4 (plate s).epoch ++ q

/-- An SPDM message of the node: message type, version, response code and two parameters (notes/assumptions/47.md). -/
def spdm (code p1 p2 : Nat) (body : List Byte) : List Byte := asBytes [5, 0x12, code, p1, p2] ++ body

/-- ERROR with an SPDM error code: 0x01 invalid request, 0x0A session limit exceeded. -/
def spdmError (b : Binding) (code : Nat) (s : State) : State := emit (.mctp (bindingNum b) (spdm 0x7F code 0 [])) s

/-- What an operation gives at its end. -/
def curveResult (op : CurveOp) (s : State) : State :=
  match op with
  | .offerPoint via c epoch d => queueCurve (.offerSign via c epoch d (publicPoint d)) s
  | .offerSign via c epoch d q =>
    let s := dropOffer c epoch s
    let s := { s with tru.offers := s.tru.offers ++ [⟨c, epoch, d, q, s.time.elapsed⟩] }
    answerKey via stOk 0 (q ++ ecdsaSign idScalar (offerMessage c epoch q s)) s
  | .accept via c epoch q =>
    if pointBad q then answerKey via stBadPoint 0 [] (countEvent cBadPoint unitTrust s)
    else match keyRefusal via c s, offerFor c epoch s with
      | some x, _ => answerKey via x.1 x.2 [] s
      | none, none => answerKey via stMalformed 4 [] s
      | none, some o =>
        answerKey via stOk 0 [] (dropOffer c epoch (installConnKey c epoch (agreedKey c epoch o.scalar o.point q s) s))
  | .mult d q =>
    if pointBad q then mbxEnd stBadPoint 0 [] (countEvent cBadPoint unitTrust s)
    else if scalarBad d then mbxEnd stBadScalar 0 [] (countEvent cBadScalar unitTrust s)
    else mbxEnd stOk 0 (pointBytes (curveMul d (pointOf q))) s
  | .sign b _ m => emit (.mctp (bindingNum b) (m ++ ecdsaSign idScalar m)) s
  | .exchange b q =>
    if pointBad q then spdmError b 1 (countEvent cBadPoint unitTrust s)
    else
      let id := s.tru.nextSession
      emit (.mctp (bindingNum b) (spdm 0x64 0 0 (leBytes 4 id)))
        { s with tru.sessions := s.tru.sessions ++ [id], tru.nextSession := id + 1 }

/-- CURVE_OP_DONE: 1.9 ms after its start the front operation ends, and the next starts. -/
def execCurveOpDoneState (s : State) : State :=
  match s.tru.curve with
  | [] => s
  | op :: rest =>
    if s.time.elapsed < s.tru.curveAt + curveStrokes then s
    else curveResult op { s with tru.curve := rest, tru.curveAt := s.time.elapsed }

/-- OFFER_EXPIRY: 62,500 passes after its response an offer is erased. -/
def execOfferExpiryState (c epoch : Nat) (s : State) : State :=
  { s with tru.offers := s.tru.offers.filter fun o =>
      !(o.conn == c && o.epoch == epoch && decide (o.at_ + secStrokes ≤ s.time.elapsed)) }

/-! ### Mailbox commands of this chapter -/

/-- A secured message waits that carries a request of R371 with this command: its binding, its session, and what its reserved
bytes 4 to 7 hold with its arguments. -/
def vendorKey (cmd : Nat) (s : State) : Option (Binding × Nat × Nat × List Byte) :=
  match s.mgmt.messages with
  | (b, m) :: _ =>
    if u m 0 1 = 6 ∧ u m 5 2 = cmd ∧ s.tru.sessions.contains (u m 1 4) then
      some (if b = 0 then .smbus else if b = 1 then .i3c else .pcie, u m 1 4, u m 9 4, sub m 13 (u m 7 2))
    else none
  | [] => none

/-- A key command: the secured message that waits with it, or the mailbox's request. -/
def keyCommand (cmd len : Nat) (go : Via → List Byte → State → State) (s : State) : State :=
  match if trustUp s then vendorKey cmd s else none with
  | some (b, session, reserved, a) =>
    let s := { s with mgmt.messages := s.mgmt.messages.tail }
    if reserved ≠ 0 then answerKey (.spdm b session) stMalformed 1 [] s
    else if a.length = len then go (.spdm b session) a s else answerKey (.spdm b session) stMalformed 2 [] s
  | none => mailbox cmd (· == len) (go .mailbox) s

def execKeyOfferState (s : State) : State := keyCommand 0x0101 3 offerKey s
def execKeyAcceptState (s : State) : State := keyCommand 0x0102 100 acceptKey s
def execKeyEraseState (s : State) : State := keyCommand 0x0103 3 eraseKey s

/-- A boot bank of a component (0 trust core, 1 hub), and its SVN. -/
def bankOf (comp b : Nat) (s : State) : Bank := look {} s.mgmt.banks (2 * comp + b)
def bankSvn (comp : Nat) (k : Bank) : Nat := if k.fresh then k.svn else Config.imageSvn comp
def runningBank (comp : Nat) (s : State) : Nat := if comp = 0 then s.mgmt.tcBank else s.mgmt.hubBank
def runningSvn (comp : Nat) (s : State) : Nat := bankSvn comp (bankOf comp (runningBank comp s) s)

/-- FUSE_SVN (R361): a count from the fused one to the running image's, 64 bits at most. -/
def execFuseSvnState (s : State) : State :=
  mailbox 0x0120 (· == 2) (fun a s =>
    let which := u a 0 1
    let n := u a 1 1
    let now := if which = 0 then max s.tru.svnTc s.tru.burntTc else max s.tru.svnHub s.tru.burntHub
    if 1 < which || n < now || runningSvn which s < n || 64 < n then mbxRefuse 6 s
    else mbxEnd stOk 0 [] (if which = 0 then { s with tru.svnTc := n, tru.burntTc := n }
      else { s with tru.svnHub := n, tru.burntHub := n })) s

/-- CURVE_MULT: one operation on the caller's scalar and point. -/
def execCurveMultState (s : State) : State :=
  mailbox 0x0130 (· == 145) (fun a s => queueCurve (.mult (beNat (sub a 0 48)) (sub a 48 97)) (mbxHold s)) s

/-! ### Flash keys (R363) -/

/-- The flash key of a partition under a PLATE_EPOCH. -/
def flashKey (epoch q : Nat) : BitVec 512 :=
  BitVec.ofNat 512 (leNat (kdf rootBytes "KOIQUE FLASH XTS" (leBytes 4 epoch ++ leBytes 1 q) 512))

/-! ### Scrubs (R381 to R383) -/

/-- A scrub of a party, with what the plate in force gives the party. -/
def newScrub (tenant : Bool) (id : Nat) (running : Bool) (s : State) : Scrub :=
  let p := plate s
  let part := if tenant then (tenantRec id s).owner else id
  let mine := fun x : Nat × ConnRec => x.2.used && (if tenant then x.2.tenant == id else x.2.part == id)
  { tenantScope := tenant, id, step := 1, repeated := false, failed := false, running, part
    record := partRec part s
    tenants := if tenant then [id] else ((p.tenants.filter fun x => x.2.used && x.2.owner == id).map (·.1))
    conns := (p.conns.filter mine).map fun x => (x.1, x.2.keySlot)
    flash := if tenant then [] else (p.keymap.filter fun x => x.2 == (2, id)).map (·.1)
    slots := [], tiles := [], tlpns := [], extents := [] }

def scrubOf (tenant : Bool) (id : Nat) (s : State) : Option Scrub :=
  s.tru.scrubs.find? fun x => x.tenantScope == tenant && x.id == id

/-- A scrub starts, unless the party's scrub is running already. -/
def startScrub (tenant : Bool) (id : Nat) (running : Bool) (s : State) : State :=
  match scrubOf tenant id s with
  | some x =>
    if x.failed then
      { s with tru.scrubs := replaceWhere (· == x) (fun x => { x with step := 1, repeated := false, failed := false, running }) s.tru.scrubs }
    else s
  | none => { s with tru.scrubs := s.tru.scrubs ++ [newScrub tenant id running s] }

/-- SCRUB: a party already pending is left as it is. -/
def execScrubState (s : State) : State :=
  mailbox 0x0110 (· == 3) (fun a s =>
    let scope := u a 0 1
    let id := u a 1 2
    if 1 < scope || (if scope = 0 then 128 else 1024) ≤ id then mbxRefuse 6 s
    else mbxEnd stOk 0 [] (if (scrubOf (scope == 1) id s).isSome then s else startScrub (scope == 1) id true s)) s

/-- Directory entries of the party. -/
def scrubEntries (x : Scrub) (s : State) : List (Nat × DirEntry) :=
  let lo := x.record.dirBaseK * 1024
  s.dir.entries.filter fun e => lo ≤ e.1 && e.1 < lo + x.record.dirCountK * 1024 &&
    (!x.tenantScope || keyTenant e.2.key == x.id)

/-- Contexts of the party's tenants. -/
def scrubCtxs (x : Scrub) (s : State) : List Nat :=
  (s.res.ctxs.filter fun c => x.tenants.contains (geoOf c.2.toNat).tenant && (geoOf c.2.toNat).part == x.part).map (·.1)

/-- Step 1: keys. -/
def scrubKeys (x : Scrub) (s : State) : State :=
  let s := x.conns.foldl (fun s c =>
    if (connRec c.1 s).keySlot = c.2 then eraseConnKey c.1 1 (eraseConnKey c.1 0 s)
    else erasePos c.2 1 (erasePos c.2 0 s)) s
  x.flash.foldl (fun s k => erasePos k 0 s) s

/-- Step 2: contexts close, their TAIL bits clear, and the party's entries are invalidated. The extents and what they name are
noted. -/
def scrubContexts (x : Scrub) (s : State) : Scrub × State :=
  let ctxs := scrubCtxs x s
  let s := ctxs.foldl (fun s c =>
    let w := (ctxWord c s).toNat
    if bit w 63 then { s with res.ctxs := put 0 s.res.ctxs c (BitVec.ofNat 64 (w - 2 ^ 63)) } else s) s
  let es := scrubEntries x s
  let exts := if x.tenantScope then once ((es.filter (·.2.v)).map fun e => dataExt e.2.data)
    else (s.dir.extents.filter fun e => extPart e.2.st == some x.id).map (·.1)
  let x := { x with
    slots := exts.flatMap fun e => slotsOf (extent e s)
    tlpns := exts.flatMap fun e => tlpnsOf (extent e s)
    tiles := (s.res.tiles.filter fun t => ctxs.contains t.2.page.ctx).map (·.1)
    extents := exts }
  let s := es.foldl (fun s e =>
    if e.2.v then extToGrace (dataExt e.2.data) (writeEntry e.1 { e.2 with v := false, held := false } s)
    else if e.2.lost then releaseLost e.2 (writeEntry e.1 { e.2 with held := false, lost := false, lostExt := none } s)
    else if e.2.held then writeEntry e.1 { e.2 with held := false } s
    else s) s
  let s := if x.tenantScope then s else exts.foldl (fun s e => match (extent e s).st with
    | .built _ => freeExtent e s
    | .free | .live _ | .grace _ _ => s) s
  let tails := s.dir.tailClear.filter fun t => !ctxs.contains t.2
  (x, { s with dir.tailClear := tails })

/-- Every extent the party held is FREE. -/
def scrubGraceOver (x : Scrub) (s : State) : Bool := x.extents.all fun e => (extent e s).st == .free

/-- Slot and tile ranges of a partition record: first and count. -/
def recordSlots (r : PartRec) : List (Nat × Nat) :=
  ((List.range 6).map fun st =>
    let q := r.gs.getD st {}
    (stackFirst st + q.slotFirstK * 1024, q.slotCountK * 1024)) ++
  (List.range 2).map fun v => (stackFirst (6 + v) + (r.vaults.getD v (0, 0)).1 * 1024, (r.vaults.getD v (0, 0)).2 * 1024)
def recordTiles (r : PartRec) : List (Nat × Nat) :=
  (List.range 6).map fun st =>
    let q := r.gs.getD st {}
    (st * tilesPerStack + q.tileFirst * 64, q.tileCount * 64)

def zeroSlotRange (s : State) (r : Nat × Nat) : State :=
  { s with
    mem.stk := zeroPages s.mem.stk (slotPlace r.1) r.2
    res.slots := s.res.slots.filter fun x => x.1 < r.1 || r.1 + r.2 ≤ x.1 }
def zeroTileRange (s : State) (r : Nat × Nat) : State :=
  { s with
    mem.stk := zeroPages s.mem.stk (tilePlace r.1) r.2
    res.tiles := s.res.tiles.filter fun x => x.1 < r.1 || r.1 + r.2 ≤ x.1 }

/-- Contexts leave their descriptor and length tables. -/
def zeroCtx (s : State) (c : Nat) : State :=
  { s with
    res.ctxs := put 0 s.res.ctxs c 0
    res.lens := put 0 s.res.lens c 0
    res.lensBefore := put (0, 0) s.res.lensBefore c (0, 0)
    res.staged := s.res.staged.filter fun x => x.1 / 2 ^ 17 != c }

/-- Step 4: the party's memory, tables, regions and counters are zero. -/
def scrubZero (x : Scrub) (s : State) : State :=
  let one := fun n : Nat => (n, 1)
  let s := (if x.tenantScope then x.slots.map one else recordSlots x.record).foldl zeroSlotRange s
  let s := (if x.tenantScope then x.tiles.map one else recordTiles x.record).foldl zeroTileRange s
  let s := if x.tenantScope then s
    else (b2Pages x.id s).foldl (fun s k => { s with mem.bar2 := memZero s.mem.bar2 (k * b2PageBytes) b2PageBytes }) s
  let s := x.extents.foldl (fun s e => setExtent e {} s) s
  let s := (scrubCtxs x s).foldl zeroCtx s
  let regions := mapStore {} (fun r : Region => if r.live && x.tenants.contains r.tenant then { r with live := false } else r) s.tfx.regions
  let triggers := mapStore {} (fun t : Trigger => match t.tenant with
    | some n => if x.tenants.contains n then {} else t
    | none => t) s.tfx.triggers
  let others := fun d : DropRec => !x.tenants.contains d.tenant
  let s := if x.tenantScope then s
    else { s with
      res.changes := s.res.changes.filter fun c => c.part != x.id
      res.drops := put [] s.res.drops x.id [], res.dropping := s.res.dropping.filter others }
  { s with tfx.regions := regions, tfx.triggers := triggers }

/-- Step 5: the party's TLPNs are trimmed, and every NAND block that held one of their codewords is erased, once the codewords of
others on it are relocated. -/
def scrubFlash (x : Scrub) (s : State) : State :=
  let first := x.record.tierFirstK * 4096
  let mine := fun t => if x.tenantScope then x.tlpns.contains t else first ≤ t && t < first + x.record.tierCountK * 4096
  let blocks := once ((s.fsh.places.filter fun y => mine (y.1 / 32)).map fun y => y.2 - 1)
  blocks.foldl (fun s b => if (blockHolds b s).isEmpty then eraseBlock false s b else relocateBlock false false b s) (unplace mine s)

/-- Step 6: the sheet banks of the partition's gravers go off. -/
def scrubSheets (x : Scrub) (s : State) : State :=
  if x.tenantScope then s
  else { s with gravers := mapStore {} (fun g : Graver => if g.part = x.id then banksOff g else g) s.gravers }

/-- The work of the step the scrub is in. -/
def scrubWork (x : Scrub) (s : State) : Scrub × State :=
  if x.step = 1 then (x, scrubKeys x s)
  else if x.step = 2 then scrubContexts x s
  else if x.step = 4 then (x, scrubZero x s)
  else if x.step = 5 then (x, scrubFlash x s)
  else if x.step = 6 then (x, scrubSheets x s)
  else (x, s)

/-- The outcome of step 7 (R383). -/
def scrubVerified (x : Scrub) (ok : Bool) (s : State) : State :=
  let rest := s.tru.scrubs.filter (· != x)
  if ok then { s with tru.scrubs := rest, tru.scrubFailed := false }
  else if x.repeated then
    raise fScrubFail unitTrust (leBytes 2 x.id ++ leBytes 1 (b2n x.tenantScope))
      (tally cScrubFail { s with
        tru.scrubFailed := true
        tru.scrubs := replaceWhere (· == x) (fun x => { x with failed := true, running := false }) s.tru.scrubs })
  else { s with tru.scrubs := replaceWhere (· == x) (fun x => { x with step := 4, repeated := true }) s.tru.scrubs }

/-- No byte listed in a memory lies in one of the ranges of first address and length. -/
def allZero (m : Mem) (rs : List (Nat × Nat)) : Bool := m.all fun x => rs.all fun r => x.1 < r.1 || r.1 + r.2 ≤ x.1

/-- Step 7 reads every byte that step 4 zeroed as zero: what a tenant's step 4 gave back and another page has taken since is no
longer the tenant's. -/
def scrubReadsZero (x : Scrub) (s : State) : Bool :=
  let free := fun n : Nat => !(look {} s.res.slots n).holding
  let idle := fun n : Nat => !s.res.tiles.any fun t => t.1 == n
  let one := fun n : Nat => (n, 1)
  let slots := if x.tenantScope then (x.slots.filter free).map one else recordSlots x.record
  let tiles := if x.tenantScope then (x.tiles.filter idle).map one else recordTiles x.record
  slots.all (fun r => allZero s.mem.stk (pageSpans (slotPlace r.1) r.2)) &&
    tiles.all (fun r => allZero s.mem.stk (pageSpans (tilePlace r.1) r.2)) &&
    (x.tenantScope || allZero s.mem.bar2 ((b2Pages x.id s).map fun k => (k * b2PageBytes, b2PageBytes)))

/-- SCRUB_STEP: the party's scrub finishes its step; `ok` says that step 7 met no error of its own. A repeated scrub goes from step 4 to step 7. -/
def execScrubStepState (tenant : Bool) (id : Nat) (ok : Bool) (s : State) : State :=
  match scrubOf tenant id s with
  | none => s
  | some x =>
    if x.failed || !x.running || !trustUp s || (x.step == 3 && !scrubGraceOver x s) then s
    else if x.step = 7 then scrubVerified x (ok && scrubReadsZero x s) s
    else
      let r := scrubWork x s
      let next := if x.repeated && x.step == 4 then 7 else x.step + 1
      { r.2 with tru.scrubs := replaceWhere (· == x) (fun _ => { r.1 with step := next }) r.2.tru.scrubs }

/-! ### SPDM (R373 to R375) -/

/-- The image a component runs. -/
def runningImage (comp : Nat) (s : State) : List Byte :=
  let k := bankOf comp (runningBank comp s) s
  if k.fresh then k.image else Config.imageBytes comp

/-- Partitions assigned under TDISP. -/
def assignedParts (s : State) : List Nat :=
  (s.tru.tdis.filter fun x => match x.2 with
    | .locked | .run => true
    | .unlocked | .error => false).map (·.1)

/-- A measurement block: index, value type (0x80 raw; 0x01 firmware, 0x03 configuration digest), value. -/
def measurement (index typ : Nat) (value : List Byte) : List Byte :=
  leBytes 1 index ++ leBytes 1 1 ++ leBytes 2 (value.length + 3) ++ leBytes 1 typ ++ leBytes 2 value.length ++ value

def measurements (s : State) : List Byte :=
  measurement 1 0x01 (sha384 (runningImage 0 s)) ++
  measurement 2 0x01 (sha384 (runningImage 1 s)) ++
  measurement 3 0x03 (if s.plt.active.isSome then leBytes 48 s.plt.digest.toNat else leBytes 48 0) ++
  measurement 4 0x83 (leBytes 4 0x00C00001 ++ asBytes [0xC0, b2n s.mgmt.grade, s.tru.measuredSvn.1, s.tru.measuredSvn.2, s.tru.lifecycle] ++ leBytes 7 0) ++
  measurement 5 0x83 (leBytes 2 (assignedParts s).length ++ leBytes 2 s.tru.scrubs.length)

/-- GET_MEASUREMENTS over all indices: the proof is composed now and signed by the curve engine. -/
def execGetMeasurementsState (b : Binding) (session : Option Nat) (nonce : List Byte) (s : State) : State :=
  if !trustUp s then s
  else if (session.map fun n => s.tru.sessions.contains n).getD true then
    let record := measurements s
    queueCurve (.sign b session (spdm 0x60 0 0 (leBytes 1 5 ++ leBytes 3 record.length ++ record ++ padTo 32 nonce))) s
  else spdmError b 1 s

/-- KEY_EXCHANGE: four sessions at once. -/
def execKeyExchangeState (b : Binding) (q : List Byte) (s : State) : State :=
  let opening := (s.tru.curve.filter fun x => match x with
    | .exchange _ _ => true
    | .offerPoint _ _ _ _ | .offerSign _ _ _ _ _ | .accept _ _ _ _ | .mult _ _ | .sign _ _ _ => false).length
  if !trustUp s then s
  else if 4 ≤ s.tru.sessions.length + opening then spdmError b 0x0A s
  else queueCurve (.exchange b q) s

/-! ### IDE and TDISP (R376 to R379) -/

def ideStream (n : Nat) (s : State) : Option IdeStream := (s.tru.streams.find? fun x => x.1 == n).map (·.2)
def setStream (n : Nat) (v : IdeStream) (s : State) : State :=
  { s with tru.streams := (s.tru.streams.filter fun x => x.1 < n) ++ (n, v) :: s.tru.streams.filter fun x => n < x.1 }

/-- IDE_KM inside a session: a stream's key is programmed and the stream enabled; one link stream on each link, 16 selective
streams. -/
def execIdeKmState (session stream : Nat) (key : Key) (vf : Option Nat) (s : State) : State :=
  let same := s.tru.streams.filter fun x => x.1 != stream && x.2.vf.isSome == vf.isSome
  if !trustUp s || !s.tru.sessions.contains session || (if vf.isSome then 16 else 2) ≤ same.length then s
  else setStream stream ⟨key, vf, true, session⟩ s

def tdi (n : Nat) (s : State) : Tdi := look .unlocked s.tru.tdis n
def setTdi (n : Nat) (t : Tdi) (s : State) : State := { s with tru.tdis := put .unlocked s.tru.tdis n t }

/-- A locked TDI goes to ERROR, and its partition is scrubbed (R379). -/
def tdiError (running : Bool) (s : State) (vf : Nat) : State :=
  match tdi vf s with
  | .locked | .run =>
    let s := setTdi vf .error s
    if running then startScrub false vf true s else startScrub false vf false s
  | .unlocked | .error => s

def execIdeFailState (stream : Nat) (s : State) : State :=
  match ideStream stream s with
  | none => s
  | some x =>
    if !x.secure then s
    else
      let s := countEvent cIdeFail (unitLink 0) (setStream stream { x with secure := false } s)
      match x.vf with
      | some vf => tdiError true s vf
      | none => s

/-- A selective stream of a VF is programmed and enabled. -/
def vfStream (vf : Nat) (s : State) : Bool := s.tru.streams.any fun x => x.2.vf == some vf && x.2.secure

def execLockInterfaceState (vf session : Nat) (s : State) : State :=
  if trustUp s && s.tru.sessions.contains session && tdi vf s == .unlocked && (partRec vf s).confidential &&
      (scrubOf false vf s).isNone && vfStream vf s then
    let s := setTdi vf .locked s
    { s with tru.tdiSession := put 0 s.tru.tdiSession vf session }
  else s

def execStartInterfaceState (vf : Nat) (s : State) : State :=
  if tdi vf s = .locked ∧ trustUp s then setTdi vf .run s else s

def execStopInterfaceState (vf : Nat) (s : State) : State :=
  if !trustUp s then s
  else match tdi vf s with
    | .locked | .run | .error => startScrub false vf true (setTdi vf .unlocked s)
    | .unlocked => s

/-! ### Secure hold and cuts (R384 to R386) -/

/-- An assigned partition that a block serves. -/
def holder (serves : Nat → Bool) (s : State) : Option Nat := (assignedParts s).find? serves

def graverHolder (g : Nat) (s : State) : Option Nat := holder (fun p => (plate s).alloc.getD g 0xFF == p) s
def portHolder (p : Nat) (s : State) : Option Nat :=
  holder (fun q => (plate s).conns.any fun x => x.2.used && x.2.part == q && bit x.2.ports p) s
def flashHolder (s : State) : Option Nat := holder (fun p => (partRec p s).tierCountK != 0) s
def linkHolder (s : State) : Option Nat := holder (fun p => vfStream p s) s

/-- A deferral: DEFERRED rises, and the secure-hold event is logged with the partition and the request. -/
def deferRequest (unit part request : Nat) (s : State) : State :=
  logEvent clTrust 0x01 unit (leBytes 2 part ++ leBytes 1 request) (tally cDeferred s)

/-- What a cut does to keys: every key slot is lost; locked TDIs go to ERROR, their partitions become scrub-pending, and the
scrubs wait for full function. -/
def cutKeys (s : State) : State :=
  let ps := assignedParts s
  let s := ps.foldl (tdiError false) s
  let scrubs := s.tru.scrubs.map fun x => { x with step := 1, running := false }
  let s := { s with tru.keys := [], tru.latches := [], tru.keyWrites := [], tru.streams := [], tru.scrubs := scrubs }
  if ps.isEmpty then s else countEvent cCuts unitNode s

/-! ### The commands -/

def execKeyOffer (s : State) : Host.Outcome State Fault Refusal := .next (execKeyOfferState s)
def execKeyAccept (s : State) : Host.Outcome State Fault Refusal := .next (execKeyAcceptState s)
def execKeyErase (s : State) : Host.Outcome State Fault Refusal := .next (execKeyEraseState s)
def execCurveOpDone (s : State) : Host.Outcome State Fault Refusal := .next (execCurveOpDoneState s)
def execOfferExpiry (c epoch : Nat) (s : State) : Host.Outcome State Fault Refusal := .next (execOfferExpiryState c epoch s)
def execScrub (s : State) : Host.Outcome State Fault Refusal := .next (execScrubState s)
def execScrubStep (tenant : Bool) (id : Nat) (ok : Bool) (s : State) : Host.Outcome State Fault Refusal :=
  .next (execScrubStepState tenant id ok s)
def execFuseSvn (s : State) : Host.Outcome State Fault Refusal := .next (execFuseSvnState s)
def execCurveMult (s : State) : Host.Outcome State Fault Refusal := .next (execCurveMultState s)
def execGetMeasurements (b : Binding) (session : Option Nat) (nonce : List Byte) (s : State) : Host.Outcome State Fault Refusal :=
  .next (execGetMeasurementsState b session nonce s)
def execKeyExchange (b : Binding) (q : List Byte) (s : State) : Host.Outcome State Fault Refusal := .next (execKeyExchangeState b q s)
def execIdeKm (session stream : Nat) (key : Key) (vf : Option Nat) (s : State) : Host.Outcome State Fault Refusal :=
  .next (execIdeKmState session stream key vf s)
def execIdeFail (stream : Nat) (s : State) : Host.Outcome State Fault Refusal := .next (execIdeFailState stream s)
def execLockInterface (vf session : Nat) (s : State) : Host.Outcome State Fault Refusal := .next (execLockInterfaceState vf session s)
def execStartInterface (vf : Nat) (s : State) : Host.Outcome State Fault Refusal := .next (execStartInterfaceState vf s)
def execStopInterface (vf : Nat) (s : State) : Host.Outcome State Fault Refusal := .next (execStopInterfaceState vf s)

end Sys2Proof.Machine
end

