-- ==== Sys2Proof/Machine/HostCmds.lean ====
section
/-! DEFINITION. The host's queues and functions (13_host_attachment.md R344, R346 to R351): doorbells, list completion, queue
enable, function-level reset, PERST#, and the BAR2 page map. -/

namespace Sys2Proof.Machine

/-! ### Doorbells (R346 to R348) -/

/-- The header breaks R7, differs from the doorbell, or names a partition that is not the function's own. -/
def badListHeader (f ncmd : Nat) (h : List Byte) (s : State) : Bool :=
  u h 8 2 != ncmd || u h 0xA 1 / 4 != 0 || u h 0xB 1 / 128 != 0 || !zeroes (sub h 0xC 52) ||
    (match fnPart f s with
      | some p => u h 0xB 1 != p
      | none => false)

/-- The status with which a list is refused whole (R348, R345); of two, the one that R17 names. -/
def listRefusal (f ncmd : Nat) (h : List Byte) (s : State) : Option Nat :=
  let st := combine (codeIf (badListHeader f ncmd h s) stMalformed ++
    codeIf (f == 0 && assigned (u h 0xB 1 % 128) s) stAuthFail)
  if st = stOk then none else some st

/-- A list is accepted with the next SEQ of its queue. -/
def acceptList (f cls off ncmd : Nat) (s : State) : State :=
  let q := hostQueue f cls s
  let seq := if q.seq = 2 ^ 32 - 1 then 1 else q.seq + 1
  let h := b2Read f off 64 s
  let l : CmdList :=
    { seq, off, ncmd, part := u h 0xB 1 % 128, stop := bit (u h 0xA 1) 0, irq := bit (u h 0xA 1) 1
      refused := listRefusal f ncmd h s, next := 0, results := [], stopped := false }
  settle f cls (setQueue f cls { q with seq, lists := q.lists ++ [l] } s)

/-- The queue takes doorbells: enabled, and on link B while HUB_LINKB.VALID (R357). -/
def queueListens (f cls : Nat) (s : State) : Bool :=
  (hostQueue f cls s).enable && (f != 129 || s.host.linkBValid)

/-- CQ_DOORBELL. -/
def execCqDoorbellState (f cls : Nat) (value : BitVec 64) (stores : List HostStore) (s : State) : State :=
  let s := stores.foldl hostStore s
  let off := field value.toNat 0 21 * 64
  let ncmd := field value.toNat 32 10
  if !queueListens f cls s then s
  else if 64 ≤ (hostQueue f cls s).lists.length then countEvent (cDbOverflow f cls) unitNode s
  else if ncmd = 0 || !b2Ok f off (64 + 64 * ncmd) s then countEvent (cDbBad f cls) unitNode s
  else acceptList f cls off ncmd s

/-! ### Completion (R349) -/

/-- Every command that the list started has ended, and no further one starts. -/
def listEnded (l : CmdList) : Bool :=
  l.refused.isSome || ((l.stopped || l.ncmd ≤ l.next) && l.results.length == l.next)

/-- The RESULT words of the commands that ran. -/
def writeResults (f : Nat) (l : CmdList) (s : State) : State :=
  l.results.foldl (fun s x =>
    let r := x.2
    b2Write f (l.off + 64 + 64 * x.1 + 0x38)
      (leBytes 1 (r.1 % 256) ++ leBytes 1 r.2.1 ++ leBytes 2 0 ++ leBytes 4 r.2.2) s) s

/-- The COMPLETION word: DONE, STATUS, EXECUTED and SEQ. -/
def completionWord (l : CmdList) : List Byte :=
  let st := l.refused.getD (combine (l.results.map fun x => x.2.1 % 256))
  leBytes 1 1 ++ leBytes 1 st ++ leBytes 2 (if l.refused.isSome then 0 else l.results.length) ++ leBytes 4 l.seq

/-- LIST_COMPLETION: the front list of a queue has ended. -/
def execListCompletionState (f cls : Nat) (s : State) : State :=
  let q := hostQueue f cls s
  match q.lists with
  | [] => s
  | l :: rest =>
    if !listEnded l then s
    else
      let s := if l.refused.isSome then s else writeResults f l s
      let s := setQueue f cls { q with lists := rest } (b2Write f l.off (completionWord l) s)
      settle f cls (if l.irq then interrupt f cls s else s)

/-! ### Disabling and resets (R351, R357) -/

/-- A function index for work that outlives its queue. -/
def detachedFn (f : Nat) (s : State) : Nat :=
  let used := (s.res.ops.map (·.fn)) ++ s.res.moveOuts.map (·.fn)
  f + detached * ((used.map (· / detached)).foldr max 0 + 1)

/-- Work that the function's class-0 or class-1 queue started goes on without a command to end. -/
def detachWork (f cls : Nat) (s : State) : State :=
  let d := detachedFn f s
  if cls = 0 then
    { s with sch.reqs := s.sch.reqs.map fun r =>
        { r with host := r.host.map fun h => if h.1 = f then (d, h.2) else h } }
  else if cls = 1 then
    let ops := s.res.ops.map fun o => if o.fn = f then { o with fn := d } else o
    let outs := s.res.moveOuts.map fun m => if m.fn = f then { m with fn := d } else m
    let progs := s.res.programs.map fun p => if p.fn = some f then { p with fn := some d } else p
    let changes := s.res.changes.map fun c => if c.fn = some f then { c with fn := some d } else c
    { s with res.ops := ops, res.moveOuts := outs, res.programs := progs, res.changes := changes
             fsh.stallOp := if s.fsh.stallOp = some (.exportPage f) then some (.exportPage d) else s.fsh.stallOp }
  else if cls = 4 ∧ s.fsh.stallOp = some (.command f) then endStall s
  else s

/-- A queue is disabled, and its pending lists are discarded. -/
def disableQueue (f : Nat) (s : State) (cls : Nat) : State :=
  let q := hostQueue f cls s
  setQueue f cls { q with enable := false, lists := [] } (detachWork f cls s)

/-- CQ_ENABLE: SEQ starts again when ENABLE is set; writing 0 acts as a reset of the queue. -/
def execCqEnableState (f cls : Nat) (enable : Bool) (s : State) : State :=
  let q := hostQueue f cls s
  if enable then (if q.enable then s else setQueue f cls { q with enable := true, seq := 0 } s)
  else disableQueue f s cls

/-- A ring is disabled: what waited for it is discarded, and its credit returns. -/
def disableRing (s : State) (i : Nat) : State :=
  let r := ring i s
  let back := fun (s : State) (m : RingMsg) => ringCredit m m.body.length s
  r.waiting.foldl back (setRing i { r with enable := false, waiting := [], written := 0, nbuf := 0, fill := none, waits := false } s)

/-- The rings of a function's partition view (R343). -/
def viewRings (f : Nat) (s : State) : List Nat :=
  match fnPart f s with
  | some p => [2 * p, 2 * p + 1]
  | none => []

/-- A function's queues and rings are reset. -/
def resetFn (s : State) (f : Nat) : State := (viewRings f s).foldl disableRing ((List.range 5).foldl (disableQueue f) s)

/-- FLR of a function: counted, and a locked TDI of the VF goes to ERROR (14_trust_and_isolation.md R379). -/
def execFlrState (f : Nat) (s : State) : State :=
  let s := countEvent cFlr (unitLink (if f = 129 then 1 else 0)) (resetFn s f)
  if 1 ≤ f ∧ f ≤ 128 then tdiError true s (f - 1) else s

/-- The functions of link A, or of link B. -/
def linkFns (l : Nat) : List Nat := if l = 0 then List.range 129 else [129]

/-- A link goes down: every function of it is reset, once counted (R351). -/
def linkLoss (l : Nat) (s : State) : State :=
  let s := countEvent cFlr (unitLink l) ((linkFns l).foldl resetFn s)
  if l = 0 then
    { s with host.speed := 0, host.width := 0, host.cxlIo := false, host.cxlCache := false, host.cxlMem := false, host.loads := [] }
  else { s with host.linkBUp := false }

/-- PERST#: the host port alone is reset, as a loss of both links (15_start_power_cooling.md R391). -/
def execPerstState (s : State) : State :=
  let s := (List.range 130).foldl resetFn s
  countEvent cFlr (unitLink 0)
    { s with
      host.speed := 0, host.width := 0, host.cxlIo := false, host.cxlCache := false, host.cxlMem := false
      host.linkBUp := false, host.loads := [] }

/-! ### HUB_B2MAP (R344, R358; 14_trust_and_isolation.md R377) -/

/-- BAR2 ranges of the function that a command names: (offset, length). -/
def namedRanges (cls : Nat) (b : List Byte) : List (Nat × Nat) :=
  let op := u b 0 1
  let a := fun off n => u b (8 + off) n
  if cls = 0 then (if op = 1 then [(a 0 8, a 8 4 % 2 ^ 17), (a 0x10 8, a 0x18 4 % 2 ^ 21)] else [])
  else if cls = 1 then
    (if op = 2 then [(a 8 8, 4 * a 0 4)] else if op = 3 then [(a 8 8, 256)] else [])
  else if cls = 2 then
    (if op = 1 then [(a 8 8, a 0x10 4 % 2 ^ 21)]
      else if op = 2 then (if bit (a 4 1) 0 then [(a 8 8, a 0x10 8)] else [])
      else if op = 6 then [(a 0x10 8, a 0x18 4 % 2 ^ 21)] else [])
  else if cls = 3 then (if op = 3 then [(a 0 8, a 8 8)] else [])
  else if op = 1 || op = 2 then [(a 8 8, 69632)] else []

/-- Hub SRAM pages behind a range of a function's BAR2. -/
def rangePages (f : Nat) (r : Nat × Nat) (s : State) : List Nat :=
  ((b2Range f r.1 (min r.2 (2 ^ 27)) s).getD []).map fun x => x.1 / b2PageBytes

/-- A pending list of a function names a page: by its own bytes or by a command of it. -/
def listNames (f cls page : Nat) (s : State) (l : CmdList) : Bool :=
  let ranges := (l.off, 64 + 64 * l.ncmd) ::
    (List.range (l.ncmd - l.next)).flatMap fun i => namedRanges cls (listCommand f l (l.next + i) s)
  ranges.any fun r => (rangePages f r s).contains page

/-- Functions that act for an owner: PF0 for a page of its own, else the partition's VF and PF1. -/
def ownerFns (owner : Nat) (s : State) : List Nat :=
  if owner = 0xFF then [0] else (1 + owner) :: if s.host.linkBValid && s.host.linkBPart == owner then [129] else []

/-- A pending list of the page's owner names it. -/
def pagePending (page : Nat) (s : State) : Bool :=
  (ownerFns (b2Owner page s) s).any fun f => (List.range 5).any fun cls =>
    (hostQueue f cls s).lists.any (listNames f cls page s)

/-- One byte of a HUB_B2MAP write: refused for an assigned partition or over the page limit, or the page's new owner. -/
def mapByte (page owner : Nat) (s : State) : State :=
  let old := b2Owner page s
  let hit := [old, owner].find? fun p => decide (p < 128) && assigned p s
  if owner = old || (128 ≤ owner && owner < 0xFF) then s
  else match hit with
    | some p => logEvent clRegister 0x04 unitNode (leBytes 2 page ++ leBytes 1 owner ++ leBytes 1 p) s
    | none =>
      if owner < 128 && 128 ≤ (b2Pages owner s).length then
        logEvent clRegister 0x03 unitNode (leBytes 2 page ++ leBytes 1 owner) s
      else { s with host.b2map := put 0xFF s.host.b2map page owner }

/-- The bytes of a write, in ascending page order. Moving a page that a pending list names is an undefined condition (R358):
whether the page moves is then a free pick (notes/assumptions/94.md). -/
def mapBytes : Nat → List Byte → State → State
  | _, [], s => s
  | page, b :: t, s =>
    let s' := mapByte page b.toNat s
    if b2Owner page s' ≠ b2Owner page s ∧ pagePending page s then
      let k := pick 2 s
      mapBytes (page + 1) t (if k.1 = 0 then k.2 else mapByte page b.toNat k.2)
    else mapBytes (page + 1) t s'

/-! ### The commands -/

def execCqDoorbell (f cls : Nat) (value : BitVec 64) (stores : List HostStore) (s : State) : Host.Outcome State Fault Refusal :=
  .next (execCqDoorbellState f cls value stores s)
def execListCompletion (f cls : Nat) (s : State) : Host.Outcome State Fault Refusal := .next (execListCompletionState f cls s)
def execCqEnable (f cls : Nat) (enable : Bool) (s : State) : Host.Outcome State Fault Refusal :=
  .next (execCqEnableState f cls enable s)
def execFlr (f : Nat) (s : State) : Host.Outcome State Fault Refusal := .next (execFlrState f s)
def execPerst (s : State) : Host.Outcome State Fault Refusal := .next (execPerstState s)
/-- HUB_B2MAP: a write of register `index` of a width in bytes. -/
def execHubB2map (index width : Nat) (value : BitVec 64) (s : State) : Host.Outcome State Fault Refusal :=
  .next (mapBytes (8 * index) (leBytes width value.toNat) s)

end Sys2Proof.Machine
end

