-- ==== Sys2Proof/Machine/PlateChecks.lean ====
section
/-! DEFINITION. The checks of a plate (08_plates.md R224) with the line program rules of 09_strokes_and_passes.md R250, and the
checks of a delta. A check answers the directory index of the offending section, or 0x7FF, when it fails. -/

namespace Sys2Proof.Machine

/-- The determinism class of the identity block (17_management_and_registers.md). -/
abbrev nodeClass : Nat := 0x00C00001
/-- SECTION when a check concerns no single section. -/
abbrev noSection : Nat := 0x7FF

/-- The check fails, in no single section. -/
def failIf (b : Bool) : Option Nat := if b then some noSection else none

/-- The index of the section of a type and scope. -/
def sectIdx (ss : List Sect) (typ scope : Nat) : Nat :=
  ((ss.find? fun x => x.typ == typ && x.scope == scope).map (·.idx)).getD noSection

/-- The first section of a type that `bad` finds. -/
def badSect (ss : List Sect) (typ : Nat) (bad : Sect → Bool) : Option Nat :=
  (ss.find? fun x => x.typ == typ && bad x).map (·.idx)

/-! ### Form: checks 1 to 5 -/

def check1 (b : List Byte) (len : Nat) : Option Nat :=
  let h := plateHdr b
  failIf (h.magic != 0x54414C50 || h.format != 1 || h.length != len || h.length % 64 != 0 || 67108864 < h.length ||
    h.nsect = 0 || 1024 < h.nsect || h.length < 0x80 + 16 * h.nsect || h.reserved)

def check2 (b : List Byte) : Option Nat := failIf ((plateHdr b).detClass != nodeClass)

/-- A SCOPE the TYPE takes. -/
def scopeOk (x : Sect) : Bool :=
  if x.typ = tPart ∨ x.typ = tSlots ∨ x.typ = tTrees ∨ x.typ = tBest then x.scope < 128
  else if x.typ = tLines then x.scope < 17
  else x.scope == 0xFF

/-- The length the TYPE requires; in a delta a removed section has none. -/
def lengthOk (delta : Bool) (x : Sect) : Bool :=
  let n := x.len
  (delta && n == 0 && (x.typ == tPart || x.typ == tSlots || x.typ == tTrees || x.typ == tBest)) ||
  (match x.typ with
   | 0x01 => n == 8
   | 0x02 => n == 96
   | 0x03 => n == 192
   | 0x04 => n == 16384
   | 0x05 => n == 2097152
   | 0x06 => n == 16384
   | 0x07 => n % 32 == 0
   | 0x08 => n % 216 == 0
   | 0x09 => n == 12
   | 0x0A => 16 ≤ n && n == 16 + 16 * u x.bytes 4 4 && n ≤ 524288
   | 0x0B => n == 272
   | _ => false)

/-- A section is out of order, overlaps the one before it, or is wrong in itself. -/
def sectBad (delta : Bool) (planeLen first : Nat) (prev : Option Sect) (x : Sect) : Bool :=
  !(1 ≤ x.typ && x.typ ≤ 0x0B) || !scopeOk x || x.off % 64 != 0 || x.off < first || planeLen < x.off + x.len ||
    (match prev with
     | some p => !(p.typ < x.typ || (p.typ == x.typ && p.scope < x.scope)) || x.off < p.off + p.len
     | none => false) ||
    crc32c x.bytes != x.crc || !lengthOk delta x

def check3Go (delta : Bool) (planeLen first : Nat) : Option Sect → List Sect → Option Nat
  | _, [] => none
  | prev, x :: t => if sectBad delta planeLen first prev x then some x.idx else check3Go delta planeLen first (some x) t

def check3 (delta : Bool) (b : List Byte) : Option Nat :=
  let h := plateHdr b
  check3Go delta h.length (0x80 + 16 * h.nsect) none (sections b)

def check4 (ss : List Sect) : Option Nat :=
  let has := fun t sc => ss.any fun x => x.typ == t && x.scope == sc
  let parts := (ss.filter fun x => x.typ == tPart).map (·.scope)
  failIf (([tRoles, tAlloc, tTenants, tConns, tKeymap, tPorts].any fun t => !has t 0xFF) ||
    (parts.any fun p => !has tSlots p) || (List.range 17).any fun i => !has tLines i)

def check5 (ss : List Sect) : Option Nat :=
  (ss.find? fun x =>
    x.reserved ||
    (match x.typ with
     | 0x03 => partReserved x.bytes
     | 0x04 => (records 16 x.bytes).any tenantReserved
     | 0x05 => (records 32 x.bytes).any connReserved
     | 0x06 => (records 4 x.bytes).any keyReserved
     | 0x07 => (records 32 x.bytes).any slotReserved
     | 0x08 => (records 216 x.bytes).any treeReserved
     | 0x0A => linesReserved x.bytes
     | 0x0B => portsReserved x.bytes
     | _ => false)).map (·.idx)

/-! ### Resources: checks 6 to 12 -/

/-- A partition of the plate is used. -/
def partUsed (P : Plate) (p : Nat) : Bool := P.parts.any fun x => x.1 == p
def roleOf (P : Plate) (st : Nat) : Nat := P.roles.getD st 3

def rolesBad (P : Plate) : Bool :=
  (List.range 6).any (fun s => !(roleOf P s == 0 || roleOf P s == 1 || roleOf P s == 3)) || roleOf P 6 != 2 || roleOf P 7 != 2

def allocBad (P : Plate) : Bool :=
  (indexed 0 P.alloc).any fun x => x.2 < 128 && (!partUsed P x.2 || roleOf P (x.1 / 16) != 0)

/-- A stack that failed at start-up has a role other than OFFLINE (15_start_power_cooling.md R394). -/
def failedRole (failed : Nat) (P : Plate) : Bool := (List.range 6).any fun s => bit failed s && roleOf P s != 3

def check6 (ss : List Sect) (P : Plate) (failed : Nat) : Option Nat :=
  if rolesBad P || failedRole failed P then some (sectIdx ss tRoles 0xFF)
  else if allocBad P then some (sectIdx ss tAlloc 0xFF)
  else badSect ss tPart fun x => !(partRecord x.bytes).valid

/-- Two ranges (first, count) share something. -/
def rangesMeet (a b : Nat × Nat) : Bool := a.1 < b.1 + b.2 && b.1 < a.1 + a.2 && a.2 != 0 && b.2 != 0

/-- The first partition whose range meets that of an earlier one. -/
def meetGo (f : PartRec → Nat × Nat) : List (Nat × PartRec) → List (Nat × PartRec) → Option Nat
  | _, [] => none
  | seen, x :: t => if seen.any fun y => rangesMeet (f y.2) (f x.2) then some x.1 else meetGo f (x :: seen) t

def rangeClash (P : Plate) (f : PartRec → Nat × Nat) : Option Nat := meetGo f [] P.parts

/-- The section of the first partition that `bad` finds. -/
def badPart (ss : List Sect) (P : Plate) (bad : Nat → PartRec → Bool) : Option Nat :=
  (P.parts.find? fun x => bad x.1 x.2).map fun x => sectIdx ss tPart x.1

def check7 (ss : List Sect) (P : Plate) : Option Nat :=
  (badPart ss P fun _ r => 256 < r.dirBaseK + r.dirCountK).orElse fun _ =>
    (rangeClash P fun r => (r.dirBaseK, r.dirCountK)).map (sectIdx ss tPart)

def gsOf (r : PartRec) (s : Nat) : StackQuota := r.gs.getD s {}
def vaultOf (r : PartRec) (v : Nat) : Nat × Nat := r.vaults.getD v (0, 0)

/-- The slot and tile ranges of a record do not fit their stacks. -/
def slotsBad (P : Plate) (r : PartRec) : Bool :=
  (List.range 6).any (fun s =>
    let q := gsOf r s
    896 < q.slotFirstK + q.slotCountK || 896 < q.tileFirst + q.tileCount ||
      (roleOf P s == 3 && (q.slotCountK != 0 || q.tileCount != 0)) || q.poolHigh < q.poolLow ||
      q.slotCountK * 1024 < q.poolHigh) ||
  (List.range 2).any (fun v => 512 < (vaultOf r v).1 + (vaultOf r v).2) ||
  r.vaultHigh < r.vaultLow || ((vaultOf r 0).2 + (vaultOf r 1).2) * 1024 < r.vaultHigh

def check8 (ss : List Sect) (P : Plate) : Option Nat :=
  (badPart ss P fun _ r => slotsBad P r).orElse fun _ =>
    ((List.range 6).findSome? fun s =>
      ((rangeClash P fun r => ((gsOf r s).slotFirstK, (gsOf r s).slotCountK)).orElse fun _ =>
        rangeClash P fun r => ((gsOf r s).tileFirst, (gsOf r s).tileCount))).map (sectIdx ss tPart) |>.orElse fun _ =>
    ((List.range 2).findSome? fun v => rangeClash P fun r => vaultOf r v).map (sectIdx ss tPart)

def check9 (ss : List Sect) (P : Plate) (usable : Nat) : Option Nat :=
  (badPart ss P fun _ r =>
    usable * 2 ^ 30 / 78336 < (r.tierFirstK + r.tierCountK) * 4096 || r.tierHighK < r.tierLowK || r.tierCountK < r.tierHighK).orElse
    fun _ => (rangeClash P fun r => (r.tierFirstK, r.tierCountK)).map (sectIdx ss tPart)

def check10 (ss : List Sect) (P : Plate) : Option Nat :=
  let floors := fun p => ((P.tenants.filter fun t => t.2.used && t.2.owner == p).map fun t => t.2.floor).sum
  if (P.tenants.any fun t => t.2.used && !partUsed P t.2.owner) ||
      P.parts.any fun x => ((List.range 6).map fun s => (gsOf x.2 s).slotCountK * 1024).sum < floors x.1
  then some (sectIdx ss tTenants 0xFF) else none

def connBad (P : Plate) (c : Nat) (r : ConnRec) : Bool :=
  let t := look {} P.tenants r.tenant
  r.used && (!partUsed P r.part || !t.used || t.owner != r.part || r.ports == 0 || look (0, 0) P.keymap r.keySlot != (1, c) ||
    (!r.requester && r.peerConn != c))

def check11 (ss : List Sect) (P : Plate) : Option Nat :=
  if P.conns.any fun x => connBad P x.1 x.2 then some (sectIdx ss tConns 0xFF) else none

def check12 (ss : List Sect) (P : Plate) : Option Nat :=
  let flash := fun p => (P.keymap.filter fun x => x.2 == (2, p)).length
  if (P.parts.any fun x => flash x.1 != 1) ||
      P.keymap.any fun x => x.2.1 == 3 || (x.2.1 == 0 && x.2.2 != 0) || (x.2.1 == 1 && !(look {} P.conns x.2.2).used)
  then some (sectIdx ss tKeymap 0xFF) else none

/-! ### Slots, trees, ports: checks 13 to 16 and 18 -/

/-- The bit mask of a partition's gravers. -/
def allotMask (P : Plate) (p : Nat) : Nat := ((indexed 0 P.alloc).filter fun x => x.2 == p).map (fun x => 2 ^ x.1) |>.sum
def allotCount (P : Plate) (p : Nat) : Nat := (P.alloc.filter (· == p)).length

def slotBad (P : Plate) (r : SlotRec) : Bool :=
  let k := look {} P.conns r.conn
  !k.used || k.part != r.part || r.gravers &&& allotMask P r.part != r.gravers ||
    !(r.candG == 0xFF || r.kind != 0 || (r.candG < 96 && bit r.gravers r.candG)) || 3 ≤ r.kind || r.slot == 0xFFFF

def check13 (ss : List Sect) (P : Plate) : Option Nat :=
  match P.slots.find? fun r => slotBad P r || 1 < (P.slots.filter fun x => x.slot == r.slot).length with
  | some r => some (sectIdx ss tSlots r.part)
  | none => none

/-- Gravers of a mask, ascending. -/
def maskList (m : Nat) : List Nat := (List.range 96).filter fun g => bit m g

def kindBad (P : Plate) (r : SlotRec) : Bool :=
  if r.kind != 0 then
    r.lookups != 0 || r.candG != 0 || r.bucket != 0 || r.shareLimit != 0 || r.gravers != 0 || r.tree != 0
  else if allotCount P r.part ≤ 16 then
    r.shareLimit != 0 || 1 < (once ((maskList r.gravers).map (· / 16))).length
  else r.bucket != 0 || r.shareLimit = 0 || 16777216 < r.shareLimit

def check14 (ss : List Sect) (P : Plate) : Option Nat :=
  (P.slots.find? (kindBad P)).map fun r => sectIdx ss tSlots r.part

/-- Ranges (base, limit), with 0 for "up to L", abut in order of their bases. -/
def insertRange (a : Nat × Nat) : List (Nat × Nat) → List (Nat × Nat)
  | [] => [a]
  | b :: t => if a.1 < b.1 || (a.1 == b.1 && (a.2 ≤ b.2 && a.2 != 0)) then a :: b :: t else b :: insertRange a t

def abut : List (Nat × Nat) → Bool
  | [] => true
  | [a] => a.2 == 0 || a.1 ≤ a.2
  | a :: b :: t => a.2 != 0 && a.1 ≤ a.2 && a.2 == b.1 && abut (b :: t)

def treeBad (P : Plate) (t : TreeLine) (nchild : Nat) : Bool :=
  let node := fun c => (look {} P.conns c).used && !(look {} P.conns c).requester
  16 < nchild || 4 < t.level || (t.level == 4 && nchild != 0) ||
    !abut (((t.ownBase, t.ownLimit) :: t.children.map fun c => (c.base, c.limit)).foldr insertRange []) ||
    t.children.any fun c => !node c.primary || (c.backup != 0xFFFF && !node c.backup)

def check15 (ss : List Sect) (P : Plate) : Option Nat :=
  (badSect ss tTrees fun x => (records 216 x.bytes).any fun b => treeBad P (treeRecord x.scope b) (treeCount b)).orElse fun _ =>
    (P.slots.find? fun r => r.kind == 0 && r.tree != 0xFFFF && !P.trees.any fun t => t.part == r.part && t.index == r.tree).map
      fun r => sectIdx ss tSlots r.part

def check16 (ss : List Sect) (P : Plate) : Option Nat :=
  (P.bestEffort.find? fun x => x.2 &&& allotMask P x.1 != x.2).map fun x => sectIdx ss tBest x.1

def check18 (ss : List Sect) (P : Plate) : Option Nat :=
  if (indexed 0 P.ports).any fun x => 5 < x.2.mode || bit x.2.failover x.1 then some (sectIdx ss tPorts 0xFF) else none

/-! ### Line programs: check 17 (09 R250) -/

/-- The program of an island of a plate. -/
def progIn (P : Plate) (isl : Nat) : LineProg := look {} P.lines isl
/-- Strokes of the plate's cycle. -/
def cycleIn (P : Plate) : Nat := cycleLen (progIn P 0)
/-- An island's lines of an operation. -/
def linesIn (P : Plate) (isl op : Nat) : List Line := (progIn P isl).lines.filter fun l => l.op == op

/-- Two stroke intervals (start, length) of a cycle share a stroke. -/
def spansMeet (c : Nat) (a b : Nat × Nat) : Bool :=
  a.2 != 0 && b.2 != 0 && ((b.1 % c + c - a.1 % c) % c < a.2 || (a.1 % c + c - b.1 % c) % c < b.2)

/-- Two claims of one resource (key, start, length) meet, or one meets itself around the cycle. -/
def claimsClash (c : Nat) : List (Nat × Nat × Nat) → Bool
  | [] => false
  | a :: t => c < a.2.2 || (t.any fun b => a.1 == b.1 && spansMeet c a.2 b.2) || claimsClash c t

def Line.span (l : Line) : Nat × Nat := (l.base, l.lenM1 + 1)

/-- Rule 1: one line is as its operation requires. -/
def lineOk (isl : Nat) (c : Nat) (l : Line) : Bool :=
  let one := l.lenM1 == 0
  let none_ := l.arg0 == 0 && l.arg1 == 0
  let body :=
    if isl < 6 then
      match l.op with
      | 1 => l.arg1 < 16
      | 2 => l.arg0 < 2 ^ 18 && field l.arg0 16 2 ≤ 2 && l.arg1 < 2 ^ 32 && one
      | 3 => none_ && one
      | 4 => none_
      | _ => false
    else if isl = islHub then
      match l.op with
      | 1 => l.arg0 < 2 ^ 28 && l.arg1 < 2 ^ 21 && one
      | 2 => l.arg0 < 2 ^ 20 && l.arg1 == 0 && field l.arg0 18 2 != 0 && field l.arg0 0 9 + field l.arg0 9 9 ≤ 500
      | 3 => l.arg0 < 2 ^ 7 && field l.arg0 3 1 == 0 && l.linkUse ≤ 5 && l.arg1 == 0
      | 4 => (l.arg0 == 6 || l.arg0 == 7) && l.arg1 == 0 && one
      | 5 => l.arg1 == 0 && ((field l.arg0 0 2 == 1 && l.arg0 < 32) || l.arg0 == 2)
      | _ => false
    else if isl = islCollator then l.op == 1 && l.arg0 < 2 ^ 16 && l.arg1 < 2 ^ 16 && one
    else if isl < islTime then
      match l.op with
      | 1 => l.arg0 < 2 ^ 19 && l.arg1 < 2 ^ 15
      | 2 => l.arg0 < 2 ^ 16 && l.arg1 == 0 && one
      | 3 => none_
      | _ => false
    else l.op == 1 && none_
  body && l.base < c && l.lenM1 < c

/-- Lines ascend in PASS, STROKE and OP. -/
def sortedLines : List Line → Bool
  | a :: b :: t => (a.base < b.base || (a.base == b.base && a.op ≤ b.op)) && sortedLines (b :: t)
  | _ => true

def rule1 (ss : List Sect) (P : Plate) : Option Nat :=
  (List.range 17).find? fun i =>
    let p := progIn P i
    6 < p.periodLog2 || p.periodLog2 != (progIn P 0).periodLog2 || !p.lines.all (lineOk i (cycleIn P)) || !sortedLines p.lines ||
      (ss.any fun x => x.typ == tLines && x.scope == i && u x.bytes 1 1 != i)

/-- Strokes that a WINDOW holds a graver: windows, then chain. -/
def windowClaimsOf (P : Plate) (isl : Nat) : List (Nat × Nat × Nat) :=
  (linesIn P isl opWindow).flatMap fun l =>
    ((List.range 16).filter fun e => bit l.gmask e).map fun e => (e, l.base, l.lenM1 + 1 + l.chain)

/-- Directory cycles claimed in strokes: (first cycle, cycles, start, length). -/
def lookupSpan (P : Plate) (l : Line) : Option (Nat × Nat × Nat × Nat) :=
  (P.slots.find? fun r => r.slot == l.slot && r.kind == 0).map fun r =>
    let n := (maskList r.gravers).length
    let runs := if allotCount P r.part ≤ 16 then ceilDiv (512 * 2 ^ r.bucket) 8192 + 1 else ceilDiv (n * r.shareLimit) 8192 + 1
    (l.firstCycle, r.lookups, l.base, ceilDiv runs r.lookups)

def dirClaims (P : Plate) : List (Nat × Nat × Nat × Nat) :=
  (linesIn P islHub opDircyc).map (fun l => (field l.arg0 0 9, field l.arg0 9 9, l.base, l.lenM1 + 1)) ++
    (linesIn P islHub opSlot).filterMap (lookupSpan P)

/-- Two claims of directory cycles meet, or one meets itself around the cycle. -/
def dirClash (c : Nat) : List (Nat × Nat × Nat × Nat) → Bool
  | [] => false
  | a :: t => c < a.2.2.2 || (t.any fun b => rangesMeet (a.1, a.2.1) (b.1, b.2.1) && spansMeet c a.2.2 b.2.2) || dirClash c t

def rule2 (P : Plate) : Option Nat :=
  let c := cycleIn P
  ((List.range 6).find? fun i =>
    let banks := (linesIn P i opBanks).flatMap fun l => ((List.range 16).filter fun e => bit l.arg0 e).flatMap fun e =>
      ((List.range 32).filter fun b => bit l.arg1 b).map fun b => (e * 32 + b, l.base, 1)
    let paused := (linesIn P i opRefresh ++ linesIn P i opRetrain).map Line.span
    claimsClash c (windowClaimsOf P i) || claimsClash c banks ||
      (linesIn P i opWindow).any fun l => paused.any fun x => spansMeet c l.span x).orElse fun _ =>
  (if claimsClash c ((linesIn P islHub opLink).map fun l => (l.linkStack, l.base, l.lenM1 + 1)) || dirClash c (dirClaims P)
   then some islHub else none).orElse fun _ =>
  ((List.range 8).map (islPort + ·)).find? fun i => claimsClash c ((linesIn P i opAdapt).map fun l => (0, l.base, l.lenM1 + 1))

/-- The refresh strokes of a stack. -/
def refreshIn (P : Plate) (st : Nat) : List Nat :=
  if st < 6 then (linesIn P st opRefresh).map Line.base
  else ((linesIn P islHub opVaultRefresh).filter fun l => l.arg0 == st).map Line.base

/-- Links of a stack. -/
def linksIn (P : Plate) (st : Nat) : List (Nat × Nat) :=
  ((linesIn P islHub opLink).filter fun l => l.linkStack == st).map Line.span

def rule3 (P : Plate) : Option Nat :=
  let c := cycleIn P
  ((List.range 8).find? fun st =>
    let rs := refreshIn P st
    rs.isEmpty || (rs.any fun r => !rs.any fun q => (q + c - r - 1) % c < 16) ||
      rs.any fun r => (linksIn P st).any fun x => spansMeet c x (r, 1)).map fun st => if st < 6 then st else islHub

def rule4 (P : Plate) : Option Nat :=
  let c := cycleIn P
  ((List.range 8).find? fun st =>
    let ts := if st < 6 then (linesIn P st opRetrain).map Line.span
      else ((linesIn P islHub opMaint).filter fun l => field l.arg0 0 2 == 1 && field l.arg0 2 3 == st).map Line.span
    ts.isEmpty || ts.any fun x => (linksIn P st).any fun y => spansMeet c x y).map fun st => if st < 6 then st else islHub

/-- The record of a slot number. -/
def slotIn (P : Plate) (slot : Nat) : Option SlotRec := P.slots.find? fun r => r.slot == slot
def occurrences (P : Plate) (slot : Nat) : List Line := (linesIn P islHub opSlot).filter fun l => l.slot == slot
def windowsOf (P : Plate) (slot : Nat) : List (Nat × Line) :=
  (List.range 6).flatMap fun i => ((linesIn P i opWindow).filter fun l => l.slot == slot).map fun l => (i, l)
def closesOf (P : Plate) (slot : Nat) : List Line := (linesIn P islCollator opClose).filter fun l => field l.arg0 0 16 == slot

def rule5 (P : Plate) : Option Nat :=
  let ls := linesIn P islHub opSlot
  if (ls.any fun l => (slotIn P l.slot).isNone) ||
      (ls.any fun l => 1 < (ls.filter fun x => x.slot == l.slot && x.pass == l.pass).length) ||
      P.slots.any fun r =>
        if r.kind = 0 then (occurrences P r.slot).isEmpty
        else ((occurrences P r.slot).any fun l => l.openAfter != 0 || l.closeAfter != 0) || !(windowsOf P r.slot).isEmpty ||
          !(closesOf P r.slot).isEmpty
  then some islHub else none

/-- Attention occurrences with their slots. -/
def attnOccs (P : Plate) : List (SlotRec × Line) :=
  (linesIn P islHub opSlot).filterMap fun l =>
    match slotIn P l.slot with
    | some r => if r.kind = 0 then some (r, l) else none
    | none => none

/-- N max of R250. -/
def maxRuns (P : Plate) (r : SlotRec) : Nat :=
  if allotCount P r.part ≤ 16 then ceilDiv (512 * 2 ^ r.bucket) 8192 + 1
  else ceilDiv ((maskList r.gravers).length * r.shareLimit) 8192 + 1

def rule6 (P : Plate) : Option Nat :=
  if (attnOccs P).any fun x =>
      x.1.lookups = 0 || x.2.openAfter < ceilDiv (maxRuns P x.1) x.1.lookups + ceilDiv (maxRuns P x.1) 256 ||
        x.2.firstCycle < 4 || 484 < x.2.firstCycle + x.1.lookups - 1
  then some islHub else none

/-- The BANKS lines that name a bank of a graver, with their ages at a stroke, youngest first. -/
def bankAges (c e b w : Nat) (ls : List Line) : List (Nat × Nat) :=
  let own := ls.filter fun l => bit l.arg0 e && bit l.arg1 b
  (sortNat (once (own.map fun l => l.age c w))).filterMap fun d =>
    (own.find? fun l => l.age c w == d).map fun l => (d, field l.arg0 16 2)

/-- Following the lines back: the bank stands on at the stroke. A bank that a line turns on from off, as the first line of a
program does, is ready two strokes later (04_graver_engines.md R89, R236). -/
def bankOnGo : List (Nat × Nat) → Bool
  | [] => false
  | (d, st) :: t =>
    st == 2 &&
      match t with
      | [] => 2 ≤ d
      | (_, before) :: _ => 2 ≤ d || (before == 1 && 1 ≤ d) || (before == 2 && bankOnGo t)

def rule7 (P : Plate) : Option Nat :=
  let c := cycleIn P
  (List.range 6).find? fun i =>
    ((attnOccs P).any fun x =>
      let w := (x.2.base + x.2.openAfter) % c
      let own := (windowsOf P x.1.slot).filter fun y => y.2.base % c == w
      (maskList x.1.gravers).any fun g =>
        g / 16 == i && (own.filter fun y => y.1 == i && bit y.2.gmask (g % 16)).length != 1) ||
    (linesIn P i opWindow).any fun l =>
      ((occurrences P l.slot).all fun o => (o.base + o.openAfter) % c != l.base % c) ||
      match slotIn P l.slot with
      | none => true
      | some r => (List.range 16).any fun e => bit l.gmask e &&
          (!bit r.gravers (16 * i + e) ||
            (List.range 32).any fun b => !bankOnGo (bankAges c e b l.base (linesIn P i opBanks)))

def rule8 (P : Plate) : Option Nat :=
  let c := cycleIn P
  if (attnOccs P).any fun x =>
      let l := x.2
      ((windowsOf P x.1.slot).any fun y => y.2.base % c == (l.base + l.openAfter) % c &&
        l.closeAfter < l.openAfter + y.2.lenM1 + 1 + y.2.chain) ||
      ((closesOf P x.1.slot).all fun y => y.base % c != (l.base + l.closeAfter) % c) ||
      (match P.trees.find? fun t => x.1.tree != 0xFFFF && t.part == x.1.part && t.index == x.1.tree with
       | some t => t.close != l.closeAfter
       | none => false)
  then some islHub
  else if (linesIn P islCollator opClose).any fun y =>
      (occurrences P (field y.arg0 0 16)).all fun l => (l.base + l.closeAfter) % c != y.base % c
  then some islCollator else none

/-- Units a CLOSE line's occurrences hold in a stroke: from admission to close plus GRACE. -/
def heldUnits (P : Plate) (c st : Nat) (y : Line) : Nat :=
  ((occurrences P (field y.arg0 0 16)).map fun l =>
    let grace := match slotIn P l.slot with
      | some r => ((P.trees.find? fun t => r.tree != 0xFFFF && t.part == r.part && t.index == r.tree).map (·.grace)).getD 0
      | none => 0
    let len := l.closeAfter + grace + 1
    let age := (st + c - l.base % c) % c
    if (l.base + l.closeAfter) % c = y.base % c ∧ age < len then (1 + (len - 1 - age) / c) * field y.arg1 0 16 else 0).sum

def rule9 (P : Plate) : Option Nat :=
  let c := cycleIn P
  if (List.range c).any fun st => collatorUnits < ((linesIn P islCollator opClose).map (heldUnits P c st)).sum
  then some islCollator else none

/-- Strokes of a cycle pass that a line claims. -/
def strokesIn (c pass : Nat) (l : Line) : Nat :=
  ((List.range passStrokes).filter fun st => l.claims c (pass * passStrokes + st) 0).length

def rule10 (P : Plate) : Option Nat :=
  let c := cycleIn P
  let ls := linesIn P islHub opDircyc
  let need := (P.parts.filter fun x => 0 < x.2.dirCountK).length
  let sumOf := fun (use pass : Nat) (f : Nat → Nat) =>
    ((ls.filter fun l => field l.arg0 18 2 == use).map fun l => strokesIn c pass l * f (field l.arg0 9 9)).sum
  if (List.range (c / passStrokes)).any fun p =>
      sumOf 2 p (· / 9) < need || sumOf 3 p id < 4096 ||
        !ls.any fun l => field l.arg0 18 2 == 1 && 10 ≤ field l.arg0 9 9 && 0 < strokesIn c p l
  then some islHub else none

def rule11 (P : Plate) : Option Nat :=
  let c := cycleIn P
  ((List.range 8).map (islPort + ·)).find? fun i =>
    let sends := linesIn P i opSend
    let named := sends ++ linesIn P i opBeat
    let adapts := linesIn P i opAdapt
    ((List.range c).any fun st => 384 < ((sends.filter fun l => l.claims c st 0).map fun l => field l.arg1 0 15).sum) ||
      (named.any fun l =>
        let k := look {} P.conns (field l.arg0 0 16)
        !k.used || !bit k.ports (i - islPort) || adapts.any fun a => spansMeet c l.span a.span) ||
      (adapts.map fun l => l.lenM1 + 1).sum != 1

/-- The connection that carries a slot's answer. -/
def answerConn (P : Plate) (r : SlotRec) : Nat :=
  match P.trees.find? fun t => r.tree != 0xFFFF && t.part == r.part && t.index == r.tree with
  | some t => if t.parentConn = 0xFFFF then r.conn else t.parentConn
  | none => r.conn

def rule12 (P : Plate) : Option Nat :=
  let c := cycleIn P
  if (attnOccs P).any fun x =>
      let close := (x.2.base + x.2.closeAfter) % c
      !((List.range 8).any fun p => (linesIn P (islPort + p) opSend).any fun l =>
        let d := (l.base + c - close) % c
        field l.arg0 0 16 == answerConn P x.1 && field l.arg0 16 3 == 0 && (if d = 0 then c else d) ≤ 64)
  then some islHub else none

def rule13 (P : Plate) : Option Nat :=
  let c := cycleIn P
  let beats := (List.range 8).flatMap fun p => (linesIn P (islPort + p) opBeat).map fun l => (islPort + p, l)
  (beats.find? fun x =>
    let same := beats.filter fun y => field y.2.arg0 0 16 == field x.2.arg0 0 16
    let gaps := (once (same.map fun y => y.2.base)).map fun b => let d := (b + c - x.2.base) % c; if d = 0 then c else d
    !gaps.any (· ≤ 1024)).map (·.1)

def check17 (ss : List Sect) (P : Plate) : Option Nat :=
  ((rule1 ss P).orElse fun _ => (rule2 P).orElse fun _ => (rule3 P).orElse fun _ => (rule4 P).orElse fun _ =>
    (rule5 P).orElse fun _ => (rule6 P).orElse fun _ => (rule7 P).orElse fun _ => (rule8 P).orElse fun _ =>
    (rule9 P).orElse fun _ => (rule10 P).orElse fun _ => (rule11 P).orElse fun _ => (rule12 P).orElse fun _ => rule13 P).map
    fun i => sectIdx ss tLines i

/-! ### Deltas: checks 19 to 21 -/

def check19 (delta : List Byte) (s : State) : Option Nat :=
  let h := plateHdr delta
  failIf (!isDelta delta || h.base != leBytes 48 s.plt.digest.toNat || h.epoch != (plate s).epoch ||
    h.detClass != (plate s).detClass || h.deltaSeq != (plate s).deltaSeq + 1 || (sections delta).any fun x => x.typ == tPorts)

/-- Strokes of an old line that lie at or behind a pass boundary which its occurrence's admission precedes: offsets from the
boundary. `adm` is the admission stroke's and `start` the line's first stroke's distance from admission. -/
def carried20 (old : Plate) (o : Line) (start len n : Nat) : List Nat :=
  let c := cycleIn old
  -- the boundary opens pass n of the old cycle; the admission stroke lies before it
  let before := (n * passStrokes % c + c - 1 - o.base % c) % c + 1
  ((List.range len).map (start + ·)).filterMap fun d => if before ≤ d then some (d - before) else none

/-- The new lines claim one of an island's gravers, or pause its stack, in a stroke behind the boundary. -/
def takenBy (new : Plate) (n isl gmask : Nat) (chain : Bool) (t : Nat) : Bool :=
  let c := cycleIn new
  let st := n * passStrokes % c + t
  (linesIn new isl opWindow).any (fun l => l.gmask &&& gmask != 0 && l.claims c st l.chain) ||
    (!chain && (linesIn new isl opRefresh ++ linesIn new isl opRetrain).any fun l => l.claims c st 0)

def carryClash (old new : Plate) (n : Nat) (o : Line) : Bool :=
  let c := cycleIn old
  let wins := (windowsOf old o.slot).filter fun y => y.2.base % c == (o.base + o.openAfter) % c
  let work := wins.any fun y =>
    (carried20 old o o.openAfter (y.2.lenM1 + 1) n).any (takenBy new n y.1 y.2.gmask false) ||
      (carried20 old o (o.openAfter + y.2.lenM1 + 1) y.2.chain n).any (takenBy new n y.1 y.2.gmask true)
  let looks := match lookupSpan old o with
    | none => false
    | some x => (carried20 old o 0 x.2.2.2 n).any fun t => (dirClaims new).any fun y =>
        rangesMeet (x.1, x.2.1) (y.1, y.2.1) && spansMeet (cycleIn new) (n * passStrokes + t, 1) y.2.2
  work || looks

/-- GRACE of a slot's tree line. -/
def graceOf (P : Plate) (r : SlotRec) : Nat :=
  ((P.trees.find? fun y => r.tree != 0xFFFF && y.part == r.part && y.index == r.tree).map (·.grace)).getD 0

/-- Units that the carried closes of the old plate hold `t` strokes behind the boundary, each from its admission to its close
stroke plus GRACE, and those of the occurrences that the new plate has admitted since. -/
def carriedUnits (old : Plate) (n t : Nat) : Nat :=
  let c := cycleIn old
  ((attnOccs old).map fun x =>
    let grace := graceOf old x.1
    let units := (((closesOf old x.1.slot).find? fun y => y.base % c == (x.2.base + x.2.closeAfter) % c).map
      fun y => field y.arg1 0 16).getD 0
    if (carried20 old x.2 0 (x.2.closeAfter + grace + 1) n).contains t then units else 0).sum

def newUnits (new : Plate) (n t : Nat) : Nat :=
  let c := cycleIn new
  ((attnOccs new).map fun x =>
    let age := (n * passStrokes % c + t + c - x.2.base % c) % c
    let units := (((closesOf new x.1.slot).find? fun y => y.base % c == (x.2.base + x.2.closeAfter) % c).map
      fun y => field y.arg1 0 16).getD 0
    if age ≤ min t (x.2.closeAfter + graceOf new x.1) then units else 0).sum

/-- The SEND line of an attention occurrence: the first class-0 line of its answer connection behind its close stroke (R252),
with its port and its first stroke's distance from admission. -/
def answerSend (P : Plate) (r : SlotRec) (o : Line) : Option (Nat × Line × Nat) :=
  let c := cycleIn P
  let close := (o.base + o.closeAfter) % c
  let all := (List.range 8).flatMap fun p => (linesIn P (islPort + p) opSend).filterMap fun l =>
    let d := (l.base + c - close) % c
    if field l.arg0 0 16 == answerConn P r && field l.arg0 16 3 == 0 then some (p, l, o.closeAfter + if d = 0 then c else d)
    else none
  all.find? fun x => all.all fun y => x.2.2 ≤ y.2.2

/-- Bytes, in units of 64, that carried answers of the old plate reserve on a port, `t` strokes behind the boundary. -/
def carriedBytes (old : Plate) (n p t : Nat) : Nat :=
  ((attnOccs old).map fun x =>
    match answerSend old x.1 x.2 with
    | some y => if y.1 == p && (carried20 old x.2 y.2.2 (y.2.1.lenM1 + 1) n).contains t then field y.2.1.arg1 0 15 else 0
    | none => 0).sum

/-- Carried closes and answers do not find collator buffer or egress free. -/
def carryFull (old new : Plate) (n : Nat) : Bool :=
  let c := cycleIn new
  let reach := ((attnOccs old).map fun x =>
    let send := match answerSend old x.1 x.2 with
      | some y => y.2.2 + y.2.1.lenM1
      | none => 0
    max (x.2.closeAfter + 64) send).foldl max 0
  (List.range reach).any fun t =>
    let st := n * passStrokes % c + t
    (0 < carriedUnits old n t && collatorUnits < carriedUnits old n t + newUnits new n t) ||
      (List.range 8).any fun p =>
        let b := carriedBytes old n p t
        0 < b && ((linesIn new (islPort + p) opAdapt).any (fun l => l.claims c st 0) ||
          384 < b + (((linesIn new (islPort + p) opSend).filter fun l => l.claims c st 0).map fun l => field l.arg1 0 15).sum)

def check20 (old new : Plate) : Option Nat :=
  let passes := max (cycleIn old) (cycleIn new) / passStrokes
  failIf ((List.range passes).any fun n => (linesIn old islHub opSlot).any (carryClash old new n) || carryFull old new n)

/-- The units of a range that stay within the new range: (first, count) in the unit of `x`. -/
def within (r : Nat × Nat) (x : Nat) : Bool := r.1 ≤ x && x < r.1 + r.2

def slotWithin (r : PartRec) (slot : Nat) : Bool :=
  if slot < 5505024 then
    let q := gsOf r (slot / 917504)
    within (slot / 917504 * 917504 + q.slotFirstK * 1024, q.slotCountK * 1024) slot
  else
    let v := (slot - 5505024) / 524288
    within (5505024 + v * 524288 + (vaultOf r v).1 * 1024, (vaultOf r v).2 * 1024) slot

def tileWithin (r : PartRec) (key : Nat) : Bool :=
  let q := gsOf r (key / 57344)
  within (key / 57344 * 57344 + q.tileFirst * 64, q.tileCount * 64) key

/-- A partition holds something its new record leaves out. -/
def leavesOut (s : State) (p : Nat) (old new : PartRec) : Bool :=
  (s.res.slots.any fun x => x.2.holding && slotWithin old x.1 && !slotWithin new x.1) ||
    (s.res.tiles.any fun t => t.2.part == p && !tileWithin new t.1) ||
    (s.fsh.written.any fun t => look 0 s.fsh.owner t == p && within (old.tierFirstK * 4096, old.tierCountK * 4096) t &&
      !within (new.tierFirstK * 4096, new.tierCountK * 4096) t) ||
    s.dir.entries.any fun x => (x.2.v || x.2.held) && within (old.dirBaseK * 1024, old.dirCountK * 1024) x.1 &&
      !within (new.dirBaseK * 1024, new.dirCountK * 1024) x.1

def check21 (s : State) (ss : List Sect) (new : Plate) : Option Nat :=
  (((plate s).parts.find? fun x => leavesOut s x.1 x.2 (look {} new.parts x.1)).map fun x => sectIdx ss tPart x.1).orElse fun _ =>
    if s.res.ctxs.any fun x => bit x.2.toNat 63 &&
        ((look {} new.tenants (field x.2.toNat 0 10)).owner != (tenantRec (field x.2.toNat 0 10) s).owner ||
          (look {} new.tenants (field x.2.toNat 0 10)).used != (tenantRec (field x.2.toNat 0 10) s).used)
    then some (sectIdx ss tTenants 0xFF) else none

/-! ### All checks -/

/-- The number of the first check that fails, and its section. -/
def orCheck (n : Nat) (r : Option Nat) (next : Unit → Option (Nat × Nat)) : Option (Nat × Nat) :=
  match r with
  | some x => some (n, x)
  | none => next ()

/-- Checks 1 to 18 of a plate's bytes, with the tier's usable capacity and the stacks that failed at start-up. -/
def plateFails (b : List Byte) (len usable failed : Nat) : Option (Nat × Nat) :=
  orCheck 1 (check1 b len) fun _ => orCheck 2 (check2 b) fun _ => orCheck 3 (check3 false b) fun _ =>
    let ss := sections b
    orCheck 4 (check4 ss) fun _ => orCheck 5 (check5 ss) fun _ =>
      let P := decodePlate b
      orCheck 6 (check6 ss P failed) fun _ => orCheck 7 (check7 ss P) fun _ => orCheck 8 (check8 ss P) fun _ =>
      orCheck 9 (check9 ss P usable) fun _ => orCheck 10 (check10 ss P) fun _ => orCheck 11 (check11 ss P) fun _ =>
      orCheck 12 (check12 ss P) fun _ => orCheck 13 (check13 ss P) fun _ => orCheck 14 (check14 ss P) fun _ =>
      orCheck 15 (check15 ss P) fun _ => orCheck 16 (check16 ss P) fun _ => orCheck 17 (check17 ss P) fun _ =>
      orCheck 18 (check18 ss P) fun _ => none

/-- The checks of a delta: of its own form first, then of the resulting plate, then checks 19 to 21. -/
def deltaFails (delta result : List Byte) (len : Nat) (s : State) : Option (Nat × Nat) :=
  orCheck 1 (check1 delta len) fun _ => orCheck 3 (check3 true delta) fun _ =>
    match plateFails result result.length s.fsh.usableGib s.start.failedStacks with
    | some x => some x
    | none =>
      let P := decodePlate result
      orCheck 19 (check19 delta s) fun _ => orCheck 20 (check20 (plate s) P) fun _ =>
        orCheck 21 (check21 s (sections result) P) fun _ => none

end Sys2Proof.Machine
end

