-- ==== Sys2Proof/Machine/PlateCmds.lean ====
section
/-! DEFINITION. Loading and sealing a plate, and deltas (08_plates.md R226 to R238; 14_trust_and_isolation.md R363, R370, R378,
R381). -/

namespace Sys2Proof.Machine

/-! ### Refusals (R224, R238) -/

/-- A LOAD or ARM is refused with ST_MALFORMED. -/
def plateRefused (reason sect : Nat) (s : State) : State :=
  tally cLoadRefused { s with plt.code := stMalformed, plt.reason := reason, plt.sect := sect }

/-- A LOAD is refused: STATE goes back to what stands without it, and a plate that waited for its SEAL is discarded. A loaded
or armed delta stays. -/
def loadRefused (delta : Bool) (reason sect : Nat) (s : State) : State :=
  let s := plateRefused reason sect s
  { s with
    plt.st := s.plt.before
    plt.loading := none
    plt.shadow := if s.plt.phase = .idle then none else s.plt.shadow
    plt.dcode := if delta then stMalformed else s.plt.dcode }

/-! ### LOAD (R226, R227, R229, R230) -/

/-- The bytes that PLT_LOAD_ADDR and PLT_LOAD_LEN name. -/
def loadBytes (s : State) : List Byte := memRead s.mem.bar2 (s.plt.loadAddr / 64 * 64) s.plt.loadLen

/-- The STATE that a refused LOAD leaves (R224). -/
def restState (s : State) : PltSt :=
  match s.plt.st with
  | .none | .sealed | .lost => s.plt.st
  | .loading | .valid => s.plt.before

/-- PLT_LOAD: LOAD is written, after stores of the host to the buffer. -/
def execPltLoadState (stores : List HostStore) (s : State) : State :=
  let s := stores.foldl hostStore s
  if s.plt.st = .loading then s
  else
    let b := loadBytes s
    let s := { s with plt.before := restState s }
    if isDelta b then
      (if s.plt.st ≠ .sealed ∨ s.pwr.hold ∨ s.plt.phase ≠ .idle then loadRefused true 23 noSection s
        else { s with plt.loading := some b, plt.st := .loading })
    else if s.plt.st = .sealed ∧ !s.pwr.hold then loadRefused false 22 noSection s
    else
      let vfs := s.tru.tdis.map (·.1)
      vfs.foldl (tdiError true) { s with plt.loading := some b, plt.st := .loading, plt.phase := .idle }

/-- The plate would use a scrub-pending party again, or give its tenants to another partition (14_trust_and_isolation.md
R381). -/
def revives (new : Plate) (s : State) (x : Scrub) : Bool :=
  let was := fun t => tenantRec t s
  let now := fun t : Nat => (look {} new.tenants t : TenantRec)
  (!x.tenantScope && (new.parts.any fun p => p.1 == x.id) && !(plate s).parts.any fun p => p.1 == x.id) ||
    (x.tenants.any fun t => (now t).used && ((x.tenantScope && !(was t).used) || (now t).owner != x.part))

/-- LOAD_COMPLETE: the copy, its digest and its checks are done. -/
def execLoadCompleteState (s : State) : State :=
  match if s.plt.st = .loading then s.plt.loading else none with
  | none => s
  | some b =>
    let delta := isDelta b
    let result := if delta then applyDelta ((s.plt.active.map fun a => readStore activeAddr a s).getD []) b else b
    let fails := if delta then deltaFails b result s.plt.loadLen s
      else plateFails b s.plt.loadLen s.fsh.usableGib s.start.failedStacks
    match fails with
    | some x => loadRefused delta x.1 x.2 s
    | none =>
      let new := plateStore result
      if s.tru.scrubs.any (revives new.plate s) then loadRefused delta 25 noSection s
      else
        let s := { writeStore shadowAddr result s with
                          plt.loading := none, plt.shadow := some new, plt.shadowDigest := digestOf result
                          plt.code := stOk, plt.reason := 0, plt.sect := 0 }
        if delta then { s with plt.st := .sealed, plt.phase := .loaded } else { s with plt.st := .valid }

/-! ### What a plate that takes effect does -/

/-- Flash keys of the slots that `pick` chooses are installed (14 R363). -/
def installFlash (new : Plate) (choose : Nat → Nat → Bool) (s : State) : State :=
  (new.keymap.filter fun x => x.2.1 == 2 && choose x.1 x.2.2).foldl (fun s x =>
    installPos x.1 0 (flashKey new.epoch x.2.2) s) s

/-- Key slots whose KEYMAP word differs between two plates. -/
def changedSlots (old new : Plate) : List Nat :=
  (once (old.keymap.map (·.1) ++ new.keymap.map (·.1))).filter fun k =>
    look (0, 0) old.keymap k != look (0, 0) new.keymap k

/-- Slots whose KEYMAP word changed are erased, but for those that keep being a flash slot: their key is rewritten. -/
def changeKeys (old new : Plate) (s : State) : State :=
  let ks := changedSlots old new
  let s := (ks.filter fun k => (look (0, 0) new.keymap k).1 != 2).foldl (fun s k => erasePos k 1 (erasePos k 0 s)) s
  installFlash new (fun k _ => ks.contains k) s

/-- The tier's copies are lost with their keys: TCOPY clears in every tier word, every STATE 2 page is swapped to STATE 3, and every
TLPN is trimmed (14 R363). -/
def loseTier (s : State) : State :=
  let ext := fun x : Extent => { x with tiers := mapStore 0 (fun _ => 0) x.tiers }
  let s := { s with dir.extents := mapStore {} ext s.dir.extents }
  let es := ((dirView s).filter fun x => x.2.v).map (·.1)
  freeGone <| unplace (fun _ => true) <| es.foldl (fun s i => markPages (fun w => wordState w == 2) 3 i s) s

/-- Connections of either plate. -/
def plateConns (old new : Plate) : List Nat := once (old.conns.map (·.1) ++ new.conns.map (·.1))

/-- A watched connection's heartbeat is awaited from now on (09 R258). -/
def startWatch (s : State) (c : Nat) : State :=
  if watched c s then setAux c { aux c s with lastBeat := s.time.elapsed } s else s

/-- The node gates a graver of its own accord (R399). -/
def nodeGates (g : Nat) (s : State) : Bool :=
  s.pwr.hold || (sealed s && (decide (128 ≤ (plate s).alloc.getD g 0x80) || roleOf (plate s) (g / 16) != 0))

/-- A software request that has taken effect gates it. -/
def requestGates (g : Nat) (s : State) : Bool := bit s.pwr.ggate.toNat g && !bit s.pwr.ggatePend.toNat g

def ungateGraver (g : Nat) (s : State) : State :=
  let gv := graver g s
  if gv.st = .gated then setGraver g { gv with st := .idle, renewed := s.time.elapsed } s else s

/-- The gravers take the partitions that the running plate allots them; one that moves passes through bank state off (04 R90),
and a gated one that is allotted is ungated (15_start_power_cooling.md R399). -/
def allotGravers (s : State) : State :=
  (List.range 96).foldl (fun s g =>
    let p := (plate s).alloc.getD g 0x80
    let gv := graver g s
    let s := if gv.part = p then s else setGraver g { banksOff gv with part := p } s
    if nodeGates g s || requestGates g s then s else ungateGraver g s) s

/-! ### SEAL and the switch of ranks (R228) -/

/-- A written slot of a quota that holds no page is zeroed before use (07_residency_and_tiers.md R181). -/
def awaitQuotas (s : State) : State :=
  let rs := (plate s).parts.flatMap fun p => recordSlots p.2
  let in_ := fun k => rs.any fun r => r.1 ≤ k && k < r.1 + r.2
  { s with res.slots := s.res.slots.map fun x =>
      if x.2.written && !x.2.holding && in_ x.1 then (x.1, { x.2 with awaiting := true }) else x }

/-- A port whose MODE changes trains again (11_fabric_ports.md R281). -/
def retrainPorts (old : Plate) (s : State) : State :=
  (List.range 8).foldl (fun s p =>
    let mode := fun x : Plate => ((x.ports[p]?).getD {}).mode
    let v := fport p s
    if mode old = mode (plate s) || v.st == .down then s
    else
      let again := fun l : Lane => match l.st with
        | .off => l
        | .training | .active | .retired => ({ l with st := .training, lockSince := none, queued := 0 } : Lane)
      setFport p { v with st := .training, lanes := v.lanes.map again, stretched := false, stretchPending := false, sends := [] } s) s

/-- A connection under a full plate that takes effect. -/
def sealConn (s : State) (c : Nat) : State :=
  let k := conn c s
  match k.st, (connRec c s).used with
  | .unused, true => setConn c { st := .keyless } s
  | .unused, false => s
  | .keyless, used | .active, used | .closing, used | .failed, used =>
    let slot := (connRec c s).keySlot
    if used && ((liveKey slot 0 s).isSome || (liveKey slot 1 s).isSome) then s
    else if used && k.st == .keyless then s
    else toKeyless c s

/-- PLT_SEAL: STATE 2 becomes 3. PLT_DIGEST changes here: R238 has it report the plate in force, though the load sequence reads
it before SEAL, when the checked plate's digest stands in PLT_SHADOW_DIGEST (DESIGN CHOICE, notes/assumptions/115.md). -/
def execPltSealState (s : State) : State :=
  match if s.plt.st = .valid then s.plt.shadow else none with
  | none => s
  | some new =>
    let old := plate s
    let first := s.plt.active.isNone
    let s := { activate new s with
      plt.st := .sealed, plt.everSealed := true, plt.switchPending := true, plt.prior := []
      pwr.holdCause := s.pwr.holdCause &&& (63 - 4) }
    let s := changeKeys old new.plate s
    let s := installFlash new.plate (fun _ _ => true) s
    let s := if first || old.epoch = new.plate.epoch then s else loseTier s
    let s := (plateConns old new.plate).foldl sealConn s
    let s := (plateConns old new.plate).foldl startWatch s
    awaitQuotas (retrainPorts old s)

/-- RANK_SWITCH: at the pass boundary after SEAL the islands run the sealed plate's lines. -/
def execRankSwitchState (s : State) : State :=
  if s.plt.switchPending ∧ strokeNow s = 0 then
    allotGravers { s with plt.running := some (plate s).lines, plt.switchPending := false }
  else s

/-! ### ARM (R231 to R233; 14 R378) -/

def armDone (code : Nat) (s : State) : State := { s with plt.phase := .idle, plt.dcode := code, plt.shadow := none }

/-- The partition is touched by the structural change from one plate to another. -/
def touches (old new : Plate) (p : Nat) : Bool :=
  let of := fun P : Plate => (look {} P.parts p : PartRec)
  let big := fun P : Plate => decide (16 < allotCount P p)
  let loses := (List.range 96).any fun g => old.alloc.getD g 0x80 == p && new.alloc.getD g 0x80 != p
  let onStack := fun (P : Plate) (st : Nat) =>
    let q := (of P).gs.getD st {}
    q.slotCountK != 0 || q.tileCount != 0
  of old != of new || loses || big old != big new ||
    (List.range 6).any fun st => roleOf old st != roleOf new st && (onStack old st || onStack new st)

def touchedParts (old new : Plate) : List Nat :=
  (once (old.parts.map (·.1) ++ new.parts.map (·.1))).filter (touches old new)

/-- The partition has a message queued, in flight or in hand on one of its connections. -/
def transportBusy (p : Nat) (s : State) : Bool :=
  (s.tfx.conns.any fun k => (connRec k.1 s).part == p && (!k.2.queue.isEmpty || !k.2.unacked.isEmpty || (k.2.partials.any fun x => !x.dead))) ||
    (s.tfx.inbox.any fun m => (connRec m.conn s).part == p) ||
    s.tfx.aux.any fun a => (connRec a.1 s).part == p && !a.2.waits.isEmpty

/-- A partition is drained (R232). -/
def drained (p : Nat) (s : State) : Bool :=
  !(s.sch.reqs.any fun r => r.part == p && inFlight r) && !(s.res.programs.any fun x => x.part == p) &&
    !(s.res.moveOuts.any fun x => x.part == p) && !(s.res.ops.any fun x => x.part == p) &&
    !(s.res.changes.any fun x => x.part == p) && !(s.dir.stateSwaps.any fun x => x.part == p) &&
    !(s.res.tiles.any fun t => t.2.part == p && !t.2.stands) &&
    !(s.res.slots.any fun x => x.2.awaiting && inQuota p x.1 s) && !transportBusy p s &&
    !s.host.queues.any fun q => q.1 % 8 != 0 && q.2.lists.any fun l => l.part == p && !listEnded l

/-- A change that R378 forbids while a partition is assigned. -/
def changesAssigned (old new : Plate) (p : Nat) : Bool :=
  let allot := fun P : Plate => (indexed 0 P.alloc).filter fun x => x.2 == p
  let mine := fun (P : Plate) => P.tenants.filter fun x => x.2.used && x.2.owner == p
  let conns := fun (P : Plate) => P.conns.filter fun x => x.2.used && x.2.part == p
  let owned := fun (P : Plate) => P.keymap.filter fun x =>
    x.2 == (2, p) || (x.2.1 == 1 && (conns old ++ conns new).any fun c => c.1 == x.2.2)
  (look {} old.parts p : PartRec) != look {} new.parts p || allot old != allot new || mine old != mine new ||
    conns old != conns new || owned old != owned new

/-- PLT_ARM. -/
def execPltArmState (s : State) : State :=
  match if s.plt.phase = .loaded ∧ s.plt.st = .sealed then s.plt.shadow else none with
  | none => s
  | some new =>
    let refuse := fun r => armDone stMalformed (plateRefused r noSection s)
    if s.plt.boundary < passNow s + 8 then refuse 24
    else if s.tru.scrubs.any (revives new.plate s) then refuse 25
    else if (assignedParts s).any (changesAssigned (plate s) new.plate) then refuse 26
    else
      let ps := touchedParts (plate s) new.plate
      if ps.any fun p => !drained p s then countEvent cDeltasBusy unitNode (armDone stDeltaBusy s)
      else { s with plt.phase := .armed, plt.armedAt := s.plt.boundary, plt.acked := 0, plt.held := ps
                    plt.code := stOk, plt.reason := 0, plt.sect := 0 }

/-- ISLAND_ACK: an island of 0 to 17 has loaded its shadow rank. -/
def execIslandAckState (i : Nat) (s : State) : State :=
  match s.plt.phase with
  | .armed | .committed => { s with plt.acked := s.plt.acked ||| 2 ^ i }
  | .idle | .loaded => s

/-- PLT_COMMIT: before pass BOUNDARY - 1 starts. -/
def execPltCommitState (s : State) : State :=
  if s.plt.phase = .armed ∧ passNow s + 1 < s.plt.armedAt then { s with plt.phase := .committed } else s

/-- PLT_ABORT (R235). -/
def execPltAbortState (s : State) : State :=
  match s.plt.phase with
  | .loaded | .armed | .committed => abortDelta s
  | .idle => s

/-! ### The swap (R234, R236; 14 R370, R381) -/

/-- A connection at a swap. -/
def swapConn (old : Plate) (s : State) (c : Nat) : State :=
  let r : ConnRec := look {} old.conns c
  let k := conn c s
  let slot := (connRec c s).keySlot
  match k.st, (connRec c s).used with
  | .unused, true => setConn c { st := .keyless } s
  | .unused, false => s
  | .active, false => closeConn c (setAux c { aux c s with oldRec := some r } s)
  | .closing, false => setAux c { aux c s with oldRec := some r } s
  | .keyless, false | .failed, false => toKeyless c s
  | .active, true | .closing, true | .failed, true =>
    if (liveKey slot 0 s).isNone && (liveKey slot 1 s).isNone then toKeyless c s else s
  | .keyless, true => s

/-- Scrubs of the partitions a plate removes and the tenants whose USED it clears. -/
def swapScrubs (old new : Plate) (s : State) : State :=
  let gone := (old.parts.map (·.1)).filter fun p => !new.parts.any fun x => x.1 == p
  let tenants := (old.tenants.filter fun t => t.2.used && !(look {} new.tenants t.1 : TenantRec).used).map (·.1)
  let s := gone.foldl (fun s p => startScrub false p true s) s
  tenants.foldl (fun s t => startScrub true t true s) s

/-- A request that has not been admitted aims at the new plate's occurrences (R236): one that its slot's new lines do not serve
joins the best-effort class as R125 has it. -/
def reaim (s : State) (r : Req) : State :=
  let now := strokeCount s
  let found := (slotOf r.part r.hdr.slot 0 s).filter fun sr => r.conn == some sr.conn
  let next := found.bind fun sr =>
    match r.phase with
    | .taken => (nextOccurrence sr.slot (max r.firstStroke now) s).map fun a => { r with slot := found, occ := some a }
    | .checked =>
      if r.occ.any fun a => (slotLineAt sr.slot a s).isSome then some { r with slot := found } else none
    | .lookups | .dispatched | .answered => none
  match next with
  | some x =>
    if (s.sch.reqs.takeWhile (·.id != r.id)).any (sameOccurrence x) then setReq (joinBestEffort { r with slot := found }) s
    else setReq x s
  | none =>
    let s := setReq (joinBestEffort { r with slot := found }) s
    if r.phase = .checked then
      countEvent cLate unitNode { s with sch.queues := upd [] s.sch.queues r.part fun q => q ++ [r.id] }
    else s

/-- Every request that aims at an occurrence and has not been admitted. -/
def reaimAll (s : State) : State :=
  (s.sch.reqs.filter fun r => !r.bestEffort && (r.phase == .taken || r.phase == .checked)).foldl reaim s

/-- The resulting plate takes effect on every island. Work admitted before finishes under the plate it was admitted with (R236). -/
def swapPlate (new : PlateStore) (s : State) : State :=
  let old := plate s
  let s := swapScrubs old new.plate s
  let prior := (strokeCount s, old) :: s.plt.prior.filter fun x => strokeCount s < x.1 + 8192
  let s := { activate new s with
    plt.running := some new.plate.lines, plt.switchPending := false, plt.phase := .idle, plt.dcode := stOk, plt.held := []
    plt.prior := prior }
  let s := reaimAll s
  let s := changeKeys old new.plate s
  let fresh := fun c => watched c s && !(old.lines.any fun x => x.2.lines.any fun l => l.op == opBeat && l.arg0 % 65536 == c)
  let s := (plateConns old new.plate).foldl (swapConn old) s
  let s := ((plateConns old new.plate).filter fresh).foldl startWatch s
  tally cDeltasApplied (allotGravers s)

/-- DELTA_BOUNDARY: the start of pass BOUNDARY. -/
def execDeltaBoundaryState (s : State) : State :=
  match s.plt.phase with
  | .idle | .loaded => s
  | .armed | .committed =>
    if passNow s < s.plt.armedAt then s
    else match if s.plt.phase = .committed ∧ s.plt.acked = 0x3FFFF then s.plt.shadow else none with
      | some new => swapPlate new s
      | none => abortDelta s

/-- PLATE_LOST (R226): an uncorrectable error strikes the same word of both copies of the active store, or an island's line
memory: loss of the plate. An error in one copy is repaired by the patrol that finds it (`repairPlate`). -/
def execPlateLostState (s : State) : State :=
  if s.plt.active.isNone || s.plt.st == .lost then s
  else
    raise fPlateLost unitNode []
      { s with plt.st := .lost, plt.running := none, plt.switchPending := false, plt.loading := none }

/-! ### The commands -/

def execPltLoad (stores : List HostStore) (s : State) : Host.Outcome State Fault Refusal := .next (execPltLoadState stores s)
def execLoadComplete (s : State) : Host.Outcome State Fault Refusal := .next (execLoadCompleteState s)
def execPltSeal (s : State) : Host.Outcome State Fault Refusal := .next (execPltSealState s)
def execRankSwitch (s : State) : Host.Outcome State Fault Refusal := .next (execRankSwitchState s)
def execPltArm (s : State) : Host.Outcome State Fault Refusal := .next (execPltArmState s)
def execIslandAck (i : Nat) (s : State) : Host.Outcome State Fault Refusal := .next (execIslandAckState i s)
def execPltCommit (s : State) : Host.Outcome State Fault Refusal := .next (execPltCommitState s)
def execPltAbort (s : State) : Host.Outcome State Fault Refusal := .next (execPltAbortState s)
def execDeltaBoundary (s : State) : Host.Outcome State Fault Refusal := .next (execDeltaBoundaryState s)
def execPlateLost (s : State) : Host.Outcome State Fault Refusal := .next (execPlateLostState s)

end Sys2Proof.Machine
end

