-- ==== Sys2Proof/Machine/Power.lean ====
section
/-! DEFINITION. Start-up, cuts, regulation, gating, temperature, coolant and hold-mode control
(15_start_power_cooling.md; 14_trust_and_isolation.md R384 to R386; 16_faults_and_recovery.md R436; 18_package_and_signals.md
R460 to R462). -/

namespace Sys2Proof.Machine

/-! ### Stages (R392) -/

/-- Strokes of 10 ms, 2 s, 10 s and 60 s. -/
abbrev tenMs : Nat := 40000
abbrev secs (n : Nat) : Nat := n * secStrokes

/-- Every lane starts training (11_fabric_ports.md R281). -/
def trainPort (s : State) (p : Nat) : State :=
  let v := fport p s
  let go := fun l : Lane => match l.st with
    | .off => ({ l with st := .training } : Lane)
    | .training | .active | .retired => l
  if v.st = .down ∧ !v.gated then setFport p { v with st := .training, lanes := v.lanes.map go } s else s

/-- A stage begins. -/
def startStage (n : Nat) (s : State) : State :=
  let s := { s with start.stage := n, start.stageRunning := true, start.stageAt := s.time.elapsed
                    start.stalled := false, start.cause := 0 }
  if n = 1 then { s with start.mainOn := true, start.thermTrip := false, time.counting := true }
  else if n = 3 then (List.range 8).foldl trainPort s
  else if n = 5 then { s with bar.regTries := 0, bar.regPass := passNow s + 1, bar.registered := false }
  else s

/-- A stage stalls with a cause. -/
def stallStage (cause : Nat) (s : State) : State := { s with start.stalled := true, start.cause := cause }

/-! ### Cuts (R386, R391) -/

/-- Counters of the power controller, the coolant monitor, the trust core and the management endpoint, which VAUX_3V3 feeds
(notes/assumptions/60.md). -/
def auxPower (k : Nat) : Bool :=
  let off := k / 64
  decide (0x600000 ≤ off ∧ off < 0x602000)
def auxTrust (k : Nat) : Bool :=
  let off := k / 64
  decide (0x900000 ≤ off ∧ off < 0x902000) || off == 0x1008

/-- A stack's readings, with no band and no demand. -/
def coldStack (h : StackThermal) : StackThermal := { temp := h.temp, junction := h.junction }

/-- What NAND keeps without power: its codewords with their metadata, and the wear of its blocks. -/
def flashKept (s : State) : FlashState :=
  { written := s.fsh.written, owner := s.fsh.owner, writeSeq := s.fsh.writeSeq, seqs := s.fsh.seqs, places := s.fsh.places
    blocks := s.fsh.blocks }

/-- Everything the main regulators feed is lost: what remains is what VAUX_3V3 feeds, what stands in flash and fuses, host
memory, and the model's own bookkeeping. -/
def mainOff (s : State) : State :=
  { pending := s.pending, out := s.out, free := s.free
    time := { elapsed := s.time.elapsed }
    host := { bifurcated := s.host.bifurcated }
    fsh := flashKept s
    mem := { tier := s.mem.tier, host := s.mem.host, mbxReq := s.mem.mbxReq, mbxResp := s.mem.mbxResp }
    tru := s.tru
    start := { s.start with
      stage := 0, stageRunning := true, stageAt := s.time.elapsed, stage0Done := false, stalled := false, cause := 0
      failedStacks := 0, regulatorFails := 0, mainOn := false, vinFaulted := false, offAt := none }
    pwr := { stacks8 := mapStore {} coldStack s.pwr.stacks8, hubJunction := s.pwr.hubJunction }
    cool := { s.cool with flashGated := false, portPend := 0, flashPend := false, linkPend := 0, warnSince := s.time.elapsed }
    mgmt := { s.mgmt with hubVersion := 0 }
    ctr := s.ctr.filter fun x => auxPower x.1 || auxTrust x.1 }

/-- A cut: keys and scrubs first, then the main regulators. A thermal or coolant cut is counted and drives THERMTRIP_N low. -/
def performCut (thermal : Bool) (s : State) : State :=
  let s := mainOff (cutKeys (if thermal then tally cShutdown s else s))
  { s with start.thermTrip := s.start.thermTrip || thermal }

/-- VAUX_3V3 is lost: the whole node is off. Flash, fuses and boot banks remain. -/
def allOff (s : State) : State :=
  { pending := s.pending, out := s.out, free := s.free
    time := { elapsed := s.time.elapsed }
    fsh := flashKept s
    mem := { tier := s.mem.tier, host := s.mem.host }
    tru := { burntTc := s.tru.burntTc, burntHub := s.tru.burntHub, draws := s.tru.draws }
    start := { vinMv := s.start.vinMv, vinSince := s.start.vinSince, sysRst := s.start.sysRst }
    mgmt := { banks := s.mgmt.banks, tcNext := s.mgmt.tcNext, hubNext := s.mgmt.hubNext } }

/-- CUT: the main regulators turn off. -/
def execCutState (s : State) : State := if s.start.mainOn then performCut false s else s

/-! ### Supplies and reset (R389, R391; 18 R460, R461) -/

/-- The straps are sampled, and stage 0 starts. -/
def startZero (bifur : Bool) (smb : Nat) (s : State) : State :=
  startStage 0 { s with start.strapBifur := bifur, start.strapSmbA := smb % 4, host.bifurcated := bifur
                        start.stage0Done := false, start.nodeStrokes := 0 }

/-- VAUX_IN_RANGE: the level of VAUX_3V3 in mV and for how long it has stood, with the straps' levels. Above 3.63 V is an undefined condition (R410): whether
the node stays as it is or turns off is then a free pick (notes/assumptions/94.md). -/
def execVauxInRangeState (mv ns : Nat) (bifur : Bool) (smb : Nat) (s : State) : State :=
  if 3630 < mv then
    let k := pick 2 s
    if k.1 = 0 then k.2 else allOff k.2
  else if mv < 3000 then (if s.start.vaux && decide (5000 ≤ ns) then allOff s else s)
  else if 3135 ≤ mv ∧ mv ≤ 3465 ∧ !s.start.vaux then
    let s := { s with start.vaux := true }
    if s.start.sysRst then startZero bifur smb s else s
  else s

/-- SYS_RST_N is held low: a cut, and the trust core and management are held in reset. The parties a cut leaves scrub-pending
stay so. -/
def holdReset (s : State) : State :=
  let s := performCut false s
  { s with
    tru := { tdis := s.tru.tdis, scrubs := s.tru.scrubs, burntTc := s.tru.burntTc, burntHub := s.tru.burntHub
             draws := s.tru.draws }
    mgmt := { banks := s.mgmt.banks, tcNext := s.mgmt.tcNext, hubNext := s.mgmt.hubNext }
    mem.mbxReq := [], mem.mbxResp := []
    start.sysRst := false, start.stageRunning := false, start.nodeStrokes := 0
    ctr := s.ctr.filter fun x => auxPower x.1 }

/-- SYS_RST_N: the pin rises, or has been low for some time. -/
def execSysRstNState (high : Bool) (lowNs : Nat) (bifur : Bool) (smb : Nat) (s : State) : State :=
  if high then
    (if s.start.sysRst then s
     else
      let s := { s with start.sysRst := true }
      if s.start.vaux then startZero bifur smb s else s)
  else if lowNs < 1000 || !s.start.sysRst then s
  else holdReset s

/-- VIN_MAIN is outside its range but not yet a cut: a fault, counted once for the pass. -/
def vinOutside (s : State) : State :=
  if s.start.vinFaulted then s
  else raise fVinRange unitNode [] (tally cVinFault { s with start.vinFaulted := true })

/-- VIN_MAIN_RANGE: the level of VIN_MAIN in mV and for how long it has stood. A cut takes 5 µs. Above 14.0 V is an undefined condition (R410), under which protection still
acts (00_scope.md R4): the cut is taken, as above 13.2 V. -/
def execVinMainRangeState (mv ns : Nat) (s : State) : State :=
  let good := decide (11400 ≤ mv ∧ mv ≤ 12600)
  let since := if good then some (s.start.vinSince.getD s.time.elapsed) else none
  let s := { s with start.vinMv := mv, start.vinSince := since }
  if !s.start.mainOn || good then s
  else if (mv < 11000 || 13200 < mv) && 5000 ≤ ns then tally cVinFault (performCut false s)
  else vinOutside s

/-! ### The ends of stages (R360, R361, R394; 17_management_and_registers.md R450) -/

/-- A bank passes R361. Whether the image of a bank that was not written during the run does is the stage's own result. -/
def bankPasses (comp b : Nat) (s : State) : Bool :=
  let k := bankOf comp b s
  k.valid && (!k.fresh || (k.signatureOk && decide ((if comp = 0 then s.tru.svnTc else s.tru.svnHub) ≤ k.svn)))

/-- The bank a component starts from: the next one, or else the other. -/
def bootBank (comp next : Nat) (s : State) : Option Nat :=
  if bankPasses comp next s then some next
  else if bankPasses comp (1 - next) s then some (1 - next)
  else none

def bankVersion (comp b : Nat) (s : State) : BitVec 32 :=
  let k := bankOf comp b s
  if k.fresh then k.version else Config.imageVersion comp

/-- Fuses are loaded (R359). -/
def loadFuses (s : State) : State :=
  { s with
    tru.lifecycle := Config.lifecycle.toNat
    tru.svnTc := max Config.svnTc s.tru.burntTc
    tru.svnHub := max Config.svnHub s.tru.burntHub
    tru.measuredSvn := (max Config.svnTc s.tru.burntTc, max Config.svnHub s.tru.burntHub)
    mgmt.serial := Config.serial
    mgmt.grade := Config.gradeB }

/-- Stage 0's work stands. -/
def stageZeroDone (s : State) : State :=
  let s := loadFuses s
  match bootBank 0 s.mgmt.tcNext s, bootBank 1 s.mgmt.hubNext s with
  | some t, some h =>
    { s with
      mgmt.tcBank := t, mgmt.tcNext := t, mgmt.hubBank := h, mgmt.hubNext := h
      mgmt.tcVersion := bankVersion 0 t s
      mgmt.update := if s.mgmt.update = .activation then .idle else s.mgmt.update
      tru.idOk := true, tru.fwOk := true
      start.stage0Done := true, start.stageRunning := false }
  | _, _ => stallStage 1 { s with tru.idOk := true, tru.fwOk := false }

/-- A regulator of stage 1 fails: a cut, after which stage 1 is tried once more. -/
def regulatorFailed (s : State) : State :=
  let n := s.start.regulatorFails + 1
  let s := performCut false s
  let s := { s with start.regulatorFails := n, start.stage0Done := true, start.stageRunning := false }
  if 2 ≤ n then stallStage 4 s else s

/-- Stage 2 has passed: every slot and tile reads zero, and every TLPN is trimmed. -/
def memoriesClear (s : State) : State :=
  unplace (fun _ => true) { s with mem.stk := [], mem.tier := [], res.slots := [], res.tiles := [] }

/-- The chain links of the stacks that passed are trained: the chain joins the sixteen gravers of each in a ring
(04_graver_engines.md R107, R112). -/
def chainsTrained (s : State) : State :=
  (List.range 96).foldl (fun s g =>
    if bit s.start.failedStacks (g / 16) then s
    else setGraver g { graver g s with upOk := true, downOk := true } s) s

/-- Stacks fail their training or test. -/
def stacksFail (cause mask : Nat) (s : State) : State :=
  if mask % 256 = 0 then s else stallStage cause { s with start.failedStacks := s.start.failedStacks ||| mask % 256 }

/-- The work of a stage is done, as its rule has it. -/
def stageDone (s : State) : State :=
  match s.start.stage with
  | 0 => stageZeroDone s
  | 1 =>
    startStage 2 { s with start.regulatorFails := 0, mgmt.hubVersion := bankVersion 1 s.mgmt.hubBank s }
  | 2 => if (s.fsh.mounted || s.fsh.skipped) && !s.fsh.stalled then startStage 3 (chainsTrained (memoriesClear s)) else s
  | 3 =>
    if (List.range 8).all (fun p => (fport p s).st == .up) || s.start.stageAt + secs 10 ≤ s.time.elapsed then startStage 4 s
    else s
  | 4 => if s.plt.st = .sealed then startStage 5 s else s
  | 5 =>
    if s.time.run = 2 then
      { s with start.stage := 6, start.stageRunning := false
               tru.scrubs := s.tru.scrubs.map fun x => { x with running := !x.failed } }
    else s
  | _ => s

/-- STAGE_COMPLETE: the stage in progress ends, or fails. -/
def execStageCompleteState (r : StageResult) (s : State) : State :=
  if !s.start.vaux || !s.start.sysRst || !s.start.stageRunning || s.start.stalled then s
  else match r with
    | .done => stageDone s
    | .identityFail => if s.start.stage = 0 then stallStage 1 (loadFuses s) else s
    | .firmwareFail =>
      if s.start.stage = 0 then stallStage 1 { loadFuses s with tru.idOk := true }
      else if s.start.stage = 1 then
        let s := performCut false s
        stallStage 1 { s with tru.fwOk := false }
      else s
    | .regulatorFail => if s.start.stage = 1 then regulatorFailed s else s
    | .trainingFail m => if s.start.stage = 2 then stacksFail 5 m s else s
    | .testFail m => if s.start.stage = 2 then stacksFail 6 m s else s

/-- No coolant warning has stood during the last `n` strokes. -/
def coolantQuiet (n : Nat) (s : State) : Bool :=
  match s.cool.lastWarn with
  | some t => !s.cool.warn && decide (t + n ≤ s.time.elapsed)
  | none => !s.cool.warn

/-- VIN_MAIN has stayed in its range for 10 ms. -/
def vinSteady (s : State) : Bool :=
  match s.start.vinSince with
  | some t => decide (t + tenMs ≤ s.time.elapsed)
  | none => false

/-- MAIN_POWER_START (R390): a first flow window has ended too, since the flows are known from then on. -/
def execMainPowerStartState (s : State) : State :=
  if s.start.stage = 0 ∧ s.start.stage0Done ∧ !s.start.stalled ∧ vinSteady s ∧ coolantQuiet secStrokes s ∧ 0 < s.cool.windows then
    startStage 1 s
  else s

/-! ### Power samples (R396 to R398) -/

/-- PLIMIT in W. -/
def plimit (s : State) : Nat := min 3200 s.pwr.capEff

/-- The power demand after a sample, and the samples in a row below 0.95 of PLIMIT. -/
def nextDemand (w da : Nat) (s : State) : Nat × Nat :=
  let l := plimit s
  let d := s.pwr.demand
  if l + 200 < w ∨ 2800 < da then (min 15 (d + 4), 0)
  else if l < w then (min 15 (d + 1), 0)
  else if 100 * w < 95 * l then (if s.pwr.below + 1 < 64 then (d, s.pwr.below + 1) else (d - 1, 0))
  else (d, 0)

/-- POWER_SAMPLE: input power in W, current in 0.1 A and voltage in mV. -/
def execPowerSampleState (w da mv : Nat) (s : State) : State :=
  if !s.start.vaux then s
  else
    let s := { s with pwr.capEff := min 3200 (max 1200 s.pwr.cap) }
    let d := nextDemand w da s
    let rose := s.pwr.demand < d.1
    let p := s.pwr
    let at15 := if d.1 = 15 ∧ 3200 < w then p.at15 + 1 else 0
    let s := { s with
      pwr := { p with
        demand := d.1, below := d.2, at15 := at15, vin := mv, iin := da, lastWatts := w
        sumPass := p.sumPass + w, numPass := p.numPass + 1, sumSec := p.sumSec + w, numSec := p.numSec + 1
        sumTel := p.sumTel + w, numTel := p.numTel + 1 } }
    let s := if rose then countEvent cCapLimit unitNode s else s
    let s := if 2800 < da then countEvent cCurrentLimit unitNode s else s
    if at15 = 1000 then raise fPowerHold unitNode [] s else s

/-- CAP: a write of PWR_CAP. -/
def execCapState (watts : Nat) (s : State) : State := { s with pwr.cap := watts % 4096 }

/-! ### Temperatures (R401, R402) -/

/-- The band a stack is in or is about to enter. -/
def bandAhead (h : StackThermal) : Band := h.next.getD h.band

/-- The band that a reading leads to from a band, with how long the reading has been above 100 degrees. -/
def bandFor (b : Band) (c : Int) (long : Bool) : Band :=
  let up : Band := if long then .critical else if 95 < c then .throttle else if 85 < c then .double else .normal
  if bandRank b < bandRank up then up
  else match b with
    | .normal => .normal
    | .double => if c ≤ 83 then .normal else .double
    | .throttle => if c ≤ 93 then (if c ≤ 83 then .normal else .double) else .throttle
    | .critical => if c ≤ 93 then (if c ≤ 83 then .normal else .double) else .critical
    | .shutdown => .shutdown

/-- A hot reading has lasted 1 ms. -/
def lasted (since : Option Nat) (s : State) : Bool :=
  match since with
  | some t => decide (t + msStrokes ≤ s.time.elapsed)
  | none => false

/-- A cause bit of hold mode clears. -/
def clearCause (b : Nat) (s : State) : State :=
  if bit s.pwr.holdCause b then { s with pwr.holdCause := s.pwr.holdCause - 2 ^ b } else s

/-- Cause bit 0 clears once every stack and junction is cool (16 R436). -/
def clearThermal (s : State) : State :=
  if (List.range 8).all (fun st => (stackHeat st s).temp ≤ 93 && (stackHeat st s).junction ≤ 98) && s.pwr.hubJunction ≤ 98 then
    clearCause 0 s
  else s

/-- DRAM_TEMP_SAMPLE: a stack's temperature in degrees. -/
def execDramTempSampleState (st : Nat) (c : Int) (s : State) : State :=
  let h := stackHeat st s
  let since := if 100 < c then some (h.hotSince.getD s.time.elapsed) else none
  let b := bandFor (bandAhead h) c (lasted since s)
  let next := if b = h.band then none else some b
  if 105 < c ∧ s.start.mainOn then performCut true (setHeat st { h with temp := c } s)
  else clearThermal (setHeat st { h with temp := c, hotSince := since, next := next } s)

/-- A junction has been at or above 110 degrees for 1 ms. -/
def junctionCritical (unit : Nat) (since : Option Nat) (s : State) : State :=
  if lasted since s && !bit s.pwr.holdCause 0 then raise fThermalCritical unit [] s else clearThermal s

/-- JUNCTION_TEMPERATURE_SAMPLE: base dies 0 to 5, and the hub from 6 on. -/
def execJunctionTemperatureSampleState (die : Nat) (c : Int) (s : State) : State :=
  if die < 6 then
    let h := stackHeat die s
    let since := if 110 ≤ c then some (h.junctionHot.getD s.time.elapsed) else none
    let rising := 100 < c ∧ h.junction ≤ 100
    let s := setHeat die { h with junction := c, junctionHot := since } s
    if 120 ≤ c ∧ s.start.mainOn then performCut true s
    else junctionCritical (unitStack die) since (if rising then countEvent cThrottleEntry (unitStack die) s else s)
  else
    let since := if 110 ≤ c then some (s.pwr.hubHot.getD s.time.elapsed) else none
    let s := { s with pwr.hubJunction := c, pwr.hubHot := since }
    if 120 ≤ c ∧ s.start.mainOn then performCut true s else junctionCritical unitNode since s

/-- THERMAL_DEMAND: up by 1 every 16 µs, down by 1 every 256 µs. -/
def execThermalDemandState (st : Nat) (s : State) : State :=
  let h := stackHeat st s
  let waited := fun n => decide (h.demandAt + n ≤ s.time.elapsed)
  if 6 ≤ st then s
  else if heatDir h = 2 ∧ h.demand < 15 ∧ waited 64 then
    setHeat st { h with demand := h.demand + 1, demandAt := s.time.elapsed } s
  else if heatDir h = 1 ∧ 0 < h.demand ∧ waited 1024 then
    setHeat st { h with demand := h.demand - 1, demandAt := s.time.elapsed } s
  else s

/-! ### Coolant (R404, R405) -/

/-- A flow, in 0.01 L/min, is below what R404 requires: 3.2 L/min on top or 0.8 on the carrier at 3,200 W, and never less than
0.5. -/
def topLow (f : Nat) (s : State) : Bool := decide (f < 50 ∨ 10 * f < plimit s)
def botLow (f : Nat) (s : State) : Bool := decide (f < 50 ∨ 40 * f < plimit s)

/-- An inlet outside 17 to 45 degrees, or an outlet above 65, in units of half a degree. -/
def inletBad (x : Int) : Bool := decide (x < 34 ∨ 90 < x)
def outletBad (x : Int) : Bool := decide (130 < x)

/-- A coolant warning stands. -/
def coolantBad (x : CoolSample) (s : State) : Bool :=
  inletBad x.inTop || inletBad x.inBot || outletBad x.outTop || outletBad x.outBot || topLow x.flowTop s || botLow x.flowBot s ||
    x.thermFault || x.noPulse

/-- FLOW_WINDOW: a 1 s window ends with the readings of the loop. -/
def execFlowWindowState (x : CoolSample) (s : State) : State :=
  if !s.start.vaux || !s.start.sysRst then s
  else
    let bad := coolantBad x s
    let was := s.cool.warn
    let low := x.flowTop < 50 ∨ x.flowBot < 50
    let now := s.time.elapsed
    let c := s.cool
    let s := { s with
      cool := { c with
        inTop := x.inTop.toNat, outTop := x.outTop.toNat, inBot := x.inBot.toNat, outBot := x.outBot.toNat
        flowTop := x.flowTop, flowBot := x.flowBot, warn := bad, windows := 1
        warnSince := if bad && !was then now else c.warnSince
        lastWarn := if bad then some now else c.lastWarn
        lowFlowSince := if low then some (c.lowFlowSince.getD (now - secStrokes)) else none } }
    if bad && !was && s.start.mainOn then raise fCoolant unitNode [] (tally cCoolantWarn s)
    else if coolantQuiet (secs 10) s then clearCause 1 s
    else s

/-- COOLANT_CUT: in hold mode, a warning of 60 s or a flow below 0.5 L/min for 10 s. -/
def execCoolantCutState (s : State) : State :=
  let low : Bool := match s.cool.lowFlowSince with
    | some t => decide (t + secs 10 ≤ s.time.elapsed)
    | none => false
  if s.pwr.hold ∧ ((s.cool.warn ∧ s.cool.warnSince + secs 60 ≤ s.time.elapsed) ∨ low) then performCut true s else s

/-! ### Gating (R399, R400; 14 R384, R385) -/

/-- A graver holds no open work. -/
def graverIdle (gv : Graver) : Bool := gv.st != .working && gv.descs.isEmpty && gv.block.isNone && gv.finished.isEmpty

/-- A graver is gated: its clock stops and its banks are off. What it had finished still crosses its chain. -/
def gateGraver (g : Nat) (s : State) : State :=
  let gv := graver g s
  if gv.st = .fenced then s
  else setGraver g { banksOff gv with st := .gated, descs := [], current := none, block := none, frags := [], cov := []
                                      cancelled := false, atBoundary := false, windowEnd := none, chainEnd := none } s

/-- At a pass boundary the node gates and ungates gravers by R399. -/
def gateByNode (s : State) : State :=
  (List.range 96).foldl (fun s g =>
    let gv := graver g s
    if nodeGates g s then (if gv.st != .gated && (s.pwr.hold || graverIdle gv) then gateGraver g s else s)
    else if gv.st = .gated ∧ !requestGates g s then ungateGraver g s
    else s) s

/-- PWR_GGATE_REQ: register `i` of the two is written. A request for a graver under secure hold is deferred. -/
def execPwrGgateReqState (i : Nat) (v : BitVec 64) (s : State) : State :=
  let old := s.pwr.ggate.toNat
  let new := if i = 0 then old / 2 ^ 64 * 2 ^ 64 + v.toNat else old % 2 ^ 64 + v.toNat % 2 ^ 32 * 2 ^ 64
  let fresh := (List.range 96).filter fun g => bit new g && !bit old g
  let pend := ((List.range 96).filter fun g => bit new g && (bit s.pwr.ggatePend.toNat g || fresh.contains g)).map (2 ^ ·)
  let s := { s with pwr.ggate := BitVec.ofNat 96 new, pwr.ggatePend := BitVec.ofNat 96 pend.sum }
  fresh.foldl (fun s g => match graverHolder g s with
    | some p => deferRequest (unitGraver g) p 0 s
    | none => s) s

/-- PWR_GATE: the requests for ports and for the flash-tier controller. -/
def execPwrGateState (portDown : Nat) (flash : Bool) (s : State) : State :=
  let down := portDown % 256
  let fresh := (List.range 8).filter fun p => bit down p && !bit s.pwr.portDown p
  let pend := ((List.range 8).filter fun p => bit down p && (bit s.cool.portPend p || fresh.contains p)).map (2 ^ ·)
  let freshFlash := flash && !s.pwr.flashDown
  let s := { s with pwr.portDown := down, pwr.flashDown := flash, cool.portPend := pend.sum
                    cool.flashPend := flash && (s.cool.flashPend || freshFlash) }
  let s := fresh.foldl (fun s p => match portHolder p s with
    | some q => deferRequest (unitPort p) q 2 s
    | none => s) s
  match if freshFlash then flashHolder s else none with
  | some q => deferRequest unitNode q 2 s
  | none => s

/-- A port holds no open work: no frame on its lanes or in its smoothing queue, and no SEND that runs. -/
def portIdle (p : Nat) (s : State) : Bool :=
  let v := fport p s
  v.smooth.isEmpty && (v.lanes.all fun l => l.queued == 0) && v.sends.all fun r => r.start.isNone || decide (r.runLen ≤ r.done)

/-- The flash-tier controller holds no open work: no program, no staging read from flash, no stalled operation. -/
def flashIdle (s : State) : Bool :=
  s.res.programs.isEmpty && s.fsh.stallOp.isNone &&
    s.res.tiles.all fun t => t.2.stands || wordState ((pageOf t.2.page.ctx t.2.page.layer t.2.page.group t.2.page.page s).map (·.2) |>.getD 0) != 2

/-- The pending and the reversed requests of a port, a graver and the flash-tier controller at a pass boundary. -/
def gatePort (s : State) (p : Nat) : State :=
  let v := fport p s
  if bit s.cool.portPend p then
    (if (portHolder p s).isNone && portIdle p s then
      let s := setFport p { v with gated := true } { s with cool.portPend := s.cool.portPend - 2 ^ p }
      if v.st == .down || v.st == .dropped then s else dropPort p s
    else s)
  else if v.gated && !bit s.pwr.portDown p then setFport p { v with gated := false } s
  else s

def gateRequested (s : State) (g : Nat) : State :=
  let gv := graver g s
  if bit s.pwr.ggatePend.toNat g then
    (if (graverHolder g s).isNone && graverIdle gv then
      gateGraver g { s with pwr.ggatePend := s.pwr.ggatePend &&& ~~~(BitVec.ofNat 96 (2 ^ g)) }
    else s)
  else if gv.st = .gated ∧ !bit s.pwr.ggate.toNat g ∧ !nodeGates g s then ungateGraver g s
  else s

def gateFlash (s : State) : State :=
  if s.cool.flashPend then
    (if (flashHolder s).isNone && flashIdle s then { s with cool.flashPend := false, cool.flashGated := true } else s)
  else if s.cool.flashGated && !s.pwr.flashDown then { s with cool.flashGated := false }
  else s

/-- GATE_TAKES_EFFECT (R400): at a pass boundary. -/
def execGateTakesEffectState (s : State) : State :=
  if strokeNow s = 0 then gateFlash ((List.range 8).foldl gatePort ((List.range 96).foldl gateRequested s)) else s

/-- A deferred link-disable request takes effect. -/
def linkDeferred (s : State) (l : Nat) : State :=
  if bit s.cool.linkPend l && (l != 0 || (linkHolder s).isNone) then
    linkLoss l { s with cool.linkPend := s.cool.linkPend - 2 ^ l }
  else s

/-- DEFERRED_TAKES_EFFECT (14 R385): at the first pass boundary after the block leaves secure hold. -/
def execDeferredTakesEffectState (s : State) : State :=
  if strokeNow s = 0 then
    [0, 1].foldl linkDeferred (gateFlash ((List.range 8).foldl gatePort ((List.range 96).foldl gateRequested s)))
  else s

/-- HOST_POWER_MANAGEMENT_REQUEST: a link is disabled, at once or when secure hold allows. A D3hot request leaves the function
in D0 (13_host_attachment.md R340). -/
def execHostPowerManagementRequestState (r : HostPowerRequest) (s : State) : State :=
  match r with
  | .d3hot _ => s
  | .linkDisable l =>
    if 2 ≤ l then s
    else match if l = 0 then linkHolder s else none with
      | some p =>
        if bit s.cool.linkPend l then s
        else deferRequest (unitLink l) p 3 { s with cool.linkPend := s.cool.linkPend + 2 ^ l }
      | none => linkLoss l s

/-! ### PWR_CTRL (R394, R407, R408) -/

/-- PWR_CTRL_SKIP: stage 2 goes on without the graver stacks that failed; a vault stack's failure stays. -/
def execPwrCtrlSkipState (s : State) : State :=
  if s.start.stage = 2 ∧ s.start.stalled ∧ s.start.failedStacks < 64 then
    { s with start.stalled := false, start.cause := 0 }
  else s

def execHoldEnterState (s : State) : State := if s.start.mainOn then enterHold 4 s else s

/-- Hold mode can be left (R407). -/
def mayLeaveHold (s : State) : Bool :=
  (s.pwr.holdCause == 0 || s.pwr.holdCause == 16) && s.plt.st == .sealed && s.time.reg

/-- HOLD_EXIT: the allotted gravers are ungated at once. -/
def execHoldExitState (s : State) : State :=
  if mayLeaveHold s then gateByNode { s with pwr.hold := false, pwr.holdCause := 0 } else countEvent cHoldRefused unitNode s

/-- RESTART: stage 1 is tried again. -/
def execRestartState (s : State) : State :=
  if s.start.stage = 0 ∧ s.start.stalled ∧ s.start.cause = 4 then
    { s with start.stalled := false, start.cause := 0, start.regulatorFails := 0, start.stageRunning := false, start.stage0Done := true }
  else s

/-- OFF: the effects of hold-mode entry; the main regulators turn off within 2 s. -/
def execOffState (s : State) : State :=
  if s.start.mainOn then { enterHold 4 s with start.offAt := some s.time.elapsed } else s

/-! ### The host port (R392; 13_host_attachment.md R341) -/

/-- HOST_LINK_TRAINED: a link is in L0 with a speed (16, 32 or 64 GT/s), a width, and what the host enables. -/
def execHostLinkTrainedState (l speed width : Nat) (cache mem : Bool) (s : State) : State :=
  if !s.start.mainOn then s
  else if l = 0 then
    let cxl := decide (32 ≤ speed) && cache && mem
    { s with
      host.speed := if 64 ≤ speed then 3 else if 32 ≤ speed then 2 else 1
      host.width := min width (if s.host.bifurcated then 8 else 16)
      host.cxlIo := cxl, host.cxlCache := cxl, host.cxlMem := cxl }
  else if s.host.bifurcated then { s with host.linkBUp := true }
  else s

/-! ### The commands -/

def execVauxInRange (level : SupplyLevel) (bifur : Bool) (smb : Nat) (s : State) : Host.Outcome State Fault Refusal :=
  .next (execVauxInRangeState level.millivolts level.ns bifur smb s)
def execVinMainRange (level : SupplyLevel) (s : State) : Host.Outcome State Fault Refusal :=
  .next (execVinMainRangeState level.millivolts level.ns s)
def execCut (s : State) : Host.Outcome State Fault Refusal := .next (execCutState s)
def execSysRstN (high : Bool) (lowNs : Nat) (bifur : Bool) (smb : Nat) (s : State) : Host.Outcome State Fault Refusal :=
  .next (execSysRstNState high lowNs bifur smb s)
def execStageComplete (r : StageResult) (s : State) : Host.Outcome State Fault Refusal := .next (execStageCompleteState r s)
def execMainPowerStart (s : State) : Host.Outcome State Fault Refusal := .next (execMainPowerStartState s)
def execPowerSample (w da mv : Nat) (s : State) : Host.Outcome State Fault Refusal := .next (execPowerSampleState w da mv s)
def execDramTempSample (st : Nat) (c : Int) (s : State) : Host.Outcome State Fault Refusal := .next (execDramTempSampleState st c s)
def execThermalDemand (st : Nat) (s : State) : Host.Outcome State Fault Refusal := .next (execThermalDemandState st s)
def execFlowWindow (x : CoolSample) (s : State) : Host.Outcome State Fault Refusal := .next (execFlowWindowState x s)
def execCoolantCut (s : State) : Host.Outcome State Fault Refusal := .next (execCoolantCutState s)
def execCap (w : Nat) (s : State) : Host.Outcome State Fault Refusal := .next (execCapState w s)
def execPwrGgateReq (i : Nat) (v : BitVec 64) (s : State) : Host.Outcome State Fault Refusal := .next (execPwrGgateReqState i v s)
def execPwrGate (down : Nat) (flash : Bool) (s : State) : Host.Outcome State Fault Refusal := .next (execPwrGateState down flash s)
def execGateTakesEffect (s : State) : Host.Outcome State Fault Refusal := .next (execGateTakesEffectState s)
def execDeferredTakesEffect (s : State) : Host.Outcome State Fault Refusal := .next (execDeferredTakesEffectState s)
def execHostPowerManagementRequest (r : HostPowerRequest) (s : State) : Host.Outcome State Fault Refusal :=
  .next (execHostPowerManagementRequestState r s)
def execPwrCtrlSkip (s : State) : Host.Outcome State Fault Refusal := .next (execPwrCtrlSkipState s)
def execHoldEnter (s : State) : Host.Outcome State Fault Refusal := .next (execHoldEnterState s)
def execHoldExit (s : State) : Host.Outcome State Fault Refusal := .next (execHoldExitState s)
def execRestart (s : State) : Host.Outcome State Fault Refusal := .next (execRestartState s)
def execOff (s : State) : Host.Outcome State Fault Refusal := .next (execOffState s)
def execHostLinkTrained (l speed width : Nat) (cache mem : Bool) (s : State) : Host.Outcome State Fault Refusal :=
  .next (execHostLinkTrainedState l speed width cache mem s)
def execJunctionTemperatureSample (die : Nat) (c : Int) (s : State) : Host.Outcome State Fault Refusal :=
  .next (execJunctionTemperatureSampleState die c s)

end Sys2Proof.Machine
end

