-- ==== Sys2Proof/Machine/Faults.lean ====
section
/-! DEFINITION. Faults and recovery (16_faults_and_recovery.md R417 to R437): revoked leases, restarts, reconciliation, the return
of fenced units, the trace ring, fault control and wear scores. -/

namespace Sys2Proof.Machine

/-! ### Fences (R419, R424) -/

/-- A port is fenced: it drops by R291. -/
def fencePort (p : Nat) (s : State) : State :=
  let v := fport p s
  let s := tally ctrFences { s with flt.fencedPorts := s.flt.fencedPorts ||| 2 ^ p }
  if v.st == .down || v.st == .dropped then s else dropPort p s

/-- A flash channel is fenced: what is placed on it reads as failed (07_residency_and_tiers.md R204). -/
def fenceChannel (c : Nat) (s : State) : State :=
  tally ctrFences { s with flt.fencedChannels := s.flt.fencedChannels ||| 2 ^ c }

/-- Class and index of a unit identifier. -/
def unitClass (x : Nat) : Nat := x / 65536
def unitIndex (x : Nat) : Nat := x % 65536

/-- CORE_RESET: a control core missed its signal; its locks are released. A third reset within 1 s enters hold mode. -/
def execCoreResetState (core : Nat) (s : State) : State :=
  if 4 ≤ core || !s.start.mainOn then s
  else
    let recent := (s.flt.coreResets.filter fun t => s.time.elapsed < t + secStrokes) ++ [s.time.elapsed]
    let s := raise fCoreReset (unitCore core) [] { s with flt.coreResets := recent }
    if 3 ≤ recent.length then enterHold 5 s else s

/-- The tier operation of an expired XTS lease ends with ST_TIER_ERROR. -/
def tierLeaseEnds (s : State) : State :=
  match s.res.programs with
  | pr :: _ => programFails pr s
  | [] => s

/-- LEASE_REVOKED (R418, R419): a lease of a unit has expired: a port's cipher stage, a flash channel's operation, a control
core's lock, or (the node) the flash-tier controller's key rank. -/
def execLeaseRevokedState (unit : Nat) (s : State) : State :=
  let i := unitIndex unit
  let told := fun s => raise fLeaseRevoked unit [] (tally ctrLeaseRevoked s)
  if unitClass unit = 3 then (if i < 8 then fencePort i (told (zeroRanks i s)) else s)
  else if unitClass unit = 6 then (if i < 16 then fenceChannel i (told s) else s)
  else if unitClass unit = 7 then (if i < 4 then execCoreResetState i (tally ctrLeaseRevoked s) else s)
  else if unitClass unit = 0x0C then tierLeaseEnds (told s)
  else s

/-- TRUST_RESTART (R424): key slots and IDE keys survive; offers and requests are lost. -/
def execTrustRestartState (s : State) : State :=
  if !trustUp s then s
  else
    let code := if s.tru.busy then stFenced else s.tru.code
    raise fTrustRestart unitTrust []
      { s with tru.offers := [], tru.curve := [], tru.cmd := none, tru.code := code, tru.busy := false }

/-! ### The return to service (R425) -/

/-- The unit is fenced, or the connection is marked lost. -/
def unitOut (x : Nat) (s : State) : Bool :=
  let i := unitIndex x
  match unitClass x with
  | 1 => bit s.flt.fencedG.toNat i
  | 2 => bit s.flt.fencedStacks i
  | 3 => bit s.flt.fencedPorts i
  | 5 => i == 0 && s.flt.fencedCollator
  | 6 => bit s.flt.fencedChannels i
  | 0x0A => (aux i s).lost
  | _ => false

/-- UNFENCE: `known` says whether a graver gives the known answer. A graver passes through bank state off. -/
def execUnfenceState (known : Bool) (s : State) : State :=
  mailbox 0x0140 (· == 4) (fun a s =>
    let x := u a 0 4
    if !unitOut x s || s.flt.reconBad.contains x then mbxRefuse 4 s
    else if unitClass x = 1 ∧ !known then mbxRefuse 6 s
    else
      let units := once (s.flt.unfencing ++ [x])
      mbxEnd stOk 0 [] { s with flt.unfencing := units }) s

/-- A bit leaves a mask. -/
def dropBit (m i : Nat) : Nat := if bit m i then m - 2 ^ i else m

/-- A unit that UNFENCE passed is in service again. -/
def returnUnit (s : State) (x : Nat) : State :=
  let i := unitIndex x
  match unitClass x with
  | 1 =>
    let gv := graver i s
    setGraver i { banksOff gv with st := if nodeGates i s || requestGates i s then .gated else .idle, renewed := s.time.elapsed }
      { s with flt.fencedG := s.flt.fencedG &&& ~~~(BitVec.ofNat 96 (2 ^ i)) }
  | 2 => { s with flt.fencedStacks := dropBit s.flt.fencedStacks i }
  | 3 => { s with flt.fencedPorts := dropBit s.flt.fencedPorts i }
  | 5 => { s with flt.fencedCollator := false }
  | 6 => { s with flt.fencedChannels := dropBit s.flt.fencedChannels i }
  | 0x0A => setAux i { aux i s with lost := false, lastBeat := s.time.elapsed } s
  | _ => s

/-- At a pass boundary the units that UNFENCE passed return to service. -/
def returnUnits (s : State) : State :=
  s.flt.unfencing.foldl returnUnit { s with flt.unfencing := [] }

/-! ### Reconciliation (R426, R427) -/

/-- A graver works while it is fenced, works for another partition than the plate gives it, or is gated at a pass boundary though
no gate request, hold mode or role accounts for it. -/
def graverDisagrees (g : Nat) (s : State) : Bool :=
  let gv := graver g s
  (gv.st == .working && (bit s.flt.fencedG.toNat g || gv.part != (plate s).alloc.getD g 0x80)) ||
    (gv.st == .gated && sealed s && strokeNow s == 0 && !nodeGates g s && !requestGates g s)

/-- A port works while it is fenced or gated. -/
def portDisagrees (p : Nat) (s : State) : Bool :=
  let v := fport p s
  v.st == .up && (bit s.flt.fencedPorts p || v.gated)

/-- The collator works while it is fenced. -/
def collatorDisagrees (s : State) : Bool := s.flt.fencedCollator && s.sch.entries.any fun e => !e.arrivals.isEmpty

/-- The units whose two views disagree. A stack and a flash channel work only inside a command, which a fence or a gate bars. -/
def disagreeing (s : State) : List Nat :=
  (((s.gravers.map (·.1)).filter fun g => graverDisagrees g s).map unitGraver) ++
    (((s.ports.map (·.1)).filter fun p => portDisagrees p s).map unitPort) ++
    if collatorDisagrees s then [unitCollator] else []

/-- Both views of a unit as a RECONCILE record gives them (notes/assumptions/61.md): health, power, occupancy, partition. -/
def viewArgs (x : Nat) (s : State) : List Byte :=
  let i := unitIndex x
  if unitClass x = 1 then
    let gv := graver i s
    asBytes [b2n (bit s.flt.fencedG.toNat i), b2n (gv.st == .gated), b2n (gv.st == .working), gv.part]
  else if unitClass x = 3 then asBytes [b2n (bit s.flt.fencedPorts i), b2n (fport i s).gated, b2n ((fport i s).st == .up), 0]
  else asBytes [b2n s.flt.fencedCollator, 0, b2n (s.sch.entries.any fun e => !e.arrivals.isEmpty), 0]

/-- A unit whose views disagree is fenced. -/
def reconFence (s : State) (x : Nat) : State :=
  let i := unitIndex x
  let s := raise fReconcile x (viewArgs x s) (tally ctrReconFail s)
  if unitClass x = 1 then (if bit s.flt.fencedG.toNat i then s else closeBestEffort (fenceGraver i s))
  else if unitClass x = 5 then enterHold 5 { s with flt.fencedCollator := true }
  else if bit s.flt.fencedPorts i then dropPort i s
  else fencePort i s

/-- RECONCILE: at every multiple of 1,000,000 ns of the time base, once. -/
def execReconcileState (s : State) : State :=
  if s.time.counting && s.time.now % 1000000 == 0 && s.flt.recon != s.time.now then
    let bad := disagreeing s
    bad.foldl reconFence { s with flt.recon := s.time.now, flt.reconBad := bad }
  else s

/-! ### The trace ring (R430 to R433; 17_management_and_registers.md R448) -/

abbrev ringRecords : Nat := 1048576

/-- The address of a record of the ring in VS1 (R430). -/
def traceAddr (i : Nat) : Nat := stackAddr 7 (0x888000000 + 64 * (i % ringRecords))

/-- The 64 bytes of the committed record with sequence number `n`; PHASE is 1 on the first lap. -/
def recordBytes (r : Record) (n : Nat) : List Byte :=
  leBytes 8 r.time ++ leBytes 1 r.cls ++ leBytes 1 r.severity ++ leBytes 2 r.code ++ leBytes 4 r.unit ++ padTo 40 r.args ++
    leBytes 4 (b2n (n / ringRecords % 2 == 0)) ++ leBytes 4 n

/-- The front event goes to the receiver, which stands on a binding, unless it has been sent already. -/
def pushEvent (s : State) : State :=
  match s.mgmt.receiver, s.mgmt.events with
  | some r, e :: _ =>
    if s.mgmt.tries = 0 then emit (.mctp r e) { s with mgmt.tries := 1, mgmt.triedAt := s.time.elapsed } else s
  | _, _ => s

/-- A PLDM event waits for the receiver or for a poll; at most 64 do. -/
def queueEvent (data : List Byte) (s : State) : State :=
  if 64 ≤ s.mgmt.events.length then countEvent cEvtLost unitNode s
  else
    let all := s.mgmt.events ++ [data]
    pushEvent { s with mgmt.events := all }

/-- The front event leaves the queue. -/
def popEvent (s : State) : State :=
  pushEvent { s with mgmt.events := s.mgmt.events.tail, mgmt.tries := 0 }

/-- A fault's record gives a PLDM event of class 0xF0: its first 16 bytes and its sequence number, which the record has from its
COMMIT on (notes/assumptions/120.md). -/
def queueFault (r : Record) (n : Nat) (s : State) : State :=
  if r.severity = 1 then queueEvent (leBytes 1 0xF0 ++ (recordBytes r n).take 16 ++ leBytes 8 n) s else s

/-- A record is written and committed. -/
def commitRecord (r : Record) (s : State) : State :=
  let n := s.flt.seq
  queueFault r n { s with mem.stk := memWrite s.mem.stk (traceAddr n) (recordBytes r n), flt.seq := n + 1 }

/-- The fold record: sixteen class counts and the lost count. -/
def foldRecord (s : State) : Record :=
  ⟨s.time.now, clFold, 2, 0x8F00, unitNode,
    padTo 40 ((List.range 16).flatMap (fun k => leBytes 2 (look 0 s.flt.fold k)) ++ leBytes 4 s.flt.lost)⟩

/-- TRACE_RECORD_WRITE: the fold record once the FIFO is below 32 entries, otherwise the oldest entry. -/
def execTraceRecordWriteState (s : State) : State :=
  if s.flt.fifo.length < 32 ∧ s.flt.lost ≠ 0 then
    commitRecord (foldRecord s) { s with flt.fold := [], flt.lost := 0 }
  else match s.flt.fifo with
    | r :: rest => commitRecord r { s with flt.fifo := rest }
    | [] => s

/-- EVT_SEL: a record is copied whole to EVT_DATA. -/
def execEvtSelState (i : Nat) (s : State) : State :=
  { s with flt.evtIndex := i % ringRecords, flt.evtData := memRead s.mem.stk (traceAddr i) 64 }

/-! ### FLT_CTRL (R436, R438) -/

def execClearUeState (s : State) : State := clearCause 3 { s with flt.ueSeen := [] }

/-- CLEAR_OTHER: ignored while REG reads 0, the collator is fenced, or input power exceeds PLIMIT. -/
def execClearOtherState (s : State) : State :=
  if !s.time.reg || s.flt.fencedCollator || plimit s < s.pwr.lastWatts then s else clearCause 5 s

/-! ### Wear scores (R437) -/

/-- Units of the classes that have a score. -/
def hasWear (x : Nat) : Bool := [1, 2, 3, 4, 6, 8, 9].contains (unitClass x)

/-- What a unit's corrected errors are divided by: codewords of a lane by 65,536, and of a flash channel by 16. -/
def wearDivisor (unit : Nat) : Nat := if unitClass unit = 4 then 65536 else if unitClass unit = 6 then 16 else 1

/-- What a unit counted in the second: by the node's own counters, and, of what no other command shows, by the operand. -/
def wearCounted (inputs : List WearInput) (unit : Nat) (s : State) : WearCount :=
  let own : WearCount := look {} s.flt.wearIn unit
  match inputs.find? fun i => i.unit == unit && !([1, 3, 4].contains (unitClass unit)) with
  | some x => ⟨own.c + x.c, own.r + x.r, own.t + x.t, own.u + x.u⟩
  | none => own

/-- A score over one second. -/
def wearNext (unit w : Nat) (x : WearCount) : Nat :=
  min 0xFFFF (w - w / 16 + min 0xFFFF (x.c / wearDivisor unit + 8 * x.r + 64 * x.t + 512 * x.u))

def wearOne (inputs : List WearInput) (s : State) (unit : Nat) : State :=
  let old : Wear := look {} s.flt.wear unit
  let w := wearNext unit old.score (wearCounted inputs unit s)
  let rises := !old.warn && decide (0x2000 ≤ w)
  let new : Wear := { score := w, warn := rises || (old.warn && decide (0x1800 ≤ w)), peak := max old.peak w }
  let s := { s with flt.wear := put {} s.flt.wear unit new }
  if rises then logEvent clWear 0x01 unit (leBytes 2 w) s else s

/-- WEAR_UPDATE: at each whole second of the time base, once. -/
def execWearUpdateState (inputs : List WearInput) (s : State) : State :=
  let sec := s.time.now / 1000000000
  if s.flt.wearSecond < sec then
    let units := once ((s.flt.wear.map (·.1)) ++ (s.flt.wearIn.map (·.1)) ++ (inputs.map (·.unit)).filter hasWear)
    let s := units.foldl (wearOne inputs) { s with flt.wearSecond := sec }
    { s with flt.wearIn := [] }
  else s

/-! ### The commands -/

def execLeaseRevoked (unit : Nat) (s : State) : Host.Outcome State Fault Refusal := .next (execLeaseRevokedState unit s)
def execCoreReset (core : Nat) (s : State) : Host.Outcome State Fault Refusal := .next (execCoreResetState core s)
def execTrustRestart (s : State) : Host.Outcome State Fault Refusal := .next (execTrustRestartState s)
def execUnfence (known : Bool) (s : State) : Host.Outcome State Fault Refusal := .next (execUnfenceState known s)
def execReconcile (s : State) : Host.Outcome State Fault Refusal := .next (execReconcileState s)
def execTraceRecordWrite (s : State) : Host.Outcome State Fault Refusal := .next (execTraceRecordWriteState s)
def execEvtSel (i : Nat) (s : State) : Host.Outcome State Fault Refusal := .next (execEvtSelState i s)
def execClearUe (s : State) : Host.Outcome State Fault Refusal := .next (execClearUeState s)
def execClearOther (s : State) : Host.Outcome State Fault Refusal := .next (execClearOtherState s)
def execWearUpdate (inputs : List WearInput) (s : State) : Host.Outcome State Fault Refusal := .next (execWearUpdateState inputs s)

end Sys2Proof.Machine
end

