-- ==== Sys2Proof/Machine/Mgmt.lean ====
section
/-! DEFINITION. Management (17_management_and_registers.md R441, R442, R446 to R450): MCTP messages, the mailbox's BAR2 access,
PLDM sensors and events, firmware update. The layouts of PLDM responses are the model's (notes/assumptions/62.md). -/

namespace Sys2Proof.Machine

/-! ### MCTP (R441, R442) -/

def bindingEid (b : Binding) (s : State) : Nat :=
  match b with
  | .smbus => s.mgmt.eidSmbus
  | .i3c => s.mgmt.eidI3c
  | .pcie => s.mgmt.eidPcie

/-- The binding answers: from stage 0, or over link A once it is in L0. -/
def bindingUp (b : Binding) (s : State) : Bool :=
  trustUp s && match b with
    | .smbus | .i3c => true
    | .pcie => s.host.speed != 0

/-- Message types that the node accepts. -/
def mctpTypes : List Nat := [0x00, 0x01, 0x05, 0x06, 0x7E]

abbrev mctpMax : Nat := 4160

def noAssembly : Assembly := ⟨0, 0, []⟩
def setAssembly (b : Nat) (a : Assembly) (s : State) : State :=
  { s with mgmt.assembly := put noAssembly s.mgmt.assembly b a }

/-- A packet, message or sequence is discarded and counted. -/
def mctpDrop (b : Nat) (s : State) : State := countEvent cMctpDropped unitNode (setAssembly b noAssembly s)

/-- A packet's bytes join its message, which waits once it is complete. -/
def mctpJoin (b : Nat) (eom : Bool) (a : Assembly) (s : State) : State :=
  if mctpMax < a.bytes.length then mctpDrop b s
  else if eom then
    let all := s.mgmt.messages ++ [(b, a.bytes)]
    setAssembly b noAssembly { s with mgmt.messages := all }
  else setAssembly b a s

/-- MCTP_PACKET: a packet on a binding. A binding with no EID answers only control messages. -/
def execMctpPacketState (bd : Binding) (som eom : Bool) (seq tag : Nat) (payload : List Byte) (s : State) : State :=
  let b := bindingNum bd
  let cur := look noAssembly s.mgmt.assembly b
  if !bindingUp bd s then s
  else if som then
    let typ := u payload 0 1
    if !mctpTypes.contains typ || (typ == 0x7E && u payload 1 2 != Config.pciVendor.toNat) then mctpDrop b s
    else if bindingEid bd s = 0 ∧ typ ≠ 0 then s
    else mctpJoin b eom ⟨tag, (seq + 1) % 4, payload⟩ s
  else if cur = noAssembly then (if bindingEid bd s = 0 then s else mctpDrop b s)
  else if cur.tag ≠ tag ∨ cur.nextSeq ≠ seq then mctpDrop b s
  else mctpJoin b eom { cur with nextSeq := (seq + 1) % 4, bytes := cur.bytes ++ payload } s

/-- SET_ENDPOINT_ID: the bus owner assigns the binding's EID. -/
def execSetEndpointIdState (b : Binding) (eid : Nat) (s : State) : State :=
  if !bindingUp b s then s
  else match b with
    | .smbus => { s with mgmt.eidSmbus := eid % 256 }
    | .i3c => { s with mgmt.eidI3c := eid % 256 }
    | .pcie => { s with mgmt.eidPcie := eid % 256 }

/-- The first waiting message of a type is taken: its binding; the SMBus where none waits. -/
def takeMessage (typ : Nat) (s : State) : Nat × State :=
  match s.mgmt.messages.find? fun m => u m.2 0 1 == typ with
  | some m => (m.1, { s with mgmt.messages := s.mgmt.messages.erase m })
  | none => (0, s)

/-- A PLDM response to the message that asked for it. -/
def answerPldm (code : Nat) (body : List Byte) (s : State) : State :=
  let m := takeMessage 1 s
  emit (.mctp m.1 (leBytes 1 1 ++ leBytes 1 code ++ body)) m.2

/-! ### B2_WRITE and B2_READ (R446) -/

/-- The refusal of a range of PF0's BAR2. -/
def b2Refusal (off len : Nat) (s : State) : Option Nat :=
  if off % 64 != 0 || len % 64 != 0 || len < 64 || 4032 < len || 2 ^ 27 < off + len then some 2
  else if (List.range len).any fun i => b2Owner ((off + i) / b2PageBytes) s != 0xFF then some 3
  else none

/-- The hub SRAM answers from stage 1 on; before that the target is dead, as for a register outside the trust core (R445). -/
def hubUp (s : State) : Bool := decide (2 ≤ s.start.stage)

def execB2WriteState (s : State) : State :=
  mailbox 0x0150 (· == 8 + u (mbxArgs s) 4 2) (fun a s =>
    let off := u a 0 4
    let len := u a 4 2
    if u a 6 2 != 0 then mbxRefuse 1 s
    else match b2Refusal off len s with
      | some r => mbxRefuse r s
      | none =>
        if !hubUp s then mbxEnd stTargetDead 0 [] s
        else mbxEnd stOk 0 [] { s with mem.bar2 := memWrite s.mem.bar2 off (padTo len (a.drop 8)) }) s

def execB2ReadState (s : State) : State :=
  mailbox 0x0151 (· == 8) (fun a s =>
    let off := u a 0 4
    let len := u a 4 2
    if u a 6 2 != 0 then mbxRefuse 1 s
    else match b2Refusal off len s with
      | some r => mbxRefuse r s
      | none => if !hubUp s then mbxEnd stTargetDead 0 [] s else mbxEnd stOk 0 (memRead s.mem.bar2 off len) s) s

/-! ### Sensors (R447) -/

abbrev sensorIds : List Nat := (List.range 25).map (· + 1)

/-- The register value behind a sensor. -/
def sensorNow (n : Nat) (s : State) : Int :=
  if n = 1 then s.pwr.pSec
  else if n = 2 then s.pwr.vin
  else if n = 3 then s.pwr.iin
  else if n < 12 then (stackHeat (n - 4) s).temp
  else if n < 18 then (stackHeat (n - 12) s).junction
  else if n = 18 then s.pwr.hubJunction
  else if n = 19 then s.cool.inTop
  else if n = 20 then s.cool.outTop
  else if n = 21 then s.cool.inBot
  else if n = 22 then s.cool.outBot
  else if n = 23 then s.cool.flowTop
  else if n = 24 then s.cool.flowBot
  else if s.pwr.hold then 7
  else s.start.stage

/-- The source of a sensor answers (R445): until stage 1 has ended only THM_COOL and PWR_STAGE do. -/
def sensorUp (n : Nat) (s : State) : Bool := decide (19 ≤ n) || hubUp s

/-- Thresholds: (bit, upper, value); bits 0 to 2 upper warning, critical and fatal, 3 and 4 lower warning and critical. -/
def sensorLimits (n : Nat) (s : State) : List (Nat × Bool × Int) :=
  if n = 1 then [(0, true, plimit s), (1, true, 3200)]
  else if n = 2 then [(0, true, 12600), (1, true, 13200), (2, true, 14000), (3, false, 11400), (4, false, 11000)]
  else if n = 3 then [(0, true, 2800)]
  else if n < 12 then [(0, true, 85), (1, true, 95), (2, true, 105)]
  else if n < 19 then [(0, true, 100), (1, true, 110), (2, true, 120)]
  else if n = 19 || n = 21 then [(0, true, 90)]
  else if n = 20 || n = 22 then [(0, true, 130)]
  else if n = 23 then [(3, false, max 50 (ceilDiv (plimit s) 10))]
  else if n = 24 then [(3, false, max 50 (ceilDiv (plimit s) 40))]
  else []

/-- The thresholds a reading lies beyond. -/
def sensorBeyond (n : Nat) (x : Int) (s : State) : Nat :=
  ((sensorLimits n s).map fun l => if (if l.2.1 then decide (l.2.2 < x) else decide (x < l.2.2)) then 2 ^ l.1 else 0).sum

/-- A reading as 4 bytes of two's complement. -/
def intBytes (x : Int) : List Byte := leBytes 4 (x % 2 ^ 32).toNat

/-- One sensor is refreshed; a crossed threshold is an event of PLDM's numeric-sensor class. -/
def refreshSensor (s : State) (n : Nat) : State :=
  if !sensorUp n s then s
  else
    let x := sensorNow n s
    let was := look 0 s.mgmt.crossed n
    let now := sensorBeyond n x s
    let s := { s with mgmt.sensors := put 0 s.mgmt.sensors n x, mgmt.crossed := put 0 s.mgmt.crossed n now }
    if was = now then s else queueEvent (leBytes 1 0 ++ leBytes 2 n ++ leBytes 1 was ++ leBytes 1 now ++ intBytes x) s

/-- SENSOR_REFRESH: every 1 ms. -/
def execSensorRefreshState (s : State) : State := if trustUp s then sensorIds.foldl refreshSensor s else s

/-- GET_SENSOR_READING: the reading that stands, or operational state unavailable. -/
def execGetSensorReadingState (n : Nat) (s : State) : State :=
  if !trustUp s then s
  else if !sensorIds.contains n then answerPldm 0x80 (leBytes 2 n) s
  else if !sensorUp n s then answerPldm 0 (leBytes 2 n ++ leBytes 1 2) s
  else answerPldm 0 (leBytes 2 n ++ leBytes 1 0 ++ intBytes (look 0 s.mgmt.sensors n)) s

/-- GET_PDR: one record for each sensor, with its thresholds. -/
def execGetPdrState (handle : Nat) (s : State) : State :=
  if !trustUp s then s
  else
    let n := if handle = 0 then 1 else handle
    if !sensorIds.contains n then answerPldm 0x82 (leBytes 4 handle) s
    else
      let limits := (sensorLimits n s).flatMap fun l => leBytes 1 l.1 ++ intBytes l.2.2
      answerPldm 0 (leBytes 4 n ++ leBytes 4 (if n = 25 then 0 else n + 1) ++ leBytes 2 n ++ leBytes 1 (b2n (n == 25)) ++ limits) s

/-! ### Events (R448) -/

/-- SET_EVENT_RECEIVER: the receiver's binding, or none. -/
def execSetEventReceiverState (r : Option Nat) (s : State) : State :=
  if trustUp s then pushEvent { s with mgmt.receiver := r, mgmt.tries := 0 } else s

/-- POLL_FOR_PLATFORM_EVENT: the front event is handed over. -/
def execPollForPlatformEventState (s : State) : State :=
  if !trustUp s then s
  else match s.mgmt.events with
    | e :: _ => popEvent (answerPldm 0 e s)
    | [] => answerPldm 0 [] s

/-- Strokes of 250 ms and of 120 s. -/
abbrev retryStrokes : Nat := 1000000
abbrev agentStrokes : Nat := 480000000

/-- PLATFORM_EVENT_RETRY: the front event is acknowledged, or sent again 250 ms later, twice at most; then it waits for a poll. -/
def execPlatformEventRetryState (acked : Bool) (s : State) : State :=
  match s.mgmt.receiver, s.mgmt.events with
  | some r, e :: _ =>
    if s.mgmt.tries = 0 || !trustUp s then s
    else if acked then popEvent s
    else if s.mgmt.tries < 3 ∧ s.mgmt.triedAt + retryStrokes ≤ s.time.elapsed then
      emit (.mctp r e) { s with mgmt.tries := s.mgmt.tries + 1, mgmt.triedAt := s.time.elapsed }
    else s
  | _, _ => s

/-! ### Firmware update (R449, R450) -/

/-- An update runs. -/
def updating (s : State) : Bool :=
  match s.mgmt.update with
  | .idle | .activation => false
  | .learn | .ready | .download | .verify | .apply => true

/-- The agent has sent a message. -/
def heard (s : State) : State := { s with mgmt.agentAt := s.time.elapsed }

/-- REQUEST_UPDATE: refused with ALREADY_IN_UPDATE_MODE while an update runs. -/
def execRequestUpdateState (s : State) : State :=
  if !trustUp s then s
  else if updating s then answerPldm 0x81 [] (heard s)
  else answerPldm 0 [] (heard { s with mgmt.update := .learn })

/-- The bank of a component that is not running. -/
def spareBank (comp : Nat) (s : State) : Nat := 1 - runningBank comp s

def setBank (comp b : Nat) (k : Bank) (s : State) : State := { s with mgmt.banks := put {} s.mgmt.banks (2 * comp + b) k }

abbrev bankBytes : Nat := 16777216

/-- UPDATE_COMPONENT: component 1 (trust core) or 2 (hub) is transferred into its bank that is not running. -/
def execUpdateComponentState (comp : Nat) (image : List Byte) (svn version : Nat) (sigOk : Bool) (s : State) : State :=
  if !trustUp s || !(s.mgmt.update == .learn || s.mgmt.update == .ready) || !(comp == 1 || comp == 2) ||
      decide (bankBytes < image.length) then s
  else
    let k : Bank := { valid := false, svn := svn % 256, version := BitVec.ofNat 32 version, image := image, signatureOk := sigOk, fresh := true }
    setBank (comp - 1) (spareBank (comp - 1) s) k
      (heard { s with mgmt.update := .verify, mgmt.component := comp - 1, mgmt.verifyFailed := false })

/-- VERIFY_COMPONENT: the signature, and an SVN at least that of the fuse. -/
def execVerifyComponentState (s : State) : State :=
  if !trustUp s || s.mgmt.update != .verify then s
  else
    let comp := s.mgmt.component
    let b := spareBank comp s
    let k := bankOf comp b s
    let fuse := if comp = 0 then s.tru.svnTc else s.tru.svnHub
    if k.signatureOk && decide (fuse ≤ k.svn) then
      answerPldm 0 [] (setBank comp b { k with valid := true } { s with mgmt.update := .apply })
    else
      answerPldm 1 [] (countEvent cUpdateFail unitNode
        (setBank comp b { k with valid := false } { s with mgmt.update := .ready, mgmt.verifyFailed := true }))

/-- APPLY_COMPLETE: the new bank is next for its component. -/
def execApplyCompleteState (s : State) : State :=
  if !trustUp s || s.mgmt.update != .apply then s
  else
    let b := spareBank s.mgmt.component s
    let s := { s with mgmt.update := .ready }
    if s.mgmt.component = 0 then { s with mgmt.tcNext := b } else { s with mgmt.hubNext := b }

/-- ACTIVATE_FIRMWARE: pending until the next start from stage 0; self-contained activation is refused. -/
def execActivateFirmwareState (selfContained : Bool) (s : State) : State :=
  if !trustUp s || s.mgmt.update != .ready then s
  else if selfContained then answerPldm 0x8B [] (heard s)
  else answerPldm 0 [] (heard { s with mgmt.update := .activation })

/-- CANCEL_UPDATE. -/
def execCancelUpdateState (s : State) : State :=
  if trustUp s && updating s then { s with mgmt.update := .idle } else s

/-- UPDATE_TIMEOUT: the agent has sent nothing for 120 s. -/
def execUpdateTimeoutState (s : State) : State :=
  if trustUp s && updating s && decide (s.mgmt.agentAt + agentStrokes ≤ s.time.elapsed) then
    countEvent cUpdateFail unitNode { s with mgmt.update := .idle }
  else s

/-! ### The commands -/

def execMctpPacket (b : Binding) (som eom : Bool) (seq tag : Nat) (payload : List Byte) (s : State) :
    Host.Outcome State Fault Refusal := .next (execMctpPacketState b som eom seq tag payload s)
def execSetEndpointId (b : Binding) (eid : Nat) (s : State) : Host.Outcome State Fault Refusal :=
  .next (execSetEndpointIdState b eid s)
def execB2Write (s : State) : Host.Outcome State Fault Refusal := .next (execB2WriteState s)
def execB2Read (s : State) : Host.Outcome State Fault Refusal := .next (execB2ReadState s)
def execSensorRefresh (s : State) : Host.Outcome State Fault Refusal := .next (execSensorRefreshState s)
def execGetSensorReading (n : Nat) (s : State) : Host.Outcome State Fault Refusal := .next (execGetSensorReadingState n s)
def execGetPdr (h : Nat) (s : State) : Host.Outcome State Fault Refusal := .next (execGetPdrState h s)
def execSetEventReceiver (r : Option Nat) (s : State) : Host.Outcome State Fault Refusal := .next (execSetEventReceiverState r s)
def execPollForPlatformEvent (s : State) : Host.Outcome State Fault Refusal := .next (execPollForPlatformEventState s)
def execPlatformEventRetry (acked : Bool) (s : State) : Host.Outcome State Fault Refusal :=
  .next (execPlatformEventRetryState acked s)
def execRequestUpdate (s : State) : Host.Outcome State Fault Refusal := .next (execRequestUpdateState s)
def execUpdateComponent (comp : Nat) (image : List Byte) (svn version : Nat) (sigOk : Bool) (s : State) :
    Host.Outcome State Fault Refusal := .next (execUpdateComponentState comp image svn version sigOk s)
def execVerifyComponent (s : State) : Host.Outcome State Fault Refusal := .next (execVerifyComponentState s)
def execApplyComplete (s : State) : Host.Outcome State Fault Refusal := .next (execApplyCompleteState s)
def execActivateFirmware (selfContained : Bool) (s : State) : Host.Outcome State Fault Refusal :=
  .next (execActivateFirmwareState selfContained s)
def execCancelUpdate (s : State) : Host.Outcome State Fault Refusal := .next (execCancelUpdateState s)
def execUpdateTimeout (s : State) : Host.Outcome State Fault Refusal := .next (execUpdateTimeoutState s)

end Sys2Proof.Machine
end

