-- ==== Sys2Proof/Machine/Regs.lean ====
section
/-! DEFINITION. The register map of BAR0 (00_scope.md R8 to R13; 13_host_attachment.md R343; 17_management_and_registers.md R443
to R445, R454, R455) and the register tables of every chapter: what a register reads, what a read clears, what a write does. -/

namespace Sys2Proof.Machine

/-- Fields (lowest bit, width, value) as one word. -/
def pack (fs : List (Nat × Nat × Nat)) : Nat := (fs.map fun x => x.2.2 % 2 ^ x.2.1 * 2 ^ x.1).sum

/-- A temperature as a byte of two's complement. -/
def int8 (x : Int) : Nat := (x % 256).toNat

/-- The event counters of the register at an offset. -/
def ctrWord (off : Nat) (s : State) : Nat :=
  ((s.ctr.filter fun x => x.1 / 64 == off).map fun x => x.2 * 2 ^ (x.1 % 64)).sum

/-! ### What registers read, block by block (17 R454) -/

/-- ID_ and HUB_ (17 R455; 13 R357). -/
def readHub (off : Nat) (s : State) : Nat :=
  let m := s.mgmt
  let h := s.host
  if off = 0x0 then pack [(0, 16, 0x3840), (16, 8, 0xC0), (24, 1, b2n m.grade), (32, 32, 0x00C00001)]
  else if off = 0x8 then m.serial.toNat
  else if off = 0x10 then pack [(0, 32, m.tcVersion.toNat), (32, 32, m.hubVersion.toNat)]
  else if off = 0x18 then pack [(0, 12, if sealed s then (plate s).nodeId else 0), (12, 1, b2n (sealed s))]
  else if off = 0x1000 then
    let up : Nat := match m.update with
      | .idle => 0 | .learn => 1 | .ready => 2 | .download => 3 | .verify => 4 | .apply => 5 | .activation => 6
    pack [(0, 8, m.eidSmbus), (8, 8, m.eidI3c), (16, 8, m.eidPcie), (24, 1, m.tcBank), (25, 1, m.hubBank), (26, 1, m.tcNext),
      (27, 1, m.hubNext), (28, 3, up)]
  else if off = 0x2000 then
    pack [(0, 2, h.speed), (2, 5, h.width), (7, 1, b2n h.bifurcated), (8, 1, b2n h.cxlIo), (9, 1, b2n h.cxlCache),
      (10, 1, b2n h.cxlMem), (11, 1, b2n h.linkBUp)]
  else if off = 0x2010 then pack [(0, 7, h.linkBPart), (7, 1, b2n h.linkBValid)]
  else if 0x2100 ≤ off ∧ off < 0x2300 then
    pack ((List.range 8).map fun j => (8 * j, 8, b2Owner (off - 0x2100 + j) s))
  else if 0x4000 ≤ off then
    let w := rwin ((off - 0x4000) / 16) s
    if off % 16 = 0 then pack [(0, 16, w.conn), (16, 1, b2n w.valid), (17, 1, b2n w.watch), (32, 32, w.rkey)] else w.base
  else 0

/-- CQ_ (13 R357). -/
def readQueue (off : Nat) (s : State) : Nat :=
  let i := (off - 0x10000) / 0x40
  let q : Queue := look {} s.host.queues i
  if off % 0x40 = 8 ∧ i % 8 < 5 then pack [(0, 7, q.lists.length), (7, 1, b2n q.enable), (32, 32, q.seq)] else 0

/-- GRV_ (04 R112). -/
def readGraver (off : Nat) (s : State) : Nat :=
  let gv := graver ((off - 0x100000) / 0x1000) s
  let r := off % 0x1000
  if r = 0 then
    let st : Nat := match gv.st with
      | .idle => 0 | .working => 1 | .fenced => 2 | .gated => 3
    let sweep := match gv.block with
      | some b => if b.swept < 3 then b.swept + 1 else 0
      | none => 0
    pack [(0, 2, st), (2, 2, sweep), (4, 1, b2n (gv.precise && gv.block.isSome)), (16, 7, gv.part)]
  else if r = 8 then pack ((List.range 32).map fun b => (2 * b, 2, look 0 gv.banks b))
  else if r = 0x18 then gv.done
  else if r = 0x20 then pack [(0, 1, b2n gv.upOk), (1, 1, b2n gv.downOk)]
  else 0

/-- The port of a partition (03 R80). -/
def readDirPort (n r : Nat) (s : State) : Nat :=
  let p := dirPort n s
  let g := dirRange n s
  if r = 0x00 then p.key.toNat % 2 ^ 64
  else if r = 0x08 then p.key.toNat / 2 ^ 64
  else if r = 0x10 then p.mask.toNat % 2 ^ 64
  else if r = 0x18 then p.mask.toNat / 2 ^ 64
  else if r = 0x20 then p.data.toNat
  else if r = 0x30 then
    pack [(0, 1, b2n p.busy), (1, 1, b2n p.hit), (2, 1, b2n p.heldBit), (3, 5, p.reason), (8, 8, p.code), (16, 18, p.index),
      (34, 19, p.count)]
  else if r = 0x38 then p.rkey.toNat % 2 ^ 64
  else if r = 0x40 then p.rkey.toNat / 2 ^ 64
  else if r = 0x48 then p.rdata.toNat
  else if r = 0x50 then pack [(0, 18, g.1), (18, 19, g.2)]
  else 0

/-- DIR_ and RES_ (03 R79; 07 R207). -/
def readDir (off : Nat) (s : State) : Nat :=
  if off = 0x200000 then pack [(0, 19, (s.dir.entries.filter (·.2.v)).length)]
  else if off = 0x200010 then
    let grace := (s.dir.extents.filter fun x => match x.2.st with
      | .grace _ _ => true
      | .free | .built _ | .live _ => false).length
    pack [(0, 21, extFree s), (21, 21, grace)]
  else if 0x201000 ≤ off ∧ off < 0x205000 then readDirPort ((off - 0x201000) / 0x80) (off % 0x80) s
  else if off = 0x20C020 then pack [(0, 19, s.res.tiles.length)]
  else if 0x20D000 ≤ off ∧ off < 0x20D800 ∧ off % 16 = 0 then
    let n := (off - 0x20D000) / 16
    pack [(0, 23, ((List.range 6).map fun st => poolCount n st s).sum), (23, 21, poolCount n 6 s + poolCount n 7 s)]
  else 0

/-- PRT_ (11 R307). -/
def readPort (off : Nat) (s : State) : Nat :=
  let p := (off - 0x300000) / 0x100
  let r := off % 0x100
  let v := fport p s
  if r = 0 then
    let st : Nat := match v.st with
      | .down => 0 | .training => 1 | .up => 2 | .dropped => 3
    let lane := fun l : Lane => match l.st with
      | .off => 0 | .training => 1 | .active => 2 | .retired => 3
    pack ([(0, 3, portMode p s), (4, 2, st), (16, 8, carriedBy p s), (24, 1, b2n v.stretched)] ++
      (indexed 0 v.lanes).map fun x => (6 + 2 * x.1, 2, lane x.2))
  else if r = 8 then b2n v.anOff
  else if r = 0x48 then v.txRaw
  else if r = 0x50 then v.txCoded
  else if r = 0x58 then pack [(0, 19, smoothLevel v), (32, 19, v.smoothPeak)]
  else 0

/-- The registers of a ring (12 R338). -/
def readRing (n r : Nat) (s : State) : Nat :=
  let v := ring n s
  if r = 0x00 then v.bufBase
  else if r = 0x08 then v.cplBase
  else if r = 0x10 then pack [(0, 5, v.sizeLog2), (8, 1, b2n v.enable)]
  else if r = 0x18 then v.post
  else if r = 0x28 then pack [(0, 16, v.consumed), (16, 16, v.cplNext), (32, 1, b2n v.phase)]
  else 0

/-- TFX_ (12 R338). -/
def readTfx (off : Nat) (s : State) : Nat :=
  let c := s.tfx.connSel
  let k := conn c s
  let slot := (connRec c s).keySlot
  if off = 0x301020 then c
  else if off = 0x301028 then
    let st : Nat := match k.st with
      | .unused => 0 | .keyless => 1 | .active => 2 | .closing => 3 | .failed => 4
    pack [(0, 3, st), (3, 1, k.sendEpoch), (4, 1, b2n (liveKey slot 0 s).isSome), (5, 1, b2n (liveKey slot 1 s).isSome),
      (6, 2, k.rollStep), (8, 16, k.pool.limit - k.pool.returned), (24, 7, k.attn.limit - k.attn.returned)]
  else if off = 0x301030 then pack [(0, 32, k.nextTx), (32, 32, k.nextRx)]
  else if off = 0x301038 then pack [(0, 15, attnFree s), (16, 18, poolFree s), (34, 18, pool0Free s)]
  else if 0x301100 ≤ off ∧ off < 0x301140 then look 0 s.tfx.nextHop ((off - 0x301100) / 8)
  else if 0x310000 ≤ off then readRing ((off - 0x310000) / 0x40) (off % 0x40) s
  else 0

/-- PLT_ (08 R238). -/
def readPlt (off : Nat) (s : State) : Nat :=
  let p := s.plt
  if off = 0x400008 then p.loadAddr
  else if off = 0x400010 then p.loadLen
  else if off = 0x400018 then
    let st : Nat := match p.st with
      | .none => 0 | .loading => 1 | .valid => 2 | .sealed => 3 | .lost => 4
    pack [(0, 3, st), (3, 5, p.reason), (8, 8, p.code), (16, 11, p.sect), (32, 32, p.deltaSeq)]
  else if off = 0x400020 then p.boundary
  else if off = 0x400028 then
    let ph : Nat := match p.phase with
      | .idle => 0 | .loaded => 1 | .armed => 2 | .committed => 3
    pack [(0, 2, ph), (8, 8, p.dcode), (16, 18, p.acked)]
  else if 0x400040 ≤ off ∧ off < 0x400070 then field p.digest.toNat (8 * (off - 0x400040)) 64
  else if 0x400070 ≤ off ∧ off < 0x4000A0 then field p.shadowDigest.toNat (8 * (off - 0x400070)) 64
  else 0

/-- Passes of the cycle of the lines that run: one without a plate's lines. -/
def cyclePasses (s : State) : Nat :=
  match s.plt.running with
  | some m => 2 ^ (m.map fun x => x.2.periodLog2).foldl max 0
  | none => 1

/-- SCH_ (09 R260; 05 R150). -/
def readSch (off : Nat) (s : State) : Nat :=
  if off = 0x40E000 then pack [(0, 6, strokeNow s), (6, 6, passNow s % cyclePasses s), (16, 48, passNow s)]
  else if off = 0x40E008 then
    pack [(0, 6, maskOf 6 fun g => thermalActive g s), (6, 1, b2n ((List.range 8).any fun st => hot st s)),
      (8, 8, maskOf 8 fun p => (fport p s).stretched), (16, 8, s.sch.unordered)]
  else if off = 0x40F010 then pack [(0, 15, inFlightCount s), (16, 15, s.sch.peak)]
  else 0

/-- TIM_ (10 R278). -/
def readTim (off : Nat) (s : State) : Nat :=
  let t := s.time
  let b := s.bar
  if off = 0x500000 then t.now
  else if off = 0x500008 then
    pack [(0, 2, timState s), (2, 1, b2n t.reg), (3, 2, t.run), (5, 1, b2n t.secondsSet), (6, 1, b2n t.ppsFar),
      (8, 16, (t.lastErr % 65536).toNat), (24, 8, t.missing), (32, 18, t.regFailMask)]
  else if off = 0x500010 then pack [(0, 16, t.ppsDelay), (16, 16, t.barDelay)]
  else if off = 0x500020 then t.seconds
  else if off = 0x500028 then pack [(0, 48, b.startPass), (48, 4, b.hops), (52, 1, b2n b.pin), (53, 1, b2n b.repeat_)]
  else if off = 0x500030 then pack [(0, 32, b.nextId), (32, 32, b.pendingId)]
  else if off = 0x500048 then t.mark
  else 0

/-- PWR_STAGE.STALLED and CAUSE: a stall, or what the stage waits for (15 R390, R393, R394). -/
def stageView (s : State) : Nat × Nat :=
  let t := s.start
  if t.stalled then (1, t.cause)
  else if t.stage = 0 then (if t.stage0Done then (1, if vinSteady s then 2 else 3) else (0, 0))
  else if t.stage = 2 then (if s.fsh.stalled then (1, 7) else (0, 0))
  else if t.stage = 4 then (if s.plt.st == .sealed || s.plt.st == .loading then (0, 0) else (1, 9))
  else if t.stage = 5 then (if timState s != 2 || s.time.reg then (1, 10) else (0, 0))
  else (0, 0)

/-- PWR_ and THM_ (15 R409). -/
def readPwr (off : Nat) (s : State) : Nat :=
  let p := s.pwr
  let c := s.cool
  if off = 0x600000 then
    let v := stageView s
    pack [(0, 3, s.start.stage), (3, 1, v.1), (4, 4, v.2), (8, 8, s.start.failedStacks), (16, 1, b2n p.hold),
      (17, 6, p.holdCause), (32, 32, s.start.nodeStrokes / msStrokes)]
  else if off = 0x600010 then pack [(0, 12, p.cap), (16, 12, p.capEff)]
  else if off = 0x600018 then pack [(0, 16, p.pPass), (16, 16, p.pSec), (32, 16, p.vin), (48, 16, p.iin)]
  else if off = 0x600020 then pack ((List.range 6).map (fun st => (4 * st, 4, clockLevel st s)) ++ [(24, 4, p.demand)])
  else if off = 0x600028 then
    pack [(0, 8, p.portDown), (8, 1, b2n p.flashDown), (16, 8, c.portPend), (24, 1, b2n c.flashPend)]
  else if off = 0x600030 then p.ggate.toNat % 2 ^ 64
  else if off = 0x600038 then p.ggate.toNat / 2 ^ 64
  else if off = 0x600040 then p.ggatePend.toNat % 2 ^ 64
  else if off = 0x600048 then p.ggatePend.toNat / 2 ^ 64
  else if off = 0x601000 then pack ((List.range 8).map fun st => (8 * st, 8, int8 (stackHeat st s).temp))
  else if off = 0x601008 then
    pack ((List.range 6).map (fun st => (8 * st, 8, int8 (stackHeat st s).junction)) ++ [(48, 8, int8 p.hubJunction)])
  else if off = 0x601010 then pack ((List.range 8).map fun st => (3 * st, 3, bandRank (stackHeat st s).band))
  else if off = 0x601018 then
    pack [(0, 8, c.inTop), (8, 8, c.outTop), (16, 8, c.inBot), (24, 8, c.outBot), (32, 16, c.flowTop), (48, 16, c.flowBot)]
  else 0

/-- FLT_ and EVT_ (16 R438). -/
def readFlt (off : Nat) (s : State) : Nat :=
  let f := s.flt
  if off = 0x700000 then pack [(0, 16, f.lastCode), (16, 24, f.lastUnit), (40, 16, (ueRecent s).length)]
  else if off = 0x700010 then f.fencedG.toNat % 2 ^ 64
  else if off = 0x700018 then f.fencedG.toNat / 2 ^ 64
  else if off = 0x700020 then
    pack [(0, 8, f.fencedPorts), (8, 8, f.fencedStacks), (16, 16, f.fencedChannels), (32, 1, b2n f.fencedCollator)]
  else if off = 0x700030 then f.wearSel
  else if off = 0x700038 then
    let w : Wear := look {} f.wear f.wearSel
    pack [(0, 16, w.score), (16, 1, b2n w.warn), (32, 16, w.peak)]
  else if off = 0x700040 then f.recon
  else if off = 0x701000 then f.seq
  else if off = 0x701008 then f.evtIndex
  else if 0x701010 ≤ off ∧ off < 0x701050 then u f.evtData (off - 0x701010) 8
  else if off = 0x701050 then pack [(0, 7, f.fifo.length), (8, 7, f.fifoPeak), (32, 32, f.lostSinceRead)]
  else if 0x701058 ≤ off ∧ off < 0x701078 then
    pack ((List.range 4).map fun k => (16 * k, 16, look 0 f.fold (4 * ((off - 0x701058) / 8) + k)))
  else 0

/-- TEL_ (17 R455). -/
def readTel (off : Nat) (s : State) : Nat :=
  let t := s.tel
  let c := t.snap
  if off = 0x800000 ∨ off = 0x8000C0 then t.seq
  else if off = 0x800008 then pack [(0, 48, t.pass), (48, 16, t.passes)]
  else if off = 0x800010 then pack [(0, 32, c.admitted), (32, 32, c.bestEffort)]
  else if off = 0x800018 then pack [(0, 32, c.imprSent), (32, 32, c.refused)]
  else if off = 0x800020 then pack [(0, 32, c.slipResults), (32, 32, c.droppedTokens)]
  else if off = 0x800028 then pack [(0, 32, c.lookups), (32, 32, c.portCmds)]
  else if off = 0x800030 then pack [(0, 16, t.pAvg), (16, 4, c.levelMax)]
  else if 0x800040 ≤ off ∧ off < 0x800070 then
    let st := (off - 0x800040) / 8
    pack [(0, 20, look 0 c.busy st), (20, 20, look 0 c.claimed st), (40, 13, look 0 c.refresh st)]
  else if 0x800080 ≤ off ∧ off < 0x8000C0 then
    let p := (off - 0x800080) / 8
    pack [(0, 32, look 0 c.tx p), (32, 32, look 0 c.rx p)]
  else if off = 0x800100 then pack [(0, 16, t.dirLaps), (16, 16, t.retrains), (32, 16, t.adapts), (48, 16, t.flashMaint)]
  else if 0x800140 ≤ off ∧ off < 0x800180 then
    let st := (off - 0x800140) / 8
    pack [(0, 21, look 0 t.patrol st), (32, 16, look 0 t.laps st)]
  else 0

/-- TRU_ (14 R387). -/
def readTru (off : Nat) (s : State) : Nat :=
  let t := s.tru
  let parts := (t.scrubs.filter fun x => !x.tenantScope).map (·.id)
  if off = 0x900008 then pack [(0, 1, b2n t.busy), (8, 8, t.code), (16, 8, t.reason), (24, 12, t.respLen)]
  else if off = 0x900010 then
    pack [(0, 4, t.lifecycle), (4, 1, b2n t.idOk), (5, 1, b2n t.fwOk), (8, 8, t.svnTc), (16, 8, t.svnHub)]
  else if off = 0x900020 then maskOf 64 fun i => assigned i s
  else if off = 0x900028 then maskOf 64 fun i => assigned (64 + i) s
  else if off = 0x900030 then maskOf 64 fun i => parts.contains i
  else if off = 0x900038 then maskOf 64 fun i => parts.contains (64 + i)
  else if off = 0x900040 then
    let pend := (t.scrubs.filter (·.tenantScope)).length
    match t.scrubs.find? (·.running) with
    | some x =>
      pack [(0, 1, 1), (1, 1, b2n x.tenantScope), (2, 10, x.id), (12, 3, x.step), (15, 1, b2n t.scrubFailed), (32, 16, pend)]
    | none => pack [(15, 1, b2n t.scrubFailed), (32, 16, pend)]
  else if 0x901000 ≤ off ∧ off < 0x902000 then memNat s.mem.mbxReq (off - 0x901000) 8
  else if 0x902000 ≤ off then memNat s.mem.mbxResp (off - 0x902000) 8
  else 0

/-- FSH_ (07 R208). -/
def readFsh (off : Nat) (s : State) : Nat :=
  let f := s.fsh
  if off = 0xA00000 then
    pack [(0, 2, fshMode s), (2, 1, b2n f.mounted), (3, 1, b2n f.stalled), (4, 4, f.cause), (32, 16, f.trMax)]
  else if off = 0xA00008 then pack [(0, 32, f.rawBytes / 2 ^ 30), (32, 32, f.usableGib)]
  else if 0xA00020 ≤ off ∧ off < 0xA000A0 then
    let c := (off - 0xA00020) / 8
    pack [(0, 8, look 0 f.present c), (8, 8, look 0 f.excluded c)]
  else 0

/-- The fields of a register that are not event counters, at an offset of PF0's BAR0 (R454); elsewhere zero (R13). -/
def regFields (off : Nat) (s : State) : Nat :=
  if off < 0x8000 then readHub off s
  else if 0x10000 ≤ off ∧ off < 0x20340 then readQueue off s
  else if 0x100000 ≤ off ∧ off < 0x160000 then readGraver off s
  else if 0x200000 ≤ off ∧ off < 0x20D800 then readDir off s
  else if 0x300000 ≤ off ∧ off < 0x300800 then readPort off s
  else if 0x301000 ≤ off ∧ off < 0x314000 then readTfx off s
  else if 0x400000 ≤ off ∧ off < 0x4000A0 then readPlt off s
  else if 0x40E000 ≤ off ∧ off < 0x40F018 then readSch off s
  else if 0x500000 ≤ off ∧ off < 0x500050 then readTim off s
  else if 0x600000 ≤ off ∧ off < 0x601028 then readPwr off s
  else if 0x700000 ≤ off ∧ off < 0x701078 then readFlt off s
  else if 0x800000 ≤ off ∧ off < 0x800180 then readTel off s
  else if 0x900000 ≤ off ∧ off < 0x903000 then readTru off s
  else if 0xA00000 ≤ off ∧ off < 0xA000A0 then readFsh off s
  else 0

/-- What the 64-bit register at an aligned offset of PF0's BAR0 reads. -/
def regValue (off : Nat) (s : State) : Nat := (regFields off s + ctrWord off s) % 2 ^ 64

/-! ### What a read clears (R8, R10, R12) -/

/-- The RC fields of a register are cleared: of its low half, its high half, or both. HUB_COL_MERGES is no RC field. -/
def clearRc (off : Nat) (lo hi : Bool) (s : State) : State :=
  let gone := fun k : Nat => k / 64 == off && off != 0x1410 && (if k % 64 < 32 then lo else hi)
  let s := { s with ctr := s.ctr.filter fun x => !gone x.1 }
  if off = 0x40F010 ∧ lo then { s with sch.peak := 0 }
  else if off = 0x700038 ∧ hi then
    let w : Wear := look {} s.flt.wear s.flt.wearSel
    { s with flt.wear := put {} s.flt.wear s.flt.wearSel { w with peak := 0 } }
  else if off = 0x701050 then
    { s with flt.fifoPeak := if lo then 0 else s.flt.fifoPeak, flt.lostSinceRead := if hi then 0 else s.flt.lostSinceRead }
  else if 0x300000 ≤ off ∧ off < 0x300800 ∧ off % 0x100 = 0x58 ∧ hi then
    let p := (off - 0x300000) / 0x100
    setFport p { fport p s with smoothPeak := 0 } s
  else s

/-! ### Views (13 R343; 14 R377) -/

/-- The offset in PF0's BAR0 of the register that a function reaches at an aligned offset of its own. -/
def viewOff (f off : Nat) (s : State) : Option Nat :=
  if f = 0 then (if off < 0x4000000 then some off else none)
  else if off < 0x140 then some (queueOff f (off / 0x40) + off % 0x40)
  else match fnPart f s with
    | some p =>
      if 0x1000 ≤ off ∧ off < 0x1080 then some (0x201000 + p * 0x80 + (off - 0x1000))
      else if 0x2000 ≤ off ∧ off < 0x2080 then some (0x310000 + 2 * p * 0x40 + (off - 0x2000))
      else none
    | none => none

/-- The partition whose directory port or rings lie at an offset of PF0's BAR0. -/
def portOwner (off : Nat) : Option Nat :=
  if 0x201000 ≤ off ∧ off < 0x205000 then some ((off - 0x201000) / 0x80)
  else if 0x310000 ≤ off ∧ off < 0x314000 then some ((off - 0x310000) / 0x80)
  else none

/-- PF0's view of an assigned partition's directory port and rings. -/
def hiddenFrom (f off : Nat) (s : State) : Bool :=
  f == 0 && match portOwner off with
    | some p => assigned p s
    | none => false

/-- The register a function reaches, where it reaches one. -/
def reached (f off : Nat) (s : State) : Option Nat :=
  match viewOff f off s with
  | some o => if hiddenFrom f o s then none else some o
  | none => none

/-! ### Reads -/

/-- The latch of a register's high half ends once that half is read (R12). -/
def endLatch (f off : Nat) (s : State) : State :=
  if s.host.latch.any fun x => x.1 == f && x.2.1 == off then { s with host.latch := none } else s

/-- A 64-bit read: its value, and the state with the RC fields cleared and no latch left of the register. -/
def readWhole (f off : Nat) (s : State) : Nat × State :=
  match reached f off s with
  | some o => (regValue o s, clearRc o true true (endLatch f off s))
  | none => (0, s)

/-- A 32-bit read of a low half latches the high half. -/
def readLow (f off : Nat) (s : State) : Nat × State :=
  let r := readWhole f off s
  let latch := some (f, off, r.1 / 2 ^ 32)
  (r.1 % 2 ^ 32, { r.2 with host.latch := latch })

/-- A 32-bit read of a high half: the latch for it, or the current value. -/
def readHigh (f off : Nat) (s : State) : Nat × State :=
  match s.host.latch with
  | some (g, o, v) =>
    if g = f ∧ o = off then (v, { s with host.latch := none })
    else match reached f off s with
      | some o => (regValue o s / 2 ^ 32, clearRc o false true s)
      | none => (0, s)
  | none =>
    match reached f off s with
    | some o => (regValue o s / 2 ^ 32, clearRc o false true s)
    | none => (0, s)

/-- An access that is narrower or not aligned (R13). -/
def badAccess (off width : Nat) : Bool := !((width == 4 && off % 4 == 0) || (width == 8 && off % 8 == 0))

/-- UNALIGNED_ACCESS: all-ones for a read, nothing for a write, and an event. -/
def execUnalignedAccessState (f off width : Nat) (write : Bool) (s : State) : State :=
  let s := logEvent clRegister 0x01 unitNode (leBytes 4 off ++ leBytes 1 width ++ leBytes 1 (b2n write) ++ leBytes 2 f) s
  if write then s else emit (.readData (BitVec.ofNat 64 (2 ^ (8 * min width 4) - 1)) width) s

/-- RC_FIELD_READ: a read of a register, which clears its RC fields. -/
def execRcFieldReadState (f off width : Nat) (s : State) : State :=
  if badAccess off width then execUnalignedAccessState f off width false s
  else
    let r := if width = 8 then readWhole f off s else if off % 8 = 0 then readLow f off s else readHigh f (off - 4) s
    emit (.readData (BitVec.ofNat 64 r.1) width) r.2

/-! ### Writes -/

/-- A write of one or both halves of a register, with the other half zero in `v`. -/
structure WriteData where
  lo : Bool
  hi : Bool
  v : Nat
  deriving DecidableEq, Repr

/-- An RW register's new value: the halves written replace the old ones. -/
def WriteData.over_ (w : WriteData) (old : Nat) : Nat :=
  (if w.lo then w.v % 2 ^ 32 else old % 2 ^ 32) + (if w.hi then w.v / 2 ^ 32 else old / 2 ^ 32) * 2 ^ 32

/-- A write to an RWL field after a plate has sealed: the field stays, and the event is logged (R11). -/
def lockedWrite (off : Nat) (w : WriteData) (s : State) : State :=
  logEvent clRegister 0x02 unitNode (leBytes 4 off ++ leBytes 4 0 ++ leBytes 8 w.v) s

/-- A command written to CMD (03 R80): ignored while BUSY reads 1; an unknown OP is refused. -/
def writeDirCmd (n v : Nat) (s : State) : State :=
  let p := dirPort n s
  let op := v % 16
  if p.busy then s
  else if op = 0 ∨ 9 < op then setPort n { p with reason := 1, code := stMalformed } s
  else setPort n { p with busy := true, cmd := some ⟨op, field v 16 18, p.key, p.mask, p.data⟩ } s

/-- A register of a partition's port is written. -/
def writeDirPort (n r : Nat) (w : WriteData) (s : State) : State :=
  let p := dirPort n s
  let x := w.over_ (readDirPort n r s)
  let wide := fun (old : BitVec 80) (hi : Bool) =>
    if hi then BitVec.ofNat 80 (old.toNat % 2 ^ 64 + x % 2 ^ 16 * 2 ^ 64) else BitVec.ofNat 80 (old.toNat / 2 ^ 64 * 2 ^ 64 + x)
  if r = 0x00 then setPort n { p with key := wide p.key false } s
  else if r = 0x08 then setPort n { p with key := wide p.key true } s
  else if r = 0x10 then setPort n { p with mask := wide p.mask false } s
  else if r = 0x18 then setPort n { p with mask := wide p.mask true } s
  else if r = 0x20 then setPort n { p with data := BitVec.ofNat 48 x } s
  else if r = 0x28 then writeDirCmd n w.v s
  else s

/-- A register of a ring is written. A base that is not a multiple of 4,096 is rounded down (DESIGN CHOICE,
notes/assumptions/117.md), and ENABLE holds only with a SIZE_LOG2 of 6 to 16. -/
def writeRing (n r : Nat) (w : WriteData) (s : State) : State :=
  let v := ring n s
  let x := w.over_ (readRing n r s)
  if r = 0x00 then setRing n { v with bufBase := x / 4096 * 4096 } s
  else if r = 0x08 then setRing n { v with cplBase := x / 4096 * 4096 } s
  else if r = 0x10 then
    let size := x % 32
    let on := bit x 8 && decide (6 ≤ size ∧ size ≤ 16)
    let s := if v.enable && !on then disableRing s n else s
    setRing n { ring n s with sizeLog2 := size, enable := on } s
  else if r = 0x18 then execPostState n x [] s
  else if r = 0x20 then execReclaimState n w.v s
  else s

/-- GO runs the request that stands in TRU_MBX_REQ (14 R371; 17 R446). A graver of the model gives the known answer. -/
def mailboxGo (s : State) : State :=
  let cmd := mbxCmd s
  if cmd = 0x0101 then mailbox cmd (· == 3) (offerKey .mailbox) s
  else if cmd = 0x0102 then mailbox cmd (· == 100) (acceptKey .mailbox) s
  else if cmd = 0x0103 then mailbox cmd (· == 3) (eraseKey .mailbox) s
  else if cmd = 0x0110 then execScrubState s
  else if cmd = 0x0120 then execFuseSvnState s
  else if cmd = 0x0130 then execCurveMultState s
  else if cmd = 0x0140 then execUnfenceState true s
  else if cmd = 0x0150 then execB2WriteState s
  else if cmd = 0x0151 then execB2ReadState s
  else if !trustUp s || s.tru.busy then s
  else mbxRefuse 1 s

/-- The bits of a control register act in ascending order. -/
def actOn (v : Nat) (acts : List (Nat × (State → State))) (s : State) : State :=
  acts.foldl (fun s a => if bit v a.1 then a.2 s else s) s

/-- Writes of the HUB_, CQ_, DIR_, PRT_ and TFX_ blocks, HUB_B2MAP apart. -/
def writeHub (off : Nat) (w : WriteData) (s : State) : State :=
  if off = 0x2010 then
    (if w.lo then { s with host.linkBPart := w.v % 128, host.linkBValid := bit w.v 7 } else s)
  else if 0x4000 ≤ off ∧ off < 0x8000 then
    let i := (off - 0x4000) / 16
    let x := w.over_ (readHub off s)
    let r := rwin i s
    let r := if off % 16 = 0 then { r with conn := x % 65536, valid := bit x 16, watch := bit x 17, rkey := x / 2 ^ 32 }
      else { r with base := x }
    { s with host.rwins := put {} s.host.rwins i r }
  else if 0x10000 ≤ off ∧ off < 0x20340 then
    let i := (off - 0x10000) / 0x40
    if 5 ≤ i % 8 then s
    else if off % 0x40 = 0 then execCqDoorbellState (i / 8) (i % 8) (BitVec.ofNat 64 w.v) [] s
    else if off % 0x40 = 8 ∧ w.lo then execCqEnableState (i / 8) (i % 8) (bit w.v 7) s
    else s
  else if 0x201000 ≤ off ∧ off < 0x205000 then writeDirPort ((off - 0x201000) / 0x80) (off % 0x80) w s
  else if 0x300000 ≤ off ∧ off < 0x300800 ∧ off % 0x100 = 8 ∧ w.lo then
    let p := (off - 0x300000) / 0x100
    let s := if s.plt.everSealed then lockedWrite off w s else setFport p { fport p s with anOff := bit w.v 0 } s
    execPrtCtrlRetrainState p (field w.v 4 4) s
  else if off = 0x301020 then { s with tfx.connSel := w.over_ s.tfx.connSel % 65536 }
  else if 0x301100 ≤ off ∧ off < 0x301140 then
    let p := (off - 0x301100) / 8
    if s.plt.everSealed then lockedWrite off w s
    else { s with tfx.nextHop := put 0 s.tfx.nextHop p (w.over_ (look 0 s.tfx.nextHop p) % 2 ^ 48) }
  else if 0x310000 ≤ off ∧ off < 0x314000 then writeRing ((off - 0x310000) / 0x40) (off % 0x40) w s
  else s

/-- Writes of the PLT_, TIM_, PWR_, FLT_, EVT_, TRU_ and FSH_ blocks. -/
def writeNode (off : Nat) (w : WriteData) (s : State) : State :=
  let x := w.over_ (regFields off s)
  if off = 0x400000 then
    actOn w.v [(0, execPltLoadState []), (1, execPltSealState), (2, execPltArmState), (3, execPltCommitState), (4, execPltAbortState)] s
  else if off = 0x400008 then { s with plt.loadAddr := x }
  else if off = 0x400010 then { s with plt.loadLen := x % 2 ^ 27 }
  else if off = 0x400020 then { s with plt.boundary := x % 2 ^ 48 }
  else if off = 0x500010 then { s with time.ppsDelay := x % 65536, time.barDelay := field x 16 16 }
  else if off = 0x500018 then actOn w.v [(0, execSetSecondsState), (1, execReregState), (2, execTimCtrlBarrierState)] s
  else if off = 0x500020 then { s with time.seconds := x }
  else if off = 0x500028 then
    driveBarrier { s with bar.startPass := x % 2 ^ 48, bar.hops := field x 48 4, bar.pin := bit x 52, bar.repeat_ := bit x 53 }
  else if off = 0x500030 then { s with bar.nextId := x % 2 ^ 32 }
  else if off = 0x600008 then
    actOn w.v [(0, execPwrCtrlSkipState), (1, execHoldEnterState), (2, execHoldExitState), (3, execRestartState), (4, execOffState)] s
  else if off = 0x600010 then (if w.lo then execCapState (w.v % 4096) s else s)
  else if off = 0x600028 then (if w.lo then execPwrGateState (w.v % 256) (bit w.v 8) s else s)
  else if off = 0x600030 then execPwrGgateReqState 0 (BitVec.ofNat 64 x) s
  else if off = 0x600038 then execPwrGgateReqState 1 (BitVec.ofNat 64 x) s
  else if off = 0x700028 then actOn w.v [(0, execClearUeState), (1, execClearOtherState)] s
  else if off = 0x700030 then { s with flt.wearSel := x % 2 ^ 24 }
  else if off = 0x701008 then (if w.lo then execEvtSelState (w.v % 2 ^ 20) s else s)
  else if off = 0x900000 then (if bit w.v 0 then mailboxGo s else s)
  else if 0x901000 ≤ off ∧ off < 0x902000 then
    let a := off - 0x901000
    let m := if w.lo then memWrite s.mem.mbxReq a (leBytes 4 (w.v % 2 ^ 32)) else s.mem.mbxReq
    { s with mem.mbxReq := if w.hi then memWrite m (a + 4) (leBytes 4 (w.v / 2 ^ 32)) else m }
  else if off = 0xA00018 then (if bit w.v 0 then execFshCtrlSkipState s else s)
  else s

/-- A write of the register at an aligned offset of PF0's BAR0. -/
def regWrite (off : Nat) (w : WriteData) (s : State) : State :=
  if 0x2100 ≤ off ∧ off < 0x2300 then
    let bs := leBytes 8 w.v
    let p := off - 0x2100
    if w.lo && w.hi then mapBytes p bs s
    else if w.lo then mapBytes p (bs.take 4) s
    else mapBytes (p + 4) (bs.drop 4) s
  else if off < 0x400000 then writeHub off w s
  else writeNode off w s

/-- A function writes a register that it reaches. -/
def fnWrite (f off : Nat) (w : WriteData) (s : State) : State :=
  match reached f off s with
  | some o => regWrite o w s
  | none => s

/-- REGISTER_WRITE. -/
def execRegisterWrite (f off width : Nat) (value : BitVec 64) (s : State) : Host.Outcome State Fault Refusal :=
  let v := value.toNat
  if badAccess off width then .next (execUnalignedAccessState f off width true s)
  else if width = 8 then .next (fnWrite f off ⟨true, true, v⟩ s)
  else if off % 8 = 0 then .next (fnWrite f off ⟨true, false, v % 2 ^ 32⟩ s)
  else .next (fnWrite f (off - 4) ⟨false, true, v % 2 ^ 32 * 2 ^ 32⟩ s)

/-! ### Register requests over MCTP (17 R443 to R445) -/

/-- The first vendor-defined message that waits on a binding, of REG_WRITE's command or of any other. -/
def regMessage (b : Binding) (write : Bool) (s : State) : Option (List Byte) :=
  (s.mgmt.messages.find? fun m => m.1 == bindingNum b && u m.2 0 1 == 0x7E && (u m.2 3 1 == 2) == write).map (·.2)

/-- The request is refused whole. -/
def regRefused (p : List Byte) : Bool :=
  let cmd := u p 0 1
  let n := u p 2 2
  let off := u p 4 4
  u p 1 1 != 0 || !(cmd == 1 || cmd == 2) || off % 8 != 0 || n == 0 || decide (64 < n) || decide (0x4000000 < off + 8 * n) ||
    p.length != (if cmd = 2 then 8 + 8 * n else 8)

/-- The trust core answers for a register before stage 1 has ended. -/
def earlyReg (off : Nat) : Bool :=
  decide (off < 0x1000) || decide (0x900000 ≤ off ∧ off < 0x903000) || off == 0x600000 || off == 0x601018 || off == 0x601020

def regDead (p : List Byte) (s : State) : Bool :=
  !hubUp s && (List.range (u p 2 2)).any fun i => !earlyReg (u p 4 4 + 8 * i)

/-- A register response: the vendor identifier, the command with bit 7 set, a status, the registers completed, the offset and
the data. -/
def regAnswer (b : Binding) (m : List Byte) (status done : Nat) (data : List Byte) (s : State) : State :=
  let p := m.drop 3
  emit (.mctp (bindingNum b)
    (m.take 3 ++ leBytes 1 (u p 0 1 % 128 + 128) ++ leBytes 1 status ++ leBytes 2 done ++ sub p 4 4 ++ data)) s

/-- The words of a REG_READ, in ascending order. -/
def readWords : Nat → Nat → State → List Byte × State
  | 0, _, s => ([], s)
  | n + 1, off, s =>
    let r := readWhole 0 off s
    let t := readWords n (off + 8) r.2
    (leBytes 8 r.1 ++ t.1, t.2)

/-- The words of a REG_WRITE, in ascending order. -/
def writeWords : Nat → Nat → List Byte → State → State
  | 0, _, _, s => s
  | n + 1, off, bs, s => writeWords n (off + 8) (bs.drop 8) (fnWrite 0 off ⟨true, true, u bs 0 8⟩ s)

/-- A message leaves the waiting ones. -/
def dropMessage (b : Binding) (m : List Byte) (s : State) : State :=
  { s with mgmt.messages := s.mgmt.messages.erase (bindingNum b, m) }

/-- REG_READ. -/
def execRegReadState (b : Binding) (s : State) : State :=
  match if trustUp s then regMessage b false s else none with
  | none => s
  | some m =>
    let s := dropMessage b m s
    let p := m.drop 3
    if regRefused p then regAnswer b m stMalformed 0 [] (countEvent cRegRefused unitNode s)
    else if regDead p s then regAnswer b m stTargetDead 0 [] s
    else
      let r := readWords (u p 2 2) (u p 4 4) s
      regAnswer b m stOk (u p 2 2) r.1 r.2

/-- REG_WRITE: the response follows the last word's effect. -/
def execRegWrite (b : Binding) (s : State) : Host.Outcome State Fault Refusal :=
  match if trustUp s then regMessage b true s else none with
  | none => .next s
  | some m =>
    let s := dropMessage b m s
    let p := m.drop 3
    if regRefused p then .next (regAnswer b m stMalformed 0 [] (countEvent cRegRefused unitNode s))
    else if regDead p s then .next (regAnswer b m stTargetDead 0 [] s)
    else .next (regAnswer b m stOk (u p 2 2) [] (writeWords (u p 2 2) (u p 4 4) (p.drop 8) s))

/-! ### The commands -/

def execRcFieldRead (f off width : Nat) (s : State) : Host.Outcome State Fault Refusal := .next (execRcFieldReadState f off width s)
def execUnalignedAccess (f off width : Nat) (write : Bool) (s : State) : Host.Outcome State Fault Refusal :=
  .next (execUnalignedAccessState f off width write s)
def execRegRead (b : Binding) (s : State) : Host.Outcome State Fault Refusal := .next (execRegReadState b s)

end Sys2Proof.Machine
end

