-- ==== Sys2Proof/Machine/Stages.lean ====
section
/-! DEFINITION. The order in which the stages of the hub take its free resources, and the dispatch of best-effort requests, which
comes last in it (16_faults_and_recovery.md R428; 05_attention_requests.md R126, R127). What it is to wait for space is said in
notes/assumptions/118.md. -/

namespace Sys2Proof.Machine

/-- A class-0 frame stands ready on a port and finds no byte of the stroke: neither credit nor free budget, or no lane. -/
def classZeroWaits (s : State) : Bool :=
  (List.range 8).any fun p => portWorks p s && (!freeBudget p s || (laneFor p s).isNone) &&
    (cands p (fun c => carrier c s == some p) s).any fun x =>
      x.cls == 0 && (look 0 (fport p s).credit (x.conn * 8) < x.size || (laneFor p s).isNone)

/-- A source of a dispatched request stands at the collator and is not merged. -/
def collatorWaits (s : State) : Bool :=
  s.sch.entries.any fun e => !e.arrivals.isEmpty &&
    ((e.req.bind fun id => reqFind id s).map (·.phase)) == some .dispatched

/-- A finished impression of best-effort work stands on its graver: planned work has its chain line. -/
def outputWaits (s : State) : Bool :=
  s.gravers.any fun x => x.2.finished.any fun f => ((reqFind f.1 s).map (·.bestEffort)) == some true

/-- A stage above admission waits for space. -/
def higherStageWaits (s : State) : Bool := classZeroWaits s || collatorWaits s || outputWaits s

/-- BEST_EFFORT_DISPATCH: the head of the queue is dispatched when free strokes in a row on every graver it needs cover that
graver's share, collator buffer is free (05_attention_requests.md R126, R127), and no higher stage waits (R428). A request with
no source closes at once. -/
def execBestEffortDispatchState (p : Nat) (ue : List Nat) (s : State) : State :=
  match if heldPart p s || higherStageWaits s then none else headReady p s with
  | none => s
  | some r =>
    let us := allPages r ue s
    let work := workOf r us s
    let fits := work.all fun x => graverOpen x.1 (shareStrokes s.mgmt.grade r.hdr r.geo x.2) s
    if !fits || !bufferFree r s then s
    else
      let s := deliver r us (extentErrors r ue { s with sch.queues := upd [] s.sch.queues p fun q => q.drop 1 })
      let s := { countEvent cBestEffort unitNode s with tel.live.bestEffort := sat32 (s.tel.live.bestEffort + 1) }
      let s := (work.map (·.1)).foldl (startBestEffort r.id) s
      match reqFind r.id s, entryFind r.id s with
      | some r, some e => if bestEffortDone r e s then closeEntry r e s else s
      | _, _ => s

def execBestEffortDispatch (p : Nat) (ue : List Nat) (s : State) : Host.Outcome State Fault Refusal :=
  .next (execBestEffortDispatchState p ue s)

end Sys2Proof.Machine
end

