-- ==== Sys2Proof/Machine/Strobe.lean ====
section
/-! DEFINITION. The strobe: what ends with a stroke and what a stroke boundary and a pass boundary bring of themselves
(09_strokes_and_passes.md R240, R241, R248, R249, R257; 10_registration_and_time.md R271; 11_fabric_ports.md R289, R295, R296). -/

namespace Sys2Proof.Machine

/-! ### The stroke that ends -/

/-- A graver island departs from its lines in the stroke (R257): counted once, by its cause. -/
def departIsland (s : State) (isl : Nat) : State :=
  if thermalDeparts isl s then countEvent cThermalSlip (unitStack isl) { s with sch.slipNow := true }
  else if delayedWork isl false s then countEvent cOverrunSlip (unitStack isl) { s with sch.slipNow := true }
  else s

/-- Gravers of a stack with a block open in the stroke, and those inside one of its WINDOW lines. -/
def busyGravers (st : Nat) (s : State) : Nat :=
  (s.gravers.filter fun x => x.1 / 16 == st && (x.2.busy || x.2.block.isSome)).length
def claimedGravers (st : Nat) (s : State) : Nat :=
  let ls := (linesOf st s).filter fun x => x.2.op == opWindow && x.2.claims (cycleLen (progOf st s)) (strokeCount s) 0
  ((List.range 16).filter fun e => ls.any fun x => bit x.2.gmask e).length

/-- Telemetry of the stroke (17_management_and_registers.md R452): 20-bit counts. -/
def telStroke (s : State) : State :=
  let add := fun (f : Nat → State → Nat) (m : Store Nat) =>
    (List.range 6).foldl (fun m st => upd 0 m st fun n => min 0xFFFFF (n + f st s)) m
  { s with
    tel.live.busy := add busyGravers s.tel.live.busy
    tel.live.claimed := add claimedGravers s.tel.live.claimed
    tel.live.levelMax := ((List.range 6).map fun st => clockLevel st s).foldl max s.tel.live.levelMax
    gravers := mapStore {} (fun gv => { gv with busy := false }) s.gravers }

/-- Wire bytes that a lane sends in a stroke: 200 Gb/s, half of it in MODE 5, and four lanes' worth of a four-lane link. -/
def laneDrain (mode : Nat) : Nat := if mode = 5 then 3125 else if bonded mode then 6250 else 25000

/-- The end of a stroke on a port (R295 to R297): what step 2 spent beyond the stroke's free budget is carried on, credit of
empty queues is lost, and the lanes have sent what they can. The stretch of a lane loss begins with the next stroke (R289). -/
def portStroke (s : State) (p : Nat) : State :=
  let v := fport p s
  let credit := v.credit.filter fun x => queueHolds p (x.1 / 8) (x.1 % 8) s
  let room := portCapacity p s - v.granted
  let drain := laneDrain (portMode p s)
  let lanes := v.lanes.map fun l => { l with queued := l.queued - drain }
  setFport p { v with
    credit := credit, deficit := v.spent + v.deficit - room, granted := 0, spent := 0, lanes := lanes
    sends := v.sends.filter fun r => r.done < r.runLen
    stretched := v.stretched || v.stretchPending, stretchPending := false } s

/-- The master's pulse ends 16 strokes after it began (10_registration_and_time.md R276). -/
def barrierFalls (s : State) : State :=
  match s.bar.outLow with
  | some t => if t ≤ s.time.elapsed + 1 then driveBarrier { s with bar.outLow := none } else s
  | none => s

/-- Delayed work on an island under thermal protection is delayed by it (R254). -/
def heatDelayed (s : State) : State :=
  { s with gravers := s.gravers.map fun x =>
      if x.2.delayed && thermalActive (x.1 / 16) s then (x.1, { x.2 with heated := true }) else x }

/-- Frames that have left their lanes give their keys' ranks back (14_trust_and_isolation.md R369). -/
def releaseRanks (s : State) : State :=
  if s.tru.latches.isEmpty then s
  else
    let left := fun x : KeyLatch => min (x.left - laneDrain (portMode x.port s)) (laneQueued x.port x.lane s)
    endLatches ((s.tru.latches.map fun x => { x with left := left x }).filter fun x => x.left != 0) s

/-- What ends with the stroke. -/
def endStroke (s : State) : State :=
  barrierFalls (releaseRanks
    ((s.ports.map (·.1)).foldl portStroke (telStroke ((List.range 6).foldl departIsland (heatDelayed s)))))

/-! ### Node time (15_start_power_cooling.md R393) -/

/-- The node waits for an outside party, or has stalled. -/
def waitsOutside (s : State) : Bool :=
  s.start.stalled || s.fsh.stalled ||
    (match s.start.stage with
     | 0 => s.start.stage0Done && (s.start.vinSince.isNone || s.cool.warn)
     | 4 => s.plt.st != .loading && s.plt.st != .sealed
     | 5 => s.time.lock == .free || s.time.lock == .acquiring || (s.time.reg && s.time.run != 2)
     | _ => false)

/-- Node time counts from VAUX_3V3 in range to full function. -/
def countsNodeTime (s : State) : Bool := s.start.vaux && s.start.sysRst && decide (s.start.stage < 6) && !waitsOutside s

/-! ### The stroke that opens -/

/-- The next stroke boundary of the time base. -/
def nextBoundary (now : Nat) : Nat := now / strokeNs * strokeNs + strokeNs

/-- Every graver island follows the larger of the two demands from its strobe on (15 R396). -/
def followDemand (s : State) (st : Nat) : State :=
  let h := stackHeat st s
  setHeat st { h with level := max s.pwr.demand h.demand } s

/-- Issue cycles of the directory that the stroke has without a line (R248, R249): all of them under the built-in schedule
and in hold mode, 64 of them then for the patrol, which covers 4,096 entries in a pass (03_page_directory.md R77). -/
def openCycles (s : State) : State :=
  { s with
    dir.nodeRanges := [], dir.portRanges := []
    dir.patrolCycles := if dirOpen s then 64 else 0
    dir.freeCycles := if dirOpen s then 436 else spareCycles (strokeCount s) s }

/-- Staging reads issue on the links that no line claims. -/
def stageFreeLinks (s : State) : State :=
  (List.range 6).foldl (fun s st => if linkFree st (strokeCount s) s then issueStaging st s else s) s

/-- The strobe itself: time moves to the next boundary, and what belonged to the stroke before is cleared. -/
def openStroke (s : State) : State :=
  let s := { s with
    start.nodeStrokes := if countsNodeTime s then s.start.nodeStrokes + 1 else s.start.nodeStrokes
    time.elapsed := s.time.elapsed + 1
    time.now := if s.time.counting then nextBoundary s.time.now else s.time.now }
  let st := strokeCount s
  let extra := s.sch.extraRefresh.filter fun x => st ≤ x.2
  let closed := s.sch.closed.filter fun x => passNow s < x.2.2 + 64
  let s := { s with
    sch.applied := [], sch.checks := 0, sch.extraRefresh := extra, sch.closed := closed
    sch.slotTaken := s.sch.slotTaken.filter fun x => st ≤ x.2
    res.linkUse := [], res.linkDone := [], res.burnThisStroke := [], fsh.maint := false }
  stageFreeLinks (openCycles ((List.range 6).foldl followDemand s))

/-! ### The pass boundary -/

/-- A stack falls to a lower band at a pass boundary (15 R401). -/
def bandFalls (s : State) (st : Nat) : State :=
  let h := stackHeat st s
  match h.next with
  | some b => if bandRank b < bandRank h.band then enterBand st b s else s
  | none => s

/-- Every queue's credit is lost, and a port whose stretch has ended follows its lines again (R256, R296). -/
def portPass (s : State) (p : Nat) : State :=
  let v := fport p s
  let s := setFport p { v with credit := [] } s
  if !v.stretched && bit s.sch.unordered p then { s with sch.unordered := dropBit s.sch.unordered p } else s

/-- The averages of PWR_MEAS over the pass and, each second, over the second. -/
def powerAverages (second : Bool) (s : State) : State :=
  let p := s.pwr
  let s := { s with
    pwr.pPass := if p.numPass = 0 then p.pPass else p.sumPass / p.numPass
    pwr.sumPass := 0, pwr.numPass := 0 }
  if second then
    { s with pwr.pSec := if p.numSec = 0 then p.pSec else p.sumSec / p.numSec, pwr.sumSec := 0, pwr.numSec := 0 }
  else s

/-- VIN_MAIN outside its range is a fault once per pass (15 R391). -/
def vinPass (s : State) : State :=
  let s := { s with start.vinFaulted := false }
  if s.start.mainOn && (s.start.vinMv < 11400 || 12600 < s.start.vinMv) then vinOutside s else s

/-- What a pass boundary brings. -/
def openPass (second : Bool) (s : State) : State :=
  let s := powerAverages second (vinPass (registrationEnds s))
  let s := { s with res.wbThisPass := [], res.exportsThisPass := 0, sch.slipPrev := s.sch.slipNow, sch.slipNow := false }
  let s := (List.range 8).foldl bandFalls s
  let s := (s.ports.map (·.1)).foldl portPass s
  let s := returnUnits s
  let s := if s.start.mainOn then gateByNode s else s
  if s.plt.running.isNone && s.time.counting then telCopy s else s

/-- The stroke that has opened is the first of a pass, and of a second. Before the time base counts, the power controller
keeps the same intervals by its own clock. -/
def atPass (s : State) : Bool := if s.time.counting then strokeNow s == 0 else s.time.elapsed % 64 == 0
def atSecond (s : State) : Bool :=
  if s.time.counting then s.time.now / strokeNs % secStrokes == 0 else s.time.elapsed % secStrokes == 0

/-! ### The command -/

/-- An island of 0 to 17 finds its copy 2 ticks or more off (10_registration_and_time.md R271). -/
def drifted (drift : List (Nat × Nat)) : Bool := drift.any fun x => decide (x.1 < 18) && decide (2 ≤ x.2)

/-- An orderly power-down ends 2 s after it was asked for (15 R408). -/
def offDue (s : State) : Bool :=
  match s.start.offAt with
  | some t => s.start.mainOn && decide (t + secs 2 ≤ s.time.elapsed)
  | none => false

/-- STROBE (R241): `drift` gives each island whose copy differs from the strobe's value, with the difference in ticks. -/
def execStrobeState (drift : List (Nat × Nat)) (s : State) : State :=
  let s := openStroke (endStroke s)
  let s := if drifted drift then registrationLoss s else s
  let s := if s.pwr.hold then gateByNode s else s
  let s := if atPass s then openPass (atSecond s) s else s
  if offDue s then performCut false s else s

def execStrobe (drift : List (Nat × Nat)) (s : State) : Host.Outcome State Fault Refusal := .next (execStrobeState drift s)

end Sys2Proof.Machine
end

