-- ==== Sys2Proof/Machine/Dispatch.lean ====
section
/-! DEFINITION. One arm per command: the command's effect on everything but the queue. -/

namespace Sys2Proof.Machine

def exec (i : Instr) (s : State) : Host.Outcome State Fault Refusal :=
  match i with
  | .registerWrite a1 a2 a3 a4 => Sys2Proof.Machine.execRegisterWrite a1 a2 a3 a4 s
  | .rcFieldRead a1 a2 a3 => Sys2Proof.Machine.execRcFieldRead a1 a2 a3 s
  | .unalignedAccess a1 a2 a3 a4 => Sys2Proof.Machine.execUnalignedAccess a1 a2 a3 a4 s
  | .strobe a1 => Sys2Proof.Machine.execStrobe a1 s
  | .attn a1 => Sys2Proof.Machine.execAttn a1 s
  | .attnCheckStroke a1 a2 => Sys2Proof.Machine.execAttnCheckStroke a1 a2 s
  | .admissionStroke a1 a2 => Sys2Proof.Machine.execAdmissionStroke a1 a2 s
  | .admissionLookup a1 a2 => Sys2Proof.Machine.execAdmissionLookup a1 a2 s
  | .workDispatch a1 a2 => Sys2Proof.Machine.execWorkDispatch a1 a2 s
  | .bestEffortDispatch a1 a2 => Sys2Proof.Machine.execBestEffortDispatch a1 a2 s
  | .attnTokenTaken a1 => Sys2Proof.Machine.execAttnTokenTaken a1 s
  | .append a1 a2 => Sys2Proof.Machine.execAppend a1 a2 s
  | .commit a1 a2 => Sys2Proof.Machine.execCommit a1 a2 s
  | .cancel a1 => Sys2Proof.Machine.execCancel a1 s
  | .cancelAtSweepBoundary a1 => Sys2Proof.Machine.execCancelAtSweepBoundary a1 s
  | .tailClearOnClose a1 => Sys2Proof.Machine.execTailClearOnClose a1 s
  | .search a1 => Sys2Proof.Machine.execSearch a1 s
  | .count a1 => Sys2Proof.Machine.execCount a1 s
  | .read a1 => Sys2Proof.Machine.execRead a1 s
  | .invalidate a1 => Sys2Proof.Machine.execInvalidate a1 s
  | .write a1 => Sys2Proof.Machine.execWrite a1 s
  | .validate a1 => Sys2Proof.Machine.execValidate a1 s
  | .swap a1 => Sys2Proof.Machine.execSwap a1 s
  | .release a1 => Sys2Proof.Machine.execRelease a1 s
  | .bulkInvalidate a1 => Sys2Proof.Machine.execBulkInvalidate a1 s
  | .directoryLeaseExpiry a1 => Sys2Proof.Machine.execDirectoryLeaseExpiry a1 s
  | .extentGraceEnd a1 => Sys2Proof.Machine.execExtentGraceEnd a1 s
  | .stateOnlySwapRetry => Sys2Proof.Machine.execStateOnlySwapRetry s
  | .directoryPatrol a1 => Sys2Proof.Machine.execDirectoryPatrol a1 s
  | .sweep1 a1 a2 => Sys2Proof.Machine.execSweep1 a1 a2 s
  | .sweep2 a1 a2 => Sys2Proof.Machine.execSweep2 a1 a2 s
  | .sweep3 a1 a2 a3 => Sys2Proof.Machine.execSweep3 a1 a2 a3 s
  | .blockClose a1 => Sys2Proof.Machine.execBlockClose a1 s
  | .chainMerge a1 a2 a3 a4 => Sys2Proof.Machine.execChainMerge a1 a2 a3 a4 s
  | .sheetPatrol a1 a2 a3 => Sys2Proof.Machine.execSheetPatrol a1 a2 a3 s
  | .bankReady a1 => Sys2Proof.Machine.execBankReady a1 s
  | .windowLine a1 a2 => Sys2Proof.Machine.execWindowLine a1 a2 s
  | .overrun a1 => Sys2Proof.Machine.execOverrun a1 s
  | .banksLine a1 a2 => Sys2Proof.Machine.execBanksLine a1 a2 s
  | .refreshLine a1 a2 a3 => Sys2Proof.Machine.execRefreshLine a1 a2 a3 s
  | .extraRefresh a1 => Sys2Proof.Machine.execExtraRefresh a1 s
  | .retrainLine a1 a2 => Sys2Proof.Machine.execRetrainLine a1 a2 s
  | .dircycLine a1 a2 => Sys2Proof.Machine.execDircycLine a1 a2 s
  | .linkLine a1 a2 => Sys2Proof.Machine.execLinkLine a1 a2 s
  | .maintLine a1 a2 a3 a4 => Sys2Proof.Machine.execMaintLine a1 a2 a3 a4 s
  | .closeLine a1 a2 => Sys2Proof.Machine.execCloseLine a1 a2 s
  | .sendLine a1 a2 => Sys2Proof.Machine.execSendLine a1 a2 s
  | .beatLine a1 a2 => Sys2Proof.Machine.execBeatLine a1 a2 s
  | .adaptLine a1 a2 => Sys2Proof.Machine.execAdaptLine a1 a2 s
  | .sampleLine a1 a2 => Sys2Proof.Machine.execSampleLine a1 a2 s
  | .collatorMerge a1 a2 a3 => Sys2Proof.Machine.execCollatorMerge a1 a2 a3 s
  | .childImpr a1 => Sys2Proof.Machine.execChildImpr a1 s
  | .collatorEntryClose a1 a2 => Sys2Proof.Machine.execCollatorEntryClose a1 a2 s
  | .orphan a1 a2 => Sys2Proof.Machine.execOrphan a1 a2 s
  | .contextWrite a1 => Sys2Proof.Machine.execContextWrite a1 s
  | .extentGet a1 => Sys2Proof.Machine.execExtentGet a1 s
  | .extentWrite a1 => Sys2Proof.Machine.execExtentWrite a1 s
  | .extentPut a1 => Sys2Proof.Machine.execExtentPut a1 s
  | .stage a1 => Sys2Proof.Machine.execStage a1 s
  | .tileStands a1 a2 a3 => Sys2Proof.Machine.execTileStands a1 a2 a3 s
  | .stageReadFailed a1 a2 => Sys2Proof.Machine.execStageReadFailed a1 a2 s
  | .tileFree a1 a2 => Sys2Proof.Machine.execTileFree a1 a2 s
  | .rehome a1 a2 => Sys2Proof.Machine.execRehome a1 a2 s
  | .evict a1 => Sys2Proof.Machine.execEvict a1 s
  | .writeBack a1 => Sys2Proof.Machine.execWriteBack a1 s
  | .moveOut a1 a2 => Sys2Proof.Machine.execMoveOut a1 a2 s
  | .moveOutCompletion a1 => Sys2Proof.Machine.execMoveOutCompletion a1 s
  | .moveOutTimeout a1 => Sys2Proof.Machine.execMoveOutTimeout a1 s
  | .exportOut a1 a2 => Sys2Proof.Machine.execExportOut a1 a2 s
  | .pageWrite a1 => Sys2Proof.Machine.execPageWrite a1 s
  | .move a1 => Sys2Proof.Machine.execMove a1 s
  | .export_ a1 => Sys2Proof.Machine.execExport a1 s
  | .scraperEvict a1 a2 => Sys2Proof.Machine.execScraperEvict a1 a2 s
  | .burnisherZero a1 => Sys2Proof.Machine.execBurnisherZero a1 s
  | .reverify a1 a2 => Sys2Proof.Machine.execReverify a1 a2 s
  | .writeBackPass a1 => Sys2Proof.Machine.execWriteBackPass a1 s
  | .tierProgramDone a1 a2 => Sys2Proof.Machine.execTierProgramDone a1 a2 s
  | .tierRead a1 a2 => Sys2Proof.Machine.execTierRead a1 a2 s
  | .tierWrite a1 a2 => Sys2Proof.Machine.execTierWrite a1 a2 s
  | .tierTrim a1 a2 => Sys2Proof.Machine.execTierTrim a1 a2 s
  | .tierStallRetry a1 => Sys2Proof.Machine.execTierStallRetry a1 s
  | .fshCtrlSkip => Sys2Proof.Machine.execFshCtrlSkip s
  | .flashMount a1 a2 => Sys2Proof.Machine.execFlashMount a1 a2 s
  | .zeroSlots a1 => Sys2Proof.Machine.execZeroSlots a1 s
  | .zeroTiles a1 => Sys2Proof.Machine.execZeroTiles a1 s
  | .zeroB2 a1 => Sys2Proof.Machine.execZeroB2 a1 s
  | .pltLoad a1 => Sys2Proof.Machine.execPltLoad a1 s
  | .loadComplete => Sys2Proof.Machine.execLoadComplete s
  | .pltSeal => Sys2Proof.Machine.execPltSeal s
  | .rankSwitch => Sys2Proof.Machine.execRankSwitch s
  | .pltArm => Sys2Proof.Machine.execPltArm s
  | .islandAck a1 => Sys2Proof.Machine.execIslandAck a1 s
  | .pltCommit => Sys2Proof.Machine.execPltCommit s
  | .pltAbort => Sys2Proof.Machine.execPltAbort s
  | .deltaBoundary => Sys2Proof.Machine.execDeltaBoundary s
  | .plateLost => Sys2Proof.Machine.execPlateLost s
  | .heartbeat a1 => Sys2Proof.Machine.execHeartbeat a1 s
  | .peersLost a1 => Sys2Proof.Machine.execPeersLost a1 s
  | .ppsEdge a1 a2 => Sys2Proof.Machine.execPpsEdge a1 a2 s
  | .phaseStep => Sys2Proof.Machine.execPhaseStep s
  | .markMissing => Sys2Proof.Machine.execMarkMissing s
  | .setSeconds => Sys2Proof.Machine.execSetSeconds s
  | .rereg => Sys2Proof.Machine.execRereg s
  | .registration a1 a2 => Sys2Proof.Machine.execRegistration a1 a2 s
  | .timCtrlBarrier => Sys2Proof.Machine.execTimCtrlBarrier s
  | .barrier a1 => Sys2Proof.Machine.execBarrier a1 s
  | .barrierOutPulse => Sys2Proof.Machine.execBarrierOutPulse s
  | .barrierInEdge a1 => Sys2Proof.Machine.execBarrierInEdge a1 s
  | .barrierStart => Sys2Proof.Machine.execBarrierStart s
  | .laneTrained a1 a2 a3 => Sys2Proof.Machine.execLaneTrained a1 a2 a3 s
  | .laneLost a1 a2 a3 => Sys2Proof.Machine.execLaneLost a1 a2 a3 s
  | .prtCtrlRetrain a1 a2 => Sys2Proof.Machine.execPrtCtrlRetrain a1 a2 s
  | .laneReturn a1 a2 => Sys2Proof.Machine.execLaneReturn a1 a2 s
  | .portDrop a1 => Sys2Proof.Machine.execPortDrop a1 s
  | .portReturn a1 => Sys2Proof.Machine.execPortReturn a1 s
  | .frameStart a1 => Sys2Proof.Machine.execFrameStart a1 s
  | .frameReceive a1 a2 => Sys2Proof.Machine.execFrameReceive a1 a2 s
  | .tfxFrameAccept a1 => Sys2Proof.Machine.execTfxFrameAccept a1 s
  | .ackSend a1 => Sys2Proof.Machine.execAckSend a1 s
  | .retransmit a1 a2 => Sys2Proof.Machine.execRetransmit a1 a2 s
  | .rollStall a1 => Sys2Proof.Machine.execRollStall a1 s
  | .creditShrink a1 => Sys2Proof.Machine.execCreditShrink a1 s
  | .closingEnd a1 => Sys2Proof.Machine.execClosingEnd a1 s
  | .rdmaRd a1 a2 => Sys2Proof.Machine.execRdmaRd a1 a2 s
  | .rdmaWr a1 a2 => Sys2Proof.Machine.execRdmaWr a1 a2 s
  | .atomic a1 => Sys2Proof.Machine.execAtomic a1 s
  | .trig a1 => Sys2Proof.Machine.execTrig a1 s
  | .resp a1 => Sys2Proof.Machine.execResp a1 s
  | .ringWrite a1 => Sys2Proof.Machine.execRingWrite a1 s
  | .post a1 a2 a3 => Sys2Proof.Machine.execPost a1 a2 a3 s
  | .reclaim a1 a2 => Sys2Proof.Machine.execReclaim a1 a2 s
  | .ringLeaseExpiry a1 => Sys2Proof.Machine.execRingLeaseExpiry a1 s
  | .send a1 => Sys2Proof.Machine.execSend a1 s
  | .regionReg a1 => Sys2Proof.Machine.execRegionReg a1 s
  | .regionDereg a1 => Sys2Proof.Machine.execRegionDereg a1 s
  | .ringBind a1 => Sys2Proof.Machine.execRingBind a1 s
  | .counterReset a1 => Sys2Proof.Machine.execCounterReset a1 s
  | .postWr a1 => Sys2Proof.Machine.execPostWr a1 s
  | .wrCancel a1 => Sys2Proof.Machine.execWrCancel a1 s
  | .connClose a1 => Sys2Proof.Machine.execConnClose a1 s
  | .cqDoorbell a1 a2 a3 a4 => Sys2Proof.Machine.execCqDoorbell a1 a2 a3 a4 s
  | .hostAttn a1 => Sys2Proof.Machine.execHostAttn a1 s
  | .hostCancel a1 => Sys2Proof.Machine.execHostCancel a1 s
  | .listCompletion a1 a2 => Sys2Proof.Machine.execListCompletion a1 a2 s
  | .cqEnable a1 a2 a3 => Sys2Proof.Machine.execCqEnable a1 a2 a3 s
  | .flr a1 => Sys2Proof.Machine.execFlr a1 s
  | .perst => Sys2Proof.Machine.execPerst s
  | .hubB2map a1 a2 a3 => Sys2Proof.Machine.execHubB2map a1 a2 a3 s
  | .remoteLoad a1 a2 => Sys2Proof.Machine.execRemoteLoad a1 a2 s
  | .remoteStore a1 a2 => Sys2Proof.Machine.execRemoteStore a1 a2 s
  | .deadTarget a1 => Sys2Proof.Machine.execDeadTarget a1 s
  | .keyOffer => Sys2Proof.Machine.execKeyOffer s
  | .keyAccept => Sys2Proof.Machine.execKeyAccept s
  | .keyErase => Sys2Proof.Machine.execKeyErase s
  | .curveOpDone => Sys2Proof.Machine.execCurveOpDone s
  | .offerExpiry a1 a2 => Sys2Proof.Machine.execOfferExpiry a1 a2 s
  | .scrub => Sys2Proof.Machine.execScrub s
  | .scrubStep a1 a2 a3 => Sys2Proof.Machine.execScrubStep a1 a2 a3 s
  | .fuseSvn => Sys2Proof.Machine.execFuseSvn s
  | .curveMult => Sys2Proof.Machine.execCurveMult s
  | .unfence a1 => Sys2Proof.Machine.execUnfence a1 s
  | .b2Write => Sys2Proof.Machine.execB2Write s
  | .b2Read => Sys2Proof.Machine.execB2Read s
  | .getMeasurements a1 a2 a3 => Sys2Proof.Machine.execGetMeasurements a1 a2 a3 s
  | .keyExchange a1 a2 => Sys2Proof.Machine.execKeyExchange a1 a2 s
  | .ideKm a1 a2 a3 a4 => Sys2Proof.Machine.execIdeKm a1 a2 a3 a4 s
  | .ideFail a1 => Sys2Proof.Machine.execIdeFail a1 s
  | .lockInterface a1 a2 => Sys2Proof.Machine.execLockInterface a1 a2 s
  | .startInterface a1 => Sys2Proof.Machine.execStartInterface a1 s
  | .stopInterface a1 => Sys2Proof.Machine.execStopInterface a1 s
  | .cut => Sys2Proof.Machine.execCut s
  | .deferredTakesEffect => Sys2Proof.Machine.execDeferredTakesEffect s
  | .vauxInRange a1 a2 a3 => Sys2Proof.Machine.execVauxInRange a1 a2 a3 s
  | .sysRstN a1 a2 a3 a4 => Sys2Proof.Machine.execSysRstN a1 a2 a3 a4 s
  | .vinMainRange a1 => Sys2Proof.Machine.execVinMainRange a1 s
  | .stageComplete a1 => Sys2Proof.Machine.execStageComplete a1 s
  | .mainPowerStart => Sys2Proof.Machine.execMainPowerStart s
  | .powerSample a1 a2 a3 => Sys2Proof.Machine.execPowerSample a1 a2 a3 s
  | .dramTempSample a1 a2 => Sys2Proof.Machine.execDramTempSample a1 a2 s
  | .thermalDemand a1 => Sys2Proof.Machine.execThermalDemand a1 s
  | .flowWindow a1 => Sys2Proof.Machine.execFlowWindow a1 s
  | .coolantCut => Sys2Proof.Machine.execCoolantCut s
  | .cap a1 => Sys2Proof.Machine.execCap a1 s
  | .pwrGgateReq a1 a2 => Sys2Proof.Machine.execPwrGgateReq a1 a2 s
  | .pwrGate a1 a2 => Sys2Proof.Machine.execPwrGate a1 a2 s
  | .gateTakesEffect => Sys2Proof.Machine.execGateTakesEffect s
  | .pwrCtrlSkip => Sys2Proof.Machine.execPwrCtrlSkip s
  | .holdEnter => Sys2Proof.Machine.execHoldEnter s
  | .holdExit => Sys2Proof.Machine.execHoldExit s
  | .restart => Sys2Proof.Machine.execRestart s
  | .off => Sys2Proof.Machine.execOff s
  | .graverHang a1 => Sys2Proof.Machine.execGraverHang a1 s
  | .leaseRevoked a1 => Sys2Proof.Machine.execLeaseRevoked a1 s
  | .coreReset a1 => Sys2Proof.Machine.execCoreReset a1 s
  | .trustRestart => Sys2Proof.Machine.execTrustRestart s
  | .reconcile => Sys2Proof.Machine.execReconcile s
  | .traceRecordWrite => Sys2Proof.Machine.execTraceRecordWrite s
  | .evtSel a1 => Sys2Proof.Machine.execEvtSel a1 s
  | .clearUe => Sys2Proof.Machine.execClearUe s
  | .clearOther => Sys2Proof.Machine.execClearOther s
  | .wearUpdate a1 => Sys2Proof.Machine.execWearUpdate a1 s
  | .mctpPacket a1 a2 a3 a4 a5 a6 => Sys2Proof.Machine.execMctpPacket a1 a2 a3 a4 a5 a6 s
  | .setEndpointId a1 a2 => Sys2Proof.Machine.execSetEndpointId a1 a2 s
  | .regRead a1 => Sys2Proof.Machine.execRegRead a1 s
  | .regWrite a1 => Sys2Proof.Machine.execRegWrite a1 s
  | .getSensorReading a1 => Sys2Proof.Machine.execGetSensorReading a1 s
  | .getPdr a1 => Sys2Proof.Machine.execGetPdr a1 s
  | .setEventReceiver a1 => Sys2Proof.Machine.execSetEventReceiver a1 s
  | .pollForPlatformEvent => Sys2Proof.Machine.execPollForPlatformEvent s
  | .platformEventRetry a1 => Sys2Proof.Machine.execPlatformEventRetry a1 s
  | .sensorRefresh => Sys2Proof.Machine.execSensorRefresh s
  | .requestUpdate => Sys2Proof.Machine.execRequestUpdate s
  | .updateComponent a1 a2 a3 a4 a5 => Sys2Proof.Machine.execUpdateComponent a1 a2 a3 a4 a5 s
  | .verifyComponent => Sys2Proof.Machine.execVerifyComponent s
  | .applyComplete => Sys2Proof.Machine.execApplyComplete s
  | .activateFirmware a1 => Sys2Proof.Machine.execActivateFirmware a1 s
  | .cancelUpdate => Sys2Proof.Machine.execCancelUpdate s
  | .updateTimeout => Sys2Proof.Machine.execUpdateTimeout s
  | .hostLinkTrained a1 a2 a3 a4 a5 => Sys2Proof.Machine.execHostLinkTrained a1 a2 a3 a4 a5 s
  | .hostPowerManagementRequest a1 => Sys2Proof.Machine.execHostPowerManagementRequest a1 s
  | .junctionTemperatureSample a1 a2 => Sys2Proof.Machine.execJunctionTemperatureSample a1 a2 s

end Sys2Proof.Machine
end

