-- ==== Sys2Proof/Machine/Pins.lean ====
section
/-! DEFINITION. The levels of the status outputs, which follow from the state (15_start_power_cooling.md R392;
18_package_and_signals.md R458, R460 to R462). -/

namespace Sys2Proof.Machine

/-- FAULT_N is low while PWR_STAGE.HOLD or PWR_STAGE.STALLED reads 1 (R462). -/
def faultN (s : State) : Bool := !(s.pwr.hold || (stageView s).1 == 1)

/-- THERMTRIP_N is low from a cut by temperature or coolant until the next start of stage 1 or the fall of VAUX_3V3 (R462). -/
def thermtripN (s : State) : Bool := !s.start.thermTrip

/-- SMB_ALERT_N is low while a PLDM event waits for polling (R458). -/
def smbAlertN (s : State) : Bool := s.mgmt.events.isEmpty

/-- The level of BARRIER_OUT: low at stage 0 (15_start_power_cooling.md, safe state of outputs). -/
def barrierOutPin (s : State) : Bool := s.bar.barrierOut && s.start.stage != 0

/-- The node's 7-bit SMBus address (R461). -/
def smbusAddress (s : State) : Nat := 0x60 + s.start.strapSmbA % 4

end Sys2Proof.Machine
end

