-- ==== Sys2Proof/Safety.lean ====
section
/-! DEFINITION. What counts as a sound state and a sound step, in the terms the statements use. -/

namespace Sys2Proof.Safety

open Sys2Proof.Machine

/-- The pending FIFO of the trace holds at most 64 entries, and its counters stay within their fields
(16_faults_and_recovery.md R431, R438). -/
def fifoBounded (s : State) : Prop :=
  s.flt.fifo.length ≤ 64 ∧ s.flt.fifoPeak ≤ 64 ∧ s.flt.lost ≤ 0xFFFFFFFF ∧ s.flt.lostSinceRead ≤ 0xFFFFFFFF

/-- Every byte memory is in its canonical form: addresses strictly rising and no listed byte equal to the zero that an
unlisted byte reads as; and so is every page image that a tier program carries, within the page. -/
def memoriesCanonical (s : State) : Prop :=
  Memory.wf s.mem.stk = true ∧ Memory.wf s.mem.tier = true ∧ Memory.wf s.mem.bar2 = true ∧
    Memory.wf s.mem.host = true ∧ Memory.wf s.mem.mbxReq = true ∧ Memory.wf s.mem.mbxResp = true ∧
    ∀ p ∈ s.res.programs, Memory.wf p.bytes = true ∧ ∀ y ∈ p.bytes, y.1 < pageBytes

/-- A host command has come to the front of its queue and passes the checks that every command shares: no bit of ARGS outside the
named fields `fs` is set, its TENANT is one of the list's partition, and neither assignment nor a pending scrub turns its
party away (13_host_attachment.md R345 to R348; 14_trust_and_isolation.md R381). -/
abbrev hostReady (f cls op : Nat) (fs : List (Nat × Nat)) (c : Cmd) (s : State) : Prop :=
  hostCmd f cls op s = some c ∧ cmdReason c fs s = none ∧ partyStatus false c s = none

/-- A residency command is ready as well: the function's last one has ended, and the node is not in hold mode. -/
abbrev resReady (f op : Nat) (fs : List (Nat × Nat)) (c : Cmd) (s : State) : Prop :=
  hostReady f 1 op fs c s ∧ resBusy f s = false ∧ s.pwr.hold = false

/-- A residency command that names pages is ready: its names are the tenant's, its range is legal, the context's entries
are not lost, and no swap that came before moves a page it names (07_residency_and_tiers.md R182, R184;
16_faults_and_recovery.md R415). -/
abbrev pagesReady (f op : Nat) (fs : List (Nat × Nat)) (c : Cmd) (s : State) : Prop :=
  resReady f op (pageFields ++ fs) c s ∧
    namesFail c.tenant (namedPages c).ctx (namedPages c).layer (namedPages c).group s = false ∧
    0 < (namedPages c).count ∧ (namedPages c).count ≤ 64 ∧ (namedPages c).first + (namedPages c).count ≤ 131072 ∧
    s.res.ctxUe.contains (namedPages c).ctx = false ∧ changing (namedPages c) s = false

/-- The state once a received message has left the inbox and its credit has returned (12_transport.md R326, R330). -/
abbrev taken (k : Nat) (m : InMsg) (s : State) : State := returnCredit k m.cls m.body.length (inboxTake m s)

/-- A message of a remote operation stands first on its connection, and neither a delta nor a scrub turns its party away
(08_plates.md R232; 14_trust_and_isolation.md R381). -/
abbrev remoteReady (k typ : Nat) (m : InMsg) (s : State) : Prop :=
  nextRemote k typ s = some m ∧ heldPart (connRec k s).part s = false ∧
    scrubPending (connRec k s).part (connRec k s).tenant s = false

/-- A mailbox request of `len` argument bytes stands, no secured message carries the same command, and the trust core takes
it (14_trust_and_isolation.md R371). -/
abbrev mailReady (cmd len : Nat) (s : State) : Prop :=
  trustUp s = true ∧ vendorKey cmd s = none ∧ s.tru.busy = false ∧ mbxCmd s = cmd ∧ memNat s.mem.mbxReq 4 4 = 0 ∧
    memNat s.mem.mbxReq 2 2 = len

/-- The command completes: the machine goes on. -/
def completes (c : Instr) (s : State) : Prop := ∃ t, exec c s = .next t

end Sys2Proof.Safety
end

