-- ==== Sys2Proof/Certificates/Slice0/Obligations.lean ====
section
/-! DEFINITION. The statements for the provers. Each is a proposition about `exec`, `step` or an operation that they share,
taken from the rules its entry in OBLIGATIONS.json cites. -/

open Sys2Proof Sys2Proof.Machine Sys2Proof.Safety

/-- With a command at the front of the queue, a step is that command run with the queue's rest; with an empty queue the block idles (the model's queue: notes/assumptions/2.md). -/
def Obligations.StepRunsFrontCommand : Prop :=
  (∀ (c : Instr) (rest : List Instr) (s : State), (s.pending = c :: rest) → step s = exec c { s with pending := rest }) ∧
  (∀ (s : State), (s.pending = []) → step s = .next s)

/-- Counting an event raises its counter by one up to its width, leaves every other counter alone, and either appends one generic record of the counter's class, code 0xFF of the class, to the pending FIFO while fewer than 56 entries stand in it, or folds it into the class count and the lost counts; everything else is unchanged. The layout of a counter key is the model's (notes/assumptions/7.md). -/
def Obligations.CountedEvent : Prop :=
  ∀ (c : Ctr) (unit : Nat) (s : State), (c.lo < 64) → (0 < c.width) → ctrGet c (countEvent c unit s) = min (2 ^ c.width - 1) (ctrGet c s + 1) ∧ (∀ d : Ctr, d.lo < 64 → (d.off, d.lo) ≠ (c.off, c.lo) → ctrGet d (countEvent c unit s) = ctrGet d s) ∧ (s.flt.fifo.length < 56 → (countEvent c unit s).flt = { s.flt with fifo := s.flt.fifo ++ [⟨s.time.now, c.cls, 0, eventCode c.cls 0xFF, unit, padTo 40 (leBytes 4 c.off ++ [BitVec.ofNat 8 c.lo])⟩], fifoPeak := max s.flt.fifoPeak (s.flt.fifo.length + 1) }) ∧ (56 ≤ s.flt.fifo.length → look 0 (countEvent c unit s).flt.fold c.cls = min 0xFFFF (look 0 s.flt.fold c.cls + 1) ∧ (countEvent c unit s).flt.fifo = s.flt.fifo ∧ (countEvent c unit s).flt.lost = min 0xFFFFFFFF (s.flt.lost + 1)) ∧ countEvent c unit s = { s with ctr := (countEvent c unit s).ctr, flt := (countEvent c unit s).flt }

/-- While the time base counts: an edge that does not stay high for 1 us adds one to PPS_GLITCH and corrects nothing; the first candidate edge moves the node from free-running to acquiring; an edge in the window of 10^9 +- 150,000 ticks after it locks the node, sets the PLL interval, and moves the time base forward so that the sample lies on the expected fraction of a second to within one tick; an edge outside that window restarts acquisition at that edge. Nothing outside the time state changes on a candidate edge. -/
def Obligations.PpsEdgeAcquires : Prop :=
  (∀ (x : Nat) (s : State), (s.time.counting = true) → exec (.ppsEdge x false) s = .next (countEvent cPpsGlitch unitNode s)) ∧
  (∀ (x : Nat) (s : State), (s.time.counting = true) → (s.time.lock = .free) → exec (.ppsEdge x true) s = .next { s with time.lock := .acquiring, time.firstEdge := some x }) ∧
  (∀ (x f : Nat) (s : State), (s.time.counting = true) → (s.time.lock = .acquiring) → (s.time.firstEdge = some f) → (s.time.setCount = none) → (f + 8000000000 ≤ x + 1200000) → (x ≤ f + 8000000000 + 1200000) → (s.time.ppsDelay ≤ x) → ∃ t sec, exec (.ppsEdge x true) s = .next t ∧ t = { s with time := t.time } ∧ t.time.lock = .locked ∧ t.time.pllInterval = x - f ∧ s.time.now ≤ t.time.now ∧ x + 8 * (t.time.now - s.time.now) ≤ sec * 8000000000 + s.time.ppsDelay ∧ sec * 8000000000 + s.time.ppsDelay < x + 8 * (t.time.now - s.time.now) + 8) ∧
  (∀ (x f : Nat) (s : State), (s.time.counting = true) → (s.time.lock = .acquiring) → (s.time.firstEdge = some f) → (x + 1200000 < f + 8000000000 ∨ f + 8000000000 + 1200000 < x) → exec (.ppsEdge x true) s = .next { s with time.firstEdge := some x })

/-- A first candidate edge within 1 us of the expected sample of a second is that second's mark: TIM_MARK takes the sample in ns, LAST_ERR and the error still to remove take e, the missing count clears and the node stays locked; any other candidate edge in the locked state, with nothing near an unmarked second, adds one to PPS_REJECT and corrects nothing. In stroke 63 of a pass at most 1 ns (8 steps of 125 ps) of the error is removed, once per pass. -/
def Obligations.RegistrationMark : Prop :=
  (∀ (x sec : Nat) (s : State), (s.time.counting = true) → (s.time.lock = .locked) → (s.time.setCount = none) → (s.time.markedSecond ≠ some sec) → (sec * 8000000000 + s.time.ppsDelay ≤ x + 8000) → (x ≤ sec * 8000000000 + s.time.ppsDelay + 8000) → ∃ t, exec (.ppsEdge x true) s = .next t ∧ t = { s with time := t.time } ∧ t.time.mark = x / 8 ∧ t.time.lastErr = (x : Int) - (sec * 8000000000 + s.time.ppsDelay : Nat) ∧ t.time.slew = t.time.lastErr ∧ t.time.missing = 0 ∧ t.time.lock = .locked ∧ t.time.now = s.time.now ∧ t.time.markedSecond = some sec) ∧
  (∀ (x : Nat) (s : State), (s.time.counting = true) → (s.time.lock = .locked) → (8000 < (phaseError x (nearestSecond x s) s).natAbs ∨ s.time.markedSecond = some (nearestSecond x s)) → exec (.ppsEdge x true) s = .next (countEvent cPpsReject unitNode s)) ∧
  (∀ (s : State), (s.time.now / 250 % 64 = 63) → (s.time.slew ≠ 0) → (s.sch.applied.contains (16, 0x10002) = false) → ∃ t, exec .phaseStep s = .next t ∧ t.time.slew.natAbs = s.time.slew.natAbs - 8 ∧ (0 ≤ s.time.slew → 0 ≤ t.time.slew) ∧ (s.time.slew ≤ 0 → t.time.slew ≤ 0) ∧ t = { s with time.slew := t.time.slew, sch.applied := s.sch.applied ++ [(16, 0x10002)] } ∧ exec .phaseStep t = .next t)

/-- When the window of the next expected mark has passed, a locked node enters holdover and MISSING rises by one (below 8 nothing else happens; at the eighth it raises PPS_LOST). SET_SECONDS with no count in force makes the next mark take TIM_SECONDS; naming the count in force changes nothing; naming another outside hold mode is ignored and adds one to BAR_BAD. -/
def Obligations.HoldoverAndCount : Prop :=
  (∀ (l : Nat) (s : State), (s.time.lock = .locked) → (s.time.lastSecond = some l) → ((l + 1) * 8000000000 + s.time.ppsDelay + 8000 < s.time.now * 8) → (s.time.missing < 7) → exec .markMissing s = .next { s with time.lock := .holdover, time.missing := s.time.missing + 1, time.lastSecond := some (l + 1) }) ∧
  (∀ (l : Nat) (s : State), (s.time.lock = .holdover) → (s.time.lastSecond = some l) → ((l + 1) * 8000000000 + s.time.ppsDelay + 800000 < s.time.now * 8) → (s.time.missing = 7) → exec .markMissing s = .next (raise fPpsLost unitNode [] { s with time.missing := 8, time.lastSecond := some (l + 1) })) ∧
  (∀ (s : State), (s.time.secondsSet = false) → (s.time.setCount = none) → exec .setSeconds s = .next { s with time.setCount := some s.time.seconds }) ∧
  (∀ (s : State), (s.time.secondsSet = true) → (s.pwr.hold = false) → (s.time.setCount = none) → (s.time.lastSecond ≠ none) → (s.time.lastSecond ≠ some (s.time.seconds - 1) ∨ s.time.seconds = 0) → exec .setSeconds s = .next (countEvent cBarBad unitNode s))

/-- When a registration is due at a pass boundary the pulse goes out. With every echo within one tick the registration ends two passes later, at a pass boundary: REG becomes 1 and REG_FAIL_MASK clears. Otherwise REG_FAIL_MASK shows the islands that failed, REG reads 0, and the node tries again at the next pass boundary until the third failure, which adds one to REG_FAIL, stalls stage 5 with cause 8 and moves the next attempt 1,000 passes away. REREG asks for a round in hold mode and is ignored outside it. -/
def Obligations.IslandRegistration : Prop :=
  (∀ (f : Nat) (dest : Option Nat) (s : State), (f % 262144 = 0) → (s.start.stage = 5) → (s.bar.registered = false) → (s.bar.regEnd = none) → (s.time.lock = .locked) → (s.bar.regWanted = false) → (s.time.now / 250 % 64 = 0) → (s.bar.regPass ≤ s.time.now / 16000) → exec (.registration f dest) s = .next { s with out := s.out ++ [.registrationPulse], time.reg := false, bar.regEnd := some (s.time.now / 16000 + 2) }) ∧
  (∀ (m : Nat) (dest : Option Nat) (s : State), (m % 262144 ≠ 0) → (regDue s = true) → (s.time.now / 250 % 64 = 0) → (s.bar.regPass ≤ s.time.now / 16000) → (s.bar.regTries < 2) → exec (.registration m dest) s = .next { s with out := s.out ++ [.registrationPulse], time.reg := false, time.regFailMask := m % 262144, bar.regTries := s.bar.regTries + 1, bar.regPass := s.time.now / 16000 + 1 }) ∧
  (∀ (m : Nat) (dest : Option Nat) (s : State), (m % 262144 ≠ 0) → (s.start.stage = 5) → (regDue s = true) → (s.time.now / 250 % 64 = 0) → (s.bar.regPass ≤ s.time.now / 16000) → (s.bar.regTries = 2) → ∃ t, exec (.registration m dest) s = .next t ∧ t.bar.regPass = s.time.now / 16000 + 1000 ∧ t.start.stalled = true ∧ t.start.cause = 8 ∧ t.time.reg = false ∧ t.time.regFailMask = m % 262144 ∧ ctrGet cRegFail t = min 0xFFFF (ctrGet cRegFail s + 1)) ∧
  (∀ (s : State), (s.pwr.hold = true) → exec .rereg s = .next { s with bar.regWanted := true, bar.regTries := 0, bar.regPass := s.time.now / 16000 + 1 }) ∧
  (∀ (s : State), (s.pwr.hold = false) → exec .rereg s = .next s) ∧
  (∀ (p : Nat) (s : State), (s.bar.regEnd = some p) → (p ≤ passNow s) → (s.bar.regWanted = false) → (s.start.cause ≠ 8) → registrationEnds s = { s with time.reg := true, time.regFailMask := 0, bar.regEnd := none, bar.regTries := 0, bar.registered := true }) ∧
  (∀ (p : Nat) (s : State), (s.bar.regEnd = some p) → (passNow s < p) → registrationEnds s = s)

/-- TIM_CTRL.BARRIER with a START_PASS at least two passes ahead, an identifier above the pending one and no node-to-node connection makes that barrier pending (RUN 1); one too near is discarded and counted. With PIN the node drives BARRIER_OUT high in stroke 32 of the next pass, and samples its own edge. A rising BARRIER_IN edge sampled in strokes 32 to 47 of pass Y makes a barrier pending for Y + 64 with the next identifier; any other is counted in BAR_BAD; a node with REPEAT copies the level of BARRIER_IN to BARRIER_OUT. At the boundary of START_PASS, RUN becomes 2 when the node is registered, locked and not in hold mode; otherwise BAR_LATE rises and RUN returns to 0. -/
def Obligations.BarrierChecks : Prop :=
  (∀ (s : State), (s.bar.pin = false) → (s.time.run ≠ 2) → (passNow s + 2 ≤ s.bar.startPass) → (s.bar.pendingId < s.bar.nextId) → (s.bar.nextId < 4294967296) → (nodeConns s = []) → exec .timCtrlBarrier s = .next { s with time.run := 1, bar.pendingPass := some s.bar.startPass, bar.pendingId := s.bar.nextId }) ∧
  (∀ (s : State), (s.bar.pin = false) → (s.bar.startPass < passNow s + 2) → exec .timCtrlBarrier s = .next (countEvent cBarBad unitNode s)) ∧
  (∀ (s : State), (s.bar.pin = true) → exec .timCtrlBarrier s = .next { s with bar.pinPass := some (passNow s + 1) }) ∧
  (∀ (s : State), (s.bar.pinPass = some (passNow s)) → (s.time.now / 250 % 64 = 32) → (s.bar.barrierOut = false) → exec .barrierOutPulse s = .next (sampleBarrier (s.time.now * 8) { s with bar.pinPass := none, bar.barrierOut := true, bar.outLow := some (s.time.elapsed + 16), out := s.out ++ [.barrierOut true] })) ∧
  (∀ (x : Nat) (s : State), (32 ≤ (x - s.time.barDelay) / 8 / 250 % 64) → ((x - s.time.barDelay) / 8 / 250 % 64 ≤ 47) → ∃ t, exec (.barrierInEdge ⟨true, x⟩) s = .next t ∧ t.time = { s.time with run := 1 } ∧ t.bar = { s.bar with barrierIn := true, barrierOut := t.bar.barrierOut, pendingPass := some ((x - s.time.barDelay) / 8 / 16000 + 64), pendingId := (s.bar.pendingId + 1) % 4294967296 } ∧ t = { s with time := t.time, bar := t.bar, out := t.out }) ∧
  (∀ (x : Nat) (s : State), ((x - s.time.barDelay) / 8 / 250 % 64 < 32 ∨ 47 < (x - s.time.barDelay) / 8 / 250 % 64) → exec (.barrierInEdge ⟨true, x⟩) s = .next (countEvent cBarBad unitNode (driveBarrier { s with bar.barrierIn := true }))) ∧
  (∀ (p : Nat) (s : State), (s.bar.pendingPass = some p) → (s.time.run = 1) → (s.time.now / 250 % 64 = 0) → (p ≤ passNow s) → (s.time.reg = true) → (s.time.lock = .locked) → (s.time.settling = false) → (s.pwr.hold = false) → exec .barrierStart s = .next { s with bar.pendingPass := none, time.run := 2 }) ∧
  (∀ (p : Nat) (s : State), (s.bar.pendingPass = some p) → (s.time.run = 1) → (s.time.now / 250 % 64 = 0) → (p ≤ passNow s) → (s.time.reg = false ∨ s.pwr.hold = true) → exec .barrierStart s = .next (countEvent cBarLate unitNode { s with bar.pendingPass := none, time.run := 0 })) ∧
  (∀ (x : Nat) (s : State), exec (.barrierInEdge ⟨false, x⟩) s = .next (driveBarrier { s with bar.barrierIn := false })) ∧
  (∀ (rising : Bool) (x : Nat) (s : State), (s.bar.repeat_ = true) → (s.bar.outLow = none) → ∃ t, exec (.barrierInEdge ⟨rising, x⟩) s = .next t ∧ t.bar.barrierOut = rising)

/-- A well-formed BARRIER on a node-to-node connection, far enough ahead, with a new identifier, no relays left and no seconds is taken: its credit returns and it is pending. On a connection with REQUESTER = 1 it is not accepted; a malformed body is counted in BAR_BAD. -/
def Obligations.BarrierMessage : Prop :=
  (∀ (c : Nat) (m : InMsg) (b : Barrier) (s : State), (inboxFind c 0x32 false s = some m) → ((connRec c s).requester = false) → (readBarrier m.body = some b) → (s.time.run ≠ 2) → (b.setSeconds = false) → (passNow s + 2 ≤ b.startPass) → (s.bar.pendingId < b.id) → (b.id < 4294967296) → (b.hops = 0) → ∃ t, exec (.barrier c) s = .next t ∧ t.bar = { s.bar with pendingPass := some b.startPass, pendingId := b.id } ∧ t.time = { s.time with run := 1 } ∧ t.tfx.inbox = dropFirst m s.tfx.inbox ∧ t = { s with bar := t.bar, time := t.time, tfx := t.tfx }) ∧
  (∀ (c : Nat) (m : InMsg) (s : State), (inboxFind c 0x32 false s = some m) → ((connRec c s).requester = true) → exec (.barrier c) s = .next (returnCredit c m.cls m.body.length (inboxTake m s))) ∧
  (∀ (c : Nat) (m : InMsg) (s : State), (inboxFind c 0x32 false s = some m) → ((connRec c s).requester = false) → (readBarrier m.body = none) → exec (.barrier c) s = .next (countEvent cBarBad unitNode (returnCredit c m.cls m.body.length (inboxTake m s))))

/-- The first ATTN that waits on a connection is taken in as a request with the next identifier, aimed at its slot's occurrence or at the best-effort class, while fewer than 16,384 requests are in flight and no request holds the same occurrence; nothing but the inbox and the request list changes. An ATTN beyond its connection's ATTN_CREDIT is discarded: its segments' credit returns, it is counted in OVERFLOW, and no request appears. An ATTN whose SLOT names no slot of its partition joins the best-effort class; one that names an occurrence of its own slot in time aims at it. A waiting host ATTN takes a token that is free. -/
def Obligations.AttnTakenIn : Prop :=
  (∀ (c : Nat) (m : InMsg) (s : State), (inboxFind c 0x01 false s = some m) → (m.beyond = false) → (inFlightCount s < 16384) → (s.sch.reqs.find? (sameOccurrence (aimed m s)) = none) → exec (.attn c) s = .next { s with tfx.inbox := dropFirst m s.tfx.inbox, sch.reqs := s.sch.reqs ++ [{ aimed m s with id := s.sch.nextReq }], sch.nextReq := s.sch.nextReq + 1 }) ∧
  (∀ (c : Nat) (m : InMsg) (s : State), (inboxFind c 0x01 false s = some m) → (m.beyond = true) → ∃ t, exec (.attn c) s = .next t ∧ t.tfx.inbox = dropFirst m s.tfx.inbox ∧ t.sch = s.sch ∧ ctrGet cOverflow t = min 0xFFFF (ctrGet cOverflow s + 1) ∧ t = { s with tfx := t.tfx, ctr := t.ctr, flt := t.flt }) ∧
  (∀ (m : InMsg) (s : State), (slotOf (connRec m.conn s).part (attnHdr m.body).slot 0 s = none) → (aimed m s).bestEffort = true ∧ (aimed m s).occ = none) ∧
  (∀ (m : InMsg) (sr : SlotRec) (a : Nat) (s : State), (slotOf (connRec m.conn s).part (attnHdr m.body).slot 0 s = some sr) → (nextOccurrence sr.slot m.at_ s = some a) → (sr.conn = m.conn) → (m.doneAt + 1 < a) → (aimed m s).bestEffort = false ∧ (aimed m s).occ = some a ∧ (aimed m s).slot = some sr) ∧
  (∀ (f : Nat) (c : Cmd) (s : State), (hostCmd f 0 1 s = some c) → (tokenFree s = true) → (partyStatus false c s = none) → (cmdReason c attnArgs s = none) → (hostAttnReason c s = none) → exec (.attnTokenTaken f) s = .next (submitAttn c s) ∧ (submitAttn c s).tfx.hostTokens = s.tfx.hostTokens + 1)

/-- In the stroke before its admission stroke a planned ATTN that passes the checks becomes checked, with the context descriptor and the reduction mode it is checked with, and its body's credit returns; memory, the directory, residency and the gravers are unchanged. In its admission stroke a checked request that the admission passes takes the committed length in force, the covered range that its BASE and LIMIT give, and the runs it will look up; the time base and the length table are unchanged. -/
def Obligations.AttnCheckAndAdmission : Prop :=
  (∀ (id : Nat) (r : Req) (c : Nat) (s : State), (reqFind id s = some r) → (r.phase = .taken) → (heldPart r.part s = false) → (r.bestEffort = false) → (r.occ = some (strokeCount s + 1)) → (r.conn = some c) → (attnIngestBad r.body s = false) → (attnStatus r (returnCredit c 1 r.body.length s) = 0) → ∃ t, exec (.attnCheckStroke id none) s = .next t ∧ t.sch.reqs = replaceWhere (fun x => x.id == r.id) (fun _ => { r with phase := .checked, desc := ctxWord r.hdr.ctx s, canon := (partRec r.part s).canonical }) s.sch.reqs ∧ t = { s with sch := t.sch, tfx := t.tfx }) ∧
  (∀ (id : Nat) (r : Req) (s : State), (reqFind id s = some r) → (r.phase = .checked) → (heldPart r.part s = false) → (r.bestEffort = false) → (r.occ = some (strokeCount s)) → (admissionStatus r (lenAtAdmission r.hdr.ctx s) (coveredRange r.hdr (lenAtAdmission r.hdr.ctx s)).1 (coveredRange r.hdr (lenAtAdmission r.hdr.ctx s)).2 s = 0) → ∃ t, exec (.admissionStroke id none) s = .next t ∧ t.sch.reqs = replaceWhere (fun x => x.id == r.id) (fun _ => { r with phase := .lookups, tree := treeOf r s, len := lenAtAdmission r.hdr.ctx s, lo := r.hdr.base, hi := max r.hdr.base (if r.hdr.limit = 0 then lenAtAdmission r.hdr.ctx s else min r.hdr.limit (lenAtAdmission r.hdr.ctx s)), admitTime := s.time.now, admitPass := s.time.now / 16000, runs := coveredRuns (coveredRange r.hdr (lenAtAdmission r.hdr.ctx s)).1 (coveredRange r.hdr (lenAtAdmission r.hdr.ctx s)).2 }) s.sch.reqs ∧ t.tel.live.admitted = min 0xFFFFFFFF (s.tel.live.admitted + 1) ∧ t = { s with sch := t.sch, tel := t.tel, ctr := t.ctr, flt := t.flt })

/-- ADMISSION_LOOKUP takes the lowest run still to look up: the request's list loses it, the hit or miss is recorded beside it, and LOOKUPS rises by one; ages apart, no directory entry changes when nothing is upset. WORK_DISPATCH of a planned request whose lookups all stand moves it to the dispatched phase with no hits left. A best-effort request whose gravers are open leaves the head of its queue and is counted in BEST_EFFORT. -/
def Obligations.LookupsAndDispatch : Prop :=
  (∀ (id run : Nat) (rest : List Nat) (up : DirUpset) (r : Req) (q s : State), (reqFind id s = some r) → (r.phase = .lookups) → (r.runs = run :: rest) → (lookupCycle r s = some q) → (up.shadowUe = []) → ∃ t ext, exec (.admissionLookup id up) s = .next t ∧ t.sch.reqs = replaceWhere (fun x => x.id == r.id) (fun _ => { r with runs := rest, hits := r.hits ++ [⟨run, ext⟩] }) s.sch.reqs ∧ t.tel.live.lookups = min 0xFFFFFFFF (s.tel.live.lookups + 1) ∧ t.mem = s.mem ∧ t.gravers = s.gravers) ∧
  (∀ (id : Nat) (ue : List Nat) (r : Req) (sl : SlotRec) (a : Nat) (s : State), (reqFind id s = some r) → (r.phase = .lookups) → (r.runs = []) → (r.bestEffort = false) → (r.slot = some sl) → (r.occ = some a) → (a + ceilDiv r.hits.length sl.lookups + max 1 (ceilDiv r.hits.length 256) ≤ strokeCount s + 1) → exec (.workDispatch id ue) s = .next (deliver r (allPages r ue s) (extentErrors r ue s))) ∧
  (∀ (p : Nat) (ue : List Nat) (r : Req) (s : State), (heldPart p s = false) → (higherStageWaits s = false) → (headReady p s = some r) → ((workOf r (allPages r ue s) s).all (fun x => graverOpen x.1 (shareStrokes s.mgmt.grade r.hdr r.geo x.2) s) = true) → (bufferFree r s = true) → ∃ t u, exec (.bestEffortDispatch p ue) s = .next t ∧ t = (match reqFind r.id u, entryFind r.id u with | some q, some e => if bestEffortDone q e u then closeEntry q e u else u | _, _ => u) ∧ u.sch = (deliver r (allPages r ue s) (extentErrors r ue { s with sch.queues := upd [] s.sch.queues p fun q => q.drop 1 })).sch ∧ (∀ x ∈ workOf r (allPages r ue s) s, (graver x.1 u).st = .working ∧ (graver x.1 u).current = some r.id)) ∧
  (∀ (p : Nat) (r : Req) (s : State), (heldPart p s = false) → (higherStageWaits s = false) → (headReady p s = some r) → ((workOf r (allPages r [] s) s).all (fun x => graverOpen x.1 (shareStrokes s.mgmt.grade r.hdr r.geo x.2) s) = true) → (bufferFree r s = true) → ∃ t, exec (.bestEffortDispatch p []) s = .next t ∧ t.tel.live.bestEffort = min 0xFFFFFFFF (s.tel.live.bestEffort + 1) ∧ t.mem.stk = s.mem.stk ∧ t.dir = s.dir) ∧
  (∀ (p : Nat) (ue : List Nat) (s : State), (higherStageWaits s = true) → exec (.bestEffortDispatch p ue) s = .next s) ∧
  (∀ (id : Nat) (ue : List Nat) (r : Req) (sl : SlotRec) (a : Nat) (s : State), (reqFind id s = some r) → (r.slot = some sl) → (r.occ = some a) → (strokeCount s + 1 < a + ceilDiv r.hits.length sl.lookups + max 1 (ceilDiv r.hits.length 256)) → exec (.workDispatch id ue) s = .next s)

/-- In its turn of the pass, with the cycles it needs in one range, a port command takes its cycles, counts in PORT_CMDS and ends its BUSY; until then it waits. It runs with the key, mask and data that its port held when CMD was written. SEARCH at an index of the range returns the lowest match at or above it, with its key and data, and no hit when nothing matches; an index outside the range is refused with REASON 1, and a reserved key with REASON 2. COUNT returns the number of matches. READ returns an entry's V, HELD, key and data. No directory entry changes, where every entry it reads agrees with its shadow. -/
def Obligations.DirectoryPortReads : Prop :=
  (∀ (p j : Nat) (c : DirCmd) (u s : State), (portTurn p 1 1 s = some (c, u)) → (badIndex p c.index u = false) → (reservedKey c.key = false) → ((rawHits p c.key c.mask u).all (fun k => shadowAgrees k u) = true) → ((dirMatches p c.key c.mask u).find? (fun k => c.index ≤ k) = some j) → exec (.search p) s = .next (setPort p { dirPort p u with busy := false, cmd := none, reason := 0, code := 0, hit := true, index := j, rkey := (dirEntry j u).key, rdata := (dirEntry j u).data } u)) ∧
  (∀ (p : Nat) (c : DirCmd) (u s : State), (portTurn p 1 1 s = some (c, u)) → (badIndex p c.index u = false) → (reservedKey c.key = false) → ((rawHits p c.key c.mask u).all (fun k => shadowAgrees k u) = true) → ((dirMatches p c.key c.mask u).find? (fun k => c.index ≤ k) = none) → exec (.search p) s = .next (setPort p { dirPort p u with busy := false, cmd := none, reason := 0, code := 0, hit := false } u)) ∧
  (∀ (p : Nat) (c : DirCmd) (u s : State), (portTurn p 1 1 s = some (c, u)) → (badIndex p c.index u = true) → exec (.search p) s = .next (setPort p { dirPort p u with busy := false, cmd := none, reason := 1, code := 0x08 } u)) ∧
  (∀ (p : Nat) (c : DirCmd) (u s : State), (portTurn p 2 1 s = some (c, u)) → (reservedKey c.key = false) → ((rawHits p c.key c.mask u).all (fun k => shadowAgrees k u) = true) → exec (.count p) s = .next (setPort p { dirPort p u with busy := false, cmd := none, reason := 0, code := 0, count := (dirMatches p c.key c.mask u).length } u)) ∧
  (∀ (p : Nat) (c : DirCmd) (u s : State), (portTurn p 3 1 s = some (c, u)) → (badIndex p c.index u = false) → (shadowAgrees c.index u = true) → exec (.read p) s = .next (setPort p { dirPort p u with busy := false, cmd := none, reason := 0, code := 0, hit := (dirEntry c.index u).v, heldBit := (dirEntry c.index u).held, rkey := (dirEntry c.index u).key, rdata := (dirEntry c.index u).data } u)) ∧
  (∀ (p : Nat) (c : DirCmd) (u s : State), (portTurn p 1 1 s = some (c, u)) → (badIndex p c.index u = false) → (reservedKey c.key = true) → exec (.search p) s = .next (setPort p { dirPort p u with busy := false, cmd := none, reason := 2, code := 0x08 } u)) ∧
  (∀ (p op cost : Nat) (c : DirCmd) (u s : State), (portTurn p op cost s = some (c, u)) → (dirPort p s).cmd = some c ∧ c.op = op ∧ u.dir.entries = s.dir.entries ∧ u.dir.shadows = s.dir.shadows ∧ u.dir.ports = s.dir.ports ∧ u.tel.live.portCmds = min 0xFFFFFFFF (s.tel.live.portCmds + 1) ∧ u = { s with dir := u.dir, tel := u.tel }) ∧
  (∀ (p : Nat) (s : State), (portTurn p 1 1 s = none) → exec (.search p) s = .next s)

/-- INVALIDATE of a valid entry without TAIL makes it invalid and held from now on, with its extent in GRACE. WRITE stores the command's key and data in an entry that is not valid and holds it; a valid entry is refused with REASON 6. VALIDATE of a held entry whose key and BUILT extent pass makes it valid and not held and its extent LIVE; it is refused with the lowest reason that fails, REASON 3 for a bad key even where the entry is not held. SWAP of a valid entry that still holds the expected data stores the new data, the old extent enters GRACE and the new one becomes LIVE; an entry that holds other data is refused with REASON 8. RELEASE of a held entry ends its hold. BULK_INVALIDATE makes every match without TAIL invalid and returns how many. Each update writes the entry and its shadow together. -/
def Obligations.DirectoryPortUpdates : Prop :=
  (∀ (p : Nat) (c : DirCmd) (u s : State), (portTurn p 4 1 s = some (c, u)) → (badIndex p c.index u = false) → (shadowAgrees c.index u = true) → ((dirEntry c.index u).v = true) → (dataTail (dirEntry c.index u).data = false) → exec (.invalidate p) s = .next (portDone p id (extToGrace (dataExt (dirEntry c.index u).data) (writeEntry c.index { dirEntry c.index u with v := false, held := true, heldAt := u.time.elapsed } u)))) ∧
  (∀ (p : Nat) (c : DirCmd) (u s : State), (portTurn p 5 1 s = some (c, u)) → (badIndex p c.index u = false) → (shadowAgrees c.index u = true) → ((dirEntry c.index u).v = false) → exec (.write p) s = .next (portDone p id (writeEntry c.index { dirEntry c.index u with key := c.key, data := c.data, held := true, heldAt := if (dirEntry c.index u).held then (dirEntry c.index u).heldAt else u.time.elapsed } u))) ∧
  (∀ (p : Nat) (c : DirCmd) (u s : State), (portTurn p 5 1 s = some (c, u)) → (badIndex p c.index u = false) → ((dirEntry c.index u).v = true) → exec (.write p) s = .next (setPort p { dirPort p u with busy := false, cmd := none, reason := 6, code := 0x08 } u)) ∧
  (∀ (p : Nat) (c : DirCmd) (u s : State), (portTurn p 6 9 s = some (c, u)) → (badIndex p c.index u = false) → (shadowAgrees c.index u = true) → ((rawHits p (dirEntry c.index u).key fullMask u).all (fun k => shadowAgrees k u) = true) → ((dirEntry c.index u).v = false) → ((dirEntry c.index u).held = true) → ((dirEntry c.index u).lostExt = none) → (keyCheckFails p (dirEntry c.index u).key u = false) → (dataReserved (dirEntry c.index u).data = false) → ((dirMatches p (dirEntry c.index u).key fullMask u).any (fun k => k != c.index) = false) → (extBuiltFor (dataExt (dirEntry c.index u).data) p u = true) → (dataTail (dirEntry c.index u).data = false) → exec (.validate p) s = .next (portDone p id (extToLive (dataExt (dirEntry c.index u).data) (writeEntry c.index { dirEntry c.index u with v := true, held := false, heldAt := 0, lost := false, lostExt := none } u)))) ∧
  (∀ (p : Nat) (c : DirCmd) (u s : State), (portTurn p 7 1 s = some (c, u)) → (badIndex p c.index u = false) → (shadowAgrees c.index u = true) → (dataReserved c.data = false) → (extBuiltFor (dataExt c.data) p u = true) → ((dirEntry c.index u).v = true) → (dataTail (dirEntry c.index u).data = false) → (dataTail c.data = false) → ((dirEntry c.index u).data = (dirPort p u).rdata) → exec (.swap p) s = .next (portDone p id (extToGrace (dataExt (dirEntry c.index u).data) (extToLive (dataExt c.data) (writeEntry c.index { dirEntry c.index u with data := c.data } u))))) ∧
  (∀ (p : Nat) (c : DirCmd) (u s : State), (portTurn p 7 1 s = some (c, u)) → (badIndex p c.index u = false) → (dataReserved c.data = false) → (extBuiltFor (dataExt c.data) p u = true) → ((dirEntry c.index u).v = true) → (dataTail (dirEntry c.index u).data = false) → (dataTail c.data = false) → ((dirEntry c.index u).data ≠ (dirPort p u).rdata) → exec (.swap p) s = .next (setPort p { dirPort p u with busy := false, cmd := none, reason := 8, code := 0x08 } u)) ∧
  (∀ (p : Nat) (c : DirCmd) (u s : State), (portTurn p 8 1 s = some (c, u)) → (badIndex p c.index u = false) → (shadowAgrees c.index u = true) → ((dirEntry c.index u).v = false) → ((dirEntry c.index u).held = true) → ((dirEntry c.index u).lostExt = none) → exec (.release p) s = .next (portDone p id (writeEntry c.index { dirEntry c.index u with held := false, heldAt := 0, lost := false, lostExt := none } u))) ∧
  (∀ (p : Nat) (c : DirCmd) (u s : State), (portTurn p 9 1 s = some (c, u)) → (reservedKey c.key = false) → ((rawHits p c.key c.mask u).all (fun k => shadowAgrees k u) = true) → exec (.bulkInvalidate p) s = .next (portDone p (fun pt => { pt with count := ((dirMatches p c.key c.mask u).filter fun k => !dataTail (dirEntry k u).data).length }) (bulkInvalidate p c.key c.mask u).2)) ∧
  (∀ (p : Nat) (c : DirCmd) (u s : State), (portTurn p 6 9 s = some (c, u)) → (badIndex p c.index u = false) → (keyCheckFails p (dirEntry c.index u).key u = true) → exec (.validate p) s = .next (setPort p { dirPort p u with busy := false, cmd := none, reason := 3, code := 0x08 } u)) ∧
  (∀ (p : Nat) (c : DirCmd) (u s : State), (portTurn p 8 1 s = some (c, u)) → (badIndex p c.index u = false) → ((dirEntry c.index u).v = false) → ((dirEntry c.index u).held = false) → exec (.release p) s = .next (setPort p { dirPort p u with busy := false, cmd := none, reason := 6, code := 0x08 } u))

/-- A held entry that is not valid and not lost is let go once its lease of 65,536 passes has run out, with an event of the lease class and no fault. An extent leaves GRACE for FREE, with all its words back at their defaults, once the pass of entry is past and no request admitted in or before it is unanswered. TAIL_CLEAR_ON_CLOSE takes the closed context off the list and one node-update cycle. The patrol moves on by the stroke's patrol cycles and wraps after entry 262,143; of entries that all agree with their shadows it changes none; an entry of the range that differs from its shadow is rewritten from it and counted in KEY_REPAIRED. STATE_ONLY_SWAP_RETRY tries the waiting swap: made, it names a new LIVE extent with the changed words; one whose run is gone needs no change any more. -/
def Obligations.DirectoryUpkeep : Prop :=
  (∀ (i : Nat) (s : State), ((dirEntry i s).v = false) → ((dirEntry i s).held = true) → ((dirEntry i s).lost = false) → ((dirEntry i s).heldAt + 4194304 ≤ s.time.elapsed) → ∃ t, exec (.directoryLeaseExpiry i) s = .next t ∧ t.dir = { s.dir with entries := put {} s.dir.entries i { dirEntry i s with held := false, heldAt := 0 }, shadows := put {} s.dir.shadows i ⟨(dirEntry i s).key, (dirEntry i s).data, false, false⟩ } ∧ t = { s with dir := t.dir, flt := t.flt }) ∧
  (∀ (x p pass : Nat) (s : State), ((extent x s).st = .grace p pass) → (pass < passNow s) → (s.sch.reqs = []) → ∃ t, exec (.extentGraceEnd x) s = .next t ∧ t.dir = { s.dir with extents := put {} s.dir.extents x {} } ∧ t.mem = { s.mem with tier := t.mem.tier } ∧ t = { s with dir := t.dir, mem := t.mem, res := t.res, fsh := t.fsh }) ∧
  (∀ (ctx tenant : Nat) (q s : State), (takeNode 1 s = some q) → (s.dir.tailClear.find? (fun x => x.2 == ctx) = some (tenant, ctx)) → ∃ t, exec (.tailClearOnClose ctx) s = .next t ∧ t.dir.tailClear = s.dir.tailClear.filter (fun x => x != (tenant, ctx)) ∧ t.dir.nodeRanges = q.dir.nodeRanges ∧ t.dir.freeCycles = q.dir.freeCycles ∧ t.dir.extents = s.dir.extents ∧ t = { s with dir := t.dir, ctr := t.ctr, flt := t.flt }) ∧
  (∀ (up : DirUpset) (s : State), ∃ t, exec (.directoryPatrol up) s = .next t ∧ t.dir.patrolCycles = 0 ∧ t.dir.patrolPos = (if s.dir.patrolPos + min s.dir.patrolCycles (262144 - s.dir.patrolPos) = 262144 then 0 else s.dir.patrolPos + min s.dir.patrolCycles (262144 - s.dir.patrolPos))) ∧
  (∀ (i : Nat) (k : BitVec 80) (s : State), (s.dir.patrolPos = i) → (s.dir.patrolCycles = 1) → (i < 262143) → (shadowAgrees i s = true) → (k ≠ 0) → (storeWf {} s.dir.entries = true) → ∃ t, exec (.directoryPatrol ⟨[(i, k, 0)], [], [], []⟩) s = .next t ∧ t.dir = { s.dir with patrolPos := i + 1, patrolCycles := 0 } ∧ ctrGet cKeyRepaired t = min 0xFFFF (ctrGet cKeyRepaired s + 1)) ∧
  (∀ (w : StateSwap) (t : State) (s : State), (s.dir.stateSwaps = [w]) → (tryStateSwap w { s with dir.stateSwaps := [] } = some t) → exec .stateOnlySwapRetry s = .next t) ∧
  (∀ (s : State), ((s.dir.entries.map (·.1) ++ s.dir.shadows.map (·.1)).all (fun i => shadowAgrees i s) = true) → (s.dir.patrolPos + s.dir.patrolCycles < 262144) → exec (.directoryPatrol ⟨[], [], [], []⟩) s = .next { s with dir.patrolPos := s.dir.patrolPos + s.dir.patrolCycles, dir.patrolCycles := 0 }) ∧
  (∀ (w : StateSwap) (s : State), (s.dir.stateSwaps = [w]) → (dirLookup w.part w.key s = none) → exec .stateOnlySwapRetry s = .next { s with dir.stateSwaps := [] }) ∧
  (∀ (w : StateSwap) (i p x : Nat) (q u s : State), (s.dir.stateSwaps = [w]) → (dirLookup w.part w.key s = some i) → (shadowAgrees i s = true) → (w.changes.filter (fun c => c.applies (extent (dataExt (dirEntry i s).data) s)) ≠ []) → (takeNode 1 { s with dir.stateSwaps := [] } = some q) → (extPart (extent (dataExt (dirEntry i s).data) s).st = some p) → (allocExtent p q = some (x, u)) → (x ≠ dataExt (dirEntry i s).data) → ∃ t, exec .stateOnlySwapRetry s = .next t ∧ t.dir.stateSwaps = [] ∧ (extent x t).st = .live p ∧ (extent x t).words = changeWords (extent (dataExt (dirEntry i s).data) s).words ((w.changes.filter fun c => c.applies (extent (dataExt (dirEntry i s).data) s)).map fun c => (c.pos, c.new)))

/-- An APPEND or COMMIT that the shared checks refuse is answered with the status, counted in COMMIT_REFUSED, and changes no page, no directory entry and no length. One whose rows reach pages that stand is stored when the stacks' links serve it: S of its layer and KV group rises to the end of its rows, and a COMMIT sets the committed length. A COMMIT with no rows and a permitted NEW_L sets the committed length, and its completion carries ST_OK. A write whose cycles or links are not there yet waits. Either way an admitted message leaves the inbox and its credit returns. -/
def Obligations.AppendAndCommit : Prop :=
  (∀ (c : Nat) (m : InMsg) (s : State), (nextWrite c 0x03 s = some m) → (m.conn = c) → (rowsBad (appendHdr m.body) m.body s = false) → (writeStatus (connRec c s).part (connRec c s).tenant (appendHdr m.body) m.body s ≠ 0) → ∃ t, exec (.append c none) s = .next t ∧ ctrGet cCommitRefused t = min 0xFFFF (ctrGet cCommitRefused s + 1) ∧ t.tfx.inbox = dropFirst m s.tfx.inbox ∧ t = { s with tfx := t.tfx, ctr := t.ctr, flt := t.flt, sch := { s.sch with slotTaken := t.sch.slotTaken } }) ∧
  (∀ (c : Nat) (m : InMsg) (s : State), (nextWrite c 0x04 s = some m) → (m.conn = c) → ((commitHdr m.body).hasRows = false) → (writeStatus (connRec c s).part (connRec c s).tenant (commitHdr m.body) m.body s = 0) → (newLBad (commitHdr m.body) s = false) → ∃ t, exec (.commit c none) s = .next t ∧ t.res.lens = put 0 s.res.lens (commitHdr m.body).ctx (commitHdr m.body).newL ∧ t.tfx.inbox = dropFirst m s.tfx.inbox ∧ t.ctr = s.ctr ∧ t.mem = s.mem ∧ t.dir = s.dir ∧ t = { s with tfx := t.tfx, res := t.res, sch := { s.sch with slotTaken := t.sch.slotTaken } }) ∧
  (∀ (c : Nat) (m : InMsg) (t : State) (s : State), (nextWrite c 0x03 s = some m) → (m.conn = c) → (writeStatus (connRec c s).part (connRec c s).tenant (appendHdr m.body) m.body s = 0) → ((appendHdr m.body).hasRows = true) → (storeRows (writeTurn m s == .bestEffort) ⟨(appendHdr m.body).ctx, (appendHdr m.body).layer, (appendHdr m.body).group, (appendHdr m.body).t0, tokenRecs (ctxGeo (appendHdr m.body).ctx s) (appendHdr m.body).nrows m.body⟩ s = .stored t) → exec (.append c none) s = .next (sendCompletion c m.typ (appendHdr m.body).tag 0 0 (takeWrite m t))) ∧
  (∀ (c : Nat) (m : InMsg) (t : State) (s : State), (nextWrite c 0x03 s = some m) → (m.conn = c) → (writeStatus (connRec c s).part (connRec c s).tenant (appendHdr m.body) m.body s = 0) → ((appendHdr m.body).hasRows = true) → (storeRows (writeTurn m s == .bestEffort) ⟨(appendHdr m.body).ctx, (appendHdr m.body).layer, (appendHdr m.body).group, (appendHdr m.body).t0, tokenRecs (ctxGeo (appendHdr m.body).ctx s) (appendHdr m.body).nrows m.body⟩ s = .waits t) → exec (.append c none) s = .next t) ∧
  (∀ (c : Nat) (m : InMsg) (s : State), (nextWrite c 0x03 s = some m) → (m.conn = c) → (writeStatus (connRec c s).part (connRec c s).tenant (appendHdr m.body) m.body s = 0) → ((appendHdr m.body).hasRows = true) → (frozen (appendHdr m.body).ctx (appendHdr m.body).layer (appendHdr m.body).group s = false) → (reachesDropped ⟨(appendHdr m.body).ctx, (appendHdr m.body).layer, (appendHdr m.body).group, (appendHdr m.body).t0, tokenRecs (ctxGeo (appendHdr m.body).ctx s) (appendHdr m.body).nrows m.body⟩ s = false) → (freshPages ⟨(appendHdr m.body).ctx, (appendHdr m.body).layer, (appendHdr m.body).group, (appendHdr m.body).t0, tokenRecs (ctxGeo (appendHdr m.body).ctx s) (appendHdr m.body).nrows m.body⟩ s = []) → (∀ st, linkTurn (writeTurn m s == .bestEffort) [st] s = true) → ∃ t, exec (.append c none) s = .next t ∧ t.res.staged = upd 0 s.res.staged (stagedKey (appendHdr m.body).ctx (appendHdr m.body).layer (appendHdr m.body).group) (fun n => max n ((appendHdr m.body).t0 + (appendHdr m.body).nrows)) ∧ t.res.lens = s.res.lens ∧ t.tfx.inbox = dropFirst m s.tfx.inbox ∧ t.mem = { s.mem with stk := t.mem.stk }) ∧
  (∀ (c : Nat) (m : InMsg) (s : State), (nextWrite c 0x04 s = some m) → (m.conn = c) → (writeStatus (connRec c s).part (connRec c s).tenant (commitHdr m.body) m.body s = 0) → ((commitHdr m.body).hasRows = true) → (newLBad (commitHdr m.body) s = false) → (frozen (commitHdr m.body).ctx (commitHdr m.body).layer (commitHdr m.body).group s = false) → (reachesDropped ⟨(commitHdr m.body).ctx, (commitHdr m.body).layer, (commitHdr m.body).group, (commitHdr m.body).t0, tokenRecs (ctxGeo (commitHdr m.body).ctx s) (commitHdr m.body).nrows m.body⟩ s = false) → (freshPages ⟨(commitHdr m.body).ctx, (commitHdr m.body).layer, (commitHdr m.body).group, (commitHdr m.body).t0, tokenRecs (ctxGeo (commitHdr m.body).ctx s) (commitHdr m.body).nrows m.body⟩ s = []) → (∀ st, linkTurn (writeTurn m s == .bestEffort) [st] s = true) → ∃ t, exec (.commit c none) s = .next t ∧ t.res.staged = upd 0 s.res.staged (stagedKey (commitHdr m.body).ctx (commitHdr m.body).layer (commitHdr m.body).group) (fun n => max n ((commitHdr m.body).t0 + (commitHdr m.body).nrows)) ∧ t.res.lens = put 0 s.res.lens (commitHdr m.body).ctx (commitHdr m.body).newL ∧ t.tfx.inbox = dropFirst m s.tfx.inbox ∧ t.mem = { s.mem with stk := t.mem.stk })

/-- A CANCEL received in an earlier stroke whose TAG no request of its tenant carries leaves the inbox, returns its credit and is counted in CANCEL_MISS; one request that is still only checked is ended by it and counted in CANCELLED, and one at work on gravers is marked cancelled. A graver that runs a cancelled request abandons at its sweep boundary what its blocks still hold, and goes idle when no window waits. The host's ATTN takes a token and becomes a best-effort request; a host CANCEL in hold mode ends with ST_FENCED. -/
def Obligations.CancelAndHostAttn : Prop :=
  (∀ (c : Nat) (m : InMsg) (s : State), (heldPart (connRec c s).part s = false) → (inboxFind c 0x05 false s = some m) → (m.doneAt < strokeCount s) → (s.sch.reqs.filter (fun q => q.tenant == (connRec c s).tenant && q.tag == u m.body 0 8 && q.phase == .taken) = []) → (m.body.length = 16) → (zeroes (m.body.drop 8) = true) → (s.sch.reqs.filter (fun q => q.tenant == (connRec c s).tenant && q.tag == u m.body 0 8 && inFlight q && !q.cancelled) = []) → exec (.cancel c) s = .next (countEvent cCancelMiss unitNode (returnCredit c m.cls m.body.length (inboxTake m s)))) ∧
  (∀ (c : Nat) (m : InMsg) (r : Req) (s : State), (heldPart (connRec c s).part s = false) → (inboxFind c 0x05 false s = some m) → (m.doneAt < strokeCount s) → (s.sch.reqs.filter (fun q => q.tenant == (connRec c s).tenant && q.tag == u m.body 0 8 && q.phase == .taken) = []) → (m.body.length = 16) → (zeroes (m.body.drop 8) = true) → (s.sch.reqs.filter (fun q => q.tenant == (connRec c s).tenant && q.tag == u m.body 0 8 && inFlight q && !q.cancelled) = [r]) → (r.phase = .dispatched) → ∃ t, exec (.cancel c) s = .next t ∧ t.sch.reqs = replaceWhere (fun x => x.id == r.id) (fun _ => { r with cancelled := true }) s.sch.reqs ∧ t.gravers = mapStore {} (cancelOn r) s.gravers ∧ ctrGet cCancelled t = min 0xFFFF (ctrGet cCancelled s + 1) ∧ t = { s with tfx := t.tfx, sch := t.sch, gravers := t.gravers, ctr := t.ctr, flt := t.flt }) ∧
  (∀ (g : Nat) (r : Req) (s : State), ((graver g s).st = .working) → ((graver g s).cancelled = true) → ((graver g s).current = some r.id) → (reqFind r.id s = some r) → ((graver g s).block = none) → ((graver g s).delayed = false) → exec (.cancelAtSweepBoundary g) s = .next (setGraver g (finishWork ((openBlocks r.id (graver g s)).flatMap (blockCov r 0x05)) s (graver g s)) s)) ∧
  (∀ (f : Nat) (c : Cmd) (s : State), (hostCmd f 0 1 s = some c) → (cmdReason c attnArgs s = none) → (partyStatus false c s = none) → (hostAttnReason c s = none) → (tokenFree s = true) → exec (.hostAttn f) s = .next (submitAttn c s)) ∧
  (∀ (f : Nat) (c : Cmd) (s : State), (hostCmd f 0 2 s = some c) → (cmdReason c [(0x00, 64)] s = none) → (partyStatus false c s = none) → (s.pwr.hold = false) → (s.sch.reqs = []) → exec (.hostCancel f) s = .next (endCmd c 0 0 0 (countEvent cCancelMiss unitNode s))) ∧
  (∀ (f : Nat) (c : Cmd) (s : State), (hostCmd f 0 2 s = some c) → (cmdReason c [(0x00, 64)] s = none) → (partyStatus false c s = none) → (s.pwr.hold = true) → exec (.hostCancel f) s = .next (endCmd c 0x30 0 0 s)) ∧
  (∀ (f : Nat) (c : Cmd) (s : State), (hostCmd f 0 2 s = some c) → (cmdReason c [(0x00, 64)] s = none) → (partyStatus false c s = none) → (s.pwr.hold = false) → exec (.hostCancel f) s = .next (endCmd c 0 0 (cancelTag c.tenant (c.arg 0 8) s).1 (cancelTag c.tenant (c.arg 0 8) s).2)) ∧
  (∀ (g : Nat) (r : Req) (b : OpenBlock) (s : State), ((graver g s).st = .working) → ((graver g s).cancelled = true) → ((graver g s).current = some r.id) → (reqFind r.id s = some r) → ((graver g s).block = some b) → (b.swept = 3) → ((graver g s).delayed = false) → exec (.cancelAtSweepBoundary g) s = .next (setGraver g (finishWork ((openBlocks r.id (closeOpen r b (graver g s))).flatMap (blockCov r 0x05)) s (closeOpen r b (graver g s))) s))

/-- SWEEP_1 of a working graver puts the scores of the open block on the sheet with each row's maximum; SWEEP_2 puts the quantised weights on the sheet and keeps the sums; SWEEP_3 keeps the outputs; corrected errors of the sheet's words are counted. BLOCK_CLOSE forms the block's impression and adds one to GRV_BLOCKS.DONE; after the last block of a request the graver is idle unless another window waits. A block that was open when its window ended is counted in OVERRUN once. -/
def Obligations.GraverSweeps : Prop :=
  (∀ (g : Nat) (ue : List Nat) (r : Req) (b : OpenBlock) (s : State), (openAt g 0 s = some (r, b)) → (readsPause g b.block s = false) → ((ue.filter fun p => b.block.pages.any fun x => x.page == p) = []) → ((blockScores r b.block [] s).2 = false) → (substituted r b.block false [] s = []) → exec (.sweep1 g ue) s = .next (setGraver g { graver g s with block := some { b with swept := 1, rowMax := (blockScores r b.block [] s).1.map rowMaximum, deadPages := [], saturated := false }, sheet := writeScores (blockLen r b.block) (blockScores r b.block [] s).1 (graver g s).sheet, atBoundary := (graver g s).cancelled, renewed := s.time.elapsed } s)) ∧
  (∀ (g corrected : Nat) (ueWords : List (Nat × Nat)) (r : Req) (b : OpenBlock) (s : State), (openAt g 1 s = some (r, b)) → (sweptWords (ceilDiv (blockLen r b.block) 32) ueWords = []) → exec (.sweep2 g ⟨corrected, ueWords⟩) s = .next (sheetCorrected g corrected (setGraver g { graver g s with block := some { b with swept := 2, rowMax := (blockWeights r b.block b.deadPages (sheetScores r b.block (graver g s).sheet)).1, sums := (blockWeights r b.block b.deadPages (sheetScores r b.block (graver g s).sheet)).2.map (·.1), deadRows := b.deadRows ++ [] }, sheet := writeWeights r.hdr.precise (blockWeightWords r b) ((blockWeights r b.block b.deadPages (sheetScores r b.block (graver g s).sheet)).2.map (·.2)) (graver g s).sheet, atBoundary := (graver g s).cancelled, renewed := s.time.elapsed } s))) ∧
  (∀ (g corrected : Nat) (ue : List Nat) (ueWords : List (Nat × Nat)) (r : Req) (b : OpenBlock) (s : State), (openAt g 2 s = some (r, b)) → (readsPause g b.block s = false) → ((ue.filter fun p => (b.block.pages.any fun x => x.page == p) && !b.deadPages.contains p) = []) → (sweptWords (blockWeightWords r b) ueWords = []) → (substituted r b.block true b.deadPages s = []) → ∃ t ws, exec (.sweep3 g ue ⟨corrected, ueWords⟩) s = .next t ∧ ws = sheetWeights r.hdr.precise r.hdr.rows (groupSizes r b) (graver g s).sheet ∧ t.gravers = put {} s.gravers g { graver g s with block := some { b with swept := 3, sums := (List.zip b.sums ws).map (·.1), outs := blockOuts r b.block b.deadPages b.rowMax ((List.zip b.sums ws).map (·.2)) s, deadPages := b.deadPages, deadRows := b.deadRows }, atBoundary := (graver g s).cancelled, renewed := s.time.elapsed } ∧ t = { s with gravers := t.gravers, ctr := t.ctr, flt := t.flt }) ∧
  (∀ (g : Nat) (r : Req) (b : OpenBlock) (s : State), (openAt g 3 s = some (r, b)) → ((graver g s).cancelled = false) → ((graver g s).delayed = false) → ∃ gv, exec (.blockClose g) s = .next (setGraver g gv s) ∧ gv.done = ((graver g s).done + 1) % 2 ^ 64) ∧
  (∀ (g we ce : Nat) (b : OpenBlock) (s : State), ((graver g s).block = some b) → ((graver g s).windowEnd = some we) → ((graver g s).chainEnd = some ce) → (b.openedAt < we) → (we ≤ strokeCount s) → (strokeCount s < ce) → (b.overrun = false) → ((graver g s).delayed = false) → ∃ t, exec (.overrun g) s = .next t ∧ ctrGet (cOverrun g) t = min 0xFFFF (ctrGet (cOverrun g) s + 1) ∧ t.gravers = put {} s.gravers g { graver g s with block := some { b with overrun := true } } ∧ t.sch = s.sch ∧ exec (.overrun g) t = .next t) ∧
  (∀ (g : Nat) (r : Req) (b : OpenBlock) (s : State), (openAt g 3 s = some (r, b)) → ((graver g s).cancelled = false) → ((graver g s).delayed = false) → (((graver g s).descs.filter (fun d => d.req == r.id)).flatMap (·.blocks) = []) → ((graver g s).descs.find? (fun d => d.req != r.id && d.opened) = none) → exec (.blockClose g) s = .next (setGraver g { closeOpen r b (graver g s) with finished := (graver g s).finished ++ [(r.id, (closeOpen r b (graver g s)).frags, (closeOpen r b (graver g s)).cov ++ [])], descs := (graver g s).descs.filter fun d => d.req != r.id, frags := [], cov := [], atBoundary := false, current := none, st := .idle, delayed := false, windowEnd := none, chainEnd := none, renewed := s.time.elapsed } s)) ∧
  (∀ (g : Nat) (ue : List Nat) (s : State), (openAt g 0 s = none) → exec (.sweep1 g ue) s = .next s)

/-- CHAIN_MERGE with the finished gravers of a stack and no open partner adds one arrival of that stack to the request's entry and takes the finished work off the gravers. SHEET_PATROL counts in SHEET_CE each corrected error of a word of a bank that is on, and changes nothing of a graver whose banks are off; an uncorrectable error with no block open counts and raises its fault. BANK_READY turns on exactly the banks whose wake delay has passed. -/
def Obligations.ChainAndUpkeep : Prop :=
  (∀ (st id : Nat) (corrected : List Nat) (r : Req) (e : ColEntry) (s : State), ((s.gravers.filter fun x => x.1 / 16 == st && x.2.finished.any fun f => f.1 == id) ≠ []) → ((s.gravers.filter fun x => x.1 / 16 == st && (!(openBlocks id x.2).isEmpty || x.2.current == some id)) = []) → (reqFind id s = some r) → (entryFind id s = some e) → (e.closedAt = none) → ∃ t a, exec (.chainMerge st id corrected []) s = .next t ∧ a.source = st ∧ a.status = 0 ∧ a.admitAt = r.admitTime ∧ t.gravers = mapStore {} (fun gv => { gv with finished := gv.finished.filter fun f => f.1 != id }) s.gravers ∧ (∃ e2 ∈ t.sch.entries, e2.req = some id ∧ e2.arrivals = e.arrivals ++ [a]) ∧ t = { s with gravers := t.gravers, sch := t.sch, ctr := t.ctr, flt := t.flt }) ∧
  (∀ (g : Nat) (corrected : List (Nat × Nat)) (s : State), exec (.sheetPatrol g corrected none) s = .next (sheetCorrected g (corrected.filter (wordOn (graver g s))).length s)) ∧
  (∀ (g : Nat) (corrected : List (Nat × Nat)) (ueWord : Option (Nat × Nat)) (s : State), (∀ w, wordOn (graver g s) w = false) → ∃ t, exec (.sheetPatrol g corrected ueWord) s = .next t ∧ t.ctr = s.ctr ∧ t.flt.fifo = s.flt.fifo ∧ t = { s with flt := t.flt }) ∧
  (∀ (g b : Nat) (s : State), ((graver g s).waking = [(b, s.time.elapsed)]) → exec (.bankReady g) s = .next (setGraver g { graver g s with banks := put 0 (graver g s).banks b 2, waking := [] } s)) ∧
  (∀ (g : Nat) (corrected : List (Nat × Nat)) (w : Nat × Nat) (s : State), (wordOn (graver g s) w = true) → ((graver g s).block = none) → exec (.sheetPatrol g corrected (some w)) s = .next (sheetErrors g [w] (sheetCorrected g (corrected.filter (wordOn (graver g s))).length s))) ∧
  (∀ (g n : Nat) (s : State), (0 < n) → ∃ t, sheetCorrected g n s = t ∧ ctrGet (cSheetCe g) t = min 0xFFFF (ctrGet (cSheetCe g) s + n) ∧ t = { s with ctr := t.ctr, flt := t.flt })

/-- A line whose first stroke has come is applied once in that stroke. A WINDOW opens its request on each graver of its mask that holds work for it, with the first block of that work; with no such request it only marks itself applied. A BANKS line moves the named banks of the named gravers to its state. A planned refresh stroke moves the stack's patrol on and is counted. RETRAIN and MAINT retrain a channel or let the flash tier's maintenance run; DIRCYC opens a range of cycles of the node, the ports or the patrol by USE; LINK opens a use of a stack link, and staging reads issue in a stroke of USE 1; CLOSE closes the occurrence's request at its close stroke; SAMPLE copies the telemetry. -/
def Obligations.ScheduleLines : Prop :=
  (∀ (isl idx : Nat) (l : Line) (s : State), (isl < 6) → (dueLine isl idx 1 s = some l) → (windowReq (idx / carriedLine) l.slot (markApplied isl idx s) = none) → exec (.windowLine isl idx) s = .next { s with sch.applied := s.sch.applied ++ [(isl, idx)] }) ∧
  (∀ (isl idx g : Nat) (l : Line) (r : Req) (s : State), (isl < 6) → (dueLine isl idx 1 s = some l) → (windowReq (idx / carriedLine) l.slot (markApplied isl idx s) = some r) → (l.gmask = 2 ^ (g % 16)) → (g / 16 = isl) → ((graver g s).descs.any (fun d => d.req == r.id) = true) → (∀ d ∈ (graver g s).descs, ∀ b ∈ d.blocks, ∀ p ∈ b.pages, tileLate r p s = false) → ((graver g s).current = none) → ((graver g s).st = .idle) → ∃ t, exec (.windowLine isl idx) s = .next t ∧ t.gravers = put {} s.gravers g (openNext s { graver g s with current := some r.id, st := .working, delayed := false, heated := false, windowEnd := some (strokeCount s + (l.lenM1 + 1)), chainEnd := some (strokeCount s + (l.lenM1 + 1) + l.chain), renewed := s.time.elapsed }) ∧ t = { s with gravers := t.gravers, sch := { s.sch with applied := s.sch.applied ++ [(isl, idx)] } }) ∧
  (∀ (isl idx g : Nat) (l : Line) (s : State), (isl < 6) → (dueLine isl idx 2 s = some l) → (l.arg0 % 65536 = 2 ^ (g % 16)) → (g / 16 = isl) → ((graver g s).st ≠ .fenced) → ((graver g s).st ≠ .gated) → ∃ t, exec (.banksLine isl idx) s = .next t ∧ t.gravers = put {} s.gravers g (((List.range 32).filter fun b => bit l.arg1 b).foldl (moveBank (field l.arg0 16 2) s) (graver g s)) ∧ t = { s with gravers := t.gravers, sch := { s.sch with applied := s.sch.applied ++ [(isl, idx)] } }) ∧
  (∀ (isl idx : Nat) (ue : PatrolFinds) (l : Line) (m : Store LineProg) (s : State), (isl < 6) → (s.plt.running = some m) → (dueLine isl idx 3 s = some l) → (stackHeat isl s = {}) → ((ue.slots.filter fun x => slotStack x == isl && x < slotCount) = []) → ∃ t, exec (.refreshLine isl idx ue) s = .next t ∧ t.tel.patrol = put 0 s.tel.patrol isl ((look 0 s.tel.patrol isl + 1) % 1048576) ∧ t.sch = { s.sch with applied := s.sch.applied ++ [(isl, idx)] } ∧ t = { s with sch := t.sch, tel := t.tel }) ∧
  (∀ (st : Nat) (s : State), (s.sch.extraRefresh.contains (st, strokeCount s) = true) → (s.sch.applied.contains (st, 0x10001) = false) → (st < 6 → windowClaims st s = false) → (claimed 6 3 (strokeCount s) (fun l => l.linkStack == st) s = false) → ∃ t, exec (.extraRefresh st) s = .next t ∧ t.tel.patrol = put 0 s.tel.patrol st ((look 0 s.tel.patrol st + 1) % 1048576) ∧ t.sch = { s.sch with applied := s.sch.applied ++ [(st, 0x10001)] } ∧ t = { s with sch := t.sch, tel := t.tel }) ∧
  (∀ (isl idx : Nat) (l : Line) (s : State), (isl < 6) → (dueStroke isl idx 4 s = some l) → exec (.retrainLine isl idx) s = .next { s with sch.applied := s.sch.applied ++ [(isl, idx)], sch.retrainNext := upd 0 s.sch.retrainNext isl (· + 1), tel.retrains := (s.tel.retrains + 1) % 65536 }) ∧
  (∀ (idx : Nat) (l : Line) (s : State), (dueStroke 6 idx 2 s = some l) → exec (.dircycLine 6 idx) s = .next { s with sch.applied := s.sch.applied ++ [(6, idx)], dir := { s.dir with nodeRanges := s.dir.nodeRanges ++ (if field l.arg0 18 2 = 1 then [field l.arg0 9 9] else []), portRanges := s.dir.portRanges ++ (if field l.arg0 18 2 = 2 then [field l.arg0 9 9] else []), patrolCycles := s.dir.patrolCycles + (if field l.arg0 18 2 = 3 then field l.arg0 9 9 else 0) } }) ∧
  (∀ (idx : Nat) (l : Line) (s : State), (dueStroke 6 idx 3 s = some l) → (l.linkUse ≠ 1) → exec (.linkLine 6 idx) s = .next { s with sch.applied := s.sch.applied ++ [(6, idx)], res.linkUse := upd 0 s.res.linkUse l.linkStack fun m => m ||| 2 ^ l.linkUse }) ∧
  (∀ (idx : Nat) (ef pf : List Nat) (l : Line) (s : State), (dueStroke 6 idx 5 s = some l) → (field l.arg0 0 2 = 1) → exec (.maintLine 6 idx ef pf) s = .next { s with sch.applied := s.sch.applied ++ [(6, idx)], sch.retrainNext := upd 0 s.sch.retrainNext (field l.arg0 2 3) (· + 1), tel.retrains := (s.tel.retrains + 1) % 65536 }) ∧
  (∀ (idx : Nat) (l : Line) (s : State), (dueLine 7 idx 1 s = some l) → (s.sch.reqs.filter (servesReq (idx / carriedLine) l.slot Line.closeAfter s) = []) → exec (.closeLine 7 idx) s = .next { s with sch.applied := s.sch.applied ++ [(7, idx)] }) ∧
  (∀ (idx : Nat) (l : Line) (r : Req) (e : ColEntry) (s : State), (dueLine 7 idx 1 s = some l) → (s.sch.reqs.filter (servesReq (idx / carriedLine) l.slot Line.closeAfter s) = [r]) → (r.phase = .dispatched) → (entryFind r.id s = some e) → (sanctioned e s = false) → exec (.closeLine 7 idx) s = .next (closeStroke r e { s with sch.applied := s.sch.applied ++ [(7, idx)] })) ∧
  (∀ (idx : Nat) (l : Line) (s : State), (dueLine 16 idx 1 s = some l) → exec (.sampleLine 16 idx) s = .next (telCopy { s with sch.applied := s.sch.applied ++ [(16, idx)] })) ∧
  (∀ (idx : Nat) (l : Line) (r : Req) (s : State), (dueLine 7 idx 1 s = some l) → (s.sch.reqs.filter (servesReq (idx / carriedLine) l.slot Line.closeAfter s) = [r]) → (r.phase = .lookups) → exec (.closeLine 7 idx) s = .next (endUndispatched r stPageAbsent { s with sch.applied := s.sch.applied ++ [(7, idx)] })) ∧
  (∀ (r : Req) (e : ColEntry) (s : State), (childrenOf r s = []) → closeStroke r e s = closeNow r e s) ∧
  (∀ (idx : Nat) (l : Line) (s : State), (dueStroke 6 idx 3 s = some l) → (l.linkUse = 1) → exec (.linkLine 6 idx) s = .next (issueStaging l.linkStack { s with sch.applied := s.sch.applied ++ [(6, idx)], res.linkUse := upd 0 s.res.linkUse l.linkStack fun m => m ||| 2 })) ∧
  (∀ (idx : Nat) (ef pf : List Nat) (l : Line) (s : State), (dueStroke 6 idx 5 s = some l) → (field l.arg0 0 2 = 2) → exec (.maintLine 6 idx ef pf) s = .next (tierMaintenance ef pf { s with sch.applied := s.sch.applied ++ [(6, idx)], fsh.maint := true, tel.flashMaint := (s.tel.flashMaint + 1) % 65536 }))

/-- A child IMPR on a connection that no tree line gives a position is an orphan: it leaves the inbox and is counted. One for an admitted request is accepted for the position its tree line gives the connection; a second one for a position is a duplicate and is dropped. One that comes before its node's own ATTN opens an entry for its tenant and TAG. An entry that a child opened and whose ATTN was not admitted within 64 passes is forgotten and counted. COLLATOR_MERGE joins the first waiting source; a residue mismatch answers the request with ST_FENCED and raises the residue fault. An entry whose grace has passed, or whose moved close stroke is 64 strokes past, closes. -/
def Obligations.CollatorSources : Prop :=
  (∀ (c : Nat) (m : InMsg) (s : State), (inboxFind c 0x02 false s = some m) → ((s.sch.entries.find? fun z => z.tenant == (connRec c s).tenant && z.tag == u m.body 0 8) = none) → (isChild c s = false) → exec (.childImpr c) s = .next (countEvent cOrphan (unitConn c) (returnCredit c m.cls m.body.length (inboxTake m s)))) ∧
  (∀ (c pos : Nat) (m : InMsg) (e : ColEntry) (r : Req) (s : State), (inboxFind c 0x02 false s = some m) → ((s.sch.entries.find? fun z => z.tenant == (connRec c s).tenant && z.tag == u m.body 0 8) = some e) → ((e.req.bind fun id => reqFind id s) = some r) → (((treeOf r s).bind fun t => positionIn t c) = some pos) → (e.accepted.contains pos = true) → exec (.childImpr c) s = .next (countEvent cDupDropped (unitConn c) (returnCredit c m.cls m.body.length (inboxTake m s)))) ∧
  (∀ (c : Nat) (m : InMsg) (s : State), (inboxFind c 0x02 false s = some m) → ((s.sch.entries.find? fun z => z.tenant == (connRec c s).tenant && z.tag == u m.body 0 8) = none) → (isChild c s = true) → (s.sch.closed = []) → ∃ t, exec (.childImpr c) s = .next t ∧ t.sch = { s.sch with entries := s.sch.entries ++ [{ tenant := (connRec c s).tenant, tag := u m.body 0 8, arrivals := [childArrival c 0 m.body false], openedPass := passNow s }] } ∧ t = { s with sch := t.sch, tfx := t.tfx }) ∧
  (∀ (e : ColEntry) (s : State), (s.sch.entries = [e]) → (e.req = none) → (e.openedPass + 64 ≤ passNow s) → exec (.orphan e.tenant e.tag) s = .next (countEvent cOrphan unitCollator { s with sch.entries := [] })) ∧
  (∀ (id : Nat) (ueRows : List Nat) (a : Arrival) (r : Req) (e : ColEntry) (s : State), (reqFind id s = some r) → (entryFind id s = some e) → (e.arrivals = [a]) → (a.source < 16) → (r.bestEffort = false) → ((ueRows.filter fun x => x < r.hdr.rows) = []) → (isComplete a = false) → ((e.taken.any isComplete && nonEmpty a.frags) = false) → ∃ t e2, exec (.collatorMerge id false ueRows) s = .next t ∧ t.sch = (setEntry e2 s).sch ∧ e2.arrivals = [] ∧ e2.taken = e.taken ++ [strikeRows r [] a s] ∧ e2.cov = e.cov ∧ e2.req = e.req ∧ t = { s with sch := t.sch, ctr := t.ctr }) ∧
  (∀ (id : Nat) (ueRows : List Nat) (a : Arrival) (rest : List Arrival) (r : Req) (e : ColEntry) (s : State), (reqFind id s = some r) → (entryFind id s = some e) → (e.arrivals = a :: rest) → exec (.collatorMerge id true ueRows) s = .next (residueFails r s)) ∧
  (∀ (e : ColEntry) (id c : Nat) (r : Req) (s : State), (s.sch.entries = [e]) → (e.req = some id) → (reqFind id s = some r) → (e.closedAt = some c) → (c + ((treeOf r s).map (·.grace)).getD 0 ≤ strokeCount s) → exec (.collatorEntryClose e.tenant e.tag) s = .next (closeNow r e s)) ∧
  (∀ (c pos : Nat) (m : InMsg) (e : ColEntry) (r : Req) (s : State), (inboxFind c 0x02 false s = some m) → ((s.sch.entries.find? fun z => z.tenant == (connRec c s).tenant && z.tag == u m.body 0 8) = some e) → ((e.req.bind fun id => reqFind id s) = some r) → (((treeOf r s).bind fun t => positionIn t c) = some pos) → (e.accepted.contains pos = false) → exec (.childImpr c) s = .next (setEntry { e with accepted := e.accepted ++ [pos], arrivals := e.arrivals ++ [childArrival c pos m.body e.closedAt.isSome] } (returnCredit c m.cls m.body.length (inboxTake m s)))) ∧
  (∀ (e : ColEntry) (id p : Nat) (r : Req) (s : State), (s.sch.entries = [e]) → (e.req = some id) → (reqFind id s = some r) → (e.closedAt = none) → (e.closeMoved = some p) → (p + 64 ≤ strokeCount s) → exec (.collatorEntryClose e.tenant e.tag) s = .next (closeStroke r e s))

/-- CONTEXT_WRITE that opens a context stores the descriptor and sets its length and every staged mark to zero; one that only changes OPEN from 1 to 0 stores it and leaves the context's TAIL bits to be cleared; a descriptor that R34 rejects ends with REASON 6 and changes nothing. EXTENT_GET of one extent makes a FREE extent BUILT for the partition and writes its index at the given offset of BAR2, and with fewer free extents than COUNT ends with REASON 5. EXTENT_WRITE stores its 64 words in a BUILT extent of the partition. EXTENT_PUT of a BUILT extent makes it FREE with all its words at their defaults. No directory entry changes. -/
def Obligations.ContextAndExtents : Prop :=
  (∀ (f : Nat) (c : Cmd) (s : State), (resReady f 1 [(0, 21), (8, 64)] c s) → (bit (ctxWord (field (c.arg 0 4) 0 21) s).toNat 63 = false) → (bit (c.arg 8 8) 63 = true) → ((geoOf (c.arg 8 8)).part = c.part) → (ctxRejects (field (c.arg 0 4) 0 21) (c.arg 8 8) s = false) → exec (.contextWrite f) s = .next (endCmd c 0 0 0 { s with res := { s.res with ctxs := put 0 s.res.ctxs (field (c.arg 0 4) 0 21) (BitVec.ofNat 64 (c.arg 8 8)), lens := put 0 s.res.lens (field (c.arg 0 4) 0 21) 0, lensBefore := put (0, 0) s.res.lensBefore (field (c.arg 0 4) 0 21) (0, 0), staged := s.res.staged.filter (fun x => x.1 / 2 ^ 17 != field (c.arg 0 4) 0 21), ctxUe := s.res.ctxUe.filter (· != field (c.arg 0 4) 0 21) } })) ∧
  (∀ (f : Nat) (c : Cmd) (s : State), (resReady f 1 [(0, 21), (8, 64)] c s) → (ctxCloses (ctxWord (field (c.arg 0 4) 0 21) s).toNat (c.arg 8 8) = true) → ((ctxGeo (field (c.arg 0 4) 0 21) s).part = c.part) → ((geoOf (c.arg 8 8)).part = c.part) → (field (c.arg 8 8) 43 20 = 0) → exec (.contextWrite f) s = .next (endCmd c 0 0 0 { s with res := { s.res with ctxs := put 0 s.res.ctxs (field (c.arg 0 4) 0 21) (BitVec.ofNat 64 (c.arg 8 8)) }, dir := { s.dir with tailClear := s.dir.tailClear ++ [((ctxGeo (field (c.arg 0 4) 0 21) s).tenant, field (c.arg 0 4) 0 21)] } })) ∧
  (∀ (f : Nat) (c : Cmd) (s : State), (resReady f 1 [(0, 21), (8, 64)] c s) → ((ctxGeo (field (c.arg 0 4) 0 21) s).part = c.part) → ((geoOf (c.arg 8 8)).part = c.part) → (ctxRejects (field (c.arg 0 4) 0 21) (c.arg 8 8) s = true) → exec (.contextWrite f) s = .next (refuseCmd c 6 s)) ∧
  (∀ (f x : Nat) (c : Cmd) (t s : State), (resReady f 2 [(0, 32), (8, 64)] c s) → (c.arg 0 4 = 1) → (b2Ok c.f (c.arg 8 8) 4 s = true) → (allocExtent c.part s = some (x, t)) → exec (.extentGet f) s = .next (endCmd c 0 0 1 (b2Write c.f (c.arg 8 8) (leBytes 4 x) t)) ∧ t.dir.extents = put {} s.dir.extents x { st := .built c.part } ∧ t = { s with dir := t.dir, free := t.free }) ∧
  (∀ (f : Nat) (c : Cmd) (s : State), (resReady f 2 [(0, 32), (8, 64)] c s) → (b2Ok c.f (c.arg 8 8) (4 * min (c.arg 0 4) 64) s = true) → (0 < c.arg 0 4) → (extFree s < c.arg 0 4 ∨ extQuota c.part s < extHeld c.part s + c.arg 0 4) → exec (.extentGet f) s = .next (refuseCmd c 5 s)) ∧
  (∀ (f : Nat) (c : Cmd) (s : State), (resReady f 3 [(0, 20), (8, 64)] c s) → (b2Ok c.f (c.arg 8 8) 256 s = true) → ((extent (field (c.arg 0 4) 0 20) s).st = .built c.part) → (((extentWords c s).any fun w => (wordState w < 2 && otherQuota c.part (wordSlot w) s) || wordRefused c.part w s) = false) → ∃ t, exec (.extentWrite f) s = .next (endCmd c 0 0 0 t) ∧ extent (field (c.arg 0 4) 0 20) t = { extent (field (c.arg 0 4) 0 20) s with words := changeWords [] (indexed 0 (extentWords c s)), former := once (slotsOf (extent (field (c.arg 0 4) 0 20) s)) } ∧ t.dir = { s.dir with extents := t.dir.extents } ∧ t = { s with dir := t.dir, res := t.res }) ∧
  (∀ (f : Nat) (c : Cmd) (s : State), (resReady f 4 [(0, 20)] c s) → ((extent (field (c.arg 0 4) 0 20) s).st = .built c.part) → ∃ t, exec (.extentPut f) s = .next (endCmd c 0 0 0 t) ∧ t.dir = { s.dir with extents := put {} s.dir.extents (field (c.arg 0 4) 0 20) {} } ∧ t = { s with dir := t.dir, res := t.res, fsh := t.fsh, mem := { s.mem with tier := t.mem.tier } }) ∧
  (∀ (f : Nat) (c : Cmd) (xs : List Nat) (t s : State), (resReady f 2 [(0, 32), (8, 64)] c s) → (0 < c.arg 0 4) → (c.arg 0 4 ≤ 64) → (b2Ok c.f (c.arg 8 8) (4 * c.arg 0 4) s = true) → (c.arg 0 4 ≤ extFree s) → (extHeld c.part s + c.arg 0 4 ≤ extQuota c.part s) → (allocExtents c.part (c.arg 0 4) s = some (xs, t)) → exec (.extentGet f) s = .next (endCmd c 0 0 xs.length (b2Write c.f (c.arg 8 8) (xs.flatMap (leBytes 4)) t)))

/-- STAGE of pages that are at home in graver stacks starts no read and ends with ST_OK and all of them done. With fewer free tiles than its pages need it reserves none and ends with ST_PAGE_ABSENT; where no named page has a tile there yet, it reserves a tile of the stack for each page in STATE 1 or 2. When a staging read is complete the tile holds the bytes of the page's home and stands, and an earlier tile of the page on another stack is freed. A staging read that fails outside service stalls the tier; in service the tile is freed, the page is counted in TIER_LOST, and no byte of a stack changes. A tile whose last pass has gone by, or whose page has left STATE 1 and 2, is freed; its bytes stay. No directory entry changes but for the page that a failed read drops. -/
def Obligations.StagingAndTiles : Prop :=
  (∀ (f : Nat) (c : Cmd) (s : State), (pagesReady f 5 [(0x10, 32), (0x18, 64), (0x20, 64)] c s) → (c.arg 0x10 4 < 6) → (((namedPages c).pages.map (namedPages c).at_).all (fun x => wordState (wordOf x s) == 0) = true) → exec (.stage f) s = .next (endCmd c 0 0 (namedPages c).count s)) ∧
  (∀ (f : Nat) (c : Cmd) (s : State), (pagesReady f 5 [(0x10, 32), (0x18, 64), (0x20, 64)] c s) → (c.arg 0x10 4 < 6) → ((tileRange c.part (c.arg 0x10 4) s).2 - (tilesTaken c.part (c.arg 0x10 4) s).length < (((namedPages c).pages.map (namedPages c).at_).filter fun x => (wordState (wordOf x s) == 1 || wordState (wordOf x s) == 2) && (tileOn x (c.arg 0x10 4) s).isNone).length) → exec (.stage f) s = .next (endCmd c 0x01 0 0 s)) ∧
  (∀ (f : Nat) (c : Cmd) (s : State), (pagesReady f 5 [(0x10, 32), (0x18, 64), (0x20, 64)] c s) → (c.arg 0x10 4 < 6) → (((namedPages c).pages.map (namedPages c).at_).all (fun x => (wordState (wordOf x s) == 1 || wordState (wordOf x s) == 2) && (tileOn x (c.arg 0x10 4) s).isNone) = true) → ((namedPages c).count + (tilesTaken c.part (c.arg 0x10 4) s).length ≤ (tileRange c.part (c.arg 0x10 4) s).2) → ∃ t keys, exec (.stage f) s = .next t ∧ reserveTiles c.part (c.arg 0x10 4) (c.arg 0x18 8) (c.arg 0x20 8) ((namedPages c).pages.map (namedPages c).at_) s = (keys, { t with res.ops := s.res.ops }) ∧ t.res.ops = s.res.ops ++ [⟨c.f, c.part, keys, [], 0, []⟩] ∧ keys.length = (namedPages c).count) ∧
  (∀ (st tile : Nat) (corrected : List (Nat × Nat)) (t : Tile) (s : State), (tilePending (st * tilesPerStack + tile) s = some t) → (wordState (wordOf t.page s) = 1 ∨ (wordState (wordOf t.page s) = 2 ∧ readFails [] t.page s = false)) → ∃ u, exec (.tileStands st tile corrected) s = .next u ∧ u.mem.stk = writePage s.mem.stk (tilePlace (st * tilesPerStack + tile)) (homeSlice (wordOf t.page s) (tierOf t.page s) s) ∧ u.res.tiles = replaceWhere (fun x => x.1 == st * tilesPerStack + tile) (fun _ => (st * tilesPerStack + tile, { t with stands := true, stoodAt := strokeCount s })) (s.res.tiles.filter fun x => x.1 == st * tilesPerStack + tile || x.2.page != t.page) ∧ u.dir = s.dir ∧ u.mem.tier = s.mem.tier ∧ u.sch = s.sch ∧ u.gravers = s.gravers) ∧
  (∀ (st tile : Nat) (t : Tile) (s : State), (tilePending (st * tilesPerStack + tile) s = some t) → (wordState (wordOf t.page s) = 2) → (inService s = false) → (s.cool.flashGated = false) → (s.fsh.stalled = false) → ∃ u, exec (.stageReadFailed st tile) s = .next u ∧ u.fsh = { s.fsh with stalled := true, cause := 1, stallOp := some (.tile (st * tilesPerStack + tile)), retryAt := s.time.elapsed } ∧ u.res = s.res ∧ u.dir = s.dir ∧ u.mem = s.mem) ∧
  (∀ (st tile : Nat) (t : Tile) (s : State), (tilePending (st * tilesPerStack + tile) s = some t) → (wordState (wordOf t.page s) = 2) → (inService s = true) → (s.cool.flashGated = false) → ∃ u, exec (.stageReadFailed st tile) s = .next u ∧ (∀ x ∈ u.res.tiles, x ∈ s.res.tiles ∧ x.1 ≠ st * tilesPerStack + tile) ∧ ctrGet cTierLost u = min 0xFFFF (ctrGet cTierLost s + 1) ∧ u.mem.stk = s.mem.stk) ∧
  (∀ (st tile : Nat) (x : Nat × Tile) (s : State), (s.res.tiles.find? (fun t => t.1 == st * tilesPerStack + tile) = some x) → (x.2.lastPass < passNow s ∨ tileServes x.2 s = false) → ∃ u, exec (.tileFree st tile) s = .next u ∧ u.res.tiles = s.res.tiles.filter (fun t => t.1 != st * tilesPerStack + tile) ∧ u.dir = s.dir ∧ u.mem.stk = s.mem.stk ∧ u.gravers = s.gravers)

/-- REHOME of pages that all stand on the named stack changes nothing and reports them done; with fewer zeroed slots than it needs it ends with ST_PAGE_ABSENT and moves none; otherwise it takes a slot, copies the page's bytes there over the links, and swaps the run's entry. EVICT to the vault of pages that have left the graver stacks, and WRITE_BACK of pages that need none, report them done and change no page; EVICT starts what each target needs, a drop is one node swap and counts in DROPPED, and WRITE_BACK starts a program of its page. A MOVE, EXPORT or PAGE_WRITE that passes its checks is stored as R197 and R198 say and answered with its status; one that fails them is counted in MOVE_REFUSED and changes no page and no entry. MOVE_OUT and EXPORT_OUT send each present page under the next TAG over the links; a completion that is not ST_OK leaves its page where it is, and one that is releases the page where RELEASE asks for it; no completion after 1 ms ends a MOVE_OUT with ST_TARGET_DEAD. -/
def Obligations.PageMoves : Prop :=
  (∀ (f : Nat) (failed : List Nat) (c : Cmd) (s : State), (pagesReady f 6 [(0x10, 32)] c s) → (drivesOwn f s = false) → (c.arg 0x10 4 < 6) → (((namedPages c).pages.map (namedPages c).at_).all (fun x => wordState (wordOf x s) == 0 && slotStack (wordSlot (wordOf x s)) == c.arg 0x10 4) = true) → exec (.rehome f failed) s = .next (endCmd c 0 0 (namedPages c).count s)) ∧
  (∀ (f : Nat) (failed : List Nat) (c : Cmd) (s : State), (pagesReady f 6 [(0x10, 32)] c s) → (drivesOwn f s = false) → (c.arg 0x10 4 < 6) → (poolCount c.part (c.arg 0x10 4) s < (((namedPages c).pages.map (namedPages c).at_).filter fun x => wordState (wordOf x s) < 3 && !(wordState (wordOf x s) == 0 && slotStack (wordSlot (wordOf x s)) == c.arg 0x10 4)).length) → exec (.rehome f failed) s = .next (endCmd c 0x01 0 0 s)) ∧
  (∀ (f slot : Nat) (failed : List Nat) (c : Cmd) (t s : State), (pagesReady f 6 [(0x10, 32)] c s) → (drivesOwn f s = false) → (c.arg 0x10 4 < 6) → ((namedPages c).count = 1) → (wordState (wordOf ((namedPages c).at_ (namedPages c).first) s) < 3) → ((wordState (wordOf ((namedPages c).at_ (namedPages c).first) s) == 0 && slotStack (wordSlot (wordOf ((namedPages c).at_ (namedPages c).first) s)) == c.arg 0x10 4) = false) → (takeSlot c.part (c.arg 0x10 4) s = some (slot, t)) → exec (.rehome f failed) s = .next (driveOwn f failed { t with res := { t.res with ops := s.res.ops ++ [⟨c.f, c.part, [], [(namedPages c).at_ (namedPages c).first], 0, []⟩], changes := s.res.changes ++ [{ part := c.part, ctx := (namedPages c).ctx, layer := (namedPages c).layer, group := (namedPages c).group, run := (namedPages c).first / 64 * 64, moves := [moveTo ((namedPages c).at_ (namedPages c).first) (pageWord 0 slot) false s], fn := some f, home := none }] } })) ∧
  (∀ (f : Nat) (failed : List Nat) (ch : RunChange) (mv : PageChange) (s : State), (s.res.changes.filter (fun x => x.fn == some f) = [ch]) → (ch.seen = none) → (ch.moves = [mv]) → (wordState mv.old < 2) → (wordState mv.new = 0) → (ch.links.all (fun st => linkServes st 5 s) = true) → (stalledOn ch s = false) → ∃ t, exec (.rehome f failed) s = .next t ∧ t.mem.stk = writePage s.mem.stk (slotPlace (wordSlot mv.new)) (readPage s.mem.stk (slotPlace (wordSlot mv.old)))) ∧
  (∀ (f i : Nat) (failed : List Nat) (ch : RunChange) (d : BitVec 48) (u v s : State), (s.res.changes.filter (fun x => x.fn == some f) = [ch]) → (ch.seen = some d) → (ch.moves.isEmpty = false) → (runOf (ctxGeo ch.ctx s).tenant ch.ctx ch.layer ch.group ch.run ch.part s = some i) → (takeNode 1 { s with res := { s.res with changes := s.res.changes.filter (· != ch) } } = some u) → (nodeSwap i d (changeWords (extent (dataExt (dirEntry i s).data) s).words (ch.moves.map fun m => (m.pos, m.new))) (changeTiers (extent (dataExt (dirEntry i s).data) s).tiers (ch.moves.map fun m => (m.pos, movedTier m (extTier (extent (dataExt (dirEntry i s).data) s) m.pos)))) (dataCount (dirEntry i s).data - 1) (dataTail (dirEntry i s).data) u = .made v) → exec (.rehome f failed) s = .next (changeMade ch v)) ∧
  (∀ (f : Nat) (c : Cmd) (s : State), (pagesReady f 7 [(0x10, 32)] c s) → (drivesOwn f s = false) → (c.arg 0x10 4 = 0) → ((tenantRec c.tenant s).vault = true) → (((namedPages c).pages.map (namedPages c).at_).all (fun x => !pageStaged x s && !pageIsTail x s && (wordState (wordOf x s) == 1 || wordState (wordOf x s) == 2)) = true) → exec (.evict f) s = .next (endCmd c 0 0 (namedPages c).count s)) ∧
  (∀ (f : Nat) (c : Cmd) (s : State), (pagesReady f 7 [(0x10, 32)] c s) → (drivesOwn f s = false) → (c.arg 0x10 4 < 3) → (c.arg 0x10 4 = 0 → (tenantRec c.tenant s).vault = true) → (c.arg 0x10 4 = 1 → (tenantRec c.tenant s).spill = true) → (((namedPages c).pages.map (namedPages c).at_).all (fun x => !pageStaged x s && !pageIsTail x s) = true) → (((chunksOf (namedPages c)).foldl (evictUnit c.part (c.arg 0x10 4) f) ([], {}, s)).2.1.early = false) → ∃ cs r t, (chunksOf (namedPages c)).foldl (evictUnit c.part (c.arg 0x10 4) f) ([], {}, s) = (cs, r, t) ∧ exec (.evict f) s = .next (driveOwn f [] (startOp c [] r.waits r.doneCount r.codes { t with res := { t.res with changes := t.res.changes ++ cs } }))) ∧
  (∀ (f i : Nat) (c : Cmd) (r u s : State), (pagesReady f 7 [(0x10, 32)] c s) → (drivesOwn f s = false) → (c.arg 0x10 4 = 2) → ((namedPages c).count = 1) → (pageStaged ((namedPages c).at_ (namedPages c).first) s = false) → (pageIsTail ((namedPages c).at_ (namedPages c).first) s = false) → (pageOf (namedPages c).ctx (namedPages c).layer (namedPages c).group (namedPages c).first s = some (i, wordOf ((namedPages c).at_ (namedPages c).first) s)) → (wordState (wordOf ((namedPages c).at_ (namedPages c).first) s) < 3) → (c.part = (ctxGeo (namedPages c).ctx s).part) → (takeNode 1 s = some r) → (nodeSwap i (dirEntry i s).data (changeWords (extent (dataExt (dirEntry i s).data) s).words [((namedPages c).first % 64, pageWord 3 0)]) (changeTiers (extent (dataExt (dirEntry i s).data) s).tiers [((namedPages c).first % 64, 0)]) (dataCount (dirEntry i s).data - 1) (dataTail (dirEntry i s).data) r = .made u) → ∃ t, exec (.evict f) s = .next t ∧ ctrGet cDropped t = min 0xFFFF (ctrGet cDropped s + 1) ∧ t.dir.extents = u.dir.extents ∧ t.mem.stk = s.mem.stk) ∧
  (∀ (f : Nat) (c : Cmd) (s : State), (pagesReady f 8 [] c s) → ((tenantRec c.tenant s).spill = true) → (((namedPages c).pages.map (namedPages c).at_).all (fun x => wordState (wordOf x s) == 2 || (decide (wordState (wordOf x s) < 2) && bit (tierOf x s) 29 && !bit (tierOf x s) 30)) = true) → exec (.writeBack f) s = .next (endCmd c 0 0 (namedPages c).count s)) ∧
  (∀ (f : Nat) (c : Cmd) (u s : State), (pagesReady f 8 [] c s) → ((tenantRec c.tenant s).spill = true) → ((namedPages c).count = 1) → (wordState (wordOf ((namedPages c).at_ (namedPages c).first) s) < 2) → ((bit (tierOf ((namedPages c).at_ (namedPages c).first) s) 29 && !bit (tierOf ((namedPages c).at_ (namedPages c).first) s) 30) = false) → (wbAllowed c.tenant ((namedPages c).at_ (namedPages c).first) s = true) → (programming ((namedPages c).at_ (namedPages c).first) s = false) → (linkServes (slotStack (wordSlot (wordOf ((namedPages c).at_ (namedPages c).first) s))) 3 s = true) → (startProgram ((namedPages c).at_ (namedPages c).first) c.part false (some f) s = some u) → exec (.writeBack f) s = .next (startOp c [] [(namedPages c).at_ (namedPages c).first] 0 [] (linkUsed [slotStack (wordSlot (wordOf ((namedPages c).at_ (namedPages c).first) s))] 3 u))) ∧
  (∀ (k st : Nat) (m : InMsg) (u s : State), (nextWrite k 0x10 s = some m) → (m.conn = k) → (moveStatus (connRec k s).part (connRec k s).tenant false m.body s = 0) → (moveIngestBad m.body s = false) → (takePage (writeTurn m s == .bestEffort) (moveHdr m.body) (m.body.drop 32) s = (some st, u)) → exec (.move k) s = .next (sendCompletion k m.typ (moveHdr m.body).tag st 0 (takeWrite m u))) ∧
  (∀ (k st slot : Nat) (m : InMsg) (r v s : State), (nextWrite k 0x10 s = some m) → (m.conn = k) → (moveStatus (connRec k s).part (connRec k s).tenant false m.body s = 0) → (writeWhen (writeTurn m s == .bestEffort) (moveHdr m.body).ctx (moveHdr m.body).layer (moveHdr m.body).group [(moveHdr m.body).page] [(moveHdr m.body).page] (placePage (moveHdr m.body) (m.body.drop 32)) s = .stored v) → (newPageStack (ctxGeo (moveHdr m.body).ctx s).part (moveHdr m.body).ctx (moveHdr m.body).layer (moveHdr m.body).group (moveHdr m.body).page s = some st) → (takeSlot (ctxGeo (moveHdr m.body).ctx s).part st s = some (slot, r)) → ∃ t, exec (.move k) s = .next t ∧ t.mem.stk = writePage s.mem.stk (slotPlace slot) (payloadPage (ctxGeo (moveHdr m.body).ctx s) (m.body.drop 32)) ∧ t.dir = v.dir ∧ t.res = v.res) ∧
  (∀ (k : Nat) (m : InMsg) (s : State), (nextWrite k 0x10 s = some m) → (m.conn = k) → (moveFails (connRec k s).tenant false m.body s = true) → ∃ t, exec (.move k) s = .next t ∧ ctrGet cMoveRefused t = min 0xFFFF (ctrGet cMoveRefused s + 1) ∧ t.dir = s.dir ∧ t.mem = s.mem ∧ t.res = s.res) ∧
  (∀ (k st : Nat) (m : InMsg) (u s : State), (nextWrite k 0x11 s = some m) → (m.conn = k) → (moveStatus (connRec k s).part (connRec k s).tenant true m.body s = 0) → (moveIngestBad m.body s = false) → (takePage (writeTurn m s == .bestEffort) (moveHdr m.body) (m.body.drop 32) s = (some st, u)) → exec (.export_ k) s = .next (sendCompletion k m.typ (moveHdr m.body).tag st 0 (takeWrite m u))) ∧
  (∀ (k st slot : Nat) (m : InMsg) (r v s : State), (nextWrite k 0x11 s = some m) → (m.conn = k) → (moveStatus (connRec k s).part (connRec k s).tenant true m.body s = 0) → (writeWhen (writeTurn m s == .bestEffort) (moveHdr m.body).ctx (moveHdr m.body).layer (moveHdr m.body).group [(moveHdr m.body).page] [(moveHdr m.body).page] (placePage (moveHdr m.body) (m.body.drop 32)) s = .stored v) → (newPageStack (ctxGeo (moveHdr m.body).ctx s).part (moveHdr m.body).ctx (moveHdr m.body).layer (moveHdr m.body).group (moveHdr m.body).page s = some st) → (takeSlot (ctxGeo (moveHdr m.body).ctx s).part st s = some (slot, r)) → ∃ t, exec (.export_ k) s = .next t ∧ t.mem.stk = writePage s.mem.stk (slotPlace slot) (payloadPage (ctxGeo (moveHdr m.body).ctx s) (m.body.drop 32)) ∧ t.dir = v.dir ∧ t.res = v.res) ∧
  (∀ (k : Nat) (m : InMsg) (s : State), (nextWrite k 0x11 s = some m) → (m.conn = k) → (moveFails (connRec k s).tenant true m.body s = true) → ∃ t, exec (.export_ k) s = .next t ∧ ctrGet cMoveRefused t = min 0xFFFF (ctrGet cMoveRefused s + 1) ∧ t.dir = s.dir ∧ t.mem = s.mem ∧ t.res = s.res) ∧
  (∀ (f st : Nat) (c : Cmd) (u s : State), (resReady f 0x0B pageWriteFields c s) → ((namedPages c).count = 1) → (s.res.ctxUe.contains (namedPages c).ctx = false) → (lowestReason (pageWriteReasons c s) = none) → (takePage false (pageWriteHdr c) (pageWritePayload c s) s = (some st, u)) → exec (.pageWrite f) s = .next (endCmd c st 0 0 u)) ∧
  (∀ (f r : Nat) (c : Cmd) (s : State), (resReady f 0x0B pageWriteFields c s) → ((namedPages c).count = 1) → (lowestReason (pageWriteReasons c s) = some r) → ∃ t, exec (.pageWrite f) s = .next t ∧ ctrGet cMoveRefused t = min 0xFFFF (ctrGet cMoveRefused s + 1) ∧ t.dir = s.dir ∧ t.mem.stk = s.mem.stk ∧ t.res = s.res) ∧
  (∀ (f : Nat) (failed : List Nat) (c : Cmd) (s : State), (pagesReady f 9 [(0x10, 17)] c s) → (s.fsh.stallOp ≠ some (.exportPage f)) → (connOwned c (field (c.arg 0x10 4) 0 16) s = true) → (copiesTail (namedPages c) s = false) → (((namedPages c).pages.map (namedPages c).at_).all (fun x => decide (wordState (wordOf x s) < 2)) = true) → ((namedPages c).count = 1) → (linkServes (slotStack (wordSlot (wordOf ((namedPages c).at_ (namedPages c).first) s))) 4 s = true) → (sendRefusal (field (c.arg 0x10 4) 0 16) s = none) → ∃ t, exec (.moveOut f failed) s = .next t ∧ t.tfx.nextTag = (s.tfx.nextTag + 1) % 2 ^ 64 ∧ (∃ m ∈ t.res.moveOuts, m.fn = f ∧ m.waiting = [(s.tfx.nextTag, (namedPages c).at_ (namedPages c).first)]) ∧ t.dir = s.dir ∧ t.mem = s.mem) ∧
  (∀ (f : Nat) (failed : List Nat) (c : Cmd) (s : State), (pagesReady f 9 [(0x10, 17)] c s) → (s.fsh.stallOp ≠ some (.exportPage f)) → (connOwned c (field (c.arg 0x10 4) 0 16) s = true) → (copiesTail (namedPages c) s = false ∨ (bit (c.arg 0x10 4) 16 && ((namedPages c).pages.map (namedPages c).at_).any (fun x => pageIsTail x s)) = true) → exec (.moveOut f failed) s = .next (sendGo f failed sendFuel { s with res := { s.res with moveOuts := s.res.moveOuts ++ [newMoveOut false c (namedPages c) s] } })) ∧
  (∀ (k : Nat) (msg : InMsg) (m : MoveOut) (n : PageName) (w : Nat × PageName) (s : State), (s.tfx.inbox.find? (fun x => x.conn == k && x.isResp && (x.typ == tMove || x.typ == tExport)) = some msg) → (moveWaiting k (u msg.body 0 8) s = some m) → (m.waiting = [(u msg.body 0 8, n), w]) → (w.1 ≠ u msg.body 0 8) → (completionStatus msg.body ≠ 0 ∨ m.release = false) → ∃ t, exec (.moveOutCompletion k) s = .next t ∧ t.res.moveOuts = (s.res.moveOuts.filter fun x => x.fn != m.fn) ++ [if completionStatus msg.body = 0 then { m with waiting := [w], doneCount := m.doneCount + 1 } else { m with waiting := [w], codes := m.codes ++ [completionStatus msg.body] }] ∧ t.dir = s.dir ∧ t.mem = s.mem ∧ t.tfx.inbox = dropFirst msg s.tfx.inbox) ∧
  (∀ (k : Nat) (msg : InMsg) (m : MoveOut) (n : PageName) (r v s : State), (s.tfx.inbox.find? (fun x => x.conn == k && x.isResp && (x.typ == tMove || x.typ == tExport)) = some msg) → (moveWaiting k (u msg.body 0 8) s = some m) → (m.waiting = [(u msg.body 0 8, n)]) → (completionStatus msg.body = 0) → (m.release = true) → (m.isExport = false) → (takeNode 1 s = some r) → (releasePage n (taken msg.conn msg r) = some v) → exec (.moveOutCompletion k) s = .next (keepMoveOut { m with waiting := [], doneCount := m.doneCount + 1 } v)) ∧
  (∀ (f : Nat) (m : MoveOut) (s : State), (s.res.moveOuts.find? (fun z => z.fn == f && !z.isExport) = some m) → (m.startedAt + 4000 ≤ s.time.elapsed) → exec (.moveOutTimeout f) s = .next (endMoveOut m 0x31 s)) ∧
  (∀ (f : Nat) (failed : List Nat) (m : MoveOut) (n : PageName) (s : State), (s.fsh.stallOp ≠ some (.exportPage f)) → (s.res.moveOuts = [m]) → (m.fn = f) → (m.isExport = true) → (m.unsent = [n]) → (assigned m.part s = false) → (wordState (wordOf n s) < 2) → (linkServes (slotStack (wordSlot (wordOf n s))) 4 s = true) → (s.res.exportsThisPass < 8) → (sendRefusal m.conn s = none) → ∃ t, exec (.exportOut f failed) s = .next t ∧ t.res.moveOuts = [{ m with unsent := [], waiting := m.waiting ++ [(s.tfx.nextTag, n)], frozen := if m.copiesTail then some (n.ctx, n.layer, n.group) else none }] ∧ t.res.exportsThisPass = s.res.exportsThisPass + 1 ∧ t.tfx.nextTag = (s.tfx.nextTag + 1) % 2 ^ 64 ∧ t.dir = s.dir ∧ t.mem = s.mem) ∧
  (∀ (f : Nat) (failed : List Nat) (c : Cmd) (s : State), (hostReady f 1 0x0A (pageFields ++ [(0x10, 17)]) c s) → (resBusy f s = false) → (s.pwr.hold = true) → (namesFail c.tenant (namedPages c).ctx (namedPages c).layer (namedPages c).group s = false) → (0 < (namedPages c).count) → ((namedPages c).count ≤ 64) → ((namedPages c).first + (namedPages c).count ≤ 131072) → (s.res.ctxUe.contains (namedPages c).ctx = false) → (changing (namedPages c) s = false) → (s.fsh.stallOp ≠ some (.exportPage f)) → (connOwned c (field (c.arg 0x10 4) 0 16) s = true) → exec (.exportOut f failed) s = .next (sendGo f failed sendFuel { s with res := { s.res with moveOuts := s.res.moveOuts ++ [newMoveOut true c (namedPages c) s] } }))

/-- TIER_READ of a TLPN that holds the partition's bytes writes its 69,632 bytes to BAR2; one that does not, or whose read fails, ends with ST_TIER_ERROR in service and counts a failed codeword. TIER_WRITE stores a page's bytes under the TLPN for the partition, and ends with ST_TIER_ERROR where the TLPN's channels have no room outside their reserves. TIER_TRIM makes its TLPNs unwritten and their bytes zero. The mount of start-up stage 2 sets the usable capacity from the good blocks of the targets it takes, with every TLPN trimmed; a mount that fails stalls the stage. A program that succeeds stores its bytes under its TLPN and sets the page's tier word; where a codeword's program fails the block is retired and the codeword rewritten; one that finds no room stalls the tier outside service. A retry once per millisecond that fails waits again; one that succeeds, and SKIP, end the stall. Directory entries do not change. -/
def Obligations.TierEngine : Prop :=
  (∀ (f : Nat) (c : Cmd) (s : State), (hostReady f 4 1 (tierFields 1) c s) → (tierReason c s = none) → (c.op = 1) → (s.fsh.stallOp ≠ some (.command f)) → (s.cool.flashGated = false) → (s.fsh.mounted = true) → (tierReadable c.part (tierNamed c).1 s = true) → exec (.tierRead f true) s = .next (endCmd c 0 0 0 (noteRead (tierNamed c).1 (b2Write c.f (c.arg 8 8) (dense (memSlice s.mem.tier ((tierNamed c).1 * pageBytes) pageBytes) 0 pageBytes) s)))) ∧
  (∀ (f : Nat) (ok : Bool) (c : Cmd) (s : State), (hostReady f 4 1 (tierFields 1) c s) → (tierReason c s = none) → (c.op = 1) → (s.fsh.stallOp ≠ some (.command f)) → (s.cool.flashGated = false) → (ok = false ∨ tierReadable c.part (tierNamed c).1 s = false) → (inService s = true) → exec (.tierRead f ok) s = .next (endCmd c 0x04 0 0 (tally cCwFailed s))) ∧
  (∀ (f : Nat) (c : Cmd) (s : State), (hostReady f 4 2 (tierFields 2) c s) → (tierReason c s = none) → (c.op = 2) → (s.fsh.stallOp ≠ some (.command f)) → (s.cool.flashGated = false) → (s.fsh.mounted = true) → (tierRoom (tierNamed c).1 s = true) → ∃ t, exec (.tierWrite f true) s = .next (endCmd c 0 0 0 t) ∧ t.mem = { s.mem with tier := memPlace s.mem.tier ((tierNamed c).1 * pageBytes) pageBytes (sparse (b2Read c.f (c.arg 8 8) pageBytes s) 0) } ∧ t.fsh.written = once (s.fsh.written ++ [(tierNamed c).1]) ∧ t.fsh.owner = put 0 s.fsh.owner (tierNamed c).1 c.part ∧ t.fsh.writeSeq = s.fsh.writeSeq + 1 ∧ t = { s with mem := t.mem, fsh := t.fsh }) ∧
  (∀ (f : Nat) (c : Cmd) (s : State), (hostReady f 4 3 (tierFields 3) c s) → (tierReason c s = none) → (c.op = 3) → (s.fsh.stallOp ≠ some (.command f)) → (s.cool.flashGated = false) → (s.fsh.mounted = true) → ∃ t, exec (.tierTrim f true) s = .next (endCmd c 0 0 (tierNamed c).2 t) ∧ t.mem = { s.mem with tier := s.mem.tier.filter (fun x => decide (x.1 / pageBytes < (tierNamed c).1 ∨ (tierNamed c).1 + (tierNamed c).2 ≤ x.1 / pageBytes)) } ∧ t.fsh.written = s.fsh.written.filter (fun x => decide (x < (tierNamed c).1 ∨ (tierNamed c).1 + (tierNamed c).2 ≤ x)) ∧ t.fsh.owner = s.fsh.owner.filter (fun x => decide (x.1 < (tierNamed c).1 ∨ (tierNamed c).1 + (tierNamed c).2 ≤ x.1)) ∧ t = { s with mem := t.mem, fsh := t.fsh }) ∧
  (∀ (ts : List FlashTarget) (s : State), (s.start.stage = 2) → (s.start.stageRunning = true) → (s.fsh.mounted = false) → (s.fsh.skipped = false) → (s.fsh.stalled = false) → ∃ t, exec (.flashMount ts none) s = .next t ∧ t.fsh.mounted = true ∧ t.fsh.usableGib = min (28 * 10 ^ 12) (t.fsh.goodBytes * 7 / 8) / 2 ^ 30 ∧ t.fsh.written = [] ∧ t = { s with fsh := t.fsh, mem := { s.mem with tier := [] }, ctr := t.ctr }) ∧
  (∀ (index i w : Nat) (failed : List Nat) (q : TierProgram) (s : State), (s.res.programs[index]? = some q) → (s.fsh.stallOp ≠ some (.program q.page)) → (s.cool.flashGated = false) → (failed.all (fun x => !(tlpnChannels q.tlpn).contains x) = true) → (tierRoom q.tlpn s = true) → (q.spill = false) → (pageOf q.page.ctx q.page.layer q.page.group q.page.page s = some (i, w)) → (wordState w < 2) → ∃ t, exec (.tierProgramDone index failed) s = .next t ∧ t.mem.tier = memPlace s.mem.tier (q.tlpn * pageBytes) pageBytes q.bytes ∧ t.mem.stk = s.mem.stk ∧ t.fsh.written = once (s.fsh.written ++ [q.tlpn]) ∧ t.fsh.owner = put 0 s.fsh.owner q.tlpn q.part ∧ t.res.programs = s.res.programs.filter (fun x => x.page != q.page) ∧ t.dir = { s.dir with extents := put {} s.dir.extents (dataExt (dirEntry i s).data) { extent (dataExt (dirEntry i s).data) s with tiers := put 0 (extent (dataExt (dirEntry i s).data) s).tiers (q.page.page % 64) (q.tlpn + 2 ^ 29 + if q.touched then 2 ^ 30 else 0) } }) ∧
  (∀ (index : Nat) (failed : List Nat) (q : TierProgram) (s : State), (s.res.programs[index]? = some q) → (s.cool.flashGated = false) → (failed.all (fun x => !(tlpnChannels q.tlpn).contains x) = true) → (tierRoom q.tlpn s = false) → (inService s = false) → (s.fsh.stalled = false) → (s.fsh.stallOp = none) → ∃ t, exec (.tierProgramDone index failed) s = .next t ∧ t.fsh = { s.fsh with stalled := true, cause := 4, stallOp := some (.program q.page), retryAt := s.time.elapsed } ∧ t.res = s.res ∧ t.dir = s.dir ∧ t.mem = s.mem) ∧
  (∀ (s : State) (op : StallOp), (s.fsh.stallOp = some op) → (s.fsh.retryAt + 4000 ≤ s.time.elapsed) → exec (.tierStallRetry false) s = .next { s with fsh := { s.fsh with retryAt := s.time.elapsed } }) ∧
  (∀ (s : State) (ts : List FlashTarget), (s.fsh.stallOp = some (.mount ts)) → (s.fsh.retryAt + 4000 ≤ s.time.elapsed) → ∃ t, exec (.tierStallRetry true) s = .next t ∧ t.fsh.mounted = true ∧ t.fsh.stalled = false ∧ t.fsh.cause = 0 ∧ t.fsh.stallOp = none ∧ t = { s with fsh := t.fsh, mem := { s.mem with tier := [] }, ctr := t.ctr }) ∧
  (∀ (s : State) (key : Nat) (x : Nat × Tile), (s.fsh.stallOp = some (.tile key)) → (s.res.tiles.find? (fun t => t.1 == key) = some x) → ∃ t, exec .fshCtrlSkip s = .next t ∧ t.fsh = { s.fsh with stalled := false, cause := 0, stallOp := none } ∧ t.res.tiles = s.res.tiles.filter (fun y => y.1 != key) ∧ t.dir = s.dir ∧ t.gravers = s.gravers) ∧
  (∀ (ts : List FlashTarget) (x : FlashCause) (s : State), (s.start.stage = 2) → (s.start.stageRunning = true) → (s.fsh.mounted = false) → (s.fsh.skipped = false) → (s.fsh.stalled = false) → ∃ t, exec (.flashMount ts (some x)) s = .next t ∧ t.fsh = { s.fsh with stalled := true, cause := causeNum x, stallOp := some (.mount ts), retryAt := s.time.elapsed } ∧ t.dir = s.dir ∧ t.mem = s.mem) ∧
  (∀ (index : Nat) (failed : List Nat) (q : TierProgram) (r s : State), (s.res.programs[index]? = some q) → (s.fsh.stallOp ≠ some (.program q.page)) → (s.cool.flashGated = false) → (failed.any (fun x => (tlpnChannels q.tlpn).contains x) = true) → ((once (failed.filter fun x => (tlpnChannels q.tlpn).contains x)).foldl retireOpen s = r) → ((placeTlpn true q.tlpn r).isSome = true) → exec (.tierProgramDone index failed) s = .next (programOk true q r)) ∧
  (∀ (f : Nat) (c : Cmd) (s : State), (hostReady f 4 2 (tierFields 2) c s) → (tierReason c s = none) → (c.op = 2) → (s.fsh.stallOp ≠ some (.command f)) → (s.cool.flashGated = false) → (s.fsh.mounted = true) → (tierRoom (tierNamed c).1 s = false) → exec (.tierWrite f true) s = .next (endCmd c 0x04 0 0 s)) ∧
  (∀ (s : State) (ts : List FlashTarget), (s.fsh.stallOp = some (.mount ts)) → exec .fshCtrlSkip s = .next { s with fsh := { s.fsh with stalled := false, cause := 0, stallOp := none, skipped := true } }) ∧
  (∀ (s : State) (op : StallOp), (s.fsh.stallOp = some op) → (s.fsh.retryAt + 4000 ≤ s.time.elapsed) → exec (.tierStallRetry true) s = .next (endStalled op true { s with fsh := { s.fsh with stalled := false, cause := 0, stallOp := none } }))

/-- A home within its marks is not scraped, and the scraper notes that it is not; past its mark the chosen unit is relieved: a vault page of a tenant without SPILL is dropped by one node swap and counted in DROPPED. The burnisher zeroes an awaiting slot within its budget and returns it to the pool. A suspect page that reads clean returns to STATE 0; one that shows an uncorrectable error is dropped. A write-back pass starts one program for the page that qualifies, and none once WB_MAX of the pass is used. ZERO_SLOTS, ZERO_TILES and ZERO_B2 leave zeros in exactly the bytes they name. -/
def Obligations.ScraperAndBurnisher : Prop :=
  (∀ (p home : Nat) (s : State), (s.pwr.hold = false) → (sealed s = true) → (s.res.changes.any (fun x => x.part == p && x.home == some home) = false) → (mustScrape p home s = false) → exec (.scraperEvict p home) s = .next { s with res := { s.res with scraping := s.res.scraping.filter (· != (p, home)) } }) ∧
  (∀ (p i : Nat) (n : PageName) (q : ScrapeUnit) (r u s : State), (s.pwr.hold = false) → (sealed s = true) → (s.res.changes.any (fun x => x.part == p && x.home == some 6) = false) → (mustScrape p 6 s = true) → (chooseUnit 6 (scrapeUnits p 6 (markScrape p 6 true s)) = some q) → (q.pages = [n]) → ((tenantRec (ctxGeo n.ctx s).tenant s).spill = false) → (runOf (ctxGeo n.ctx s).tenant n.ctx n.layer n.group n.page p s = some i) → (wordState (wordOf n s) = 1) → (takeNode 1 (markScrape p 6 true s) = some r) → (nodeSwap i (dirEntry i s).data (changeWords (extent (dataExt (dirEntry i s).data) s).words [(n.page % 64, pageWord 3 0)]) (changeTiers (extent (dataExt (dirEntry i s).data) s).tiers [(n.page % 64, 0)]) (dataCount (dirEntry i s).data - 1) (dataTail (dirEntry i s).data) r = .made u) → ∃ t, exec (.scraperEvict p 6) s = .next t ∧ ctrGet cDropped t = min 0xFFFF (ctrGet cDropped s + 1) ∧ t.dir.extents = u.dir.extents ∧ t.mem.stk = s.mem.stk) ∧
  (∀ (st slot : Nat) (s : State), (linkServes st 2 s = true) → (bit s.flt.fencedStacks st = false) → (look 0 s.res.burnThisStroke st = 0) → (suspects s = []) → ((s.res.slots.filter fun x => slotStack x.1 == st && x.2.awaiting && !x.2.holding).map (·.1) = [slot]) → ((put {} s.res.slots slot {}).filter (fun x => slotStack x.1 == st && x.2.awaiting && !x.2.holding) = []) → exec (.burnisherZero st) s = .next (burn st 1 { s with mem := { s.mem with stk := zeroPages s.mem.stk (slotPlace slot) 1 }, res := { s.res with slots := put {} s.res.slots slot {} } })) ∧
  (∀ (slot i pos : Nat) (s : State), ((suspects s).filter (fun x => x.2.2 == slot) = [(i, pos, slot)]) → (burnLeft (slotStack slot) s ≠ 0) → exec (.reverify slot false) s = .next (stateSwap i [(pos, pageWord 0 slot)] (burn (slotStack slot) 1 s))) ∧
  (∀ (slot i pos : Nat) (s : State), ((suspects s).filter (fun x => x.2.2 == slot) = [(i, pos, slot)]) → (burnLeft (slotStack slot) s ≠ 0) → ∃ t, exec (.reverify slot true) s = .next t ∧ ctrGet cDropped t = min 0xFFFF (ctrGet cDropped s + 1) ∧ t.mem.stk = s.mem.stk) ∧
  (∀ (p age : Nat) (n : PageName) (u s : State), (inService s = true) → (look 0 s.res.wbThisPass p < (partRec p s).wbMax) → (wbPages p s = [(age, n)]) → (startProgram n p false none (linkUsed [slotStack (wordSlot (wordOf n s))] 3 s) = some u) → exec (.writeBackPass p) s = .next { u with res := { u.res with wbThisPass := put 0 u.res.wbThisPass p (look 0 u.res.wbThisPass p + 1) } }) ∧
  (∀ (p : Nat) (s : State), ((partRec p s).wbMax ≤ look 0 s.res.wbThisPass p) → exec (.writeBackPass p) s = .next s) ∧
  (∀ (f : Nat) (c : Cmd) (s : State), (hostReady f 3 1 [(0, 3), (4, 32), (8, 32)] c s) → ((quotaRange c.part (field (c.arg 0 1) 0 3) s).1 ≤ (zeroNamed c).1) → ((zeroNamed c).1 + (zeroNamed c).2 ≤ (quotaRange c.part (field (c.arg 0 1) 0 3) s).1 + (quotaRange c.part (field (c.arg 0 1) 0 3) s).2) → (((namedSlots s).any (inSpan (zeroNamed c))) = false) → (0 < (zeroNamed c).2) → ((zeroNamed c).2 ≤ 65536) → exec (.zeroSlots f) s = .next (endCmd c 0 0 (zeroNamed c).2 { s with mem := { s.mem with stk := zeroPages s.mem.stk (slotPlace (zeroNamed c).1) (zeroNamed c).2 }, res := { s.res with slots := s.res.slots.filter fun x => !inSpan (zeroNamed c) x.1 } })) ∧
  (∀ (f : Nat) (c : Cmd) (s : State), (hostReady f 3 2 [(0, 3), (4, 32), (8, 32)] c s) → (field (c.arg 0 1) 0 3 < 6) → ((tileRange c.part (field (c.arg 0 1) 0 3) s).1 ≤ (tilesNamed c).1) → ((tilesNamed c).1 + (tilesNamed c).2 ≤ (tileRange c.part (field (c.arg 0 1) 0 3) s).1 + (tileRange c.part (field (c.arg 0 1) 0 3) s).2) → ((s.res.tiles.any fun t => inSpan (tilesNamed c) t.1) = false) → (0 < (tilesNamed c).2) → ((tilesNamed c).2 ≤ 4096) → exec (.zeroTiles f) s = .next (endCmd c 0 0 (tilesNamed c).2 { s with mem := { s.mem with stk := zeroPages s.mem.stk (tilePlace (tilesNamed c).1) (tilesNamed c).2 } })) ∧
  (∀ (f : Nat) (c : Cmd) (segs : List (Nat × Nat)) (s : State), (hostReady f 3 3 [(0, 64), (8, 64)] c s) → (c.arg 8 8 % 64 = 0) → (b2Range f (c.arg 0 8) (c.arg 8 8) s = some segs) → exec (.zeroB2 f) s = .next (endCmd c 0 0 0 { s with mem := { s.mem with bar2 := segs.foldl (fun m x => memZero m x.1 x.2) s.mem.bar2 } })) ∧
  (∀ (p home : Nat) (q : ScrapeUnit) (s : State), (s.pwr.hold = false) → (sealed s = true) → (s.res.changes.any (fun x => x.part == p && x.home == some home) = false) → (mustScrape p home s = true) → (chooseUnit home (scrapeUnits p home (markScrape p home true s)) = some q) → exec (.scraperEvict p home) s = .next (scrapeUnit p home q (markScrape p home true s))) ∧
  (∀ (m : Mem) (p : Place) (n a : Nat), memByte (zeroPages m p n) a = if (p.data ≤ a ∧ a < p.data + n * 65536) ∨ (p.scale ≤ a ∧ a < p.scale + n * 4096) then 0 else memByte m a)

/-- LOAD of a full plate copies the named bytes of BAR2 and sets STATE to loading; while a plate is sealed and the node is not in hold mode it is refused with reason 22 and the plate in force stays. When a full plate's copy is complete it is valid and stands in the shadow store, or it is refused with the reason and section of the first check that fails; a delta that passes is loaded with the plate it results in, and one that fails is refused likewise. SEAL of a valid plate puts it in force, ends the plate-lost cause of hold mode, and leaves the islands their old lines until the next pass boundary, where RANK_SWITCH gives them the sealed plate's. An uncorrectable error that a vault stack's patrol finds in one copy of a plate store is repaired from the other copy; in the same word of both, or in an island's line memory, PLATE_LOST marks the plate lost, keeps its bytes and enters hold mode. -/
def Obligations.PlateLoadAndSeal : Prop :=
  (∀ (stores : List HostStore) (r s : State), (stores.foldl hostStore s = r) → (r.plt.st ≠ .loading) → (isDelta (loadBytes r) = false) → (r.plt.st = .sealed → r.pwr.hold = true) → (r.tru.tdis = []) → exec (.pltLoad stores) s = .next { r with plt := { r.plt with before := restState r, loading := some (loadBytes r), st := .loading, phase := .idle } }) ∧
  (∀ (stores : List HostStore) (r s : State), (stores.foldl hostStore s = r) → (r.plt.st = .sealed) → (r.pwr.hold = false) → (isDelta (loadBytes r) = true) → (r.plt.phase = .idle) → exec (.pltLoad stores) s = .next { r with plt := { r.plt with before := .sealed, loading := some (loadBytes r), st := .loading } }) ∧
  (∀ (stores : List HostStore) (r s : State), (stores.foldl hostStore s = r) → (r.plt.st = .sealed) → (r.pwr.hold = false) → (isDelta (loadBytes r) = false) → ∃ t, exec (.pltLoad stores) s = .next t ∧ t.plt.st = .sealed ∧ t.plt.code = 0x08 ∧ t.plt.reason = 22 ∧ t.plt.active = r.plt.active ∧ t = { r with plt := t.plt, ctr := t.ctr }) ∧
  (∀ (b : List Byte) (s : State), (s.plt.st = .loading) → (s.plt.loading = some b) → (isDelta b = false) → (s.tru.scrubs = []) → exec .loadComplete s = .next (match plateFails b s.plt.loadLen s.fsh.usableGib s.start.failedStacks with | some x => loadRefused false x.1 x.2 s | none => { writeStore shadowAddr b s with plt := { s.plt with loading := none, shadow := some (plateStore b), shadowDigest := digestOf b, code := 0, reason := 0, sect := 0, st := .valid } })) ∧
  (∀ (new : PlateStore) (s : State), (s.plt.st = .valid) → (s.plt.shadow = some new) → ∃ t, exec .pltSeal s = .next t ∧ t.plt = { s.plt with active := some new, shadow := none, digest := s.plt.shadowDigest, deltaSeq := new.plate.deltaSeq, st := .sealed, everSealed := true, switchPending := true, prior := [] } ∧ t.pwr.holdCause = s.pwr.holdCause &&& 59 ∧ t.time = s.time ∧ ((s.plt.active = none ∨ (plate s).epoch = new.plate.epoch) → t.dir = s.dir)) ∧
  (∀ (s : State), (s.plt.switchPending = true) → (strokeNow s = 0) → ∃ t, exec .rankSwitch s = .next t ∧ t.plt = { s.plt with running := some (plate s).lines, switchPending := false } ∧ t = { s with plt := t.plt, gravers := t.gravers }) ∧
  (∀ (b : PlateStore) (s : State), (s.plt.active = some b) → (s.plt.st ≠ .lost) → ∃ t, exec .plateLost s = .next t ∧ t.plt.st = .lost ∧ t.plt.active = some b ∧ t.plt.running = none ∧ t.pwr.hold = true ∧ bit t.pwr.holdCause 2 = true ∧ t.mem.stk = s.mem.stk) ∧
  (∀ (idx w : Nat) (l : Line) (m : Store LineProg) (s : State), (s.plt.running = some m) → (dueLine 6 idx 4 s = some l) → (6 ≤ l.linkStack) → (stackHeat l.linkStack s = {}) → (w < 16777216) → ((ueRecent s).length < 15) → ∃ t, exec (.refreshLine 6 idx ⟨[], [w]⟩) s = .next t ∧ t.mem.stk = memWrite s.mem.stk (plateWordAddr l.linkStack w) (memRead s.mem.stk (plateWordAddr (13 - l.linkStack) w) 8)) ∧
  (∀ (b a : List Byte) (p : PlateStore) (s : State), (s.plt.st = .loading) → (s.plt.loading = some b) → (isDelta b = true) → (s.plt.active = some p) → (applyDelta (readStore activeAddr p s) b = a) → (s.tru.scrubs = []) → exec .loadComplete s = .next (match deltaFails b a s.plt.loadLen s with | some x => loadRefused true x.1 x.2 s | none => { writeStore shadowAddr a s with plt := { s.plt with loading := none, shadow := some (plateStore a), shadowDigest := digestOf a, code := 0, reason := 0, sect := 0, st := .sealed, phase := .loaded } }))

/-- ARM of a loaded delta whose boundary lies at least 8 passes ahead and whose touched partitions are drained arms it for that boundary and holds those partitions; a nearer boundary is refused with reason 24, and a partition that is not drained ends it with ST_DELTA_BUSY. Each island's acknowledgement sets its bit. COMMIT before the pass ahead of the boundary commits. ABORT ends the delta with ST_DELTA_ABORTED and counts it. At the boundary a committed delta that every island has acknowledged takes effect, and any other is aborted; before it nothing happens. -/
def Obligations.Deltas : Prop :=
  (∀ (new : PlateStore) (s : State), (s.plt.phase = .loaded) → (s.plt.st = .sealed) → (s.plt.shadow = some new) → (passNow s + 8 ≤ s.plt.boundary) → (s.tru.scrubs = []) → (assignedParts s = []) → (((touchedParts (plate s) new.plate).all fun p => drained p s) = true) → exec .pltArm s = .next { s with plt := { s.plt with phase := .armed, armedAt := s.plt.boundary, acked := 0, held := touchedParts (plate s) new.plate, code := 0, reason := 0, sect := 0 } }) ∧
  (∀ (new : PlateStore) (s : State), (s.plt.phase = .loaded) → (s.plt.st = .sealed) → (s.plt.shadow = some new) → (s.plt.boundary < passNow s + 8) → ∃ t, exec .pltArm s = .next t ∧ t.plt = { s.plt with phase := .idle, dcode := 0x08, shadow := none, code := 0x08, reason := 24, sect := t.plt.sect } ∧ t = { s with plt := t.plt, ctr := t.ctr }) ∧
  (∀ (new : PlateStore) (p : Nat) (s : State), (s.plt.phase = .loaded) → (s.plt.st = .sealed) → (s.plt.shadow = some new) → (passNow s + 8 ≤ s.plt.boundary) → (s.tru.scrubs = []) → (assignedParts s = []) → (touchedParts (plate s) new.plate = [p]) → (drained p s = false) → ∃ t, exec .pltArm s = .next t ∧ t.plt = { s.plt with phase := .idle, dcode := 0x20, shadow := none } ∧ t = { s with plt := t.plt, ctr := t.ctr, flt := t.flt }) ∧
  (∀ (i : Nat) (s : State), (s.plt.phase = .armed ∨ s.plt.phase = .committed) → exec (.islandAck i) s = .next { s with plt := { s.plt with acked := s.plt.acked ||| 2 ^ i } }) ∧
  (∀ (s : State), (s.plt.phase = .armed) → (passNow s + 1 < s.plt.armedAt) → exec .pltCommit s = .next { s with plt := { s.plt with phase := .committed } }) ∧
  (∀ (s : State), (s.plt.phase ≠ .idle) → ∃ t, exec .pltAbort s = .next t ∧ t.plt = { s.plt with phase := .idle, dcode := 0x21, held := [], shadow := none } ∧ ctrGet cDeltasAborted t = min (2 ^ cDeltasAborted.width - 1) (ctrGet cDeltasAborted s + 1) ∧ t = { s with plt := t.plt, ctr := t.ctr, flt := t.flt }) ∧
  (∀ (s : State), (s.plt.phase = .armed ∨ s.plt.phase = .committed) → (passNow s < s.plt.armedAt) → exec .deltaBoundary s = .next s) ∧
  (∀ (new : PlateStore) (s : State), (s.plt.phase = .committed) → (s.plt.armedAt ≤ passNow s) → (s.plt.acked = 0x3FFFF) → (s.plt.shadow = some new) → ∃ t, exec .deltaBoundary s = .next t ∧ t.plt = { s.plt with active := some new, shadow := none, digest := s.plt.shadowDigest, deltaSeq := new.plate.deltaSeq, running := some new.plate.lines, switchPending := false, prior := (strokeCount s, plate s) :: s.plt.prior.filter (fun x => decide (strokeCount s < x.1 + 8192)), phase := .idle, dcode := 0, held := [] } ∧ t.time = s.time) ∧
  (∀ (s : State), (s.plt.phase = .armed ∨ (s.plt.phase = .committed ∧ s.plt.acked ≠ 0x3FFFF)) → (s.plt.armedAt ≤ passNow s) → exec .deltaBoundary s = .next (abortDelta s))

/-- A heartbeat that its connection accepts starts the peer's 48 passes again and leaves the inbox; one whose pass differs from this node's by more than one is counted in SKEW_ALARM, and one that is not acceptable in BEAT_BAD. Without a heartbeat for 48 passes a watched peer is lost once. A BEAT line queues this node's heartbeat on an active connection, with the pass, the node, the flags, the delta number and the time base. An ADAPT line is applied once in its stroke. -/
def Obligations.HeartbeatAndPeers : Prop :=
  (∀ (k : Nat) (m : InMsg) (s : State), (inboxFind k 0x31 false s = some m) → (beatOk k m.body s = true) → (u m.body 0 8 ≤ m.doneAt / 64 + 1) → (m.doneAt / 64 ≤ u m.body 0 8 + 1) → exec (.heartbeat k) s = .next (setAux k { aux k s with lastBeat := s.time.elapsed } (returnCredit k m.cls m.body.length (inboxTake m s)))) ∧
  (∀ (k : Nat) (m : InMsg) (s : State), (inboxFind k 0x31 false s = some m) → (beatOk k m.body s = true) → (m.doneAt / 64 + 1 < u m.body 0 8) → ∃ t, exec (.heartbeat k) s = .next t ∧ t.tfx.aux = put {} s.tfx.aux k { aux k s with lastBeat := s.time.elapsed } ∧ ctrGet cSkewAlarm t = min (2 ^ cSkewAlarm.width - 1) (ctrGet cSkewAlarm s + 1) ∧ t.tfx.inbox = dropFirst m s.tfx.inbox ∧ t = { s with tfx := t.tfx, ctr := t.ctr, flt := t.flt }) ∧
  (∀ (k : Nat) (m : InMsg) (s : State), (inboxFind k 0x31 false s = some m) → (beatOk k m.body s = false) → ∃ t, exec (.heartbeat k) s = .next t ∧ t.tfx.aux = s.tfx.aux ∧ ctrGet cBeatBad t = min (2 ^ cBeatBad.width - 1) (ctrGet cBeatBad s + 1) ∧ t.tfx.inbox = dropFirst m s.tfx.inbox ∧ t = { s with tfx := t.tfx, ctr := t.ctr, flt := t.flt }) ∧
  (∀ (k : Nat) (s : State), (watched k s = true) → ((aux k s).lost = false) → ((aux k s).lastBeat + 3072 ≤ s.time.elapsed) → ∃ t, exec (.peersLost k) s = .next t ∧ t.tfx.aux = put {} s.tfx.aux k { aux k s with lost := true } ∧ ctrGet cPeersLost t = min (2 ^ cPeersLost.width - 1) (ctrGet cPeersLost s + 1) ∧ t.time = s.time ∧ t.pwr = s.pwr) ∧
  (∀ (isl idx k : Nat) (l : Line) (s : State), (8 ≤ isl) → (isl < 16) → (dueLine isl idx 2 s = some l) → (l.arg0 % 65536 = k) → ((conn k s).st = .active) → exec (.beatLine isl idx) s = .next (tally cBeatsSent (queueMsg k { typ := 0x31, body := beatBody (markApplied isl idx s) } (markApplied isl idx s)))) ∧
  (∀ (isl idx : Nat) (l : Line) (s : State), (8 ≤ isl) → (isl < 16) → (dueStroke isl idx 3 s = some l) → exec (.adaptLine isl idx) s = .next (markApplied isl idx { s with tel := { s.tel with adapts := (s.tel.adapts + 1) % 65536 } }))

/-- From start-up stage 3 a lane that completes training with an ability of its port's mode is ACTIVE and locked. An ACTIVE lane that is lost, by the link, by 8 codewords not corrected within a microsecond, or by RETRAIN, is retired, reports a remote fault, is counted in LANE_LOST, and its frames are to be sent again. A retired lane of an up port that has held lock for a second returns at a pass boundary and is counted. A port in MODE 0, 1 or 5 with fewer than 3 ACTIVE lanes, and in another MODE with fewer than 4, drops: its lanes retire, it loses its credit and PORT_DROP rises. A port that is not up and whose four lanes, or in MODE 0, 1 or 5 three of them, have held lock for a second is up again at a pass boundary, stretched with three. The other ports do not change. -/
def Obligations.LanesAndPorts : Prop :=
  (∀ (p l : Nat) (a : Ability) (x : Lane) (s : State), (3 ≤ s.start.stage) → ((fport p s).st ≠ .dropped) → ((fport p s).gated = false) → (abilityFits (portMode p s) (fport p s).anOff a = true) → (bonded (portMode p s) = true) → ((fport p s).lanes[l]? = some x) → (x.st = .training) → ∃ v, exec (.laneTrained p l a) s = .next { s with ports := put {} s.ports p v } ∧ v.lanes = (fport p s).lanes.set l { x with st := .active, lockSince := some s.time.elapsed }) ∧
  (∀ (p l : Nat) (f : LaneFault) (x : Lane) (s : State), (f = .lockLost ∨ f = .remoteFault ∨ f = .alignmentLost) → ((fport p s).lanes[l]? = some x) → (x.st = .active) → ∃ t, exec (.laneLost p l f) s = .next t ∧ (∃ v, t.ports = put {} s.ports p v ∧ v.lanes = (fport p s).lanes.set l { x with st := .retired, lockSince := none, queued := 0 }) ∧ ctrGet (cLaneLost p) t = min (2 ^ (cLaneLost p).width - 1) (ctrGet (cLaneLost p) s + 1) ∧ t.tfx = { s.tfx with conns := t.tfx.conns } ∧ t = { s with ports := t.ports, tfx := t.tfx, ctr := t.ctr, flt := t.flt, out := t.out }) ∧
  (∀ (p l : Nat) (x : Lane) (s : State), (l < 4) → ((fport p s).lanes[l]? = some x) → (x.st = .active) → exec (.prtCtrlRetrain p (2 ^ l)) s = .next (loseLane p l s)) ∧
  (∀ (p l : Nat) (x : Lane) (s : State), ((fport p s).lanes[l]? = some x) → ((fport p s).st = .up) → (x.st = .retired) → (laneStable x s = true) → (strokeNow s = 0) → ∃ t, exec (.laneReturn p l) s = .next t ∧ (∃ v, t.ports = put {} s.ports p v ∧ v.lanes = (fport p s).lanes.set l { x with st := .active, queued := 0 }) ∧ ctrGet (cLaneReturn p) t = min (2 ^ (cLaneReturn p).width - 1) (ctrGet (cLaneReturn p) s + 1) ∧ t = { s with ports := t.ports, ctr := t.ctr, flt := t.flt }) ∧
  (∀ (p : Nat) (s : State), ((fport p s).st = .up) → (activeLanes (fport p s) < (if bonded (portMode p s) then 3 else 4)) → ∃ t v, exec (.portDrop p) s = .next t ∧ t.ports = put {} s.ports p v ∧ v.st = .dropped ∧ v.credit = [] ∧ v.sends = [] ∧ v.lanes.all (fun x => x.st == .retired) = true ∧ t.time = s.time ∧ t.dir = s.dir ∧ t.sch = s.sch) ∧
  (∀ (p n : Nat) (s : State), ((fport p s).st ≠ .up) → ((fport p s).gated = false) → (bit s.flt.fencedPorts p = false) → (strokeNow s = 0) → (((fport p s).lanes.filter fun x => laneStable x s).length = n) → (n = 4 ∨ (bonded (portMode p s) = true ∧ n = 3)) → ∃ t, exec (.portReturn p) s = .next t ∧ t.ports = put {} s.ports p { fport p s with st := .up, lanes := (fport p s).lanes.map (fun x => if laneStable x s then { x with st := .active } else x), stretched := decide (n = 3) } ∧ t = { s with ports := t.ports, tfx := t.tfx }) ∧
  (∀ (p l n : Nat) (x : Lane) (s : State), ((fport p s).lanes[l]? = some x) → (x.st = .active) → exec (.laneLost p l (.uncorrectable n)) s = .next (if 8 ≤ n then loseLane p l (fecEvents p l 0 n s) else fecEvents p l 0 n s))

/-- A SEND line in the first stroke of its claim on a working port grants its bytes in that stroke to its connection and class. A port with no ACTIVE lane starts no frame. A frame that the credit of its connection and class covers is started first, and takes its bytes from that credit; with no such frame, one that the free budget allows is started and spends its bytes. -/
def Obligations.FramesOut : Prop :=
  (∀ (isl idx : Nat) (l : Line) (s : State), (8 ≤ isl) → (isl < 16) → (s.sch.applied.contains (isl, idx) = false) → ((linesOf isl s).find? (fun x => x.1 == idx && x.2.op == 1) = some (idx, l)) → (portWorks (isl - 8) s = true) → (bit s.sch.unordered (isl - 8) = false) → (l.lenM1 = 0) → (l.age (cycleLen (progOf isl s)) (strokeCount s) = 0) → ((fport (isl - 8) s).sends = []) → ((fport (isl - 8) s).stretched = false) → (adapts (isl - 8) s = false) → (field l.arg0 16 3 ≠ 0) → ∃ t v, exec (.sendLine isl idx) s = .next t ∧ t.ports = put {} s.ports (isl - 8) v ∧ v.credit = put 0 (fport (isl - 8) s).credit (l.arg0 % 65536 * 8 + field l.arg0 16 3) (look 0 (fport (isl - 8) s).credit (l.arg0 % 65536 * 8 + field l.arg0 16 3) + 64 * (l.arg1 % 32768)) ∧ t = { s with ports := t.ports, sch := { s.sch with applied := s.sch.applied ++ [(isl, idx)] } }) ∧
  (∀ (p : Nat) (s : State), (portWorks p s = false ∨ laneFor p s = none) → exec (.frameStart p) s = .next s) ∧
  (∀ (p lane : Nat) (x : Cand) (s : State), (portWorks p s = true) → (laneFor p s = some lane) → (byCredit p s = some x) → exec (.frameStart p) s = .next (endCredit p x.conn x.cls (startCand p lane x false (setFport p { fport p s with credit := put 0 (fport p s).credit (x.conn * 8 + x.cls) (look 0 (fport p s).credit (x.conn * 8 + x.cls) - x.size) } s)))) ∧
  (∀ (p lane : Nat) (x : Cand) (s : State), (portWorks p s = true) → (laneFor p s = some lane) → (byCredit p s = none) → (byBudget p s = some x) → exec (.frameStart p) s = .next (endCredit p x.conn x.cls (startCand p lane x true (setFport p { fport p s with spent := (fport p s).spent + x.size, lastServed := put 0 (fport p s).lastServed x.cls (x.conn + 1) } s)))) ∧
  (∀ (p lane : Nat) (x : Cand) (key : Key) (s : State), (x.head = .ack) → (connKey x.conn (conn x.conn s).sendEpoch s = some key) → ∃ t, startCand p lane x true s = t ∧ t.tfx.conns = put {} s.tfx.conns x.conn { conn x.conn s with ackSerial := ((conn x.conn s).ackSerial + 1) % 4294967296 } ∧ t.out = s.out ++ [.frame p lane (frameAddr p x.conn 0 s) { ackHdr x.conn s with typ := 0x31, op := 2, seq := (conn x.conn s).ackSerial } [] key (overhead s)] ∧ t.tfx.inbox = s.tfx.inbox ∧ t.dir = s.dir ∧ t.mem = s.mem)

/-- A port counts the codewords of a frame that its FEC corrected and did not, and filters each frame in the order FCS, length, form, port: a frame that fails one is counted there, by one, and goes no further. A frame that passes waits in the smoothing queue, within its 262,144 bytes, of which classes above 0 leave 32,768 free; one that does not fit is counted in SMOOTH_DROP. A frame that leaves the queue for a connection that is not in use is counted in BAD_CONN, one that no live key authenticates in AUTH_FAIL, and one whose segment does not decode in INTEGRITY; none of them changes a connection. An authenticated ACK frame gives its acknowledgement and its rollover bits; a DATA or RESP frame gives them too and then goes by its PSN. -/
def Obligations.FramesIn : Prop :=
  (∀ (p : Nat) (x : RxFrame) (s : State), ((fport p s).st = .up) → ((fport p s).gated = false) → (bit s.flt.fencedPorts p = false) → (x.fcsOk = false) → exec (.frameReceive p x) s = .next (countEvent (cFcsBad p) (unitPort p) (fecEvents p x.lane x.fecCorrected x.fecUncorrected s))) ∧
  (∀ (p : Nat) (x : RxFrame) (s : State), ((fport p s).st = .up) → ((fport p s).gated = false) → (bit s.flt.fencedPorts p = false) → (x.fcsOk = true) → (x.size < 64 ∨ 9216 < x.size) → exec (.frameReceive p x) s = .next (countEvent (cOversize p) (unitPort p) (fecEvents p x.lane x.fecCorrected x.fecUncorrected s))) ∧
  (∀ (p : Nat) (x : RxFrame) (s : State), ((fport p s).st = .up) → ((fport p s).gated = false) → (bit s.flt.fencedPorts p = false) → (x.fcsOk = true) → (64 ≤ x.size) → (x.size ≤ 9216) → (isTfx p x s = false) → exec (.frameReceive p x) s = .next (countEvent (cNotTfx p) (unitPort p) (fecEvents p x.lane x.fecCorrected x.fecUncorrected s))) ∧
  (∀ (p : Nat) (x : RxFrame) (r s : State), ((fport p s).st = .up) → ((fport p s).gated = false) → (bit s.flt.fencedPorts p = false) → (fecEvents p x.lane x.fecCorrected x.fecUncorrected s = r) → (x.fcsOk = true) → (64 ≤ x.size) → (x.size ≤ 9216) → (isTfx p x s = true) → ((connRec (readHdr x.hdr).conn s).used = true → bit (connRec (readHdr x.hdr).conn s).ports p = true) → (smoothLevel (fport p s) + x.size ≤ 262144) → ((readHdr x.hdr).cls ≠ 0 → smoothHigh (fport p s) + x.size ≤ 229376) → exec (.frameReceive p x) s = .next { r with ports := put {} r.ports p { fport p r with smooth := (fport p r).smooth ++ [x], smoothPeak := max (fport p r).smoothPeak (smoothLevel (fport p r) + x.size) }, tel := { r.tel with live := { r.tel.live with rx := put 0 r.tel.live.rx p (min 0xFFFFFFFF (look 0 r.tel.live.rx p + x.size)) } } }) ∧
  (∀ (p : Nat) (x : RxFrame) (rest : List RxFrame) (s : State), ((fport p s).smooth = x :: rest) → (bit s.flt.fencedPorts p = false) → ((conn (readHdr x.hdr).conn s).st = .unused) → exec (.tfxFrameAccept p) s = .next (countEvent cBadConn (unitConn (readHdr x.hdr).conn) (setFport p { fport p s with smooth := rest } s))) ∧
  (∀ (p : Nat) (x : RxFrame) (rest : List RxFrame) (s : State), ((fport p s).smooth = x :: rest) → (bit s.flt.fencedPorts p = false) → ((conn (readHdr x.hdr).conn s).st ≠ .unused) → (x.sealKey = none) → exec (.tfxFrameAccept p) s = .next (countEvent cAuthFail (unitConn (readHdr x.hdr).conn) (setFport p { fport p s with smooth := rest } s))) ∧
  (∀ (p e : Nat) (x : RxFrame) (rest : List RxFrame) (s : State), ((fport p s).smooth = x :: rest) → (bit s.flt.fencedPorts p = false) → ((conn (readHdr x.hdr).conn s).st = .active) → (authEpoch (readHdr x.hdr).conn (readHdr x.hdr) x.sealKey (setFport p { fport p s with smooth := rest } s) = some e) → (hdrReserved x.hdr = false) → ((readHdr x.hdr).op = 2) → (ackFieldsOk (readHdr x.hdr) = true) → exec (.tfxFrameAccept p) s = .next (takeRoll (readHdr x.hdr).conn e (readHdr x.hdr) (takeAck (readHdr x.hdr).conn (readHdr x.hdr) (setFport p { fport p s with smooth := rest } s)))) ∧
  (∀ (p e : Nat) (x : RxFrame) (rest : List RxFrame) (seg : List Byte) (s : State), ((fport p s).smooth = x :: rest) → (bit s.flt.fencedPorts p = false) → ((conn (readHdr x.hdr).conn s).st = .active ∨ (conn (readHdr x.hdr).conn s).st = .closing) → (authEpoch (readHdr x.hdr).conn (readHdr x.hdr) x.sealKey (setFport p { fport p s with smooth := rest } s) = some e) → (hdrReserved x.hdr = false) → ((readHdr x.hdr).op ≠ 2) → (decodeSegment (readHdr x.hdr).kind (readHdr x.hdr).segLen x.coded = some seg) → exec (.tfxFrameAccept p) s = .next (takePsn p (readHdr x.hdr).conn (readHdr x.hdr) seg (takeRoll (readHdr x.hdr).conn e (readHdr x.hdr) (takeAck (readHdr x.hdr).conn (readHdr x.hdr) (setFport p { fport p s with smooth := rest } s))))) ∧
  (∀ (p e : Nat) (x : RxFrame) (rest : List RxFrame) (s : State), ((fport p s).smooth = x :: rest) → (bit s.flt.fencedPorts p = false) → ((conn (readHdr x.hdr).conn s).st ≠ .unused) → (authEpoch (readHdr x.hdr).conn (readHdr x.hdr) x.sealKey (setFport p { fport p s with smooth := rest } s) = some e) → (hdrReserved x.hdr = false) → ((readHdr x.hdr).op ≠ 2) → (decodeSegment (readHdr x.hdr).kind (readHdr x.hdr).segLen x.coded = none) → exec (.tfxFrameAccept p) s = .next (countEvent (cIntegrity p) (unitPort p) (setFport p { fport p s with smooth := rest } s)))

/-- An acknowledgement that is due takes its place at the head of class 0. A frame that is not acknowledged within 50 us is to be sent again and its timeouts rise; the sixteenth fails the connection. A rollover that stands for a second raises its fault once. The review of a group of 64 passes lowers the limits' headroom as R472 says and marks the group. A closing connection that is drained, or has closed for 1 ms, loses its own key and is KEYLESS. -/
def Obligations.TransportTimers : Prop :=
  (∀ (k : Nat) (s : State), (ackDue k s = true) → exec (.ackSend k) s = .next (setAux k { aux k s with ackReady := true } s)) ∧
  (∀ (k : Nat) (s : State), (ackDue k s = false) → exec (.ackSend k) s = .next s) ∧
  (∀ (k psn : Nat) (f : SentFrame) (s : State), ((conn k s).unacked.find? (fun z => z.hdr.seq == psn) = some f) → (f.at_ + 200 ≤ s.time.elapsed) → (f.later < 4) → (f.timeouts ≠ 15) → exec (.retransmit k psn) s = .next (setConn k { conn k s with unacked := replaceWhere (fun y => y.hdr.seq == psn) (fun _ => { f with again := true, timeouts := f.timeouts + 1, at_ := s.time.elapsed }) (conn k s).unacked } s)) ∧
  (∀ (k psn : Nat) (f : SentFrame) (s : State), ((conn k s).unacked.find? (fun z => z.hdr.seq == psn) = some f) → (f.at_ + 200 ≤ s.time.elapsed) → (f.later < 4) → (f.timeouts = 15) → exec (.retransmit k psn) s = .next (failConn k s)) ∧
  (∀ (k : Nat) (s : State), (1 ≤ (conn k s).rollStep) → ((conn k s).rollPass + 62500 ≤ passNow s) → ((aux k s).stalled = false) → ∃ t, exec (.rollStall k) s = .next t ∧ t.tfx = { s.tfx with aux := put {} s.tfx.aux k { aux k s with stalled := true } } ∧ t.time = s.time ∧ exec (.rollStall k) t = .next t) ∧
  (∀ (k : Nat) (s : State), ((aux k s).group < passNow s / 64) → ∃ t, exec (.creditShrink k) s = .next t ∧ t.tfx.aux = put {} s.tfx.aux k { aux k s with group := passNow s / 64 } ∧ t.tfx.conns = put {} s.tfx.conns k { conn k s with pool := shrinkPool reserveUnits (conn k s).pool, pool0 := shrinkPool reserveUnits (conn k s).pool0, attn := shrinkPool reserveTokens (conn k s).attn } ∧ t = { s with tfx := t.tfx }) ∧
  (∀ (k : Nat) (s : State), ((conn k s).st = .closing) → ((aux k s).closeAt + 4000 ≤ s.time.elapsed) → (look (0, 0) (plate s).keymap (connRec k s).keySlot = (1, k)) → exec (.closingEnd k) s = .next (toKeyless k (erasePos (connRec k s).keySlot 0 (erasePos (connRec k s).keySlot 1 s))))

/-- A remote operation whose region, right and range pass is done and answered with ST_OK in the request's class: RDMA_RD returns the region's bytes, RDMA_WR stores its bytes (with QUIET it is not answered), ATOMIC stores the result of its opcode and returns the old 8 bytes. A key that names no such region, tenant or right is answered ST_AUTH_FAIL, counted in REGION_FAIL, and changes no memory. A read of host memory that fails is answered ST_TARGET_DEAD. TRIG raises a counter of its tenant, saturating, with no answer, and fires the work requests that have reached their threshold; another tenant's counter keeps its value and TRIG_BAD rises. An answer that nothing awaits is discarded; the answer to a message of the host goes to its ring, and the answer to a remote load completes it. -/
def Obligations.RemoteOperations : Prop :=
  (∀ (k : Nat) (d : Bool) (m : InMsg) (r : Region) (s : State), (remoteReady k 0x20 m s) → (m.body.length = 0x20) → (0 < u m.body 0xC 4) → (u m.body 0xC 4 ≤ 1048576) → (u m.body 0x18 8 = 0) → (regionFor (u m.body 8 4) (connRec k s).tenant 0 s = some r) → (inRegion r (u m.body 0x10 8) (u m.body 0xC 4) s = true) → (d = false ∨ r.bar2 = true) → exec (.rdmaRd k d) s = .next (answer k m r.kind 0 (u m.body 0xC 4) (regionRead r (u m.body 0x10 8) (u m.body 0xC 4) s) (taken k m s))) ∧
  (∀ (k : Nat) (d : Bool) (m : InMsg) (s : State), (remoteReady k 0x20 m s) → (m.body.length = 0x20) → (0 < u m.body 0xC 4) → (u m.body 0xC 4 ≤ 1048576) → (u m.body 0x18 8 = 0) → (regionFor (u m.body 8 4) (connRec k s).tenant 0 s = none) → exec (.rdmaRd k d) s = .next (answer k m 0 0x11 0 [] (countEvent cRegionFail (unitConn k) (taken k m s)))) ∧
  (∀ (k : Nat) (m : InMsg) (r : Region) (s : State), (remoteReady k 0x20 m s) → (m.body.length = 0x20) → (0 < u m.body 0xC 4) → (u m.body 0xC 4 ≤ 1048576) → (u m.body 0x18 8 = 0) → (regionFor (u m.body 8 4) (connRec k s).tenant 0 s = some r) → (inRegion r (u m.body 0x10 8) (u m.body 0xC 4) s = true) → (r.bar2 = false) → exec (.rdmaRd k true) s = .next (answer k m r.kind 0x31 0 [] (taken k m s))) ∧
  (∀ (k : Nat) (d : Bool) (m : InMsg) (r : Region) (s : State), (remoteReady k 0x21 m s) → (writeBad m.body = false) → (bit (u m.body 0xC 1) 0 = false) → (bit (u m.body 0xC 1) 1 = false) → (regionFor (u m.body 8 4) (connRec k s).tenant 1 s = some r) → (inRegion r (u m.body 0x10 8) (m.body.length - 32) s = true) → (d = false ∨ r.bar2 = true) → exec (.rdmaWr k d) s = .next (answer k m r.kind 0 (m.body.length - 32) [] (regionWrite r (u m.body 0x10 8) (m.body.drop 32) (taken k m s)))) ∧
  (∀ (k : Nat) (m : InMsg) (r : Region) (s : State), (remoteReady k 0x22 m s) → (m.body.length = 0x28) → (u m.body 0xC 4 < 3) → (u m.body 0xC 4 = 1 ∨ u m.body 0x20 8 = 0) → (regionFor (u m.body 8 4) (connRec k s).tenant 2 s = some r) → (inRegion r (u m.body 0x10 8) 8 s = true) → (r.bar2 = true) → (u m.body 0x10 8 % 8 = 0) → exec (.atomic k) s = .next (answer k m r.kind 0 8 (leBytes 8 (leNat (regionRead r (u m.body 0x10 8) 8 s))) (regionWrite r (u m.body 0x10 8) (leBytes 8 (if u m.body 0xC 4 = 0 then (leNat (regionRead r (u m.body 0x10 8) 8 s) + u m.body 0x18 8) % 2 ^ 64 else if u m.body 0xC 4 = 1 then (if leNat (regionRead r (u m.body 0x10 8) 8 s) = u m.body 0x20 8 then u m.body 0x18 8 else leNat (regionRead r (u m.body 0x10 8) 8 s)) else u m.body 0x18 8)) (taken k m s)))) ∧
  (∀ (k : Nat) (m : InMsg) (s : State), (remoteReady k 0x30 m s) → (m.body.length = 16) → (u m.body 0 4 < 131072) → (0 < u m.body 4 4) → (u m.body 8 8 = 0) → ((trigger (u m.body 0 4) s).tenant = some (connRec k s).tenant) → exec (.trig k) s = .next (fireAll (u m.body 0 4) (setTrigger (u m.body 0 4) { trigger (u m.body 0 4) s with value := min 0xFFFFFFFF ((trigger (u m.body 0 4) s).value + u m.body 4 4) } (taken k m s)))) ∧
  (∀ (k : Nat) (m : InMsg) (s : State), (remoteReady k 0x30 m s) → (m.body.length = 16) → (u m.body 0 4 < 131072) → (0 < u m.body 4 4) → (u m.body 8 8 = 0) → ((trigger (u m.body 0 4) s).tenant ≠ some (connRec k s).tenant) → exec (.trig k) s = .next (countEvent cTrigBad (unitConn k) (taken k m s))) ∧
  (∀ (k : Nat) (m : InMsg) (s : State), (s.tfx.inbox.find? (fun z => z.conn == k && z.isResp && z.typ != tMove && z.typ != tExport) = some m) → ((aux k s).waits = []) → (m.typ ≠ 0x21) → exec (.resp k) s = .next (taken k m s)) ∧
  (∀ (k id : Nat) (m : InMsg) (w : Awaiting) (s : State), (s.tfx.inbox.find? (fun z => z.conn == k && z.isResp && z.typ != tMove && z.typ != tExport) = some m) → ((aux k s).waits = [w]) → (w.tag = u m.body 0 8) → (w.typ = m.typ) → (w.purpose = .remoteLoad id) → (completionStatus m.body = 0) → ∃ t, exec (.resp k) s = .next t ∧ t.out = s.out ++ [.loadData id (m.body.drop 16)] ∧ t.host.loads = s.host.loads.filter (fun l => l.id != id) ∧ t.tfx.aux = put {} s.tfx.aux k { aux k s with waits := [] } ∧ t.mem = s.mem ∧ t.dir = s.dir) ∧
  (∀ (k : Nat) (d : Bool) (m : InMsg) (r : Region) (s : State), (remoteReady k 0x21 m s) → (writeBad m.body = false) → (bit (u m.body 0xC 1) 0 = false) → (bit (u m.body 0xC 1) 1 = true) → (regionFor (u m.body 8 4) (connRec k s).tenant 1 s = some r) → (inRegion r (u m.body 0x10 8) (m.body.length - 32) s = true) → (d = false ∨ r.bar2 = true) → exec (.rdmaWr k d) s = .next (regionWrite r (u m.body 0x10 8) (m.body.drop 32) (taken k m s))) ∧
  (∀ (i : Nat) (s : State), (s.tfx.workReqs.all (fun w => w.counter != i || w.fired || decide ((trigger i s).value < w.threshold)) = true) → fireAll i s = s) ∧
  (∀ (k x : Nat) (m : InMsg) (w : Awaiting) (s : State), (s.tfx.inbox.find? (fun z => z.conn == k && z.isResp && z.typ != tMove && z.typ != tExport) = some m) → ((aux k s).waits = [w]) → (w.tag = u m.body 0 8) → (w.typ = m.typ) → (w.purpose = .hostSend x) → exec (.resp k) s = .next (toRing (aux k s).ring ⟨k, m.typ, 1, x, completionStatus m.body, m.body, some m.cls⟩ (setAux k { aux k s with waits := [] } (inboxTake m s))))

/-- A load or store of the remote window that breaks R354 is an unsupported request and changes nothing else. A load sends one RDMA_RD of class 1 under the next TAG and waits; a store sends one quiet RDMA_WR, and to a dead target it is discarded with a fault. A load of the watch class whose target is dead completes with all ones and is counted in DEAD_LOADS. -/
def Obligations.RemoteAccess : Prop :=
  (∀ (off n : Nat) (s : State), (accessBad off n s = true) → exec (.remoteLoad off n) s = .next (emit .unsupportedRequest s)) ∧
  (∀ (off : Nat) (data : List Byte) (s : State), (accessBad off data.length s = true) → exec (.remoteStore off data) s = .next (emit .unsupportedRequest s)) ∧
  (∀ (off n : Nat) (s : State), (accessBad off n s = false) → (sendRefusal (rwin (off / 2 ^ 26) s).conn s = none) → ∃ t, exec (.remoteLoad off n) s = .next t ∧ t.host.loads = s.host.loads ++ [{ id := s.host.nextLoad, window := off / 2 ^ 26, len := n, at_ := s.time.elapsed }] ∧ t.host.nextLoad = s.host.nextLoad + 1 ∧ t.tfx.nextTag = (s.tfx.nextTag + 1) % 2 ^ 64 ∧ t.mem = s.mem ∧ t.out = s.out) ∧
  (∀ (off : Nat) (data body : List Byte) (s : State), (accessBad off data.length s = false) → (deadWindow (off / 2 ^ 26) s = false) → (body = leBytes 8 s.tfx.nextTag ++ leBytes 4 (rwin (off / 2 ^ 26) s).rkey ++ leBytes 1 2 ++ leBytes 3 0 ++ leBytes 8 (((rwin (off / 2 ^ 26) s).base + off % 2 ^ 26) % 2 ^ 64) ++ leBytes 8 0 ++ data) → exec (.remoteStore off data) s = .next (queueMsg (rwin (off / 2 ^ 26) s).conn { typ := 0x21, cls := 1, kind := postKind 0x21 body, tag := s.tfx.nextTag, body := body, purpose := .remoteStore, mute := true } { s with tfx := { s.tfx with nextTag := (s.tfx.nextTag + 1) % 2 ^ 64 } })) ∧
  (∀ (off : Nat) (data : List Byte) (s : State), (accessBad off data.length s = false) → (deadWindow (off / 2 ^ 26) s = true) → exec (.remoteStore off data) s = .next (raise fDeadTarget (unitConn (rwin (off / 2 ^ 26) s).conn) [] s)) ∧
  (∀ (id : Nat) (l : RemoteLoad) (s : State), (s.host.loads.find? (fun z => z.id == id) = some l) → ((rwin l.window s).watch = true) → (l.at_ + 80 ≤ s.time.elapsed) → ∃ t, exec (.deadTarget id) s = .next t ∧ Output.loadData id (List.replicate l.len 0xFF) ∈ t.out ∧ t.host.loads = s.host.loads.filter (fun x => x.id != id) ∧ ctrGet cDeadLoads t = min (2 ^ cDeadLoads.width - 1) (ctrGet cDeadLoads s + 1) ∧ t.mem = s.mem)

/-- SEND queues its message on a connection of its tenant, with the KIND that the rules give its data and no answer asked of a QUIET one, and reports its length. REGION_REG makes the entry live with its base, length, rights and kind, a new generation when it has been used, and returns its key; it takes an entry that is not live, or that a tenant of the command's partition holds. REGION_DEREG ends it and keeps the generation. RING_BIND sets the ring of a connection, or none for 0xFFFF. COUNTER_RESET sets a counter and allots it to the tenant (notes/assumptions/34.md). POST_WR takes a free slot, a free value of the model, and holds the request until its threshold, or fires it at once when the counter stands at it. WR_CANCEL removes a request that has not fired. CONN_CLOSE of an active connection begins its close. -/
def Obligations.TransportCommands : Prop :=
  (∀ (f : Nat) (c : Cmd) (s : State), (hostReady f 2 1 [(0, 16), (2, 8), (3, 3), (8, 64), (0x10, 21), (0x18, 64)] c s) → (connOwned c (c.arg 0 2) s = true) → (hostTypes.contains (c.arg 2 1) = true) → (c.arg 3 1 ≠ 0) → (c.arg 0x10 4 ≠ 0) → (b2Ok c.f (c.arg 8 8) (c.arg 0x10 4) s = true) → (sendRefusal (c.arg 0 2) s = none) → exec (.send f) s = .next (endCmd c 0 0 (c.arg 0x10 4) (submitMsg (c.arg 0 2) { typ := c.arg 2 1, cls := c.arg 3 1, kind := postKind (c.arg 2 1) (b2Read c.f (c.arg 8 8) (c.arg 0x10 4) s), tag := u (b2Read c.f (c.arg 8 8) (c.arg 0x10 4) s) 0 8, body := b2Read c.f (c.arg 8 8) (c.arg 0x10 4) s, purpose := if c.arg 2 1 = 0x30 then .none else .hostSend (c.arg 0x18 8), mute := isQuiet (c.arg 2 1) (b2Read c.f (c.arg 8 8) (c.arg 0x10 4) s) || c.arg 2 1 == 0x30 } s))) ∧
  (∀ (f : Nat) (c : Cmd) (s : State), (hostReady f 2 2 [(0, 18), (4, 6), (8, 64), (0x10, 64)] c s) → ((region (c.arg 0 4) s).live = true → tenantIn (region (c.arg 0 4) s).tenant c.part s = true) → (field (c.arg 4 1) 4 2 ≠ 3) → (bit (c.arg 4 1) 0 = true → b2Ok c.f (c.arg 8 8) (c.arg 0x10 8) s = true) → ∃ r t, exec (.regionReg f) s = .next (endCmd c 0 0 (r.gen * 2 ^ 18 + c.arg 0 4) t) ∧ t = { s with tfx := { s.tfx with regions := put {} s.tfx.regions (c.arg 0 4) r } } ∧ r = { live := true, seen := true, bar2 := bit (c.arg 4 1) 0, fn := c.f, base := c.arg 8 8, len := c.arg 0x10 8, tenant := c.tenant, rights := field (c.arg 4 1) 1 3, kind := field (c.arg 4 1) 4 2, gen := if (region (c.arg 0 4) s).seen then ((region (c.arg 0 4) s).gen + 1) % 16384 else (region (c.arg 0 4) s).gen }) ∧
  (∀ (f : Nat) (c : Cmd) (s : State), (hostReady f 2 3 [(0, 18)] c s) → ((region (c.arg 0 4) s).live = true) → (tenantIn (region (c.arg 0 4) s).tenant c.part s = true) → exec (.regionDereg f) s = .next (endCmd c 0 0 0 { s with tfx := { s.tfx with regions := put {} s.tfx.regions (c.arg 0 4) { seen := true, gen := (region (c.arg 0 4) s).gen } } })) ∧
  (∀ (f : Nat) (c : Cmd) (s : State), (hostReady f 2 4 [(0, 16), (2, 16)] c s) → (connMine c (c.arg 0 2) s = true) → (c.arg 2 2 < 256) → (c.arg 2 2 / 2 = c.part) → exec (.ringBind f) s = .next (endCmd c 0 0 0 (setAux (c.arg 0 2) { aux (c.arg 0 2) s with ring := some (c.arg 2 2) } s))) ∧
  (∀ (f : Nat) (c : Cmd) (s : State), (hostReady f 2 5 [(0, 17), (4, 32)] c s) → (counterFree c (c.arg 0 4) s = true) → exec (.counterReset f) s = .next (endCmd c 0 0 0 (setTrigger (c.arg 0 4) { value := c.arg 4 4, tenant := some c.tenant } s))) ∧
  (∀ (f : Nat) (c : Cmd) (n : Nat) (s : State), (hostReady f 2 6 [(0, 17), (4, 32), (8, 16), (0xA, 8), (0xB, 3), (0xC, 16), (0x10, 64), (0x18, 21), (0x20, 64)] c s) → (connOwned c (c.arg 8 2) s = true) → (hostTypes.contains (c.arg 0xA 1) = true) → (c.arg 0xB 1 ≠ 0) → (c.arg 0x18 4 ≠ 0) → (b2Ok c.f (c.arg 0x10 8) (c.arg 0x18 4) s = true) → ((trigger (c.arg 0 4) s).tenant = some n) → (tenantMine c n s = true) → (c.arg 0xC 2 < 256) → (c.arg 0xC 2 / 2 = c.part) → (s.tfx.workReqs.length < 1048576) → ∃ t slot w, (slot, t) = (nthFree (sortNat (s.tfx.workReqs.map (·.slot))) (pick (1048576 - s.tfx.workReqs.length) s).1, (pick (1048576 - s.tfx.workReqs.length) s).2) ∧ w = ({ slot := slot, counter := c.arg 0 4, threshold := c.arg 4 4, conn := c.arg 8 2, typ := c.arg 0xA 1, cls := c.arg 0xB 1, ring := c.arg 0xC 2, fn := c.f, body := c.arg 0x10 8, bodyLen := c.arg 0x18 4, tag := c.arg 0x20 8, fired := false } : WorkReq) ∧ ((trigger (c.arg 0 4) s).value < c.arg 4 4 → exec (.postWr f) s = .next (endCmd c 0 0 slot { t with tfx.workReqs := s.tfx.workReqs ++ [w] })) ∧ (c.arg 4 4 ≤ (trigger (c.arg 0 4) s).value → exec (.postWr f) s = .next (fireOne (endCmd c 0 0 slot { t with tfx.workReqs := s.tfx.workReqs ++ [w] }) w))) ∧
  (∀ (f : Nat) (c : Cmd) (w : WorkReq) (s : State), (hostReady f 2 7 [(0, 20)] c s) → (s.tfx.workReqs.find? (fun z => z.slot == c.arg 0 4) = some w) → (connMine c w.conn s = true) → (w.fired = false) → exec (.wrCancel f) s = .next (endCmd c 0 0 0 { s with tfx := { s.tfx with workReqs := s.tfx.workReqs.filter fun w => w.slot != c.arg 0 4 } })) ∧
  (∀ (f : Nat) (c : Cmd) (s : State), (hostReady f 2 8 [(0, 16)] c s) → (connMine c (c.arg 0 2) s = true) → ((conn (c.arg 0 2) s).st = .active) → exec (.connClose f) s = .next (endCmd c 0 0 0 (closeConn (c.arg 0 2) s))) ∧
  (∀ (f : Nat) (c : Cmd) (s : State), (hostReady f 2 4 [(0, 16), (2, 16)] c s) → (connMine c (c.arg 0 2) s = true) → (c.arg 2 2 = 0xFFFF) → exec (.ringBind f) s = .next (endCmd c 0 0 0 (setAux (c.arg 0 2) { aux (c.arg 0 2) s with ring := none } s)))

/-- A message for a ring whose buffers have no room for its next frame waits, once, and is counted in RING_WAIT; with room the frame is written. A message with no bytes left takes its 32-byte completion entry at once, with the vector of its function. POST sets the posted index, after the stores that precede it, and renews the wait. RECLAIM takes back buffers that are posted and not finished, and ends a message that waits for them; with none it changes nothing. A frame that has waited 62,500 passes ends with ST_RING_SHORT and the fault of a revoked lease. -/
def Obligations.ReceiveRings : Prop :=
  (∀ (i : Nat) (m : RingMsg) (rest : List RingMsg) (s : State), ((ring i s).enable = true) → ((ring i s).waiting = m :: rest) → ((ring i s).written < m.body.length) → (((ringRoom (ring i s) s).map (·.2)).sum < min 9024 (m.body.length - (ring i s).written)) → ((ring i s).waits = false) → exec (.ringWrite i) s = .next (countEvent cRingWait (unitConn m.conn) (setRing i { ring i s with waits := true, reservedAt := s.time.elapsed } s))) ∧
  (∀ (i : Nat) (m : RingMsg) (rest : List RingMsg) (s : State), ((ring i s).enable = true) → ((ring i s).waiting = m :: rest) → (m.body.length ≤ (ring i s).written) → ((ring i s).nbuf ≠ 0) → ∃ t, exec (.ringWrite i) s = .next t ∧ t.mem.host = memWrite s.mem.host ((ring i s).cplBase + 32 * (ring i s).cplNext) (leBytes 8 m.tag ++ leBytes 2 m.conn ++ leBytes 1 m.typ ++ leBytes 1 m.status ++ leBytes 4 m.body.length ++ leBytes 4 (ring i s).firstBuf ++ leBytes 2 (ring i s).nbuf ++ leBytes 1 m.op ++ leBytes 5 0 ++ leBytes 4 (b2n (ring i s).phase)) ∧ t.out = s.out ++ [.msix (1 + i / 2) 5] ∧ t = { s with mem := { s.mem with host := t.mem.host }, tfx := { s.tfx with rings := t.tfx.rings }, out := t.out }) ∧
  (∀ (i value : Nat) (stores : List HostStore) (s r : State), (r = stores.foldl hostStore s) → exec (.post i value stores) s = .next (setRing i { ring i r with post := value % 2 ^ (ring i r).sizeLog2, reservedAt := r.time.elapsed } r)) ∧
  (∀ (i value : Nat) (s : State), (ringAvail (ring i s) = 0) → ((ring i s).fill = none) → exec (.reclaim i value) s = .next s) ∧
  (∀ (i value : Nat) (s : State), ((ring i s).fill = none) → ((ring i s).waits = false) → ((value % ringSize (ring i s) + ringSize (ring i s) - (ring i s).consumed % ringSize (ring i s)) % ringSize (ring i s) < ringAvail (ring i s)) → exec (.reclaim i value) s = .next (setRing i { ring i s with post := value % ringSize (ring i s) } s)) ∧
  (∀ (i : Nat) (m : RingMsg) (rest : List RingMsg) (s : State), ((ring i s).waiting = m :: rest) → ((ring i s).waits = true) → ((ring i s).reservedAt + 4000000 ≤ s.time.elapsed) → exec (.ringLeaseExpiry i) s = .next (raise fLeaseRevoked (unitConn m.conn) [] (tally ctrLeaseRevoked (ringShort i s)))) ∧
  (∀ (i : Nat) (m : RingMsg) (rest : List RingMsg) (s : State), ((ring i s).enable = true) → ((ring i s).waiting = m :: rest) → ((ring i s).written < m.body.length) → (min 9024 (m.body.length - (ring i s).written) ≤ ((ringRoom (ring i s) s).map (·.2)).sum) → exec (.ringWrite i) s = .next (ringFrame i m s)) ∧
  (∀ (i value : Nat) (s : State), ((ring i s).fill = none) → ((ring i s).waits = true) → ((value % ringSize (ring i s) + ringSize (ring i s) - (ring i s).consumed % ringSize (ring i s)) % ringSize (ring i s) < ringAvail (ring i s)) → exec (.reclaim i value) s = .next (ringShort i (setRing i { ring i s with post := value % ringSize (ring i s) } s)))

/-- A doorbell of an enabled queue with fewer than 64 lists and a range in the function's BAR2 queues a list with the queue's next SEQ, after the stores that precede it; at 64 lists it is counted in the queue's overflow, and with no command or a bad range in its bad-doorbell counter; a disabled queue ignores it. A list that has ended leaves its queue with its COMPLETION word written whole, DONE, status, executed count and SEQ, and its vector if it asks for one; a refused list runs nothing and reports its status with a count of 0. Setting ENABLE starts SEQ again; clearing it discards the queue's lists. FLR resets the function, is counted, and puts a virtual function's TDI in ERROR, and PERST# takes both links down. -/
def Obligations.HostQueues : Prop :=
  (∀ (f cls : Nat) (v : BitVec 64) (stores : List HostStore) (s r : State), (r = stores.foldl hostStore s) → (queueListens f cls r = true) → ((hostQueue f cls r).lists.length < 64) → (field v.toNat 32 10 ≠ 0) → (b2Ok f (field v.toNat 0 21 * 64) (64 + 64 * field v.toNat 32 10) r = true) → ∃ (l : CmdList) (h : List Byte), h = b2Read f (field v.toNat 0 21 * 64) 64 r ∧ exec (.cqDoorbell f cls v stores) s = .next (settle f cls (setQueue f cls { hostQueue f cls r with seq := l.seq, lists := (hostQueue f cls r).lists ++ [l] } r)) ∧ l = { seq := (if (hostQueue f cls r).seq = 2 ^ 32 - 1 then 1 else (hostQueue f cls r).seq + 1), off := field v.toNat 0 21 * 64, ncmd := field v.toNat 32 10, part := u h 0xB 1 % 128, stop := bit (u h 0xA 1) 0, irq := bit (u h 0xA 1) 1, refused := listRefusal f (field v.toNat 32 10) h r, next := 0, results := [], stopped := false }) ∧
  (∀ (f cls : Nat) (v : BitVec 64) (stores : List HostStore) (s r : State), (r = stores.foldl hostStore s) → (queueListens f cls r = true) → (64 ≤ (hostQueue f cls r).lists.length) → exec (.cqDoorbell f cls v stores) s = .next (countEvent (cDbOverflow f cls) unitNode r)) ∧
  (∀ (f cls : Nat) (v : BitVec 64) (stores : List HostStore) (s r : State), (r = stores.foldl hostStore s) → (queueListens f cls r = true) → ((hostQueue f cls r).lists.length < 64) → (field v.toNat 32 10 = 0 ∨ b2Ok f (field v.toNat 0 21 * 64) (64 + 64 * field v.toNat 32 10) r = false) → exec (.cqDoorbell f cls v stores) s = .next (countEvent (cDbBad f cls) unitNode r)) ∧
  (∀ (f cls : Nat) (v : BitVec 64) (stores : List HostStore) (s r : State), (r = stores.foldl hostStore s) → (queueListens f cls r = false) → exec (.cqDoorbell f cls v stores) s = .next r) ∧
  (∀ (f cls st : Nat) (l : CmdList) (rest : List CmdList) (s t : State), ((hostQueue f cls s).lists = l :: rest) → (l.refused = some st) → (t = setQueue f cls { hostQueue f cls s with lists := rest } (b2Write f l.off (leBytes 1 1 ++ leBytes 1 st ++ leBytes 2 0 ++ leBytes 4 l.seq) s)) → exec (.listCompletion f cls) s = .next (settle f cls (if l.irq then interrupt f cls t else t))) ∧
  (∀ (f cls : Nat) (l : CmdList) (rest : List CmdList) (s t : State), ((hostQueue f cls s).lists = l :: rest) → (l.refused = none) → (l.stopped = true ∨ l.ncmd ≤ l.next) → (l.results.length = l.next) → (t = setQueue f cls { hostQueue f cls s with lists := rest } (b2Write f l.off (leBytes 1 1 ++ leBytes 1 (combine (l.results.map fun x => x.2.1 % 256)) ++ leBytes 2 l.results.length ++ leBytes 4 l.seq) (writeResults f l s))) → exec (.listCompletion f cls) s = .next (settle f cls (if l.irq then interrupt f cls t else t))) ∧
  (∀ (f cls : Nat) (s : State), ((hostQueue f cls s).enable = false) → exec (.cqEnable f cls true) s = .next (setQueue f cls { hostQueue f cls s with enable := true, seq := 0 } s)) ∧
  (∀ (f cls : Nat) (s : State), exec (.cqEnable f cls false) s = .next (setQueue f cls { hostQueue f cls s with enable := false, lists := [] } (detachWork f cls s))) ∧
  (∀ (f : Nat) (s : State), ∃ t, t = countEvent cFlr (unitLink (if f = 129 then 1 else 0)) (resetFn s f) ∧ exec (.flr f) s = .next (if 1 ≤ f ∧ f ≤ 128 then tdiError true t (f - 1) else t) ∧ t.mem = s.mem ∧ t.dir = s.dir) ∧
  (∀ (s : State), ∃ t, exec .perst s = .next t ∧ t.host.speed = 0 ∧ t.host.width = 0 ∧ t.host.cxlMem = false ∧ t.host.linkBUp = false ∧ t.host.loads = [] ∧ ctrGet cFlr t = min (2 ^ cFlr.width - 1) (ctrGet cFlr s + 1) ∧ t.mem = s.mem ∧ t.dir = s.dir ∧ t.tru = s.tru)

/-- KEY_OFFER for a connection that its key slot serves draws a scalar and gives the curve engine one operation; BUSY reads 1 until it ends. A connection that is not in use, or whose slot is not its own, ends it with REASON 3 and no operation. KEY_ACCEPT without an offer that still stands ends with REASON 4. KEY_ERASE of the positions its mask names ends at once. CURVE_MULT gives the engine its operation. An operation ends no earlier than 1.9 ms after its start, with its own result; a point off the curve gives ST_BAD_POINT and is counted. An offer is erased 62,500 passes after its response. FUSE_SVN raises a count and never lowers it. A key command that comes as a secured message of a session is taken before the mailbox's, is refused for a reserved byte as that one is, and is answered there. -/
def Obligations.TrustKeys : Prop :=
  (∀ (s : State), (mailReady 0x0101 3 s) → (u (mbxArgs s) 2 1 < 2) → (keyRefusal .mailbox (u (mbxArgs s) 0 2) s = none) → ∃ t d, exec .keyOffer s = .next t ∧ t.tru = { s.tru with busy := true, cmd := some 0x0101, draws := t.tru.draws, curve := s.tru.curve ++ [.offerPoint .mailbox (u (mbxArgs s) 0 2) (u (mbxArgs s) 2 1) d], curveAt := if s.tru.curve.isEmpty then s.time.elapsed else s.tru.curveAt } ∧ s.tru.draws < t.tru.draws ∧ t = { s with tru := t.tru }) ∧
  (∀ (s : State), (mailReady 0x0101 3 s) → (u (mbxArgs s) 2 1 < 2) → ((connRec (u (mbxArgs s) 0 2) s).used = false) → exec .keyOffer s = .next (mbxEnd 0x08 3 [] s)) ∧
  (∀ (s : State), (mailReady 0x0102 100 s) → (u (mbxArgs s) 2 1 < 2) → (keyRefusal .mailbox (u (mbxArgs s) 0 2) s = none) → (s.tru.offers = []) → exec .keyAccept s = .next (mbxEnd 0x08 4 [] s)) ∧
  (∀ (s : State), (mailReady 0x0102 100 s) → (u (mbxArgs s) 2 1 < 2) → (keyRefusal .mailbox (u (mbxArgs s) 0 2) s = none) → ((offerFor (u (mbxArgs s) 0 2) (u (mbxArgs s) 2 1) s).isSome = true) → exec .keyAccept s = .next { s with tru := { s.tru with busy := true, cmd := some 0x0102, curve := s.tru.curve ++ [.accept .mailbox (u (mbxArgs s) 0 2) (u (mbxArgs s) 2 1) (sub (mbxArgs s) 3 97)], curveAt := if s.tru.curve.isEmpty then s.time.elapsed else s.tru.curveAt } }) ∧
  (∀ (c m : Nat) (s t : State), (mailReady 0x0103 3 s) → (u (mbxArgs s) 0 2 = c) → (u (mbxArgs s) 2 1 = m) → (m ≤ 3) → (keyRefusal .mailbox c s = none) → (t = if bit m 0 then eraseConnKey c 0 s else s) → exec .keyErase s = .next (mbxEnd 0 0 [] (if bit m 1 then eraseConnKey c 1 t else t))) ∧
  (∀ (s : State), (mailReady 0x0130 145 s) → exec .curveMult s = .next { s with tru := { s.tru with busy := true, cmd := some 0x0130, curve := s.tru.curve ++ [.mult (beNat (sub (mbxArgs s) 0 48)) (sub (mbxArgs s) 48 97)], curveAt := if s.tru.curve.isEmpty then s.time.elapsed else s.tru.curveAt } }) ∧
  (∀ (s : State), (s.time.elapsed < s.tru.curveAt + 7600) → exec .curveOpDone s = .next s) ∧
  (∀ (d : Nat) (q : List Byte) (rest : List CurveOp) (s : State), (s.tru.curve = .mult d q :: rest) → (s.tru.curveAt + 7600 ≤ s.time.elapsed) → (pointBad q = true) → exec .curveOpDone s = .next (mbxEnd 0x18 0 [] (countEvent cBadPoint unitTrust { s with tru := { s.tru with curve := rest, curveAt := s.time.elapsed } }))) ∧
  (∀ (k e : Nat) (s : State), exec (.offerExpiry k e) s = .next { s with tru := { s.tru with offers := s.tru.offers.filter fun o => !(o.conn == k && o.epoch == e && decide (o.at_ + 4000000 ≤ s.time.elapsed)) } }) ∧
  (∀ (s : State), (mailReady 0x0120 2 s) → (u (mbxArgs s) 0 1 = 0) → (s.tru.svnTc ≤ u (mbxArgs s) 1 1) → (s.tru.burntTc ≤ u (mbxArgs s) 1 1) → (u (mbxArgs s) 1 1 ≤ runningSvn 0 s) → (u (mbxArgs s) 1 1 ≤ 64) → exec .fuseSvn s = .next (mbxEnd 0 0 [] { s with tru := { s.tru with svnTc := u (mbxArgs s) 1 1, burntTc := u (mbxArgs s) 1 1 } })) ∧
  (∀ (s : State), (mailReady 0x0120 2 s) → (u (mbxArgs s) 0 1 = 0) → (u (mbxArgs s) 1 1 < s.tru.svnTc) → exec .fuseSvn s = .next (mbxEnd 0x08 6 [] s)) ∧
  (∀ (op : CurveOp) (rest : List CurveOp) (s : State), (s.tru.curve = op :: rest) → (s.tru.curveAt + 7600 ≤ s.time.elapsed) → exec .curveOpDone s = .next (curveResult op { s with tru := { s.tru with curve := rest, curveAt := s.time.elapsed } })) ∧
  (∀ (n : Nat) (s : State), (mailReady 0x0120 2 s) → (u (mbxArgs s) 0 1 = 1) → (u (mbxArgs s) 1 1 = n) → (s.tru.svnHub ≤ n) → (s.tru.burntHub ≤ n) → (n ≤ runningSvn 1 s) → (n ≤ 64) → exec .fuseSvn s = .next (mbxEnd 0 0 [] { s with tru := { s.tru with svnHub := n, burntHub := n } })) ∧
  (∀ (cmd : Nat) (b : Binding) (n r : Nat) (a : List Byte) (s t : State), (trustUp s = true) → (vendorKey cmd s = some (b, n, r, a)) → (t = { s with mgmt.messages := s.mgmt.messages.tail }) → (cmd = 0x0101 → r ≠ 0 → exec .keyOffer s = .next (answerKey (.spdm b n) 0x08 1 [] t)) ∧ (cmd = 0x0101 → r = 0 → a.length = 3 → exec .keyOffer s = .next (offerKey (.spdm b n) a t)) ∧ (cmd = 0x0102 → r = 0 → a.length = 100 → exec .keyAccept s = .next (acceptKey (.spdm b n) a t)) ∧ (cmd = 0x0103 → r = 0 → a.length = 3 → exec .keyErase s = .next (eraseKey (.spdm b n) a t)))

/-- SCRUB of a party that is not pending makes it scrub-pending from step 1; a pending one is left as it is. Each step of a running scrub does its work and leads to the next, and step 3 waits until every extent of the party is FREE; a repeated scrub goes from step 4 to step 7. A verification that meets no error and reads the party's memory as zero ends the scrub; the first that fails repeats from step 4, and the second leaves it failed with its fault. A measurement request and a key exchange take one curve operation each; a fifth session is refused. IDE_KM programs a stream inside a session. A failed selective stream is insecure and takes its locked interface to ERROR. LOCK of an unlocked interface of a confidential partition with a secure stream locks it; START runs it; STOP unlocks it and scrubs its partition. -/
def Obligations.ScrubsAndDevices : Prop :=
  (∀ (s : State), (mailReady 0x0110 3 s) → (u (mbxArgs s) 0 1 = 0) → (u (mbxArgs s) 1 2 < 128) → (scrubOf false (u (mbxArgs s) 1 2) s = none) → exec .scrub s = .next (mbxEnd 0 0 [] { s with tru := { s.tru with scrubs := s.tru.scrubs ++ [newScrub false (u (mbxArgs s) 1 2) true s] } })) ∧
  (∀ (s : State) (x : Scrub), (mailReady 0x0110 3 s) → (u (mbxArgs s) 0 1 = 0) → (u (mbxArgs s) 1 2 < 128) → (scrubOf false (u (mbxArgs s) 1 2) s = some x) → exec .scrub s = .next (mbxEnd 0 0 [] s)) ∧
  (∀ (t : Bool) (id : Nat) (ok : Bool) (x : Scrub) (s : State), (scrubOf t id s = some x) → (x.failed = false) → (x.running = true) → (trustUp s = true) → (x.step = 3) → (scrubGraceOver x s = false) → exec (.scrubStep t id ok) s = .next s) ∧
  (∀ (t : Bool) (id : Nat) (ok : Bool) (x : Scrub) (s : State), (scrubOf t id s = some x) → (x.failed = false) → (x.running = true) → (trustUp s = true) → (x.step = 3) → (scrubGraceOver x s = true) → exec (.scrubStep t id ok) s = .next { s with tru := { s.tru with scrubs := replaceWhere (· == x) (fun _ => { x with step := 4 }) s.tru.scrubs } }) ∧
  (∀ (t : Bool) (id : Nat) (x : Scrub) (s : State), (scrubOf t id s = some x) → (x.failed = false) → (x.running = true) → (trustUp s = true) → (x.step = 7) → (scrubReadsZero x s = true) → exec (.scrubStep t id true) s = .next { s with tru := { s.tru with scrubs := s.tru.scrubs.filter (· != x), scrubFailed := false } }) ∧
  (∀ (t : Bool) (id : Nat) (ok : Bool) (x : Scrub) (s : State), (scrubOf t id s = some x) → (x.failed = false) → (x.running = true) → (trustUp s = true) → (x.step = 7) → (x.repeated = false) → ((ok && scrubReadsZero x s) = false) → exec (.scrubStep t id ok) s = .next { s with tru := { s.tru with scrubs := replaceWhere (· == x) (fun x => { x with step := 4, repeated := true }) s.tru.scrubs } }) ∧
  (∀ (b : Binding) (session : Option Nat) (nonce : List Byte) (s : State), (trustUp s = true) → (∀ n, session = some n → s.tru.sessions.contains n = true) → ∃ body, exec (.getMeasurements b session nonce) s = .next { s with tru := { s.tru with curve := s.tru.curve ++ [.sign b session body], curveAt := if s.tru.curve.isEmpty then s.time.elapsed else s.tru.curveAt } } ∧ sub body (body.length - 32) 32 = padTo 32 nonce) ∧
  (∀ (b : Binding) (q : List Byte) (s : State), (trustUp s = true) → (s.tru.sessions.length + s.tru.curve.length < 4) → exec (.keyExchange b q) s = .next { s with tru := { s.tru with curve := s.tru.curve ++ [.exchange b q], curveAt := if s.tru.curve.isEmpty then s.time.elapsed else s.tru.curveAt } }) ∧
  (∀ (b : Binding) (q : List Byte) (s : State), (trustUp s = true) → (4 ≤ s.tru.sessions.length) → exec (.keyExchange b q) s = .next (spdmError b 0x0A s)) ∧
  (∀ (n stream : Nat) (key : Key) (vf : Option Nat) (s : State), (trustUp s = true) → (s.tru.sessions.contains n = true) → ((s.tru.streams.filter fun x => x.1 != stream && x.2.vf.isSome == vf.isSome).length < if vf.isSome then 16 else 2) → exec (.ideKm n stream key vf) s = .next (setStream stream ⟨key, vf, true, n⟩ s)) ∧
  (∀ (n vf : Nat) (x : IdeStream) (s : State), (ideStream n s = some x) → (x.secure = true) → (x.vf = some vf) → (tdi vf s = .run) → (scrubOf false vf s = none) → ∃ t, exec (.ideFail n) s = .next t ∧ t.tru.tdis = put .unlocked s.tru.tdis vf .error ∧ (∃ y ∈ t.tru.scrubs, y.tenantScope = false ∧ y.id = vf ∧ y.step = 1) ∧ ctrGet cIdeFail t = min (2 ^ cIdeFail.width - 1) (ctrGet cIdeFail s + 1) ∧ t = { s with tru := t.tru, ctr := t.ctr, flt := t.flt }) ∧
  (∀ (vf n : Nat) (s : State), (trustUp s = true) → (s.tru.sessions.contains n = true) → (tdi vf s = .unlocked) → ((partRec vf s).confidential = true) → (scrubOf false vf s = none) → (vfStream vf s = true) → exec (.lockInterface vf n) s = .next { s with tru := { s.tru with tdis := put .unlocked s.tru.tdis vf .locked, tdiSession := put 0 s.tru.tdiSession vf n } }) ∧
  (∀ (vf n : Nat) (s : State), ((partRec vf s).confidential = false) → exec (.lockInterface vf n) s = .next s) ∧
  (∀ (vf : Nat) (s : State), (tdi vf s = .locked) → (trustUp s = true) → exec (.startInterface vf) s = .next { s with tru := { s.tru with tdis := put .unlocked s.tru.tdis vf .run } }) ∧
  (∀ (vf : Nat) (s : State), (tdi vf s = .run ∨ tdi vf s = .locked ∨ tdi vf s = .error) → (trustUp s = true) → (scrubOf false vf s = none) → exec (.stopInterface vf) s = .next { s with tru := { s.tru with tdis := put .unlocked s.tru.tdis vf .unlocked, scrubs := s.tru.scrubs ++ [newScrub false vf true s] } }) ∧
  (∀ (t : Bool) (id : Nat) (ok : Bool) (x : Scrub) (s : State), (scrubOf t id s = some x) → (x.failed = false) → (x.running = true) → (trustUp s = true) → (x.step = 7) → (x.repeated = true) → ((ok && scrubReadsZero x s) = false) → exec (.scrubStep t id ok) s = .next (raise fScrubFail unitTrust (leBytes 2 x.id ++ leBytes 1 (b2n x.tenantScope)) (tally cScrubFail { s with tru := { s.tru with scrubFailed := true, scrubs := replaceWhere (· == x) (fun x => { x with failed := true, running := false }) s.tru.scrubs } }))) ∧
  (∀ (t : Bool) (id : Nat) (ok : Bool) (x y : Scrub) (s r : State), (scrubOf t id s = some x) → (x.failed = false) → (x.running = true) → (trustUp s = true) → (x.step ≠ 7) → (x.step = 3 → scrubGraceOver x s = true) → (scrubWork x s = (y, r)) → exec (.scrubStep t id ok) s = .next { r with tru := { r.tru with scrubs := replaceWhere (· == x) (fun _ => { y with step := if x.repeated ∧ x.step = 4 then 7 else x.step + 1 }) r.tru.scrubs } })

/-- With SYS_RST_N high, VAUX_3V3 in its range starts stage 0 with the straps as sampled; below 3.0 V for 5 us the node turns off, and above 3.63 V, an undefined condition, it either stays or turns off, a free choice of the model (notes/assumptions/94.md). VIN_MAIN outside its range is a fault, and below 11.0 V or above 13.2 V for 5 us a cut. SYS_RST_N rising starts stage 0. Held low for less than 1 us it does nothing. Main power starts stage 1 once stage 0 is done, VIN_MAIN has stood for 10 ms and no coolant warning stands. Stage 4 leads to stage 5 with a sealed plate and stage 5 ends with the node running. A stack's failure stalls stage 2 with cause 5 and is remembered; SKIP goes on where only graver stacks failed; RESTART retries stage 1 after two regulator failures. A cut turns the main regulators off, ends hold mode and the plate, and loses the slots, the directory and the keys, while flash, fuses and host memory stay. -/
def Obligations.StartUpAndCuts : Prop :=
  (∀ (mv ns smb : Nat) (b : Bool) (s : State), (3135 ≤ mv) → (mv ≤ 3465) → (s.start.vaux = false) → (s.start.sysRst = true) → ∃ t, exec (.vauxInRange ⟨mv, ns⟩ b smb) s = .next t ∧ t.start.vaux = true ∧ t.start.stage = 0 ∧ t.start.stageRunning = true ∧ t.start.stalled = false ∧ t.host.bifurcated = b ∧ t.start.strapSmbA = smb % 4 ∧ t = { s with start := t.start, host := t.host }) ∧
  (∀ (mv ns smb : Nat) (b : Bool) (s : State), (mv < 3000) → (5000 ≤ ns) → (s.start.vaux = true) → exec (.vauxInRange ⟨mv, ns⟩ b smb) s = .next (allOff s)) ∧
  (∀ (mv ns : Nat) (s : State), (s.start.mainOn = true) → (mv < 11000 ∨ 13200 < mv) → (5000 ≤ ns) → exec (.vinMainRange ⟨mv, ns⟩) s = .next (tally cVinFault (performCut false { s with start := { s.start with vinMv := mv, vinSince := none } }))) ∧
  (∀ (mv ns : Nat) (s : State), (11400 ≤ mv) → (mv ≤ 12600) → exec (.vinMainRange ⟨mv, ns⟩) s = .next { s with start := { s.start with vinMv := mv, vinSince := some (s.start.vinSince.getD s.time.elapsed) } }) ∧
  (∀ (b : Bool) (smb n : Nat) (s : State), (s.start.sysRst = false) → (s.start.vaux = true) → ∃ t, exec (.sysRstN true n b smb) s = .next t ∧ t.start.sysRst = true ∧ t.start.stage = 0 ∧ t.start.stageRunning = true ∧ t.host.bifurcated = b ∧ t = { s with start := t.start, host := t.host }) ∧
  (∀ (b : Bool) (smb n : Nat) (s : State), (n < 1000) → exec (.sysRstN false n b smb) s = .next s) ∧
  (∀ (s : State), (s.start.stage = 0) → (s.start.stage0Done = true) → (s.start.stalled = false) → (vinSteady s = true) → (coolantQuiet 4000000 s = true) → (0 < s.cool.windows) → ∃ t, exec .mainPowerStart s = .next t ∧ t.start = { s.start with stage := 1, stageRunning := true, stageAt := s.time.elapsed, stalled := false, cause := 0, mainOn := true, thermTrip := false } ∧ t.time = { s.time with counting := true } ∧ t = { s with start := t.start, time := t.time }) ∧
  (∀ (s : State), (s.start.vaux = true) → (s.start.sysRst = true) → (s.start.stageRunning = true) → (s.start.stalled = false) → (s.start.stage = 4) → (s.plt.st = .sealed) → ∃ t, exec (.stageComplete .done) s = .next t ∧ t.start.stage = 5 ∧ t.start.stageRunning = true ∧ t.bar = { s.bar with regTries := 0, regPass := passNow s + 1, registered := false } ∧ t = { s with start := t.start, bar := t.bar }) ∧
  (∀ (s : State), (s.start.vaux = true) → (s.start.sysRst = true) → (s.start.stageRunning = true) → (s.start.stalled = false) → (s.start.stage = 5) → (s.time.run = 2) → ∃ t, exec (.stageComplete .done) s = .next t ∧ t.start = { s.start with stage := 6, stageRunning := false } ∧ t = { s with start := t.start, tru.scrubs := s.tru.scrubs.map fun x => { x with running := !x.failed } }) ∧
  (∀ (m : Nat) (s : State), (s.start.vaux = true) → (s.start.sysRst = true) → (s.start.stageRunning = true) → (s.start.stalled = false) → (s.start.stage = 2) → (m % 256 ≠ 0) → exec (.stageComplete (.trainingFail m)) s = .next { s with start := { s.start with failedStacks := s.start.failedStacks ||| m % 256, stalled := true, cause := 5 } }) ∧
  (∀ (s : State), (s.start.stage = 2) → (s.start.stalled = true) → (s.start.failedStacks < 64) → exec .pwrCtrlSkip s = .next { s with start := { s.start with stalled := false, cause := 0 } }) ∧
  (∀ (s : State), (s.start.stage = 2) → (s.start.stalled = true) → (64 ≤ s.start.failedStacks) → exec .pwrCtrlSkip s = .next s) ∧
  (∀ (s : State), (s.start.stage = 0) → (s.start.stalled = true) → (s.start.cause = 4) → exec .restart s = .next { s with start := { s.start with stalled := false, cause := 0, regulatorFails := 0, stageRunning := false, stage0Done := true } }) ∧
  (∀ (s : State), (s.start.mainOn = true) → ∃ t, exec .cut s = .next t ∧ t.start.mainOn = false ∧ t.start.stage = 0 ∧ t.start.thermTrip = s.start.thermTrip ∧ t.plt = {} ∧ t.dir = {} ∧ t.res = {} ∧ t.sch = {} ∧ t.tfx = {} ∧ t.gravers = [] ∧ t.ports = [] ∧ t.pwr.hold = false ∧ t.tru.keys = [] ∧ t.tru.streams = [] ∧ t.tru.burntTc = s.tru.burntTc ∧ t.tru.burntHub = s.tru.burntHub ∧ t.mem.stk = [] ∧ t.mem.bar2 = [] ∧ t.mem.tier = s.mem.tier ∧ t.mem.host = s.mem.host ∧ t.fsh.written = s.fsh.written ∧ t.fsh.owner = s.fsh.owner ∧ t.time.elapsed = s.time.elapsed ∧ t.pending = s.pending) ∧
  (∀ (mv ns smb : Nat) (b : Bool) (s : State), (3630 < mv) → exec (.vauxInRange ⟨mv, ns⟩ b smb) s = .next (pick 2 s).2 ∨ exec (.vauxInRange ⟨mv, ns⟩ b smb) s = .next (allOff (pick 2 s).2)) ∧
  (∀ (mv ns : Nat) (s : State), (s.start.mainOn = true) → (mv < 11400 ∨ 12600 < mv) → (ns < 5000 ∨ (11000 ≤ mv ∧ mv ≤ 13200)) → (s.start.vinFaulted = false) → exec (.vinMainRange ⟨mv, ns⟩) s = .next (raise fVinRange unitNode [] (tally cVinFault { s with start := { s.start with vinMv := mv, vinSince := none, vinFaulted := true } }))) ∧
  (∀ (b : Bool) (smb n : Nat) (s : State), (1000 ≤ n) → (s.start.sysRst = true) → exec (.sysRstN false n b smb) s = .next (holdReset s)) ∧
  (∀ (s : State), (s.start.vaux = true) → (s.start.sysRst = true) → (s.start.stageRunning = true) → (s.start.stalled = false) → (s.start.stage = 1) → exec (.stageComplete .done) s = .next (startStage 2 { s with start.regulatorFails := 0, mgmt.hubVersion := bankVersion 1 s.mgmt.hubBank s }) ∧ exec (.stageComplete .regulatorFail) s = .next (regulatorFailed s) ∧ (∃ t, exec (.stageComplete .firmwareFail) s = .next t ∧ t.start.stalled = true ∧ t.start.cause = 1 ∧ t.start.mainOn = false)) ∧
  (∀ (s : State), (s.start.vaux = true) → (s.start.sysRst = true) → (s.start.stageRunning = true) → (s.start.stalled = false) → (s.start.stage = 2) → (s.fsh.mounted = true ∨ s.fsh.skipped = true) → (s.fsh.stalled = false) → ∃ t, exec (.stageComplete .done) s = .next t ∧ t.start.stage = 3 ∧ t.start.stageRunning = true ∧ t.mem.stk = [] ∧ t.mem.tier = [] ∧ t.res.slots = [] ∧ t.res.tiles = []) ∧
  (∀ (s : State), (s.start.vaux = true) → (s.start.sysRst = true) → (s.start.stageRunning = true) → (s.start.stalled = false) → (s.start.stage = 3) → ((∀ p < 8, (fport p s).st = .up) ∨ s.start.stageAt + 40000000 ≤ s.time.elapsed) → exec (.stageComplete .done) s = .next (startStage 4 s)) ∧
  (∀ (a b : Nat) (s : State), (s.start.vaux = true) → (s.start.sysRst = true) → (s.start.stageRunning = true) → (s.start.stalled = false) → (s.start.stage = 0) → (bootBank 0 s.mgmt.tcNext (loadFuses s) = some a) → (bootBank 1 s.mgmt.hubNext (loadFuses s) = some b) → ∃ t, exec (.stageComplete .done) s = .next t ∧ t.start.stage0Done = true ∧ t.start.stageRunning = false ∧ t.mgmt.tcBank = a ∧ t.mgmt.hubBank = b ∧ t.tru.idOk = true ∧ t.tru.fwOk = true)

/-- A sample more than 200 W above PLIMIT raises the demand by 4, any other sample above it by 1, each up to 15 and counted in CAP_LIMIT; samples below 95 percent of it lower it by 1 at each sixty-fourth in a row. A write of the cap stands until the next sample. A stack that passes 105 degrees, and a junction at 120, cut the main regulators with THERMTRIP_N; a base die that passes 100 degrees is counted. A stack's band changes only at the next pass boundary, and its demand moves by 1 after 64 strokes upwards or 1,024 downwards. In hold mode a coolant warning of 60 s, or a flow below 0.5 L/min for 10 s, does the same as a thermal cut. A window with a warning raises the coolant fault once and enters hold mode. -/
def Obligations.PowerAndHeat : Prop :=
  (∀ (w da mv : Nat) (s : State), (s.start.vaux = true) → (min 3200 (min 3200 (max 1200 s.pwr.cap)) + 200 < w) → (da ≤ 2800) → (w ≤ 3200 ∨ s.pwr.demand + 4 < 15) → (s.pwr.demand < 15) → ∃ t, exec (.powerSample w da mv) s = .next t ∧ t.pwr.demand = min 15 (s.pwr.demand + 4) ∧ t.pwr.lastWatts = w ∧ t.pwr.vin = mv ∧ t.pwr.iin = da ∧ ctrGet cCapLimit t = min (2 ^ cCapLimit.width - 1) (ctrGet cCapLimit s + 1) ∧ t = { s with pwr := t.pwr, ctr := t.ctr, flt := t.flt }) ∧
  (∀ (w da mv : Nat) (s : State), (s.start.vaux = true) → (100 * w < 95 * min 3200 (min 3200 (max 1200 s.pwr.cap))) → (da ≤ 2800) → (s.pwr.below = 63) → (s.pwr.demand ≤ 15) → ∃ t, exec (.powerSample w da mv) s = .next t ∧ t.pwr.demand = s.pwr.demand - 1 ∧ t.pwr.below = 0 ∧ t = { s with pwr := t.pwr }) ∧
  (∀ (w : Nat) (s : State), exec (.cap w) s = .next { s with pwr := { s.pwr with cap := w % 4096 } }) ∧
  (∀ (st : Nat) (x : Int) (s : State), (105 < x) → (s.start.mainOn = true) → ∃ t, exec (.dramTempSample st x) s = .next t ∧ t.start.mainOn = false ∧ t.start.thermTrip = true ∧ t.plt = {} ∧ t.mem.tier = s.mem.tier) ∧
  (∀ (st : Nat) (x : Int) (s : State), (x ≤ 105) → ∃ t h, exec (.dramTempSample st x) s = .next t ∧ t.pwr.stacks8 = put {} s.pwr.stacks8 st h ∧ h.temp = x ∧ h.band = (stackHeat st s).band ∧ h.demand = (stackHeat st s).demand ∧ t = { s with pwr := { s.pwr with stacks8 := t.pwr.stacks8, holdCause := t.pwr.holdCause } }) ∧
  (∀ (d : Nat) (x : Int) (s : State), (120 ≤ x) → (s.start.mainOn = true) → ∃ t, exec (.junctionTemperatureSample d x) s = .next t ∧ t.start.mainOn = false ∧ t.start.thermTrip = true ∧ t.plt = {}) ∧
  (∀ (d : Nat) (x : Int) (s : State), (6 ≤ d) → (x < 110) → (98 < x) → exec (.junctionTemperatureSample d x) s = .next { s with pwr := { s.pwr with hubJunction := x, hubHot := none } }) ∧
  (∀ (st : Nat) (s : State), (st < 6) → (heatDir (stackHeat st s) = 2) → ((stackHeat st s).demand < 15) → ((stackHeat st s).demandAt + 64 ≤ s.time.elapsed) → exec (.thermalDemand st) s = .next (setHeat st { stackHeat st s with demand := (stackHeat st s).demand + 1, demandAt := s.time.elapsed } s)) ∧
  (∀ (x : CoolSample) (s : State), (s.start.vaux = true) → (s.start.sysRst = true) → (coolantBad x s = true) → (s.cool.warn = false) → (s.start.mainOn = true) → ∃ t, exec (.flowWindow x) s = .next t ∧ t.cool.warn = true ∧ t.cool.warnSince = s.time.elapsed ∧ t.cool.flowTop = x.flowTop ∧ t.cool.flowBot = x.flowBot ∧ t.pwr.hold = true ∧ bit t.pwr.holdCause 1 = true ∧ ctrGet cCoolantWarn t = min (2 ^ cCoolantWarn.width - 1) (ctrGet cCoolantWarn s + 1)) ∧
  (∀ (x : CoolSample) (s : State), (s.start.vaux = true) → (s.start.sysRst = true) → (coolantBad x s = false) → (s.cool.warn = false) → (s.cool.lastWarn = none) → (bit s.pwr.holdCause 1 = false) → ∃ t, exec (.flowWindow x) s = .next t ∧ t.cool = { s.cool with inTop := x.inTop.toNat, outTop := x.outTop.toNat, inBot := x.inBot.toNat, outBot := x.outBot.toNat, flowTop := x.flowTop, flowBot := x.flowBot, warn := false, windows := 1, lowFlowSince := none } ∧ t = { s with cool := t.cool }) ∧
  (∀ (s : State), (s.pwr.hold = true) → ((s.cool.warn = true ∧ s.cool.warnSince + 240000000 ≤ s.time.elapsed) ∨ (∃ n, s.cool.lowFlowSince = some n ∧ n + 40000000 ≤ s.time.elapsed)) → exec .coolantCut s = .next (performCut true s)) ∧
  (∀ (s : State), (s.pwr.hold = false) → exec .coolantCut s = .next s) ∧
  (∀ (d : Nat) (x : Int) (s t : State), (d < 6) → (x < 110) → (t = setHeat d { stackHeat d s with junction := x, junctionHot := none } s) → exec (.junctionTemperatureSample d x) s = .next (clearThermal (if 100 < x ∧ (stackHeat d s).junction ≤ 100 then countEvent cThrottleEntry (unitStack d) t else t))) ∧
  (∀ (st : Nat) (s : State), (st < 6) → (heatDir (stackHeat st s) = 1) → (0 < (stackHeat st s).demand) → ((stackHeat st s).demandAt + 1024 ≤ s.time.elapsed) → exec (.thermalDemand st) s = .next (setHeat st { stackHeat st s with demand := (stackHeat st s).demand - 1, demandAt := s.time.elapsed } s)) ∧
  (∀ (w da mv n : Nat) (s : State), (s.start.vaux = true) → (n = min 3200 (min 3200 (max 1200 s.pwr.cap))) → (95 * n ≤ 100 * w) → (w ≤ n + 200) → (da ≤ 2800) → (s.pwr.demand < 14 ∨ w ≤ n) → (s.pwr.demand ≤ 15) → ∃ t, exec (.powerSample w da mv) s = .next t ∧ t.pwr.demand = (if n < w then s.pwr.demand + 1 else s.pwr.demand) ∧ t = { s with pwr := t.pwr, ctr := t.ctr, flt := t.flt })

/-- A request to gate a graver stands as pending until it takes effect, and nothing is gated by the write itself; requests of PWR_GATE likewise, and a request for a unit under secure hold is deferred and counted. At a pass boundary a pending request takes effect on a unit that holds no open work and that no assigned partition holds, and on no other. HOLD_ENTER enters hold mode with cause bit 4; HOLD_EXIT leaves it when no other cause stands, a plate is sealed and registration stands, and is otherwise refused and counted. OFF enters hold mode and starts its 2 s. A link that trains shows its speed and width; D3hot changes nothing; a disabled link resets its functions, link A only once no assigned partition holds it. -/
def Obligations.GatingAndHold : Prop :=
  (∀ (i : Nat) (v : BitVec 64) (s : State), ∃ t, exec (.pwrGgateReq i v) s = .next t ∧ t.pwr.ggate = BitVec.ofNat 96 (if i = 0 then s.pwr.ggate.toNat / 2 ^ 64 * 2 ^ 64 + v.toNat else s.pwr.ggate.toNat % 2 ^ 64 + v.toNat % 2 ^ 32 * 2 ^ 64) ∧ t = { s with pwr := { s.pwr with ggate := t.pwr.ggate, ggatePend := t.pwr.ggatePend }, ctr := t.ctr, flt := t.flt } ∧ (assignedParts s = [] → t.ctr = s.ctr ∧ t.flt = s.flt)) ∧
  (∀ (d : Nat) (fl : Bool) (s : State), ∃ t, exec (.pwrGate d fl) s = .next t ∧ t.pwr = { s.pwr with portDown := d % 256, flashDown := fl } ∧ t.cool = { s.cool with portPend := t.cool.portPend, flashPend := t.cool.flashPend } ∧ t = { s with pwr := t.pwr, cool := t.cool, ctr := t.ctr, flt := t.flt } ∧ (assignedParts s = [] → t.ctr = s.ctr ∧ t.flt = s.flt)) ∧
  (∀ (s : State), (strokeNow s ≠ 0) → exec .gateTakesEffect s = .next s ∧ exec .deferredTakesEffect s = .next s) ∧
  (∀ (s : State), (strokeNow s = 0) → (s.cool.flashPend = true) → (s.cool.portPend = 0) → (s.pwr.ggatePend = 0) → (s.gravers = []) → (s.ports = []) → (s.tru.tdis = []) → (flashIdle s = true) → exec .gateTakesEffect s = .next { s with cool := { s.cool with flashPend := false, flashGated := true } }) ∧
  (∀ (s : State), (strokeNow s = 0) → (s.cool.linkPend = 2) → (s.cool.flashPend = false) → (s.cool.flashGated = false) → (s.cool.portPend = 0) → (s.pwr.ggatePend = 0) → (s.gravers = []) → (s.ports = []) → (s.tru.tdis = []) → exec .deferredTakesEffect s = .next (linkLoss 1 { s with cool := { s.cool with linkPend := 0 } })) ∧
  (∀ (s : State), (s.start.mainOn = true) → exec .holdEnter s = .next (enterHold 4 s) ∧ (enterHold 4 s).pwr.hold = true ∧ bit (enterHold 4 s).pwr.holdCause 4 = true) ∧
  (∀ (s : State), (mayLeaveHold s = true) → ∃ t, exec .holdExit s = .next t ∧ t.pwr = { s.pwr with hold := false, holdCause := 0 } ∧ t = { s with pwr := t.pwr, gravers := t.gravers }) ∧
  (∀ (s : State), (mayLeaveHold s = false) → exec .holdExit s = .next (countEvent cHoldRefused unitNode s)) ∧
  (∀ (s : State), (s.start.mainOn = true) → ∃ t, exec .off s = .next t ∧ t.pwr.hold = true ∧ t.start = { s.start with offAt := some s.time.elapsed }) ∧
  (∀ (l sp w : Nat) (x y : Bool) (s : State), (s.start.mainOn = true) → (l = 0) → (32 ≤ sp) → (sp < 64) → (s.host.bifurcated = false) → exec (.hostLinkTrained l sp w x y) s = .next { s with host := { s.host with speed := 2, width := min w 16, cxlIo := x && y, cxlCache := x && y, cxlMem := x && y } }) ∧
  (∀ (f : Nat) (s : State), exec (.hostPowerManagementRequest (.d3hot f)) s = .next s) ∧
  (∀ (s : State), exec (.hostPowerManagementRequest (.linkDisable 1)) s = .next (linkLoss 1 s) ∧ (linkLoss 1 s).host.linkBUp = false) ∧
  (∀ (s t : State), (strokeNow s = 0) → (t = (List.range 8).foldl gatePort ((List.range 96).foldl gateRequested s)) → exec .gateTakesEffect s = .next (gateFlash t) ∧ exec .deferredTakesEffect s = .next (linkDeferred (linkDeferred (gateFlash t) 0) 1)) ∧
  (∀ (g p l w : Nat) (s : State), (bit s.pwr.ggatePend.toNat g = true → graverHolder g s = none → graverIdle (graver g s) = true → gateRequested s g = gateGraver g { s with pwr := { s.pwr with ggatePend := s.pwr.ggatePend &&& ~~~(BitVec.ofNat 96 (2 ^ g)) } }) ∧ (bit s.pwr.ggatePend.toNat g = true → ((graverHolder g s).isSome = true ∨ graverIdle (graver g s) = false) → gateRequested s g = s) ∧ (bit s.cool.portPend p = true → ((portHolder p s).isSome = true ∨ portIdle p s = false) → gatePort s p = s) ∧ (bit s.cool.linkPend l = true → l = 0 → linkHolder s = some w → linkDeferred s l = s)) ∧
  (∀ (s : State), (linkHolder s = none) → exec (.hostPowerManagementRequest (.linkDisable 0)) s = .next (linkLoss 0 s) ∧ (linkLoss 0 s).host.speed = 0) ∧
  (∀ (p : Nat) (s : State), (linkHolder s = some p) → (bit s.cool.linkPend 0 = false) → exec (.hostPowerManagementRequest (.linkDisable 0)) s = .next (deferRequest (unitLink 0) p 3 { s with cool := { s.cool with linkPend := s.cool.linkPend + 1 } })) ∧
  (∀ (l sp w : Nat) (x y : Bool) (s : State), (s.start.mainOn = true) → exec (.hostLinkTrained 0 sp w x y) s = .next { s with host := { s.host with speed := (if 64 ≤ sp then 3 else if 32 ≤ sp then 2 else 1), width := min w (if s.host.bifurcated then 8 else 16), cxlIo := decide (32 ≤ sp) && x && y, cxlCache := decide (32 ≤ sp) && x && y, cxlMem := decide (32 ≤ sp) && x && y } } ∧ (s.host.bifurcated = true → 0 < l → exec (.hostLinkTrained l sp w x y) s = .next { s with host := { s.host with linkBUp := true } }))

/-- A graver whose work lease has run out raises GRAVER_HANG, counts a revoked lease and is fenced; before that nothing happens. An expired lease of a port or of a flash channel raises LEASE_REVOKED and fences the unit, and the key ranks that the port's frames hold are zeroed; one of a control core resets the core, and one of the flash-tier controller ends its program. A control core that misses its signal is reset with CORE_RESET, and the third reset within 1 s enters hold mode with bit 5. A restart of the trust core loses its offers and its mailbox request, which ends with BUSY 0 and ST_FENCED, and keeps every key. UNFENCE of a unit that is not out, or on which the last reconciliation disagreed, ends with REASON 4; of a graver whose known answer is wrong with REASON 6; otherwise the unit waits for the pass boundary to return. -/
def Obligations.FencesAndRestarts : Prop :=
  (∀ (g : Nat) (s : State), ((graver g s).st = .working) → ((graver g s).renewed + 128 ≤ s.time.elapsed) → exec (.graverHang g) s = .next (closeBestEffort (fenceGraver g (raise fGraverHang (unitGraver g) [] (tally ctrLeaseRevoked s))))) ∧
  (∀ (g : Nat) (s : State), (s.time.elapsed < (graver g s).renewed + 128) → exec (.graverHang g) s = .next s) ∧
  (∀ (p : Nat) (s : State), (p < 8) → exec (.leaseRevoked (0x30000 + p)) s = .next (fencePort p (raise fLeaseRevoked (0x30000 + p) [] (tally ctrLeaseRevoked (zeroRanks p s))))) ∧
  (∀ (i : Nat) (s : State), (i < 16) → ∃ t, exec (.leaseRevoked (0x60000 + i)) s = .next t ∧ t.flt.fencedChannels = s.flt.fencedChannels ||| 2 ^ i ∧ t.flt.lastCode = fLeaseRevoked ∧ t.flt.lastUnit = 0x60000 + i ∧ t.fsh = s.fsh ∧ t.mem = s.mem) ∧
  (∀ (k : Nat) (s : State), (k < 4) → (s.start.mainOn = true) → ((s.flt.coreResets.filter fun t => decide (s.time.elapsed < t + 4000000)).length < 2) → ∃ t, exec (.coreReset k) s = .next t ∧ t = raise fCoreReset (unitCore k) [] { s with flt := { s.flt with coreResets := (s.flt.coreResets.filter fun t => decide (s.time.elapsed < t + 4000000)) ++ [s.time.elapsed] } } ∧ t.pwr.hold = s.pwr.hold) ∧
  (∀ (k : Nat) (s : State), (k < 4) → (s.start.mainOn = true) → (2 ≤ (s.flt.coreResets.filter fun t => decide (s.time.elapsed < t + 4000000)).length) → ∃ t, exec (.coreReset k) s = .next t ∧ t.pwr.hold = true ∧ t.pwr.holdCause.testBit 5 = true) ∧
  (∀ (s : State), (trustUp s = true) → ∃ t, exec .trustRestart s = .next t ∧ t.tru = { s.tru with offers := [], curve := [], cmd := none, code := (if s.tru.busy then 0x30 else s.tru.code), busy := false } ∧ t.pwr.hold = true ∧ t.pwr.holdCause.testBit 5 = true ∧ t.flt.lastCode = fTrustRestart) ∧
  (∀ (known : Bool) (s : State), (mailReady 0x0140 4 s) → (unitOut (u (mbxArgs s) 0 4) s = false) → exec (.unfence known) s = .next (mbxEnd 0x08 4 [] s)) ∧
  (∀ (known : Bool) (s : State), (mailReady 0x0140 4 s) → (s.flt.reconBad.contains (u (mbxArgs s) 0 4) = true) → exec (.unfence known) s = .next (mbxEnd 0x08 4 [] s)) ∧
  (∀ (s : State), (mailReady 0x0140 4 s) → (unitOut (u (mbxArgs s) 0 4) s = true) → (u (mbxArgs s) 0 4 / 65536 = 1) → (s.flt.reconBad.contains (u (mbxArgs s) 0 4) = false) → exec (.unfence false) s = .next (mbxEnd 0x08 6 [] s)) ∧
  (∀ (known : Bool) (x : Nat) (s : State), (mailReady 0x0140 4 s) → (u (mbxArgs s) 0 4 = x) → (unitOut x s = true) → (s.flt.reconBad.contains x = false) → (x / 65536 = 1 → known = true) → exec (.unfence known) s = .next (mbxEnd 0 0 [] { s with flt := { s.flt with unfencing := once (s.flt.unfencing ++ [x]) } })) ∧
  (∀ (k : Nat) (s : State), (k < 4) → exec (.leaseRevoked (0x70000 + k)) s = exec (.coreReset k) (tally ctrLeaseRevoked s)) ∧
  (∀ (pr : TierProgram) (rest : List TierProgram) (t s : State), (t = raise fLeaseRevoked 0xC0000 [] (tally ctrLeaseRevoked s)) → (t.res.programs = pr :: rest) → exec (.leaseRevoked 0xC0000) s = .next (programFails pr t))

/-- At a multiple of 1,000,000 ns a comparison in which no unit disagrees changes only the tick of the last comparison and empties the list of units that disagreed; each that disagrees is fenced; at any other time nothing is compared. The writer writes the FIFO's oldest entry into the ring in VS1 at its sequence number mod 1,048,576, and a fault's record gives its PLDM event; with fewer than 32 entries and a lost count it writes the fold record instead and clears the folded counts. EVT_SEL copies the named record whole. CLEAR_UE clears cause bit 3 and the window of errors; CLEAR_OTHER clears bit 5 unless registration is lost, the collator fenced or the input power above PLIMIT. At a new whole second every score follows the rule of R437 from what its unit counted, and within a second nothing changes. -/
def Obligations.ReconcileAndTrace : Prop :=
  (∀ (s : State), (s.time.counting = true) → (s.time.now % 1000000 = 0) → (s.flt.recon ≠ s.time.now) → (disagreeing s = []) → exec .reconcile s = .next { s with flt := { s.flt with recon := s.time.now, reconBad := [] } }) ∧
  (∀ (s : State), (s.time.now % 1000000 ≠ 0) → exec .reconcile s = .next s) ∧
  (∀ (r : Record) (rest : List Record) (s : State), (s.flt.fifo = r :: rest) → (s.flt.lost = 0 ∨ 32 ≤ s.flt.fifo.length) → exec .traceRecordWrite s = .next (queueFault r s.flt.seq { s with mem := { s.mem with stk := memWrite s.mem.stk (traceAddr s.flt.seq) (recordBytes r s.flt.seq) }, flt := { s.flt with fifo := rest, seq := s.flt.seq + 1 } }) ∧ (r.severity ≠ 1 → ∀ (n : Nat) (t : State), queueFault r n t = t)) ∧
  (∀ (r : Record) (rest : List Record) (s : State), (s.flt.fifo = r :: rest) → (s.flt.lost = 0) → (r.severity = 1) → (s.mgmt.events.length < 64) → (s.mgmt.receiver = none) → exec .traceRecordWrite s = .next { s with mem := { s.mem with stk := memWrite s.mem.stk (traceAddr s.flt.seq) (recordBytes r s.flt.seq) }, flt := { s.flt with fifo := rest, seq := s.flt.seq + 1 }, mgmt := { s.mgmt with events := s.mgmt.events ++ [0xF0#8 :: ((recordBytes r s.flt.seq).take 16 ++ leBytes 8 s.flt.seq)] } }) ∧
  (∀ (r : Record) (s : State), (s.flt.fifo.length < 32) → (s.flt.lost ≠ 0) → (r = ⟨s.time.now, 15, 2, 0x8F00, unitNode, padTo 40 ((List.range 16).flatMap (fun k => leBytes 2 (look 0 s.flt.fold k)) ++ leBytes 4 s.flt.lost)⟩) → exec .traceRecordWrite s = .next { s with mem := { s.mem with stk := memWrite s.mem.stk (traceAddr s.flt.seq) (recordBytes r s.flt.seq) }, flt := { s.flt with fold := [], lost := 0, seq := s.flt.seq + 1 } }) ∧
  (∀ (i : Nat) (s : State), exec (.evtSel i) s = .next { s with flt := { s.flt with evtIndex := i % 1048576, evtData := memRead s.mem.stk (traceAddr i) 64 } }) ∧
  (∀ (s : State), (s.pwr.holdCause.testBit 3 = true) → ∃ t, exec .clearUe s = .next t ∧ t.flt = { s.flt with ueSeen := [] } ∧ t.pwr.holdCause.testBit 3 = false ∧ t.pwr.hold = s.pwr.hold ∧ t = { s with flt := t.flt, pwr := t.pwr }) ∧
  (∀ (s : State), (s.time.reg = true) → (s.flt.fencedCollator = false) → (s.pwr.lastWatts ≤ plimit s) → (s.pwr.holdCause.testBit 5 = true) → ∃ t, exec .clearOther s = .next t ∧ t.pwr.holdCause.testBit 5 = false ∧ t = { s with pwr := t.pwr }) ∧
  (∀ (s : State), (s.time.reg = false ∨ s.flt.fencedCollator = true ∨ plimit s < s.pwr.lastWatts) → exec .clearOther s = .next s) ∧
  (∀ (x : WearInput) (n d : Nat) (s : State), (s.flt.wearSecond < s.time.now / 1000000000) → (s.flt.wear = []) → (s.flt.wearIn = []) → (hasWear x.unit = true) → ([1, 3, 4].contains (x.unit / 65536) = false) → (d = if x.unit / 65536 = 6 then 16 else 1) → (n = min 0xFFFF (x.c / d + 8 * x.r + 64 * x.t + 512 * x.u)) → ∃ t, exec (.wearUpdate [x]) s = .next t ∧ t.flt.wear = put {} [] x.unit { score := n, warn := decide (0x2000 ≤ n), peak := n } ∧ t = { s with flt := t.flt }) ∧
  (∀ (xs : List WearInput) (s : State), (s.time.now / 1000000000 ≤ s.flt.wearSecond) → exec (.wearUpdate xs) s = .next s) ∧
  (∀ (s : State), (s.time.counting = true) → (s.time.now % 1000000 = 0) → (s.flt.recon ≠ s.time.now) → exec .reconcile s = .next ((disagreeing s).foldl reconFence { s with flt := { s.flt with recon := s.time.now, reconBad := disagreeing s } })) ∧
  (∀ (xs : List WearInput) (s : State), (s.flt.wearSecond < s.time.now / 1000000000) → ∃ t, exec (.wearUpdate xs) s = .next t ∧ t.flt.wearIn = [] ∧ t.flt.wearSecond = s.time.now / 1000000000 ∧ t = { s with flt := t.flt } ∧ (xs = [] → s.flt.wearIn = [] → s.flt.wear = [] → t.flt.wear = []))

/-- A whole message of an accepted type joins those that wait; a first packet of another type, or of a vendor-defined type with another identifier than the node's, a continuation with a gap, and a message longer than 4,160 bytes are discarded and counted in MCTP_DROPPED. A binding with no EID answers only control messages. Set Endpoint ID gives a binding that answers its EID. B2_WRITE and B2_READ refuse a bad range with REASON 2 and a page that has an owner with REASON 3; before stage 1 has ended they end with ST_TARGET_DEAD (the model's choice, log entry 62); otherwise they write and read PF0's BAR2. -/
def Obligations.MctpMessages : Prop :=
  (∀ (bd : Binding) (q tag : Nat) (p : List Byte) (s : State), (bindingUp bd s = true) → (mctpTypes.contains (u p 0 1) = true) → (u p 0 1 = 0x7E → u p 1 2 = Config.pciVendor.toNat) → (bindingEid bd s ≠ 0) → (p.length ≤ 4160) → (look noAssembly s.mgmt.assembly (bindingNum bd) = noAssembly) → ∃ t, exec (.mctpPacket bd true true q tag p) s = .next t ∧ t.mgmt.messages = s.mgmt.messages ++ [(bindingNum bd, p)] ∧ t.ctr = s.ctr ∧ t = { s with mgmt := t.mgmt }) ∧
  (∀ (bd : Binding) (e : Bool) (q tag : Nat) (p : List Byte) (s : State), (bindingUp bd s = true) → (mctpTypes.contains (u p 0 1) = false ∨ (u p 0 1 = 0x7E ∧ u p 1 2 ≠ Config.pciVendor.toNat)) → exec (.mctpPacket bd true e q tag p) s = .next (mctpDrop (bindingNum bd) s)) ∧
  (∀ (bd : Binding) (e : Bool) (q tag : Nat) (p : List Byte) (s : State), (bindingUp bd s = true) → (look noAssembly s.mgmt.assembly (bindingNum bd) ≠ noAssembly) → ((look noAssembly s.mgmt.assembly (bindingNum bd)).nextSeq ≠ q) → exec (.mctpPacket bd false e q tag p) s = .next (mctpDrop (bindingNum bd) s)) ∧
  (∀ (bd : Binding) (e : Bool) (q tag : Nat) (p : List Byte) (s : State), (bindingUp bd s = true) → ((look noAssembly s.mgmt.assembly (bindingNum bd)).bytes ≠ []) → ((look noAssembly s.mgmt.assembly (bindingNum bd)).nextSeq = q) → ((look noAssembly s.mgmt.assembly (bindingNum bd)).tag = tag) → (4160 < (look noAssembly s.mgmt.assembly (bindingNum bd)).bytes.length + p.length) → exec (.mctpPacket bd false e q tag p) s = .next (mctpDrop (bindingNum bd) s)) ∧
  (∀ (bd : Binding) (e : Bool) (q tag : Nat) (p : List Byte) (s : State), (bindingUp bd s = true) → (bindingEid bd s = 0) → (mctpTypes.contains (u p 0 1) = true) → (u p 0 1 ≠ 0) → (u p 0 1 = 0x7E → u p 1 2 = Config.pciVendor.toNat) →  exec (.mctpPacket bd true e q tag p) s = .next s) ∧
  (∀ (b : Binding) (n : Nat) (s : State), (bindingUp b s = true) → (n < 256) → exec (.setEndpointId b n) s = .next (match b with | .smbus => { s with mgmt := { s.mgmt with eidSmbus := n } } | .i3c => { s with mgmt := { s.mgmt with eidI3c := n } } | .pcie => { s with mgmt := { s.mgmt with eidPcie := n } })) ∧
  (∀ (n : Nat) (s : State), (mailReady 0x0150 (8 + n) s) → (u (mbxArgs s) 4 2 = n) → (u (mbxArgs s) 6 2 = 0) → (b2Refusal (u (mbxArgs s) 0 4) n s = none) → (2 ≤ s.start.stage) → exec .b2Write s = .next (mbxEnd 0 0 [] { s with mem := { s.mem with bar2 := memWrite s.mem.bar2 (u (mbxArgs s) 0 4) (padTo n ((mbxArgs s).drop 8)) } })) ∧
  (∀ (n : Nat) (s : State), (mailReady 0x0150 (8 + n) s) → (u (mbxArgs s) 4 2 = n) → (u (mbxArgs s) 6 2 = 0) → (u (mbxArgs s) 0 4 % 64 ≠ 0) → exec .b2Write s = .next (mbxEnd 0x08 2 [] s)) ∧
  (∀ (s : State), (mailReady 0x0151 8 s) → (u (mbxArgs s) 6 2 = 0) → (b2Refusal (u (mbxArgs s) 0 4) (u (mbxArgs s) 4 2) s = none) → (2 ≤ s.start.stage) → exec .b2Read s = .next (mbxEnd 0 0 (memRead s.mem.bar2 (u (mbxArgs s) 0 4) (u (mbxArgs s) 4 2)) s)) ∧
  (∀ (s : State), (mailReady 0x0151 8 s) → (u (mbxArgs s) 6 2 = 0) → (b2Refusal (u (mbxArgs s) 0 4) (u (mbxArgs s) 4 2) s = none) → (s.start.stage < 2) → exec .b2Read s = .next (mbxEnd 0x31 0 [] s)) ∧
  (∀ (bd : Binding) (e : Bool) (q tag : Nat) (p : List Byte) (s : State), (bindingUp bd s = true) → (mctpTypes.contains (u p 0 1) = true) → (u p 0 1 = 0x7E → u p 1 2 = Config.pciVendor.toNat) → (bindingEid bd s ≠ 0 ∨ u p 0 1 = 0) → exec (.mctpPacket bd true e q tag p) s = .next (mctpJoin (bindingNum bd) e ⟨tag, (q + 1) % 4, p⟩ s)) ∧
  (∀ (bd : Binding) (e : Bool) (q tag : Nat) (p : List Byte) (a : Assembly) (s : State), (bindingUp bd s = true) → (look noAssembly s.mgmt.assembly (bindingNum bd) = a) → (a ≠ noAssembly) → (a.nextSeq = q) → (a.tag = tag) → exec (.mctpPacket bd false e q tag p) s = .next (mctpJoin (bindingNum bd) e ⟨tag, (q + 1) % 4, a.bytes ++ p⟩ s))

/-- GetSensorReading of a known sensor whose source is powered answers the reading that stands; before stage 1 has ended a sensor other than THM_COOL's and the stage answers operational state unavailable. GetPDR answers the record of a sensor. The bytes of the answers are the model's (log entry 62). SetEventReceiver sends the front event to the receiver at once; PollForPlatformEventMessage hands the front event over and removes it. An event that is not acknowledged is sent again 250 ms later, twice at most; an acknowledged one leaves the queue. A refresh updates the readings of the sources that are powered. -/
def Obligations.SensorsAndEvents : Prop :=
  (∀ (n : Nat) (s : State), (trustUp s = true) → (sensorIds.contains n = true) → (sensorUp n s = true) → exec (.getSensorReading n) s = .next (answerPldm 0 (leBytes 2 n ++ leBytes 1 0 ++ intBytes (look 0 s.mgmt.sensors n)) s)) ∧
  (∀ (n : Nat) (s : State), (trustUp s = true) → (1 ≤ n) → (n < 19) → (s.start.stage < 2) → exec (.getSensorReading n) s = .next (answerPldm 0 (leBytes 2 n ++ leBytes 1 2) s)) ∧
  (∀ (h n : Nat) (s : State), (trustUp s = true) → (n = if h = 0 then 1 else h) → (1 ≤ n) → (n ≤ 25) → exec (.getPdr h) s = .next (answerPldm 0 (leBytes 4 n ++ leBytes 4 (if n = 25 then 0 else n + 1) ++ leBytes 2 n ++ leBytes 1 (if n = 25 then 1 else 0) ++ (sensorLimits n s).flatMap fun l => leBytes 1 l.1 ++ intBytes l.2.2) s)) ∧
  (∀ (n : Nat) (s : State), (trustUp s = true) → (25 < n) → exec (.getPdr n) s = .next (answerPldm 0x82 (leBytes 4 n) s)) ∧
  (∀ (r : Nat) (e : List Byte) (es : List (List Byte)) (s : State), (trustUp s = true) → (s.mgmt.events = e :: es) → exec (.setEventReceiver (some r)) s = .next { s with mgmt := { s.mgmt with receiver := some r, tries := 1, triedAt := s.time.elapsed }, out := s.out ++ [.mctp r e] }) ∧
  (∀ (e : List Byte) (es : List (List Byte)) (s : State), (trustUp s = true) → (s.mgmt.events = e :: es) → (s.mgmt.receiver = none) → (s.mgmt.messages = []) → exec .pollForPlatformEvent s = .next { s with mgmt := { s.mgmt with events := es, tries := 0 }, out := s.out ++ [.mctp 0 (1#8 :: 0#8 :: e)] }) ∧
  (∀ (r : Nat) (e : List Byte) (es : List (List Byte)) (s : State), (trustUp s = true) → (s.mgmt.events = e :: es) → (s.mgmt.receiver = some r) → (1 ≤ s.mgmt.tries) → (s.mgmt.tries < 3) → (s.mgmt.triedAt + 1000000 ≤ s.time.elapsed) → exec (.platformEventRetry false) s = .next { s with mgmt := { s.mgmt with tries := s.mgmt.tries + 1, triedAt := s.time.elapsed }, out := s.out ++ [.mctp r e] }) ∧
  (∀ (r : Nat) (e : List Byte) (s : State), (trustUp s = true) → (s.mgmt.events = [e]) → (s.mgmt.receiver = some r) → (1 ≤ s.mgmt.tries) → exec (.platformEventRetry true) s = .next { s with mgmt := { s.mgmt with events := [], tries := 0 } }) ∧
  (∀ (s : State), (3 ≤ s.mgmt.tries) → exec (.platformEventRetry false) s = .next s) ∧
  (∀ (s : State), (trustUp s = true) → (s.pwr.hold = true) → ∃ t, exec .sensorRefresh s = .next t ∧ look 0 t.mgmt.sensors 25 = 7 ∧ t.pwr = s.pwr ∧ t.cool = s.cool ∧ t.start = s.start) ∧
  (∀ (s : State), (trustUp s = true) → (s.pwr.hold = false) → (s.start.stage ≠ 0) → ∃ t, exec .sensorRefresh s = .next t ∧ look 0 t.mgmt.sensors 25 = s.start.stage ∧ t.pwr = s.pwr ∧ t.cool = s.cool ∧ t.start = s.start) ∧
  (∀ (r : Option Nat) (s : State), (trustUp s = true) → exec (.setEventReceiver r) s = .next (pushEvent { s with mgmt := { s.mgmt with receiver := r, tries := 0 } })) ∧
  (∀ (s : State), (trustUp s = true) → (s.mgmt.events = []) → exec .pollForPlatformEvent s = .next (answerPldm 0 [] s)) ∧
  (∀ (e : List Byte) (es : List (List Byte)) (s : State), (trustUp s = true) → (s.mgmt.events = e :: es) → exec .pollForPlatformEvent s = .next (popEvent (answerPldm 0 e s))) ∧
  (∀ (r : Nat) (e : List Byte) (es : List (List Byte)) (s : State), (trustUp s = true) → (s.mgmt.events = e :: es) → (s.mgmt.receiver = some r) → (1 ≤ s.mgmt.tries) → exec (.platformEventRetry true) s = .next (popEvent s))

/-- RequestUpdate starts an update, and while one runs it is refused with ALREADY_IN_UPDATE_MODE. UpdateComponent writes component 1 or 2 into its bank that is not running. The verification passes an image whose signature holds and whose SVN is at least the fuse's; one that fails marks its bank invalid and is counted in UPDATE_FAIL. ApplyComplete makes that bank next. Self-contained activation is refused; an activation stays pending. CancelUpdate ends the update, and so does an agent that is silent for 120 s, which is counted. -/
def Obligations.FirmwareUpdate : Prop :=
  (∀ (s : State), (trustUp s = true) → (updating s = false) → exec .requestUpdate s = .next (answerPldm 0 [] { s with mgmt := { s.mgmt with update := .learn, agentAt := s.time.elapsed } })) ∧
  (∀ (s : State), (trustUp s = true) → (updating s = true) → exec .requestUpdate s = .next (answerPldm 0x81 [] { s with mgmt := { s.mgmt with agentAt := s.time.elapsed } })) ∧
  (∀ (k : Nat) (image : List Byte) (svn v : Nat) (ok : Bool) (s : State), (trustUp s = true) → (s.mgmt.update = .learn ∨ s.mgmt.update = .ready) → (k < 2) → (image.length ≤ 16777216) → (svn < 256) → exec (.updateComponent (k + 1) image svn v ok) s = .next (setBank k (1 - runningBank k s) { valid := false, svn := svn, version := BitVec.ofNat 32 v, image := image, signatureOk := ok, fresh := true } { s with mgmt := { s.mgmt with update := .verify, component := k, verifyFailed := false, agentAt := s.time.elapsed } })) ∧
  (∀ (s : State), (trustUp s = true) → (s.mgmt.update = .verify) → ((bankOf s.mgmt.component (spareBank s.mgmt.component s) s).signatureOk = true) → ((if s.mgmt.component = 0 then s.tru.svnTc else s.tru.svnHub) ≤ (bankOf s.mgmt.component (spareBank s.mgmt.component s) s).svn) → exec .verifyComponent s = .next (answerPldm 0 [] (setBank s.mgmt.component (spareBank s.mgmt.component s) { bankOf s.mgmt.component (spareBank s.mgmt.component s) s with valid := true } { s with mgmt := { s.mgmt with update := .apply } }))) ∧
  (∀ (s : State), (trustUp s = true) → (s.mgmt.update = .verify) → ((bankOf s.mgmt.component (spareBank s.mgmt.component s) s).signatureOk = false ∨ (bankOf s.mgmt.component (spareBank s.mgmt.component s) s).svn < (if s.mgmt.component = 0 then s.tru.svnTc else s.tru.svnHub)) → ∃ t, exec .verifyComponent s = .next t ∧ t.mgmt.update = .ready ∧ t.mgmt.verifyFailed = true ∧ t.mgmt.banks = put {} s.mgmt.banks (2 * s.mgmt.component + spareBank s.mgmt.component s) { bankOf s.mgmt.component (spareBank s.mgmt.component s) s with valid := false } ∧ ctrGet cUpdateFail t = min (2 ^ cUpdateFail.width - 1) (ctrGet cUpdateFail s + 1)) ∧
  (∀ (s : State), (trustUp s = true) → (s.mgmt.update = .apply) → (s.mgmt.component = 0) → exec .applyComplete s = .next { s with mgmt := { s.mgmt with update := .ready, tcNext := 1 - runningBank 0 s } }) ∧
  (∀ (s : State), (trustUp s = true) → (s.mgmt.update = .apply) → (s.mgmt.component ≠ 0) → exec .applyComplete s = .next { s with mgmt := { s.mgmt with update := .ready, hubNext := 1 - runningBank s.mgmt.component s } }) ∧
  (∀ (s : State), (trustUp s = true) → (s.mgmt.update = .ready) → exec (.activateFirmware true) s = .next (answerPldm 0x8B [] { s with mgmt := { s.mgmt with agentAt := s.time.elapsed } }) ∧ exec (.activateFirmware false) s = .next (answerPldm 0 [] { s with mgmt := { s.mgmt with update := .activation, agentAt := s.time.elapsed } })) ∧
  (∀ (s : State), (trustUp s = true) → (updating s = true) → exec .cancelUpdate s = .next { s with mgmt := { s.mgmt with update := .idle } }) ∧
  (∀ (s : State), (trustUp s = true) → (updating s = true) → (s.mgmt.agentAt + 480000000 ≤ s.time.elapsed) → exec .updateTimeout s = .next (countEvent cUpdateFail unitNode { s with mgmt := { s.mgmt with update := .idle } }))

/-- An aligned 64-bit read through PF0 returns the register's value, clears its RC fields and no other counter, and ends a latch of it. A 32-bit read of a low half latches the high half, and the read of the high half returns the latch and clears nothing more; with no latch for it, it clears the high half's RC fields only. A narrower or unaligned access returns all-ones or writes nothing, and puts an event in the trace. A 64-bit write of an RW register replaces it; a 32-bit write replaces its half. A function cannot write a register outside its view. A write that gives a BAR2 page another owner stores it, unless the old or the new owner is an assigned partition, when the map keeps its owner and an event is logged. Where a pending list names the page, the condition that R358 leaves undefined, it moves or stays by a free choice of the model (notes/assumptions/94.md). -/
def Obligations.RegisterAccesses : Prop :=
  (∀ (off : Nat) (s : State), (off % 8 = 0) → (off < 0x4000000) → (portOwner off = none) → exec (.rcFieldRead 0 off 8) s = .next { clearRc off true true (endLatch 0 off s) with out := s.out ++ [.readData (BitVec.ofNat 64 (regValue off s)) 8] }) ∧
  (∀ (off : Nat) (c : Ctr) (s : State), (off ≠ 0x1410) → (c.key / 64 = off → ctrGet c (clearRc off true true s) = 0) ∧ (c.key / 64 ≠ off → ctrGet c (clearRc off true true s) = ctrGet c s)) ∧
  (∀ (off : Nat) (s t : State), (off % 8 = 0) → (off < 0x4000000) → (portOwner off = none) → (t = clearRc off true true (endLatch 0 off s)) → exec (.rcFieldRead 0 off 4) s = .next { t with host := { t.host with latch := some (0, off, regValue off s / 2 ^ 32) }, out := s.out ++ [.readData (BitVec.ofNat 64 (regValue off s % 2 ^ 32)) 4] }) ∧
  (∀ (off v : Nat) (s : State), (off % 8 = 0) → (s.host.latch = some (0, off, v)) → exec (.rcFieldRead 0 (off + 4) 4) s = .next { s with host := { s.host with latch := none }, out := s.out ++ [.readData (BitVec.ofNat 64 v) 4] }) ∧
  (∀ (off : Nat) (s : State), (off % 8 = 0) → (off < 0x4000000) → (portOwner off = none) → (∀ v, s.host.latch ≠ some (0, off, v)) → exec (.rcFieldRead 0 (off + 4) 4) s = .next { clearRc off false true s with out := s.out ++ [.readData (BitVec.ofNat 64 (regValue off s / 2 ^ 32)) 4] }) ∧
  (∀ (f off width : Nat) (w : Bool) (s : State), ∃ t, exec (.unalignedAccess f off width w) s = .next t ∧ t.out = (if w then s.out else s.out ++ [.readData (BitVec.ofNat 64 (2 ^ (8 * min width 4) - 1)) width]) ∧ t = { logEvent 11 0x01 unitNode (leBytes 4 off ++ leBytes 1 width ++ leBytes 1 (b2n w) ++ leBytes 2 f) s with out := t.out }) ∧
  (∀ (f off width : Nat) (v : BitVec 64) (s : State), (badAccess off width = true) → exec (.registerWrite f off width v) s = .next (logEvent 11 0x01 unitNode (leBytes 4 off ++ leBytes 1 width ++ leBytes 1 1 ++ leBytes 2 f) s)) ∧
  (∀ (v : BitVec 64) (s : State), exec (.registerWrite 0 0x500020 8 v) s = .next { s with time := { s.time with seconds := v.toNat } }) ∧
  (∀ (v : BitVec 64) (s : State), exec (.registerWrite 0 0x500020 4 v) s = .next { s with time := { s.time with seconds := v.toNat % 2 ^ 32 + s.time.seconds / 2 ^ 32 * 2 ^ 32 } }) ∧
  (∀ (f : Nat) (v : BitVec 64) (s : State), (0 < f) → exec (.registerWrite f 0x500020 8 v) s = .next s) ∧
  (∀ (f off : Nat) (v : BitVec 64) (s : State), (off % 8 = 0) → exec (.registerWrite f off 8 v) s = .next (fnWrite f off ⟨true, true, v.toNat⟩ s) ∧ exec (.registerWrite f off 4 v) s = .next (fnWrite f off ⟨true, false, v.toNat % 2 ^ 32⟩ s) ∧ exec (.registerWrite f (off + 4) 4 v) s = .next (fnWrite f off ⟨false, true, v.toNat % 2 ^ 32 * 2 ^ 32⟩ s)) ∧
  (∀ (i : Nat) (v : BitVec 64) (s : State), (v.toNat % 256 < 128 ∨ v.toNat % 256 = 255) → (b2Owner (8 * i) s ≠ v.toNat % 256) → (v.toNat % 256 < 128 → assigned (v.toNat % 256) s = false) → (b2Owner (8 * i) s < 128 → assigned (b2Owner (8 * i) s) s = false) → (v.toNat % 256 < 128 → (b2Pages (v.toNat % 256) s).length < 128) → (pagePending (8 * i) s = false) → exec (.hubB2map i 1 v) s = .next { s with host := { s.host with b2map := put 0xFF s.host.b2map (8 * i) (v.toNat % 256) } }) ∧
  (∀ (i : Nat) (v : BitVec 64) (s : State), (v.toNat % 256 < 128) → (b2Owner (8 * i) s ≠ v.toNat % 256) → (assigned (v.toNat % 256) s = true) → ∃ t, exec (.hubB2map i 1 v) s = .next t ∧ t.host = s.host ∧ t = { s with flt := t.flt }) ∧
  (∀ (i : Nat) (v : BitVec 64) (s : State), (v.toNat % 256 < 128 ∨ v.toNat % 256 = 255) → (b2Owner (8 * i) s ≠ v.toNat % 256) → (v.toNat % 256 < 128 → assigned (v.toNat % 256) s = false) → (b2Owner (8 * i) s < 128 → assigned (b2Owner (8 * i) s) s = false) → (v.toNat % 256 < 128 → (b2Pages (v.toNat % 256) s).length < 128) → (pagePending (8 * i) s = true) → exec (.hubB2map i 1 v) s = .next (pick 2 s).2 ∨ exec (.hubB2map i 1 v) s = .next { (pick 2 s).2 with host := { s.host with b2map := put 0xFF s.host.b2map (8 * i) (v.toNat % 256) } })

/-- Before stage 1 ends, and at any time in stage 0, a register request all of whose words lie in the ID_ block, the TRU_ block, PWR_STAGE, THM_COOL or THM_EVENTS works: a read answers ST_OK with the value of each of its words, here of one, and a write takes effect and answers ST_OK, here for a word of the mailbox's request. A request that touches any other word completes no word and returns ST_TARGET_DEAD. -/
def Obligations.EarlyRegisterRequests : Prop :=
  (∀ (b : Binding) (m : List Byte) (s : State), (trustUp s = true) → (regMessage b false s = some m) → (regRefused (m.drop 3) = false) → (s.start.stage < 2) → (∃ i < u m 5 2, ¬ ((u m 7 4 + 8 * i) < 0x1000 ∨ (0x900000 ≤ (u m 7 4 + 8 * i) ∧ (u m 7 4 + 8 * i) < 0x903000) ∨ (u m 7 4 + 8 * i) = 0x600000 ∨ (u m 7 4 + 8 * i) = 0x601018 ∨ (u m 7 4 + 8 * i) = 0x601020)) → exec (.regRead b) s = .next (regAnswer b m 0x31 0 [] (dropMessage b m s))) ∧
  (∀ (b : Binding) (m : List Byte) (s : State), (trustUp s = true) → (regMessage b true s = some m) → (regRefused (m.drop 3) = false) → (s.start.stage < 2) → (∃ i < u m 5 2, ¬ ((u m 7 4 + 8 * i) < 0x1000 ∨ (0x900000 ≤ (u m 7 4 + 8 * i) ∧ (u m 7 4 + 8 * i) < 0x903000) ∨ (u m 7 4 + 8 * i) = 0x600000 ∨ (u m 7 4 + 8 * i) = 0x601018 ∨ (u m 7 4 + 8 * i) = 0x601020)) → exec (.regWrite b) s = .next (regAnswer b m 0x31 0 [] (dropMessage b m s))) ∧
  (∀ (b : Binding) (m : List Byte) (s : State), (trustUp s = true) → (regMessage b false s = some m) → (regRefused (m.drop 3) = false) → (s.start.stage < 2) → (u m 5 2 = 1) → ((u m 7 4 < 0x1000 ∨ (0x900000 ≤ u m 7 4 ∧ u m 7 4 < 0x903000) ∨ u m 7 4 = 0x600000 ∨ u m 7 4 = 0x601018 ∨ u m 7 4 = 0x601020)) → exec (.regRead b) s = .next (regAnswer b m 0 1 (leBytes 8 (regValue (u m 7 4) (dropMessage b m s))) (clearRc (u m 7 4) true true (endLatch 0 (u m 7 4) (dropMessage b m s))))) ∧
  (∀ (b : Binding) (m : List Byte) (k : Nat) (s : State), (trustUp s = true) → (regMessage b true s = some m) → (regRefused (m.drop 3) = false) → (s.start.stage < 2) → (u m 5 2 = 1) → (u m 7 4 = 0x901000 + 8 * k) → (k < 512) → exec (.regWrite b) s = .next (regAnswer b m 0 1 [] { dropMessage b m s with mem := { s.mem with mbxReq := memWrite (memWrite s.mem.mbxReq (8 * k) (leBytes 4 (u m 11 8 % 2 ^ 32))) (8 * k + 4) (leBytes 4 (u m 11 8 / 2 ^ 32)) } }))

/-- REG_READ and REG_WRITE take the first such message of the binding. A request that breaks a rule of its form is refused whole with ST_MALFORMED and counted in REG_REFUSED. Otherwise a read of one word answers its value and clears its RC fields as a read of PF0 does, and a write of one word has the effect of PF0's write, after which its response is sent. -/
def Obligations.RegisterRequests : Prop :=
  (∀ (b : Binding) (m : List Byte) (s : State), (trustUp s = true) → (regMessage b false s = some m) → (regRefused (m.drop 3) = true) → exec (.regRead b) s = .next (regAnswer b m 0x08 0 [] (countEvent cRegRefused unitNode (dropMessage b m s)))) ∧
  (∀ (b : Binding) (m : List Byte) (s : State), (trustUp s = true) → (regMessage b true s = some m) → (regRefused (m.drop 3) = true) → exec (.regWrite b) s = .next (regAnswer b m 0x08 0 [] (countEvent cRegRefused unitNode (dropMessage b m s)))) ∧
  (∀ (b : Binding) (m : List Byte) (s : State), (trustUp s = true) → (regMessage b false s = some m) → (regRefused (m.drop 3) = false) → (2 ≤ s.start.stage) → (u m 5 2 = 1) → (portOwner (u m 7 4) = none) → exec (.regRead b) s = .next (regAnswer b m 0 1 (leBytes 8 (regValue (u m 7 4) (dropMessage b m s))) (clearRc (u m 7 4) true true (endLatch 0 (u m 7 4) (dropMessage b m s))))) ∧
  (∀ (b : Binding) (m : List Byte) (s : State), (trustUp s = true) → (regMessage b true s = some m) → (regRefused (m.drop 3) = false) → (2 ≤ s.start.stage) → (u m 5 2 = 1) → exec (.regWrite b) s = .next (regAnswer b m 0 1 [] (fnWrite 0 (u m 7 4) ⟨true, true, u m 11 8⟩ (dropMessage b m s))) ∧ exec (.registerWrite 0 (u m 7 4) 8 (BitVec.ofNat 64 (u m 11 8))) (dropMessage b m s) = .next (fnWrite 0 (u m 7 4) ⟨true, true, u m 11 8⟩ (dropMessage b m s))) ∧
  (∀ (b : Binding) (m : List Byte) (s : State), (trustUp s = true) → (regRefused (m.drop 3) = false) → (2 ≤ s.start.stage) → (regMessage b true s = some m → exec (.regWrite b) s = .next (regAnswer b m 0 (u m 5 2) [] (writeWords (u m 5 2) (u m 7 4) (m.drop 11) (dropMessage b m s)))) ∧ (regMessage b false s = some m → exec (.regRead b) s = .next (regAnswer b m 0 (u m 5 2) (readWords (u m 5 2) (u m 7 4) (dropMessage b m s)).1 (readWords (u m 5 2) (u m 7 4) (dropMessage b m s)).2)))

/-- A strobe advances the model's elapsed strokes by one, and the time base, when it counts, to its next stroke boundary; it clears what belonged to the stroke before, and within a pass it changes no memory, no directory entry, no host queue, and no key unless a frame that latched one has left its lane. An island that is 2 ticks or more off loses registration: REG reads 0, REG_LOSS is raised and the node enters hold mode with bit 5. -/
def Obligations.StrobeAndTime : Prop :=
  (∀ (s : State), (s.time.counting = true) → ((s.time.now / 250 + 1) % 64 ≠ 0) → (s.pwr.hold = false) → (offDue (openStroke (endStroke s)) = false) → ∃ t, exec (.strobe []) s = .next t ∧ t.time.elapsed = s.time.elapsed + 1 ∧ t.time.now = (s.time.now / 250 + 1) * 250 ∧ t.sch.applied = [] ∧ t.res.linkUse = [] ∧ t.mem = s.mem ∧ t.dir.entries = s.dir.entries ∧ t.dir.extents = s.dir.extents ∧ (s.tru.latches = [] → t.tru = s.tru) ∧ t.host = s.host ∧ t.fsh.maint = false) ∧
  (∀ (s : State), (s.time.counting = false) → ((s.time.elapsed + 1) % 64 ≠ 0) → (s.pwr.hold = false) → (offDue (openStroke (endStroke s)) = false) → ∃ t, exec (.strobe []) s = .next t ∧ t.time.elapsed = s.time.elapsed + 1 ∧ t.time.now = s.time.now ∧ t.mem = s.mem ∧ (s.tru.latches = [] → t.tru = s.tru) ∧ t.host = s.host) ∧
  (∀ (i n : Nat) (s : State), (i < 18) → (2 ≤ n) → (s.time.counting = true) → ((s.time.now / 250 + 1) % 64 ≠ 0) → (s.time.reg = true) → (offDue (openStroke (endStroke s)) = false) → (s.start.offAt = none) → ∃ t, exec (.strobe [(i, n)]) s = .next t ∧ t.time.reg = false ∧ t.pwr.hold = true ∧ t.pwr.holdCause.testBit 5 = true ∧ t.flt.lastCode = fRegLoss) ∧
  (∀ (drift : List (Nat × Nat)) (s : State), ∃ t, exec (.strobe drift) s = .next t ∧ t.time.elapsed = s.time.elapsed + 1 ∧ t.pending = s.pending ∧ t.mem.tier = s.mem.tier ∧ t.mem.host = s.mem.host)

/-- With T the time base in ns, the stroke number is floor(T / 250), the stroke within its pass floor((T mod 16,000) / 250), from 0 to 63, and the pass number floor(T / 16,000). A stroke boundary falls at every multiple of 250 ns and a pass boundary at every multiple of 16,000 ns, where the stroke within the pass is 0, and every whole second is a pass boundary. -/
def Obligations.StrokesAndPasses : Prop :=
  ∀ (s : State), strokeCount s = s.time.now / 250 ∧ strokeNow s = s.time.now % 16000 / 250 ∧ strokeNow s < 64 ∧ passNow s = s.time.now / 16000 ∧ (s.time.now % 250 = 0 → s.time.now = strokeCount s * 250) ∧ (s.time.now % 16000 = 0 → strokeNow s = 0 ∧ s.time.now = passNow s * 16000) ∧ (s.time.now % 1000000000 = 0 → s.time.now % 16000 = 0 ∧ passNow s = s.time.now / 1000000000 * 62500)

/-- FLT_STATUS.UE_WINDOW reads the number of distinct addresses counted over the last 62,500 passes. An error at an address counted within them raises its fault and counts nothing; at any other address it raises its fault and is counted once, and when the count reaches 16 the node raises UE_REPEAT and enters hold mode. -/
def Obligations.UncorrectableErrors : Prop :=
  (∀ (s : State), ((ueRecent s).length < 65536) → field (regFields 0x700000 s) 40 16 = (ueRecent s).length) ∧
  (∀ (a x : Nat) (s : State), ((ueRecent s).any (fun y => y.1 == a) = true) → (countUe a fUeData x [] s).flt.ueSeen = ueRecent s ∧ (countUe a fUeData x [] s).flt.lastCode = fUeData ∧ (countUe a fUeData x [] s).flt.lastUnit = x ∧ (countUe a fUeData x [] s).pwr = s.pwr) ∧
  (∀ (a x : Nat) (s : State), ((ueRecent s).any (fun y => y.1 == a) = false) → ((ueRecent s).length + 1 ≠ 16) → (countUe a fUeData x [] s).flt.ueSeen = ueRecent s ++ [(a, passNow s)] ∧ (countUe a fUeData x [] s).flt.lastCode = fUeData ∧ (countUe a fUeData x [] s).pwr.hold = s.pwr.hold) ∧
  (∀ (a x : Nat) (s : State), ((ueRecent s).any (fun y => y.1 == a) = false) → ((ueRecent s).length + 1 = 16) → (countUe a fUeData x [] s).flt.ueSeen = ueRecent s ++ [(a, passNow s)] ∧ (countUe a fUeData x [] s).flt.lastCode = fUeRepeat ∧ (countUe a fUeData x [] s).pwr.hold = true ∧ (countUe a fUeData x [] s).pwr.holdCause.testBit 3 = true)

/-- FAULT_N is low exactly while the node is in hold mode or PWR_STAGE.STALLED reads 1; SMB_ALERT_N is low while a PLDM event waits; the SMBus address is 0x60 plus STRAP_SMB_A. -/
def Obligations.StatusOutputs : Prop :=
  ∀ (s : State), (faultN s = false ↔ s.pwr.hold = true ∨ field (regFields 0x600000 s) 3 1 = 1) ∧ (smbAlertN s = false ↔ s.mgmt.events ≠ []) ∧ (s.start.strapSmbA < 4 → smbusAddress s = 0x60 + s.start.strapSmbA)

/-- Every command completes in every state: it answers a next state, and leaves the commands that wait in the queue as they are. (The queue is the model's own, log entry 2.) -/
def Obligations.QueueUntouched : Prop :=
  ∀ (c : Instr) (s : State), ∃ t, exec c s = .next t ∧ t.pending = s.pending

/-- The state after reset has an empty trace FIFO within its bounds, canonical memories. -/
def Obligations.ResetSound : Prop :=
  fifoBounded State.reset ∧ memoriesCanonical State.reset

/-- After reset no supply is present, the node is at stage 0, not in hold mode, with its power demand at 0; the time base is free-running and does not count; no directory entry, no plate, no queue and no key stands, and every event counter reads 0. Registers with no Reset column are at the values of log entry 1. -/
def Obligations.ResetState : Prop :=
  State.reset.pending = [] ∧ State.reset.start.stage = 0 ∧ State.reset.start.vaux = false ∧ State.reset.start.mainOn = false ∧ State.reset.pwr.hold = false ∧ State.reset.pwr.demand = 0 ∧ State.reset.time.counting = false ∧ State.reset.time.lock = .free ∧ State.reset.time.run = 0 ∧ State.reset.plt.st = .none ∧ State.reset.plt.running = none ∧ State.reset.host.queues = [] ∧ (∀ i, (dirEntry i State.reset).v = false ∧ (dirEntry i State.reset).held = false) ∧ (∀ c, ctrGet c State.reset = 0) ∧ (∀ g, (graver g State.reset).st = .idle)

/-- From every state whose pending trace FIFO holds at most 64 entries and whose trace counters are within their fields, every step that answers a next state leads to such a state. -/
def Obligations.FifoStaysBounded : Prop :=
  ∀ (s t : State), (step s = .next t) → (fifoBounded s) → fifoBounded t

/-- From every state whose byte memories are in canonical form, every step that answers a next state leads to such a state: addresses rise strictly and no listed byte equals what an unlisted byte reads as. The form is the model's; what it says is that equal memories are equal data. -/
def Obligations.MemoriesStayCanonical : Prop :=
  ∀ (s t : State), (step s = .next t) → (memoriesCanonical s) → memoriesCanonical t

/-- No step lowers the count that an SVN fuse has burnt, whatever happens to the supplies. -/
def Obligations.FusesNeverFall : Prop :=
  ∀ (s t : State), (step s = .next t) → s.tru.burntTc ≤ t.tru.burntTc ∧ s.tru.burntHub ≤ t.tru.burntHub
end

