-- ==== Sys2Proof/Laws/Store.lean ====
section
/-! SUPPORT. The laws of sparse stores: a read after a write, and the canonical form that every store operation keeps. -/

namespace Sys2Proof.Machine

variable {α : Type} [DecidableEq α] {d : α}

omit [DecidableEq α] in
@[simp] theorem look_nil (k : Nat) : look d ([] : Store α) k = d := rfl

omit [DecidableEq α] in
@[simp] theorem look_cons (k' : Nat) (v : α) (t : Store α) (k : Nat) :
    look d ((k', v) :: t) k = if k' = k then v else look d t k := rfl

@[simp] theorem put_nil (k : Nat) (v : α) : put d [] k v = if v = d then [] else [(k, v)] := rfl

theorem put_cons (k' : Nat) (v' : α) (t : Store α) (k : Nat) (v : α) :
    put d ((k', v') :: t) k v =
      if k < k' then (if v = d then (k', v') :: t else (k, v) :: (k', v') :: t)
      else if k = k' then (if v = d then t else (k, v) :: t)
      else (k', v') :: put d t k v := rfl

/-- A value other than the default is read back where it was written, whatever the store. -/
theorem look_put_self_ne (m : Store α) (k : Nat) {v : α} (hv : v ≠ d) : look d (put d m k v) k = v := by
  induction m with
  | nil => simp [hv]
  | cons x t ih =>
    obtain ⟨k', v'⟩ := x
    rw [put_cons]
    split
    · simp
    · split
      · simp
      · rename_i h1 h2
        simp [ih, Ne.symm h2]

/-- A write of a value other than the default leaves every other index alone. -/
theorem look_put_other_ne (m : Store α) (k j : Nat) {v : α} (hv : v ≠ d) (hj : j ≠ k) :
    look d (put d m k v) j = look d m j := by
  induction m with
  | nil => simp [hv, Ne.symm hj]
  | cons x t ih =>
    obtain ⟨k', v'⟩ := x
    rw [put_cons]
    split
    · simp [Ne.symm hj]
    · split
      · rename_i h1 h2
        subst h2
        simp [Ne.symm hj]
      · simp [ih]

theorem storeFrom_mono {lo lo' : Nat} {m : Store α} (h : storeFrom d lo m = true) (hl : lo' ≤ lo) :
    storeFrom d lo' m = true := by
  cases m with
  | nil => rfl
  | cons x t =>
    obtain ⟨k, v⟩ := x
    simp only [storeFrom, Bool.and_eq_true, decide_eq_true_eq] at h ⊢
    exact ⟨⟨by omega, h.1.2⟩, h.2⟩

/-- Below its first key a canonical store reads the default. -/
theorem look_below {lo k : Nat} {m : Store α} (h : storeFrom d lo m = true) (hk : k < lo) : look d m k = d := by
  induction m generalizing lo with
  | nil => rfl
  | cons x t ih =>
    obtain ⟨k', v⟩ := x
    simp only [storeFrom, Bool.and_eq_true, decide_eq_true_eq] at h
    rw [look_cons, if_neg (by omega)]
    exact ih h.2 (by omega)

theorem storeFrom_put {lo k : Nat} {m : Store α} (h : storeFrom d lo m = true) (hk : lo ≤ k) (v : α) :
    storeFrom d lo (put d m k v) = true := by
  induction m generalizing lo with
  | nil =>
    rw [put_nil]
    split
    · rfl
    · rename_i hv
      simp [storeFrom, hk, hv]
  | cons x t ih =>
    obtain ⟨k', v'⟩ := x
    simp only [storeFrom, Bool.and_eq_true, decide_eq_true_eq] at h
    rw [put_cons]
    split
    · rename_i hlt
      split
      · simp [storeFrom, h.1.1, h.1.2, h.2]
      · rename_i hv
        simp only [storeFrom, Bool.and_eq_true, decide_eq_true_eq]
        exact ⟨⟨hk, hv⟩, ⟨by omega, h.1.2⟩, h.2⟩
    · split
      · rename_i heq
        subst heq
        split
        · exact storeFrom_mono h.2 (by omega)
        · rename_i hv
          simp [storeFrom, hk, hv, h.2]
      · simp only [storeFrom, Bool.and_eq_true, decide_eq_true_eq]
        exact ⟨h.1, ih h.2 (by omega)⟩

/-- Every write keeps the canonical form. -/
theorem storeWf_put {m : Store α} (h : storeWf d m = true) (k : Nat) (v : α) : storeWf d (put d m k v) = true :=
  storeFrom_put h (Nat.zero_le k) v

theorem storeWf_upd {m : Store α} (h : storeWf d m = true) (k : Nat) (f : α → α) : storeWf d (upd d m k f) = true :=
  storeWf_put h k _

theorem look_put_from {lo k j : Nat} {m : Store α} (h : storeFrom d lo m = true) (v : α) :
    look d (put d m k v) j = if j = k then v else look d m j := by
  induction m generalizing lo with
  | nil =>
    rw [put_nil]
    split <;> split <;> simp_all
    omega
  | cons x t ih =>
    obtain ⟨k', v'⟩ := x
    simp only [storeFrom, Bool.and_eq_true, decide_eq_true_eq] at h
    rw [put_cons]
    split
    · rename_i hlt
      split
      · rename_i hv
        subst hv
        split
        · rename_i hj
          subst hj
          rw [look_cons, if_neg (by omega)]
          exact look_below h.2 (by omega)
        · rfl
      · by_cases hj : j = k
        · rw [look_cons, if_pos hj, if_pos hj.symm]
        · rw [look_cons, if_neg hj, if_neg (Ne.symm hj)]
    · split
      · rename_i heq
        subst heq
        split
        · rename_i hv
          subst hv
          split
          · rename_i hj
            subst hj
            exact look_below h.2 (by omega)
          · rename_i hj
            rw [look_cons, if_neg (Ne.symm hj)]
        · by_cases hj : j = k
          · rw [look_cons, if_pos hj, if_pos hj.symm]
          · rw [look_cons, look_cons, if_neg hj, if_neg (Ne.symm hj), if_neg (Ne.symm hj)]
      · rename_i hlt hne
        rw [look_cons, look_cons, ih h.2]
        split
        · rename_i he
          subst he
          rw [if_neg (Ne.symm hne)]
        · rfl

/-- A read after a write of a canonical store. -/
theorem look_put {m : Store α} (h : storeWf d m = true) (k j : Nat) (v : α) :
    look d (put d m k v) j = if j = k then v else look d m j := look_put_from h v

theorem storeFrom_filter {lo : Nat} {m : Store α} (h : storeFrom d lo m = true) (p : Nat × α → Bool) :
    storeFrom d lo (m.filter p) = true := by
  induction m generalizing lo with
  | nil => rfl
  | cons x t ih =>
    obtain ⟨k, v⟩ := x
    simp only [storeFrom, Bool.and_eq_true, decide_eq_true_eq] at h
    rw [List.filter_cons]
    split
    · simp only [storeFrom, Bool.and_eq_true, decide_eq_true_eq]
      exact ⟨h.1, ih h.2⟩
    · exact storeFrom_mono (ih h.2) (by omega)

/-- A filtered store is canonical. -/
theorem storeWf_filter {m : Store α} (h : storeWf d m = true) (p : Nat × α → Bool) : storeWf d (m.filter p) = true :=
  storeFrom_filter h p

theorem storeFrom_mapStore {lo : Nat} {m : Store α} (h : storeFrom d lo m = true) (f : α → α) :
    storeFrom d lo (mapStore d f m) = true := by
  induction m generalizing lo with
  | nil => rfl
  | cons x t ih =>
    obtain ⟨k, v⟩ := x
    simp only [storeFrom, Bool.and_eq_true, decide_eq_true_eq] at h
    unfold mapStore at ih ⊢
    rw [List.filterMap_cons]
    split
    · exact storeFrom_mono (ih h.2) (by omega)
    · rename_i y hy
      split at hy
      · exact absurd hy (by simp)
      · rename_i hne
        cases hy
        simp only [storeFrom, Bool.and_eq_true, decide_eq_true_eq]
        exact ⟨⟨h.1.1, hne⟩, ih h.2⟩

theorem storeWf_mapStore {m : Store α} (h : storeWf d m = true) (f : α → α) : storeWf d (mapStore d f m) = true :=
  storeFrom_mapStore h f

end Sys2Proof.Machine
end

