-- ==== Sys2Proof/Laws/Events.lean ====
section
/-! SUPPORT. What logging, counting and raising do to each component of the state. -/

namespace Sys2Proof.Machine

theorem tallied_ne_zero {w n : Nat} (v : Nat) (hw : 0 < w) (hn : 0 < n) : min (2 ^ w - 1) (v + n) ≠ 0 := by
  have h2 : 2 ≤ 2 ^ w := by
    calc 2 = 2 ^ 1 := rfl
      _ ≤ 2 ^ w := Nat.pow_le_pow_right (by omega) hw
  omega

/-- A counter after it has been counted. -/
theorem ctrGet_tallyBy (n : Nat) (c : Ctr) (s : State) (hw : 0 < c.width) (hn : 0 < n) :
    ctrGet c (tallyBy n c s) = min (2 ^ c.width - 1) (ctrGet c s + n) := by
  unfold ctrGet tallyBy upd
  exact look_put_self_ne _ _ (tallied_ne_zero _ hw hn)

/-- Every other counter is unchanged. -/
theorem ctrGet_tallyBy_other (n : Nat) (c d : Ctr) (s : State) (hw : 0 < c.width) (hn : 0 < n) (hd : d.key ≠ c.key) :
    ctrGet d (tallyBy n c s) = ctrGet d s := by
  unfold ctrGet tallyBy upd
  exact look_put_other_ne _ _ _ (tallied_ne_zero _ hw hn) hd

/-- A record touches the fault state alone. -/
theorem logRecord_frame (r : Record) (s : State) : logRecord r s = { s with flt := (logRecord r s).flt } := by
  unfold logRecord
  generalize (if r.severity = 1 then 64 else 56) = n
  split <;> rfl

theorem countEvent_frame (c : Ctr) (unit : Nat) (s : State) :
    countEvent c unit s = { s with ctr := (countEvent c unit s).ctr, flt := (countEvent c unit s).flt } := by
  unfold countEvent logEvent
  rw [logRecord_frame]
  rfl

@[simp] theorem ctrGet_logRecord (c : Ctr) (r : Record) (s : State) : ctrGet c (logRecord r s) = ctrGet c s := by
  rw [logRecord_frame]
  rfl

theorem ctrGet_countEvent (c : Ctr) (unit : Nat) (s : State) (hw : 0 < c.width) :
    ctrGet c (countEvent c unit s) = min (2 ^ c.width - 1) (ctrGet c s + 1) := by
  unfold countEvent logEvent tally
  rw [ctrGet_logRecord, ctrGet_tallyBy 1 c s hw (by omega)]

theorem ctrGet_countEvent_other (c d : Ctr) (unit : Nat) (s : State) (hw : 0 < c.width) (hd : d.key ≠ c.key) :
    ctrGet d (countEvent c unit s) = ctrGet d s := by
  unfold countEvent logEvent tally
  rw [ctrGet_logRecord, ctrGet_tallyBy_other 1 c d s hw (by omega) hd]

/-! ### The components an event leaves alone -/

section frames
variable (c : Ctr) (unit : Nat) (s : State)

@[simp] theorem countEvent_pending : (countEvent c unit s).pending = s.pending := by rw [countEvent_frame]
@[simp] theorem countEvent_time : (countEvent c unit s).time = s.time := by rw [countEvent_frame]
@[simp] theorem countEvent_bar : (countEvent c unit s).bar = s.bar := by rw [countEvent_frame]
@[simp] theorem countEvent_dir : (countEvent c unit s).dir = s.dir := by rw [countEvent_frame]
@[simp] theorem countEvent_res : (countEvent c unit s).res = s.res := by rw [countEvent_frame]
@[simp] theorem countEvent_fsh : (countEvent c unit s).fsh = s.fsh := by rw [countEvent_frame]
@[simp] theorem countEvent_gravers : (countEvent c unit s).gravers = s.gravers := by rw [countEvent_frame]
@[simp] theorem countEvent_plt : (countEvent c unit s).plt = s.plt := by rw [countEvent_frame]
@[simp] theorem countEvent_sch : (countEvent c unit s).sch = s.sch := by rw [countEvent_frame]
@[simp] theorem countEvent_ports : (countEvent c unit s).ports = s.ports := by rw [countEvent_frame]
@[simp] theorem countEvent_tfx : (countEvent c unit s).tfx = s.tfx := by rw [countEvent_frame]
@[simp] theorem countEvent_host : (countEvent c unit s).host = s.host := by rw [countEvent_frame]
@[simp] theorem countEvent_mem : (countEvent c unit s).mem = s.mem := by rw [countEvent_frame]
@[simp] theorem countEvent_tru : (countEvent c unit s).tru = s.tru := by rw [countEvent_frame]
@[simp] theorem countEvent_start : (countEvent c unit s).start = s.start := by rw [countEvent_frame]
@[simp] theorem countEvent_pwr : (countEvent c unit s).pwr = s.pwr := by rw [countEvent_frame]
@[simp] theorem countEvent_cool : (countEvent c unit s).cool = s.cool := by rw [countEvent_frame]
@[simp] theorem countEvent_mgmt : (countEvent c unit s).mgmt = s.mgmt := by rw [countEvent_frame]
@[simp] theorem countEvent_tel : (countEvent c unit s).tel = s.tel := by rw [countEvent_frame]
@[simp] theorem countEvent_out : (countEvent c unit s).out = s.out := by rw [countEvent_frame]
@[simp] theorem countEvent_free : (countEvent c unit s).free = s.free := by rw [countEvent_frame]

end frames

end Sys2Proof.Machine
end

