-- ==== Sys2Proof/Laws/State.lean ====
section
/-! SUPPORT. What each named update of the state leaves in every component: one lemma for a component and an update. -/

namespace Sys2Proof.Machine

section setFport
variable (p : Nat) (v : Port) (s : State)
@[simp] theorem setFport_pending : (setFport p v s).pending = s.pending := rfl
@[simp] theorem setFport_time : (setFport p v s).time = s.time := rfl
@[simp] theorem setFport_bar : (setFport p v s).bar = s.bar := rfl
@[simp] theorem setFport_dir : (setFport p v s).dir = s.dir := rfl
@[simp] theorem setFport_res : (setFport p v s).res = s.res := rfl
@[simp] theorem setFport_fsh : (setFport p v s).fsh = s.fsh := rfl
@[simp] theorem setFport_gravers : (setFport p v s).gravers = s.gravers := rfl
@[simp] theorem setFport_plt : (setFport p v s).plt = s.plt := rfl
@[simp] theorem setFport_sch : (setFport p v s).sch = s.sch := rfl
@[simp] theorem setFport_tfx : (setFport p v s).tfx = s.tfx := rfl
@[simp] theorem setFport_host : (setFport p v s).host = s.host := rfl
@[simp] theorem setFport_mem : (setFport p v s).mem = s.mem := rfl
@[simp] theorem setFport_tru : (setFport p v s).tru = s.tru := rfl
@[simp] theorem setFport_start : (setFport p v s).start = s.start := rfl
@[simp] theorem setFport_pwr : (setFport p v s).pwr = s.pwr := rfl
@[simp] theorem setFport_cool : (setFport p v s).cool = s.cool := rfl
@[simp] theorem setFport_flt : (setFport p v s).flt = s.flt := rfl
@[simp] theorem setFport_mgmt : (setFport p v s).mgmt = s.mgmt := rfl
@[simp] theorem setFport_tel : (setFport p v s).tel = s.tel := rfl
@[simp] theorem setFport_ctr : (setFport p v s).ctr = s.ctr := rfl
@[simp] theorem setFport_out : (setFport p v s).out = s.out := rfl
@[simp] theorem setFport_free : (setFport p v s).free = s.free := rfl
@[simp] theorem setFport_ports : (setFport p v s).ports = put {} s.ports p v := rfl
end setFport

section setGraver
variable (g : Nat) (v : Graver) (s : State)
@[simp] theorem setGraver_pending : (setGraver g v s).pending = s.pending := rfl
@[simp] theorem setGraver_time : (setGraver g v s).time = s.time := rfl
@[simp] theorem setGraver_bar : (setGraver g v s).bar = s.bar := rfl
@[simp] theorem setGraver_dir : (setGraver g v s).dir = s.dir := rfl
@[simp] theorem setGraver_res : (setGraver g v s).res = s.res := rfl
@[simp] theorem setGraver_fsh : (setGraver g v s).fsh = s.fsh := rfl
@[simp] theorem setGraver_plt : (setGraver g v s).plt = s.plt := rfl
@[simp] theorem setGraver_sch : (setGraver g v s).sch = s.sch := rfl
@[simp] theorem setGraver_ports : (setGraver g v s).ports = s.ports := rfl
@[simp] theorem setGraver_tfx : (setGraver g v s).tfx = s.tfx := rfl
@[simp] theorem setGraver_host : (setGraver g v s).host = s.host := rfl
@[simp] theorem setGraver_mem : (setGraver g v s).mem = s.mem := rfl
@[simp] theorem setGraver_tru : (setGraver g v s).tru = s.tru := rfl
@[simp] theorem setGraver_start : (setGraver g v s).start = s.start := rfl
@[simp] theorem setGraver_pwr : (setGraver g v s).pwr = s.pwr := rfl
@[simp] theorem setGraver_cool : (setGraver g v s).cool = s.cool := rfl
@[simp] theorem setGraver_flt : (setGraver g v s).flt = s.flt := rfl
@[simp] theorem setGraver_mgmt : (setGraver g v s).mgmt = s.mgmt := rfl
@[simp] theorem setGraver_tel : (setGraver g v s).tel = s.tel := rfl
@[simp] theorem setGraver_ctr : (setGraver g v s).ctr = s.ctr := rfl
@[simp] theorem setGraver_out : (setGraver g v s).out = s.out := rfl
@[simp] theorem setGraver_free : (setGraver g v s).free = s.free := rfl
@[simp] theorem setGraver_gravers : (setGraver g v s).gravers = put {} s.gravers g v := rfl
end setGraver

section setConn
variable (c : Nat) (v : Conn) (s : State)
@[simp] theorem setConn_pending : (setConn c v s).pending = s.pending := rfl
@[simp] theorem setConn_time : (setConn c v s).time = s.time := rfl
@[simp] theorem setConn_bar : (setConn c v s).bar = s.bar := rfl
@[simp] theorem setConn_dir : (setConn c v s).dir = s.dir := rfl
@[simp] theorem setConn_res : (setConn c v s).res = s.res := rfl
@[simp] theorem setConn_fsh : (setConn c v s).fsh = s.fsh := rfl
@[simp] theorem setConn_gravers : (setConn c v s).gravers = s.gravers := rfl
@[simp] theorem setConn_plt : (setConn c v s).plt = s.plt := rfl
@[simp] theorem setConn_sch : (setConn c v s).sch = s.sch := rfl
@[simp] theorem setConn_ports : (setConn c v s).ports = s.ports := rfl
@[simp] theorem setConn_host : (setConn c v s).host = s.host := rfl
@[simp] theorem setConn_mem : (setConn c v s).mem = s.mem := rfl
@[simp] theorem setConn_tru : (setConn c v s).tru = s.tru := rfl
@[simp] theorem setConn_start : (setConn c v s).start = s.start := rfl
@[simp] theorem setConn_pwr : (setConn c v s).pwr = s.pwr := rfl
@[simp] theorem setConn_cool : (setConn c v s).cool = s.cool := rfl
@[simp] theorem setConn_flt : (setConn c v s).flt = s.flt := rfl
@[simp] theorem setConn_mgmt : (setConn c v s).mgmt = s.mgmt := rfl
@[simp] theorem setConn_tel : (setConn c v s).tel = s.tel := rfl
@[simp] theorem setConn_ctr : (setConn c v s).ctr = s.ctr := rfl
@[simp] theorem setConn_out : (setConn c v s).out = s.out := rfl
@[simp] theorem setConn_free : (setConn c v s).free = s.free := rfl
@[simp] theorem setConn_tfx_conns : (setConn c v s).tfx.conns = put {} s.tfx.conns c v := rfl
@[simp] theorem setConn_tfx_aux : (setConn c v s).tfx.aux = s.tfx.aux := rfl
@[simp] theorem setConn_tfx_inbox : (setConn c v s).tfx.inbox = s.tfx.inbox := rfl
@[simp] theorem setConn_tfx_regions : (setConn c v s).tfx.regions = s.tfx.regions := rfl
@[simp] theorem setConn_tfx_triggers : (setConn c v s).tfx.triggers = s.tfx.triggers := rfl
@[simp] theorem setConn_tfx_workReqs : (setConn c v s).tfx.workReqs = s.tfx.workReqs := rfl
@[simp] theorem setConn_tfx_rings : (setConn c v s).tfx.rings = s.tfx.rings := rfl
@[simp] theorem setConn_tfx_connSel : (setConn c v s).tfx.connSel = s.tfx.connSel := rfl
@[simp] theorem setConn_tfx_nextHop : (setConn c v s).tfx.nextHop = s.tfx.nextHop := rfl
@[simp] theorem setConn_tfx_hostTokens : (setConn c v s).tfx.hostTokens = s.tfx.hostTokens := rfl
@[simp] theorem setConn_tfx_nextTag : (setConn c v s).tfx.nextTag = s.tfx.nextTag := rfl
end setConn

section setAux
variable (c : Nat) (v : ConnAux) (s : State)
@[simp] theorem setAux_pending : (setAux c v s).pending = s.pending := rfl
@[simp] theorem setAux_time : (setAux c v s).time = s.time := rfl
@[simp] theorem setAux_bar : (setAux c v s).bar = s.bar := rfl
@[simp] theorem setAux_dir : (setAux c v s).dir = s.dir := rfl
@[simp] theorem setAux_res : (setAux c v s).res = s.res := rfl
@[simp] theorem setAux_fsh : (setAux c v s).fsh = s.fsh := rfl
@[simp] theorem setAux_gravers : (setAux c v s).gravers = s.gravers := rfl
@[simp] theorem setAux_plt : (setAux c v s).plt = s.plt := rfl
@[simp] theorem setAux_sch : (setAux c v s).sch = s.sch := rfl
@[simp] theorem setAux_ports : (setAux c v s).ports = s.ports := rfl
@[simp] theorem setAux_host : (setAux c v s).host = s.host := rfl
@[simp] theorem setAux_mem : (setAux c v s).mem = s.mem := rfl
@[simp] theorem setAux_tru : (setAux c v s).tru = s.tru := rfl
@[simp] theorem setAux_start : (setAux c v s).start = s.start := rfl
@[simp] theorem setAux_pwr : (setAux c v s).pwr = s.pwr := rfl
@[simp] theorem setAux_cool : (setAux c v s).cool = s.cool := rfl
@[simp] theorem setAux_flt : (setAux c v s).flt = s.flt := rfl
@[simp] theorem setAux_mgmt : (setAux c v s).mgmt = s.mgmt := rfl
@[simp] theorem setAux_tel : (setAux c v s).tel = s.tel := rfl
@[simp] theorem setAux_ctr : (setAux c v s).ctr = s.ctr := rfl
@[simp] theorem setAux_out : (setAux c v s).out = s.out := rfl
@[simp] theorem setAux_free : (setAux c v s).free = s.free := rfl
@[simp] theorem setAux_tfx_aux : (setAux c v s).tfx.aux = put {} s.tfx.aux c v := rfl
@[simp] theorem setAux_tfx_conns : (setAux c v s).tfx.conns = s.tfx.conns := rfl
@[simp] theorem setAux_tfx_inbox : (setAux c v s).tfx.inbox = s.tfx.inbox := rfl
@[simp] theorem setAux_tfx_regions : (setAux c v s).tfx.regions = s.tfx.regions := rfl
@[simp] theorem setAux_tfx_triggers : (setAux c v s).tfx.triggers = s.tfx.triggers := rfl
@[simp] theorem setAux_tfx_workReqs : (setAux c v s).tfx.workReqs = s.tfx.workReqs := rfl
@[simp] theorem setAux_tfx_rings : (setAux c v s).tfx.rings = s.tfx.rings := rfl
@[simp] theorem setAux_tfx_connSel : (setAux c v s).tfx.connSel = s.tfx.connSel := rfl
@[simp] theorem setAux_tfx_nextHop : (setAux c v s).tfx.nextHop = s.tfx.nextHop := rfl
@[simp] theorem setAux_tfx_hostTokens : (setAux c v s).tfx.hostTokens = s.tfx.hostTokens := rfl
@[simp] theorem setAux_tfx_nextTag : (setAux c v s).tfx.nextTag = s.tfx.nextTag := rfl
end setAux

section inboxTake
variable (m : InMsg) (s : State)
@[simp] theorem inboxTake_pending : (inboxTake m s).pending = s.pending := rfl
@[simp] theorem inboxTake_time : (inboxTake m s).time = s.time := rfl
@[simp] theorem inboxTake_bar : (inboxTake m s).bar = s.bar := rfl
@[simp] theorem inboxTake_dir : (inboxTake m s).dir = s.dir := rfl
@[simp] theorem inboxTake_res : (inboxTake m s).res = s.res := rfl
@[simp] theorem inboxTake_fsh : (inboxTake m s).fsh = s.fsh := rfl
@[simp] theorem inboxTake_gravers : (inboxTake m s).gravers = s.gravers := rfl
@[simp] theorem inboxTake_plt : (inboxTake m s).plt = s.plt := rfl
@[simp] theorem inboxTake_sch : (inboxTake m s).sch = s.sch := rfl
@[simp] theorem inboxTake_ports : (inboxTake m s).ports = s.ports := rfl
@[simp] theorem inboxTake_host : (inboxTake m s).host = s.host := rfl
@[simp] theorem inboxTake_mem : (inboxTake m s).mem = s.mem := rfl
@[simp] theorem inboxTake_tru : (inboxTake m s).tru = s.tru := rfl
@[simp] theorem inboxTake_start : (inboxTake m s).start = s.start := rfl
@[simp] theorem inboxTake_pwr : (inboxTake m s).pwr = s.pwr := rfl
@[simp] theorem inboxTake_cool : (inboxTake m s).cool = s.cool := rfl
@[simp] theorem inboxTake_flt : (inboxTake m s).flt = s.flt := rfl
@[simp] theorem inboxTake_mgmt : (inboxTake m s).mgmt = s.mgmt := rfl
@[simp] theorem inboxTake_tel : (inboxTake m s).tel = s.tel := rfl
@[simp] theorem inboxTake_ctr : (inboxTake m s).ctr = s.ctr := rfl
@[simp] theorem inboxTake_out : (inboxTake m s).out = s.out := rfl
@[simp] theorem inboxTake_free : (inboxTake m s).free = s.free := rfl
@[simp] theorem inboxTake_tfx_inbox : (inboxTake m s).tfx.inbox = dropFirst m s.tfx.inbox := rfl
@[simp] theorem inboxTake_tfx_conns : (inboxTake m s).tfx.conns = s.tfx.conns := rfl
@[simp] theorem inboxTake_tfx_aux : (inboxTake m s).tfx.aux = s.tfx.aux := rfl
@[simp] theorem inboxTake_tfx_regions : (inboxTake m s).tfx.regions = s.tfx.regions := rfl
@[simp] theorem inboxTake_tfx_triggers : (inboxTake m s).tfx.triggers = s.tfx.triggers := rfl
@[simp] theorem inboxTake_tfx_workReqs : (inboxTake m s).tfx.workReqs = s.tfx.workReqs := rfl
@[simp] theorem inboxTake_tfx_rings : (inboxTake m s).tfx.rings = s.tfx.rings := rfl
@[simp] theorem inboxTake_tfx_connSel : (inboxTake m s).tfx.connSel = s.tfx.connSel := rfl
@[simp] theorem inboxTake_tfx_nextHop : (inboxTake m s).tfx.nextHop = s.tfx.nextHop := rfl
@[simp] theorem inboxTake_tfx_hostTokens : (inboxTake m s).tfx.hostTokens = s.tfx.hostTokens := rfl
@[simp] theorem inboxTake_tfx_nextTag : (inboxTake m s).tfx.nextTag = s.tfx.nextTag := rfl
end inboxTake

section setRegion
variable (i : Nat) (r : Region) (s : State)
@[simp] theorem setRegion_pending : (setRegion i r s).pending = s.pending := rfl
@[simp] theorem setRegion_time : (setRegion i r s).time = s.time := rfl
@[simp] theorem setRegion_bar : (setRegion i r s).bar = s.bar := rfl
@[simp] theorem setRegion_dir : (setRegion i r s).dir = s.dir := rfl
@[simp] theorem setRegion_res : (setRegion i r s).res = s.res := rfl
@[simp] theorem setRegion_fsh : (setRegion i r s).fsh = s.fsh := rfl
@[simp] theorem setRegion_gravers : (setRegion i r s).gravers = s.gravers := rfl
@[simp] theorem setRegion_plt : (setRegion i r s).plt = s.plt := rfl
@[simp] theorem setRegion_sch : (setRegion i r s).sch = s.sch := rfl
@[simp] theorem setRegion_ports : (setRegion i r s).ports = s.ports := rfl
@[simp] theorem setRegion_host : (setRegion i r s).host = s.host := rfl
@[simp] theorem setRegion_mem : (setRegion i r s).mem = s.mem := rfl
@[simp] theorem setRegion_tru : (setRegion i r s).tru = s.tru := rfl
@[simp] theorem setRegion_start : (setRegion i r s).start = s.start := rfl
@[simp] theorem setRegion_pwr : (setRegion i r s).pwr = s.pwr := rfl
@[simp] theorem setRegion_cool : (setRegion i r s).cool = s.cool := rfl
@[simp] theorem setRegion_flt : (setRegion i r s).flt = s.flt := rfl
@[simp] theorem setRegion_mgmt : (setRegion i r s).mgmt = s.mgmt := rfl
@[simp] theorem setRegion_tel : (setRegion i r s).tel = s.tel := rfl
@[simp] theorem setRegion_ctr : (setRegion i r s).ctr = s.ctr := rfl
@[simp] theorem setRegion_out : (setRegion i r s).out = s.out := rfl
@[simp] theorem setRegion_free : (setRegion i r s).free = s.free := rfl
@[simp] theorem setRegion_tfx_regions : (setRegion i r s).tfx.regions = put {} s.tfx.regions i r := rfl
@[simp] theorem setRegion_tfx_conns : (setRegion i r s).tfx.conns = s.tfx.conns := rfl
@[simp] theorem setRegion_tfx_aux : (setRegion i r s).tfx.aux = s.tfx.aux := rfl
@[simp] theorem setRegion_tfx_inbox : (setRegion i r s).tfx.inbox = s.tfx.inbox := rfl
@[simp] theorem setRegion_tfx_triggers : (setRegion i r s).tfx.triggers = s.tfx.triggers := rfl
@[simp] theorem setRegion_tfx_workReqs : (setRegion i r s).tfx.workReqs = s.tfx.workReqs := rfl
@[simp] theorem setRegion_tfx_rings : (setRegion i r s).tfx.rings = s.tfx.rings := rfl
@[simp] theorem setRegion_tfx_connSel : (setRegion i r s).tfx.connSel = s.tfx.connSel := rfl
@[simp] theorem setRegion_tfx_nextHop : (setRegion i r s).tfx.nextHop = s.tfx.nextHop := rfl
@[simp] theorem setRegion_tfx_hostTokens : (setRegion i r s).tfx.hostTokens = s.tfx.hostTokens := rfl
@[simp] theorem setRegion_tfx_nextTag : (setRegion i r s).tfx.nextTag = s.tfx.nextTag := rfl
end setRegion

section setTrigger
variable (i : Nat) (t : Trigger) (s : State)
@[simp] theorem setTrigger_pending : (setTrigger i t s).pending = s.pending := rfl
@[simp] theorem setTrigger_time : (setTrigger i t s).time = s.time := rfl
@[simp] theorem setTrigger_bar : (setTrigger i t s).bar = s.bar := rfl
@[simp] theorem setTrigger_dir : (setTrigger i t s).dir = s.dir := rfl
@[simp] theorem setTrigger_res : (setTrigger i t s).res = s.res := rfl
@[simp] theorem setTrigger_fsh : (setTrigger i t s).fsh = s.fsh := rfl
@[simp] theorem setTrigger_gravers : (setTrigger i t s).gravers = s.gravers := rfl
@[simp] theorem setTrigger_plt : (setTrigger i t s).plt = s.plt := rfl
@[simp] theorem setTrigger_sch : (setTrigger i t s).sch = s.sch := rfl
@[simp] theorem setTrigger_ports : (setTrigger i t s).ports = s.ports := rfl
@[simp] theorem setTrigger_host : (setTrigger i t s).host = s.host := rfl
@[simp] theorem setTrigger_mem : (setTrigger i t s).mem = s.mem := rfl
@[simp] theorem setTrigger_tru : (setTrigger i t s).tru = s.tru := rfl
@[simp] theorem setTrigger_start : (setTrigger i t s).start = s.start := rfl
@[simp] theorem setTrigger_pwr : (setTrigger i t s).pwr = s.pwr := rfl
@[simp] theorem setTrigger_cool : (setTrigger i t s).cool = s.cool := rfl
@[simp] theorem setTrigger_flt : (setTrigger i t s).flt = s.flt := rfl
@[simp] theorem setTrigger_mgmt : (setTrigger i t s).mgmt = s.mgmt := rfl
@[simp] theorem setTrigger_tel : (setTrigger i t s).tel = s.tel := rfl
@[simp] theorem setTrigger_ctr : (setTrigger i t s).ctr = s.ctr := rfl
@[simp] theorem setTrigger_out : (setTrigger i t s).out = s.out := rfl
@[simp] theorem setTrigger_free : (setTrigger i t s).free = s.free := rfl
@[simp] theorem setTrigger_tfx_triggers : (setTrigger i t s).tfx.triggers = put {} s.tfx.triggers i t := rfl
@[simp] theorem setTrigger_tfx_conns : (setTrigger i t s).tfx.conns = s.tfx.conns := rfl
@[simp] theorem setTrigger_tfx_aux : (setTrigger i t s).tfx.aux = s.tfx.aux := rfl
@[simp] theorem setTrigger_tfx_inbox : (setTrigger i t s).tfx.inbox = s.tfx.inbox := rfl
@[simp] theorem setTrigger_tfx_regions : (setTrigger i t s).tfx.regions = s.tfx.regions := rfl
@[simp] theorem setTrigger_tfx_workReqs : (setTrigger i t s).tfx.workReqs = s.tfx.workReqs := rfl
@[simp] theorem setTrigger_tfx_rings : (setTrigger i t s).tfx.rings = s.tfx.rings := rfl
@[simp] theorem setTrigger_tfx_connSel : (setTrigger i t s).tfx.connSel = s.tfx.connSel := rfl
@[simp] theorem setTrigger_tfx_nextHop : (setTrigger i t s).tfx.nextHop = s.tfx.nextHop := rfl
@[simp] theorem setTrigger_tfx_hostTokens : (setTrigger i t s).tfx.hostTokens = s.tfx.hostTokens := rfl
@[simp] theorem setTrigger_tfx_nextTag : (setTrigger i t s).tfx.nextTag = s.tfx.nextTag := rfl
end setTrigger

section setRing
variable (r : Nat) (v : Ring) (s : State)
@[simp] theorem setRing_pending : (setRing r v s).pending = s.pending := rfl
@[simp] theorem setRing_time : (setRing r v s).time = s.time := rfl
@[simp] theorem setRing_bar : (setRing r v s).bar = s.bar := rfl
@[simp] theorem setRing_dir : (setRing r v s).dir = s.dir := rfl
@[simp] theorem setRing_res : (setRing r v s).res = s.res := rfl
@[simp] theorem setRing_fsh : (setRing r v s).fsh = s.fsh := rfl
@[simp] theorem setRing_gravers : (setRing r v s).gravers = s.gravers := rfl
@[simp] theorem setRing_plt : (setRing r v s).plt = s.plt := rfl
@[simp] theorem setRing_sch : (setRing r v s).sch = s.sch := rfl
@[simp] theorem setRing_ports : (setRing r v s).ports = s.ports := rfl
@[simp] theorem setRing_host : (setRing r v s).host = s.host := rfl
@[simp] theorem setRing_mem : (setRing r v s).mem = s.mem := rfl
@[simp] theorem setRing_tru : (setRing r v s).tru = s.tru := rfl
@[simp] theorem setRing_start : (setRing r v s).start = s.start := rfl
@[simp] theorem setRing_pwr : (setRing r v s).pwr = s.pwr := rfl
@[simp] theorem setRing_cool : (setRing r v s).cool = s.cool := rfl
@[simp] theorem setRing_flt : (setRing r v s).flt = s.flt := rfl
@[simp] theorem setRing_mgmt : (setRing r v s).mgmt = s.mgmt := rfl
@[simp] theorem setRing_tel : (setRing r v s).tel = s.tel := rfl
@[simp] theorem setRing_ctr : (setRing r v s).ctr = s.ctr := rfl
@[simp] theorem setRing_out : (setRing r v s).out = s.out := rfl
@[simp] theorem setRing_free : (setRing r v s).free = s.free := rfl
@[simp] theorem setRing_tfx_rings : (setRing r v s).tfx.rings = put {} s.tfx.rings r v := rfl
@[simp] theorem setRing_tfx_conns : (setRing r v s).tfx.conns = s.tfx.conns := rfl
@[simp] theorem setRing_tfx_aux : (setRing r v s).tfx.aux = s.tfx.aux := rfl
@[simp] theorem setRing_tfx_inbox : (setRing r v s).tfx.inbox = s.tfx.inbox := rfl
@[simp] theorem setRing_tfx_regions : (setRing r v s).tfx.regions = s.tfx.regions := rfl
@[simp] theorem setRing_tfx_triggers : (setRing r v s).tfx.triggers = s.tfx.triggers := rfl
@[simp] theorem setRing_tfx_workReqs : (setRing r v s).tfx.workReqs = s.tfx.workReqs := rfl
@[simp] theorem setRing_tfx_connSel : (setRing r v s).tfx.connSel = s.tfx.connSel := rfl
@[simp] theorem setRing_tfx_nextHop : (setRing r v s).tfx.nextHop = s.tfx.nextHop := rfl
@[simp] theorem setRing_tfx_hostTokens : (setRing r v s).tfx.hostTokens = s.tfx.hostTokens := rfl
@[simp] theorem setRing_tfx_nextTag : (setRing r v s).tfx.nextTag = s.tfx.nextTag := rfl
end setRing

section setQueue
variable (f cls : Nat) (q : Queue) (s : State)
@[simp] theorem setQueue_pending : (setQueue f cls q s).pending = s.pending := rfl
@[simp] theorem setQueue_time : (setQueue f cls q s).time = s.time := rfl
@[simp] theorem setQueue_bar : (setQueue f cls q s).bar = s.bar := rfl
@[simp] theorem setQueue_dir : (setQueue f cls q s).dir = s.dir := rfl
@[simp] theorem setQueue_res : (setQueue f cls q s).res = s.res := rfl
@[simp] theorem setQueue_fsh : (setQueue f cls q s).fsh = s.fsh := rfl
@[simp] theorem setQueue_gravers : (setQueue f cls q s).gravers = s.gravers := rfl
@[simp] theorem setQueue_plt : (setQueue f cls q s).plt = s.plt := rfl
@[simp] theorem setQueue_sch : (setQueue f cls q s).sch = s.sch := rfl
@[simp] theorem setQueue_ports : (setQueue f cls q s).ports = s.ports := rfl
@[simp] theorem setQueue_tfx : (setQueue f cls q s).tfx = s.tfx := rfl
@[simp] theorem setQueue_mem : (setQueue f cls q s).mem = s.mem := rfl
@[simp] theorem setQueue_tru : (setQueue f cls q s).tru = s.tru := rfl
@[simp] theorem setQueue_start : (setQueue f cls q s).start = s.start := rfl
@[simp] theorem setQueue_pwr : (setQueue f cls q s).pwr = s.pwr := rfl
@[simp] theorem setQueue_cool : (setQueue f cls q s).cool = s.cool := rfl
@[simp] theorem setQueue_flt : (setQueue f cls q s).flt = s.flt := rfl
@[simp] theorem setQueue_mgmt : (setQueue f cls q s).mgmt = s.mgmt := rfl
@[simp] theorem setQueue_tel : (setQueue f cls q s).tel = s.tel := rfl
@[simp] theorem setQueue_ctr : (setQueue f cls q s).ctr = s.ctr := rfl
@[simp] theorem setQueue_out : (setQueue f cls q s).out = s.out := rfl
@[simp] theorem setQueue_free : (setQueue f cls q s).free = s.free := rfl
@[simp] theorem setQueue_host_queues : (setQueue f cls q s).host.queues = put {} s.host.queues (queueIdx f cls) q := rfl
@[simp] theorem setQueue_host_speed : (setQueue f cls q s).host.speed = s.host.speed := rfl
@[simp] theorem setQueue_host_width : (setQueue f cls q s).host.width = s.host.width := rfl
@[simp] theorem setQueue_host_bifurcated : (setQueue f cls q s).host.bifurcated = s.host.bifurcated := rfl
@[simp] theorem setQueue_host_cxlIo : (setQueue f cls q s).host.cxlIo = s.host.cxlIo := rfl
@[simp] theorem setQueue_host_cxlCache : (setQueue f cls q s).host.cxlCache = s.host.cxlCache := rfl
@[simp] theorem setQueue_host_cxlMem : (setQueue f cls q s).host.cxlMem = s.host.cxlMem := rfl
@[simp] theorem setQueue_host_linkBUp : (setQueue f cls q s).host.linkBUp = s.host.linkBUp := rfl
@[simp] theorem setQueue_host_linkBPart : (setQueue f cls q s).host.linkBPart = s.host.linkBPart := rfl
@[simp] theorem setQueue_host_linkBValid : (setQueue f cls q s).host.linkBValid = s.host.linkBValid := rfl
@[simp] theorem setQueue_host_b2map : (setQueue f cls q s).host.b2map = s.host.b2map := rfl
@[simp] theorem setQueue_host_rwins : (setQueue f cls q s).host.rwins = s.host.rwins := rfl
@[simp] theorem setQueue_host_loads : (setQueue f cls q s).host.loads = s.host.loads := rfl
@[simp] theorem setQueue_host_nextLoad : (setQueue f cls q s).host.nextLoad = s.host.nextLoad := rfl
@[simp] theorem setQueue_host_latch : (setQueue f cls q s).host.latch = s.host.latch := rfl
end setQueue

section setExtent
variable (x : Nat) (v : Extent) (s : State)
@[simp] theorem setExtent_pending : (setExtent x v s).pending = s.pending := rfl
@[simp] theorem setExtent_time : (setExtent x v s).time = s.time := rfl
@[simp] theorem setExtent_bar : (setExtent x v s).bar = s.bar := rfl
@[simp] theorem setExtent_res : (setExtent x v s).res = s.res := rfl
@[simp] theorem setExtent_fsh : (setExtent x v s).fsh = s.fsh := rfl
@[simp] theorem setExtent_gravers : (setExtent x v s).gravers = s.gravers := rfl
@[simp] theorem setExtent_plt : (setExtent x v s).plt = s.plt := rfl
@[simp] theorem setExtent_sch : (setExtent x v s).sch = s.sch := rfl
@[simp] theorem setExtent_ports : (setExtent x v s).ports = s.ports := rfl
@[simp] theorem setExtent_tfx : (setExtent x v s).tfx = s.tfx := rfl
@[simp] theorem setExtent_host : (setExtent x v s).host = s.host := rfl
@[simp] theorem setExtent_mem : (setExtent x v s).mem = s.mem := rfl
@[simp] theorem setExtent_tru : (setExtent x v s).tru = s.tru := rfl
@[simp] theorem setExtent_start : (setExtent x v s).start = s.start := rfl
@[simp] theorem setExtent_pwr : (setExtent x v s).pwr = s.pwr := rfl
@[simp] theorem setExtent_cool : (setExtent x v s).cool = s.cool := rfl
@[simp] theorem setExtent_flt : (setExtent x v s).flt = s.flt := rfl
@[simp] theorem setExtent_mgmt : (setExtent x v s).mgmt = s.mgmt := rfl
@[simp] theorem setExtent_tel : (setExtent x v s).tel = s.tel := rfl
@[simp] theorem setExtent_ctr : (setExtent x v s).ctr = s.ctr := rfl
@[simp] theorem setExtent_out : (setExtent x v s).out = s.out := rfl
@[simp] theorem setExtent_free : (setExtent x v s).free = s.free := rfl
@[simp] theorem setExtent_dir_extents : (setExtent x v s).dir.extents = put {} s.dir.extents x v := rfl
@[simp] theorem setExtent_dir_entries : (setExtent x v s).dir.entries = s.dir.entries := rfl
@[simp] theorem setExtent_dir_shadows : (setExtent x v s).dir.shadows = s.dir.shadows := rfl
@[simp] theorem setExtent_dir_ports : (setExtent x v s).dir.ports = s.dir.ports := rfl
@[simp] theorem setExtent_dir_tailClear : (setExtent x v s).dir.tailClear = s.dir.tailClear := rfl
@[simp] theorem setExtent_dir_stateSwaps : (setExtent x v s).dir.stateSwaps = s.dir.stateSwaps := rfl
@[simp] theorem setExtent_dir_patrolPos : (setExtent x v s).dir.patrolPos = s.dir.patrolPos := rfl
@[simp] theorem setExtent_dir_nodeRanges : (setExtent x v s).dir.nodeRanges = s.dir.nodeRanges := rfl
@[simp] theorem setExtent_dir_portRanges : (setExtent x v s).dir.portRanges = s.dir.portRanges := rfl
@[simp] theorem setExtent_dir_patrolCycles : (setExtent x v s).dir.patrolCycles = s.dir.patrolCycles := rfl
@[simp] theorem setExtent_dir_freeCycles : (setExtent x v s).dir.freeCycles = s.dir.freeCycles := rfl
@[simp] theorem setExtent_dir_paid : (setExtent x v s).dir.paid = s.dir.paid := rfl
@[simp] theorem setExtent_dir_portPass : (setExtent x v s).dir.portPass = s.dir.portPass := rfl
@[simp] theorem setExtent_dir_portNext : (setExtent x v s).dir.portNext = s.dir.portNext := rfl
end setExtent

section setPort
variable (p : Nat) (v : DirPort) (s : State)
@[simp] theorem setPort_pending : (setPort p v s).pending = s.pending := rfl
@[simp] theorem setPort_time : (setPort p v s).time = s.time := rfl
@[simp] theorem setPort_bar : (setPort p v s).bar = s.bar := rfl
@[simp] theorem setPort_res : (setPort p v s).res = s.res := rfl
@[simp] theorem setPort_fsh : (setPort p v s).fsh = s.fsh := rfl
@[simp] theorem setPort_gravers : (setPort p v s).gravers = s.gravers := rfl
@[simp] theorem setPort_plt : (setPort p v s).plt = s.plt := rfl
@[simp] theorem setPort_sch : (setPort p v s).sch = s.sch := rfl
@[simp] theorem setPort_ports : (setPort p v s).ports = s.ports := rfl
@[simp] theorem setPort_tfx : (setPort p v s).tfx = s.tfx := rfl
@[simp] theorem setPort_host : (setPort p v s).host = s.host := rfl
@[simp] theorem setPort_mem : (setPort p v s).mem = s.mem := rfl
@[simp] theorem setPort_tru : (setPort p v s).tru = s.tru := rfl
@[simp] theorem setPort_start : (setPort p v s).start = s.start := rfl
@[simp] theorem setPort_pwr : (setPort p v s).pwr = s.pwr := rfl
@[simp] theorem setPort_cool : (setPort p v s).cool = s.cool := rfl
@[simp] theorem setPort_flt : (setPort p v s).flt = s.flt := rfl
@[simp] theorem setPort_mgmt : (setPort p v s).mgmt = s.mgmt := rfl
@[simp] theorem setPort_tel : (setPort p v s).tel = s.tel := rfl
@[simp] theorem setPort_ctr : (setPort p v s).ctr = s.ctr := rfl
@[simp] theorem setPort_out : (setPort p v s).out = s.out := rfl
@[simp] theorem setPort_free : (setPort p v s).free = s.free := rfl
@[simp] theorem setPort_dir_ports : (setPort p v s).dir.ports = put {} s.dir.ports p v := rfl
@[simp] theorem setPort_dir_entries : (setPort p v s).dir.entries = s.dir.entries := rfl
@[simp] theorem setPort_dir_shadows : (setPort p v s).dir.shadows = s.dir.shadows := rfl
@[simp] theorem setPort_dir_extents : (setPort p v s).dir.extents = s.dir.extents := rfl
@[simp] theorem setPort_dir_tailClear : (setPort p v s).dir.tailClear = s.dir.tailClear := rfl
@[simp] theorem setPort_dir_stateSwaps : (setPort p v s).dir.stateSwaps = s.dir.stateSwaps := rfl
@[simp] theorem setPort_dir_patrolPos : (setPort p v s).dir.patrolPos = s.dir.patrolPos := rfl
@[simp] theorem setPort_dir_nodeRanges : (setPort p v s).dir.nodeRanges = s.dir.nodeRanges := rfl
@[simp] theorem setPort_dir_portRanges : (setPort p v s).dir.portRanges = s.dir.portRanges := rfl
@[simp] theorem setPort_dir_patrolCycles : (setPort p v s).dir.patrolCycles = s.dir.patrolCycles := rfl
@[simp] theorem setPort_dir_freeCycles : (setPort p v s).dir.freeCycles = s.dir.freeCycles := rfl
@[simp] theorem setPort_dir_paid : (setPort p v s).dir.paid = s.dir.paid := rfl
@[simp] theorem setPort_dir_portPass : (setPort p v s).dir.portPass = s.dir.portPass := rfl
@[simp] theorem setPort_dir_portNext : (setPort p v s).dir.portNext = s.dir.portNext := rfl
end setPort

section setReq
variable (r : Req) (s : State)
@[simp] theorem setReq_pending : (setReq r s).pending = s.pending := rfl
@[simp] theorem setReq_time : (setReq r s).time = s.time := rfl
@[simp] theorem setReq_bar : (setReq r s).bar = s.bar := rfl
@[simp] theorem setReq_dir : (setReq r s).dir = s.dir := rfl
@[simp] theorem setReq_res : (setReq r s).res = s.res := rfl
@[simp] theorem setReq_fsh : (setReq r s).fsh = s.fsh := rfl
@[simp] theorem setReq_gravers : (setReq r s).gravers = s.gravers := rfl
@[simp] theorem setReq_plt : (setReq r s).plt = s.plt := rfl
@[simp] theorem setReq_ports : (setReq r s).ports = s.ports := rfl
@[simp] theorem setReq_tfx : (setReq r s).tfx = s.tfx := rfl
@[simp] theorem setReq_host : (setReq r s).host = s.host := rfl
@[simp] theorem setReq_mem : (setReq r s).mem = s.mem := rfl
@[simp] theorem setReq_tru : (setReq r s).tru = s.tru := rfl
@[simp] theorem setReq_start : (setReq r s).start = s.start := rfl
@[simp] theorem setReq_pwr : (setReq r s).pwr = s.pwr := rfl
@[simp] theorem setReq_cool : (setReq r s).cool = s.cool := rfl
@[simp] theorem setReq_flt : (setReq r s).flt = s.flt := rfl
@[simp] theorem setReq_mgmt : (setReq r s).mgmt = s.mgmt := rfl
@[simp] theorem setReq_tel : (setReq r s).tel = s.tel := rfl
@[simp] theorem setReq_ctr : (setReq r s).ctr = s.ctr := rfl
@[simp] theorem setReq_out : (setReq r s).out = s.out := rfl
@[simp] theorem setReq_free : (setReq r s).free = s.free := rfl
@[simp] theorem setReq_sch_reqs : (setReq r s).sch.reqs = replaceWhere (fun x => x.id == r.id) (fun _ => r) s.sch.reqs := rfl
@[simp] theorem setReq_sch_nextReq : (setReq r s).sch.nextReq = s.sch.nextReq := rfl
@[simp] theorem setReq_sch_queues : (setReq r s).sch.queues = s.sch.queues := rfl
@[simp] theorem setReq_sch_entries : (setReq r s).sch.entries = s.sch.entries := rfl
@[simp] theorem setReq_sch_closed : (setReq r s).sch.closed = s.sch.closed := rfl
@[simp] theorem setReq_sch_peak : (setReq r s).sch.peak = s.sch.peak := rfl
@[simp] theorem setReq_sch_applied : (setReq r s).sch.applied = s.sch.applied := rfl
@[simp] theorem setReq_sch_checks : (setReq r s).sch.checks = s.sch.checks := rfl
@[simp] theorem setReq_sch_slotTaken : (setReq r s).sch.slotTaken = s.sch.slotTaken := rfl
@[simp] theorem setReq_sch_extraRefresh : (setReq r s).sch.extraRefresh = s.sch.extraRefresh := rfl
@[simp] theorem setReq_sch_retrainNext : (setReq r s).sch.retrainNext = s.sch.retrainNext := rfl
@[simp] theorem setReq_sch_slipNow : (setReq r s).sch.slipNow = s.sch.slipNow := rfl
@[simp] theorem setReq_sch_slipPrev : (setReq r s).sch.slipPrev = s.sch.slipPrev := rfl
@[simp] theorem setReq_sch_unordered : (setReq r s).sch.unordered = s.sch.unordered := rfl
end setReq

section setEntry
variable (e : ColEntry) (s : State)
@[simp] theorem setEntry_pending : (setEntry e s).pending = s.pending := rfl
@[simp] theorem setEntry_time : (setEntry e s).time = s.time := rfl
@[simp] theorem setEntry_bar : (setEntry e s).bar = s.bar := rfl
@[simp] theorem setEntry_dir : (setEntry e s).dir = s.dir := rfl
@[simp] theorem setEntry_res : (setEntry e s).res = s.res := rfl
@[simp] theorem setEntry_fsh : (setEntry e s).fsh = s.fsh := rfl
@[simp] theorem setEntry_gravers : (setEntry e s).gravers = s.gravers := rfl
@[simp] theorem setEntry_plt : (setEntry e s).plt = s.plt := rfl
@[simp] theorem setEntry_ports : (setEntry e s).ports = s.ports := rfl
@[simp] theorem setEntry_tfx : (setEntry e s).tfx = s.tfx := rfl
@[simp] theorem setEntry_host : (setEntry e s).host = s.host := rfl
@[simp] theorem setEntry_mem : (setEntry e s).mem = s.mem := rfl
@[simp] theorem setEntry_tru : (setEntry e s).tru = s.tru := rfl
@[simp] theorem setEntry_start : (setEntry e s).start = s.start := rfl
@[simp] theorem setEntry_pwr : (setEntry e s).pwr = s.pwr := rfl
@[simp] theorem setEntry_cool : (setEntry e s).cool = s.cool := rfl
@[simp] theorem setEntry_flt : (setEntry e s).flt = s.flt := rfl
@[simp] theorem setEntry_mgmt : (setEntry e s).mgmt = s.mgmt := rfl
@[simp] theorem setEntry_tel : (setEntry e s).tel = s.tel := rfl
@[simp] theorem setEntry_ctr : (setEntry e s).ctr = s.ctr := rfl
@[simp] theorem setEntry_out : (setEntry e s).out = s.out := rfl
@[simp] theorem setEntry_free : (setEntry e s).free = s.free := rfl
@[simp] theorem setEntry_sch_reqs : (setEntry e s).sch.reqs = s.sch.reqs := rfl
@[simp] theorem setEntry_sch_nextReq : (setEntry e s).sch.nextReq = s.sch.nextReq := rfl
@[simp] theorem setEntry_sch_queues : (setEntry e s).sch.queues = s.sch.queues := rfl
@[simp] theorem setEntry_sch_closed : (setEntry e s).sch.closed = s.sch.closed := rfl
@[simp] theorem setEntry_sch_peak : (setEntry e s).sch.peak = s.sch.peak := rfl
@[simp] theorem setEntry_sch_applied : (setEntry e s).sch.applied = s.sch.applied := rfl
@[simp] theorem setEntry_sch_checks : (setEntry e s).sch.checks = s.sch.checks := rfl
@[simp] theorem setEntry_sch_slotTaken : (setEntry e s).sch.slotTaken = s.sch.slotTaken := rfl
@[simp] theorem setEntry_sch_extraRefresh : (setEntry e s).sch.extraRefresh = s.sch.extraRefresh := rfl
@[simp] theorem setEntry_sch_retrainNext : (setEntry e s).sch.retrainNext = s.sch.retrainNext := rfl
@[simp] theorem setEntry_sch_slipNow : (setEntry e s).sch.slipNow = s.sch.slipNow := rfl
@[simp] theorem setEntry_sch_slipPrev : (setEntry e s).sch.slipPrev = s.sch.slipPrev := rfl
@[simp] theorem setEntry_sch_unordered : (setEntry e s).sch.unordered = s.sch.unordered := rfl
end setEntry

section markApplied
variable (i l : Nat) (s : State)
@[simp] theorem markApplied_pending : (markApplied i l s).pending = s.pending := rfl
@[simp] theorem markApplied_time : (markApplied i l s).time = s.time := rfl
@[simp] theorem markApplied_bar : (markApplied i l s).bar = s.bar := rfl
@[simp] theorem markApplied_dir : (markApplied i l s).dir = s.dir := rfl
@[simp] theorem markApplied_res : (markApplied i l s).res = s.res := rfl
@[simp] theorem markApplied_fsh : (markApplied i l s).fsh = s.fsh := rfl
@[simp] theorem markApplied_gravers : (markApplied i l s).gravers = s.gravers := rfl
@[simp] theorem markApplied_plt : (markApplied i l s).plt = s.plt := rfl
@[simp] theorem markApplied_ports : (markApplied i l s).ports = s.ports := rfl
@[simp] theorem markApplied_tfx : (markApplied i l s).tfx = s.tfx := rfl
@[simp] theorem markApplied_host : (markApplied i l s).host = s.host := rfl
@[simp] theorem markApplied_mem : (markApplied i l s).mem = s.mem := rfl
@[simp] theorem markApplied_tru : (markApplied i l s).tru = s.tru := rfl
@[simp] theorem markApplied_start : (markApplied i l s).start = s.start := rfl
@[simp] theorem markApplied_pwr : (markApplied i l s).pwr = s.pwr := rfl
@[simp] theorem markApplied_cool : (markApplied i l s).cool = s.cool := rfl
@[simp] theorem markApplied_flt : (markApplied i l s).flt = s.flt := rfl
@[simp] theorem markApplied_mgmt : (markApplied i l s).mgmt = s.mgmt := rfl
@[simp] theorem markApplied_tel : (markApplied i l s).tel = s.tel := rfl
@[simp] theorem markApplied_ctr : (markApplied i l s).ctr = s.ctr := rfl
@[simp] theorem markApplied_out : (markApplied i l s).out = s.out := rfl
@[simp] theorem markApplied_free : (markApplied i l s).free = s.free := rfl
@[simp] theorem markApplied_sch_applied : (markApplied i l s).sch.applied = s.sch.applied ++ [(i, l)] := rfl
@[simp] theorem markApplied_sch_reqs : (markApplied i l s).sch.reqs = s.sch.reqs := rfl
@[simp] theorem markApplied_sch_nextReq : (markApplied i l s).sch.nextReq = s.sch.nextReq := rfl
@[simp] theorem markApplied_sch_queues : (markApplied i l s).sch.queues = s.sch.queues := rfl
@[simp] theorem markApplied_sch_entries : (markApplied i l s).sch.entries = s.sch.entries := rfl
@[simp] theorem markApplied_sch_closed : (markApplied i l s).sch.closed = s.sch.closed := rfl
@[simp] theorem markApplied_sch_peak : (markApplied i l s).sch.peak = s.sch.peak := rfl
@[simp] theorem markApplied_sch_checks : (markApplied i l s).sch.checks = s.sch.checks := rfl
@[simp] theorem markApplied_sch_slotTaken : (markApplied i l s).sch.slotTaken = s.sch.slotTaken := rfl
@[simp] theorem markApplied_sch_extraRefresh : (markApplied i l s).sch.extraRefresh = s.sch.extraRefresh := rfl
@[simp] theorem markApplied_sch_retrainNext : (markApplied i l s).sch.retrainNext = s.sch.retrainNext := rfl
@[simp] theorem markApplied_sch_slipNow : (markApplied i l s).sch.slipNow = s.sch.slipNow := rfl
@[simp] theorem markApplied_sch_slipPrev : (markApplied i l s).sch.slipPrev = s.sch.slipPrev := rfl
@[simp] theorem markApplied_sch_unordered : (markApplied i l s).sch.unordered = s.sch.unordered := rfl
end markApplied

section setKeyPos
variable (slot pos : Nat) (v : KeyPos) (s : State)
@[simp] theorem setKeyPos_pending : (setKeyPos slot pos v s).pending = s.pending := rfl
@[simp] theorem setKeyPos_time : (setKeyPos slot pos v s).time = s.time := rfl
@[simp] theorem setKeyPos_bar : (setKeyPos slot pos v s).bar = s.bar := rfl
@[simp] theorem setKeyPos_dir : (setKeyPos slot pos v s).dir = s.dir := rfl
@[simp] theorem setKeyPos_res : (setKeyPos slot pos v s).res = s.res := rfl
@[simp] theorem setKeyPos_fsh : (setKeyPos slot pos v s).fsh = s.fsh := rfl
@[simp] theorem setKeyPos_gravers : (setKeyPos slot pos v s).gravers = s.gravers := rfl
@[simp] theorem setKeyPos_plt : (setKeyPos slot pos v s).plt = s.plt := rfl
@[simp] theorem setKeyPos_sch : (setKeyPos slot pos v s).sch = s.sch := rfl
@[simp] theorem setKeyPos_ports : (setKeyPos slot pos v s).ports = s.ports := rfl
@[simp] theorem setKeyPos_tfx : (setKeyPos slot pos v s).tfx = s.tfx := rfl
@[simp] theorem setKeyPos_host : (setKeyPos slot pos v s).host = s.host := rfl
@[simp] theorem setKeyPos_mem : (setKeyPos slot pos v s).mem = s.mem := rfl
@[simp] theorem setKeyPos_start : (setKeyPos slot pos v s).start = s.start := rfl
@[simp] theorem setKeyPos_pwr : (setKeyPos slot pos v s).pwr = s.pwr := rfl
@[simp] theorem setKeyPos_cool : (setKeyPos slot pos v s).cool = s.cool := rfl
@[simp] theorem setKeyPos_flt : (setKeyPos slot pos v s).flt = s.flt := rfl
@[simp] theorem setKeyPos_mgmt : (setKeyPos slot pos v s).mgmt = s.mgmt := rfl
@[simp] theorem setKeyPos_tel : (setKeyPos slot pos v s).tel = s.tel := rfl
@[simp] theorem setKeyPos_ctr : (setKeyPos slot pos v s).ctr = s.ctr := rfl
@[simp] theorem setKeyPos_out : (setKeyPos slot pos v s).out = s.out := rfl
@[simp] theorem setKeyPos_free : (setKeyPos slot pos v s).free = s.free := rfl
@[simp] theorem setKeyPos_tru_keys : (setKeyPos slot pos v s).tru.keys = put {} s.tru.keys (2 * slot + pos) v := rfl
@[simp] theorem setKeyPos_tru_latches : (setKeyPos slot pos v s).tru.latches = s.tru.latches := rfl
@[simp] theorem setKeyPos_tru_keyWrites : (setKeyPos slot pos v s).tru.keyWrites = s.tru.keyWrites := rfl
@[simp] theorem setKeyPos_tru_offers : (setKeyPos slot pos v s).tru.offers = s.tru.offers := rfl
@[simp] theorem setKeyPos_tru_curve : (setKeyPos slot pos v s).tru.curve = s.tru.curve := rfl
@[simp] theorem setKeyPos_tru_curveAt : (setKeyPos slot pos v s).tru.curveAt = s.tru.curveAt := rfl
@[simp] theorem setKeyPos_tru_busy : (setKeyPos slot pos v s).tru.busy = s.tru.busy := rfl
@[simp] theorem setKeyPos_tru_code : (setKeyPos slot pos v s).tru.code = s.tru.code := rfl
@[simp] theorem setKeyPos_tru_reason : (setKeyPos slot pos v s).tru.reason = s.tru.reason := rfl
@[simp] theorem setKeyPos_tru_respLen : (setKeyPos slot pos v s).tru.respLen = s.tru.respLen := rfl
@[simp] theorem setKeyPos_tru_cmd : (setKeyPos slot pos v s).tru.cmd = s.tru.cmd := rfl
@[simp] theorem setKeyPos_tru_lifecycle : (setKeyPos slot pos v s).tru.lifecycle = s.tru.lifecycle := rfl
@[simp] theorem setKeyPos_tru_idOk : (setKeyPos slot pos v s).tru.idOk = s.tru.idOk := rfl
@[simp] theorem setKeyPos_tru_fwOk : (setKeyPos slot pos v s).tru.fwOk = s.tru.fwOk := rfl
@[simp] theorem setKeyPos_tru_svnTc : (setKeyPos slot pos v s).tru.svnTc = s.tru.svnTc := rfl
@[simp] theorem setKeyPos_tru_svnHub : (setKeyPos slot pos v s).tru.svnHub = s.tru.svnHub := rfl
@[simp] theorem setKeyPos_tru_measuredSvn : (setKeyPos slot pos v s).tru.measuredSvn = s.tru.measuredSvn := rfl
@[simp] theorem setKeyPos_tru_burntTc : (setKeyPos slot pos v s).tru.burntTc = s.tru.burntTc := rfl
@[simp] theorem setKeyPos_tru_burntHub : (setKeyPos slot pos v s).tru.burntHub = s.tru.burntHub := rfl
@[simp] theorem setKeyPos_tru_tdis : (setKeyPos slot pos v s).tru.tdis = s.tru.tdis := rfl
@[simp] theorem setKeyPos_tru_tdiSession : (setKeyPos slot pos v s).tru.tdiSession = s.tru.tdiSession := rfl
@[simp] theorem setKeyPos_tru_scrubs : (setKeyPos slot pos v s).tru.scrubs = s.tru.scrubs := rfl
@[simp] theorem setKeyPos_tru_scrubFailed : (setKeyPos slot pos v s).tru.scrubFailed = s.tru.scrubFailed := rfl
@[simp] theorem setKeyPos_tru_streams : (setKeyPos slot pos v s).tru.streams = s.tru.streams := rfl
@[simp] theorem setKeyPos_tru_sessions : (setKeyPos slot pos v s).tru.sessions = s.tru.sessions := rfl
@[simp] theorem setKeyPos_tru_nextSession : (setKeyPos slot pos v s).tru.nextSession = s.tru.nextSession := rfl
@[simp] theorem setKeyPos_tru_draws : (setKeyPos slot pos v s).tru.draws = s.tru.draws := rfl
end setKeyPos

section setTdi
variable (n : Nat) (t : Tdi) (s : State)
@[simp] theorem setTdi_pending : (setTdi n t s).pending = s.pending := rfl
@[simp] theorem setTdi_time : (setTdi n t s).time = s.time := rfl
@[simp] theorem setTdi_bar : (setTdi n t s).bar = s.bar := rfl
@[simp] theorem setTdi_dir : (setTdi n t s).dir = s.dir := rfl
@[simp] theorem setTdi_res : (setTdi n t s).res = s.res := rfl
@[simp] theorem setTdi_fsh : (setTdi n t s).fsh = s.fsh := rfl
@[simp] theorem setTdi_gravers : (setTdi n t s).gravers = s.gravers := rfl
@[simp] theorem setTdi_plt : (setTdi n t s).plt = s.plt := rfl
@[simp] theorem setTdi_sch : (setTdi n t s).sch = s.sch := rfl
@[simp] theorem setTdi_ports : (setTdi n t s).ports = s.ports := rfl
@[simp] theorem setTdi_tfx : (setTdi n t s).tfx = s.tfx := rfl
@[simp] theorem setTdi_host : (setTdi n t s).host = s.host := rfl
@[simp] theorem setTdi_mem : (setTdi n t s).mem = s.mem := rfl
@[simp] theorem setTdi_start : (setTdi n t s).start = s.start := rfl
@[simp] theorem setTdi_pwr : (setTdi n t s).pwr = s.pwr := rfl
@[simp] theorem setTdi_cool : (setTdi n t s).cool = s.cool := rfl
@[simp] theorem setTdi_flt : (setTdi n t s).flt = s.flt := rfl
@[simp] theorem setTdi_mgmt : (setTdi n t s).mgmt = s.mgmt := rfl
@[simp] theorem setTdi_tel : (setTdi n t s).tel = s.tel := rfl
@[simp] theorem setTdi_ctr : (setTdi n t s).ctr = s.ctr := rfl
@[simp] theorem setTdi_out : (setTdi n t s).out = s.out := rfl
@[simp] theorem setTdi_free : (setTdi n t s).free = s.free := rfl
@[simp] theorem setTdi_tru_tdis : (setTdi n t s).tru.tdis = put .unlocked s.tru.tdis n t := rfl
@[simp] theorem setTdi_tru_keys : (setTdi n t s).tru.keys = s.tru.keys := rfl
@[simp] theorem setTdi_tru_latches : (setTdi n t s).tru.latches = s.tru.latches := rfl
@[simp] theorem setTdi_tru_keyWrites : (setTdi n t s).tru.keyWrites = s.tru.keyWrites := rfl
@[simp] theorem setTdi_tru_offers : (setTdi n t s).tru.offers = s.tru.offers := rfl
@[simp] theorem setTdi_tru_curve : (setTdi n t s).tru.curve = s.tru.curve := rfl
@[simp] theorem setTdi_tru_curveAt : (setTdi n t s).tru.curveAt = s.tru.curveAt := rfl
@[simp] theorem setTdi_tru_busy : (setTdi n t s).tru.busy = s.tru.busy := rfl
@[simp] theorem setTdi_tru_code : (setTdi n t s).tru.code = s.tru.code := rfl
@[simp] theorem setTdi_tru_reason : (setTdi n t s).tru.reason = s.tru.reason := rfl
@[simp] theorem setTdi_tru_respLen : (setTdi n t s).tru.respLen = s.tru.respLen := rfl
@[simp] theorem setTdi_tru_cmd : (setTdi n t s).tru.cmd = s.tru.cmd := rfl
@[simp] theorem setTdi_tru_lifecycle : (setTdi n t s).tru.lifecycle = s.tru.lifecycle := rfl
@[simp] theorem setTdi_tru_idOk : (setTdi n t s).tru.idOk = s.tru.idOk := rfl
@[simp] theorem setTdi_tru_fwOk : (setTdi n t s).tru.fwOk = s.tru.fwOk := rfl
@[simp] theorem setTdi_tru_svnTc : (setTdi n t s).tru.svnTc = s.tru.svnTc := rfl
@[simp] theorem setTdi_tru_svnHub : (setTdi n t s).tru.svnHub = s.tru.svnHub := rfl
@[simp] theorem setTdi_tru_measuredSvn : (setTdi n t s).tru.measuredSvn = s.tru.measuredSvn := rfl
@[simp] theorem setTdi_tru_burntTc : (setTdi n t s).tru.burntTc = s.tru.burntTc := rfl
@[simp] theorem setTdi_tru_burntHub : (setTdi n t s).tru.burntHub = s.tru.burntHub := rfl
@[simp] theorem setTdi_tru_tdiSession : (setTdi n t s).tru.tdiSession = s.tru.tdiSession := rfl
@[simp] theorem setTdi_tru_scrubs : (setTdi n t s).tru.scrubs = s.tru.scrubs := rfl
@[simp] theorem setTdi_tru_scrubFailed : (setTdi n t s).tru.scrubFailed = s.tru.scrubFailed := rfl
@[simp] theorem setTdi_tru_streams : (setTdi n t s).tru.streams = s.tru.streams := rfl
@[simp] theorem setTdi_tru_sessions : (setTdi n t s).tru.sessions = s.tru.sessions := rfl
@[simp] theorem setTdi_tru_nextSession : (setTdi n t s).tru.nextSession = s.tru.nextSession := rfl
@[simp] theorem setTdi_tru_draws : (setTdi n t s).tru.draws = s.tru.draws := rfl
end setTdi

section setBank
variable (k b : Nat) (v : Bank) (s : State)
@[simp] theorem setBank_pending : (setBank k b v s).pending = s.pending := rfl
@[simp] theorem setBank_time : (setBank k b v s).time = s.time := rfl
@[simp] theorem setBank_bar : (setBank k b v s).bar = s.bar := rfl
@[simp] theorem setBank_dir : (setBank k b v s).dir = s.dir := rfl
@[simp] theorem setBank_res : (setBank k b v s).res = s.res := rfl
@[simp] theorem setBank_fsh : (setBank k b v s).fsh = s.fsh := rfl
@[simp] theorem setBank_gravers : (setBank k b v s).gravers = s.gravers := rfl
@[simp] theorem setBank_plt : (setBank k b v s).plt = s.plt := rfl
@[simp] theorem setBank_sch : (setBank k b v s).sch = s.sch := rfl
@[simp] theorem setBank_ports : (setBank k b v s).ports = s.ports := rfl
@[simp] theorem setBank_tfx : (setBank k b v s).tfx = s.tfx := rfl
@[simp] theorem setBank_host : (setBank k b v s).host = s.host := rfl
@[simp] theorem setBank_mem : (setBank k b v s).mem = s.mem := rfl
@[simp] theorem setBank_tru : (setBank k b v s).tru = s.tru := rfl
@[simp] theorem setBank_start : (setBank k b v s).start = s.start := rfl
@[simp] theorem setBank_pwr : (setBank k b v s).pwr = s.pwr := rfl
@[simp] theorem setBank_cool : (setBank k b v s).cool = s.cool := rfl
@[simp] theorem setBank_flt : (setBank k b v s).flt = s.flt := rfl
@[simp] theorem setBank_tel : (setBank k b v s).tel = s.tel := rfl
@[simp] theorem setBank_ctr : (setBank k b v s).ctr = s.ctr := rfl
@[simp] theorem setBank_out : (setBank k b v s).out = s.out := rfl
@[simp] theorem setBank_free : (setBank k b v s).free = s.free := rfl
@[simp] theorem setBank_mgmt_banks : (setBank k b v s).mgmt.banks = put {} s.mgmt.banks (2 * k + b) v := rfl
@[simp] theorem setBank_mgmt_eidSmbus : (setBank k b v s).mgmt.eidSmbus = s.mgmt.eidSmbus := rfl
@[simp] theorem setBank_mgmt_eidI3c : (setBank k b v s).mgmt.eidI3c = s.mgmt.eidI3c := rfl
@[simp] theorem setBank_mgmt_eidPcie : (setBank k b v s).mgmt.eidPcie = s.mgmt.eidPcie := rfl
@[simp] theorem setBank_mgmt_tcBank : (setBank k b v s).mgmt.tcBank = s.mgmt.tcBank := rfl
@[simp] theorem setBank_mgmt_hubBank : (setBank k b v s).mgmt.hubBank = s.mgmt.hubBank := rfl
@[simp] theorem setBank_mgmt_tcNext : (setBank k b v s).mgmt.tcNext = s.mgmt.tcNext := rfl
@[simp] theorem setBank_mgmt_hubNext : (setBank k b v s).mgmt.hubNext = s.mgmt.hubNext := rfl
@[simp] theorem setBank_mgmt_update : (setBank k b v s).mgmt.update = s.mgmt.update := rfl
@[simp] theorem setBank_mgmt_component : (setBank k b v s).mgmt.component = s.mgmt.component := rfl
@[simp] theorem setBank_mgmt_agentAt : (setBank k b v s).mgmt.agentAt = s.mgmt.agentAt := rfl
@[simp] theorem setBank_mgmt_verifyFailed : (setBank k b v s).mgmt.verifyFailed = s.mgmt.verifyFailed := rfl
@[simp] theorem setBank_mgmt_tcVersion : (setBank k b v s).mgmt.tcVersion = s.mgmt.tcVersion := rfl
@[simp] theorem setBank_mgmt_hubVersion : (setBank k b v s).mgmt.hubVersion = s.mgmt.hubVersion := rfl
@[simp] theorem setBank_mgmt_assembly : (setBank k b v s).mgmt.assembly = s.mgmt.assembly := rfl
@[simp] theorem setBank_mgmt_messages : (setBank k b v s).mgmt.messages = s.mgmt.messages := rfl
@[simp] theorem setBank_mgmt_events : (setBank k b v s).mgmt.events = s.mgmt.events := rfl
@[simp] theorem setBank_mgmt_receiver : (setBank k b v s).mgmt.receiver = s.mgmt.receiver := rfl
@[simp] theorem setBank_mgmt_tries : (setBank k b v s).mgmt.tries = s.mgmt.tries := rfl
@[simp] theorem setBank_mgmt_triedAt : (setBank k b v s).mgmt.triedAt = s.mgmt.triedAt := rfl
@[simp] theorem setBank_mgmt_sensors : (setBank k b v s).mgmt.sensors = s.mgmt.sensors := rfl
@[simp] theorem setBank_mgmt_crossed : (setBank k b v s).mgmt.crossed = s.mgmt.crossed := rfl
@[simp] theorem setBank_mgmt_grade : (setBank k b v s).mgmt.grade = s.mgmt.grade := rfl
@[simp] theorem setBank_mgmt_serial : (setBank k b v s).mgmt.serial = s.mgmt.serial := rfl
end setBank

section setAssembly
variable (b : Nat) (a : Assembly) (s : State)
@[simp] theorem setAssembly_pending : (setAssembly b a s).pending = s.pending := rfl
@[simp] theorem setAssembly_time : (setAssembly b a s).time = s.time := rfl
@[simp] theorem setAssembly_bar : (setAssembly b a s).bar = s.bar := rfl
@[simp] theorem setAssembly_dir : (setAssembly b a s).dir = s.dir := rfl
@[simp] theorem setAssembly_res : (setAssembly b a s).res = s.res := rfl
@[simp] theorem setAssembly_fsh : (setAssembly b a s).fsh = s.fsh := rfl
@[simp] theorem setAssembly_gravers : (setAssembly b a s).gravers = s.gravers := rfl
@[simp] theorem setAssembly_plt : (setAssembly b a s).plt = s.plt := rfl
@[simp] theorem setAssembly_sch : (setAssembly b a s).sch = s.sch := rfl
@[simp] theorem setAssembly_ports : (setAssembly b a s).ports = s.ports := rfl
@[simp] theorem setAssembly_tfx : (setAssembly b a s).tfx = s.tfx := rfl
@[simp] theorem setAssembly_host : (setAssembly b a s).host = s.host := rfl
@[simp] theorem setAssembly_mem : (setAssembly b a s).mem = s.mem := rfl
@[simp] theorem setAssembly_tru : (setAssembly b a s).tru = s.tru := rfl
@[simp] theorem setAssembly_start : (setAssembly b a s).start = s.start := rfl
@[simp] theorem setAssembly_pwr : (setAssembly b a s).pwr = s.pwr := rfl
@[simp] theorem setAssembly_cool : (setAssembly b a s).cool = s.cool := rfl
@[simp] theorem setAssembly_flt : (setAssembly b a s).flt = s.flt := rfl
@[simp] theorem setAssembly_tel : (setAssembly b a s).tel = s.tel := rfl
@[simp] theorem setAssembly_ctr : (setAssembly b a s).ctr = s.ctr := rfl
@[simp] theorem setAssembly_out : (setAssembly b a s).out = s.out := rfl
@[simp] theorem setAssembly_free : (setAssembly b a s).free = s.free := rfl
@[simp] theorem setAssembly_mgmt_assembly : (setAssembly b a s).mgmt.assembly = put noAssembly s.mgmt.assembly b a := rfl
@[simp] theorem setAssembly_mgmt_eidSmbus : (setAssembly b a s).mgmt.eidSmbus = s.mgmt.eidSmbus := rfl
@[simp] theorem setAssembly_mgmt_eidI3c : (setAssembly b a s).mgmt.eidI3c = s.mgmt.eidI3c := rfl
@[simp] theorem setAssembly_mgmt_eidPcie : (setAssembly b a s).mgmt.eidPcie = s.mgmt.eidPcie := rfl
@[simp] theorem setAssembly_mgmt_tcBank : (setAssembly b a s).mgmt.tcBank = s.mgmt.tcBank := rfl
@[simp] theorem setAssembly_mgmt_hubBank : (setAssembly b a s).mgmt.hubBank = s.mgmt.hubBank := rfl
@[simp] theorem setAssembly_mgmt_tcNext : (setAssembly b a s).mgmt.tcNext = s.mgmt.tcNext := rfl
@[simp] theorem setAssembly_mgmt_hubNext : (setAssembly b a s).mgmt.hubNext = s.mgmt.hubNext := rfl
@[simp] theorem setAssembly_mgmt_update : (setAssembly b a s).mgmt.update = s.mgmt.update := rfl
@[simp] theorem setAssembly_mgmt_component : (setAssembly b a s).mgmt.component = s.mgmt.component := rfl
@[simp] theorem setAssembly_mgmt_agentAt : (setAssembly b a s).mgmt.agentAt = s.mgmt.agentAt := rfl
@[simp] theorem setAssembly_mgmt_verifyFailed : (setAssembly b a s).mgmt.verifyFailed = s.mgmt.verifyFailed := rfl
@[simp] theorem setAssembly_mgmt_banks : (setAssembly b a s).mgmt.banks = s.mgmt.banks := rfl
@[simp] theorem setAssembly_mgmt_tcVersion : (setAssembly b a s).mgmt.tcVersion = s.mgmt.tcVersion := rfl
@[simp] theorem setAssembly_mgmt_hubVersion : (setAssembly b a s).mgmt.hubVersion = s.mgmt.hubVersion := rfl
@[simp] theorem setAssembly_mgmt_messages : (setAssembly b a s).mgmt.messages = s.mgmt.messages := rfl
@[simp] theorem setAssembly_mgmt_events : (setAssembly b a s).mgmt.events = s.mgmt.events := rfl
@[simp] theorem setAssembly_mgmt_receiver : (setAssembly b a s).mgmt.receiver = s.mgmt.receiver := rfl
@[simp] theorem setAssembly_mgmt_tries : (setAssembly b a s).mgmt.tries = s.mgmt.tries := rfl
@[simp] theorem setAssembly_mgmt_triedAt : (setAssembly b a s).mgmt.triedAt = s.mgmt.triedAt := rfl
@[simp] theorem setAssembly_mgmt_sensors : (setAssembly b a s).mgmt.sensors = s.mgmt.sensors := rfl
@[simp] theorem setAssembly_mgmt_crossed : (setAssembly b a s).mgmt.crossed = s.mgmt.crossed := rfl
@[simp] theorem setAssembly_mgmt_grade : (setAssembly b a s).mgmt.grade = s.mgmt.grade := rfl
@[simp] theorem setAssembly_mgmt_serial : (setAssembly b a s).mgmt.serial = s.mgmt.serial := rfl
end setAssembly

section emit
variable (o : Output) (s : State)
@[simp] theorem emit_pending : (emit o s).pending = s.pending := rfl
@[simp] theorem emit_time : (emit o s).time = s.time := rfl
@[simp] theorem emit_bar : (emit o s).bar = s.bar := rfl
@[simp] theorem emit_dir : (emit o s).dir = s.dir := rfl
@[simp] theorem emit_res : (emit o s).res = s.res := rfl
@[simp] theorem emit_fsh : (emit o s).fsh = s.fsh := rfl
@[simp] theorem emit_gravers : (emit o s).gravers = s.gravers := rfl
@[simp] theorem emit_plt : (emit o s).plt = s.plt := rfl
@[simp] theorem emit_sch : (emit o s).sch = s.sch := rfl
@[simp] theorem emit_ports : (emit o s).ports = s.ports := rfl
@[simp] theorem emit_tfx : (emit o s).tfx = s.tfx := rfl
@[simp] theorem emit_host : (emit o s).host = s.host := rfl
@[simp] theorem emit_mem : (emit o s).mem = s.mem := rfl
@[simp] theorem emit_tru : (emit o s).tru = s.tru := rfl
@[simp] theorem emit_start : (emit o s).start = s.start := rfl
@[simp] theorem emit_pwr : (emit o s).pwr = s.pwr := rfl
@[simp] theorem emit_cool : (emit o s).cool = s.cool := rfl
@[simp] theorem emit_flt : (emit o s).flt = s.flt := rfl
@[simp] theorem emit_mgmt : (emit o s).mgmt = s.mgmt := rfl
@[simp] theorem emit_tel : (emit o s).tel = s.tel := rfl
@[simp] theorem emit_ctr : (emit o s).ctr = s.ctr := rfl
@[simp] theorem emit_free : (emit o s).free = s.free := rfl
@[simp] theorem emit_out : (emit o s).out = s.out ++ [o] := rfl
end emit

section tallyBy
variable (n : Nat) (c : Ctr) (s : State)
@[simp] theorem tallyBy_pending : (tallyBy n c s).pending = s.pending := rfl
@[simp] theorem tallyBy_time : (tallyBy n c s).time = s.time := rfl
@[simp] theorem tallyBy_bar : (tallyBy n c s).bar = s.bar := rfl
@[simp] theorem tallyBy_dir : (tallyBy n c s).dir = s.dir := rfl
@[simp] theorem tallyBy_res : (tallyBy n c s).res = s.res := rfl
@[simp] theorem tallyBy_fsh : (tallyBy n c s).fsh = s.fsh := rfl
@[simp] theorem tallyBy_gravers : (tallyBy n c s).gravers = s.gravers := rfl
@[simp] theorem tallyBy_plt : (tallyBy n c s).plt = s.plt := rfl
@[simp] theorem tallyBy_sch : (tallyBy n c s).sch = s.sch := rfl
@[simp] theorem tallyBy_ports : (tallyBy n c s).ports = s.ports := rfl
@[simp] theorem tallyBy_tfx : (tallyBy n c s).tfx = s.tfx := rfl
@[simp] theorem tallyBy_host : (tallyBy n c s).host = s.host := rfl
@[simp] theorem tallyBy_mem : (tallyBy n c s).mem = s.mem := rfl
@[simp] theorem tallyBy_tru : (tallyBy n c s).tru = s.tru := rfl
@[simp] theorem tallyBy_start : (tallyBy n c s).start = s.start := rfl
@[simp] theorem tallyBy_pwr : (tallyBy n c s).pwr = s.pwr := rfl
@[simp] theorem tallyBy_cool : (tallyBy n c s).cool = s.cool := rfl
@[simp] theorem tallyBy_flt : (tallyBy n c s).flt = s.flt := rfl
@[simp] theorem tallyBy_mgmt : (tallyBy n c s).mgmt = s.mgmt := rfl
@[simp] theorem tallyBy_tel : (tallyBy n c s).tel = s.tel := rfl
@[simp] theorem tallyBy_out : (tallyBy n c s).out = s.out := rfl
@[simp] theorem tallyBy_free : (tallyBy n c s).free = s.free := rfl
end tallyBy

end Sys2Proof.Machine
end

