-- ==== Sys2Proof/Laws/Frames.lean ====
section
/-! SUPPORT. What the shared operations can change: each equation names the one component that differs afterwards. -/

namespace Sys2Proof.Machine

/-! ### Events and faults -/

theorem interrupt_frame (f v : Nat) (s : State) : interrupt f v s = { s with out := s.out ++ [.msix f v] } := rfl

/-- A fault's record counts it, logs it and signals it; hold mode is another operation's. -/
theorem raiseRecord_frame (code unit : Nat) (args : List Byte) (s : State) :
    raiseRecord code unit args s =
      { s with ctr := (raiseRecord code unit args s).ctr, flt := (raiseRecord code unit args s).flt
               out := s.out ++ [.msix 0 6] } := by
  unfold raiseRecord interrupt emit
  rw [logRecord_frame]
  rfl

theorem raise_plain {code : Nat} (h : faultHold code = none) (unit : Nat) (args : List Byte) (s : State) :
    raise code unit args s = raiseRecord code unit args s := by
  unfold raise
  rw [h]

theorem raise_hold {code b : Nat} (h : faultHold code = some b) (unit : Nat) (args : List Byte) (s : State) :
    raise code unit args s = enterHold b (raiseRecord code unit args s) := by
  unfold raise
  rw [h]

/-- In hold mode, a further cause changes the cause alone. -/
theorem enterHold_again (b : Nat) {s : State} (h : s.pwr.hold = true) :
    enterHold b s = { s with pwr := { s.pwr with hold := true, holdCause := s.pwr.holdCause ||| 2 ^ b } } := by
  unfold enterHold
  simp [h]

/-! ### Host commands -/

theorem advanceCmd_frame (f cls : Nat) (s : State) : advanceCmd f cls s = { s with host := (advanceCmd f cls s).host } := by
  unfold advanceCmd
  dsimp only
  split <;> rfl

theorem endCommand_frame (f cls seq idx status reason value : Nat) (s : State) :
    endCommand f cls seq idx status reason value s =
      { s with host := (endCommand f cls seq idx status reason value s).host } := rfl

theorem finishCmd_frame (f cls status reason value : Nat) (s : State) :
    finishCmd f cls status reason value s = { s with host := (finishCmd f cls status reason value s).host } := by
  unfold finishCmd
  split
  · rw [endCommand_frame, advanceCmd_frame]
  · rfl

theorem settleGo_frame (f cls n : Nat) (s : State) : settleGo f cls n s = { s with host := (settleGo f cls n s).host } := by
  induction n generalizing s with
  | zero => rfl
  | succ n ih =>
    unfold settleGo
    split
    · split
      · rfl
      · rw [ih, finishCmd_frame]
    · rfl

theorem settle_frame (f cls : Nat) (s : State) : settle f cls s = { s with host := (settle f cls s).host } :=
  settleGo_frame f cls 1024 s

/-- The end of a command changes its queue alone. -/
theorem endCmd_frame (c : Cmd) (status reason value : Nat) (s : State) :
    endCmd c status reason value s = { s with host := (endCmd c status reason value s).host } := by
  unfold endCmd
  rw [settle_frame, finishCmd_frame]

theorem refuseCmd_frame (c : Cmd) (reason : Nat) (s : State) :
    refuseCmd c reason s = { s with host := (refuseCmd c reason s).host } := endCmd_frame c stMalformed reason 0 s

/-! ### Messages -/

theorem queueMsg_frame (c : Nat) (m : Post) (s : State) : queueMsg c m s = { s with tfx := (queueMsg c m s).tfx } := by
  unfold queueMsg
  dsimp only
  split <;> rfl

theorem sendCompletion_frame (c typ tag status bytes : Nat) (s : State) :
    sendCompletion c typ tag status bytes s = { s with tfx := (sendCompletion c typ tag status bytes s).tfx } :=
  queueMsg_frame c _ s

theorem returnCredit_frame (c cls len : Nat) (s : State) :
    returnCredit c cls len s = { s with tfx := (returnCredit c cls len s).tfx } := rfl

theorem returnToken_frame (c : Nat) (s : State) : returnToken c s = { s with tfx := (returnToken c s).tfx } := rfl

/-- A message is taken: the inbox and its connection's credit change, and nothing else. -/
theorem taken_frame (c cls len : Nat) (m : InMsg) (s : State) :
    returnCredit c cls len (inboxTake m s) = { s with tfx := (returnCredit c cls len (inboxTake m s)).tfx } := rfl

/-- A write to BAR2 changes the hub SRAM alone. -/
theorem b2Write_frame (f off : Nat) (bs : List Byte) (s : State) :
    b2Write f off bs s = { s with mem := { s.mem with bar2 := (b2Write f off bs s).mem.bar2 } } := by
  unfold b2Write
  split <;> rfl

/-! ### Free values -/

theorem pick_frame (n : Nat) (s : State) : (pick n s).2 = { s with free := (pick n s).2.free } := by
  unfold pick
  split <;> rfl

theorem freeValue_frame (s : State) : (freeValue s).2 = { s with free := s.free + 1 } := rfl

/-- A pick among `n` is below `n`, whatever the free value is. -/
theorem pick_lt {n : Nat} (h : 0 < n) (s : State) : (pick n s).1 < n := by
  unfold pick
  split
  · exact h
  · exact Nat.mod_lt _ h

end Sys2Proof.Machine
end

