-- ==== Sys2Proof/Laws/Memory.lean ====
section
/-! SUPPORT. The laws of byte memories: which byte a store changes, and the canonical form that every memory operation keeps. -/

namespace Sys2Proof.Machine

theorem look_append (m n : Mem) (x : Nat) :
    look (0 : Byte) (m ++ n) x = if (m.any fun y => y.1 == x) then look 0 m x else look 0 n x := by
  induction m with
  | nil => rfl
  | cons y t ih =>
    obtain ⟨k, v⟩ := y
    rw [List.cons_append, look_cons, look_cons, List.any_cons]
    by_cases h : k = x
    · rw [if_pos h, if_pos h, if_pos (by simp [h])]
    · rw [if_neg h, if_neg h, ih]
      have : (k == x) = false := by simpa using h
      rw [this, Bool.false_or]

/-- A read inside a filter on keys. -/
theorem look_filter (p : Nat → Bool) (m : Mem) (x : Nat) :
    look (0 : Byte) (m.filter fun y => p y.1) x = if p x then look 0 m x else 0 := by
  induction m with
  | nil => exact (ite_self _).symm
  | cons y t ih =>
    obtain ⟨k, v⟩ := y
    rw [List.filter_cons, look_cons]
    by_cases h : k = x
    · subst h
      by_cases hp : p k = true
      · rw [if_pos hp, if_pos hp, if_pos rfl, look_cons, if_pos rfl]
      · rw [if_neg hp, if_neg hp, ih, if_neg hp]
    · rw [if_neg h]
      by_cases hp : p k = true
      · rw [if_pos hp, look_cons, if_neg h, ih]
      · rw [if_neg hp, ih]

theorem look_of_not_any (m : Mem) (x : Nat) (h : (m.any fun y => y.1 == x) = false) : look (0 : Byte) m x = 0 := by
  induction m with
  | nil => rfl
  | cons y t ih =>
    obtain ⟨k, v⟩ := y
    simp only [List.any_cons, Bool.or_eq_false_iff, beq_eq_false_iff_ne, ne_eq] at h
    rw [look_cons, if_neg h.1, ih h.2]

theorem look_map_add (sl : Mem) (a x : Nat) :
    look (0 : Byte) (sl.map fun y => (y.1 + a, y.2)) x = if a ≤ x then look 0 sl (x - a) else 0 := by
  induction sl with
  | nil => simp
  | cons y t ih =>
    obtain ⟨k, v⟩ := y
    simp only [List.map_cons, look_cons, ih]
    by_cases h : k + a = x
    · rw [if_pos h, if_pos (by omega), if_pos (by omega)]
    · rw [if_neg h]
      split
      · rw [if_neg (by omega)]
      · rfl

/-- A byte of a memory in which a range has been replaced. -/
theorem memByte_memPlace (m : Mem) (a n : Nat) (sl : Mem) (hs : ∀ y ∈ sl, y.1 < n) (x : Nat) :
    memByte (memPlace m a n sl) x = if a ≤ x ∧ x < a + n then memByte sl (x - a) else memByte m x := by
  unfold memByte memPlace
  have e1 := look_filter (fun k => decide (k < a)) m x
  have e3 := look_filter (fun k => decide (a + n ≤ k)) m x
  have e2 := look_map_add sl a x
  have a1 : x < a ∨ ((m.filter fun y => decide (y.1 < a)).any fun y => y.1 == x) = false := by
    by_cases h : x < a
    · exact Or.inl h
    · refine Or.inr ?_
      rw [List.any_eq_false]
      intro y hy
      have := (List.mem_filter.mp hy).2
      simp only [decide_eq_true_eq] at this
      simp only [beq_iff_eq]
      omega
  have a2 : (a ≤ x ∧ x < a + n) ∨ ((sl.map fun y => (y.1 + a, y.2)).any fun y => y.1 == x) = false := by
    by_cases h : a ≤ x ∧ x < a + n
    · exact Or.inl h
    · refine Or.inr ?_
      rw [List.any_eq_false]
      intro y hy
      obtain ⟨z, hz, rfl⟩ := List.mem_map.mp hy
      have := hs z hz
      simp only [beq_iff_eq]
      omega
  rw [look_append, look_append]
  by_cases h1 : x < a
  · rw [if_neg (by omega : ¬ (a ≤ x ∧ x < a + n))]
    cases ha : (m.filter fun y => decide (y.1 < a)).any fun y => y.1 == x with
    | true =>
      simp only [ha, List.any_append, Bool.true_or, if_true]
      rw [e1, if_pos (by simpa using h1)]
    | false =>
      have hz := look_of_not_any _ _ ha
      rw [e1] at hz
      simp only [h1, decide_true, if_true] at hz
      have h2 : ((sl.map fun y => (y.1 + a, y.2)).any fun y => y.1 == x) = false := by
        rcases a2 with h | h
        · omega
        · exact h
      simp only [ha, h2, List.any_append, Bool.or_self, Bool.false_eq_true, if_false]
      rw [e3, hz]
      simp
  · have ha : ((m.filter fun y => decide (y.1 < a)).any fun y => y.1 == x) = false := a1.resolve_left h1
    by_cases h2 : a ≤ x ∧ x < a + n
    · rw [if_pos h2]
      cases hb : (sl.map fun y => (y.1 + a, y.2)).any fun y => y.1 == x with
      | true =>
        simp only [ha, hb, List.any_append, Bool.or_true, if_true]
        simp only [Bool.false_eq_true, if_false]
        rw [e2, if_pos h2.1]
      | false =>
        have hz := look_of_not_any _ _ hb
        rw [e2, if_pos h2.1] at hz
        simp only [ha, hb, List.any_append, Bool.or_self, Bool.false_eq_true, if_false]
        rw [e3, hz]
        simp; omega
    · rw [if_neg h2]
      have hb := a2.resolve_left h2
      simp only [ha, hb, List.any_append, Bool.or_self, Bool.false_eq_true, if_false]
      rw [e3, if_pos (by simp; omega)]

theorem sparse_bounds (bs : List Byte) (i : Nat) : ∀ y ∈ sparse bs i, i ≤ y.1 ∧ y.1 < i + bs.length := by
  induction bs generalizing i with
  | nil => simp [sparse]
  | cons b t ih =>
    intro y hy
    unfold sparse at hy
    simp only [List.length_cons]
    split at hy
    · have := ih (i + 1) y hy; omega
    · rcases List.mem_cons.mp hy with rfl | h
      · exact ⟨Nat.le_refl _, by omega⟩
      · have := ih (i + 1) y h; omega

theorem look_sparse (bs : List Byte) (i x : Nat) : look (0 : Byte) (sparse bs i) (i + x) = bs.getD x 0 := by
  induction bs generalizing i x with
  | nil => simp [sparse]
  | cons b t ih =>
    unfold sparse
    cases x with
    | zero =>
      split
      · rename_i h
        have : (sparse t (i + 1)).any (fun y => y.1 == i + 0) = false := by
          rw [List.any_eq_false]
          intro y hy
          have := sparse_bounds t (i + 1) y hy
          simp only [beq_iff_eq]; omega
        rw [look_of_not_any _ _ this]
        simp [h]
      · simp
    | succ x =>
      have e : i + (x + 1) = (i + 1) + x := by omega
      split
      · rw [e, ih]; simp
      · rw [look_cons, if_neg (by omega), e, ih]; simp

/-- A byte of a memory after a store: the stored bytes are read back, every other byte is unchanged. -/
theorem memByte_memWrite (m : Mem) (a : Nat) (bs : List Byte) (x : Nat) :
    memByte (memWrite m a bs) x = if a ≤ x ∧ x < a + bs.length then bs.getD (x - a) 0 else memByte m x := by
  unfold memWrite
  rw [memByte_memPlace _ _ _ _ (fun y hy => by have := sparse_bounds bs 0 y hy; omega)]
  split
  · have := look_sparse bs 0 (x - a)
    rw [Nat.zero_add] at this
    exact this
  · rfl

/-- A byte of a memory in which a range has been zeroed. -/
theorem memByte_memZero (m : Mem) (a n x : Nat) :
    memByte (memZero m a n) x = if a ≤ x ∧ x < a + n then 0 else memByte m x := by
  unfold memByte memZero
  rw [look_filter (fun k => decide (k < a) || decide (a + n ≤ k)) m x]
  by_cases h : a ≤ x ∧ x < a + n
  · rw [if_pos h, if_neg (by simp; omega)]
  · rw [if_neg h, if_pos (by simp; omega)]

/-! ### The canonical form -/

theorem storeFrom_sparse (bs : List Byte) (i : Nat) : storeFrom (0 : Byte) i (sparse bs i) = true := by
  induction bs generalizing i with
  | nil => rfl
  | cons b t ih =>
    unfold sparse
    split
    · exact storeFrom_mono (ih (i + 1)) (by omega)
    · rename_i h
      simp only [storeFrom, Bool.and_eq_true, decide_eq_true_eq]
      exact ⟨⟨Nat.le_refl _, h⟩, ih (i + 1)⟩

theorem storeFrom_append {lo mid : Nat} {m n : Mem} (hm : storeFrom (0 : Byte) lo m = true)
    (hb : ∀ y ∈ m, y.1 < mid) (hl : lo ≤ mid) (hn : storeFrom (0 : Byte) mid n = true) :
    storeFrom (0 : Byte) lo (m ++ n) = true := by
  induction m generalizing lo with
  | nil => exact storeFrom_mono hn hl
  | cons x t ih =>
    obtain ⟨k, v⟩ := x
    simp only [storeFrom, Bool.and_eq_true, decide_eq_true_eq] at hm
    simp only [List.cons_append, storeFrom, Bool.and_eq_true, decide_eq_true_eq]
    have hk : k < mid := hb (k, v) (by simp)
    exact ⟨hm.1, ih hm.2 (fun y hy => hb y (by simp [hy])) (by omega)⟩

theorem storeFrom_map_add {lo : Nat} {m : Mem} (h : storeFrom (0 : Byte) lo m = true) (a : Nat) :
    storeFrom (0 : Byte) (lo + a) (m.map fun y => (y.1 + a, y.2)) = true := by
  induction m generalizing lo with
  | nil => rfl
  | cons x t ih =>
    obtain ⟨k, v⟩ := x
    simp only [storeFrom, Bool.and_eq_true, decide_eq_true_eq] at h
    simp only [List.map_cons, storeFrom, Bool.and_eq_true, decide_eq_true_eq]
    refine ⟨⟨by omega, h.1.2⟩, ?_⟩
    have := ih h.2
    rw [show k + a + 1 = k + 1 + a by omega]
    exact this

theorem storeFrom_above {lo hi : Nat} {m : Mem} (h : storeFrom (0 : Byte) lo m = true) :
    storeFrom (0 : Byte) hi (m.filter fun y => decide (hi ≤ y.1)) = true := by
  induction m generalizing lo with
  | nil => rfl
  | cons x t ih =>
    obtain ⟨k, v⟩ := x
    simp only [storeFrom, Bool.and_eq_true, decide_eq_true_eq] at h
    rw [List.filter_cons]
    split
    · rename_i hk
      simp only [decide_eq_true_eq] at hk
      simp only [storeFrom, Bool.and_eq_true, decide_eq_true_eq]
      refine ⟨⟨hk, h.1.2⟩, ?_⟩
      exact storeFrom_filter h.2 _
    · exact ih h.2

/-- Replacing a range by a canonical slice keeps the canonical form. -/
theorem wf_memPlace {m sl : Mem} (hm : Memory.wf m = true) (hs : Memory.wf sl = true) (a n : Nat)
    (hb : ∀ y ∈ sl, y.1 < n) : Memory.wf (memPlace m a n sl) = true := by
  unfold Memory.wf storeWf memPlace at *
  rw [List.append_assoc]
  refine storeFrom_append (mid := a) (storeFrom_filter hm _) ?_ (Nat.zero_le _) ?_
  · intro y hy
    have := (List.mem_filter.mp hy).2
    simpa using this
  · refine storeFrom_append (mid := a + n) ?_ ?_ (by omega) (storeFrom_above hm)
    · have := storeFrom_map_add hs a
      rwa [Nat.zero_add] at this
    · intro y hy
      obtain ⟨z, hz, rfl⟩ := List.mem_map.mp hy
      have := hb z hz
      show z.1 + a < a + n
      omega

/-- A store keeps the canonical form. -/
theorem wf_memWrite {m : Mem} (hm : Memory.wf m = true) (a : Nat) (bs : List Byte) :
    Memory.wf (memWrite m a bs) = true :=
  wf_memPlace hm (storeFrom_sparse bs 0) a _ fun y hy => by have := sparse_bounds bs 0 y hy; omega

/-- Zeroing a range keeps the canonical form. -/
theorem wf_memZero {m : Mem} (hm : Memory.wf m = true) (a n : Nat) : Memory.wf (memZero m a n) = true :=
  storeWf_filter hm _

theorem memSlice_bounds (m : Mem) (a n : Nat) : ∀ y ∈ memSlice m a n, y.1 < n := by
  intro y hy
  obtain ⟨x, _, hx⟩ := List.mem_filterMap.mp hy
  split at hx
  · cases hx
    show x.1 - a < n
    omega
  · cases hx

theorem storeFrom_memSlice {lo : Nat} {m : Mem} (h : storeFrom (0 : Byte) lo m = true) (a n : Nat) :
    storeFrom (0 : Byte) (lo - a) (memSlice m a n) = true := by
  induction m generalizing lo with
  | nil => rfl
  | cons x t ih =>
    obtain ⟨k, v⟩ := x
    simp only [storeFrom, Bool.and_eq_true, decide_eq_true_eq] at h
    have e : memSlice ((k, v) :: t) a n = (if a ≤ k ∧ k < a + n then (k - a, v) :: memSlice t a n else memSlice t a n) := by
      simp only [memSlice, List.filterMap_cons]
      split <;> simp_all
    rw [e]
    split
    · simp only [storeFrom, Bool.and_eq_true, decide_eq_true_eq]
      refine ⟨⟨by omega, h.1.2⟩, ?_⟩
      have := ih h.2
      rwa [show k + 1 - a = k - a + 1 by omega] at this
    · exact storeFrom_mono (ih h.2) (by omega)

/-- A slice is canonical. -/
theorem wf_memSlice {m : Mem} (hm : Memory.wf m = true) (a n : Nat) : Memory.wf (memSlice m a n) = true := by
  have := storeFrom_memSlice hm a n
  rwa [Nat.zero_sub] at this

/-- Copying a range between memories keeps the canonical form. -/
theorem wf_copy {m m' : Mem} (hm : Memory.wf m = true) (hm' : Memory.wf m' = true) (a b n : Nat) :
    Memory.wf (memPlace m a n (memSlice m' b n)) = true :=
  wf_memPlace hm (wf_memSlice hm' b n) a n (memSlice_bounds m' b n)

/-! ### Pages (02_kv_pages.md R42) -/

/-- A page replaced by a canonical slice keeps the canonical form. -/
theorem wf_writePage {m sl : Mem} (hm : Memory.wf m = true) (hs : Memory.wf sl = true) (p : Place) :
    Memory.wf (writePage m p sl) = true :=
  wf_copy (wf_copy hm hs p.data 0 65536) hs p.scale 65536 4096

/-- Pages made zero keep the canonical form. -/
theorem wf_zeroPages {m : Mem} (hm : Memory.wf m = true) (p : Place) (n : Nat) : Memory.wf (zeroPages m p n) = true :=
  wf_memZero (wf_memZero hm p.data _) p.scale _

/-- A page's bytes are a canonical slice. -/
theorem wf_readPage {m : Mem} (hm : Memory.wf m = true) (p : Place) : Memory.wf (readPage m p) = true := by
  have h := storeFrom_map_add (wf_memSlice hm p.scale 4096) 65536
  rw [Nat.zero_add] at h
  exact storeFrom_append (wf_memSlice hm p.data 65536) (memSlice_bounds m p.data 65536) (Nat.zero_le _) h

/-- A page's bytes lie below 69,632. -/
theorem readPage_bounds (m : Mem) (p : Place) : ∀ y ∈ readPage m p, y.1 < pageBytes := by
  intro y hy
  rcases List.mem_append.mp hy with h | h
  · have := memSlice_bounds m p.data 65536 y h
    show y.1 < 69632
    omega
  · obtain ⟨z, hz, rfl⟩ := List.mem_map.mp h
    have := memSlice_bounds m p.scale 4096 z hz
    show z.1 + 65536 < 69632
    omega

/-- A page copied from another place keeps the canonical form. -/
theorem wf_copyPage {m : Mem} (hm : Memory.wf m = true) (p q : Place) : Memory.wf (writePage m p (readPage m q)) = true :=
  wf_writePage hm (wf_readPage hm q) p

/-- A byte outside a page's data slot and scale plane is not touched when the page is replaced. -/
theorem memByte_writePage_other {m : Mem} (sl : Mem) {p : Place} {x : Nat} (hd : x < p.data ∨ p.data + 65536 ≤ x)
    (hs : x < p.scale ∨ p.scale + 4096 ≤ x) : memByte (writePage m p sl) x = memByte m x := by
  unfold writePage
  rw [memByte_memPlace _ _ _ _ (memSlice_bounds sl 65536 4096), if_neg (by omega),
    memByte_memPlace _ _ _ _ (memSlice_bounds sl 0 65536), if_neg (by omega)]

/-- Every byte of pages made zero reads zero, and every other byte as before. -/
theorem memByte_zeroPages (m : Mem) (p : Place) (n x : Nat) :
    memByte (zeroPages m p n) x =
      if (p.data ≤ x ∧ x < p.data + n * 65536) ∨ (p.scale ≤ x ∧ x < p.scale + n * 4096) then 0 else memByte m x := by
  unfold zeroPages
  rw [memByte_memZero, memByte_memZero]
  split
  · rename_i h
    rw [if_pos (.inr h)]
  · rename_i h
    split
    · rename_i h2
      rw [if_pos (.inl h2)]
    · rename_i h2
      rw [if_neg (by omega)]

theorem dense_sparse (bs : List Byte) (i : Nat) : dense (sparse bs i) i bs.length = bs := by
  induction bs generalizing i with
  | nil => rfl
  | cons b t ih =>
    unfold sparse
    split
    · rename_i h
      have hb := sparse_bounds t (i + 1)
      have e := ih (i + 1)
      rw [h, List.length_cons]
      cases hs : sparse t (i + 1) with
      | nil => rw [hs] at e; simp only [dense]; rw [e]
      | cons y r =>
        have := hb y (by rw [hs]; exact List.mem_cons_self ..)
        rw [hs] at e
        obtain ⟨k, v⟩ := y
        simp only [dense]
        rw [if_neg (by simp only at this; omega), e]
    · rw [List.length_cons]; simp only [dense, if_true]; rw [ih]

/-- A range reads back as the bytes stored to it. -/
theorem memRead_memWrite (m : Mem) (a : Nat) (bs : List Byte) : memRead (memWrite m a bs) a bs.length = bs := by
  have h : memSlice (memWrite m a bs) a bs.length = sparse bs 0 := by
    unfold memSlice memWrite memPlace
    rw [List.filterMap_append, List.filterMap_append, List.filterMap_filter, List.filterMap_filter, List.filterMap_map]
    have h1 : (m.filterMap fun x => if decide (x.1 < a) = true then (if a ≤ x.1 ∧ x.1 < a + bs.length then some (x.1 - a, x.2) else none)
        else none) = [] := by
      rw [List.filterMap_eq_nil_iff]
      intro x _; split <;> simp at *; omega
    have h2 : (m.filterMap fun x => if decide (a + bs.length ≤ x.1) = true then (if a ≤ x.1 ∧ x.1 < a + bs.length then some (x.1 - a, x.2)
        else none) else none) = [] := by
      rw [List.filterMap_eq_nil_iff]
      intro x _; split <;> simp at *; omega
    rw [h1, h2, List.nil_append, List.append_nil]
    conv => rhs; rw [← List.filterMap_some (l := sparse bs 0)]
    apply List.filterMap_congr
    intro x hx
    have := sparse_bounds bs 0 x hx
    simp; omega
  rw [memRead, h, dense_sparse]

end Sys2Proof.Machine
end

