-- ==== Sys2Proof/Laws/Shared.lean ====
section
/-! SUPPORT. What the shared operations on issue cycles, links, keys, wear and the translation layer can do: each lemma says once
which component they change. -/

namespace Sys2Proof.Machine

/-! ### Issue cycles of the directory (03_page_directory.md R65; 09_strokes_and_passes.md R247, R248) -/

theorem takeFree_some {n : Nat} {s t : State} (h : takeFree n s = some t) :
    n ≤ s.dir.freeCycles ∧ t = { s with dir := { s.dir with freeCycles := s.dir.freeCycles - n } } := by
  unfold takeFree at h
  split at h
  · exact ⟨‹_›, (Option.some.inj h).symm⟩
  · cases h

/-- A node operation that goes ahead changes cycles alone, of one range or of the free ones. -/
theorem takeNode_frame {n : Nat} {s t : State} (h : takeNode n s = some t) :
    t = { s with dir := { s.dir with nodeRanges := t.dir.nodeRanges, freeCycles := t.dir.freeCycles } } := by
  unfold takeNode at h
  split at h
  · cases h; rfl
  · split at h
    · rw [(takeFree_some h).2]
    · cases h

/-- So does a port command that goes ahead. -/
theorem takePort_frame {n : Nat} {s t : State} (h : takePort n s = some t) :
    t = { s with dir := { s.dir with portRanges := t.dir.portRanges, freeCycles := t.dir.freeCycles } } := by
  unfold takePort at h
  split at h
  · cases h; rfl
  · split at h
    · rw [(takeFree_some h).2]
    · cases h

theorem takeEach_frame (l : List Nat) (s : State) :
    (takeEach l s).2 =
      { s with dir := { s.dir with nodeRanges := (takeEach l s).2.dir.nodeRanges, freeCycles := (takeEach l s).2.dir.freeCycles } } := by
  induction l generalizing s with
  | nil => rfl
  | cons c t ih =>
    unfold takeEach
    cases h : takeNode c s with
    | none => rfl
    | some s' =>
      show (takeEach t s').2 = _
      rw [ih s', takeNode_frame h]

/-- Paying for a write's updates changes cycles and what has been paid. -/
theorem payNode_frame (key : Nat) (costs : List Nat) (s : State) :
    (payNode key costs s).2 =
      { s with dir := { s.dir with nodeRanges := (payNode key costs s).2.dir.nodeRanges
                                   freeCycles := (payNode key costs s).2.dir.freeCycles
                                   paid := (payNode key costs s).2.dir.paid } } := by
  unfold payNode
  dsimp only
  split <;> (dsimp only; rw [takeEach_frame])

/-! ### Links of the stacks (09_strokes_and_passes.md R244) -/

theorem linkUsed_frame (sts : List Nat) (use : Nat) (s : State) :
    linkUsed sts use s = { s with res := { s.res with linkDone := (linkUsed sts use s).res.linkDone } } := rfl

/-- A refresh stroke stops every transfer (R246). -/
theorem linkServes_refresh {st use : Nat} {s : State} (h : refreshes st (strokeCount s) s = true) : linkServes st use s = false := by
  simp [linkServes, h]

/-! ### Key positions and their latches (14_trust_and_isolation.md R369) -/

theorem setKeyPos_frame (slot pos : Nat) (k : KeyPos) (s : State) :
    setKeyPos slot pos k s = { s with tru := { s.tru with keys := (setKeyPos slot pos k s).tru.keys } } := rfl

theorem erasePos_frame (slot pos : Nat) (s : State) :
    erasePos slot pos s =
      { s with tru := { s.tru with keys := (erasePos slot pos s).tru.keys, keyWrites := (erasePos slot pos s).tru.keyWrites } } := rfl

theorem latchRank_frame (slot pos port lane left : Nat) (s : State) :
    latchRank slot pos port lane left s = { s with tru := { s.tru with latches := (latchRank slot pos port lane left s).tru.latches } } :=
  rfl

/-! ### Wear and the translation layer (16_faults_and_recovery.md R437; 07_residency_and_tiers.md R204) -/

theorem countWear_frame (unit : Nat) (f : WearCount → WearCount) (s : State) :
    countWear unit f s = { s with flt := { s.flt with wearIn := upd {} s.flt.wearIn unit f } } := rfl

theorem setNand_frame (b : Nat) (v : FlashBlock) (s : State) :
    setNand b v s = { s with fsh := { s.fsh with blocks := put {} s.fsh.blocks b v } } := rfl

/-- Reads of a tier page change the counts of its blocks alone. -/
theorem noteRead_frame (t : Nat) (s : State) : noteRead t s = { s with fsh := { s.fsh with blocks := (noteRead t s).fsh.blocks } } := by
  unfold noteRead
  generalize List.range codewordsPerPage = l
  induction l generalizing s with
  | nil => rfl
  | cons i l ih =>
    rw [List.foldl_cons, ih]
    by_cases h : look 0 s.fsh.places (codewordIdx t i) = 0
    · simp only [h, if_true]
    · simp only [h, if_false, setNand]

end Sys2Proof.Machine
end

