-- ==== Sys2Proof/Tests/States.lean ====
section
/-! SUPPORT. Small states and messages on which the tests show that the hypotheses of the statements can be met. -/

open Sys2Proof Sys2Proof.Machine Sys2Proof.Safety

set_option Elab.async false

namespace Sys2Proof.W

/-! ### The values of operations that can fail -/

def orState (o : Option State) : State := o.getD {}
theorem orState_eq {o : Option State} (h : o.isSome = true) : o = some (orState o) := by
  cases o <;> simp_all [orState]
def orPair {α : Type} (d : α) (o : Option (α × State)) : α × State := o.getD (d, {})
theorem orPair_eq {α : Type} {d : α} {o : Option (α × State)} (h : o.isSome = true) :
    o = some ((orPair d o).1, (orPair d o).2) := by
  cases o <;> simp_all [orPair]
theorem fst_of {α β : Type} {p : α × β} {x : α} (h : p.1 = x) : ∃ y, p = (x, y) := ⟨p.2, by rw [← h]⟩
theorem snd_of {α β : Type} {p : α × β} : ∃ x y, p = (x, y) := ⟨p.1, p.2, rfl⟩
theorem val_of {α β : Type} {o : Option (α × β)} {x : α} (h : o.map (·.1) = some x) : ∃ y, o = some (x, y) := by
  match o, h with
  | some p, h => exact ⟨p.2, by simp only [Option.map_some, Option.some.injEq] at h; rw [← h]⟩
theorem some_of {α : Type} {o : Option α} (h : o.isSome = true) : ∃ x, o = some x := Option.isSome_iff_exists.mp h
theorem pair_of {α β : Type} {o : Option (α × β)} (h : o.isSome = true) : ∃ x y, o = some (x, y) :=
  match o, h with
  | some p, _ => ⟨p.1, p.2, rfl⟩
def isMade : SwapEnd → Bool
  | .made _ => true
  | .noExtent | .changed => false
theorem made_of {e : SwapEnd} (h : isMade e = true) : ∃ s, e = .made s := by
  cases e <;> simp_all [isMade]
def isStored : WriteEnd → Bool
  | .stored _ => true
  | .waits _ | .refused _ => false
theorem stored_of {e : WriteEnd} (h : isStored e = true) : ∃ s, e = .stored s := by
  cases e <;> simp_all [isStored]
def isWaiting : WriteEnd → Bool
  | .waits _ => true
  | .stored _ | .refused _ => false
theorem waits_of {e : WriteEnd} (h : isWaiting e = true) : ∃ s, e = .waits s := by
  cases e <;> simp_all [isWaiting]

/-- With no line running, no refresh due and no link used yet, every link carries. -/
theorem linkTurn_free {be : Bool} {s : State} (h : s.plt.running = none) (hx : s.sch.extraRefresh = [])
    (hd : s.res.linkDone = []) (hn : strokeCount s = 0) (hl : linesOf islHub s = []) (sts : List Nat) : linkTurn be sts s = true := by
  simp [linkTurn, linkServes, linkSpare, linkFree, refreshes, claimed, h, hx, hd, hn, hl]
def isPlaced : Except Bool State → Bool
  | .ok _ => true
  | .error _ => false
/-- A write that can be made, whose links and cycles are there, is stored. -/
theorem write_stored {be : Bool} {ctx layer group : Nat} {pages fresh : List Nat} {place : State → Except Bool State} {s : State}
    (h : isPlaced (place s) = true) (hl : ∀ sts, linkTurn be sts s = true)
    (hp : (payNode (stagedKey ctx layer group) (updateCosts ctx layer group fresh s) s).1 = true)
    (h2 : isPlaced (place (payNode (stagedKey ctx layer group) (updateCosts ctx layer group fresh s) s).2) = true) :
    ∃ t, writeWhen be ctx layer group pages fresh place s = .stored t := by
  unfold writeWhen
  cases e : place s with
  | error c => simp [e, isPlaced] at h
  | ok t =>
    cases e2 : payNode (stagedKey ctx layer group) (updateCosts ctx layer group fresh s) s with
    | mk b u =>
      rw [e2] at hp h2
      cases e3 : place u with
      | error c => simp [e3, isPlaced] at h2
      | ok v => simp_all
theorem take_stored {be : Bool} {h : MoveHdr} {p : List Byte} {s t : State}
    (e : writeWhen be h.ctx h.layer h.group [h.page] [h.page] (placePage h p) s = .stored t) :
    ∃ u, takePage be h p s = (some 0, u) :=
  ⟨t, by simp [takePage, e, stOk]⟩

/-! ### A plate and a connection -/

/-- A plate with one partition, one tenant, one connection on every port and one graver. -/
def thePlate : Plate :=
  { roles := [0, 0, 0, 0, 0, 0, 2, 2], alloc := [0]
    parts := [(0, { valid := true, dirCountK := 1, tierCountK := 1, tierHighK := 2, gs := List.replicate 6 { slotCountK := 1, tileCount := 8, poolHigh := 2, poolLow := 1 }, vaults := [(0, 1), (1, 1)] })]
    tenants := [(1, { used := true })]
    conns := [(3, { used := true, tenant := 1, ports := 255, keySlot := 2, window := 64, peerConn := 3, peerNode := 5 })]
    keymap := [(2, (1, 3))], bestEffort := [(0, 1)], nodeId := 1 }

/-- A state with a plate in force. -/
def withPlate (p : Plate) : State := { plt := { st := .sealed, active := some { plate := p }, everSealed := true } }
def base : State := withPlate thePlate

/-- Connection 3 is active. -/
def live : State := { base with tfx.conns := [(3, { st := .active })] }

/-! ### Time -/

def counting : State := { time := { counting := true } }
def acquiring : State := { time := { counting := true, lock := .acquiring, firstEdge := some 100, now := 1000000013 } }
def locked : State := { time := { counting := true, lock := .locked, now := 2000000005 } }
def slewing : State := { time := { counting := true, lock := .locked, now := 63 * 250, slew := 7 } }
def late : State := { time := { lock := .locked, lastSecond := some 0, now := 1000002000 } }
def lost7 : State := { time := { lock := .holdover, lastSecond := some 7, now := 8000200000, missing := 7 } }
def secondsSet : State := { time := { secondsSet := true, lastSecond := some 4, seconds := 9 } }
def stage5 : State := { start := { stage := 5 }, time := { lock := .locked, now := 16000 } }
def held : State := { pwr := { hold := true } }
def barrier : State := { bar := { startPass := 9, nextId := 1 } }
def starting : State := { bar := { pendingPass := some 2 }, time := { run := 1, now := 32000, reg := true, lock := .locked } }

/-! ### Messages -/

/-- A complete message of connection 3. -/
def message (typ : Nat) (body : List Byte) : InMsg := ⟨3, typ, false, 1, body, 0, 0, 0, false⟩
def inbox (m : InMsg) : State := { live with tfx.inbox := [m] }
def reqInbox (m : InMsg) : State :=
  { inbox m with plt := (withPlate { thePlate with conns := [(3, { used := true, requester := true, tenant := 1 })] }).plt }
def badMsg (typ : Nat) : InMsg := message typ [1, 2, 3]
def barrierMsg : InMsg := message 0x32 (leBytes 8 10 ++ leBytes 4 7 ++ [0, 0] ++ leBytes 2 5 ++ leBytes 16 0)

/-- An ATTN of one row for slot 9 of context 5, d = 32, with scale 1. -/
def attnBody : List Byte :=
  leBytes 8 7 ++ leBytes 4 5 ++ leBytes 2 0 ++ [0, 0] ++ [0, 1] ++ leBytes 2 0x10 ++ leBytes 2 9 ++ [0, 0] ++ leBytes 4 0 ++
    leBytes 4 0x3F800000 ++ leBytes 16 0 ++ leBytes 2 1 ++ leBytes 46 0 ++ List.replicate 32 0x38 ++ [127] ++ List.replicate 15 0
def msg (typ : Nat) : InMsg := message typ attnBody

/-! ### Contexts and pages -/

/-- The descriptor of context 5: tenant 1, partition 0, d = 32, one layer and group, open. -/
def ctxDesc : BitVec 64 := BitVec.ofNat 64 (1 + 2 ^ 63)
def opened (s : State) : State := { s with res.ctxs := [(5, ctxDesc)] }
/-- Context 5 is open, and page 0 of its layer and group 0 has the page word `w` and the tier word `t` in extent 78. -/
def paged (w t : Nat) (s : State) : State :=
  { opened s with
    dir := { entries := [(3, { key := dirKey 1 5 0 0 0, data := dirData 78 0 true, v := true })]
             shadows := [(3, { key := dirKey 1 5 0 0 0, data := dirData 78 0 true, v := true })]
             extents := [(78, { st := .live 0, words := [(0, w)], tiers := if t = 0 then [] else [(0, t)] })]
             portRanges := [16], nodeRanges := [16] } }

/-! ### Slots and requests -/

def slot : SlotRec := { slot := 9, conn := 3, lookups := 1, gravers := 1 }
def slotted : Plate := { thePlate with slots := [slot] }
/-- SLOT lines of slot 9 at stroke 5 of the pass, as every island's line `l`. -/
def lineMap (isl : Nat) (l : Line) : Store LineProg := [(isl, { lines := [l] })]
def running (isl : Nat) (l : Line) (p : Plate) (now : Nat) : State :=
  { withPlate { p with lines := lineMap isl l } with plt.running := some (lineMap isl l), time := { now := now, run := 2 } }
def planned : State := running 6 { stroke := 5, op := 1, arg0 := 9 + 2 * 65536 } slotted 0

def req : Req := { id := 0, tenant := 1, part := 0, conn := some 3, body := attnBody, tag := 7, firstStroke := 0, occ := some 5, slot := some slot }
def withConn (s : State) : State := { s with tfx.conns := [(3, { st := .active })] }
def checkable : State :=
  { withConn (opened planned) with sch := { reqs := [req] }, time := { now := 4 * 250, run := 2 } }
def checkedReq : Req := { req with phase := .checked, desc := ctxDesc }
def admissible : State := { checkable with sch := { reqs := [checkedReq] }, time := { now := 5 * 250, run := 2 } }
def lookupReq : Req := { req with phase := .lookups, bestEffort := true, occ := none, runs := [64, 128] }
def lookups : State := { checkable with sch := { reqs := [lookupReq] } }
def dispReq : Req := { checkedReq with phase := .lookups, occ := some 1 }
def dispatchable : State := { checkable with sch := { reqs := [dispReq] } }
def beReq : Req := { checkedReq with phase := .lookups, bestEffort := true, occ := none, slot := none }
def beReady : State := { checkable with sch := { reqs := [beReq], queues := [(0, [0])] } }
/-! ### Host commands -/

/-- The bytes of a command. -/
def command (op tenant : Nat) (args : List Byte) : List Byte :=
  padTo 64 (leBytes 1 op ++ leBytes 1 0 ++ leBytes 2 tenant ++ leBytes 4 0 ++ args)
/-- One list of one command waits in a class of PF0's queues. -/
def queued (cls op : Nat) (args : List Byte) (s : State) : State :=
  { s with host.queues := [(cls, { enable := true, seq := 1, lists := [⟨1, 0, 1, 0, false, false, none, 0, [], false⟩] })]
           mem.bar2 := memWrite s.mem.bar2 64 (command op 1 args) }
/-- The command that such a list holds. -/
def theCmd (cls op : Nat) (args : List Byte) : Cmd := ⟨0, cls, 1, 0, 0, 1, op, command op 1 args⟩

def hostAttnArgs : List Byte := leBytes 8 4096 ++ leBytes 8 144 ++ leBytes 8 8192 ++ leBytes 8 20000
def hostAttnCmd : Cmd := theCmd 0 1 hostAttnArgs
def hostAttn : State :=
  queued 0 1 hostAttnArgs { base with mem.bar2 := memWrite [] 4096 (attnBody.take 20 ++ [0xFF, 0xFF] ++ attnBody.drop 22) }

/-! ### The directory -/

def key3 : BitVec 80 := dirKey 1 5 0 0 64
def key9 : BitVec 80 := dirKey 1 5 0 0 128
/-- A port's command with the key of entry 3 and a full mask. -/
def portCmd (op index : Nat) : DirCmd :=
  ⟨op, index, if op = 5 then key9 else if index = 4 then key9 else key3, fullMask, dirData 79 3 false⟩
def searchPort (op index : Nat) : DirPort :=
  { busy := true, cmd := some (portCmd op index), rdata := dirData 78 3 false }
def dirState (op index : Nat) : State :=
  { opened base with
    dir := { entries := [(3, { key := key3, data := dirData 78 3 false, v := true }), (9, { key := key9, data := dirData 79 3 false, held := true })]
             shadows := [(3, { key := key3, data := dirData 78 3 false, v := true }),
                         (9, { key := key9, data := dirData 79 3 false, held := true })]
             extents := [(77, { st := .grace 0 0 }), (78, { st := .live 0 }), (79, { st := .built 0 })]
             ports := if op = 0 then [] else [(0, searchPort op index)], portRanges := [16], nodeRanges := [16] } }
def swapPort : DirPort := searchPort 7 3
def swapState : State := dirState 7 3
def reservedSearch : State :=
  { dirState 1 0 with dir.ports := [(0, { searchPort 1 0 with cmd := some { portCmd 1 0 with key := BitVec.allOnes 80 } })] }
def setPort (p : DirPort) (s : State) : State := { s with dir.ports := [(0, p)] }
/-- A swap whose page still has the word it was decided on: its extent is the only one that is not FREE. -/
def swapDue : State :=
  { dirState 0 0 with dir.stateSwaps := [⟨0, key3, [⟨0, 4 * 2 ^ 28, 0, 0⟩]⟩], dir.extents := [(78, { st := .live 0, words := [(0, 4 * 2 ^ 28)] })] }
def swapPaid : State := orState (takeNode 1 { swapDue with dir.stateSwaps := [] })
theorem swapPaid_eq : takeNode 1 { swapDue with dir.stateSwaps := [] } = some swapPaid := orState_eq (by decide +kernel)
theorem swap_extent : ∃ x u, allocExtent 0 swapPaid = some (x, u) ∧ x ≠ dataExt (dirEntry 3 swapDue).data := by
  have h : ¬(extFree swapPaid = 0 ∨ extQuota 0 swapPaid ≤ extHeld 0 swapPaid) := by decide +kernel
  have ht : (swapPaid.dir.extents.filter fun x => x.2.st != .free).map (·.1) = [78] := by decide +kernel
  have hd : dataExt (dirEntry 3 swapDue).data = 78 := by decide +kernel
  refine ⟨_, _, by rw [allocExtent, if_neg h], ?_⟩
  rw [ht, hd]
  simp only [nthFree, List.foldl]
  split <;> omega
def tailState : State := { dirState 0 0 with dir.tailClear := [(1, 5)] }
def swapRetry : State := { dirState 0 0 with dir.stateSwaps := [⟨0, key3, [⟨0, 4 * 2 ^ 28, 0, 0⟩]⟩] }

/-! ### APPEND, COMMIT, CANCEL -/

def commitMsg : InMsg := message 0x04 (leBytes 8 7 ++ leBytes 4 5 ++ leBytes 4 0 ++ leBytes 2 0xFFFF ++ leBytes 14 0)
def commitState : State := opened (inbox commitMsg)
def appendMsg : InMsg := message 0x03 (leBytes 8 7 ++ leBytes 4 5 ++ leBytes 4 0 ++ leBytes 2 0xFFFF ++ leBytes 14 0 ++ List.replicate 66 1)
def appendState : State :=
  paged (pageWord 0 5) 0 (inbox appendMsg)
/-- The same APPEND while the links serve other uses. -/
def appendWaits : State := { appendState with res.linkDone := (List.range 8).map fun k => (k, 5) }
def commitRowsMsg : InMsg := message 0x04 (leBytes 8 7 ++ leBytes 4 5 ++ leBytes 4 1 ++ leBytes 2 0xFFFF ++ [1, 0] ++ leBytes 12 0 ++ List.replicate 66 1)
def commitRows : State := paged (pageWord 0 5) 0 (inbox commitRowsMsg)
def cancelMsg : InMsg := message 0x05 (leBytes 8 7 ++ leBytes 8 0)
def dispatched : Req := { dispReq with phase := .dispatched, gravers := [2] }
def cancelledGraver : State :=
  { base with sch := { reqs := [dispatched] }, gravers := [(2, { st := .working, cancelled := true, current := some 0, descs := [⟨0, [⟨false, 0, []⟩], true, none, none⟩] })] }
def hostCancelCmd : Cmd := theCmd 0 2 (leBytes 8 7)
def hostCancel : State := queued 0 2 (leBytes 8 7) base

/-! ### Gravers -/

def block : Block := ⟨false, 0, []⟩
def workingGraver : Graver := { st := .working, current := some 0, descs := [⟨0, [block], true, none, none⟩] }
/-- Every bank of a sheet is on. -/
def bankFull : Store Nat := (List.range 32).map fun k => (k, 2)
def graverTaken : Graver := { workingGraver with descs := [⟨0, [], true, none, none⟩] }
def graverState (g : Graver) : State := { opened base with sch := { reqs := [dispatched] }, gravers := [(2, g)] }
def openBlock (k : Nat) : OpenBlock :=
  ⟨block, k, 0, [0], [0], [[0]], [], [], false, false⟩
def swept (k : Nat) : State := graverState { graverTaken with banks := bankFull, block := some (openBlock k), windowEnd := some 2, chainEnd := some 5 }
def sweeping : State := swept 0
def entry : ColEntry := { tenant := 1, tag := 7, req := some 0 }
def chaining : State :=
  { opened base with sch := { reqs := [dispatched], entries := [entry] }, gravers := [(2, { finished := [(0, [], [])] })] }
def banksOn : State := { base with gravers := [(2, { banks := [(0, 2)] })] }
/-! ### Lines of the islands -/

def waking : State := { base with gravers := [(2, { waking := [(4, 0)] })] }
/-- Island `isl` runs the one line `l`, whose first stroke has come. -/
def lineState (isl : Nat) (l : Line) : State := running isl l slotted (l.stroke * 250)
def windowLine : Line := { stroke := 7, op := 1, lenM1 := 1, arg0 := 9 + 4 * 65536, arg1 := 3 }
def banksLine : Line := { op := 2, arg0 := 4, arg1 := 8 }
def refreshLine : Line := { op := 3 }
def retrainLine : Line := { op := 4 }
def dircycLine : Line := { op := 2, arg0 := 5 * 512 + 2 * 2 ^ 18 }
def linkLine : Line := { op := 3, arg0 := 1 + 2 * 16 }
def maintLine : Line := { op := 5, arg0 := 1 + 6 * 4 }
def closeLine : Line := { stroke := 10, op := 1, arg0 := 9, arg1 := 1 }
def sampleLine : Line := { op := 1 }
def windowReq : Req := { dispReq with phase := .dispatched, occ := some 5 }
def windowState : State :=
  let m : Store LineProg := [(0, { lines := [windowLine] }), (6, { lines := [{ stroke := 5, op := 1, arg0 := 9 + 2 * 65536 }] })]
  { lineState 0 windowLine with plt.running := some m, sch := { reqs := [windowReq] }, gravers := [(2, { descs := [{ req := 0, blocks := [] }] })] }
def slotLine : Line := { op := 1, arg0 := 9 + 2 * 65536, arg1 := 10 }
def planReq : Req := { dispReq with phase := .dispatched, occ := some 0 }
def closing : State :=
  { lineState 7 closeLine with plt.running := some [(6, { lines := [slotLine] }), (7, { lines := [closeLine] })]
                               sch := { reqs := [planReq], entries := [entry] } }

/-! ### Sources of a collator entry -/

def treed : Plate := { thePlate with trees := [{ children := [{ primary := 3 }] }] }
/-- A request whose tree line names connection 3 as its one child. -/
def treedReq : Req := { dispatched with tree := some { children := [{ primary := 3 }] } }
def childEntry : ColEntry := { tenant := 1, tag := 7, req := some 0, accepted := [0] }
def childFirst : State := { inbox (msg 0x02) with plt := (withPlate treed).plt }
def childState : State := { childFirst with sch := { reqs := [treedReq], entries := [childEntry] } }
def arrival : Arrival :=
  { source := 0, frags := [], cov := [], status := 0, slip := false, collapsed := false, candIn := false, sources := 1, admitAt := 0 }
def merging : State := { opened base with sch := { reqs := [dispatched], entries := [{ entry with arrivals := [arrival] }] } }

/-! ### Contexts and extents -/

def ctxArgs (desc : Nat) : List Byte := leBytes 8 5 ++ leBytes 8 desc
def ctxOpenCmd : Cmd := theCmd 1 1 (ctxArgs (1 + 2 ^ 63))
def ctxOpen : State := queued 1 1 (ctxArgs (1 + 2 ^ 63)) base
def ctxCloseCmd : Cmd := theCmd 1 1 (ctxArgs 1)
def ctxClose : State := queued 1 1 (ctxArgs 1) (opened base)
def ctxBadCmd : Cmd := theCmd 1 1 (ctxArgs (1 + 2 ^ 43))
def ctxBad : State := queued 1 1 (ctxArgs (1 + 2 ^ 43)) base
def extArgs (a : Nat) : List Byte := leBytes 8 a ++ leBytes 8 8192
def extGetCmd : Cmd := theCmd 1 2 (extArgs 1)
def extGet : State := queued 1 2 (extArgs 1) base
theorem getD_eq {α : Type} {r : Option α} (d : α) (h : r.isSome = true) : r = some (r.getD d) := by
  cases r <;> simp_all
/-- A partition with so many thousand directory entries, and no slot and no tile. -/
def narrow (k : Nat) : Plate := { thePlate with parts := [(0, { valid := true, dirCountK := k, tierCountK := 1, tierHighK := 2 })] }
def extGetFullCmd : Cmd := theCmd 1 2 (extArgs 5)
def extGetFull : State := queued 1 2 (extArgs 5) (withPlate (narrow 0))
def extWriteCmd : Cmd := theCmd 1 3 (extArgs 79)
def built : State := { base with dir.extents := [(79, { st := .built 0 })] }
def extWrite : State := queued 1 3 (extArgs 79) { built with mem.bar2 := memWrite [] 8192 (List.flatten (List.replicate 64 (leBytes 4 noneWord))) }
def extPutCmd : Cmd := theCmd 1 4 (leBytes 4 79)
def extPut : State := queued 1 4 (leBytes 4 79) built

/-! ### Commands that name pages -/

/-- ARGS that name page 0 of context 5, layer 0, group 0, then a word at 0x10, two at 0x18 and 0x20. -/
def pageArgs (x first last : Nat) : List Byte :=
  leBytes 4 5 ++ leBytes 4 0 ++ leBytes 4 0 ++ leBytes 4 1 ++ leBytes 8 x ++ leBytes 8 first ++ leBytes 8 last
/-- A page word in the vault. -/
def vaultWord : Nat := pageWord 1 5505033
def stageHomeCmd : Cmd := theCmd 1 5 (pageArgs 1 0 9)
def stageHome : State := queued 1 5 (pageArgs 1 0 9) (paged (pageWord 0 5) 0 base)
def stageFullCmd : Cmd := stageHomeCmd
def stageFull : State := queued 1 5 (pageArgs 1 0 9) (paged (vaultWord) 0 (withPlate (narrow 1)))
def stageCmd : Cmd := stageHomeCmd
def vaulted : State := paged (vaultWord) 0 base
def staging : State := queued 1 5 (pageArgs 1 0 9) vaulted
def pageAt (n : Nat) : PageName := ⟨5, 0, 0, n⟩
def tilesPer (st tile : Nat) : Nat := st * tilesPerStack + tile
def vaultTile : Tile := ⟨pageAt 0, 0, false, 0, 0, 0, some 0⟩
def tileReading : State := { vaulted with res.tiles := [(tilesPer 1 8, vaultTile)] }
def flashed : State := paged (pageWord 2 0) (7 + 2 ^ 29) base
def flashTile : Tile := vaultTile
def tileStall : State := { flashed with res.tiles := [(tilesPer 1 8, flashTile)] }
def tileLost : State := { tileStall with start.stage := 6, time := { run := 2 } }
def tileOld : State := { tileReading with time.now := 160000 }
def rehomeCmd : Cmd := theCmd 1 6 (pageArgs 0 0 0)
def rehome : State := queued 1 6 (pageArgs 0 0 0) (paged (pageWord 0 5) 0 base)
def rehomeFullCmd : Cmd := rehomeCmd
def rehomeFull : State := queued 1 6 (pageArgs 0 0 0) (paged (vaultWord) 0 (withPlate (narrow 1)))
def rehomeOneCmd : Cmd := theCmd 1 6 (pageArgs 2 0 0)
def rehomeOne : State := queued 1 6 (pageArgs 2 0 0) (paged (pageWord 0 5) 0 { base with gravers := [] })
/-- A change of a residency command that takes page 0 from its slot to another, before and after its read. -/
def change (seen : Option (BitVec 48)) : RunChange := ⟨0, 5, 0, 0, 0, [⟨0, pageWord 0 5, 0, pageWord 0 200, false⟩], some 0, none, seen, false, false⟩
def changing (seen : Option (BitVec 48)) : State := { paged (pageWord 0 5) 0 base with res.changes := [change seen] }
def vaulting : Plate := { thePlate with tenants := [(1, { used := true, vault := true, spill := true })] }
def evictCmd : Cmd := theCmd 1 7 (pageArgs 0 0 0)
def evict : State := queued 1 7 (pageArgs 0 0 0) (paged (vaultWord) 0 (withPlate vaulting))
def dropCmd : Cmd := theCmd 1 7 (pageArgs 2 0 0)
def drop : State := queued 1 7 (pageArgs 2 0 0) (paged (pageWord 0 5) 0 (withPlate vaulting))
def writeBackCmd : Cmd := theCmd 1 8 (pageArgs 0 0 0)
def writeBack : State := queued 1 8 (pageArgs 0 0 0) (paged (pageWord 2 0) (7 + 2 ^ 29) (withPlate vaulting))

/-! ### Pages that come and go -/

/-- A payload of one page, d = 32, every element 1 and every scale 2^0. -/
def payload : List Byte := List.replicate 8192 0x38 ++ List.replicate 256 127
def moveMsg (typ : Nat) : InMsg :=
  message typ (MoveHdr.bytes { tag := 7, ctx := 5, layer := 0, group := 0, tail := false, page := 0, rows := 128, slot := 0xFFFF, reserved := false } ++ payload)
def moving (typ : Nat) : State := paged (pageWord 3 0) 0 (inbox (moveMsg typ))
theorem isWrite_move {t : Nat} (h : t = 0x10 ∨ t = 0x11) : isWrite (moveMsg t) = true := by
  rcases h with rfl | rfl <;> decide +kernel
theorem move_next {t : Nat} (h : t = 0x10 ∨ t = 0x11) : nextWrite 3 t (moving t) = some (moveMsg t) := by
  have hi : (moving t).tfx.inbox = [moveMsg t] := rfl
  have hw := isWrite_move h
  have ho : isOrderedWrite (moveMsg t) = true := by simp [isOrderedWrite, hw]
  have he : writeTurn (moveMsg t) (moving t) ≠ .early := by rcases h with rfl | rfl <;> decide +kernel
  have hc : (moveMsg t).conn = 3 := rfl
  have hp : heldPart (connRec 3 (moving t)).part (moving t) = false := by rcases h with rfl | rfl <;> decide +kernel
  have ht : (moveMsg t).typ = t := rfl
  simp [nextWrite, hi, hw, ho, hc, goesFirst, hp, he, ht, List.filter]
theorem move_stored {t : Nat} (h : t = 0x10 ∨ t = 0x11) (be : Bool) :
    ∃ v, writeWhen be (moveHdr (moveMsg t).body).ctx (moveHdr (moveMsg t).body).layer (moveHdr (moveMsg t).body).group
      [(moveHdr (moveMsg t).body).page] [(moveHdr (moveMsg t).body).page]
      (placePage (moveHdr (moveMsg t).body) ((moveMsg t).body.drop 32)) (moving t) = .stored v := by
  rcases h with rfl | rfl
  · refine write_stored ?_ (linkTurn_free rfl rfl rfl ?_ ?_) ?_ ?_ <;> decide +kernel
  · refine write_stored ?_ (linkTurn_free rfl rfl rfl ?_ ?_) ?_ ?_ <;> decide +kernel
theorem move_taken {t : Nat} (h : t = 0x10 ∨ t = 0x11) (be : Bool) :
    ∃ u, takePage be (moveHdr (moveMsg t).body) ((moveMsg t).body.drop 32) (moving t) = (some 0, u) :=
  let ⟨_, e⟩ := move_stored h be
  take_stored e
def pageWriteArgs : List Byte := pageArgs 0 4096 128
def pageWriteCmd : Cmd := theCmd 1 0x0B pageWriteArgs
/-- The host memory named holds zeros: elements 0 under scale 2^-127. -/
def pageWrite : State := queued 1 0x0B pageWriteArgs (paged (pageWord 3 0) 0 base)
theorem pageWrite_taken :
    ∃ u, takePage false (pageWriteHdr pageWriteCmd) (pageWritePayload pageWriteCmd pageWrite) pageWrite = (some 0, u) := by
  have ⟨_, e⟩ : ∃ v, writeWhen false (pageWriteHdr pageWriteCmd).ctx (pageWriteHdr pageWriteCmd).layer (pageWriteHdr pageWriteCmd).group
      [(pageWriteHdr pageWriteCmd).page] [(pageWriteHdr pageWriteCmd).page]
      (placePage (pageWriteHdr pageWriteCmd) (pageWritePayload pageWriteCmd pageWrite)) pageWrite = .stored v := by
    refine write_stored ?_ (linkTurn_free rfl rfl rfl ?_ ?_) ?_ ?_ <;> decide +kernel
  exact take_stored e
def moveOutCmd : Cmd := theCmd 1 9 (pageArgs 3 0 0)
def moveOut : State := queued 1 9 (pageArgs 3 0 0) (paged (pageWord 0 5) 0 live)
def outgoing : MoveOut := ⟨0, 0, 3, false, false, false, [], [(1, pageAt 0), (2, pageAt 1)], 0, [], 0, none⟩
def moveResp : InMsg := ⟨3, 0x10, true, 0, leBytes 8 1 ++ leBytes 8 0x31, 0, 0, 0, false⟩
def moveAnswered : State := { inbox moveResp with res.moveOuts := [outgoing] }
def exporting : MoveOut := ⟨0, 0, 3, false, true, false, [pageAt 0], [], 0, [], 0, none⟩
def exportState : State := { paged (pageWord 0 5) 0 live with res.moveOuts := [exporting] }
def movedResp : InMsg := { moveResp with body := leBytes 8 1 ++ leBytes 8 0 }
/-- The last page of a MOVE_OUT that releases its pages. -/
def releasing : MoveOut := { outgoing with release := true, waiting := [(1, pageAt 0)] }
def moveDone : State := { paged (pageWord 0 5) 0 (inbox movedResp) with res.moveOuts := [releasing] }
/-- A PAGE_WRITE of a page that stands. -/
def pageWriteBadState : State := queued 1 0x0B pageWriteArgs (paged (pageWord 0 5) 0 base)

/-! ### The flash tier -/

def tierArgs (op : Nat) : List Byte := if op = 3 then leBytes 4 9 ++ leBytes 4 2 else leBytes 8 9 ++ leBytes 8 8192
def tierCmd (op : Nat) : Cmd := theCmd 4 op (tierArgs op)
/-- One target on every channel, of 100 blocks of 64 pages of four codewords each. -/
def targets : List FlashTarget := (List.range 16).map fun c => ⟨c, 0, true, false, false, 3, 18432, 64, 100, [], 3000, 80⟩
def serving : State := { base with fsh.mounted := true, fsh.targets := targets, start.stage := 6 }
def tierState (op : Nat) : State := queued 4 op (tierArgs op) { serving with fsh.written := [9] }
def mounting : State := { start := { stage := 2, stageRunning := true } }
def word (k : Nat) : Nat := pageWord k 5
def program : TierProgram := ⟨pageAt 0, 0, 9, false, false, none, [(0, 7)], dirData 78 0 true⟩
def programming : State := { paged (word 0) 0 base with res.programs := [program] }
def programmable : State := { programming with fsh.targets := targets, fsh.mounted := true }
def stalledMount : State := { fsh := { stalled := true, stallOp := some (.mount []) }, time := { elapsed := 4000 } }
def stalledTile : State :=
  { flashed with res.tiles := [(tilesPer 1 8, flashTile)], fsh := { stalled := true, cause := 1, stallOp := some (.tile (tilesPer 1 8)) } }

/-! ### The scraper and the burnisher -/

def sealedState : State := base
def partWith (r : PartRec) : Plate := { thePlate with parts := [(0, r)] }
def thePart : PartRec := partRec 0 base
def scraping : State := paged (vaultWord) 0 (withPlate (partWith { thePart with vaultLow := 5000, vaultHigh := 6000 }))
def vaultUnit : ScrapeUnit := ⟨3, 0, 1, 0, 0, [pageAt 0]⟩
def awaitingSlot : Nat := 917504 + 7
def burning : State := { base with res.slots := [(awaitingSlot, { awaiting := true, written := true })] }
def suspect : State := paged (pageWord 4 5) 0 base
def suspectSlot : Nat := 5
def wbReady : State :=
  { paged (word 0) (7 + 2 ^ 29 + 2 ^ 30) (withPlate { partWith { thePart with wbMax := 1 } with tenants := vaulting.tenants }) with
    fsh := { mounted := true, targets := targets }, start.stage := 6 }
def writeBackStarts : State :=
  { queued 1 8 (pageArgs 0 0 0) (paged (word 0) (7 + 2 ^ 29 + 2 ^ 30) (withPlate { partWith { thePart with wbMax := 1 } with tenants := vaulting.tenants })) with
    fsh := { mounted := true, targets := targets }, start.stage := 6 }
def zeroArgs (op : Nat) : List Byte := if op = 3 then leBytes 8 8192 ++ leBytes 8 128 else leBytes 4 1 ++ leBytes 4 3 ++ leBytes 4 2
def zeroCmd (op : Nat) : Cmd := theCmd 3 op (zeroArgs op)
def zeroState (op : Nat) : State := queued 3 op (zeroArgs op) base
def zeroSegs : List (Nat × Nat) := (b2Range 0 8192 128 (zeroState 3)).getD []

/-! ### Plates -/

/-- The buffer holds a header with the delta flag. -/
def deltaBuffer : State := { base with plt.loadLen := 16, mem.bar2 := [(6, 1)] }
/-- The first bytes of a delta, as a copy under way holds them. -/
def deltaBytes : List Byte := List.replicate 6 0 ++ [1]
def deltaLoading : State := { plt := { st := .loading, loading := some deltaBytes, active := some {} } }
def armable : State := { plt := { phase := .loaded, st := .sealed, shadow := some {}, boundary := 8 } }
def movedQuota : PlateStore := { plate := partWith { thePart with dirCountK := 2 } }
def armBusy : State := { base with plt.phase := .loaded, plt.shadow := some movedQuota, plt.boundary := 8, res.programs := [program] }

/-! ### Heartbeats -/

def beatLine : Line := { op := 2, arg0 := 3 }
def adaptLine : Line := { op := 3 }
def beatMsg (p : Nat) : InMsg := message 0x31 (leBytes 8 p ++ leBytes 2 5 ++ leBytes 22 0)
def beatState (p : Nat) : State := { inbox (beatMsg p) with plt := (withPlate { thePlate with lines := lineMap 8 beatLine }).plt }
def beatLineState : State := withConn (lineState 8 beatLine)
/-! ### Ports -/

def activeLane : Lane := { st := .active, lockSince := some 0 }
def retiredLane : Lane := { st := .retired, lockSince := some 0 }
def ported : State :=
  { live with plt := (withPlate { thePlate with ports := List.replicate 8 {}, udpPort := 4791 }).plt }
/-- Port 0 has these lanes and this state. -/
def portWith (st : PortSt) (ls : List Lane) (s : State) : State := { s with ports := [(0, { st := st, lanes := ls })] }
def training : State := { portWith .training [activeLane, { st := .training }, {}, {}] ported with start.stage := 3 }
def portUp : State := portWith .up (List.replicate 4 activeLane) ported
def laneBack : State := { portWith .up [activeLane, retiredLane, activeLane, activeLane] ported with time.elapsed := 4000000 }
def portFailing : State := portWith .up [activeLane, activeLane, retiredLane, retiredLane] ported
def portStable : State := { portWith .dropped (List.replicate 4 retiredLane) ported with time.elapsed := 4000000 }

/-! ### Frames out -/

def sendLine : Line := { op := 1, arg0 := 3 + 65536, arg1 := 100 }
def sendState : State := { lineState 8 sendLine with ports := portUp.ports }
def key : Key := 5
/-- Epoch 0 of connection 3 has a key. -/
def keyed (s : State) : State := { s with tru.keys := [(4, { rank0 := some 5, live := true })] }
def ackWaiting : State := { keyed portUp with tfx.aux := [(3, { ackReady := true })] }
def ackCand : Cand := ⟨3, 0, .ack, 114⟩
def ackCredited : State := { ackWaiting with ports := [(0, { st := .up, lanes := List.replicate 4 activeLane, credit := [(24, 200)] })] }

/-! ### Frames in -/

def frame (size : Nat) : RxFrame := ⟨size, false, 0, false, 0x86DD, 6, 17, false, 0, 4791, Hdr.bytes { conn := 3 }, [], none, 0, 0, 0⟩
def goodFrame : RxFrame := { frame 114 with fcsOk := true }
def frameQueued (s : State) : State := { s with ports := [(0, { st := .up, lanes := List.replicate 4 activeLane, smooth := [goodFrame] })] }
def ackFrame : RxFrame := { goodFrame with hdr := Hdr.bytes { typ := 0x31, op := 2, conn := 3 }, sealKey := some key }
def dataFrame : RxFrame :=
  { goodFrame with hdr := Hdr.bytes { typ := 0x31, op := 0, conn := 3, cls := 1, last := true, msgSeq := 0, seq := 0, segLen := 32 }, coded := List.replicate 32 0, sealKey := some key }
def dataArrived : State := { keyed portUp with ports := [(0, { st := .up, lanes := List.replicate 4 activeLane, smooth := [dataFrame] })] }
def brokenFrame : RxFrame := { dataFrame with hdr := Hdr.bytes { typ := 0x31, op := 0, conn := 3, cls := 1, last := true, segLen := 33 } }
def brokenArrived : State := { keyed portUp with ports := [(0, { st := .up, lanes := List.replicate 4 activeLane, smooth := [brokenFrame] })] }
def ackArrived : State := { keyed portUp with ports := [(0, { st := .up, lanes := List.replicate 4 activeLane, smooth := [ackFrame] })] }

/-! ### Timers of a connection -/

def ackOwed : State := { live with tfx.aux := [(3, { owed := 4 })] }
def sent : SentFrame := ⟨{}, [], 0, 0, 0, 0, false, false, 0, 0, 7, .none, false, none⟩
def unackedWith (f : SentFrame) : State := { live with tfx.conns := [(3, { st := .active, unacked := [f] })], time.elapsed := 200 }
def unacked : State := unackedWith sent
def unackedLast : State := unackedWith { sent with timeouts := 15 }
def rolling : State := { live with tfx.conns := [(3, { st := .active, rollStep := 1 })], time.now := 62500 * 16000 }
def closingConn : State := { live with tfx.conns := [(3, { st := .closing })], time.elapsed := 4000 }

/-! ### Remote operations -/

def region : Region := { live := true, base := 4096, len := 4096, tenant := 1, rights := 3 }
def barRegion : Region := { region with bar2 := true, rights := 4 }
def withRegion (r : Region) (m : InMsg) : State := { inbox m with tfx.regions := [(9, r)] }
def regionState (m : InMsg) : State := withRegion region m
def barRegionState (m : InMsg) : State := withRegion barRegion m
def rdMsg : InMsg := message 0x20 (leBytes 8 7 ++ leBytes 4 9 ++ leBytes 4 64 ++ leBytes 16 0)
def wrMsg : InMsg := message 0x21 (leBytes 8 7 ++ leBytes 4 9 ++ leBytes 20 0 ++ [1, 2, 3])
def quietMsg : InMsg := message 0x21 (leBytes 8 7 ++ leBytes 4 9 ++ [2] ++ leBytes 19 0 ++ [1, 2, 3])
def atomicMsg : InMsg := message 0x22 (leBytes 8 7 ++ leBytes 4 9 ++ leBytes 4 0 ++ leBytes 8 8 ++ leBytes 8 2 ++ leBytes 8 0)
def trigMsg : InMsg := message 0x30 (leBytes 4 6 ++ leBytes 4 2 ++ leBytes 8 0)
def trigState : State := { inbox trigMsg with tfx.triggers := [(6, { tenant := some 1 })] }
def respMsg : InMsg := ⟨3, 0x20, true, 1, leBytes 8 1 ++ leBytes 8 0, 0, 0, 0, false⟩
def loadResp : InMsg := respMsg
def loadWait : Awaiting := ⟨1, 0x20, .remoteLoad 0⟩
def loadAnswered : State := { inbox loadResp with tfx.aux := [(3, { waits := [loadWait] })], host.loads := [⟨0, 0, 8, 0⟩] }

/-! ### Remote loads and stores -/

def window : State := { live with host.rwins := [(0, { conn := 3, valid := true, rkey := 9 })] }
def deadWin : State := { window with tfx.conns := [(3, { st := .failed })] }
def watchLoad : RemoteLoad := ⟨0, 0, 8, 0⟩
def watchState : State := { live with host.rwins := [(0, { conn := 3, valid := true, watch := true })], host.loads := [watchLoad], time.elapsed := 80 }

/-! ### Transport commands -/

def sendArgs : List Byte := leBytes 2 3 ++ leBytes 1 0x20 ++ leBytes 1 1 ++ leBytes 4 0 ++ leBytes 8 8192 ++ leBytes 8 32 ++ leBytes 8 77
def sendCmd : Cmd := theCmd 2 1 sendArgs
def sendReady : State := queued 2 1 sendArgs live
def regArgs : List Byte := leBytes 4 9 ++ leBytes 4 7 ++ leBytes 8 8192 ++ leBytes 8 4096
def regCmd : Cmd := theCmd 2 2 regArgs
def regReady : State := queued 2 2 regArgs base
def deregCmd : Cmd := theCmd 2 3 (leBytes 4 9)
def deregReady : State := queued 2 3 (leBytes 4 9) { base with tfx.regions := [(9, region)] }
def bindCmd : Cmd := theCmd 2 4 (leBytes 2 3 ++ leBytes 2 1)
def bindReady : State := queued 2 4 (leBytes 2 3 ++ leBytes 2 1) live
def counterCmd : Cmd := theCmd 2 5 (leBytes 4 6 ++ leBytes 4 11)
def counterReady : State := queued 2 5 (leBytes 4 6 ++ leBytes 4 11) base
def postArgs : List Byte :=
  leBytes 4 6 ++ leBytes 4 2 ++ leBytes 2 3 ++ leBytes 1 0x20 ++ leBytes 1 1 ++ leBytes 4 1 ++ leBytes 8 8192 ++ leBytes 8 32 ++ leBytes 8 77
def postCmd : Cmd := theCmd 2 6 postArgs
def postReady : State := queued 2 6 postArgs { live with tfx.triggers := [(6, { tenant := some 1 })] }
def workReq : WorkReq := ⟨4, 6, 2, 3, 0x20, 1, 1, 0, 8192, 32, 77, false⟩
def wrCancelCmd : Cmd := theCmd 2 7 (leBytes 4 4)
def wrCancelReady : State := queued 2 7 (leBytes 4 4) { live with tfx.workReqs := [workReq] }
def closeCmd : Cmd := theCmd 2 8 (leBytes 4 3)
def closeReady : State := queued 2 8 (leBytes 4 3) live

/-! ### Receive rings -/

def ringMsg : RingMsg := ⟨3, 0x20, 1, 7, 0, [1, 2, 3, 4], some 1⟩
def ringWith (r : Ring) : State := { live with tfx.rings := [(0, r)] }
def theRing : Ring := { enable := true, sizeLog2 := 6, waiting := [ringMsg] }
def ringEmpty : State := ringWith theRing
def ringDone : State := ringWith { theRing with written := 4, nbuf := 1 }
def ringPosted : State := ringWith { theRing with post := 2 }
def ringRoomy : State := { ringPosted with mem.host := memWrite [] 0 (leBytes 8 8192 ++ leBytes 4 9024 ++ leBytes 4 0) }
def ringStarved : State := ringWith { theRing with waits := true, post := 2, waiting := [] }
def ringLate : State := { ringWith { theRing with waits := true } with time.elapsed := 4000000 }
/-! ### Host queues and BAR2 pages -/

def queueWith (ls : List CmdList) : State := { host.queues := [(1, { enable := true, lists := ls })] }
def queueOn : State := queueWith []
def cmdList : CmdList := ⟨1, 0, 1, 0, false, false, none, 0, [], false⟩
def queueFull : State := queueWith (List.replicate 64 cmdList)
def badList : CmdList := { cmdList with refused := some 8 }
def badListQueued : State := queueWith [badList]
def doneList : CmdList := { cmdList with next := 1, results := [(0, (0x10000, 0, 0))], irq := true }
def doneListQueued : State := queueWith [doneList]
def pageNamed : State := queueWith [cmdList]
def assignedState : State := { tru.tdis := [(5, .run)] }

/-! ### The trust core -/

def powered : State := { start := { vaux := true, sysRst := true } }
def trustOn : State := powered
/-- A mailbox request of the command with these argument bytes. -/
def mail (cmd : Nat) (args : List Byte) : State :=
  { base with start := powered.start, mem.mbxReq := memWrite [] 0 (leBytes 2 cmd ++ leBytes 2 args.length ++ leBytes 4 0 ++ args) }
/-- A secured message with KEY_ERASE of connection 3 on session 1. -/
def keyMessage : State :=
  { powered with tru.sessions := [1], mgmt.messages := [(0, [6] ++ leBytes 4 1 ++ leBytes 2 0x0103 ++ leBytes 2 3 ++ leBytes 4 0 ++ [3, 0, 3])] }
def offer : Offer := ⟨3, 0, 5, [], 0⟩
def offered (s : State) : State := { s with tru.offers := [offer] }
def multiplying : State := { powered with tru.curve := [.mult 1 []], time.elapsed := 7600 }
/-- The running trust-core bank was written during the run, with SVN 1. -/
def fresh (s : State) : State := { s with mgmt.banks := [(0, { fresh := true, svn := 1 })] }
def theScrub (k : Nat) : Scrub := ⟨false, 5, k, false, false, true, 5, {}, [], [], [], [], [], [], []⟩
def scrubbing (s : State) : State := { s with tru.scrubs := [theScrub 1] }
def scrubAt (k : Nat) : State := { powered with tru.scrubs := [theScrub k] }
def graceScrub : Scrub := { theScrub 3 with extents := [7] }
def scrubWaiting : State := { powered with tru.scrubs := [graceScrub], dir.extents := [(7, { st := .grace 5 0 })] }
def stream : IdeStream := ⟨key, some 5, true, 1⟩
def runningTdi : State := { powered with tru.tdis := [(5, .run)], tru.streams := [(2, stream)] }
def confidential : Plate := { parts := [(5, { valid := true, confidential := true })] }
def lockable : State := { withPlate confidential with start := powered.start, tru.sessions := [1], tru.streams := [(2, stream)] }

/-! ### Start-up, power and cooling -/

def readyForMain : State :=
  { start := { stage0Done := true, vaux := true, vinSince := some 0 }, cool.windows := 1, time := { elapsed := 4000000 } }
def stage (k : Nat) : State :=
  { plt := { st := .sealed }, start := { stage := k, stageRunning := true, vaux := true, sysRst := true, mainOn := true } }
def hotStack : State := { pwr.stacks8 := [(2, { junction := 105 })], time := { elapsed := 64 } }
def goodFlow : CoolSample := ⟨40, 50, 40, 50, 1000, 1000, false, false⟩
def lowFlow : CoolSample := { goodFlow with flowTop := 0, flowBot := 0 }
def warned : State := { pwr := { hold := true, holdCause := 2 }, cool := { warn := true }, time := { elapsed := 240000000 } }
def midPass : State := { time := { now := 250 } }
def heldByHand : State := { pwr := { hold := true, holdCause := 16 }, plt := { st := .sealed }, time := { reg := true } }

/-! ### Faults and management -/

def hung : State := { gravers := [(7, { st := .working })], time := { elapsed := 128 } }
def event : Record := ⟨5, 2, 0, 1, 0, []⟩
def fault : Record := ⟨5, 2, 1, 1, 0, []⟩
def assemblyOf (bs : List Byte) : State := { powered with mgmt.assembly := [(0, ⟨1, 1, bs⟩)] }
def assembling : State := assemblyOf [1]
def assemblingLong : State := assemblyOf (List.replicate 4160 1)
def verifying : State := { powered with mgmt.update := .verify, mgmt.banks := [(1, { fresh := true })] }
/-- A register request over SMBus: command 1 reads, 2 writes one register of value 5. -/
def regMsg (cmd off : Nat) : List Byte :=
  [0x7E, 0, 0] ++ leBytes 1 cmd ++ [0] ++ leBytes 2 1 ++ leBytes 4 off ++ if cmd = 2 then leBytes 8 5 else []
def withMsg (m : List Byte) : State := { powered with mgmt.messages := [(0, m)] }
def nextOf (o : Host.Outcome State Fault Refusal) : State := match o with | .next t => t | _ => {}
theorem nextOf_eq {o : Host.Outcome State Fault Refusal} (h : (match o with | .next _ => true | _ => false) = true) : o = .next (nextOf o) := by
  cases o <;> simp_all [nextOf]
def writeState : State := { withMsg (regMsg 2 0x500020) with start.stage := 4 }
def regWritten : State :=
  nextOf (exec (.registerWrite 0 (u (regMsg 2 0x500020) 7 4) 8 (BitVec.ofNat 64 (u (regMsg 2 0x500020) 11 8)))
    (dropMessage .smbus (regMsg 2 0x500020) writeState))
theorem regWritten_eq : exec (.registerWrite 0 (u (regMsg 2 0x500020) 7 4) 8 (BitVec.ofNat 64 (u (regMsg 2 0x500020) 11 8)))
    (dropMessage .smbus (regMsg 2 0x500020) writeState) = .next regWritten := nextOf_eq (by decide +kernel)
theorem reset_fifo : fifoBounded State.reset := ⟨by decide, by decide, by decide, by decide⟩
theorem reset_memories : memoriesCanonical State.reset :=
  ⟨rfl, rfl, rfl, rfl, rfl, rfl, fun _ h => absurd h (List.not_mem_nil)⟩

end Sys2Proof.W
end

