-- ==== Sys2Proof/WellFormed.lean ====
section
/-! DEFINITION. Which operand values name something the manual's machine has: unit indices in range, register widths,
lane and port numbers. A command outside these names no unit of the node. -/

namespace Sys2Proof

/-- Function indices of R342: PF0 is 0, VF n is 1 + n, PF1 is 129 (13_host_attachment.md). -/
def fnOk (f : Nat) : Bool := f < 130
/-- Global graver indices of R8 (00_scope.md). -/
def graverOk (g : Nat) : Bool := g < 96
/-- Connection indices of R29 (01_node_overview.md). -/
def connOk (c : Nat) : Bool := c < 65536
/-- Hardware partitions of R29. -/
def partOk (p : Nat) : Bool := p < 128
/-- Stacks GS0 to GS5, VS0, VS1 (00_scope.md). -/
def stackOk (s : Nat) : Bool := s < 8
/-- Islands that run lines: 0 to 16 (08_plates.md R211). -/
def islandOk (i : Nat) : Bool := i < 17
/-- Ports P0 to P7. -/
def portOk (p : Nat) : Bool := p < 8
/-- Lanes L0 to L3 of a port. -/
def laneOk (l : Nat) : Bool := l < 4
/-- A TFX header is 32 bytes long (12_transport.md), and the frame came by a lane of its port. -/
def RxFrame.wf (x : RxFrame) : Bool := x.hdr.length == 32 && laneOk x.lane

/-- Every operand names something the node has. -/
def Instr.wf : Instr → Bool
  | .registerWrite f _ w _ | .rcFieldRead f _ w => fnOk f && (w == 4 || w == 8)
  | .unalignedAccess f _ _ _ => fnOk f
  | .strobe d => d.all fun x => x.1 < 18
  | .attn c | .append c _ | .commit c _ | .cancel c | .childImpr c | .moveOutCompletion c | .move c | .export_ c
  | .heartbeat c | .peersLost c | .barrier c | .ackSend c | .retransmit c _ | .rollStall c | .creditShrink c
  | .closingEnd c | .rdmaRd c _ | .rdmaWr c _ | .atomic c | .trig c | .resp c | .offerExpiry c _ => connOk c
  | .bestEffortDispatch p _ | .search p | .count p | .read p | .invalidate p | .write p | .validate p | .swap p
  | .release p | .bulkInvalidate p | .writeBackPass p => partOk p
  | .attnTokenTaken f | .contextWrite f | .extentGet f | .extentWrite f | .extentPut f | .stage f | .rehome f _
  | .evict f | .writeBack f | .moveOut f _ | .moveOutTimeout f | .exportOut f _ | .pageWrite f | .tierRead f _
  | .tierWrite f _ | .tierTrim f _ | .zeroSlots f | .zeroTiles f | .zeroB2 f | .send f | .regionReg f
  | .regionDereg f | .ringBind f | .counterReset f | .postWr f | .wrCancel f | .connClose f | .hostAttn f
  | .hostCancel f | .flr f => fnOk f
  | .cqDoorbell f c _ _ | .listCompletion f c | .cqEnable f c _ => fnOk f && c < 5
  | .cancelAtSweepBoundary g | .sweep1 g _ | .sweep2 g _ | .sweep3 g _ _ | .blockClose g | .sheetPatrol g _ _
  | .bankReady g | .overrun g | .graverHang g => graverOk g
  | .chainMerge s _ _ _ | .thermalDemand s => s < 6
  | .extraRefresh s | .burnisherZero s | .dramTempSample s _ => stackOk s
  | .windowLine i _ | .banksLine i _ | .refreshLine i _ _ | .retrainLine i _ | .dircycLine i _ | .linkLine i _ => islandOk i
  | .maintLine i _ _ l => islandOk i && l.all fun c => c < 16
  | .closeLine i _ | .sendLine i _ | .beatLine i _ | .adaptLine i _ | .sampleLine i _ => islandOk i
  | .islandAck i => i < 18
  | .tierProgramDone _ l => l.all fun c => c < 16
  | .tileStands s t _ | .stageReadFailed s t | .tileFree s t => s < 6 && t < 57344
  | .scraperEvict p s => partOk p && s < 8
  | .directoryLeaseExpiry e => e < 262144
  | .extentGraceEnd x => x < 1048576
  | .reverify s _ => s < 6553600
  | .laneTrained p l _ | .laneLost p l _ | .laneReturn p l => portOk p && laneOk l
  | .prtCtrlRetrain p m => portOk p && m < 16
  | .portDrop p | .portReturn p | .frameStart p | .tfxFrameAccept p => portOk p
  | .frameReceive p x => portOk p && x.wf
  | .ringWrite r | .post r _ _ | .reclaim r _ | .ringLeaseExpiry r => r < 256
  | .hubB2map i w _ => i < 64 && (w == 4 || w == 8)
  | .remoteLoad o n => o < 2 ^ 36 && n ≤ 64
  | .remoteStore o d => o < 2 ^ 36 && d.length ≤ 64
  | .lockInterface v _ | .startInterface v | .stopInterface v => v < 128
  | .vauxInRange _ _ a | .sysRstN _ _ _ a => a < 4
  | .pwrGgateReq i _ => i < 2
  | .pwrGate m _ => m < 256
  | .coreReset c => c < 4
  | .evtSel i => i < 1048576
  | .updateComponent c _ _ _ _ => c == 1 || c == 2
  | .hostLinkTrained l sp _ _ _ => l < 2 && sp < 4
  | .junctionTemperatureSample d _ => d < 7
  | .setEndpointId _ e => e < 256
  | .attnCheckStroke _ _ | .admissionStroke _ _ | .admissionLookup _ _ | .workDispatch _ _ | .tailClearOnClose _
  | .stateOnlySwapRetry | .directoryPatrol _ | .collatorMerge _ _ _ | .collatorEntryClose _ _ | .orphan _ _
  | .tierStallRetry _ | .fshCtrlSkip | .flashMount _ _ | .pltLoad _ | .loadComplete | .pltSeal | .rankSwitch
  | .pltArm | .pltCommit | .pltAbort | .deltaBoundary | .plateLost | .ppsEdge _ _ | .phaseStep | .markMissing
  | .setSeconds | .rereg | .registration _ _ | .timCtrlBarrier | .barrierOutPulse | .barrierInEdge _ | .barrierStart
  | .perst | .deadTarget _ | .keyOffer | .keyAccept | .keyErase | .curveOpDone | .scrub | .scrubStep _ _ _ | .fuseSvn
  | .curveMult | .unfence _ | .b2Write | .b2Read | .getMeasurements _ _ _ | .keyExchange _ _ | .ideKm _ _ _ _
  | .ideFail _ | .cut | .deferredTakesEffect | .vinMainRange _ | .stageComplete _ | .mainPowerStart
  | .powerSample _ _ _ | .flowWindow _ | .coolantCut | .cap _ | .gateTakesEffect | .pwrCtrlSkip | .holdEnter | .holdExit
  | .restart | .off | .leaseRevoked _ | .trustRestart | .reconcile | .traceRecordWrite | .clearUe | .clearOther
  | .wearUpdate _ | .mctpPacket _ _ _ _ _ _ | .regRead _ | .regWrite _ | .getSensorReading _ | .getPdr _
  | .setEventReceiver _ | .pollForPlatformEvent | .platformEventRetry _ | .sensorRefresh | .requestUpdate
  | .verifyComponent | .applyComplete | .activateFirmware _ | .cancelUpdate | .updateTimeout
  | .hostPowerManagementRequest _ => true

end Sys2Proof
end

