-- ==== Sys2Proof/Tests/Slice0.lean ====
section
/-! SUPPORT. Tests of the model: ill-formed commands, worked examples of the manual, and for every statement with hypotheses
states and operands that meet them. -/

open Sys2Proof Sys2Proof.Machine Sys2Proof.Safety

set_option Elab.async false

namespace Sys2Proof.Tests

/-! ### Ill-formed commands: one for each check of `Instr.wf` -/

theorem test_wf_functions :
    [Instr.registerWrite 130 0 4 0, .registerWrite 0 0 2 0, .rcFieldRead 130 0 4, .rcFieldRead 0 0 16, .unalignedAccess 130 1 4 false,
     .attnTokenTaken 130, .contextWrite 130, .stage 130, .send 130, .flr 130, .hostAttn 130, .cqDoorbell 130 0 0 [],
     .cqDoorbell 0 5 0 [], .listCompletion 0 5, .cqEnable 0 5 true].all (fun i => !i.wf) = true := by decide

theorem test_wf_connections :
    [Instr.attn 65536, .append 65536 none, .move 65536, .heartbeat 65536, .retransmit 65536 0, .rdmaWr 65536 false,
     .offerExpiry 65536 0].all (fun i => !i.wf) = true := by decide

theorem test_wf_units :
    [Instr.search 128, .bestEffortDispatch 128 [], .scraperEvict 128 0, .scraperEvict 0 8, .sweep1 96 [], .bankReady 96,
     .chainMerge 6 0 [] [], .thermalDemand 6, .extraRefresh 8, .dramTempSample 8 0, .windowLine 17 0, .sendLine 17 0,
     .islandAck 18, .maintLine 6 0 [] [16], .strobe [(18, 1)], .coreReset 4, .junctionTemperatureSample 7 0].all (fun i => !i.wf) = true := by decide

theorem test_wf_records :
    [Instr.tileStands 6 0 [], .tierProgramDone 0 [16], .tileFree 0 57344, .directoryLeaseExpiry 262144, .extentGraceEnd 1048576, .reverify 6553600 true,
     .evtSel 1048576, .ringWrite 256, .post 256 0 [], .hubB2map 64 4 0, .hubB2map 0 3 0, .remoteLoad (2 ^ 36) 1, .remoteLoad 0 65,
     .remoteStore (2 ^ 36) [], .lockInterface 128 0, .startInterface 128].all (fun i => !i.wf) = true := by decide

theorem test_wf_wires :
    [Instr.laneTrained 8 0 .none, .laneTrained 0 4 .none, .prtCtrlRetrain 0 16, .portDrop 8,
     .frameReceive 8 ⟨0, true, 0, false, 0, 6, 0, false, 0, 0, List.replicate 32 0, [], none, 0, 0, 0⟩,
     .frameReceive 0 ⟨0, true, 0, false, 0, 6, 0, false, 0, 0, [], [], none, 0, 0, 0⟩,
     .frameReceive 0 ⟨0, true, 0, false, 0, 6, 0, false, 0, 0, List.replicate 32 0, [], none, 4, 0, 0⟩, .vauxInRange ⟨3300, 0⟩ false 4,
     .sysRstN true 0 false 4, .pwrGgateReq 2 0, .pwrGate 256 false, .hostLinkTrained 2 0 0 false false,
     .hostLinkTrained 0 4 0 false false, .setEndpointId .smbus 256, .updateComponent 3 [] 0 0 true].all
      (fun i => !i.wf) = true := by decide

theorem test_wf_accepts :
    [Instr.registerWrite 129 0x100000 8 1, .attn 65535, .sweep1 95 [], .islandAck 17, .laneTrained 7 3 .kr1of200, .tileFree 5 57343,
     .reverify 6553599 false].all (fun i => i.wf) = true := by decide

/-! ### The manual's worked examples -/

/-- 03_page_directory.md, worked example: the key and the data of the entry found. -/
theorem test_dir_key : dirKey 37 6000 37 2 512 = 0x02000212805DC025 := by decide +kernel
theorem test_dir_data : dirData 45100 35 true = 0x00000630B02C := by decide +kernel
theorem test_page_word : pageWord 0 2000000 = 0x001E8480 ∧ slotStack 2000000 = 2 := by decide +kernel

/-- 02_kv_pages.md, worked example: an MXFP4 nibble 0xB under scale 0x7C is −0.1875, an MXINT8 0xA0 under 0x80 is −3. -/
theorem test_element_values :
    rne32 (exMul (elemVal .e2m1 0xB) (scaleVal 0x7C)) = 0xBE400000 ∧
      rne32 (exMul (elemVal .int8 0xA0) (scaleVal 0x80)) = 0xC0400000 := by decide +kernel

/-- 02_kv_pages.md, worked example: where token 70,000's K and V rows and scales lie. -/
theorem test_row_places :
    rowOff ⟨1, 0, 3, 3, 2, 95, 3, true⟩ false 1 112 + 50 = 0x3C32 ∧ rowOff ⟨1, 0, 3, 3, 2, 95, 3, true⟩ true 1 112 + 50 = 0xBC32 ∧
      scaleOff ⟨1, 0, 3, 3, 2, 95, 3, true⟩ false 1 112 + 3 = 65536 + 0x3C3 ∧
      scaleOff ⟨1, 0, 3, 3, 2, 95, 3, true⟩ true 1 112 + 3 = 65536 + 0xBC3 := by decide +kernel

/-- 04_graver_engines.md R93, worked example: 3.0 and 0x3DCD in BF16 become 0x7C and 0x55 under scale 0x78. -/
theorem test_query_conversion :
    convertBlock .e4m3 [(false, fVal 0x40400000), (false, fVal 0x3DCD0000)] = (0x78, [0x7C, 0x55]) := by decide +kernel

/-- 04_graver_engines.md, one row end to end: the weights, their sum in token order, and the quantised group. -/
theorem test_row_weights :
    rowWeights 0 [fNegInf, 0, 0xBEB17218, 0xBF317218] = [0, 0x3F800000, 0x3F3504F3, 0x3F000000] ∧
      [(0x3F800000 : F32), 0x3F3504F3, 0x3F000000].foldl (fAdd false) 0 = 0x400D413D := by decide +kernel

/-- 06_impressions_and_collation.md, worked example: row 0 through the last two merges. -/
theorem test_row_merges :
    mergeRows [⟨0x3F317218, 0x40400000, 131072, [0x3FC00000]⟩] [⟨0, 0x400D413D, 48800, [0x3F900000]⟩]
        = [⟨0x3F317218, 0x4083504F, 179872, [0x40040000]⟩] ∧
      mergeRows [⟨0x3F317218, 0x4083504F, 179872, [0x40040000]⟩] [⟨0x3F317218, 0x3F800000, 8, [0xBF000000]⟩]
        = [⟨0x3F317218, 0x40A3504F, 179880, [0x3FC80000]⟩] := by decide +kernel

/-- 11_fabric_ports.md R300 to R302, worked example: the coded block less its CHECK. -/
theorem test_stipple_block :
    let w := [0x3F800000, 0, 0, 0, 0x3FC00000, 0xBF000000, 0, 0, 0, 0, 0, 0, 0, 0, 0x40040000, 0x3F800000]
    let b := (encodeBlock 1 (w.flatMap (leBytes 4))).1
    b.take 6 = [0x0D, 0x00, 0x40, 0x00, 0x19, 0x00] ∧
      b.drop 8 = [0x7F, 0x7E, 0x80, 0x20, 0x0A, 0x80, 0x10, 0x0F, 0x04, 0x00, 0, 0, 0, 0, 0, 0x40, 0, 0, 0x80, 0, 0, 0x04, 0, 0, 0] ∧
      decodeSegment 1 64 b = some (w.flatMap (leBytes 4)) := by decide +kernel

/-- 12_transport.md, worked example: the credit units of the ATTN's two segments and of the IMPR's. -/
theorem test_credit_units : segUnits 9024 + segUnits 608 = 39 ∧ segUnits 9024 + segUnits 8472 = 70 := by decide +kernel

/-- 00_scope.md, worked example: G37 is GE5 of GS2, and G95 is GE15 of GS5. -/
theorem test_graver_names : 37 / 16 = 2 ∧ 37 % 16 = 5 ∧ 0x100000 + 95 * 0x1000 = 0x15F000 := by decide

/-! ### Steps -/

/-- On an empty queue the block idles. -/
theorem test_idle : step State.reset = .next State.reset := rfl

/-- A command at the front of the queue runs with the queue's rest. -/
theorem test_queue :
    step { State.reset with pending := [.ppsEdge 100 true, .perst] } = exec (.ppsEdge 100 true) { State.reset with pending := [.perst] } :=
  rfl

/-- No word spells a command. -/
theorem test_no_words : decodeTableWord 64 0xFFFFFFFFFFFFFFFF = none ∧ State.reset.withFetchWord 8 1 = State.reset := by decide +kernel

/-! ### The hypotheses of the statements can be met, clause by clause -/

theorem witness_StepRunsFrontCommand :
    (∃ (c : Instr) (rest : List Instr) (s : State), (s.pending = c :: rest)) ∧
    (∃ (s : State), (s.pending = [])) := by
  refine ⟨⟨Instr.rereg, (([] : List Instr) : List Instr), (({ pending := [.rereg] } : State)), ?_⟩, ⟨State.reset, ?_⟩⟩
  all_goals decide +kernel

theorem witness_CountedEvent :
    (∃ (c : Ctr), (c.lo < 64) ∧ (0 < c.width)) := by
  refine ⟨cPpsGlitch, ?_⟩
  all_goals and_intros
  all_goals decide +kernel

theorem witness_PpsEdgeAcquires :
    (∃ (s : State), (s.time.counting = true)) ∧
    (∃ (s : State), (s.time.counting = true) ∧ (s.time.lock = .free)) ∧
    (∃ (x f : Nat) (s : State), (s.time.counting = true) ∧ (s.time.lock = .acquiring) ∧ (s.time.firstEdge = some f) ∧ (s.time.setCount =
     none) ∧ (f + 8000000000 ≤ x + 1200000) ∧ (x ≤ f + 8000000000 + 1200000) ∧ (s.time.ppsDelay ≤ x)) ∧
    (∃ (x f : Nat) (s : State), (s.time.counting = true) ∧ (s.time.lock = .acquiring) ∧ (s.time.firstEdge = some f) ∧ (x + 1200000 < f +
     8000000000 ∨ f + 8000000000 + 1200000 < x)) := by
  refine ⟨⟨W.counting, ?_⟩, ⟨W.counting, ?_⟩, ⟨8000000100, 100, W.acquiring, ?_⟩, ⟨300, 100, W.acquiring, ?_⟩⟩
  all_goals and_intros
  all_goals decide +kernel

theorem witness_RegistrationMark :
    (∃ (x sec : Nat) (s : State), (s.time.counting = true) ∧ (s.time.lock = .locked) ∧ (s.time.setCount = none) ∧ (s.time.markedSecond ≠
     some sec) ∧ (sec * 8000000000 + s.time.ppsDelay ≤ x + 8000) ∧ (x ≤ sec * 8000000000 + s.time.ppsDelay + 8000)) ∧
    (∃ (x : Nat) (s : State), (s.time.counting = true) ∧ (s.time.lock = .locked) ∧ (8000 < (phaseError x (nearestSecond x s) s).natAbs ∨
     s.time.markedSecond = some (nearestSecond x s))) ∧
    (∃ (s : State), (s.time.now / 250 % 64 = 63) ∧ (s.time.slew ≠ 0) ∧ (s.sch.applied.contains (16, 0x10002) = false)) := by
  refine ⟨⟨16000000040, 2, W.locked, ?_⟩, ⟨12000000000, W.locked, ?_⟩, ⟨W.slewing, ?_⟩⟩
  all_goals and_intros
  all_goals decide +kernel

theorem witness_HoldoverAndCount :
    (∃ (l : Nat) (s : State), (s.time.lock = .locked) ∧ (s.time.lastSecond = some l) ∧ ((l + 1) * 8000000000 + s.time.ppsDelay + 8000 <
     s.time.now * 8) ∧ (s.time.missing < 7)) ∧
    (∃ (l : Nat) (s : State), (s.time.lock = .holdover) ∧ (s.time.lastSecond = some l) ∧ ((l + 1) * 8000000000 + s.time.ppsDelay + 800000
     < s.time.now * 8) ∧ (s.time.missing = 7)) ∧
    (∃ (s : State), (s.time.secondsSet = false) ∧ (s.time.setCount = none)) ∧
    (∃ (s : State), (s.time.secondsSet = true) ∧ (s.pwr.hold = false) ∧ (s.time.setCount = none) ∧ (s.time.lastSecond ≠ none) ∧
     (s.time.lastSecond ≠ some (s.time.seconds - 1) ∨ s.time.seconds = 0)) := by
  refine ⟨⟨0, W.late, ?_⟩, ⟨7, W.lost7, ?_⟩, ⟨W.counting, ?_⟩, ⟨W.secondsSet, ?_⟩⟩
  all_goals and_intros
  all_goals decide +kernel

theorem witness_IslandRegistration :
    (∃ (f : Nat) (s : State), (f % 262144 = 0) ∧ (s.start.stage = 5) ∧ (s.bar.registered = false) ∧ (s.bar.regEnd = none) ∧ (s.time.lock =
     .locked) ∧ (s.bar.regWanted = false) ∧ (s.time.now / 250 % 64 = 0) ∧ (s.bar.regPass ≤ s.time.now / 16000)) ∧
    (∃ (m : Nat) (s : State), (m % 262144 ≠ 0) ∧ (regDue s = true) ∧ (s.time.now / 250 % 64 = 0) ∧ (s.bar.regPass ≤ s.time.now / 16000) ∧
     (s.bar.regTries < 2)) ∧
    (∃ (m : Nat) (s : State), (m % 262144 ≠ 0) ∧ (s.start.stage = 5) ∧ (regDue s = true) ∧ (s.time.now / 250 % 64 = 0) ∧ (s.bar.regPass ≤
     s.time.now / 16000) ∧ (s.bar.regTries = 2)) ∧
    (∃ (s : State), (s.pwr.hold = true)) ∧
    (∃ (s : State), (s.pwr.hold = false)) ∧
    (∃ (p : Nat) (s : State), (s.bar.regEnd = some p) ∧ (p ≤ passNow s) ∧ (s.bar.regWanted = false) ∧ (s.start.cause ≠ 8)) ∧
    (∃ (p : Nat) (s : State), (s.bar.regEnd = some p) ∧ (passNow s < p)) := by
  refine ⟨⟨0, W.stage5, ?_⟩, ⟨4, W.stage5, ?_⟩, ⟨4, ({ W.stage5 with bar.regTries := 2 } : State), ?_⟩, ⟨W.held, ?_⟩, ⟨State.reset, ?_⟩,
    ⟨0, ({ State.reset with bar.regEnd := some 0 } : State), ?_⟩, ⟨1, ({ State.reset with bar.regEnd := some 1 } : State), ?_⟩⟩
  all_goals and_intros
  all_goals decide +kernel

theorem witness_BarrierChecks :
    (∃ (s : State), (s.bar.pin = false) ∧ (s.time.run ≠ 2) ∧ (passNow s + 2 ≤ s.bar.startPass) ∧ (s.bar.pendingId < s.bar.nextId) ∧
     (s.bar.nextId < 4294967296) ∧ (nodeConns s = [])) ∧
    (∃ (s : State), (s.bar.pin = false) ∧ (s.bar.startPass < passNow s + 2)) ∧
    (∃ (s : State), (s.bar.pin = true)) ∧
    (∃ (s : State), (s.bar.pinPass = some (passNow s)) ∧ (s.time.now / 250 % 64 = 32) ∧ (s.bar.barrierOut = false)) ∧
    (∃ (x : Nat) (s : State), (32 ≤ (x - s.time.barDelay) / 8 / 250 % 64) ∧ ((x - s.time.barDelay) / 8 / 250 % 64 ≤ 47)) ∧
    (∃ (x : Nat) (s : State), ((x - s.time.barDelay) / 8 / 250 % 64 < 32 ∨ 47 < (x - s.time.barDelay) / 8 / 250 % 64)) ∧
    (∃ (p : Nat) (s : State), (s.bar.pendingPass = some p) ∧ (s.time.run = 1) ∧ (s.time.now / 250 % 64 = 0) ∧ (p ≤ passNow s) ∧
     (s.time.reg = true) ∧ (s.time.lock = .locked) ∧ (s.time.settling = false) ∧ (s.pwr.hold = false)) ∧
    (∃ (p : Nat) (s : State), (s.bar.pendingPass = some p) ∧ (s.time.run = 1) ∧ (s.time.now / 250 % 64 = 0) ∧ (p ≤ passNow s) ∧
     (s.time.reg = false ∨ s.pwr.hold = true)) ∧
    (∃ (s : State), (s.bar.repeat_ = true) ∧ (s.bar.outLow = none)) := by
  refine ⟨⟨W.barrier, ?_⟩, ⟨State.reset, ?_⟩, ⟨(({ bar := { pin := true } } : State)), ?_⟩,
    ⟨(({ time := { now := 8000 }, bar := { pinPass := some 0 } } : State)), ?_⟩, ⟨64000, State.reset, ?_⟩, ⟨0, State.reset, ?_⟩, ⟨2,
    W.starting, ?_⟩, ⟨2, ({ W.starting with time.reg := false } : State), ?_⟩, ⟨({ State.reset with bar.repeat_ := true } : State), ?_⟩⟩
  all_goals and_intros
  all_goals decide +kernel

theorem witness_BarrierMessage :
    (∃ (c : Nat) (m : InMsg) (b : Barrier) (s : State), (inboxFind c 0x32 false s = some m) ∧ ((connRec c s).requester = false) ∧
     (readBarrier m.body = some b) ∧ (s.time.run ≠ 2) ∧ (b.setSeconds = false) ∧ (passNow s + 2 ≤ b.startPass) ∧ (s.bar.pendingId < b.id)
     ∧ (b.id < 4294967296) ∧ (b.hops = 0)) ∧
    (∃ (c : Nat) (m : InMsg) (s : State), (inboxFind c 0x32 false s = some m) ∧ ((connRec c s).requester = true)) ∧
    (∃ (c : Nat) (m : InMsg) (s : State), (inboxFind c 0x32 false s = some m) ∧ ((connRec c s).requester = false) ∧ (readBarrier m.body =
     none)) := by
  refine ⟨⟨3, W.barrierMsg, (⟨10, 7, 0, false, 5, 0⟩ : Barrier), (W.inbox W.barrierMsg : State), ?_⟩, ⟨3, W.barrierMsg, (W.reqInbox
    W.barrierMsg : State), ?_⟩, ⟨3, (W.badMsg 0x32 : InMsg), (W.inbox (W.badMsg 0x32) : State), ?_⟩⟩
  all_goals and_intros
  all_goals decide +kernel

theorem witness_AttnTakenIn :
    (∃ (c : Nat) (m : InMsg) (s : State), (inboxFind c 0x01 false s = some m) ∧ (m.beyond = false) ∧ (inFlightCount s < 16384) ∧
     (s.sch.reqs.find? (sameOccurrence (aimed m s)) = none)) ∧
    (∃ (c : Nat) (m : InMsg) (s : State), (inboxFind c 0x01 false s = some m) ∧ (m.beyond = true)) ∧
    (∃ (m : InMsg) (s : State), (slotOf (connRec m.conn s).part (attnHdr m.body).slot 0 s = none)) ∧
    (∃ (m : InMsg) (sr : SlotRec) (a : Nat) (s : State), (slotOf (connRec m.conn s).part (attnHdr m.body).slot 0 s = some sr) ∧
     (nextOccurrence sr.slot m.at_ s = some a) ∧ (sr.conn = m.conn) ∧ (m.doneAt + 1 < a)) ∧
    (∃ (f : Nat) (c : Cmd) (s : State), (hostCmd f 0 1 s = some c) ∧ (tokenFree s = true) ∧ (partyStatus false c s = none) ∧ (cmdReason c
     attnArgs s = none) ∧ (hostAttnReason c s = none)) := by
  refine ⟨⟨3, (W.msg 0x01 : InMsg), (W.inbox (W.msg 0x01) : State), ?_⟩, ⟨3, ({ W.msg 0x01 with beyond := true } : InMsg), (W.inbox
    { W.msg 0x01 with beyond := true } : State), ?_⟩, ⟨(W.msg 0x01 : InMsg), State.reset, ?_⟩, ⟨(W.msg 0x01 : InMsg), W.slot, 5,
    W.planned, ?_⟩, ⟨0, W.hostAttnCmd, W.hostAttn, ?_⟩⟩
  all_goals and_intros
  all_goals decide +kernel

theorem witness_AttnCheckAndAdmission :
    (∃ (id : Nat) (r : Req) (c : Nat) (s : State), (reqFind id s = some r) ∧ (r.phase = .taken) ∧ (heldPart r.part s = false) ∧
     (r.bestEffort = false) ∧ (r.occ = some (strokeCount s + 1)) ∧ (r.conn = some c) ∧ (attnIngestBad r.body s = false) ∧ (attnStatus r
     (returnCredit c 1 r.body.length s) = 0)) ∧
    (∃ (id : Nat) (r : Req) (s : State), (reqFind id s = some r) ∧ (r.phase = .checked) ∧ (heldPart r.part s = false) ∧ (r.bestEffort =
     false) ∧ (r.occ = some (strokeCount s)) ∧ (admissionStatus r (lenAtAdmission r.hdr.ctx s) (coveredRange r.hdr (lenAtAdmission
     r.hdr.ctx s)).1 (coveredRange r.hdr (lenAtAdmission r.hdr.ctx s)).2 s = 0)) := by
  refine ⟨⟨0, W.req, 3, W.checkable, ?_⟩, ⟨0, W.checkedReq, W.admissible, ?_⟩⟩
  all_goals and_intros
  all_goals decide +kernel

theorem witness_LookupsAndDispatch :
    (∃ (id run : Nat) (rest : List Nat) (up : DirUpset) (r : Req) (s : State), (reqFind id s = some r) ∧ (r.phase = .lookups) ∧ (r.runs =
     run :: rest) ∧ (up.shadowUe = []) ∧ (∃ (q : State), lookupCycle r s = some q)) ∧
    (∃ (id : Nat) (r : Req) (sl : SlotRec) (a : Nat) (s : State), (reqFind id s = some r) ∧ (r.phase = .lookups) ∧ (r.runs = []) ∧
     (r.bestEffort = false) ∧ (r.slot = some sl) ∧ (r.occ = some a) ∧ (a + ceilDiv r.hits.length sl.lookups + max 1 (ceilDiv r.hits.length
     256) ≤ strokeCount s + 1)) ∧
    (∃ (p : Nat) (ue : List Nat) (r : Req) (s : State), (heldPart p s = false) ∧ (higherStageWaits s = false) ∧ (headReady p s = some r) ∧
     ((workOf r (allPages r ue s) s).all (fun x => graverOpen x.1 (shareStrokes s.mgmt.grade r.hdr r.geo x.2) s) = true) ∧ (bufferFree r s
     = true)) ∧
    (∃ (p : Nat) (r : Req) (s : State), (heldPart p s = false) ∧ (higherStageWaits s = false) ∧ (headReady p s = some r) ∧ ((workOf r
     (allPages r [] s) s).all (fun x => graverOpen x.1 (shareStrokes s.mgmt.grade r.hdr r.geo x.2) s) = true) ∧ (bufferFree r s = true)) ∧
    (∃ (s : State), (higherStageWaits s = true)) ∧
    (∃ (id : Nat) (r : Req) (sl : SlotRec) (a : Nat) (s : State), (reqFind id s = some r) ∧ (r.slot = some sl) ∧ (r.occ = some a) ∧
     (strokeCount s + 1 < a + ceilDiv r.hits.length sl.lookups + max 1 (ceilDiv r.hits.length 256))) := by
  refine ⟨⟨0, 64, [128], ⟨[], [], [], []⟩, W.lookupReq, ({ W.lookups with dir.freeCycles := 16 } : State), ?_⟩, ⟨0, W.dispReq, W.slot, 1,
    W.dispatchable, ?_⟩, ⟨0, [], W.beReq, W.beReady, ?_⟩, ⟨0, W.beReq, W.beReady, ?_⟩, ⟨W.merging, ?_⟩, ⟨0,
    { W.dispReq with occ := some 1000 }, W.slot, 1000, ({ W.checkable with sch := { reqs := [{ W.dispReq with occ := some 1000 }] } } :
    State), ?_⟩⟩
  all_goals and_intros
  all_goals first
    | with_reducible exact W.val_of (by decide +kernel)
    | with_reducible exact W.fst_of (by decide +kernel)
    | with_reducible exact W.snd_of
    | with_reducible exact W.some_of (by decide +kernel)
    | with_reducible exact W.pair_of (by decide +kernel)
    | with_reducible exact W.made_of (by decide +kernel)
    | with_reducible exact W.stored_of (by decide +kernel)
    | with_reducible exact W.waits_of (by decide +kernel)
    | decide +kernel

theorem witness_DirectoryPortReads :
    (∃ (p j : Nat) (c : DirCmd) (u s : State), (portTurn p 1 1 s = some (c, u)) ∧ (badIndex p c.index u = false) ∧ (reservedKey c.key =
     false) ∧ ((rawHits p c.key c.mask u).all (fun k => shadowAgrees k u) = true) ∧ ((dirMatches p c.key c.mask u).find? (fun k => c.index
     ≤ k) = some j)) ∧
    (∃ (p : Nat) (c : DirCmd) (u s : State), (portTurn p 1 1 s = some (c, u)) ∧ (badIndex p c.index u = false) ∧ (reservedKey c.key =
     false) ∧ ((rawHits p c.key c.mask u).all (fun k => shadowAgrees k u) = true) ∧ ((dirMatches p c.key c.mask u).find? (fun k => c.index
     ≤ k) = none)) ∧
    (∃ (p : Nat) (c : DirCmd) (u s : State), (portTurn p 1 1 s = some (c, u)) ∧ (badIndex p c.index u = true)) ∧
    (∃ (p : Nat) (c : DirCmd) (u s : State), (portTurn p 2 1 s = some (c, u)) ∧ (reservedKey c.key = false) ∧ ((rawHits p c.key c.mask
     u).all (fun k => shadowAgrees k u) = true)) ∧
    (∃ (p : Nat) (c : DirCmd) (u s : State), (portTurn p 3 1 s = some (c, u)) ∧ (badIndex p c.index u = false) ∧ (shadowAgrees c.index u =
     true)) ∧
    (∃ (p : Nat) (c : DirCmd) (u s : State), (portTurn p 1 1 s = some (c, u)) ∧ (badIndex p c.index u = false) ∧ (reservedKey c.key =
     true)) ∧
    (∃ (p op cost : Nat) (c : DirCmd) (s : State), (∃ (u : State), portTurn p op cost s = some (c, u))) ∧
    (∃ (p : Nat) (s : State), (portTurn p 1 1 s = none)) := by
  refine ⟨⟨0, 3, (W.portCmd 1 0), (W.orPair (W.portCmd 0 0) (portTurn 0 1 1 (W.dirState 1 0))).2, (W.dirState 1 0), ?_⟩, ⟨0, (W.portCmd 1
    4), (W.orPair (W.portCmd 0 0) (portTurn 0 1 1 (W.dirState 1 4))).2, (W.dirState 1 4), ?_⟩, ⟨0, (W.portCmd 1 5000), (W.orPair
    (W.portCmd 0 0) (portTurn 0 1 1 (W.dirState 1 5000))).2, (W.dirState 1 5000), ?_⟩, ⟨0, (W.portCmd 2 0), (W.orPair (W.portCmd 0 0)
    (portTurn 0 2 1 (W.dirState 2 0))).2, (W.dirState 2 0), ?_⟩, ⟨0, (W.portCmd 3 3), (W.orPair (W.portCmd 0 0) (portTurn 0 3 1
    (W.dirState 3 3))).2, (W.dirState 3 3), ?_⟩, ⟨0, { W.portCmd 1 0 with key := BitVec.allOnes 80 }, (W.orPair (W.portCmd 0 0) (portTurn
    0 1 1 W.reservedSearch)).2, W.reservedSearch, ?_⟩, ⟨0, 4, 1, (W.portCmd 4 3), (W.dirState 4 3), ?_⟩, ⟨0, State.reset, ?_⟩⟩
  all_goals and_intros
  all_goals first
    | with_reducible exact W.orPair_eq (by decide +kernel)
    | with_reducible exact W.val_of (by decide +kernel)
    | with_reducible exact W.fst_of (by decide +kernel)
    | with_reducible exact W.snd_of
    | with_reducible exact W.some_of (by decide +kernel)
    | with_reducible exact W.pair_of (by decide +kernel)
    | with_reducible exact W.made_of (by decide +kernel)
    | with_reducible exact W.stored_of (by decide +kernel)
    | with_reducible exact W.waits_of (by decide +kernel)
    | decide +kernel

theorem witness_DirectoryPortUpdates :
    (∃ (p : Nat) (c : DirCmd) (u s : State), (portTurn p 4 1 s = some (c, u)) ∧ (badIndex p c.index u = false) ∧ (shadowAgrees c.index u =
     true) ∧ ((dirEntry c.index u).v = true) ∧ (dataTail (dirEntry c.index u).data = false)) ∧
    (∃ (p : Nat) (c : DirCmd) (u s : State), (portTurn p 5 1 s = some (c, u)) ∧ (badIndex p c.index u = false) ∧ (shadowAgrees c.index u =
     true) ∧ ((dirEntry c.index u).v = false)) ∧
    (∃ (p : Nat) (c : DirCmd) (u s : State), (portTurn p 5 1 s = some (c, u)) ∧ (badIndex p c.index u = false) ∧ ((dirEntry c.index u).v =
     true)) ∧
    (∃ (p : Nat) (c : DirCmd) (u s : State), (portTurn p 6 9 s = some (c, u)) ∧ (badIndex p c.index u = false) ∧ (shadowAgrees c.index u =
     true) ∧ ((rawHits p (dirEntry c.index u).key fullMask u).all (fun k => shadowAgrees k u) = true) ∧ ((dirEntry c.index u).v = false) ∧
     ((dirEntry c.index u).held = true) ∧ ((dirEntry c.index u).lostExt = none) ∧ (keyCheckFails p (dirEntry c.index u).key u = false) ∧
     (dataReserved (dirEntry c.index u).data = false) ∧ ((dirMatches p (dirEntry c.index u).key fullMask u).any (fun k => k != c.index) =
     false) ∧ (extBuiltFor (dataExt (dirEntry c.index u).data) p u = true) ∧ (dataTail (dirEntry c.index u).data = false)) ∧
    (∃ (p : Nat) (c : DirCmd) (u s : State), (portTurn p 7 1 s = some (c, u)) ∧ (badIndex p c.index u = false) ∧ (shadowAgrees c.index u =
     true) ∧ (dataReserved c.data = false) ∧ (extBuiltFor (dataExt c.data) p u = true) ∧ ((dirEntry c.index u).v = true) ∧ (dataTail
     (dirEntry c.index u).data = false) ∧ (dataTail c.data = false) ∧ ((dirEntry c.index u).data = (dirPort p u).rdata)) ∧
    (∃ (p : Nat) (c : DirCmd) (u s : State), (portTurn p 7 1 s = some (c, u)) ∧ (badIndex p c.index u = false) ∧ (dataReserved c.data =
     false) ∧ (extBuiltFor (dataExt c.data) p u = true) ∧ ((dirEntry c.index u).v = true) ∧ (dataTail (dirEntry c.index u).data = false) ∧
     (dataTail c.data = false) ∧ ((dirEntry c.index u).data ≠ (dirPort p u).rdata)) ∧
    (∃ (p : Nat) (c : DirCmd) (u s : State), (portTurn p 8 1 s = some (c, u)) ∧ (badIndex p c.index u = false) ∧ (shadowAgrees c.index u =
     true) ∧ ((dirEntry c.index u).v = false) ∧ ((dirEntry c.index u).held = true) ∧ ((dirEntry c.index u).lostExt = none)) ∧
    (∃ (p : Nat) (c : DirCmd) (u s : State), (portTurn p 9 1 s = some (c, u)) ∧ (reservedKey c.key = false) ∧ ((rawHits p c.key c.mask
     u).all (fun k => shadowAgrees k u) = true)) ∧
    (∃ (p : Nat) (c : DirCmd) (u s : State), (portTurn p 6 9 s = some (c, u)) ∧ (badIndex p c.index u = false) ∧ (keyCheckFails p
     (dirEntry c.index u).key u = true)) ∧
    (∃ (p : Nat) (c : DirCmd) (u s : State), (portTurn p 8 1 s = some (c, u)) ∧ (badIndex p c.index u = false) ∧ ((dirEntry c.index u).v =
     false) ∧ ((dirEntry c.index u).held = false)) := by
  refine ⟨⟨0, (W.portCmd 4 3), (W.orPair (W.portCmd 0 0) (portTurn 0 4 1 (W.dirState 4 3))).2, (W.dirState 4 3), ?_⟩, ⟨0, (W.portCmd 5 7),
    (W.orPair (W.portCmd 0 0) (portTurn 0 5 1 (W.dirState 5 7))).2, (W.dirState 5 7), ?_⟩, ⟨0, (W.portCmd 5 3), (W.orPair (W.portCmd 0 0)
    (portTurn 0 5 1 (W.dirState 5 3))).2, (W.dirState 5 3), ?_⟩, ⟨0, (W.portCmd 6 9), (W.orPair (W.portCmd 0 0) (portTurn 0 6 9
    (W.dirState 6 9))).2, (W.dirState 6 9), ?_⟩, ⟨0, (W.portCmd 7 3), (W.orPair (W.portCmd 0 0) (portTurn 0 7 1 W.swapState)).2,
    W.swapState, ?_⟩, ⟨0, (W.portCmd 7 3), (W.orPair (W.portCmd 0 0) (portTurn 0 7 1 (W.setPort { W.swapPort with rdata := 5 }
    W.swapState))).2, (W.setPort { W.swapPort with rdata := 5 } W.swapState), ?_⟩, ⟨0, (W.portCmd 8 9), (W.orPair (W.portCmd 0 0)
    (portTurn 0 8 1 (W.dirState 8 9))).2, (W.dirState 8 9), ?_⟩, ⟨0, (W.portCmd 9 0), (W.orPair (W.portCmd 0 0) (portTurn 0 9 1
    (W.dirState 9 0))).2, (W.dirState 9 0), ?_⟩, ⟨0, (W.portCmd 6 50), (W.orPair (W.portCmd 0 0) (portTurn 0 6 9 (W.dirState 6 50))).2,
    (W.dirState 6 50), ?_⟩, ⟨0, (W.portCmd 8 50), (W.orPair (W.portCmd 0 0) (portTurn 0 8 1 (W.dirState 8 50))).2, (W.dirState 8 50), ?_⟩⟩
  all_goals and_intros
  all_goals first
    | with_reducible exact W.orPair_eq (by decide +kernel)
    | decide +kernel

theorem witness_DirectoryUpkeep :
    (∃ (i : Nat) (s : State), ((dirEntry i s).v = false) ∧ ((dirEntry i s).held = true) ∧ ((dirEntry i s).lost = false) ∧ ((dirEntry i
     s).heldAt + 4194304 ≤ s.time.elapsed)) ∧
    (∃ (x p pass : Nat) (s : State), ((extent x s).st = .grace p pass) ∧ (pass < passNow s) ∧ (s.sch.reqs = [])) ∧
    (∃ (ctx tenant : Nat) (s : State), (s.dir.tailClear.find? (fun x => x.2 == ctx) = some (tenant, ctx)) ∧ (∃ (q : State), takeNode 1 s =
     some q)) ∧
    (∃ (k : BitVec 80) (s : State), (s.dir.patrolCycles = 1) ∧ (s.dir.patrolPos < 262143) ∧ (shadowAgrees s.dir.patrolPos s = true) ∧ (k ≠
     0) ∧ (storeWf {} s.dir.entries = true)) ∧
    (∃ (w : StateSwap) (s : State), (s.dir.stateSwaps = [w]) ∧ (∃ (t : State), tryStateSwap w { s with dir.stateSwaps := [] } = some t)) ∧
    (∃ (s : State), ((s.dir.entries.map (·.1) ++ s.dir.shadows.map (·.1)).all (fun i => shadowAgrees i s) = true) ∧ (s.dir.patrolPos +
     s.dir.patrolCycles < 262144)) ∧
    (∃ (w : StateSwap) (s : State), (s.dir.stateSwaps = [w]) ∧ (dirLookup w.part w.key s = none)) ∧
    (∃ (w : StateSwap) (i p x : Nat) (q u s : State), (s.dir.stateSwaps = [w]) ∧ (dirLookup w.part w.key s = some i) ∧ (shadowAgrees i s =
     true) ∧ (w.changes.filter (fun c => c.applies (extent (dataExt (dirEntry i s).data) s)) ≠ []) ∧ (takeNode 1
     { s with dir.stateSwaps := [] } = some q) ∧ (extPart (extent (dataExt (dirEntry i s).data) s).st = some p) ∧ (allocExtent p q = some
     (x, u)) ∧ (x ≠ dataExt (dirEntry i s).data)) := by
  obtain ⟨x, u, hx, hn⟩ := W.swap_extent
  refine ⟨⟨9, ({ W.dirState 0 0 with time.elapsed := 5000000 } : State), ?_⟩, ⟨77, 0, 0, ({ W.dirState 0 0 with time.now := 160000 } :
    State), ?_⟩, ⟨5, 1, W.tailState, ?_⟩, ⟨(1 : BitVec 80), ({ W.dirState 0 0 with dir.patrolPos := 3, dir.patrolCycles := 1 } : State),
    ?_⟩, ⟨⟨0, W.key3, [⟨0, 4 * 2 ^ 28, 0, 0⟩]⟩, W.swapRetry, ?_⟩, ⟨({ W.dirState 0 0 with dir.patrolCycles := 64 } : State), ?_⟩, ⟨⟨0,
    W.key9, []⟩, ({ W.dirState 0 0 with dir.stateSwaps := [⟨0, W.key9, []⟩] } : State), ?_⟩, ⟨⟨0, W.key3, [⟨0, 4 * 2 ^ 28, 0, 0⟩]⟩, 3, 0,
    x, W.swapPaid, u, W.swapDue, ?_⟩⟩
  all_goals and_intros
  all_goals first
    | with_reducible exact W.val_of (by decide +kernel)
    | with_reducible exact W.fst_of (by decide +kernel)
    | with_reducible exact W.snd_of
    | with_reducible exact W.some_of (by decide +kernel)
    | with_reducible exact W.pair_of (by decide +kernel)
    | with_reducible exact W.made_of (by decide +kernel)
    | with_reducible exact W.stored_of (by decide +kernel)
    | with_reducible exact W.waits_of (by decide +kernel)
    | exact hx
    | exact hn
    | exact W.swapPaid_eq
    | decide +kernel

theorem witness_AppendAndCommit :
    (∃ (m : InMsg) (s : State), (nextWrite m.conn 0x03 s = some m) ∧ (rowsBad (appendHdr m.body) m.body s = false) ∧ (writeStatus (connRec
     m.conn s).part (connRec m.conn s).tenant (appendHdr m.body) m.body s ≠ 0)) ∧
    (∃ (m : InMsg) (s : State), (nextWrite m.conn 0x04 s = some m) ∧ ((commitHdr m.body).hasRows = false) ∧ (writeStatus (connRec m.conn
     s).part (connRec m.conn s).tenant (commitHdr m.body) m.body s = 0) ∧ (newLBad (commitHdr m.body) s = false)) ∧
    (∃ (c : Nat) (m : InMsg) (s : State), (nextWrite c 0x03 s = some m) ∧ (m.conn = c) ∧ (writeStatus (connRec c s).part (connRec c
     s).tenant (appendHdr m.body) m.body s = 0) ∧ ((appendHdr m.body).hasRows = true) ∧ (∃ (t : State), storeRows (writeTurn m s ==
     .bestEffort) ⟨(appendHdr m.body).ctx, (appendHdr m.body).layer, (appendHdr m.body).group, (appendHdr m.body).t0, tokenRecs (ctxGeo
     (appendHdr m.body).ctx s) (appendHdr m.body).nrows m.body⟩ s = .stored t)) ∧
    (∃ (c : Nat) (m : InMsg) (s : State), (nextWrite c 0x03 s = some m) ∧ (m.conn = c) ∧ (writeStatus (connRec c s).part (connRec c
     s).tenant (appendHdr m.body) m.body s = 0) ∧ ((appendHdr m.body).hasRows = true) ∧ (∃ (t : State), storeRows (writeTurn m s ==
     .bestEffort) ⟨(appendHdr m.body).ctx, (appendHdr m.body).layer, (appendHdr m.body).group, (appendHdr m.body).t0, tokenRecs (ctxGeo
     (appendHdr m.body).ctx s) (appendHdr m.body).nrows m.body⟩ s = .waits t)) ∧
    (∃ (c : Nat) (m : InMsg) (s : State), (nextWrite c 0x03 s = some m) ∧ (m.conn = c) ∧ (writeStatus (connRec c s).part (connRec c
     s).tenant (appendHdr m.body) m.body s = 0) ∧ ((appendHdr m.body).hasRows = true) ∧ (frozen (appendHdr m.body).ctx (appendHdr
     m.body).layer (appendHdr m.body).group s = false) ∧ (reachesDropped ⟨(appendHdr m.body).ctx, (appendHdr m.body).layer, (appendHdr
     m.body).group, (appendHdr m.body).t0, tokenRecs (ctxGeo (appendHdr m.body).ctx s) (appendHdr m.body).nrows m.body⟩ s = false) ∧
     (freshPages ⟨(appendHdr m.body).ctx, (appendHdr m.body).layer, (appendHdr m.body).group, (appendHdr m.body).t0, tokenRecs (ctxGeo
     (appendHdr m.body).ctx s) (appendHdr m.body).nrows m.body⟩ s = []) ∧ (∀ st, linkTurn (writeTurn m s == .bestEffort) [st] s = true)) ∧
    (∃ (c : Nat) (m : InMsg) (s : State), (nextWrite c 0x04 s = some m) ∧ (m.conn = c) ∧ (writeStatus (connRec c s).part (connRec c
     s).tenant (commitHdr m.body) m.body s = 0) ∧ ((commitHdr m.body).hasRows = true) ∧ (newLBad (commitHdr m.body) s = false) ∧ (frozen
     (commitHdr m.body).ctx (commitHdr m.body).layer (commitHdr m.body).group s = false) ∧ (reachesDropped ⟨(commitHdr m.body).ctx,
     (commitHdr m.body).layer, (commitHdr m.body).group, (commitHdr m.body).t0, tokenRecs (ctxGeo (commitHdr m.body).ctx s) (commitHdr
     m.body).nrows m.body⟩ s = false) ∧ (freshPages ⟨(commitHdr m.body).ctx, (commitHdr m.body).layer, (commitHdr m.body).group,
     (commitHdr m.body).t0, tokenRecs (ctxGeo (commitHdr m.body).ctx s) (commitHdr m.body).nrows m.body⟩ s = []) ∧ (∀ st, linkTurn
     (writeTurn m s == .bestEffort) [st] s = true)) := by
  refine ⟨⟨(W.badMsg 0x03 : InMsg), (W.inbox (W.badMsg 0x03) : State), ?_⟩, ⟨W.commitMsg, W.commitState, ?_⟩, ⟨3, W.appendMsg,
    W.appendState, ?_⟩, ⟨3, W.appendMsg, W.appendWaits, ?_⟩, ⟨3, W.appendMsg, W.appendState, ?_⟩, ⟨3, W.commitRowsMsg, W.commitRows, ?_⟩⟩
  all_goals and_intros
  all_goals first
    | with_reducible exact W.val_of (by decide +kernel)
    | with_reducible exact W.fst_of (by decide +kernel)
    | with_reducible exact W.snd_of
    | with_reducible exact W.some_of (by decide +kernel)
    | with_reducible exact W.pair_of (by decide +kernel)
    | with_reducible exact W.made_of (by decide +kernel)
    | with_reducible exact W.stored_of (by decide +kernel)
    | with_reducible exact W.waits_of (by decide +kernel)
    | exact fun _ => W.linkTurn_free rfl rfl rfl rfl (by decide +kernel) _
    | decide +kernel

theorem witness_CancelAndHostAttn :
    (∃ (c : Nat) (m : InMsg) (s : State), (heldPart (connRec c s).part s = false) ∧ (inboxFind c 0x05 false s = some m) ∧ (m.doneAt <
     strokeCount s) ∧ (s.sch.reqs.filter (fun q => q.tenant == (connRec c s).tenant && q.tag == u m.body 0 8 && q.phase == .taken) = []) ∧
     (m.body.length = 16) ∧ (zeroes (m.body.drop 8) = true) ∧ (s.sch.reqs.filter (fun q => q.tenant == (connRec c s).tenant && q.tag == u
     m.body 0 8 && inFlight q && !q.cancelled) = [])) ∧
    (∃ (c : Nat) (m : InMsg) (r : Req) (s : State), (heldPart (connRec c s).part s = false) ∧ (inboxFind c 0x05 false s = some m) ∧
     (m.doneAt < strokeCount s) ∧ (s.sch.reqs.filter (fun q => q.tenant == (connRec c s).tenant && q.tag == u m.body 0 8 && q.phase ==
     .taken) = []) ∧ (m.body.length = 16) ∧ (zeroes (m.body.drop 8) = true) ∧ (s.sch.reqs.filter (fun q => q.tenant == (connRec c
     s).tenant && q.tag == u m.body 0 8 && inFlight q && !q.cancelled) = [r]) ∧ (r.phase = .dispatched)) ∧
    (∃ (g : Nat) (r : Req) (s : State), ((graver g s).st = .working) ∧ ((graver g s).cancelled = true) ∧ ((graver g s).current = some
     r.id) ∧ (reqFind r.id s = some r) ∧ ((graver g s).block = none) ∧ ((graver g s).delayed = false)) ∧
    (∃ (f : Nat) (c : Cmd) (s : State), (hostCmd f 0 1 s = some c) ∧ (cmdReason c attnArgs s = none) ∧ (partyStatus false c s = none) ∧
     (hostAttnReason c s = none) ∧ (tokenFree s = true)) ∧
    (∃ (f : Nat) (c : Cmd) (s : State), (hostCmd f 0 2 s = some c) ∧ (cmdReason c [(0x00, 64)] s = none) ∧ (partyStatus false c s = none)
     ∧ (s.pwr.hold = false) ∧ (s.sch.reqs = [])) ∧
    (∃ (f : Nat) (c : Cmd) (s : State), (hostCmd f 0 2 s = some c) ∧ (cmdReason c [(0x00, 64)] s = none) ∧ (partyStatus false c s = none)
     ∧ (s.pwr.hold = true)) ∧
    (∃ (f : Nat) (c : Cmd) (s : State), (hostCmd f 0 2 s = some c) ∧ (cmdReason c [(0x00, 64)] s = none) ∧ (partyStatus false c s = none)
     ∧ (s.pwr.hold = false)) ∧
    (∃ (g : Nat) (r : Req) (b : OpenBlock) (s : State), ((graver g s).st = .working) ∧ ((graver g s).cancelled = true) ∧ ((graver g
     s).current = some r.id) ∧ (reqFind r.id s = some r) ∧ ((graver g s).block = some b) ∧ (b.swept = 3) ∧ ((graver g s).delayed = false))
     := by
  refine ⟨⟨3, W.cancelMsg, ({ W.inbox W.cancelMsg with time.now := 5000 } : State), ?_⟩, ⟨3, W.cancelMsg, W.dispatched,
    ({ W.inbox W.cancelMsg with time.now := 5000, sch.reqs := [W.dispatched] } : State), ?_⟩, ⟨2, W.dispatched, W.cancelledGraver, ?_⟩,
    ⟨0, W.hostAttnCmd, W.hostAttn, ?_⟩, ⟨0, W.hostCancelCmd, W.hostCancel, ?_⟩, ⟨0, W.hostCancelCmd,
    ({ W.hostCancel with pwr.hold := true } : State), ?_⟩, ⟨0, W.hostCancelCmd, W.hostCancel, ?_⟩, ⟨2, W.dispatched, (W.openBlock 3),
    (W.graverState { W.graverTaken with cancelled := true, block := some (W.openBlock 3) }), ?_⟩⟩
  all_goals and_intros
  all_goals decide +kernel

theorem witness_GraverSweeps :
    (∃ (g : Nat) (ue : List Nat) (r : Req) (b : OpenBlock) (s : State), (openAt g 0 s = some (r, b)) ∧ (readsPause g b.block s = false) ∧
     ((ue.filter fun p => b.block.pages.any fun x => x.page == p) = []) ∧ ((blockScores r b.block [] s).2 = false) ∧ (substituted r
     b.block false [] s = [])) ∧
    (∃ (g : Nat) (ueWords : List (Nat × Nat)) (r : Req) (b : OpenBlock) (s : State), (openAt g 1 s = some (r, b)) ∧ (sweptWords (ceilDiv
     (blockLen r b.block) 32) ueWords = [])) ∧
    (∃ (g : Nat) (ue : List Nat) (ueWords : List (Nat × Nat)) (r : Req) (b : OpenBlock) (s : State), (openAt g 2 s = some (r, b)) ∧
     (readsPause g b.block s = false) ∧ ((ue.filter fun p => (b.block.pages.any fun x => x.page == p) && !b.deadPages.contains p) = []) ∧
     (sweptWords (blockWeightWords r b) ueWords = []) ∧ (substituted r b.block true b.deadPages s = [])) ∧
    (∃ (g : Nat) (r : Req) (b : OpenBlock) (s : State), (openAt g 3 s = some (r, b)) ∧ ((graver g s).cancelled = false) ∧ ((graver g
     s).delayed = false)) ∧
    (∃ (g we ce : Nat) (b : OpenBlock) (s : State), ((graver g s).block = some b) ∧ ((graver g s).windowEnd = some we) ∧ ((graver g
     s).chainEnd = some ce) ∧ (b.openedAt < we) ∧ (we ≤ strokeCount s) ∧ (strokeCount s < ce) ∧ (b.overrun = false) ∧ ((graver g
     s).delayed = false)) ∧
    (∃ (g : Nat) (r : Req) (b : OpenBlock) (s : State), (openAt g 3 s = some (r, b)) ∧ ((graver g s).cancelled = false) ∧ ((graver g
     s).delayed = false) ∧ (((graver g s).descs.filter (fun d => d.req == r.id)).flatMap (·.blocks) = []) ∧ ((graver g s).descs.find? (fun
     d => d.req != r.id && d.opened) = none)) ∧
    (∃ (g : Nat) (s : State), (openAt g 0 s = none)) := by
  refine ⟨⟨2, [], W.dispatched, (W.openBlock 0), W.sweeping, ?_⟩, ⟨2, [], W.dispatched, (W.openBlock 1 : OpenBlock), (W.swept 1 : State),
    ?_⟩, ⟨2, [], [], W.dispatched, (W.openBlock 2 : OpenBlock), (W.swept 2 : State), ?_⟩, ⟨2, W.dispatched, (W.openBlock 3 : OpenBlock),
    (W.swept 3 : State), ?_⟩, ⟨2, 2, 5, (W.openBlock 3 : OpenBlock), ({ W.swept 3 with time.now := 750 } : State), ?_⟩, ⟨2, W.dispatched,
    (W.openBlock 3), (W.swept 3), ?_⟩, ⟨2, State.reset, ?_⟩⟩
  all_goals and_intros
  all_goals decide +kernel

theorem witness_ChainAndUpkeep :
    (∃ (st id : Nat) (r : Req) (e : ColEntry) (s : State), ((s.gravers.filter fun x => x.1 / 16 == st && x.2.finished.any fun f => f.1 ==
     id) ≠ []) ∧ ((s.gravers.filter fun x => x.1 / 16 == st && (!(openBlocks id x.2).isEmpty || x.2.current == some id)) = []) ∧ (reqFind
     id s = some r) ∧ (entryFind id s = some e) ∧ (e.closedAt = none)) ∧
    (∃ (g : Nat) (s : State), (∀ w, wordOn (graver g s) w = false)) ∧
    (∃ (g b : Nat) (s : State), ((graver g s).waking = [(b, s.time.elapsed)])) ∧
    (∃ (g : Nat) (w : Nat × Nat) (s : State), (wordOn (graver g s) w = true) ∧ ((graver g s).block = none)) ∧
    (∃ (n : Nat), (0 < n)) := by
  refine ⟨⟨0, 0, W.dispatched, W.entry, W.chaining, ?_⟩, ⟨2, State.reset, ?_⟩, ⟨2, 4, W.waking, ?_⟩, ⟨2, (0, 3), W.banksOn, ?_⟩, ⟨1, ?_⟩⟩
  all_goals and_intros
  all_goals first
    | (intro w; simp [wordOn, graver, State.reset])
    | decide +kernel

theorem witness_ScheduleLines :
    (∃ (isl idx : Nat) (l : Line) (s : State), (isl < 6) ∧ (dueLine isl idx 1 s = some l) ∧ (windowReq (idx / carriedLine) l.slot
     (markApplied isl idx s) = none)) ∧
    (∃ (idx g : Nat) (l : Line) (r : Req) (s : State), ((g / 16) < 6) ∧ (dueLine (g / 16) idx 1 s = some l) ∧ (windowReq (idx /
     carriedLine) l.slot (markApplied (g / 16) idx s) = some r) ∧ (l.gmask = 2 ^ (g % 16)) ∧ ((graver g s).descs.any (fun d => d.req ==
     r.id) = true) ∧ (∀ d ∈ (graver g s).descs, ∀ b ∈ d.blocks, ∀ p ∈ b.pages, tileLate r p s = false) ∧ ((graver g s).current = none) ∧
     ((graver g s).st = .idle)) ∧
    (∃ (idx g : Nat) (l : Line) (s : State), ((g / 16) < 6) ∧ (dueLine (g / 16) idx 2 s = some l) ∧ (l.arg0 % 65536 = 2 ^ (g % 16)) ∧
     ((graver g s).st ≠ .fenced) ∧ ((graver g s).st ≠ .gated)) ∧
    (∃ (isl idx : Nat) (ue : PatrolFinds) (l : Line) (m : Store LineProg) (s : State), (isl < 6) ∧ (s.plt.running = some m) ∧ (dueLine isl
     idx 3 s = some l) ∧ (stackHeat isl s = {}) ∧ ((ue.slots.filter fun x => slotStack x == isl && x < slotCount) = [])) ∧
    (∃ (st : Nat) (s : State), (s.sch.extraRefresh.contains (st, strokeCount s) = true) ∧ (s.sch.applied.contains (st, 0x10001) = false) ∧
     (st < 6 → windowClaims st s = false) ∧ (claimed 6 3 (strokeCount s) (fun l => l.linkStack == st) s = false)) ∧
    (∃ (isl idx : Nat) (l : Line) (s : State), (isl < 6) ∧ (dueStroke isl idx 4 s = some l)) ∧
    (∃ (idx : Nat) (l : Line) (s : State), (dueStroke 6 idx 2 s = some l)) ∧
    (∃ (idx : Nat) (l : Line) (s : State), (dueStroke 6 idx 3 s = some l) ∧ (l.linkUse ≠ 1)) ∧
    (∃ (idx : Nat) (l : Line) (s : State), (dueStroke 6 idx 5 s = some l) ∧ (field l.arg0 0 2 = 1)) ∧
    (∃ (idx : Nat) (l : Line) (s : State), (dueLine 7 idx 1 s = some l) ∧ (s.sch.reqs.filter (servesReq (idx / carriedLine) l.slot
     Line.closeAfter s) = [])) ∧
    (∃ (idx : Nat) (l : Line) (r : Req) (e : ColEntry) (s : State), (dueLine 7 idx 1 s = some l) ∧ (s.sch.reqs.filter (servesReq (idx /
     carriedLine) l.slot Line.closeAfter s) = [r]) ∧ (r.phase = .dispatched) ∧ (entryFind r.id s = some e) ∧ (sanctioned e s = false)) ∧
    (∃ (idx : Nat) (l : Line) (s : State), (dueLine 16 idx 1 s = some l)) ∧
    (∃ (idx : Nat) (l : Line) (r : Req) (s : State), (dueLine 7 idx 1 s = some l) ∧ (s.sch.reqs.filter (servesReq (idx / carriedLine)
     l.slot Line.closeAfter s) = [r]) ∧ (r.phase = .lookups)) ∧
    (∃ (r : Req) (s : State), (childrenOf r s = [])) ∧
    (∃ (idx : Nat) (l : Line) (s : State), (dueStroke 6 idx 3 s = some l) ∧ (l.linkUse = 1)) ∧
    (∃ (idx : Nat) (l : Line) (s : State), (dueStroke 6 idx 5 s = some l) ∧ (field l.arg0 0 2 = 2)) := by
  refine ⟨⟨0, 0, W.windowLine, (W.lineState 0 W.windowLine : State), ?_⟩, ⟨0, 2, W.windowLine, W.windowReq, W.windowState, ?_⟩, ⟨0, 2,
    W.banksLine, (W.lineState 0 W.banksLine : State), ?_⟩, ⟨0, 0, ⟨[], []⟩, W.refreshLine, (W.lineMap 0 W.refreshLine : Store LineProg),
    (W.lineState 0 W.refreshLine : State), ?_⟩, ⟨6, (({ sch := { extraRefresh := [(6, 0)] } } : State)), ?_⟩, ⟨0, 0, W.retrainLine,
    (W.lineState 0 W.retrainLine : State), ?_⟩, ⟨0, W.dircycLine, (W.lineState 6 W.dircycLine : State), ?_⟩, ⟨0, W.linkLine, (W.lineState
    6 W.linkLine : State), ?_⟩, ⟨0, W.maintLine, (W.lineState 6 W.maintLine : State), ?_⟩, ⟨0, W.closeLine, (W.lineState 7 W.closeLine :
    State), ?_⟩, ⟨0, W.closeLine, W.planReq, W.entry, W.closing, ?_⟩, ⟨0, W.sampleLine, (W.lineState 16 W.sampleLine : State), ?_⟩, ⟨0,
    W.closeLine, { W.planReq with phase := .lookups },
    ({ W.closing with sch := { reqs := [{ W.planReq with phase := .lookups }], entries := [W.entry] } } : State), ?_⟩, ⟨W.dispReq,
    State.reset, ?_⟩, ⟨0, { op := 3, arg0 := 1 + 1 * 16 }, (W.lineState 6 { op := 3, arg0 := 1 + 1 * 16 }), ?_⟩, ⟨0,
    { op := 5, arg0 := 2 + 6 * 4 }, (W.lineState 6 { op := 5, arg0 := 2 + 6 * 4 }), ?_⟩⟩
  all_goals and_intros
  all_goals decide +kernel

theorem witness_CollatorSources :
    (∃ (c : Nat) (m : InMsg) (s : State), (inboxFind c 0x02 false s = some m) ∧ ((s.sch.entries.find? fun z => z.tenant == (connRec c
     s).tenant && z.tag == u m.body 0 8) = none) ∧ (isChild c s = false)) ∧
    (∃ (c pos : Nat) (m : InMsg) (e : ColEntry) (r : Req) (s : State), (inboxFind c 0x02 false s = some m) ∧ ((s.sch.entries.find? fun z
     => z.tenant == (connRec c s).tenant && z.tag == u m.body 0 8) = some e) ∧ ((e.req.bind fun id => reqFind id s) = some r) ∧ (((treeOf
     r s).bind fun t => positionIn t c) = some pos) ∧ (e.accepted.contains pos = true)) ∧
    (∃ (c : Nat) (m : InMsg) (s : State), (inboxFind c 0x02 false s = some m) ∧ ((s.sch.entries.find? fun z => z.tenant == (connRec c
     s).tenant && z.tag == u m.body 0 8) = none) ∧ (isChild c s = true) ∧ (s.sch.closed = [])) ∧
    (∃ (e : ColEntry) (s : State), (s.sch.entries = [e]) ∧ (e.req = none) ∧ (e.openedPass + 64 ≤ passNow s)) ∧
    (∃ (id : Nat) (ueRows : List Nat) (a : Arrival) (r : Req) (e : ColEntry) (s : State), (reqFind id s = some r) ∧ (entryFind id s = some
     e) ∧ (e.arrivals = [a]) ∧ (a.source < 16) ∧ (r.bestEffort = false) ∧ ((ueRows.filter fun x => x < r.hdr.rows) = []) ∧ (isComplete a =
     false) ∧ ((e.taken.any isComplete && nonEmpty a.frags) = false)) ∧
    (∃ (id : Nat) (a : Arrival) (rest : List Arrival) (r : Req) (e : ColEntry) (s : State), (reqFind id s = some r) ∧ (entryFind id s =
     some e) ∧ (e.arrivals = a :: rest)) ∧
    (∃ (e : ColEntry) (id c : Nat) (r : Req) (s : State), (s.sch.entries = [e]) ∧ (e.req = some id) ∧ (reqFind id s = some r) ∧
     (e.closedAt = some c) ∧ (c + ((treeOf r s).map (·.grace)).getD 0 ≤ strokeCount s)) ∧
    (∃ (c pos : Nat) (m : InMsg) (e : ColEntry) (r : Req) (s : State), (inboxFind c 0x02 false s = some m) ∧ ((s.sch.entries.find? fun z
     => z.tenant == (connRec c s).tenant && z.tag == u m.body 0 8) = some e) ∧ ((e.req.bind fun id => reqFind id s) = some r) ∧ (((treeOf
     r s).bind fun t => positionIn t c) = some pos) ∧ (e.accepted.contains pos = false)) ∧
    (∃ (e : ColEntry) (id p : Nat) (r : Req) (s : State), (s.sch.entries = [e]) ∧ (e.req = some id) ∧ (reqFind id s = some r) ∧
     (e.closedAt = none) ∧ (e.closeMoved = some p) ∧ (p + 64 ≤ strokeCount s)) := by
  refine ⟨⟨3, (W.msg 0x02 : InMsg), (W.inbox (W.msg 0x02) : State), ?_⟩, ⟨3, 0, (W.msg 0x02), W.childEntry, W.treedReq, W.childState, ?_⟩,
    ⟨3, (W.msg 0x02 : InMsg), W.childFirst, ?_⟩, ⟨{ W.childEntry with req := none },
    ({ State.reset with sch.entries := [{ W.childEntry with req := none }], time.now := 64 * 16000 } : State), ?_⟩, ⟨0, [], W.arrival,
    W.dispatched, ({ W.entry with arrivals := [W.arrival] } : ColEntry), W.merging, ?_⟩, ⟨0, W.arrival, [], W.dispatched,
    ({ W.entry with arrivals := [W.arrival] } : ColEntry), W.merging, ?_⟩, ⟨({ W.entry with closedAt := some 0 } : ColEntry), 0, 0,
    W.dispatched, ({ W.merging with sch.entries := [{ W.entry with closedAt := some 0 }] } : State), ?_⟩, ⟨3, 0, (W.msg 0x02),
    { W.childEntry with accepted := [] }, W.treedReq, ({ W.childState with sch.entries := [{ W.childEntry with accepted := [] }] } :
    State), ?_⟩, ⟨{ W.entry with closeMoved := some 0 }, 0, 0, W.dispatched,
    ({ W.merging with sch.entries := [{ W.entry with closeMoved := some 0 }], time.now := 64 * 250 } : State), ?_⟩⟩
  all_goals and_intros
  all_goals decide +kernel

theorem witness_ContextAndExtents :
    (∃ (f : Nat) (c : Cmd) (s : State), (resReady f 1 [(0, 21), (8, 64)] c s) ∧ (bit (ctxWord (field (c.arg 0 4) 0 21) s).toNat 63 =
     false) ∧ (bit (c.arg 8 8) 63 = true) ∧ ((geoOf (c.arg 8 8)).part = c.part) ∧ (ctxRejects (field (c.arg 0 4) 0 21) (c.arg 8 8) s =
     false)) ∧
    (∃ (f : Nat) (c : Cmd) (s : State), (resReady f 1 [(0, 21), (8, 64)] c s) ∧ (ctxCloses (ctxWord (field (c.arg 0 4) 0 21) s).toNat
     (c.arg 8 8) = true) ∧ ((ctxGeo (field (c.arg 0 4) 0 21) s).part = c.part) ∧ ((geoOf (c.arg 8 8)).part = c.part) ∧ (field (c.arg 8 8)
     43 20 = 0)) ∧
    (∃ (f : Nat) (c : Cmd) (s : State), (resReady f 1 [(0, 21), (8, 64)] c s) ∧ ((ctxGeo (field (c.arg 0 4) 0 21) s).part = c.part) ∧
     ((geoOf (c.arg 8 8)).part = c.part) ∧ (ctxRejects (field (c.arg 0 4) 0 21) (c.arg 8 8) s = true)) ∧
    (∃ (f : Nat) (c : Cmd) (s : State), (resReady f 2 [(0, 32), (8, 64)] c s) ∧ (c.arg 0 4 = 1) ∧ (b2Ok c.f (c.arg 8 8) 4 s = true) ∧ (∃
     (x : Nat) (t : State), allocExtent c.part s = some (x, t))) ∧
    (∃ (f : Nat) (c : Cmd) (s : State), (resReady f 2 [(0, 32), (8, 64)] c s) ∧ (b2Ok c.f (c.arg 8 8) (4 * min (c.arg 0 4) 64) s = true) ∧
     (0 < c.arg 0 4) ∧ (extFree s < c.arg 0 4 ∨ extQuota c.part s < extHeld c.part s + c.arg 0 4)) ∧
    (∃ (f : Nat) (c : Cmd) (s : State), (resReady f 3 [(0, 20), (8, 64)] c s) ∧ (b2Ok c.f (c.arg 8 8) 256 s = true) ∧ ((extent (field
     (c.arg 0 4) 0 20) s).st = .built c.part) ∧ (((extentWords c s).any fun w => (wordState w < 2 && otherQuota c.part (wordSlot w) s) ||
     wordRefused c.part w s) = false)) ∧
    (∃ (f : Nat) (c : Cmd) (s : State), (resReady f 4 [(0, 20)] c s) ∧ ((extent (field (c.arg 0 4) 0 20) s).st = .built c.part)) ∧
    (∃ (f : Nat) (c : Cmd) (s : State), (resReady f 2 [(0, 32), (8, 64)] c s) ∧ (0 < c.arg 0 4) ∧ (c.arg 0 4 ≤ 64) ∧ (b2Ok c.f (c.arg 8 8)
     (4 * c.arg 0 4) s = true) ∧ (c.arg 0 4 ≤ extFree s) ∧ (extHeld c.part s + c.arg 0 4 ≤ extQuota c.part s) ∧ (∃ (xs : List Nat) (t :
     State), allocExtents c.part (c.arg 0 4) s = some (xs, t))) := by
  refine ⟨⟨0, W.ctxOpenCmd, W.ctxOpen, ?_⟩, ⟨0, W.ctxCloseCmd, W.ctxClose, ?_⟩, ⟨0, W.ctxBadCmd, W.ctxBad, ?_⟩, ⟨0, W.extGetCmd, W.extGet,
    ?_⟩, ⟨0, W.extGetFullCmd, W.extGetFull, ?_⟩, ⟨0, W.extWriteCmd, W.extWrite, ?_⟩, ⟨0, W.extPutCmd, W.extPut, ?_⟩, ⟨0, W.extGetCmd,
    W.extGet, ?_⟩⟩
  all_goals and_intros
  all_goals first
    | with_reducible exact W.val_of (by decide +kernel)
    | with_reducible exact W.fst_of (by decide +kernel)
    | with_reducible exact W.snd_of
    | with_reducible exact W.some_of (by decide +kernel)
    | with_reducible exact W.pair_of (by decide +kernel)
    | with_reducible exact W.made_of (by decide +kernel)
    | with_reducible exact W.stored_of (by decide +kernel)
    | with_reducible exact W.waits_of (by decide +kernel)
    | decide +kernel

theorem witness_StagingAndTiles :
    (∃ (f : Nat) (c : Cmd) (s : State), (pagesReady f 5 [(0x10, 32), (0x18, 64), (0x20, 64)] c s) ∧ (c.arg 0x10 4 < 6) ∧ (((namedPages
     c).pages.map (namedPages c).at_).all (fun x => wordState (wordOf x s) == 0) = true)) ∧
    (∃ (f : Nat) (c : Cmd) (s : State), (pagesReady f 5 [(0x10, 32), (0x18, 64), (0x20, 64)] c s) ∧ (c.arg 0x10 4 < 6) ∧ ((tileRange
     c.part (c.arg 0x10 4) s).2 - (tilesTaken c.part (c.arg 0x10 4) s).length < (((namedPages c).pages.map (namedPages c).at_).filter fun
     x => (wordState (wordOf x s) == 1 || wordState (wordOf x s) == 2) && (tileOn x (c.arg 0x10 4) s).isNone).length)) ∧
    (∃ (f : Nat) (c : Cmd) (s : State), (pagesReady f 5 [(0x10, 32), (0x18, 64), (0x20, 64)] c s) ∧ (c.arg 0x10 4 < 6) ∧ (((namedPages
     c).pages.map (namedPages c).at_).all (fun x => (wordState (wordOf x s) == 1 || wordState (wordOf x s) == 2) && (tileOn x (c.arg 0x10
     4) s).isNone) = true) ∧ ((namedPages c).count + (tilesTaken c.part (c.arg 0x10 4) s).length ≤ (tileRange c.part (c.arg 0x10 4) s).2))
     ∧
    (∃ (st tile : Nat) (t : Tile) (s : State), (tilePending (st * tilesPerStack + tile) s = some t) ∧ (wordState (wordOf t.page s) = 1 ∨
     (wordState (wordOf t.page s) = 2 ∧ readFails [] t.page s = false))) ∧
    (∃ (st tile : Nat) (t : Tile) (s : State), (tilePending (st * tilesPerStack + tile) s = some t) ∧ (wordState (wordOf t.page s) = 2) ∧
     (inService s = false) ∧ (s.cool.flashGated = false) ∧ (s.fsh.stalled = false)) ∧
    (∃ (st tile : Nat) (t : Tile) (s : State), (tilePending (st * tilesPerStack + tile) s = some t) ∧ (wordState (wordOf t.page s) = 2) ∧
     (inService s = true) ∧ (s.cool.flashGated = false)) ∧
    (∃ (st tile : Nat) (x : Nat × Tile) (s : State), (s.res.tiles.find? (fun t => t.1 == st * tilesPerStack + tile) = some x) ∧
     (x.2.lastPass < passNow s ∨ tileServes x.2 s = false)) := by
  refine ⟨⟨0, W.stageHomeCmd, W.stageHome, ?_⟩, ⟨0, W.stageFullCmd, W.stageFull, ?_⟩, ⟨0, W.stageCmd, W.staging, ?_⟩, ⟨1, 8, W.vaultTile,
    W.tileReading, ?_⟩, ⟨1, 8, W.flashTile, W.tileStall, ?_⟩, ⟨1, 8, W.flashTile, W.tileLost, ?_⟩, ⟨1, 8, ((W.tilesPer 1 8, W.vaultTile) :
    Nat × Tile), W.tileOld, ?_⟩⟩
  all_goals and_intros
  all_goals decide +kernel

theorem witness_PageMoves_1 :
    (∃ (f : Nat) (c : Cmd) (s : State), (pagesReady f 6 [(0x10, 32)] c s) ∧ (drivesOwn f s = false) ∧ (c.arg 0x10 4 < 6) ∧ (((namedPages
     c).pages.map (namedPages c).at_).all (fun x => wordState (wordOf x s) == 0 && slotStack (wordSlot (wordOf x s)) == c.arg 0x10 4) =
     true)) ∧
    (∃ (f : Nat) (c : Cmd) (s : State), (pagesReady f 6 [(0x10, 32)] c s) ∧ (drivesOwn f s = false) ∧ (c.arg 0x10 4 < 6) ∧ (poolCount
     c.part (c.arg 0x10 4) s < (((namedPages c).pages.map (namedPages c).at_).filter fun x => wordState (wordOf x s) < 3 && !(wordState
     (wordOf x s) == 0 && slotStack (wordSlot (wordOf x s)) == c.arg 0x10 4)).length)) ∧
    (∃ (f : Nat) (c : Cmd) (s : State), (pagesReady f 6 [(0x10, 32)] c s) ∧ (drivesOwn f s = false) ∧ (c.arg 0x10 4 < 6) ∧ ((namedPages
     c).count = 1) ∧ (wordState (wordOf ((namedPages c).at_ (namedPages c).first) s) < 3) ∧ ((wordState (wordOf ((namedPages c).at_
     (namedPages c).first) s) == 0 && slotStack (wordSlot (wordOf ((namedPages c).at_ (namedPages c).first) s)) == c.arg 0x10 4) = false)
     ∧ (∃ (slot : Nat) (t : State), takeSlot c.part (c.arg 0x10 4) s = some (slot, t))) ∧
    (∃ (f : Nat) (ch : RunChange) (mv : PageChange) (s : State), (s.res.changes.filter (fun x => x.fn == some f) = [ch]) ∧ (ch.seen =
     none) ∧ (ch.moves = [mv]) ∧ (wordState mv.old < 2) ∧ (wordState mv.new = 0) ∧ (ch.links.all (fun st => linkServes st 5 s) = true) ∧
     (stalledOn ch s = false)) ∧
    (∃ (f i : Nat) (ch : RunChange) (d : BitVec 48) (u s : State), (s.res.changes.filter (fun x => x.fn == some f) = [ch]) ∧ (ch.seen =
     some d) ∧ (ch.moves.isEmpty = false) ∧ (runOf (ctxGeo ch.ctx s).tenant ch.ctx ch.layer ch.group ch.run ch.part s = some i) ∧
     (takeNode 1 { s with res := { s.res with changes := s.res.changes.filter (· != ch) } } = some u) ∧ (∃ (v : State), nodeSwap i d
     (changeWords (extent (dataExt (dirEntry i s).data) s).words (ch.moves.map fun m => (m.pos, m.new))) (changeTiers (extent (dataExt
     (dirEntry i s).data) s).tiers (ch.moves.map fun m => (m.pos, movedTier m (extTier (extent (dataExt (dirEntry i s).data) s) m.pos))))
     (dataCount (dirEntry i s).data - 1) (dataTail (dirEntry i s).data) u = .made v)) ∧
    (∃ (f : Nat) (c : Cmd) (s : State), (pagesReady f 7 [(0x10, 32)] c s) ∧ (drivesOwn f s = false) ∧ (c.arg 0x10 4 = 0) ∧ ((tenantRec
     c.tenant s).vault = true) ∧ (((namedPages c).pages.map (namedPages c).at_).all (fun x => !pageStaged x s && !pageIsTail x s &&
     (wordState (wordOf x s) == 1 || wordState (wordOf x s) == 2)) = true)) ∧
    (∃ (f : Nat) (c : Cmd) (s : State), (pagesReady f 7 [(0x10, 32)] c s) ∧ (drivesOwn f s = false) ∧ (c.arg 0x10 4 < 3) ∧ (c.arg 0x10 4 =
     0 → (tenantRec c.tenant s).vault = true) ∧ (c.arg 0x10 4 = 1 → (tenantRec c.tenant s).spill = true) ∧ (((namedPages c).pages.map
     (namedPages c).at_).all (fun x => !pageStaged x s && !pageIsTail x s) = true) ∧ (((chunksOf (namedPages c)).foldl (evictUnit c.part
     (c.arg 0x10 4) f) ([], {}, s)).2.1.early = false)) ∧
    (∃ (f i : Nat) (c : Cmd) (r s : State), (pagesReady f 7 [(0x10, 32)] c s) ∧ (drivesOwn f s = false) ∧ (c.arg 0x10 4 = 2) ∧
     ((namedPages c).count = 1) ∧ (pageStaged ((namedPages c).at_ (namedPages c).first) s = false) ∧ (pageIsTail ((namedPages c).at_
     (namedPages c).first) s = false) ∧ (pageOf (namedPages c).ctx (namedPages c).layer (namedPages c).group (namedPages c).first s = some
     (i, wordOf ((namedPages c).at_ (namedPages c).first) s)) ∧ (wordState (wordOf ((namedPages c).at_ (namedPages c).first) s) < 3) ∧
     (c.part = (ctxGeo (namedPages c).ctx s).part) ∧ (takeNode 1 s = some r) ∧ (∃ (u : State), nodeSwap i (dirEntry i s).data (changeWords
     (extent (dataExt (dirEntry i s).data) s).words [((namedPages c).first % 64, pageWord 3 0)]) (changeTiers (extent (dataExt (dirEntry i
     s).data) s).tiers [((namedPages c).first % 64, 0)]) (dataCount (dirEntry i s).data - 1) (dataTail (dirEntry i s).data) r = .made u))
     ∧
    (∃ (f : Nat) (c : Cmd) (s : State), (pagesReady f 8 [] c s) ∧ ((tenantRec c.tenant s).spill = true) ∧ (((namedPages c).pages.map
     (namedPages c).at_).all (fun x => wordState (wordOf x s) == 2 || (decide (wordState (wordOf x s) < 2) && bit (tierOf x s) 29 && !bit
     (tierOf x s) 30)) = true)) ∧
    (∃ (f : Nat) (c : Cmd) (s : State), (pagesReady f 8 [] c s) ∧ ((tenantRec c.tenant s).spill = true) ∧ ((namedPages c).count = 1) ∧
     (wordState (wordOf ((namedPages c).at_ (namedPages c).first) s) < 2) ∧ ((bit (tierOf ((namedPages c).at_ (namedPages c).first) s) 29
     && !bit (tierOf ((namedPages c).at_ (namedPages c).first) s) 30) = false) ∧ (wbAllowed c.tenant ((namedPages c).at_ (namedPages
     c).first) s = true) ∧ (programming ((namedPages c).at_ (namedPages c).first) s = false) ∧ (linkServes (slotStack (wordSlot (wordOf
     ((namedPages c).at_ (namedPages c).first) s))) 3 s = true) ∧ (∃ (u : State), startProgram ((namedPages c).at_ (namedPages c).first)
     c.part false (some f) s = some u)) := by
  refine ⟨⟨0, W.rehomeCmd, W.rehome, ?_⟩, ⟨0, W.rehomeFullCmd, W.rehomeFull, ?_⟩, ⟨0, W.rehomeOneCmd, W.rehomeOne, ?_⟩, ⟨0, (W.change
    none), ⟨0, pageWord 0 5, 0, pageWord 0 200, false⟩, (W.changing none), ?_⟩, ⟨0, 3, (W.change (some (dirData 78 0 true))), (dirData 78
    0 true), (W.orState (takeNode 1
    { (W.changing (some (dirData 78 0 true))) with res := { (W.changing (some (dirData 78 0 true))).res with changes := (W.changing (some (dirData 78 0 true))).res.changes.filter (· != (W.change (some (dirData 78 0 true)))) } })),
    (W.changing (some (dirData 78 0 true))), ?_⟩, ⟨0, W.evictCmd, W.evict, ?_⟩, ⟨0, W.evictCmd, W.evict, ?_⟩, ⟨0, 3, W.dropCmd, (W.orState
    (takeNode 1 W.drop)), W.drop, ?_⟩, ⟨0, W.writeBackCmd, W.writeBack, ?_⟩, ⟨0, W.writeBackCmd, W.writeBackStarts, ?_⟩⟩
  all_goals and_intros
  all_goals first
    | with_reducible exact W.val_of (by decide +kernel)
    | with_reducible exact W.fst_of (by decide +kernel)
    | with_reducible exact W.snd_of
    | with_reducible exact W.some_of (by decide +kernel)
    | with_reducible exact W.pair_of (by decide +kernel)
    | with_reducible exact W.made_of (by decide +kernel)
    | with_reducible exact W.stored_of (by decide +kernel)
    | with_reducible exact W.waits_of (by decide +kernel)
    | with_reducible exact W.orState_eq (by decide +kernel)
    | decide +kernel

theorem witness_PageMoves_2 :
    (∃ (k st : Nat) (m : InMsg) (s : State), (nextWrite k 0x10 s = some m) ∧ (m.conn = k) ∧ (moveStatus (connRec k s).part (connRec k
     s).tenant false m.body s = 0) ∧ (moveIngestBad m.body s = false) ∧ (∃ (u : State), takePage (writeTurn m s == .bestEffort) (moveHdr
     m.body) (m.body.drop 32) s = (some st, u))) ∧
    (∃ (k st : Nat) (m : InMsg) (s : State), (nextWrite k 0x10 s = some m) ∧ (m.conn = k) ∧ (moveStatus (connRec k s).part (connRec k
     s).tenant false m.body s = 0) ∧ (newPageStack (ctxGeo (moveHdr m.body).ctx s).part (moveHdr m.body).ctx (moveHdr m.body).layer
     (moveHdr m.body).group (moveHdr m.body).page s = some st) ∧ (∃ (v : State), writeWhen (writeTurn m s == .bestEffort) (moveHdr
     m.body).ctx (moveHdr m.body).layer (moveHdr m.body).group [(moveHdr m.body).page] [(moveHdr m.body).page] (placePage (moveHdr m.body)
     (m.body.drop 32)) s = .stored v) ∧ (∃ (slot : Nat) (r : State), takeSlot (ctxGeo (moveHdr m.body).ctx s).part st s = some (slot, r)))
     ∧
    (∃ (k : Nat) (m : InMsg) (s : State), (nextWrite k 0x10 s = some m) ∧ (m.conn = k) ∧ (moveFails (connRec k s).tenant false m.body s =
     true)) := by
  refine ⟨⟨3, 0, (W.moveMsg 0x10), (W.moving 0x10), ?_⟩, ⟨3, 5, (W.moveMsg 0x10), (W.moving 0x10), ?_⟩, ⟨3, (W.badMsg 0x10), (W.inbox
    (W.badMsg 0x10)), ?_⟩⟩
  all_goals and_intros
  all_goals first
    | with_reducible exact W.move_next (by decide)
    | with_reducible exact W.move_taken (by decide) _
    | with_reducible exact W.move_stored (by decide) _
    | with_reducible exact W.val_of (by decide +kernel)
    | with_reducible exact W.fst_of (by decide +kernel)
    | with_reducible exact W.snd_of
    | with_reducible exact W.some_of (by decide +kernel)
    | with_reducible exact W.pair_of (by decide +kernel)
    | with_reducible exact W.made_of (by decide +kernel)
    | with_reducible exact W.stored_of (by decide +kernel)
    | with_reducible exact W.waits_of (by decide +kernel)
    | decide +kernel

theorem witness_PageMoves_3 :
    (∃ (k st : Nat) (m : InMsg) (s : State), (nextWrite k 0x11 s = some m) ∧ (m.conn = k) ∧ (moveStatus (connRec k s).part (connRec k
     s).tenant true m.body s = 0) ∧ (moveIngestBad m.body s = false) ∧ (∃ (u : State), takePage (writeTurn m s == .bestEffort) (moveHdr
     m.body) (m.body.drop 32) s = (some st, u))) ∧
    (∃ (k st : Nat) (m : InMsg) (s : State), (nextWrite k 0x11 s = some m) ∧ (m.conn = k) ∧ (moveStatus (connRec k s).part (connRec k
     s).tenant true m.body s = 0) ∧ (newPageStack (ctxGeo (moveHdr m.body).ctx s).part (moveHdr m.body).ctx (moveHdr m.body).layer
     (moveHdr m.body).group (moveHdr m.body).page s = some st) ∧ (∃ (v : State), writeWhen (writeTurn m s == .bestEffort) (moveHdr
     m.body).ctx (moveHdr m.body).layer (moveHdr m.body).group [(moveHdr m.body).page] [(moveHdr m.body).page] (placePage (moveHdr m.body)
     (m.body.drop 32)) s = .stored v) ∧ (∃ (slot : Nat) (r : State), takeSlot (ctxGeo (moveHdr m.body).ctx s).part st s = some (slot, r)))
     ∧
    (∃ (k : Nat) (m : InMsg) (s : State), (nextWrite k 0x11 s = some m) ∧ (m.conn = k) ∧ (moveFails (connRec k s).tenant true m.body s =
     true)) := by
  refine ⟨⟨3, 0, (W.moveMsg 0x11), (W.moving 0x11), ?_⟩, ⟨3, 5, (W.moveMsg 0x11), (W.moving 0x11), ?_⟩, ⟨3, (W.badMsg 0x11), (W.inbox
    (W.badMsg 0x11)), ?_⟩⟩
  all_goals and_intros
  all_goals first
    | with_reducible exact W.move_next (by decide)
    | with_reducible exact W.move_taken (by decide) _
    | with_reducible exact W.move_stored (by decide) _
    | with_reducible exact W.val_of (by decide +kernel)
    | with_reducible exact W.fst_of (by decide +kernel)
    | with_reducible exact W.snd_of
    | with_reducible exact W.some_of (by decide +kernel)
    | with_reducible exact W.pair_of (by decide +kernel)
    | with_reducible exact W.made_of (by decide +kernel)
    | with_reducible exact W.stored_of (by decide +kernel)
    | with_reducible exact W.waits_of (by decide +kernel)
    | decide +kernel

theorem witness_PageMoves_4 :
    (∃ (f st : Nat) (c : Cmd) (s : State), (resReady f 0x0B pageWriteFields c s) ∧ ((namedPages c).count = 1) ∧ (s.res.ctxUe.contains
     (namedPages c).ctx = false) ∧ (lowestReason (pageWriteReasons c s) = none) ∧ (∃ (u : State), takePage false (pageWriteHdr c)
     (pageWritePayload c s) s = (some st, u))) ∧
    (∃ (f r : Nat) (c : Cmd) (s : State), (resReady f 0x0B pageWriteFields c s) ∧ ((namedPages c).count = 1) ∧ (lowestReason
     (pageWriteReasons c s) = some r)) ∧
    (∃ (f : Nat) (c : Cmd) (s : State), (pagesReady f 9 [(0x10, 17)] c s) ∧ (s.fsh.stallOp ≠ some (.exportPage f)) ∧ (connOwned c (field
     (c.arg 0x10 4) 0 16) s = true) ∧ (copiesTail (namedPages c) s = false) ∧ (((namedPages c).pages.map (namedPages c).at_).all (fun x =>
     decide (wordState (wordOf x s) < 2)) = true) ∧ ((namedPages c).count = 1) ∧ (linkServes (slotStack (wordSlot (wordOf ((namedPages
     c).at_ (namedPages c).first) s))) 4 s = true) ∧ (sendRefusal (field (c.arg 0x10 4) 0 16) s = none)) ∧
    (∃ (f : Nat) (c : Cmd) (s : State), (pagesReady f 9 [(0x10, 17)] c s) ∧ (s.fsh.stallOp ≠ some (.exportPage f)) ∧ (connOwned c (field
     (c.arg 0x10 4) 0 16) s = true) ∧ (copiesTail (namedPages c) s = false ∨ (bit (c.arg 0x10 4) 16 && ((namedPages c).pages.map
     (namedPages c).at_).any (fun x => pageIsTail x s)) = true)) ∧
    (∃ (k : Nat) (msg : InMsg) (m : MoveOut) (n : PageName) (w : Nat × PageName) (s : State), (s.tfx.inbox.find? (fun x => x.conn == k &&
     x.isResp && (x.typ == tMove || x.typ == tExport)) = some msg) ∧ (moveWaiting k (u msg.body 0 8) s = some m) ∧ (m.waiting = [(u
     msg.body 0 8, n), w]) ∧ (w.1 ≠ u msg.body 0 8) ∧ (completionStatus msg.body ≠ 0 ∨ m.release = false)) ∧
    (∃ (k : Nat) (msg : InMsg) (m : MoveOut) (n : PageName) (r s : State), (s.tfx.inbox.find? (fun x => x.conn == k && x.isResp && (x.typ
     == tMove || x.typ == tExport)) = some msg) ∧ (moveWaiting k (u msg.body 0 8) s = some m) ∧ (m.waiting = [(u msg.body 0 8, n)]) ∧
     (completionStatus msg.body = 0) ∧ (m.release = true) ∧ (m.isExport = false) ∧ (takeNode 1 s = some r) ∧ (∃ (v : State), releasePage n
     (taken msg.conn msg r) = some v)) ∧
    (∃ (f : Nat) (m : MoveOut) (s : State), (s.res.moveOuts.find? (fun z => z.fn == f && !z.isExport) = some m) ∧ (m.startedAt + 4000 ≤
     s.time.elapsed)) ∧
    (∃ (m : MoveOut) (n : PageName) (s : State), (s.fsh.stallOp ≠ some (.exportPage m.fn)) ∧ (s.res.moveOuts = [m]) ∧ (m.isExport = true)
     ∧ (m.unsent = [n]) ∧ (assigned m.part s = false) ∧ (wordState (wordOf n s) < 2) ∧ (linkServes (slotStack (wordSlot (wordOf n s))) 4 s
     = true) ∧ (s.res.exportsThisPass < 8) ∧ (sendRefusal m.conn s = none)) ∧
    (∃ (f : Nat) (c : Cmd) (s : State), (hostReady f 1 0x0A (pageFields ++ [(0x10, 17)]) c s) ∧ (resBusy f s = false) ∧ (s.pwr.hold =
     true) ∧ (namesFail c.tenant (namedPages c).ctx (namedPages c).layer (namedPages c).group s = false) ∧ (0 < (namedPages c).count) ∧
     ((namedPages c).count ≤ 64) ∧ ((namedPages c).first + (namedPages c).count ≤ 131072) ∧ (s.res.ctxUe.contains (namedPages c).ctx =
     false) ∧ (changing (namedPages c) s = false) ∧ (s.fsh.stallOp ≠ some (.exportPage f)) ∧ (connOwned c (field (c.arg 0x10 4) 0 16) s =
     true)) := by
  refine ⟨⟨0, 0, W.pageWriteCmd, W.pageWrite, ?_⟩, ⟨0, 4, W.pageWriteCmd, W.pageWriteBadState, ?_⟩, ⟨0, W.moveOutCmd, W.moveOut, ?_⟩, ⟨0,
    W.moveOutCmd, W.moveOut, ?_⟩, ⟨3, W.moveResp, W.outgoing, (W.pageAt 0), (2, W.pageAt 1), W.moveAnswered, ?_⟩, ⟨3, W.movedResp,
    W.releasing, (W.pageAt 0), (W.orState (takeNode 1 W.moveDone)), W.moveDone, ?_⟩, ⟨0, W.outgoing,
    ({ W.moveAnswered with time.elapsed := 9000 } : State), ?_⟩, ⟨W.exporting, (W.pageAt 0), W.exportState, ?_⟩, ⟨0, (W.theCmd 1 0x0A
    (W.pageArgs 3 0 0)), (W.queued 1 0x0A (W.pageArgs 3 0 0) { W.paged (pageWord 0 5) 0 W.live with pwr.hold := true }), ?_⟩⟩
  all_goals and_intros
  all_goals first
    | with_reducible exact W.pageWrite_taken
    | with_reducible exact W.val_of (by decide +kernel)
    | with_reducible exact W.fst_of (by decide +kernel)
    | with_reducible exact W.snd_of
    | with_reducible exact W.some_of (by decide +kernel)
    | with_reducible exact W.pair_of (by decide +kernel)
    | with_reducible exact W.made_of (by decide +kernel)
    | with_reducible exact W.stored_of (by decide +kernel)
    | with_reducible exact W.waits_of (by decide +kernel)
    | with_reducible exact W.orState_eq (by decide +kernel)
    | decide +kernel

theorem witness_TierEngine :
    (∃ (f : Nat) (c : Cmd) (s : State), (hostReady f 4 1 (tierFields 1) c s) ∧ (tierReason c s = none) ∧ (c.op = 1) ∧ (s.fsh.stallOp ≠
     some (.command f)) ∧ (s.cool.flashGated = false) ∧ (s.fsh.mounted = true) ∧ (tierReadable c.part (tierNamed c).1 s = true)) ∧
    (∃ (f : Nat) (ok : Bool) (c : Cmd) (s : State), (hostReady f 4 1 (tierFields 1) c s) ∧ (tierReason c s = none) ∧ (c.op = 1) ∧
     (s.fsh.stallOp ≠ some (.command f)) ∧ (s.cool.flashGated = false) ∧ (ok = false ∨ tierReadable c.part (tierNamed c).1 s = false) ∧
     (inService s = true)) ∧
    (∃ (f : Nat) (c : Cmd) (s : State), (hostReady f 4 2 (tierFields 2) c s) ∧ (tierReason c s = none) ∧ (c.op = 2) ∧ (s.fsh.stallOp ≠
     some (.command f)) ∧ (s.cool.flashGated = false) ∧ (s.fsh.mounted = true) ∧ (tierRoom (tierNamed c).1 s = true)) ∧
    (∃ (f : Nat) (c : Cmd) (s : State), (hostReady f 4 3 (tierFields 3) c s) ∧ (tierReason c s = none) ∧ (c.op = 3) ∧ (s.fsh.stallOp ≠
     some (.command f)) ∧ (s.cool.flashGated = false) ∧ (s.fsh.mounted = true)) ∧
    (∃ (s : State), (s.start.stage = 2) ∧ (s.start.stageRunning = true) ∧ (s.fsh.mounted = false) ∧ (s.fsh.skipped = false) ∧
     (s.fsh.stalled = false)) ∧
    (∃ (index i w : Nat) (failed : List Nat) (q : TierProgram) (s : State), (s.res.programs[index]? = some q) ∧ (s.fsh.stallOp ≠ some
     (.program q.page)) ∧ (s.cool.flashGated = false) ∧ (failed.all (fun x => !(tlpnChannels q.tlpn).contains x) = true) ∧ (tierRoom
     q.tlpn s = true) ∧ (q.spill = false) ∧ (pageOf q.page.ctx q.page.layer q.page.group q.page.page s = some (i, w)) ∧ (wordState w < 2))
     ∧
    (∃ (index : Nat) (failed : List Nat) (q : TierProgram) (s : State), (s.res.programs[index]? = some q) ∧ (s.cool.flashGated = false) ∧
     (failed.all (fun x => !(tlpnChannels q.tlpn).contains x) = true) ∧ (tierRoom q.tlpn s = false) ∧ (inService s = false) ∧
     (s.fsh.stalled = false) ∧ (s.fsh.stallOp = none)) ∧
    (∃ (s : State) (op : StallOp), (s.fsh.stallOp = some op) ∧ (s.fsh.retryAt + 4000 ≤ s.time.elapsed)) ∧
    (∃ (s : State) (ts : List FlashTarget), (s.fsh.stallOp = some (.mount ts)) ∧ (s.fsh.retryAt + 4000 ≤ s.time.elapsed)) ∧
    (∃ (s : State) (key : Nat) (x : Nat × Tile), (s.fsh.stallOp = some (.tile key)) ∧ (s.res.tiles.find? (fun t => t.1 == key) = some x))
     ∧
    (∃ (s : State), (s.start.stage = 2) ∧ (s.start.stageRunning = true) ∧ (s.fsh.mounted = false) ∧ (s.fsh.skipped = false) ∧
     (s.fsh.stalled = false)) ∧
    (∃ (index : Nat) (failed : List Nat) (q : TierProgram) (s : State), (s.res.programs[index]? = some q) ∧ (s.fsh.stallOp ≠ some
     (.program q.page)) ∧ (s.cool.flashGated = false) ∧ (failed.any (fun x => (tlpnChannels q.tlpn).contains x) = true) ∧ ((placeTlpn true
     q.tlpn ((once (failed.filter fun x => (tlpnChannels q.tlpn).contains x)).foldl retireOpen s)).isSome = true)) ∧
    (∃ (f : Nat) (c : Cmd) (s : State), (hostReady f 4 2 (tierFields 2) c s) ∧ (tierReason c s = none) ∧ (c.op = 2) ∧ (s.fsh.stallOp ≠
     some (.command f)) ∧ (s.cool.flashGated = false) ∧ (s.fsh.mounted = true) ∧ (tierRoom (tierNamed c).1 s = false)) ∧
    (∃ (s : State) (ts : List FlashTarget), (s.fsh.stallOp = some (.mount ts))) ∧
    (∃ (s : State) (op : StallOp), (s.fsh.stallOp = some op) ∧ (s.fsh.retryAt + 4000 ≤ s.time.elapsed)) := by
  refine ⟨⟨0, (W.tierCmd 1 : Cmd), (W.tierState 1 : State), ?_⟩, ⟨0, false, (W.tierCmd 1 : Cmd), ({ W.tierState 1 with fsh.written := [] }
    : State), ?_⟩, ⟨0, (W.tierCmd 2 : Cmd), (W.tierState 2 : State), ?_⟩, ⟨0, (W.tierCmd 3 : Cmd), (W.tierState 3 : State), ?_⟩,
    ⟨W.mounting, ?_⟩, ⟨0, 3, (W.word 0), [], W.program, W.programmable, ?_⟩, ⟨0, [], W.program, ({ W.programming with pwr.hold := true } :
    State), ?_⟩, ⟨W.stalledMount, ((.mount []) : StallOp), ?_⟩, ⟨W.stalledMount, ([] : List FlashTarget), ?_⟩, ⟨W.stalledTile, (W.tilesPer
    1 8 : Nat), ((W.tilesPer 1 8, W.flashTile) : Nat × Tile), ?_⟩, ⟨W.mounting, ?_⟩, ⟨0, [4], W.program, W.programmable, ?_⟩, ⟨0,
    (W.tierCmd 2), ({ W.tierState 2 with fsh.targets := [] } : State), ?_⟩, ⟨W.stalledMount, [], ?_⟩, ⟨W.stalledMount, ((.mount []) :
    StallOp), ?_⟩⟩
  all_goals and_intros
  all_goals decide +kernel

theorem witness_ScraperAndBurnisher :
    (∃ (p home : Nat) (s : State), (s.pwr.hold = false) ∧ (sealed s = true) ∧ (s.res.changes.any (fun x => x.part == p && x.home == some
     home) = false) ∧ (mustScrape p home s = false)) ∧
    (∃ (p i : Nat) (n : PageName) (q : ScrapeUnit) (r s : State), (s.pwr.hold = false) ∧ (sealed s = true) ∧ (s.res.changes.any (fun x =>
     x.part == p && x.home == some 6) = false) ∧ (mustScrape p 6 s = true) ∧ (chooseUnit 6 (scrapeUnits p 6 (markScrape p 6 true s)) =
     some q) ∧ (q.pages = [n]) ∧ ((tenantRec (ctxGeo n.ctx s).tenant s).spill = false) ∧ (runOf (ctxGeo n.ctx s).tenant n.ctx n.layer
     n.group n.page p s = some i) ∧ (wordState (wordOf n s) = 1) ∧ (takeNode 1 (markScrape p 6 true s) = some r) ∧ (∃ (u : State),
     nodeSwap i (dirEntry i s).data (changeWords (extent (dataExt (dirEntry i s).data) s).words [(n.page % 64, pageWord 3 0)])
     (changeTiers (extent (dataExt (dirEntry i s).data) s).tiers [(n.page % 64, 0)]) (dataCount (dirEntry i s).data - 1) (dataTail
     (dirEntry i s).data) r = .made u)) ∧
    (∃ (st slot : Nat) (s : State), (linkServes st 2 s = true) ∧ (bit s.flt.fencedStacks st = false) ∧ (look 0 s.res.burnThisStroke st =
     0) ∧ (suspects s = []) ∧ ((s.res.slots.filter fun x => slotStack x.1 == st && x.2.awaiting && !x.2.holding).map (·.1) = [slot]) ∧
     ((put {} s.res.slots slot {}).filter (fun x => slotStack x.1 == st && x.2.awaiting && !x.2.holding) = [])) ∧
    (∃ (slot i pos : Nat) (s : State), ((suspects s).filter (fun x => x.2.2 == slot) = [(i, pos, slot)]) ∧ (burnLeft (slotStack slot) s ≠
     0)) ∧
    (∃ (slot i pos : Nat) (s : State), ((suspects s).filter (fun x => x.2.2 == slot) = [(i, pos, slot)]) ∧ (burnLeft (slotStack slot) s ≠
     0)) ∧
    (∃ (p age : Nat) (n : PageName) (s : State), (inService s = true) ∧ (look 0 s.res.wbThisPass p < (partRec p s).wbMax) ∧ (wbPages p s =
     [(age, n)]) ∧ (∃ (u : State), startProgram n p false none (linkUsed [slotStack (wordSlot (wordOf n s))] 3 s) = some u)) ∧
    (∃ (p : Nat) (s : State), ((partRec p s).wbMax ≤ look 0 s.res.wbThisPass p)) ∧
    (∃ (f : Nat) (c : Cmd) (s : State), (hostReady f 3 1 [(0, 3), (4, 32), (8, 32)] c s) ∧ ((quotaRange c.part (field (c.arg 0 1) 0 3)
     s).1 ≤ (zeroNamed c).1) ∧ ((zeroNamed c).1 + (zeroNamed c).2 ≤ (quotaRange c.part (field (c.arg 0 1) 0 3) s).1 + (quotaRange c.part
     (field (c.arg 0 1) 0 3) s).2) ∧ (((namedSlots s).any (inSpan (zeroNamed c))) = false) ∧ (0 < (zeroNamed c).2) ∧ ((zeroNamed c).2 ≤
     65536)) ∧
    (∃ (f : Nat) (c : Cmd) (s : State), (hostReady f 3 2 [(0, 3), (4, 32), (8, 32)] c s) ∧ (field (c.arg 0 1) 0 3 < 6) ∧ ((tileRange
     c.part (field (c.arg 0 1) 0 3) s).1 ≤ (tilesNamed c).1) ∧ ((tilesNamed c).1 + (tilesNamed c).2 ≤ (tileRange c.part (field (c.arg 0 1)
     0 3) s).1 + (tileRange c.part (field (c.arg 0 1) 0 3) s).2) ∧ ((s.res.tiles.any fun t => inSpan (tilesNamed c) t.1) = false) ∧ (0 <
     (tilesNamed c).2) ∧ ((tilesNamed c).2 ≤ 4096)) ∧
    (∃ (f : Nat) (c : Cmd) (segs : List (Nat × Nat)) (s : State), (hostReady f 3 3 [(0, 64), (8, 64)] c s) ∧ (c.arg 8 8 % 64 = 0) ∧
     (b2Range f (c.arg 0 8) (c.arg 8 8) s = some segs)) ∧
    (∃ (p home : Nat) (q : ScrapeUnit) (s : State), (s.pwr.hold = false) ∧ (sealed s = true) ∧ (s.res.changes.any (fun x => x.part == p &&
     x.home == some home) = false) ∧ (mustScrape p home s = true) ∧ (chooseUnit home (scrapeUnits p home (markScrape p home true s)) =
     some q)) := by
  refine ⟨⟨0, 6, W.sealedState, ?_⟩, ⟨0, 3, (W.pageAt 0), W.vaultUnit, (W.orState (takeNode 1 (markScrape 0 6 true W.scraping))),
    W.scraping, ?_⟩, ⟨1, W.awaitingSlot, W.burning, ?_⟩, ⟨W.suspectSlot, 3, 0, W.suspect, ?_⟩, ⟨W.suspectSlot, 3, 0, W.suspect, ?_⟩, ⟨0,
    0, (W.pageAt 0), W.wbReady, ?_⟩, ⟨0, State.reset, ?_⟩, ⟨0, (W.zeroCmd 1 : Cmd), (W.zeroState 1 : State), ?_⟩, ⟨0, (W.zeroCmd 2 : Cmd),
    (W.zeroState 2 : State), ?_⟩, ⟨0, (W.zeroCmd 3 : Cmd), W.zeroSegs, (W.zeroState 3 : State), ?_⟩, ⟨0, 6, W.vaultUnit, W.scraping, ?_⟩⟩
  all_goals and_intros
  all_goals first
    | with_reducible exact W.orState_eq (by decide +kernel)
    | with_reducible exact W.val_of (by decide +kernel)
    | with_reducible exact W.fst_of (by decide +kernel)
    | with_reducible exact W.snd_of
    | with_reducible exact W.some_of (by decide +kernel)
    | with_reducible exact W.pair_of (by decide +kernel)
    | with_reducible exact W.made_of (by decide +kernel)
    | with_reducible exact W.stored_of (by decide +kernel)
    | with_reducible exact W.waits_of (by decide +kernel)
    | decide +kernel

theorem witness_PlateLoadAndSeal :
    (∃ (stores : List HostStore) (s : State), ((stores.foldl hostStore s).plt.st ≠ .loading) ∧ (isDelta (loadBytes (stores.foldl hostStore
     s)) = false) ∧ ((stores.foldl hostStore s).plt.st = .sealed → (stores.foldl hostStore s).pwr.hold = true) ∧ ((stores.foldl hostStore
     s).tru.tdis = [])) ∧
    (∃ (stores : List HostStore) (s : State), ((stores.foldl hostStore s).plt.st = .sealed) ∧ ((stores.foldl hostStore s).pwr.hold =
     false) ∧ (isDelta (loadBytes (stores.foldl hostStore s)) = true) ∧ ((stores.foldl hostStore s).plt.phase = .idle)) ∧
    (∃ (stores : List HostStore) (s : State), ((stores.foldl hostStore s).plt.st = .sealed) ∧ ((stores.foldl hostStore s).pwr.hold =
     false) ∧ (isDelta (loadBytes (stores.foldl hostStore s)) = false)) ∧
    (∃ (b : List Byte) (s : State), (s.plt.st = .loading) ∧ (s.plt.loading = some b) ∧ (isDelta b = false) ∧ (s.tru.scrubs = [])) ∧
    (∃ (new : PlateStore) (s : State), (s.plt.st = .valid) ∧ (s.plt.shadow = some new)) ∧
    (∃ (s : State), (s.plt.switchPending = true) ∧ (strokeNow s = 0)) ∧
    (∃ (b : PlateStore) (s : State), (s.plt.active = some b) ∧ (s.plt.st ≠ .lost)) ∧
    (∃ (idx w : Nat) (l : Line) (m : Store LineProg) (s : State), (s.plt.running = some m) ∧ (dueLine 6 idx 4 s = some l) ∧ (6 ≤
     l.linkStack) ∧ (stackHeat l.linkStack s = {}) ∧ (w < 16777216) ∧ ((ueRecent s).length < 15)) ∧
    (∃ (b a : List Byte) (p : PlateStore) (s : State), (s.plt.st = .loading) ∧ (s.plt.loading = some b) ∧ (isDelta b = true) ∧
     (s.plt.active = some p) ∧ (applyDelta (readStore activeAddr p s) b = a) ∧ (s.tru.scrubs = [])) := by
  refine ⟨⟨[], State.reset, ?_⟩, ⟨[], W.deltaBuffer, ?_⟩, ⟨[], W.sealedState, ?_⟩, ⟨[],
    ({ State.reset with plt.st := .loading, plt.loading := some [] } : State), ?_⟩, ⟨({} : PlateStore),
    ({ State.reset with plt.st := .valid, plt.shadow := some {} } : State), ?_⟩, ⟨({ State.reset with plt.switchPending := true } :
    State), ?_⟩, ⟨{}, ({ State.reset with plt.active := some {}, plt.st := .sealed } : State), ?_⟩, ⟨0, 0, { op := 4, arg0 := 7 },
    (W.lineMap 6 { op := 4, arg0 := 7 } : Store LineProg), (W.lineState 6 { op := 4, arg0 := 7 }), ?_⟩, ⟨W.deltaBytes, (applyDelta
    (readStore activeAddr {} W.deltaLoading) W.deltaBytes), {}, W.deltaLoading, ?_⟩⟩
  all_goals and_intros
  all_goals decide +kernel

theorem witness_Deltas :
    (∃ (new : PlateStore) (s : State), (s.plt.phase = .loaded) ∧ (s.plt.st = .sealed) ∧ (s.plt.shadow = some new) ∧ (passNow s + 8 ≤
     s.plt.boundary) ∧ (s.tru.scrubs = []) ∧ (assignedParts s = []) ∧ (((touchedParts (plate s) new.plate).all fun p => drained p s) =
     true)) ∧
    (∃ (new : PlateStore) (s : State), (s.plt.phase = .loaded) ∧ (s.plt.st = .sealed) ∧ (s.plt.shadow = some new) ∧ (s.plt.boundary <
     passNow s + 8)) ∧
    (∃ (new : PlateStore) (p : Nat) (s : State), (s.plt.phase = .loaded) ∧ (s.plt.st = .sealed) ∧ (s.plt.shadow = some new) ∧ (passNow s +
     8 ≤ s.plt.boundary) ∧ (s.tru.scrubs = []) ∧ (assignedParts s = []) ∧ (touchedParts (plate s) new.plate = [p]) ∧ (drained p s =
     false)) ∧
    (∃ (s : State), (s.plt.phase = .armed ∨ s.plt.phase = .committed)) ∧
    (∃ (s : State), (s.plt.phase = .armed) ∧ (passNow s + 1 < s.plt.armedAt)) ∧
    (∃ (s : State), (s.plt.phase ≠ .idle)) ∧
    (∃ (s : State), (s.plt.phase = .armed ∨ s.plt.phase = .committed) ∧ (passNow s < s.plt.armedAt)) ∧
    (∃ (new : PlateStore) (s : State), (s.plt.phase = .committed) ∧ (s.plt.armedAt ≤ passNow s) ∧ (s.plt.acked = 0x3FFFF) ∧ (s.plt.shadow
     = some new)) ∧
    (∃ (s : State), (s.plt.phase = .armed ∨ (s.plt.phase = .committed ∧ s.plt.acked ≠ 0x3FFFF)) ∧ (s.plt.armedAt ≤ passNow s)) := by
  refine ⟨⟨({} : PlateStore), W.armable, ?_⟩, ⟨({} : PlateStore), ({ W.armable with plt.boundary := 7 } : State), ?_⟩, ⟨W.movedQuota, 0,
    W.armBusy, ?_⟩, ⟨({ State.reset with plt.phase := .armed } : State), ?_⟩, ⟨({ State.reset with plt.phase := .armed, plt.armedAt := 2 }
    : State), ?_⟩, ⟨({ State.reset with plt.phase := .loaded } : State), ?_⟩, ⟨({ State.reset with plt.phase := .armed, plt.armedAt := 1 }
    : State), ?_⟩, ⟨({} : PlateStore), ({ State.reset with plt.phase := .committed, plt.acked := 0x3FFFF, plt.shadow := some {} } :
    State), ?_⟩, ⟨({ State.reset with plt.phase := .armed } : State), ?_⟩⟩
  all_goals and_intros
  all_goals decide +kernel

theorem witness_HeartbeatAndPeers :
    (∃ (k : Nat) (m : InMsg) (s : State), (inboxFind k 0x31 false s = some m) ∧ (beatOk k m.body s = true) ∧ (u m.body 0 8 ≤ m.doneAt / 64
     + 1) ∧ (m.doneAt / 64 ≤ u m.body 0 8 + 1)) ∧
    (∃ (k : Nat) (m : InMsg) (s : State), (inboxFind k 0x31 false s = some m) ∧ (beatOk k m.body s = true) ∧ (m.doneAt / 64 + 1 < u m.body
     0 8)) ∧
    (∃ (k : Nat) (m : InMsg) (s : State), (inboxFind k 0x31 false s = some m) ∧ (beatOk k m.body s = false)) ∧
    (∃ (k : Nat) (s : State), (watched k s = true) ∧ ((aux k s).lost = false) ∧ ((aux k s).lastBeat + 3072 ≤ s.time.elapsed)) ∧
    (∃ (isl idx : Nat) (l : Line) (s : State), (8 ≤ isl) ∧ (isl < 16) ∧ (dueLine isl idx 2 s = some l) ∧ ((conn (l.arg0 % 65536) s).st =
     .active)) ∧
    (∃ (isl idx : Nat) (l : Line) (s : State), (8 ≤ isl) ∧ (isl < 16) ∧ (dueStroke isl idx 3 s = some l)) := by
  refine ⟨⟨3, (W.beatMsg 0 : InMsg), (W.beatState 0 : State), ?_⟩, ⟨3, (W.beatMsg 2 : InMsg), (W.beatState 2 : State), ?_⟩, ⟨3, (W.badMsg
    0x31 : InMsg), (W.inbox (W.badMsg 0x31) : State), ?_⟩, ⟨3, ({ W.beatState 0 with time.elapsed := 3072 } : State), ?_⟩, ⟨8, 0,
    W.beatLine, W.beatLineState, ?_⟩, ⟨8, 0, W.adaptLine, (W.lineState 8 W.adaptLine : State), ?_⟩⟩
  all_goals and_intros
  all_goals decide +kernel

theorem witness_LanesAndPorts :
    (∃ (p l : Nat) (a : Ability) (x : Lane) (s : State), (3 ≤ s.start.stage) ∧ ((fport p s).st ≠ .dropped) ∧ ((fport p s).gated = false) ∧
     (abilityFits (portMode p s) (fport p s).anOff a = true) ∧ (bonded (portMode p s) = true) ∧ ((fport p s).lanes[l]? = some x) ∧ (x.st =
     .training)) ∧
    (∃ (p l : Nat) (f : LaneFault) (x : Lane) (s : State), (f = .lockLost ∨ f = .remoteFault ∨ f = .alignmentLost) ∧ ((fport p
     s).lanes[l]? = some x) ∧ (x.st = .active)) ∧
    (∃ (p l : Nat) (x : Lane) (s : State), (l < 4) ∧ ((fport p s).lanes[l]? = some x) ∧ (x.st = .active)) ∧
    (∃ (p l : Nat) (x : Lane) (s : State), ((fport p s).lanes[l]? = some x) ∧ ((fport p s).st = .up) ∧ (x.st = .retired) ∧ (laneStable x s
     = true) ∧ (strokeNow s = 0)) ∧
    (∃ (p : Nat) (s : State), ((fport p s).st = .up) ∧ (activeLanes (fport p s) < (if bonded (portMode p s) then 3 else 4))) ∧
    (∃ (p : Nat) (s : State), ((fport p s).st ≠ .up) ∧ ((fport p s).gated = false) ∧ (bit s.flt.fencedPorts p = false) ∧ (strokeNow s = 0)
     ∧ ((((fport p s).lanes.filter fun x => laneStable x s).length) = 4 ∨ (bonded (portMode p s) = true ∧ (((fport p s).lanes.filter fun x
     => laneStable x s).length) = 3))) ∧
    (∃ (p l : Nat) (x : Lane) (s : State), ((fport p s).lanes[l]? = some x) ∧ (x.st = .active)) := by
  refine ⟨⟨0, 1, .kr1of200, ({ st := .training } : Lane), W.training, ?_⟩, ⟨0, 1, .lockLost, W.activeLane, W.portUp, ?_⟩, ⟨0, 1,
    W.activeLane, W.portUp, ?_⟩, ⟨0, 1, W.retiredLane, W.laneBack, ?_⟩, ⟨0, W.portFailing, ?_⟩, ⟨0, W.portStable, ?_⟩, ⟨0, 1,
    W.activeLane, W.portUp, ?_⟩⟩
  all_goals and_intros
  all_goals decide +kernel

theorem witness_FramesOut :
    (∃ (isl idx : Nat) (l : Line) (s : State), (8 ≤ isl) ∧ (isl < 16) ∧ (s.sch.applied.contains (isl, idx) = false) ∧ ((linesOf isl
     s).find? (fun x => x.1 == idx && x.2.op == 1) = some (idx, l)) ∧ (portWorks (isl - 8) s = true) ∧ (bit s.sch.unordered (isl - 8) =
     false) ∧ (l.lenM1 = 0) ∧ (l.age (cycleLen (progOf isl s)) (strokeCount s) = 0) ∧ ((fport (isl - 8) s).sends = []) ∧ ((fport (isl - 8)
     s).stretched = false) ∧ (adapts (isl - 8) s = false) ∧ (field l.arg0 16 3 ≠ 0)) ∧
    (∃ (p : Nat) (s : State), (portWorks p s = false ∨ laneFor p s = none)) ∧
    (∃ (p lane : Nat) (x : Cand) (s : State), (portWorks p s = true) ∧ (laneFor p s = some lane) ∧ (byCredit p s = some x)) ∧
    (∃ (p lane : Nat) (x : Cand) (s : State), (portWorks p s = true) ∧ (laneFor p s = some lane) ∧ (byCredit p s = none) ∧ (byBudget p s =
     some x)) ∧
    (∃ (x : Cand) (key : Key) (s : State), (x.head = .ack) ∧ (connKey x.conn (conn x.conn s).sendEpoch s = some key)) := by
  refine ⟨⟨8, 0, W.sendLine, W.sendState, ?_⟩, ⟨0, State.reset, ?_⟩, ⟨0, 0, W.ackCand, W.ackCredited, ?_⟩, ⟨0, 0, W.ackCand, W.ackWaiting,
    ?_⟩, ⟨W.ackCand, W.key, W.ackWaiting, ?_⟩⟩
  all_goals and_intros
  all_goals decide +kernel

theorem witness_FramesIn :
    (∃ (p : Nat) (x : RxFrame) (s : State), ((fport p s).st = .up) ∧ ((fport p s).gated = false) ∧ (bit s.flt.fencedPorts p = false) ∧
     (x.fcsOk = false)) ∧
    (∃ (p : Nat) (x : RxFrame) (s : State), ((fport p s).st = .up) ∧ ((fport p s).gated = false) ∧ (bit s.flt.fencedPorts p = false) ∧
     (x.fcsOk = true) ∧ (x.size < 64 ∨ 9216 < x.size)) ∧
    (∃ (p : Nat) (x : RxFrame) (s : State), ((fport p s).st = .up) ∧ ((fport p s).gated = false) ∧ (bit s.flt.fencedPorts p = false) ∧
     (x.fcsOk = true) ∧ (64 ≤ x.size) ∧ (x.size ≤ 9216) ∧ (isTfx p x s = false)) ∧
    (∃ (p : Nat) (x : RxFrame) (s : State), ((fport p s).st = .up) ∧ ((fport p s).gated = false) ∧ (bit s.flt.fencedPorts p = false) ∧
     (x.fcsOk = true) ∧ (64 ≤ x.size) ∧ (x.size ≤ 9216) ∧ (isTfx p x s = true) ∧ ((connRec (readHdr x.hdr).conn s).used = true → bit
     (connRec (readHdr x.hdr).conn s).ports p = true) ∧ (smoothLevel (fport p s) + x.size ≤ 262144) ∧ ((readHdr x.hdr).cls ≠ 0 →
     smoothHigh (fport p s) + x.size ≤ 229376)) ∧
    (∃ (p : Nat) (x : RxFrame) (rest : List RxFrame) (s : State), ((fport p s).smooth = x :: rest) ∧ (bit s.flt.fencedPorts p = false) ∧
     ((conn (readHdr x.hdr).conn s).st = .unused)) ∧
    (∃ (p : Nat) (x : RxFrame) (rest : List RxFrame) (s : State), ((fport p s).smooth = x :: rest) ∧ (bit s.flt.fencedPorts p = false) ∧
     ((conn (readHdr x.hdr).conn s).st ≠ .unused) ∧ (x.sealKey = none)) ∧
    (∃ (p e : Nat) (x : RxFrame) (rest : List RxFrame) (s : State), ((fport p s).smooth = x :: rest) ∧ (bit s.flt.fencedPorts p = false) ∧
     ((conn (readHdr x.hdr).conn s).st = .active) ∧ (authEpoch (readHdr x.hdr).conn (readHdr x.hdr) x.sealKey (setFport p
     { fport p s with smooth := rest } s) = some e) ∧ (hdrReserved x.hdr = false) ∧ ((readHdr x.hdr).op = 2) ∧ (ackFieldsOk (readHdr
     x.hdr) = true)) ∧
    (∃ (p e : Nat) (x : RxFrame) (rest : List RxFrame) (s : State), ((fport p s).smooth = x :: rest) ∧ (bit s.flt.fencedPorts p = false) ∧
     ((conn (readHdr x.hdr).conn s).st = .active ∨ (conn (readHdr x.hdr).conn s).st = .closing) ∧ (authEpoch (readHdr x.hdr).conn (readHdr
     x.hdr) x.sealKey (setFport p { fport p s with smooth := rest } s) = some e) ∧ (hdrReserved x.hdr = false) ∧ ((readHdr x.hdr).op ≠ 2)
     ∧ (∃ (seg : List Byte), decodeSegment (readHdr x.hdr).kind (readHdr x.hdr).segLen x.coded = some seg)) ∧
    (∃ (p e : Nat) (x : RxFrame) (rest : List RxFrame) (s : State), ((fport p s).smooth = x :: rest) ∧ (bit s.flt.fencedPorts p = false) ∧
     ((conn (readHdr x.hdr).conn s).st ≠ .unused) ∧ (authEpoch (readHdr x.hdr).conn (readHdr x.hdr) x.sealKey (setFport p
     { fport p s with smooth := rest } s) = some e) ∧ (hdrReserved x.hdr = false) ∧ ((readHdr x.hdr).op ≠ 2) ∧ (decodeSegment (readHdr
     x.hdr).kind (readHdr x.hdr).segLen x.coded = none)) := by
  refine ⟨⟨0, (W.frame 100 : RxFrame), W.portUp, ?_⟩, ⟨0, ({ W.frame 63 with fcsOk := true } : RxFrame), W.portUp, ?_⟩, ⟨0,
    ({ W.frame 64 with fcsOk := true, vlan := true } : RxFrame), W.portUp, ?_⟩, ⟨0, W.goodFrame, W.portUp, ?_⟩, ⟨0, W.goodFrame, ([] :
    List RxFrame), (W.frameQueued State.reset : State), ?_⟩, ⟨0, W.goodFrame, ([] : List RxFrame), (W.frameQueued W.portUp : State), ?_⟩,
    ⟨0, 0, W.ackFrame, ([] : List RxFrame), W.ackArrived, ?_⟩, ⟨0, 0, W.dataFrame, [], W.dataArrived, ?_⟩, ⟨0, 0, W.brokenFrame, [],
    W.brokenArrived, ?_⟩⟩
  all_goals and_intros
  all_goals first
    | with_reducible exact W.val_of (by decide +kernel)
    | with_reducible exact W.fst_of (by decide +kernel)
    | with_reducible exact W.snd_of
    | with_reducible exact W.some_of (by decide +kernel)
    | with_reducible exact W.pair_of (by decide +kernel)
    | with_reducible exact W.made_of (by decide +kernel)
    | with_reducible exact W.stored_of (by decide +kernel)
    | with_reducible exact W.waits_of (by decide +kernel)
    | decide +kernel

theorem witness_TransportTimers :
    (∃ (k : Nat) (s : State), (ackDue k s = true)) ∧
    (∃ (k : Nat) (s : State), (ackDue k s = false)) ∧
    (∃ (k psn : Nat) (f : SentFrame) (s : State), ((conn k s).unacked.find? (fun z => z.hdr.seq == psn) = some f) ∧ (f.at_ + 200 ≤
     s.time.elapsed) ∧ (f.later < 4) ∧ (f.timeouts ≠ 15)) ∧
    (∃ (k psn : Nat) (f : SentFrame) (s : State), ((conn k s).unacked.find? (fun z => z.hdr.seq == psn) = some f) ∧ (f.at_ + 200 ≤
     s.time.elapsed) ∧ (f.later < 4) ∧ (f.timeouts = 15)) ∧
    (∃ (k : Nat) (s : State), (1 ≤ (conn k s).rollStep) ∧ ((conn k s).rollPass + 62500 ≤ passNow s) ∧ ((aux k s).stalled = false)) ∧
    (∃ (k : Nat) (s : State), ((aux k s).group < passNow s / 64)) ∧
    (∃ (k : Nat) (s : State), ((conn k s).st = .closing) ∧ ((aux k s).closeAt + 4000 ≤ s.time.elapsed) ∧ (look (0, 0) (plate s).keymap
     (connRec k s).keySlot = (1, k))) := by
  refine ⟨⟨3, W.ackOwed, ?_⟩, ⟨3, State.reset, ?_⟩, ⟨3, 0, W.sent, W.unacked, ?_⟩, ⟨3, 0, ({ W.sent with timeouts := 15 } : SentFrame),
    W.unackedLast, ?_⟩, ⟨3, W.rolling, ?_⟩, ⟨3, ({ State.reset with time.now := 1024000 } : State), ?_⟩, ⟨3, W.closingConn, ?_⟩⟩
  all_goals and_intros
  all_goals decide +kernel

theorem witness_RemoteOperations :
    (∃ (k : Nat) (d : Bool) (m : InMsg) (r : Region) (s : State), (remoteReady k 0x20 m s) ∧ (m.body.length = 0x20) ∧ (0 < u m.body 0xC 4)
     ∧ (u m.body 0xC 4 ≤ 1048576) ∧ (u m.body 0x18 8 = 0) ∧ (regionFor (u m.body 8 4) (connRec k s).tenant 0 s = some r) ∧ (inRegion r (u
     m.body 0x10 8) (u m.body 0xC 4) s = true) ∧ (d = false ∨ r.bar2 = true)) ∧
    (∃ (k : Nat) (m : InMsg) (s : State), (remoteReady k 0x20 m s) ∧ (m.body.length = 0x20) ∧ (0 < u m.body 0xC 4) ∧ (u m.body 0xC 4 ≤
     1048576) ∧ (u m.body 0x18 8 = 0) ∧ (regionFor (u m.body 8 4) (connRec k s).tenant 0 s = none)) ∧
    (∃ (k : Nat) (m : InMsg) (r : Region) (s : State), (remoteReady k 0x20 m s) ∧ (m.body.length = 0x20) ∧ (0 < u m.body 0xC 4) ∧ (u
     m.body 0xC 4 ≤ 1048576) ∧ (u m.body 0x18 8 = 0) ∧ (regionFor (u m.body 8 4) (connRec k s).tenant 0 s = some r) ∧ (inRegion r (u
     m.body 0x10 8) (u m.body 0xC 4) s = true) ∧ (r.bar2 = false)) ∧
    (∃ (k : Nat) (d : Bool) (m : InMsg) (r : Region) (s : State), (remoteReady k 0x21 m s) ∧ (writeBad m.body = false) ∧ (bit (u m.body
     0xC 1) 0 = false) ∧ (bit (u m.body 0xC 1) 1 = false) ∧ (regionFor (u m.body 8 4) (connRec k s).tenant 1 s = some r) ∧ (inRegion r (u
     m.body 0x10 8) (m.body.length - 32) s = true) ∧ (d = false ∨ r.bar2 = true)) ∧
    (∃ (k : Nat) (m : InMsg) (r : Region) (s : State), (remoteReady k 0x22 m s) ∧ (m.body.length = 0x28) ∧ (u m.body 0xC 4 < 3) ∧ (u
     m.body 0xC 4 = 1 ∨ u m.body 0x20 8 = 0) ∧ (regionFor (u m.body 8 4) (connRec k s).tenant 2 s = some r) ∧ (inRegion r (u m.body 0x10
     8) 8 s = true) ∧ (r.bar2 = true) ∧ (u m.body 0x10 8 % 8 = 0)) ∧
    (∃ (k : Nat) (m : InMsg) (s : State), (remoteReady k 0x30 m s) ∧ (m.body.length = 16) ∧ (u m.body 0 4 < 131072) ∧ (0 < u m.body 4 4) ∧
     (u m.body 8 8 = 0) ∧ ((trigger (u m.body 0 4) s).tenant = some (connRec k s).tenant)) ∧
    (∃ (k : Nat) (m : InMsg) (s : State), (remoteReady k 0x30 m s) ∧ (m.body.length = 16) ∧ (u m.body 0 4 < 131072) ∧ (0 < u m.body 4 4) ∧
     (u m.body 8 8 = 0) ∧ ((trigger (u m.body 0 4) s).tenant ≠ some (connRec k s).tenant)) ∧
    (∃ (k : Nat) (m : InMsg) (s : State), (s.tfx.inbox.find? (fun z => z.conn == k && z.isResp && z.typ != tMove && z.typ != tExport) =
     some m) ∧ ((aux k s).waits = []) ∧ (m.typ ≠ 0x21)) ∧
    (∃ (k id : Nat) (m : InMsg) (w : Awaiting) (s : State), (s.tfx.inbox.find? (fun z => z.conn == k && z.isResp && z.typ != tMove &&
     z.typ != tExport) = some m) ∧ ((aux k s).waits = [w]) ∧ (w.tag = u m.body 0 8) ∧ (w.typ = m.typ) ∧ (w.purpose = .remoteLoad id) ∧
     (completionStatus m.body = 0)) ∧
    (∃ (k : Nat) (d : Bool) (m : InMsg) (r : Region) (s : State), (remoteReady k 0x21 m s) ∧ (writeBad m.body = false) ∧ (bit (u m.body
     0xC 1) 0 = false) ∧ (bit (u m.body 0xC 1) 1 = true) ∧ (regionFor (u m.body 8 4) (connRec k s).tenant 1 s = some r) ∧ (inRegion r (u
     m.body 0x10 8) (m.body.length - 32) s = true) ∧ (d = false ∨ r.bar2 = true)) ∧
    (∃ (i : Nat) (s : State), (s.tfx.workReqs.all (fun w => w.counter != i || w.fired || decide ((trigger i s).value < w.threshold)) =
     true)) ∧
    (∃ (k x : Nat) (m : InMsg) (w : Awaiting) (s : State), (s.tfx.inbox.find? (fun z => z.conn == k && z.isResp && z.typ != tMove && z.typ
     != tExport) = some m) ∧ ((aux k s).waits = [w]) ∧ (w.tag = u m.body 0 8) ∧ (w.typ = m.typ) ∧ (w.purpose = .hostSend x)) := by
  refine ⟨⟨3, false, W.rdMsg, W.region, (W.regionState W.rdMsg : State), ?_⟩, ⟨3, W.rdMsg, (W.reqInbox W.rdMsg : State), ?_⟩, ⟨3, W.rdMsg,
    W.region, (W.regionState W.rdMsg : State), ?_⟩, ⟨3, false, W.wrMsg, W.region, (W.regionState W.wrMsg : State), ?_⟩, ⟨3, W.atomicMsg,
    W.barRegion, (W.barRegionState W.atomicMsg : State), ?_⟩, ⟨3, W.trigMsg, W.trigState, ?_⟩, ⟨3, W.trigMsg, (W.inbox W.trigMsg : State),
    ?_⟩, ⟨3, W.respMsg, (W.inbox W.respMsg : State), ?_⟩, ⟨3, 0, W.loadResp, W.loadWait, W.loadAnswered, ?_⟩, ⟨3, false, W.quietMsg,
    W.region, (W.regionState W.quietMsg), ?_⟩, ⟨0, State.reset, ?_⟩, ⟨3, 9, W.respMsg, ⟨1, 0x20, .hostSend 9⟩,
    ({ W.loadAnswered with tfx.aux := [(3, { waits := [⟨1, 0x20, .hostSend 9⟩] })] } : State), ?_⟩⟩
  all_goals and_intros
  all_goals decide +kernel

theorem witness_RemoteAccess :
    (∃ (off n : Nat) (s : State), (accessBad off n s = true)) ∧
    (∃ (off : Nat) (data : List Byte) (s : State), (accessBad off data.length s = true)) ∧
    (∃ (off n : Nat) (s : State), (accessBad off n s = false) ∧ (sendRefusal (rwin (off / 2 ^ 26) s).conn s = none)) ∧
    (∃ (off : Nat) (data : List Byte) (s : State), (accessBad off data.length s = false) ∧ (deadWindow (off / 2 ^ 26) s = false)) ∧
    (∃ (off : Nat) (data : List Byte) (s : State), (accessBad off data.length s = false) ∧ (deadWindow (off / 2 ^ 26) s = true)) ∧
    (∃ (id : Nat) (l : RemoteLoad) (s : State), (s.host.loads.find? (fun z => z.id == id) = some l) ∧ ((rwin l.window s).watch = true) ∧
     (l.at_ + 80 ≤ s.time.elapsed)) := by
  refine ⟨⟨0, 65, State.reset, ?_⟩, ⟨0, ([] : List Byte), State.reset, ?_⟩, ⟨0, 64, W.window, ?_⟩, ⟨0, [1], W.window, ?_⟩, ⟨0, ([1] : List
    Byte), W.deadWin, ?_⟩, ⟨0, W.watchLoad, W.watchState, ?_⟩⟩
  all_goals and_intros
  all_goals decide +kernel

theorem witness_TransportCommands :
    (∃ (f : Nat) (c : Cmd) (s : State), (hostReady f 2 1 [(0, 16), (2, 8), (3, 3), (8, 64), (0x10, 21), (0x18, 64)] c s) ∧ (connOwned c
     (c.arg 0 2) s = true) ∧ (hostTypes.contains (c.arg 2 1) = true) ∧ (c.arg 3 1 ≠ 0) ∧ (c.arg 0x10 4 ≠ 0) ∧ (b2Ok c.f (c.arg 8 8) (c.arg
     0x10 4) s = true) ∧ (sendRefusal (c.arg 0 2) s = none)) ∧
    (∃ (f : Nat) (c : Cmd) (s : State), (hostReady f 2 2 [(0, 18), (4, 6), (8, 64), (0x10, 64)] c s) ∧ ((region (c.arg 0 4) s).live = true
     → tenantIn (region (c.arg 0 4) s).tenant c.part s = true) ∧ (field (c.arg 4 1) 4 2 ≠ 3) ∧ (bit (c.arg 4 1) 0 = true → b2Ok c.f (c.arg
     8 8) (c.arg 0x10 8) s = true)) ∧
    (∃ (f : Nat) (c : Cmd) (s : State), (hostReady f 2 3 [(0, 18)] c s) ∧ ((region (c.arg 0 4) s).live = true) ∧ (tenantIn (region (c.arg
     0 4) s).tenant c.part s = true)) ∧
    (∃ (f : Nat) (c : Cmd) (s : State), (hostReady f 2 4 [(0, 16), (2, 16)] c s) ∧ (connMine c (c.arg 0 2) s = true) ∧ (c.arg 2 2 < 256) ∧
     (c.arg 2 2 / 2 = c.part)) ∧
    (∃ (f : Nat) (c : Cmd) (s : State), (hostReady f 2 5 [(0, 17), (4, 32)] c s) ∧ (counterFree c (c.arg 0 4) s = true)) ∧
    (∃ (f : Nat) (c : Cmd) (n : Nat) (s : State), (hostReady f 2 6 [(0, 17), (4, 32), (8, 16), (0xA, 8), (0xB, 3), (0xC, 16), (0x10, 64),
     (0x18, 21), (0x20, 64)] c s) ∧ (connOwned c (c.arg 8 2) s = true) ∧ (hostTypes.contains (c.arg 0xA 1) = true) ∧ (c.arg 0xB 1 ≠ 0) ∧
     (c.arg 0x18 4 ≠ 0) ∧ (b2Ok c.f (c.arg 0x10 8) (c.arg 0x18 4) s = true) ∧ ((trigger (c.arg 0 4) s).tenant = some n) ∧ (tenantMine c n
     s = true) ∧ (c.arg 0xC 2 < 256) ∧ (c.arg 0xC 2 / 2 = c.part) ∧ (s.tfx.workReqs.length < 1048576)) ∧
    (∃ (f : Nat) (c : Cmd) (w : WorkReq) (s : State), (hostReady f 2 7 [(0, 20)] c s) ∧ (s.tfx.workReqs.find? (fun z => z.slot == c.arg 0
     4) = some w) ∧ (connMine c w.conn s = true) ∧ (w.fired = false)) ∧
    (∃ (f : Nat) (c : Cmd) (s : State), (hostReady f 2 8 [(0, 16)] c s) ∧ (connMine c (c.arg 0 2) s = true) ∧ ((conn (c.arg 0 2) s).st =
     .active)) ∧
    (∃ (f : Nat) (c : Cmd) (s : State), (hostReady f 2 4 [(0, 16), (2, 16)] c s) ∧ (connMine c (c.arg 0 2) s = true) ∧ (c.arg 2 2 =
     0xFFFF)) := by
  refine ⟨⟨0, W.sendCmd, W.sendReady, ?_⟩, ⟨0, W.regCmd, W.regReady, ?_⟩, ⟨0, W.deregCmd, W.deregReady, ?_⟩, ⟨0, W.bindCmd, W.bindReady,
    ?_⟩, ⟨0, W.counterCmd, W.counterReady, ?_⟩, ⟨0, W.postCmd, 1, W.postReady, ?_⟩, ⟨0, W.wrCancelCmd, W.workReq, W.wrCancelReady, ?_⟩,
    ⟨0, W.closeCmd, W.closeReady, ?_⟩, ⟨0, (W.theCmd 2 4 (leBytes 2 3 ++ leBytes 2 0xFFFF)), (W.queued 2 4 (leBytes 2 3 ++ leBytes 2
    0xFFFF) W.live), ?_⟩⟩
  all_goals and_intros
  all_goals decide +kernel

theorem witness_ReceiveRings :
    (∃ (i : Nat) (m : RingMsg) (rest : List RingMsg) (s : State), ((ring i s).enable = true) ∧ ((ring i s).waiting = m :: rest) ∧ ((ring i
     s).written < m.body.length) ∧ (((ringRoom (ring i s) s).map (·.2)).sum < min 9024 (m.body.length - (ring i s).written)) ∧ ((ring i
     s).waits = false)) ∧
    (∃ (i : Nat) (m : RingMsg) (rest : List RingMsg) (s : State), ((ring i s).enable = true) ∧ ((ring i s).waiting = m :: rest) ∧
     (m.body.length ≤ (ring i s).written) ∧ ((ring i s).nbuf ≠ 0)) ∧
    (∃ (i : Nat) (s : State), (ringAvail (ring i s) = 0) ∧ ((ring i s).fill = none)) ∧
    (∃ (i value : Nat) (s : State), ((ring i s).fill = none) ∧ ((ring i s).waits = false) ∧ ((value % ringSize (ring i s) + ringSize (ring
     i s) - (ring i s).consumed % ringSize (ring i s)) % ringSize (ring i s) < ringAvail (ring i s))) ∧
    (∃ (i : Nat) (m : RingMsg) (rest : List RingMsg) (s : State), ((ring i s).waiting = m :: rest) ∧ ((ring i s).waits = true) ∧ ((ring i
     s).reservedAt + 4000000 ≤ s.time.elapsed)) ∧
    (∃ (i : Nat) (m : RingMsg) (rest : List RingMsg) (s : State), ((ring i s).enable = true) ∧ ((ring i s).waiting = m :: rest) ∧ ((ring i
     s).written < m.body.length) ∧ (min 9024 (m.body.length - (ring i s).written) ≤ ((ringRoom (ring i s) s).map (·.2)).sum)) ∧
    (∃ (i value : Nat) (s : State), ((ring i s).fill = none) ∧ ((ring i s).waits = true) ∧ ((value % ringSize (ring i s) + ringSize (ring
     i s) - (ring i s).consumed % ringSize (ring i s)) % ringSize (ring i s) < ringAvail (ring i s))) := by
  refine ⟨⟨0, W.ringMsg, ([] : List RingMsg), W.ringEmpty, ?_⟩, ⟨0, W.ringMsg, ([] : List RingMsg), W.ringDone, ?_⟩, ⟨0, State.reset, ?_⟩,
    ⟨0, 0, W.ringPosted, ?_⟩, ⟨0, W.ringMsg, ([] : List RingMsg), W.ringLate, ?_⟩, ⟨0, W.ringMsg, [], W.ringRoomy, ?_⟩, ⟨0, 0,
    W.ringStarved, ?_⟩⟩
  all_goals and_intros
  all_goals decide +kernel

theorem witness_HostQueues :
    (∃ (f cls : Nat) (v : BitVec 64) (stores : List HostStore) (s : State), (queueListens f cls (stores.foldl hostStore s) = true) ∧
     ((hostQueue f cls (stores.foldl hostStore s)).lists.length < 64) ∧ (field v.toNat 32 10 ≠ 0) ∧ (b2Ok f (field v.toNat 0 21 * 64) (64
     + 64 * field v.toNat 32 10) (stores.foldl hostStore s) = true)) ∧
    (∃ (f cls : Nat) (stores : List HostStore) (s : State), (queueListens f cls (stores.foldl hostStore s) = true) ∧ (64 ≤ (hostQueue f
     cls (stores.foldl hostStore s)).lists.length)) ∧
    (∃ (f cls : Nat) (v : BitVec 64) (stores : List HostStore) (s : State), (queueListens f cls (stores.foldl hostStore s) = true) ∧
     ((hostQueue f cls (stores.foldl hostStore s)).lists.length < 64) ∧ (field v.toNat 32 10 = 0 ∨ b2Ok f (field v.toNat 0 21 * 64) (64 +
     64 * field v.toNat 32 10) (stores.foldl hostStore s) = false)) ∧
    (∃ (f cls : Nat) (stores : List HostStore) (s : State), (queueListens f cls (stores.foldl hostStore s) = false)) ∧
    (∃ (f cls st : Nat) (l : CmdList) (rest : List CmdList) (s : State), ((hostQueue f cls s).lists = l :: rest) ∧ (l.refused = some st))
     ∧
    (∃ (f cls : Nat) (l : CmdList) (rest : List CmdList) (s : State), ((hostQueue f cls s).lists = l :: rest) ∧ (l.refused = none) ∧
     (l.stopped = true ∨ l.ncmd ≤ l.next) ∧ (l.results.length = l.next)) ∧
    (∃ (f cls : Nat) (s : State), ((hostQueue f cls s).enable = false)) := by
  refine ⟨⟨0, 1, (0x100000000 : BitVec 64), [], W.queueOn, ?_⟩, ⟨0, 1, [], W.queueFull, ?_⟩, ⟨0, 1, (0 : BitVec 64), [], W.queueOn, ?_⟩,
    ⟨0, 1, [], State.reset, ?_⟩, ⟨0, 1, 8, W.badList, [], W.badListQueued, ?_⟩, ⟨0, 1, W.doneList, [], W.doneListQueued, ?_⟩, ⟨0, 1,
    State.reset, ?_⟩⟩
  all_goals and_intros
  all_goals decide +kernel

theorem witness_TrustKeys :
    (∃ (s : State), (mailReady 0x0101 3 s) ∧ (u (mbxArgs s) 2 1 < 2) ∧ (keyRefusal .mailbox (u (mbxArgs s) 0 2) s = none)) ∧
    (∃ (s : State), (mailReady 0x0101 3 s) ∧ (u (mbxArgs s) 2 1 < 2) ∧ ((connRec (u (mbxArgs s) 0 2) s).used = false)) ∧
    (∃ (s : State), (mailReady 0x0102 100 s) ∧ (u (mbxArgs s) 2 1 < 2) ∧ (keyRefusal .mailbox (u (mbxArgs s) 0 2) s = none) ∧
     (s.tru.offers = [])) ∧
    (∃ (s : State), (mailReady 0x0102 100 s) ∧ (u (mbxArgs s) 2 1 < 2) ∧ (keyRefusal .mailbox (u (mbxArgs s) 0 2) s = none) ∧ ((offerFor
     (u (mbxArgs s) 0 2) (u (mbxArgs s) 2 1) s).isSome = true)) ∧
    (∃ (s : State), (mailReady 0x0103 3 s) ∧ ((u (mbxArgs s) 2 1) ≤ 3) ∧ (keyRefusal .mailbox (u (mbxArgs s) 0 2) s = none)) ∧
    (∃ (s : State), (mailReady 0x0130 145 s)) ∧
    (∃ (s : State), (s.time.elapsed < s.tru.curveAt + 7600)) ∧
    (∃ (d : Nat) (q : List Byte) (rest : List CurveOp) (s : State), (s.tru.curve = .mult d q :: rest) ∧ (s.tru.curveAt + 7600 ≤
     s.time.elapsed) ∧ (pointBad q = true)) ∧
    (∃ (s : State), (mailReady 0x0120 2 s) ∧ (u (mbxArgs s) 0 1 = 0) ∧ (s.tru.svnTc ≤ u (mbxArgs s) 1 1) ∧ (s.tru.burntTc ≤ u (mbxArgs s)
     1 1) ∧ (u (mbxArgs s) 1 1 ≤ runningSvn 0 s) ∧ (u (mbxArgs s) 1 1 ≤ 64)) ∧
    (∃ (s : State), (mailReady 0x0120 2 s) ∧ (u (mbxArgs s) 0 1 = 0) ∧ (u (mbxArgs s) 1 1 < s.tru.svnTc)) ∧
    (∃ (op : CurveOp) (rest : List CurveOp) (s : State), (s.tru.curve = op :: rest) ∧ (s.tru.curveAt + 7600 ≤ s.time.elapsed)) ∧
    (∃ (n : Nat) (s : State), (mailReady 0x0120 2 s) ∧ (u (mbxArgs s) 0 1 = 1) ∧ (u (mbxArgs s) 1 1 = n) ∧ (s.tru.svnHub ≤ n) ∧
     (s.tru.burntHub ≤ n) ∧ (n ≤ runningSvn 1 s) ∧ (n ≤ 64)) ∧
    (∃ (cmd : Nat) (b : Binding) (n r : Nat) (a : List Byte) (s : State), (trustUp s = true) ∧ (vendorKey cmd s = some (b, n, r, a))) :=
     by
  refine ⟨⟨(W.mail 0x0101 [3, 0, 0] : State), ?_⟩, ⟨(W.mail 0x0101 [9, 0, 0] : State), ?_⟩, ⟨(W.mail 0x0102 ([3, 0, 0] ++ List.replicate
    97 0) : State), ?_⟩, ⟨(W.offered (W.mail 0x0102 ([3, 0, 0] ++ List.replicate 97 0)) : State), ?_⟩, ⟨(W.mail 0x0103 [3, 0, 3] : State),
    ?_⟩, ⟨(W.mail 0x0130 (List.replicate 145 0) : State), ?_⟩, ⟨State.reset, ?_⟩, ⟨1, ([] : List Byte), ([] : List CurveOp),
    W.multiplying, ?_⟩, ⟨(W.fresh (W.mail 0x0120 [0, 1]) : State), ?_⟩, ⟨({ W.mail 0x0120 [0, 1] with tru.svnTc := 2 } : State), ?_⟩,
    ⟨.mult 1 [], [], W.multiplying, ?_⟩, ⟨1, ({ W.mail 0x0120 [1, 1] with mgmt.banks := [(2, { fresh := true, svn := 1 })] } : State),
    ?_⟩, ⟨0x0103, .smbus, 1, 0, [3, 0, 3], W.keyMessage, ?_⟩⟩
  all_goals and_intros
  all_goals decide +kernel

theorem witness_ScrubsAndDevices :
    (∃ (s : State), (mailReady 0x0110 3 s) ∧ (u (mbxArgs s) 0 1 = 0) ∧ (u (mbxArgs s) 1 2 < 128) ∧ (scrubOf false (u (mbxArgs s) 1 2) s =
     none)) ∧
    (∃ (s : State) (x : Scrub), (mailReady 0x0110 3 s) ∧ (u (mbxArgs s) 0 1 = 0) ∧ (u (mbxArgs s) 1 2 < 128) ∧ (scrubOf false (u (mbxArgs
     s) 1 2) s = some x)) ∧
    (∃ (t : Bool) (id : Nat) (x : Scrub) (s : State), (scrubOf t id s = some x) ∧ (x.failed = false) ∧ (x.running = true) ∧ (trustUp s =
     true) ∧ (x.step = 3) ∧ (scrubGraceOver x s = false)) ∧
    (∃ (t : Bool) (id : Nat) (x : Scrub) (s : State), (scrubOf t id s = some x) ∧ (x.failed = false) ∧ (x.running = true) ∧ (trustUp s =
     true) ∧ (x.step = 3) ∧ (scrubGraceOver x s = true)) ∧
    (∃ (t : Bool) (id : Nat) (x : Scrub) (s : State), (scrubOf t id s = some x) ∧ (x.failed = false) ∧ (x.running = true) ∧ (trustUp s =
     true) ∧ (x.step = 7) ∧ (scrubReadsZero x s = true)) ∧
    (∃ (t : Bool) (id : Nat) (ok : Bool) (x : Scrub) (s : State), (scrubOf t id s = some x) ∧ (x.failed = false) ∧ (x.running = true) ∧
     (trustUp s = true) ∧ (x.step = 7) ∧ (x.repeated = false) ∧ ((ok && scrubReadsZero x s) = false)) ∧
    (∃ (session : Option Nat) (s : State), (trustUp s = true) ∧ (∀ n, session = some n → s.tru.sessions.contains n = true)) ∧
    (∃ (s : State), (trustUp s = true) ∧ (s.tru.sessions.length + s.tru.curve.length < 4)) ∧
    (∃ (s : State), (trustUp s = true) ∧ (4 ≤ s.tru.sessions.length)) ∧
    (∃ (n stream : Nat) (vf : Option Nat) (s : State), (trustUp s = true) ∧ (s.tru.sessions.contains n = true) ∧ ((s.tru.streams.filter
     fun x => x.1 != stream && x.2.vf.isSome == vf.isSome).length < if vf.isSome then 16 else 2)) ∧
    (∃ (n vf : Nat) (x : IdeStream) (s : State), (ideStream n s = some x) ∧ (x.secure = true) ∧ (x.vf = some vf) ∧ (tdi vf s = .run) ∧
     (scrubOf false vf s = none)) ∧
    (∃ (vf n : Nat) (s : State), (trustUp s = true) ∧ (s.tru.sessions.contains n = true) ∧ (tdi vf s = .unlocked) ∧ ((partRec vf
     s).confidential = true) ∧ (scrubOf false vf s = none) ∧ (vfStream vf s = true)) ∧
    (∃ (vf : Nat) (s : State), ((partRec vf s).confidential = false)) ∧
    (∃ (vf : Nat) (s : State), (tdi vf s = .locked) ∧ (trustUp s = true)) ∧
    (∃ (vf : Nat) (s : State), (tdi vf s = .run ∨ tdi vf s = .locked ∨ tdi vf s = .error) ∧ (trustUp s = true) ∧ (scrubOf false vf s =
     none)) ∧
    (∃ (t : Bool) (id : Nat) (ok : Bool) (x : Scrub) (s : State), (scrubOf t id s = some x) ∧ (x.failed = false) ∧ (x.running = true) ∧
     (trustUp s = true) ∧ (x.step = 7) ∧ (x.repeated = true) ∧ ((ok && scrubReadsZero x s) = false)) ∧
    (∃ (t : Bool) (id : Nat) (x : Scrub) (s : State), (scrubOf t id s = some x) ∧ (x.failed = false) ∧ (x.running = true) ∧ (trustUp s =
     true) ∧ (x.step ≠ 7) ∧ (x.step = 3 → scrubGraceOver x s = true) ∧ (∃ (y : Scrub) (r : State), scrubWork x s = (y, r))) := by
  refine ⟨⟨(W.mail 0x0110 [0, 5, 0] : State), ?_⟩, ⟨(W.scrubbing (W.mail 0x0110 [0, 5, 0]) : State), (W.theScrub 1 : Scrub), ?_⟩, ⟨false,
    5, W.graceScrub, W.scrubWaiting, ?_⟩, ⟨false, 5, (W.theScrub 3 : Scrub), (W.scrubAt 3 : State), ?_⟩, ⟨false, 5, (W.theScrub 7 :
    Scrub), (W.scrubAt 7 : State), ?_⟩, ⟨false, 5, false, (W.theScrub 7), (W.scrubAt 7), ?_⟩, ⟨none, W.trustOn, ?_⟩, ⟨W.trustOn, ?_⟩,
    ⟨({ W.trustOn with tru.sessions := [1, 2, 3, 4] } : State), ?_⟩, ⟨1, 2, (some 5), ({ W.trustOn with tru.sessions := [1] } : State),
    ?_⟩, ⟨2, 5, W.stream, W.runningTdi, ?_⟩, ⟨5, 1, W.lockable, ?_⟩, ⟨5, State.reset, ?_⟩, ⟨5,
    ({ W.trustOn with tru.tdis := [(5, .locked)] } : State), ?_⟩, ⟨5, ({ W.trustOn with tru.tdis := [(5, .run)] } : State), ?_⟩, ⟨false,
    5, false, { W.theScrub 7 with repeated := true }, ({ W.powered with tru.scrubs := [{ W.theScrub 7 with repeated := true }] } : State),
    ?_⟩, ⟨false, 5, (W.theScrub 1), (W.scrubAt 1), ?_⟩⟩
  all_goals and_intros
  all_goals first
    | (intro n h; cases h)
    | with_reducible exact W.val_of (by decide +kernel)
    | with_reducible exact W.fst_of (by decide +kernel)
    | with_reducible exact W.snd_of
    | with_reducible exact W.some_of (by decide +kernel)
    | with_reducible exact W.pair_of (by decide +kernel)
    | with_reducible exact W.made_of (by decide +kernel)
    | with_reducible exact W.stored_of (by decide +kernel)
    | with_reducible exact W.waits_of (by decide +kernel)
    | decide +kernel

theorem witness_StartUpAndCuts :
    (∃ (mv : Nat) (s : State), (3135 ≤ mv) ∧ (mv ≤ 3465) ∧ (s.start.vaux = false) ∧ (s.start.sysRst = true)) ∧
    (∃ (mv ns : Nat) (s : State), (mv < 3000) ∧ (5000 ≤ ns) ∧ (s.start.vaux = true)) ∧
    (∃ (mv ns : Nat) (s : State), (s.start.mainOn = true) ∧ (mv < 11000 ∨ 13200 < mv) ∧ (5000 ≤ ns)) ∧
    (∃ (mv : Nat), (11400 ≤ mv) ∧ (mv ≤ 12600)) ∧
    (∃ (s : State), (s.start.sysRst = false) ∧ (s.start.vaux = true)) ∧
    (∃ (n : Nat), (n < 1000)) ∧
    (∃ (s : State), (s.start.stage = 0) ∧ (s.start.stage0Done = true) ∧ (s.start.stalled = false) ∧ (vinSteady s = true) ∧ (coolantQuiet
     4000000 s = true) ∧ (0 < s.cool.windows)) ∧
    (∃ (s : State), (s.start.vaux = true) ∧ (s.start.sysRst = true) ∧ (s.start.stageRunning = true) ∧ (s.start.stalled = false) ∧
     (s.start.stage = 4) ∧ (s.plt.st = .sealed)) ∧
    (∃ (s : State), (s.start.vaux = true) ∧ (s.start.sysRst = true) ∧ (s.start.stageRunning = true) ∧ (s.start.stalled = false) ∧
     (s.start.stage = 5) ∧ (s.time.run = 2)) ∧
    (∃ (m : Nat) (s : State), (s.start.vaux = true) ∧ (s.start.sysRst = true) ∧ (s.start.stageRunning = true) ∧ (s.start.stalled = false)
     ∧ (s.start.stage = 2) ∧ (m % 256 ≠ 0)) ∧
    (∃ (s : State), (s.start.stage = 2) ∧ (s.start.stalled = true) ∧ (s.start.failedStacks < 64)) ∧
    (∃ (s : State), (s.start.stage = 2) ∧ (s.start.stalled = true) ∧ (64 ≤ s.start.failedStacks)) ∧
    (∃ (s : State), (s.start.stage = 0) ∧ (s.start.stalled = true) ∧ (s.start.cause = 4)) ∧
    (∃ (s : State), (s.start.mainOn = true)) ∧
    (∃ (mv : Nat), (3630 < mv)) ∧
    (∃ (mv ns : Nat) (s : State), (s.start.mainOn = true) ∧ (mv < 11400 ∨ 12600 < mv) ∧ (ns < 5000 ∨ (11000 ≤ mv ∧ mv ≤ 13200)) ∧
     (s.start.vinFaulted = false)) ∧
    (∃ (n : Nat) (s : State), (1000 ≤ n) ∧ (s.start.sysRst = true)) ∧
    (∃ (s : State), (s.start.vaux = true) ∧ (s.start.sysRst = true) ∧ (s.start.stageRunning = true) ∧ (s.start.stalled = false) ∧
     (s.start.stage = 1)) ∧
    (∃ (s : State), (s.start.vaux = true) ∧ (s.start.sysRst = true) ∧ (s.start.stageRunning = true) ∧ (s.start.stalled = false) ∧
     (s.start.stage = 2) ∧ (s.fsh.mounted = true ∨ s.fsh.skipped = true) ∧ (s.fsh.stalled = false)) ∧
    (∃ (s : State), (s.start.vaux = true) ∧ (s.start.sysRst = true) ∧ (s.start.stageRunning = true) ∧ (s.start.stalled = false) ∧
     (s.start.stage = 3) ∧ ((∀ p < 8, (fport p s).st = .up) ∨ s.start.stageAt + 40000000 ≤ s.time.elapsed)) ∧
    (∃ (a b : Nat) (s : State), (s.start.vaux = true) ∧ (s.start.sysRst = true) ∧ (s.start.stageRunning = true) ∧ (s.start.stalled =
     false) ∧ (s.start.stage = 0) ∧ (bootBank 0 s.mgmt.tcNext (loadFuses s) = some a) ∧ (bootBank 1 s.mgmt.hubNext (loadFuses s) = some
     b)) := by
  refine ⟨⟨3135, ({ State.reset with start.vaux := false, start.sysRst := true } : State), ?_⟩, ⟨2999, 5000, W.powered, ?_⟩, ⟨10999, 5000,
    ({ State.reset with start.mainOn := true } : State), ?_⟩, ⟨11400, ?_⟩,
    ⟨({ State.reset with start.vaux := true, start.sysRst := false } : State), ?_⟩, ⟨999, ?_⟩, ⟨W.readyForMain, ?_⟩, ⟨(W.stage 4 : State),
    ?_⟩, ⟨({ W.stage 5 with time.run := 2 } : State), ?_⟩, ⟨1, (W.stage 2 : State), ?_⟩,
    ⟨({ W.stage 2 with start.stalled := true, start.failedStacks := 63 } : State), ?_⟩,
    ⟨({ W.stage 2 with start.stalled := true, start.failedStacks := 64 } : State), ?_⟩,
    ⟨({ State.reset with start.stage := 0, start.stalled := true, start.cause := 4 } : State), ?_⟩, ⟨(W.stage 5 : State), ?_⟩, ⟨3631, ?_⟩,
    ⟨13200, 4999, ({ State.reset with start.mainOn := true } : State), ?_⟩, ⟨1000, W.powered, ?_⟩, ⟨({ W.stage 1 with  } : State), ?_⟩,
    ⟨({ W.stage 2 with fsh.mounted := true } : State), ?_⟩, ⟨({ W.stage 3 with time.elapsed := 40000000 } : State), ?_⟩, ⟨0, 0, W.stage 0,
    ?_⟩⟩
  all_goals and_intros
  all_goals decide +kernel

theorem witness_PowerAndHeat :
    (∃ (w da : Nat) (s : State), (s.start.vaux = true) ∧ (min 3200 (min 3200 (max 1200 s.pwr.cap)) + 200 < w) ∧ (da ≤ 2800) ∧ (w ≤ 3200 ∨
     s.pwr.demand + 4 < 15) ∧ (s.pwr.demand < 15)) ∧
    (∃ (w da : Nat) (s : State), (s.start.vaux = true) ∧ (100 * w < 95 * min 3200 (min 3200 (max 1200 s.pwr.cap))) ∧ (da ≤ 2800) ∧
     (s.pwr.below = 63) ∧ (s.pwr.demand ≤ 15)) ∧
    (∃ (x : Int) (s : State), (105 < x) ∧ (s.start.mainOn = true)) ∧
    (∃ (x : Int), (x ≤ 105)) ∧
    (∃ (x : Int) (s : State), (120 ≤ x) ∧ (s.start.mainOn = true)) ∧
    (∃ (d : Nat) (x : Int), (6 ≤ d) ∧ (x < 110) ∧ (98 < x)) ∧
    (∃ (st : Nat) (s : State), (st < 6) ∧ (heatDir (stackHeat st s) = 2) ∧ ((stackHeat st s).demand < 15) ∧ ((stackHeat st s).demandAt +
     64 ≤ s.time.elapsed)) ∧
    (∃ (x : CoolSample) (s : State), (s.start.vaux = true) ∧ (s.start.sysRst = true) ∧ (coolantBad x s = true) ∧ (s.cool.warn = false) ∧
     (s.start.mainOn = true)) ∧
    (∃ (x : CoolSample) (s : State), (s.start.vaux = true) ∧ (s.start.sysRst = true) ∧ (coolantBad x s = false) ∧ (s.cool.warn = false) ∧
     (s.cool.lastWarn = none) ∧ (bit s.pwr.holdCause 1 = false)) ∧
    (∃ (s : State), (s.pwr.hold = true) ∧ ((s.cool.warn = true ∧ s.cool.warnSince + 240000000 ≤ s.time.elapsed) ∨ (∃ n,
     s.cool.lowFlowSince = some n ∧ n + 40000000 ≤ s.time.elapsed))) ∧
    (∃ (s : State), (s.pwr.hold = false)) ∧
    (∃ (d : Nat) (x : Int), (d < 6) ∧ (x < 110)) ∧
    (∃ (st : Nat) (s : State), (st < 6) ∧ (heatDir (stackHeat st s) = 1) ∧ (0 < (stackHeat st s).demand) ∧ ((stackHeat st s).demandAt +
     1024 ≤ s.time.elapsed)) ∧
    (∃ (w da n : Nat) (s : State), (s.start.vaux = true) ∧ (n = min 3200 (min 3200 (max 1200 s.pwr.cap))) ∧ (95 * n ≤ 100 * w) ∧ (w ≤ n +
     200) ∧ (da ≤ 2800) ∧ (s.pwr.demand < 14 ∨ w ≤ n) ∧ (s.pwr.demand ≤ 15)) := by
  refine ⟨⟨3000, 2500, ({ W.trustOn with pwr.cap := 2000 } : State), ?_⟩, ⟨1000, 100,
    ({ W.trustOn with pwr.cap := 2000, pwr.below := 63, pwr.demand := 15 } : State), ?_⟩, ⟨(106 : Int), (W.stage 5 : State), ?_⟩, ⟨(105 :
    Int), ?_⟩, ⟨(120 : Int), (W.stage 5 : State), ?_⟩, ⟨6, 109, ?_⟩, ⟨2, W.hotStack, ?_⟩, ⟨W.lowFlow, (W.stage 5 : State), ?_⟩,
    ⟨W.goodFlow, (W.stage 5 : State), ?_⟩, ⟨W.warned, ?_⟩, ⟨State.reset, ?_⟩, ⟨5, 109, ?_⟩, ⟨2,
    ({ State.reset with pwr.stacks8 := [(2, { demand := 1 })], time.elapsed := 1024 } : State), ?_⟩, ⟨3100, 2800, 3200, W.powered, ?_⟩⟩
  all_goals and_intros
  all_goals decide +kernel

theorem witness_GatingAndHold :
    (∃ (s : State), (strokeNow s ≠ 0)) ∧
    (∃ (s : State), (strokeNow s = 0) ∧ (s.cool.flashPend = true) ∧ (s.cool.portPend = 0) ∧ (s.pwr.ggatePend = 0) ∧ (s.gravers = []) ∧
     (s.ports = []) ∧ (s.tru.tdis = []) ∧ (flashIdle s = true)) ∧
    (∃ (s : State), (strokeNow s = 0) ∧ (s.cool.linkPend = 2) ∧ (s.cool.flashPend = false) ∧ (s.cool.flashGated = false) ∧
     (s.cool.portPend = 0) ∧ (s.pwr.ggatePend = 0) ∧ (s.gravers = []) ∧ (s.ports = []) ∧ (s.tru.tdis = [])) ∧
    (∃ (s : State), (s.start.mainOn = true)) ∧
    (∃ (s : State), (mayLeaveHold s = true)) ∧
    (∃ (s : State), (mayLeaveHold s = false)) ∧
    (∃ (s : State), (s.start.mainOn = true)) ∧
    (∃ (sp : Nat) (s : State), (s.start.mainOn = true) ∧ (32 ≤ sp) ∧ (sp < 64) ∧ (s.host.bifurcated = false)) ∧
    (∃ (s : State), (strokeNow s = 0)) ∧
    (∃ (s : State), (linkHolder s = none)) ∧
    (∃ (p : Nat) (s : State), (linkHolder s = some p) ∧ (bit s.cool.linkPend 0 = false)) ∧
    (∃ (s : State), (s.start.mainOn = true)) := by
  refine ⟨⟨W.midPass, ?_⟩, ⟨({ State.reset with cool.flashPend := true } : State), ?_⟩, ⟨({ State.reset with cool.linkPend := 2 } :
    State), ?_⟩, ⟨(W.stage 5 : State), ?_⟩, ⟨W.heldByHand, ?_⟩, ⟨State.reset, ?_⟩, ⟨(W.stage 5 : State), ?_⟩, ⟨32, (W.stage 3 : State),
    ?_⟩, ⟨State.reset, ?_⟩, ⟨State.reset, ?_⟩, ⟨5, W.runningTdi, ?_⟩, ⟨({ State.reset with start.mainOn := true } : State), ?_⟩⟩
  all_goals and_intros
  all_goals decide +kernel

theorem witness_FencesAndRestarts :
    (∃ (g : Nat) (s : State), ((graver g s).st = .working) ∧ ((graver g s).renewed + 128 ≤ s.time.elapsed)) ∧
    (∃ (g : Nat) (s : State), (s.time.elapsed < (graver g s).renewed + 128)) ∧
    (∃ (p : Nat), (p < 8)) ∧
    (∃ (i : Nat), (i < 16)) ∧
    (∃ (k : Nat) (s : State), (k < 4) ∧ (s.start.mainOn = true) ∧ ((s.flt.coreResets.filter fun t => decide (s.time.elapsed < t +
     4000000)).length < 2)) ∧
    (∃ (k : Nat) (s : State), (k < 4) ∧ (s.start.mainOn = true) ∧ (2 ≤ (s.flt.coreResets.filter fun t => decide (s.time.elapsed < t +
     4000000)).length)) ∧
    (∃ (s : State), (trustUp s = true)) ∧
    (∃ (s : State), (mailReady 0x0140 4 s) ∧ (unitOut (u (mbxArgs s) 0 4) s = false)) ∧
    (∃ (s : State), (mailReady 0x0140 4 s) ∧ (s.flt.reconBad.contains (u (mbxArgs s) 0 4) = true)) ∧
    (∃ (s : State), (mailReady 0x0140 4 s) ∧ (unitOut (u (mbxArgs s) 0 4) s = true) ∧ (u (mbxArgs s) 0 4 / 65536 = 1) ∧
     (s.flt.reconBad.contains (u (mbxArgs s) 0 4) = false)) ∧
    (∃ (known : Bool) (x : Nat) (s : State), (mailReady 0x0140 4 s) ∧ (u (mbxArgs s) 0 4 = x) ∧ (unitOut x s = true) ∧
     (s.flt.reconBad.contains x = false) ∧ (x / 65536 = 1 → known = true)) ∧
    (∃ (k : Nat), (k < 4)) ∧
    (∃ (pr : TierProgram) (rest : List TierProgram) (s : State), ((raise fLeaseRevoked 0xC0000 [] (tally ctrLeaseRevoked s)).res.programs
     = pr :: rest)) := by
  refine ⟨⟨7, W.hung, ?_⟩, ⟨7, State.reset, ?_⟩, ⟨2, ?_⟩, ⟨2, ?_⟩, ⟨1, ({ State.reset with start.mainOn := true } : State), ?_⟩, ⟨1,
    ({ State.reset with start.mainOn := true, flt.coreResets := [0, 0], time.elapsed := 5 } : State), ?_⟩, ⟨W.powered, ?_⟩, ⟨(W.mail
    0x0140 [7, 0, 1, 0] : State), ?_⟩, ⟨({ W.mail 0x0140 [7, 0, 1, 0] with flt.reconBad := [0x10007] } : State), ?_⟩,
    ⟨({ W.mail 0x0140 [7, 0, 1, 0] with flt.fencedG := 128 } : State), ?_⟩, ⟨true, 65543,
    ({ W.mail 0x0140 [7, 0, 1, 0] with flt.fencedG := 128 } : State), ?_⟩, ⟨3, ?_⟩, ⟨W.program, [], W.programming, ?_⟩⟩
  all_goals and_intros
  all_goals decide +kernel

theorem witness_ReconcileAndTrace :
    (∃ (s : State), (s.time.counting = true) ∧ (s.time.now % 1000000 = 0) ∧ (s.flt.recon ≠ s.time.now) ∧ (disagreeing s = [])) ∧
    (∃ (s : State), (s.time.now % 1000000 ≠ 0)) ∧
    (∃ (r : Record) (rest : List Record) (s : State), (s.flt.fifo = r :: rest) ∧ (s.flt.lost = 0 ∨ 32 ≤ s.flt.fifo.length)) ∧
    (∃ (r : Record) (rest : List Record) (s : State), (s.flt.fifo = r :: rest) ∧ (s.flt.lost = 0) ∧ (r.severity = 1) ∧
     (s.mgmt.events.length < 64) ∧ (s.mgmt.receiver = none)) ∧
    (∃ (s : State), (s.flt.fifo.length < 32) ∧ (s.flt.lost ≠ 0)) ∧
    (∃ (s : State), (s.pwr.holdCause.testBit 3 = true)) ∧
    (∃ (s : State), (s.time.reg = true) ∧ (s.flt.fencedCollator = false) ∧ (s.pwr.lastWatts ≤ plimit s) ∧ (s.pwr.holdCause.testBit 5 =
     true)) ∧
    (∃ (s : State), (s.time.reg = false ∨ s.flt.fencedCollator = true ∨ plimit s < s.pwr.lastWatts)) ∧
    (∃ (x : WearInput) (n d : Nat) (s : State), (s.flt.wearSecond < s.time.now / 1000000000) ∧ (s.flt.wear = []) ∧ (s.flt.wearIn = []) ∧
     (hasWear x.unit = true) ∧ ([1, 3, 4].contains (x.unit / 65536) = false) ∧ (d = if x.unit / 65536 = 6 then 16 else 1) ∧ (n = min
     0xFFFF (x.c / d + 8 * x.r + 64 * x.t + 512 * x.u))) ∧
    (∃ (s : State), (s.time.now / 1000000000 ≤ s.flt.wearSecond)) ∧
    (∃ (s : State), (s.time.counting = true) ∧ (s.time.now % 1000000 = 0) ∧ (s.flt.recon ≠ s.time.now)) ∧
    (∃ (s : State), (s.flt.wearSecond < s.time.now / 1000000000)) := by
  refine ⟨⟨({ State.reset with time.counting := true, time.now := 1000000 } : State), ?_⟩, ⟨({ State.reset with time.now := 5 } : State),
    ?_⟩, ⟨W.event, ([] : List Record), ({ State.reset with flt.fifo := [W.event] } : State), ?_⟩, ⟨W.fault, ([] : List Record),
    ({ State.reset with flt.fifo := [W.fault] } : State), ?_⟩, ⟨({ State.reset with flt.lost := 3 } : State), ?_⟩,
    ⟨({ State.reset with pwr.holdCause := 8 } : State), ?_⟩, ⟨({ State.reset with pwr.holdCause := 32, time.reg := true } : State), ?_⟩,
    ⟨State.reset, ?_⟩, ⟨⟨0x20007, 1, 2, 3, 4⟩, min 0xFFFF (1 + 8 * 2 + 64 * 3 + 512 * 4), 1, ({ State.reset with time.now := 1000000000 }
    : State), ?_⟩, ⟨State.reset, ?_⟩, ⟨({ W.counting with time.now := 1000000 } : State), ?_⟩,
    ⟨({ State.reset with time.now := 1000000000 } : State), ?_⟩⟩
  all_goals and_intros
  all_goals decide +kernel

theorem witness_MctpMessages :
    (∃ (bd : Binding) (p : List Byte) (s : State), (bindingUp bd s = true) ∧ (mctpTypes.contains (u p 0 1) = true) ∧ (u p 0 1 = 0x7E → u p
     1 2 = Config.pciVendor.toNat) ∧ (bindingEid bd s ≠ 0) ∧ (p.length ≤ 4160) ∧ (look noAssembly s.mgmt.assembly (bindingNum bd) =
     noAssembly)) ∧
    (∃ (bd : Binding) (p : List Byte) (s : State), (bindingUp bd s = true) ∧ (mctpTypes.contains (u p 0 1) = false ∨ (u p 0 1 = 0x7E ∧ u p
     1 2 ≠ Config.pciVendor.toNat))) ∧
    (∃ (bd : Binding) (q : Nat) (s : State), (bindingUp bd s = true) ∧ (look noAssembly s.mgmt.assembly (bindingNum bd) ≠ noAssembly) ∧
     ((look noAssembly s.mgmt.assembly (bindingNum bd)).nextSeq ≠ q)) ∧
    (∃ (bd : Binding) (p : List Byte) (s : State), (bindingUp bd s = true) ∧ ((look noAssembly s.mgmt.assembly (bindingNum bd)).bytes ≠
     []) ∧ (4160 < (look noAssembly s.mgmt.assembly (bindingNum bd)).bytes.length + p.length)) ∧
    (∃ (bd : Binding) (p : List Byte) (s : State), (bindingUp bd s = true) ∧ (bindingEid bd s = 0) ∧ (mctpTypes.contains (u p 0 1) = true)
     ∧ (u p 0 1 ≠ 0) ∧ (u p 0 1 = 0x7E → u p 1 2 = Config.pciVendor.toNat)) ∧
    (∃ (b : Binding) (n : Nat) (s : State), (bindingUp b s = true) ∧ (n < 256)) ∧
    (∃ (s : State), (mailReady 0x0150 (8 + (u (mbxArgs s) 4 2)) s) ∧ (u (mbxArgs s) 6 2 = 0) ∧ (b2Refusal (u (mbxArgs s) 0 4) (u (mbxArgs
     s) 4 2) s = none) ∧ (2 ≤ s.start.stage)) ∧
    (∃ (s : State), (mailReady 0x0150 (8 + (u (mbxArgs s) 4 2)) s) ∧ (u (mbxArgs s) 6 2 = 0) ∧ (u (mbxArgs s) 0 4 % 64 ≠ 0)) ∧
    (∃ (s : State), (mailReady 0x0151 8 s) ∧ (u (mbxArgs s) 6 2 = 0) ∧ (b2Refusal (u (mbxArgs s) 0 4) (u (mbxArgs s) 4 2) s = none) ∧ (2 ≤
     s.start.stage)) ∧
    (∃ (s : State), (mailReady 0x0151 8 s) ∧ (u (mbxArgs s) 6 2 = 0) ∧ (b2Refusal (u (mbxArgs s) 0 4) (u (mbxArgs s) 4 2) s = none) ∧
     (s.start.stage < 2)) ∧
    (∃ (bd : Binding) (p : List Byte) (s : State), (bindingUp bd s = true) ∧ (mctpTypes.contains (u p 0 1) = true) ∧ (u p 0 1 = 0x7E → u p
     1 2 = Config.pciVendor.toNat) ∧ (bindingEid bd s ≠ 0 ∨ u p 0 1 = 0)) ∧
    (∃ (bd : Binding) (q tag : Nat) (a : Assembly) (s : State), (bindingUp bd s = true) ∧ (look noAssembly s.mgmt.assembly (bindingNum bd)
     = a) ∧ (a ≠ noAssembly) ∧ (a.nextSeq = q) ∧ (a.tag = tag)) := by
  refine ⟨⟨.smbus, [1, 2], ({ W.powered with mgmt.eidSmbus := 9 } : State), ?_⟩, ⟨.smbus, [2, 2], W.powered, ?_⟩, ⟨.smbus, 0,
    W.assembling, ?_⟩, ⟨.smbus, ([2] : List Byte), W.assemblingLong, ?_⟩, ⟨.smbus, [1, 2], W.powered, ?_⟩, ⟨.smbus, 255, W.powered, ?_⟩,
    ⟨({ W.mail 0x0150 ([0, 0, 0, 0, 64, 0, 0, 0] ++ List.replicate 64 7) with start.stage := 2 } : State), ?_⟩, ⟨(W.mail 0x0150 ([4, 0, 0,
    0, 64, 0, 0, 0] ++ List.replicate 64 7) : State), ?_⟩, ⟨({ W.mail 0x0151 [0, 0, 0, 0, 64, 0, 0, 0] with start.stage := 2 } : State),
    ?_⟩, ⟨(W.mail 0x0151 [0, 0, 0, 0, 64, 0, 0, 0] : State), ?_⟩, ⟨.smbus, [1, 2], ({ W.powered with mgmt.eidSmbus := 9 } : State), ?_⟩,
    ⟨.smbus, 1, 1, ⟨1, 1, [1]⟩, W.assembling, ?_⟩⟩
  all_goals and_intros
  all_goals decide +kernel

theorem witness_SensorsAndEvents :
    (∃ (n : Nat) (s : State), (trustUp s = true) ∧ (sensorIds.contains n = true) ∧ (sensorUp n s = true)) ∧
    (∃ (n : Nat) (s : State), (trustUp s = true) ∧ (1 ≤ n) ∧ (n < 19) ∧ (s.start.stage < 2)) ∧
    (∃ (h n : Nat) (s : State), (trustUp s = true) ∧ (n = if h = 0 then 1 else h) ∧ (1 ≤ n) ∧ (n ≤ 25)) ∧
    (∃ (n : Nat) (s : State), (trustUp s = true) ∧ (25 < n)) ∧
    (∃ (e : List Byte) (es : List (List Byte)) (s : State), (trustUp s = true) ∧ (s.mgmt.events = e :: es)) ∧
    (∃ (e : List Byte) (es : List (List Byte)) (s : State), (trustUp s = true) ∧ (s.mgmt.events = e :: es) ∧ (s.mgmt.receiver = none) ∧
     (s.mgmt.messages = [])) ∧
    (∃ (r : Nat) (e : List Byte) (es : List (List Byte)) (s : State), (trustUp s = true) ∧ (s.mgmt.events = e :: es) ∧ (s.mgmt.receiver =
     some r) ∧ (1 ≤ s.mgmt.tries) ∧ (s.mgmt.tries < 3) ∧ (s.mgmt.triedAt + 1000000 ≤ s.time.elapsed)) ∧
    (∃ (r : Nat) (e : List Byte) (s : State), (trustUp s = true) ∧ (s.mgmt.events = [e]) ∧ (s.mgmt.receiver = some r) ∧ (1 ≤
     s.mgmt.tries)) ∧
    (∃ (s : State), (3 ≤ s.mgmt.tries)) ∧
    (∃ (s : State), (trustUp s = true) ∧ (s.pwr.hold = true)) ∧
    (∃ (s : State), (trustUp s = true) ∧ (s.pwr.hold = false) ∧ (s.start.stage ≠ 0)) ∧
    (∃ (s : State), (trustUp s = true)) ∧
    (∃ (s : State), (trustUp s = true) ∧ (s.mgmt.events = [])) ∧
    (∃ (e : List Byte) (es : List (List Byte)) (s : State), (trustUp s = true) ∧ (s.mgmt.events = e :: es)) ∧
    (∃ (r : Nat) (e : List Byte) (es : List (List Byte)) (s : State), (trustUp s = true) ∧ (s.mgmt.events = e :: es) ∧ (s.mgmt.receiver =
     some r) ∧ (1 ≤ s.mgmt.tries)) := by
  refine ⟨⟨19, W.powered, ?_⟩, ⟨1, W.powered, ?_⟩, ⟨25, 25, W.powered, ?_⟩, ⟨30, W.powered, ?_⟩, ⟨([1] : List Byte), ([] : List (List
    Byte)), ({ W.powered with mgmt.events := [[1]] } : State), ?_⟩, ⟨([1] : List Byte), ([] : List (List Byte)),
    ({ W.powered with mgmt.events := [[1]] } : State), ?_⟩, ⟨1, ([1] : List Byte), ([] : List (List Byte)),
    ({ W.powered with mgmt.events := [[1]], mgmt.receiver := some 1, mgmt.tries := 1, time.elapsed := 1000000 } : State), ?_⟩, ⟨1, ([1] :
    List Byte), ({ W.powered with mgmt.events := [[1]], mgmt.receiver := some 1, mgmt.tries := 1 } : State), ?_⟩,
    ⟨({ W.powered with mgmt.events := [[1]], mgmt.receiver := some 1, mgmt.tries := 3 } : State), ?_⟩,
    ⟨({ W.powered with pwr.hold := true } : State), ?_⟩, ⟨({ W.powered with start.stage := 4 } : State), ?_⟩, ⟨W.powered, ?_⟩, ⟨W.powered,
    ?_⟩, ⟨[1], [], ({ W.powered with mgmt.events := [[1]] } : State), ?_⟩, ⟨8, [1], [],
    ({ W.powered with mgmt.events := [[1]], mgmt.receiver := some 8, mgmt.tries := 1 } : State), ?_⟩⟩
  all_goals and_intros
  all_goals decide +kernel

theorem witness_FirmwareUpdate :
    (∃ (s : State), (trustUp s = true) ∧ (updating s = false)) ∧
    (∃ (s : State), (trustUp s = true) ∧ (updating s = true)) ∧
    (∃ (k : Nat) (image : List Byte) (svn : Nat) (s : State), (trustUp s = true) ∧ (s.mgmt.update = .learn ∨ s.mgmt.update = .ready) ∧ (k
     < 2) ∧ (image.length ≤ 16777216) ∧ (svn < 256)) ∧
    (∃ (s : State), (trustUp s = true) ∧ (s.mgmt.update = .verify) ∧ ((bankOf s.mgmt.component (spareBank s.mgmt.component s)
     s).signatureOk = true) ∧ ((if s.mgmt.component = 0 then s.tru.svnTc else s.tru.svnHub) ≤ (bankOf s.mgmt.component (spareBank
     s.mgmt.component s) s).svn)) ∧
    (∃ (s : State), (trustUp s = true) ∧ (s.mgmt.update = .verify) ∧ ((bankOf s.mgmt.component (spareBank s.mgmt.component s)
     s).signatureOk = false ∨ (bankOf s.mgmt.component (spareBank s.mgmt.component s) s).svn < (if s.mgmt.component = 0 then s.tru.svnTc
     else s.tru.svnHub))) ∧
    (∃ (s : State), (trustUp s = true) ∧ (s.mgmt.update = .apply) ∧ (s.mgmt.component = 0)) ∧
    (∃ (s : State), (trustUp s = true) ∧ (s.mgmt.update = .apply) ∧ (s.mgmt.component ≠ 0)) ∧
    (∃ (s : State), (trustUp s = true) ∧ (s.mgmt.update = .ready)) ∧
    (∃ (s : State), (trustUp s = true) ∧ (updating s = true)) ∧
    (∃ (s : State), (trustUp s = true) ∧ (updating s = true) ∧ (s.mgmt.agentAt + 480000000 ≤ s.time.elapsed)) := by
  refine ⟨⟨W.powered, ?_⟩, ⟨({ W.powered with mgmt.update := .ready } : State), ?_⟩, ⟨1, ([1] : List Byte), 2,
    ({ W.powered with mgmt.update := .learn } : State), ?_⟩, ⟨W.verifying, ?_⟩,
    ⟨({ W.verifying with mgmt.banks := [(1, { fresh := true, signatureOk := false })] } : State), ?_⟩,
    ⟨({ W.powered with mgmt.update := .apply } : State), ?_⟩, ⟨({ W.powered with mgmt.update := .apply, mgmt.component := 1 } : State),
    ?_⟩, ⟨({ W.powered with mgmt.update := .ready } : State), ?_⟩, ⟨({ W.powered with mgmt.update := .ready } : State), ?_⟩,
    ⟨({ W.powered with mgmt.update := .ready, time.elapsed := 480000000 } : State), ?_⟩⟩
  all_goals and_intros
  all_goals decide +kernel

theorem witness_RegisterAccesses :
    (∃ (off : Nat), (off % 8 = 0) ∧ (off < 0x4000000) ∧ (portOwner off = none)) ∧
    (∃ (off : Nat), (off ≠ 0x1410)) ∧
    (∃ (off : Nat), (off % 8 = 0) ∧ (off < 0x4000000) ∧ (portOwner off = none)) ∧
    (∃ (off v : Nat) (s : State), (off % 8 = 0) ∧ (s.host.latch = some (0, off, v))) ∧
    (∃ (off : Nat) (s : State), (off % 8 = 0) ∧ (off < 0x4000000) ∧ (portOwner off = none) ∧ (∀ v, s.host.latch ≠ some (0, off, v))) ∧
    (∃ (off width : Nat), (badAccess off width = true)) ∧
    (∃ (f : Nat), (0 < f)) ∧
    (∃ (off : Nat), (off % 8 = 0)) ∧
    (∃ (i : Nat) (v : BitVec 64) (s : State), (v.toNat % 256 < 128 ∨ v.toNat % 256 = 255) ∧ (b2Owner (8 * i) s ≠ v.toNat % 256) ∧ (v.toNat
     % 256 < 128 → assigned (v.toNat % 256) s = false) ∧ (b2Owner (8 * i) s < 128 → assigned (b2Owner (8 * i) s) s = false) ∧ (v.toNat %
     256 < 128 → (b2Pages (v.toNat % 256) s).length < 128) ∧ (pagePending (8 * i) s = false)) ∧
    (∃ (i : Nat) (v : BitVec 64) (s : State), (v.toNat % 256 < 128) ∧ (b2Owner (8 * i) s ≠ v.toNat % 256) ∧ (assigned (v.toNat % 256) s =
     true)) ∧
    (∃ (i : Nat) (v : BitVec 64) (s : State), (v.toNat % 256 < 128 ∨ v.toNat % 256 = 255) ∧ (b2Owner (8 * i) s ≠ v.toNat % 256) ∧ (v.toNat
     % 256 < 128 → assigned (v.toNat % 256) s = false) ∧ (b2Owner (8 * i) s < 128 → assigned (b2Owner (8 * i) s) s = false) ∧ (v.toNat %
     256 < 128 → (b2Pages (v.toNat % 256) s).length < 128) ∧ (pagePending (8 * i) s = true)) := by
  refine ⟨⟨0x700008, ?_⟩, ⟨0x700008, ?_⟩, ⟨0x700008, ?_⟩, ⟨0x700008, 3, ({ State.reset with host.latch := some (0, 0x700008, 3) } :
    State), ?_⟩, ⟨0x700008, State.reset, ?_⟩, ⟨0x500022, 4, ?_⟩, ⟨3, ?_⟩, ⟨8, ?_⟩, ⟨0, (5 : BitVec 64), State.reset, ?_⟩, ⟨0, (5 : BitVec
    64), W.assignedState, ?_⟩, ⟨0, (5 : BitVec 64), W.pageNamed, ?_⟩⟩
  all_goals and_intros
  all_goals first
    | (intro v h; cases h)
    | decide +kernel

theorem witness_EarlyRegisterRequests :
    (∃ (b : Binding) (m : List Byte) (s : State), (trustUp s = true) ∧ (regMessage b false s = some m) ∧ (regRefused (m.drop 3) = false) ∧
     (s.start.stage < 2) ∧ (∃ i < u m 5 2, ¬ ((u m 7 4 + 8 * i) < 0x1000 ∨ (0x900000 ≤ (u m 7 4 + 8 * i) ∧ (u m 7 4 + 8 * i) < 0x903000) ∨
     (u m 7 4 + 8 * i) = 0x600000 ∨ (u m 7 4 + 8 * i) = 0x601018 ∨ (u m 7 4 + 8 * i) = 0x601020))) ∧
    (∃ (b : Binding) (m : List Byte) (s : State), (trustUp s = true) ∧ (regMessage b true s = some m) ∧ (regRefused (m.drop 3) = false) ∧
     (s.start.stage < 2) ∧ (∃ i < u m 5 2, ¬ ((u m 7 4 + 8 * i) < 0x1000 ∨ (0x900000 ≤ (u m 7 4 + 8 * i) ∧ (u m 7 4 + 8 * i) < 0x903000) ∨
     (u m 7 4 + 8 * i) = 0x600000 ∨ (u m 7 4 + 8 * i) = 0x601018 ∨ (u m 7 4 + 8 * i) = 0x601020))) ∧
    (∃ (b : Binding) (m : List Byte) (s : State), (trustUp s = true) ∧ (regMessage b false s = some m) ∧ (regRefused (m.drop 3) = false) ∧
     (s.start.stage < 2) ∧ (u m 5 2 = 1) ∧ ((u m 7 4 < 0x1000 ∨ (0x900000 ≤ u m 7 4 ∧ u m 7 4 < 0x903000) ∨ u m 7 4 = 0x600000 ∨ u m 7 4 =
     0x601018 ∨ u m 7 4 = 0x601020))) ∧
    (∃ (b : Binding) (m : List Byte) (k : Nat) (s : State), (trustUp s = true) ∧ (regMessage b true s = some m) ∧ (regRefused (m.drop 3) =
     false) ∧ (s.start.stage < 2) ∧ (u m 5 2 = 1) ∧ (u m 7 4 = 0x901000 + 8 * k) ∧ (k < 512)) := by
  refine ⟨⟨.smbus, (W.regMsg 1 0x700000 : List Byte), (W.withMsg (W.regMsg 1 0x700000) : State), ?_⟩, ⟨.smbus, (W.regMsg 2 0x700000 : List
    Byte), (W.withMsg (W.regMsg 2 0x700000) : State), ?_⟩, ⟨.smbus, (W.regMsg 1 0x600000 : List Byte), (W.withMsg (W.regMsg 1 0x600000) :
    State), ?_⟩, ⟨.smbus, (W.regMsg 2 0x901008 : List Byte), 1, (W.withMsg (W.regMsg 2 0x901008) : State), ?_⟩⟩
  all_goals and_intros
  all_goals decide +kernel

theorem witness_RegisterRequests :
    (∃ (b : Binding) (m : List Byte) (s : State), (trustUp s = true) ∧ (regMessage b false s = some m) ∧ (regRefused (m.drop 3) = true)) ∧
    (∃ (b : Binding) (m : List Byte) (s : State), (trustUp s = true) ∧ (regMessage b true s = some m) ∧ (regRefused (m.drop 3) = true)) ∧
    (∃ (b : Binding) (m : List Byte) (s : State), (trustUp s = true) ∧ (regMessage b false s = some m) ∧ (regRefused (m.drop 3) = false) ∧
     (2 ≤ s.start.stage) ∧ (u m 5 2 = 1) ∧ (portOwner (u m 7 4) = none)) ∧
    (∃ (b : Binding) (m : List Byte) (s : State), (trustUp s = true) ∧ (regMessage b true s = some m) ∧ (regRefused (m.drop 3) = false) ∧
     (2 ≤ s.start.stage) ∧ (u m 5 2 = 1)) ∧
    (∃ (m : List Byte) (s : State), (trustUp s = true) ∧ (regRefused (m.drop 3) = false) ∧ (2 ≤ s.start.stage)) := by
  refine ⟨⟨.smbus, (W.regMsg 1 0x600001 : List Byte), (W.withMsg (W.regMsg 1 0x600001) : State), ?_⟩, ⟨.smbus, (W.regMsg 2 0x600001 : List
    Byte), (W.withMsg (W.regMsg 2 0x600001) : State), ?_⟩, ⟨.smbus, (W.regMsg 1 0x700000 : List Byte),
    ({ W.withMsg (W.regMsg 1 0x700000) with start.stage := 4 } : State), ?_⟩, ⟨.smbus, (W.regMsg 2 0x500020 : List Byte), W.writeState,
    ?_⟩, ⟨(W.regMsg 2 0x500020), W.writeState, ?_⟩⟩
  all_goals and_intros
  all_goals decide +kernel

theorem witness_StrobeAndTime :
    (∃ (s : State), (s.time.counting = true) ∧ ((s.time.now / 250 + 1) % 64 ≠ 0) ∧ (s.pwr.hold = false) ∧ (offDue (openStroke (endStroke
     s)) = false)) ∧
    (∃ (s : State), (s.time.counting = false) ∧ ((s.time.elapsed + 1) % 64 ≠ 0) ∧ (s.pwr.hold = false) ∧ (offDue (openStroke (endStroke
     s)) = false)) ∧
    (∃ (i n : Nat) (s : State), (i < 18) ∧ (2 ≤ n) ∧ (s.time.counting = true) ∧ ((s.time.now / 250 + 1) % 64 ≠ 0) ∧ (s.time.reg = true) ∧
     (offDue (openStroke (endStroke s)) = false) ∧ (s.start.offAt = none)) := by
  refine ⟨⟨({ State.reset with time.counting := true, time.now := 250 } : State), ?_⟩, ⟨State.reset, ?_⟩, ⟨3, 2,
    ({ State.reset with time.counting := true, time.now := 250, time.reg := true } : State), ?_⟩⟩
  all_goals and_intros
  all_goals decide +kernel

theorem witness_UncorrectableErrors :
    (∃ (s : State), ((ueRecent s).length < 65536)) ∧
    (∃ (a : Nat) (s : State), ((ueRecent s).any (fun y => y.1 == a) = true)) ∧
    (∃ (a : Nat) (s : State), ((ueRecent s).any (fun y => y.1 == a) = false) ∧ ((ueRecent s).length + 1 ≠ 16)) ∧
    (∃ (a : Nat) (s : State), ((ueRecent s).any (fun y => y.1 == a) = false) ∧ ((ueRecent s).length + 1 = 16)) := by
  refine ⟨⟨State.reset, ?_⟩, ⟨5, ({ State.reset with flt.ueSeen := [(5, 0)] } : State), ?_⟩, ⟨5, State.reset, ?_⟩, ⟨99,
    ({ State.reset with flt.ueSeen := (List.range 15).map fun i => (i, 0) } : State), ?_⟩⟩
  all_goals and_intros
  all_goals decide +kernel

theorem witness_FifoStaysBounded :
    (∃ (s t : State), (step s = .next t) ∧ (fifoBounded s)) := by
  exact ⟨State.reset, State.reset, rfl, W.reset_fifo⟩

theorem witness_MemoriesStayCanonical :
    (∃ (s t : State), (step s = .next t) ∧ (memoriesCanonical s)) := by
  exact ⟨State.reset, State.reset, rfl, W.reset_memories⟩

theorem witness_FusesNeverFall :
    (∃ (s t : State), (step s = .next t)) := by
  exact ⟨State.reset, State.reset, rfl⟩

end Sys2Proof.Tests
end

/-! Proofs of the scope chapter's statement: registers and the map of BAR2 pages (00_scope.md R8 to R13, 13_host_attachment.md
R344, R357, R358; 14_trust_and_isolation.md R377). -/

namespace Sys2Proof.Proofs

open Sys2Proof.Machine

/-! ### One byte of a HUB_B2MAP write -/

/-- A write of OWNER that HUB_B2MAP does not refuse and that names another owner than the page has: the owner is a partition or
PF0, neither the old nor the new one is an assigned partition, and the new one has room for a page (R344, R357, R377). -/
structure OwnerAccepted (page owner : Nat) (s : State) : Prop where
  names : owner < 128 ∨ owner = 255
  differs : b2Owner page s ≠ owner
  newFree : owner < 128 → assigned owner s = false
  oldFree : b2Owner page s < 128 → assigned (b2Owner page s) s = false
  room : owner < 128 → (b2Pages owner s).length < 128

/-- The state in which a page has been given an owner. -/
def ownerStored (page owner : Nat) (s : State) : State :=
  { s with host := { s.host with b2map := put 0xFF s.host.b2map page owner } }

/-- An accepted owner is stored. -/
theorem mapByte_of_accepted {page owner : Nat} {s : State} (h : OwnerAccepted page owner s) :
    mapByte page owner s = ownerStored page owner s := by
  obtain ⟨names, differs, newFree, oldFree, room⟩ := h
  have noHit : ([b2Owner page s, owner].find? fun p => decide (p < 128) && assigned p s) = none := by
    simpa using ⟨oldFree, newFree⟩
  have noSkip : (decide (owner = b2Owner page s) || (decide (128 ≤ owner) && decide (owner < 0xFF))) = false := by
    simp only [Bool.or_eq_false_iff, Bool.and_eq_false_iff, decide_eq_false_iff_not]
    omega
  have noLimit : (decide (owner < 128) && decide (128 ≤ (b2Pages owner s).length)) = false := by
    simpa using room
  simp only [mapByte, ownerStored, noSkip, noHit, noLimit, Bool.false_eq_true, if_false]

/-- HUB_B2MAP with a width of one byte writes the owner of one page: where the owner changes and a pending list names the page,
a pick decides whether the page moves (R358). -/
theorem exec_hubB2map_byte (i : Nat) (v : BitVec 64) (s : State) :
    exec (.hubB2map i 1 v) s = .next
      (if b2Owner (8 * i) (mapByte (8 * i) (v.toNat % 256) s) ≠ b2Owner (8 * i) s ∧ pagePending (8 * i) s then
        if (pick 2 s).1 = 0 then (pick 2 s).2 else mapByte (8 * i) (v.toNat % 256) (pick 2 s).2
      else mapByte (8 * i) (v.toNat % 256) s) := by
  have byte : leBytes 1 v.toNat = [BitVec.ofNat 8 v.toNat] := rfl
  show Host.Outcome.next (mapBytes (8 * i) (leBytes 1 v.toNat) s) = _
  simp only [byte, mapBytes, BitVec.toNat_ofNat]

/-! ### A page that a pending list names

Whether the page moves is a free pick as long as the stored owner reads back, which it does in a map of canonical form. In a map
that lists a page twice, storing 0xFF takes the first entry away and uncovers the second: the owner that reads back can be the old
one, and `mapBytes` then sees no move and picks nothing. -/

/-- With a map in canonical form, a page that a pending list names moves or stays by a pick. -/
theorem hubB2map_pending_picks (i : Nat) (v : BitVec 64) (s : State) (wf : storeWf 0xFF s.host.b2map = true)
    (acc : OwnerAccepted (8 * i) (v.toNat % 256) s) (pend : pagePending (8 * i) s = true) :
    exec (.hubB2map i 1 v) s = .next (if (pick 2 s).1 = 0 then (pick 2 s).2
      else ownerStored (8 * i) (v.toNat % 256) (pick 2 s).2) := by
  have readBack : b2Owner (8 * i) (ownerStored (8 * i) (v.toNat % 256) s) = v.toNat % 256 := by
    rw [b2Owner, ownerStored, look_put wf, if_pos rfl]
  have acc' : OwnerAccepted (8 * i) (v.toNat % 256) (pick 2 s).2 := ⟨acc.names, acc.differs, acc.newFree, acc.oldFree, acc.room⟩
  rw [exec_hubB2map_byte, mapByte_of_accepted acc, readBack, if_pos ⟨acc.differs.symm, pend⟩, mapByte_of_accepted acc']

/-- Where the stored owner does not read back and the old one does, nothing is picked. -/
theorem hubB2map_unmoved (i : Nat) (v : BitVec 64) (s : State) (acc : OwnerAccepted (8 * i) (v.toNat % 256) s)
    (same : b2Owner (8 * i) (ownerStored (8 * i) (v.toNat % 256) s) = b2Owner (8 * i) s) :
    exec (.hubB2map i 1 v) s = .next (ownerStored (8 * i) (v.toNat % 256) s) := by
  rw [exec_hubB2map_byte, mapByte_of_accepted acc, if_neg fun moved => moved.1 same]

/-- The map lists page 0 twice, each time with partition 5, and a pending list of partition 5's VF begins in the page. -/
def pageListedTwice : State :=
  { host.b2map := [(0, 5), (0, 5)]
    host.queues := [(48, { enable := true, lists := [⟨1, 0, 1, 5, false, false, none, 0, [], false⟩] })] }

theorem pageListedTwice_owner : b2Owner 0 pageListedTwice = 5 := rfl

theorem pageListedTwice_pending : pagePending 0 pageListedTwice = true := by decide

theorem pageListedTwice_accepts : OwnerAccepted 0 255 pageListedTwice where
  names := .inr rfl
  differs := by decide
  newFree := by decide
  oldFree := fun _ => rfl
  room := by decide

/-- Giving the page back to PF0 uncovers the second entry. -/
theorem pageListedTwice_keeps_owner : b2Owner 0 (ownerStored 0 255 pageListedTwice) = 5 := rfl

/-- So the write picks nothing, though a pending list names the page. -/
theorem pageListedTwice_picks_nothing :
    exec (.hubB2map 0 1 255) pageListedTwice = .next (ownerStored 0 255 pageListedTwice) :=
  hubB2map_unmoved 0 255 pageListedTwice pageListedTwice_accepts
    (pageListedTwice_keeps_owner.trans pageListedTwice_owner.symm)

/-- Refutes O48 by its last clause, the pick for a page that a pending list names. The clause has no premise on the form of the
map, and in `pageListedTwice` a write of 0xFF uses up no free value, where both outcomes of the clause use up one. What the clause
lacks is the premise that the map is canonical, as every store that `put` has built is: with it the pick stands
(`hubB2map_pending_picks`). -/
theorem not_registerAccesses : ¬ Obligations.RegisterAccesses := by
  unfold Obligations.RegisterAccesses
  rintro ⟨-, -, -, -, -, -, -, -, -, -, -, -, -, picks⟩
  have acc := pageListedTwice_accepts
  have outcomes := picks 0 255 pageListedTwice acc.names acc.differs acc.newFree acc.oldFree acc.room pageListedTwice_pending
  rw [pageListedTwice_picks_nothing] at outcomes
  rcases outcomes with stays | moves
  · injection stays with same
    exact absurd (congrArg State.free same) (by decide)
  · injection moves with same
    exact absurd (congrArg State.free same) (by decide)

end Sys2Proof.Proofs

/-! ## The byte memories stay canonical

For every operation on the state one lemma, in the order of the model: from a state with canonical memories the operation leads to
one. A field that is neither a memory nor a tier program is not in question, so an operation that writes only such fields hands the
hypothesis on; what carries the argument are the page rules of Laws/Memory, where a memory is written, and the bound on a tier
program's page image, which `writePage` needs. -/

namespace Sys2Proof.Proofs

open Sys2Proof Sys2Proof.Machine Sys2Proof.Safety

/-- A page image is canonical and lies within the page. -/
def imageCanonical (m : Mem) : Prop := Memory.wf m = true ∧ ∀ y ∈ m, y.1 < pageBytes

/-- An operation on the state keeps the canonical form. -/
abbrev KeepsCanonical (f : State → State) : Prop := ∀ ⦃s : State⦄, memoriesCanonical s → memoriesCanonical (f s)

section parts

variable {s : State} (h : memoriesCanonical s)
include h

theorem stk_wf : Memory.wf s.mem.stk = true := h.1

theorem tier_wf : Memory.wf s.mem.tier = true := h.2.1

theorem bar2_wf : Memory.wf s.mem.bar2 = true := h.2.2.1

theorem host_wf : Memory.wf s.mem.host = true := h.2.2.2.1

theorem mbxReq_wf : Memory.wf s.mem.mbxReq = true := h.2.2.2.2.1

theorem mbxResp_wf : Memory.wf s.mem.mbxResp = true := h.2.2.2.2.2.1

theorem program_image {p : TierProgram} (hp : p ∈ s.res.programs) : imageCanonical p.bytes := h.2.2.2.2.2.2 p hp

/-- Where neither a memory nor the tier programs differ, the form stays. -/
theorem frame_canonical {t : State} (mem : t.mem = s.mem) (programs : t.res.programs = s.res.programs) :
    memoriesCanonical t := by
  unfold memoriesCanonical
  rw [mem, programs]
  exact h

theorem stk_canonical {m : Mem} (hm : Memory.wf m = true) : memoriesCanonical { s with mem.stk := m } := by
  obtain ⟨-, tier, bar2, host, mbxReq, mbxResp, programs⟩ := h
  exact ⟨hm, tier, bar2, host, mbxReq, mbxResp, programs⟩

theorem tier_canonical {m : Mem} (hm : Memory.wf m = true) : memoriesCanonical { s with mem.tier := m } := by
  obtain ⟨stk, -, bar2, host, mbxReq, mbxResp, programs⟩ := h
  exact ⟨stk, hm, bar2, host, mbxReq, mbxResp, programs⟩

theorem bar2_canonical {m : Mem} (hm : Memory.wf m = true) : memoriesCanonical { s with mem.bar2 := m } := by
  obtain ⟨stk, tier, -, host, mbxReq, mbxResp, programs⟩ := h
  exact ⟨stk, tier, hm, host, mbxReq, mbxResp, programs⟩

theorem host_canonical {m : Mem} (hm : Memory.wf m = true) : memoriesCanonical { s with mem.host := m } := by
  obtain ⟨stk, tier, bar2, -, mbxReq, mbxResp, programs⟩ := h
  exact ⟨stk, tier, bar2, hm, mbxReq, mbxResp, programs⟩

theorem mbxReq_canonical {m : Mem} (hm : Memory.wf m = true) : memoriesCanonical { s with mem.mbxReq := m } := by
  obtain ⟨stk, tier, bar2, host, -, mbxResp, programs⟩ := h
  exact ⟨stk, tier, bar2, host, hm, mbxResp, programs⟩

theorem mbxResp_canonical {m : Mem} (hm : Memory.wf m = true) : memoriesCanonical { s with mem.mbxResp := m } := by
  obtain ⟨stk, tier, bar2, host, mbxReq, -, programs⟩ := h
  exact ⟨stk, tier, bar2, host, mbxReq, hm, programs⟩

theorem programs_canonical {ps : List TierProgram} (hps : ∀ p ∈ ps, imageCanonical p.bytes) :
    memoriesCanonical { s with res.programs := ps } := by
  obtain ⟨stk, tier, bar2, host, mbxReq, mbxResp, -⟩ := h
  exact ⟨stk, tier, bar2, host, mbxReq, mbxResp, hps⟩

/-- Programs may end. -/
theorem filterPrograms_canonical {p : TierProgram → Bool} :
    memoriesCanonical { s with res.programs := s.res.programs.filter p } :=
  programs_canonical h fun _ hp => program_image h (List.mem_of_mem_filter hp)

/-- Programs may change in all but their page images. -/
theorem mapPrograms_canonical {f : TierProgram → TierProgram} (hf : ∀ p, (f p).bytes = p.bytes) :
    memoriesCanonical { s with res.programs := s.res.programs.map f } := by
  refine programs_canonical h fun p hp => ?_
  obtain ⟨q, hq, rfl⟩ := List.mem_map.mp hp
  rw [hf]
  exact program_image h hq

theorem replacePrograms_canonical {p : TierProgram → Bool} {f : TierProgram → TierProgram} (hf : ∀ x, (f x).bytes = x.bytes) :
    memoriesCanonical { s with res.programs := replaceWhere p f s.res.programs } :=
  mapPrograms_canonical h fun x => by
    split
    · exact hf x
    · rfl

end parts

/-! ### The parts of the state beside the memories and the residency -/

section others

variable {s : State} (h : memoriesCanonical s)
include h

theorem time_canonical {x} : memoriesCanonical { s with time := x } :=
  h

theorem bar_canonical {x} : memoriesCanonical { s with bar := x } :=
  h

theorem plt_canonical {x} : memoriesCanonical { s with plt := x } :=
  h

theorem tfx_canonical {x} : memoriesCanonical { s with tfx := x } :=
  h

theorem tel_canonical {x} : memoriesCanonical { s with tel := x } :=
  h

theorem flt_canonical {x} : memoriesCanonical { s with flt := x } :=
  h

theorem host_frame_canonical {x} : memoriesCanonical { s with host := x } :=
  h

end others

/-! ### Branches, folds and optional results -/

theorem ite_canonical {c : Prop} [Decidable c] {a b : State} (ha : memoriesCanonical a) (hb : memoriesCanonical b) :
    memoriesCanonical (if c then a else b) := by
  split
  · exact ha
  · exact hb

theorem ite_snd_canonical {β : Type} {c : Prop} [Decidable c] {a b : β × State} (ha : memoriesCanonical a.2)
    (hb : memoriesCanonical b.2) : memoriesCanonical (if c then a else b).2 := by
  split
  · exact ha
  · exact hb

theorem getD_snd_canonical {β : Type} {o : Option (β × State)} {x : β × State} (ho : ∀ y, o = some y → memoriesCanonical y.2)
    (h : memoriesCanonical x.2) : memoriesCanonical (o.getD x).2 := by
  cases o with
  | none => exact h
  | some y => exact ho y rfl

theorem snd_canonical {β : Type} {r : β × State} {x : β} {t : State} (e : r = (x, t)) (h : memoriesCanonical r.2) :
    memoriesCanonical t := by
  rw [e] at h
  exact h

theorem foldl_canonical {α : Type} {f : State → α → State}
    (hf : ∀ a s, memoriesCanonical s → memoriesCanonical (f s a)) {l : List α} {s : State} (h : memoriesCanonical s) :
    memoriesCanonical (l.foldl f s) := by
  induction l generalizing s with
  | nil => exact h
  | cons a l ih => exact ih (hf a s h)

theorem foldl_snd_canonical {α β : Type} {f : β × State → α → β × State}
    (hf : ∀ a x, memoriesCanonical x.2 → memoriesCanonical (f x a).2) {l : List α} {x : β × State}
    (h : memoriesCanonical x.2) : memoriesCanonical (l.foldl f x).2 := by
  induction l generalizing x with
  | nil => exact h
  | cons a l ih => exact ih (hf a x h)

/-- A chain of operations that can each fail keeps the form where it succeeds. -/
theorem foldlBind_canonical {α : Type} {f : α → State → Option State}
    (hf : ∀ a s t, f a s = some t → memoriesCanonical s → memoriesCanonical t) {l : List α} {o : Option State} {t : State}
    (e : l.foldl (fun o a => o.bind fun s => f a s) o = some t) (h : ∀ s, o = some s → memoriesCanonical s) :
    memoriesCanonical t := by
  induction l generalizing o with
  | nil => exact h t e
  | cons a l ih =>
    refine ih e fun s hs => ?_
    obtain ⟨s', ho, hs'⟩ := Option.bind_eq_some_iff.mp hs
    exact hf a s' s hs' (h s' ho)

theorem foldl_wf {α : Type} {f : Mem → α → Mem} (hf : ∀ a m, Memory.wf m = true → Memory.wf (f m a) = true) {l : List α}
    {m : Mem} (hm : Memory.wf m = true) : Memory.wf (l.foldl f m) = true := by
  induction l generalizing m with
  | nil => exact hm
  | cons a l ih => exact ih (hf a m hm)

/-- What a write comes to is canonical. -/
def writeEndCanonical : WriteEnd → Prop
  | .stored s | .waits s => memoriesCanonical s
  | .refused _ => True

/-- What an attempt at a change comes to is canonical. -/
def changeEndCanonical : ChangeEnd → Prop
  | .over s | .waits _ s => memoriesCanonical s

/-- Settles O56: reset leaves the FIFO and every memory empty. -/
theorem resetSound : Obligations.ResetSound := by
  unfold Obligations.ResetSound
  have fifo : fifoBounded State.reset := ⟨by decide, by decide, by decide, by decide⟩
  have memories : memoriesCanonical State.reset := ⟨rfl, rfl, rfl, rfl, rfl, rfl, fun _ running => nomatch running⟩
  exact ⟨fifo, memories⟩

section operations

variable {s : State}

/-! ### Ops -/

theorem pick_canonical {n} (h : memoriesCanonical s) : memoriesCanonical (pick n s).2 :=
  ite_snd_canonical h h

theorem emit_canonical {o} (h : memoriesCanonical s) : memoriesCanonical (emit o s) :=
  h

theorem driveBarrier_canonical (h : memoriesCanonical s) : memoriesCanonical (driveBarrier s) :=
  ite_canonical h (emit_canonical h)

theorem interrupt_canonical {fn vector} (h : memoriesCanonical s) : memoriesCanonical (interrupt fn vector s) :=
  emit_canonical h

theorem logRecord_canonical {r} (h : memoriesCanonical s) : memoriesCanonical (logRecord r s) :=
  ite_canonical h h

theorem logEvent_canonical {cls n unit args} (h : memoriesCanonical s) : memoriesCanonical (logEvent cls n unit args s) :=
  logRecord_canonical h

theorem tallyBy_canonical {n c} (h : memoriesCanonical s) : memoriesCanonical (tallyBy n c s) :=
  h

theorem tally_canonical {c} (h : memoriesCanonical s) : memoriesCanonical (tally c s) :=
  tallyBy_canonical h

theorem countEvent_canonical {c unit} (h : memoriesCanonical s) : memoriesCanonical (countEvent c unit s) :=
  logEvent_canonical (tally_canonical h)

theorem countWear_canonical {unit f} (h : memoriesCanonical s) : memoriesCanonical (countWear unit f s) :=
  h

theorem raiseRecord_canonical {code unit args} (h : memoriesCanonical s) :
    memoriesCanonical (raiseRecord code unit args s) :=
  interrupt_canonical (logRecord_canonical (tally_canonical h))

/-! ### Msg -/

theorem setConn_canonical {c v} (h : memoriesCanonical s) : memoriesCanonical (setConn c v s) :=
  h

theorem setAux_canonical {c v} (h : memoriesCanonical s) : memoriesCanonical (setAux c v s) :=
  h

theorem queueMsg_canonical {c m} (h : memoriesCanonical s) : memoriesCanonical (queueMsg c m s) :=
  ite_canonical h (setConn_canonical h)

theorem sendCompletion_canonical {c typ tag status bytes} (h : memoriesCanonical s) :
    memoriesCanonical (sendCompletion c typ tag status bytes s) :=
  queueMsg_canonical h

theorem giveUnits_canonical {c cls n} (h : memoriesCanonical s) : memoriesCanonical (giveUnits c cls n s) :=
  setConn_canonical h

theorem returnCredit_canonical {c cls len} (h : memoriesCanonical s) : memoriesCanonical (returnCredit c cls len s) :=
  giveUnits_canonical h

theorem returnToken_canonical {c} (h : memoriesCanonical s) : memoriesCanonical (returnToken c s) :=
  setConn_canonical h

theorem inboxTake_canonical {m} (h : memoriesCanonical s) : memoriesCanonical (inboxTake m s) :=
  h

theorem storeSegs_wf {segs bs m} (hm : Memory.wf m = true) : Memory.wf (storeSegs segs bs m) = true := by
  induction segs generalizing bs m with
  | nil => exact hm
  | cons x t ih => exact ih (wf_memWrite hm _ _)

theorem b2Write_canonical {f off bs} (h : memoriesCanonical s) : memoriesCanonical (b2Write f off bs s) := by
  unfold b2Write
  split
  · exact bar2_canonical h (storeSegs_wf (bar2_wf h))
  · exact h

theorem setQueue_canonical {f cls q} (h : memoriesCanonical s) : memoriesCanonical (setQueue f cls q s) :=
  h

theorem endCommand_canonical {f cls seq idx status reason value} (h : memoriesCanonical s) :
    memoriesCanonical (endCommand f cls seq idx status reason value s) :=
  setQueue_canonical h

/-! ### Collate -/

theorem setReq_canonical {r} (h : memoriesCanonical s) : memoriesCanonical (setReq r s) :=
  h

theorem setGraver_canonical {g v} (h : memoriesCanonical s) : memoriesCanonical (setGraver g v s) :=
  h

theorem dropReq_canonical {id} (h : memoriesCanonical s) : memoriesCanonical (dropReq id s) :=
  h

theorem setEntry_canonical {e} (h : memoriesCanonical s) : memoriesCanonical (setEntry e s) :=
  h

theorem dropEntry_canonical {id} (h : memoriesCanonical s) : memoriesCanonical (dropEntry id s) :=
  h

theorem pruneAnswered_canonical (h : memoriesCanonical s) : memoriesCanonical (pruneAnswered s) :=
  h

theorem telImpr_canonical {i} (h : memoriesCanonical s) : memoriesCanonical (telImpr i s) :=
  h

theorem hostImpr_canonical {f seq idx out i} (h : memoriesCanonical s) : memoriesCanonical (hostImpr f seq idx out i s) :=
  endCommand_canonical (b2Write_canonical h)

theorem noteClosed_canonical {r} (h : memoriesCanonical s) : memoriesCanonical (noteClosed r s) :=
  ite_canonical h h

theorem handOver_canonical {r i} (h : memoriesCanonical s) : memoriesCanonical (handOver r i s) := by
  unfold handOver
  extract_lets -underBinder s₁ s₂
  have hs₂ : memoriesCanonical s₂ :=
    telImpr_canonical (dropEntry_canonical (dropReq_canonical (noteClosed_canonical h)))
  split
  · exact tfx_canonical (hostImpr_canonical hs₂)
  · exact queueMsg_canonical (returnToken_canonical hs₂)
  · exact hs₂

theorem refuseReq_canonical {r status} (h : memoriesCanonical s) : memoriesCanonical (refuseReq r status s) :=
  handOver_canonical (countEvent_canonical h)

theorem countMerges_canonical {n e} (h : memoriesCanonical s) : memoriesCanonical (countMerges n e s).2 :=
  h

theorem sendResult_canonical {r e extra codes} (h : memoriesCanonical s) :
    memoriesCanonical (sendResult r e extra codes s) :=
  handOver_canonical (countMerges_canonical (ite_canonical (countEvent_canonical h) h))

theorem refuseSource_canonical {r x a} (h : memoriesCanonical x.2) : memoriesCanonical (refuseSource r x a).2 :=
  countEvent_canonical h

theorem joinArrival_canonical {r e a bad} (h : memoriesCanonical s) : memoriesCanonical (joinArrival r e a bad s).2 :=
  ite_snd_canonical h <|
    ite_snd_canonical (refuseSource_canonical h) <|
    countMerges_canonical (foldl_snd_canonical (fun _ _ h => refuseSource_canonical h) h)

theorem joinAll_canonical {r e} (h : memoriesCanonical s) : memoriesCanonical (joinAll r e s).2 :=
  foldl_snd_canonical (fun _ _ h => joinArrival_canonical h) h

theorem cutLocal_canonical {r e} (h : memoriesCanonical s) : memoriesCanonical (cutLocal r e s).2 :=
  foldl_canonical (fun _ _ h => countEvent_canonical h) h

theorem answerEntry_canonical {r e codes} (h : memoriesCanonical s) : memoriesCanonical (answerEntry r e codes s) :=
  sendResult_canonical (ite_canonical (foldl_canonical (fun _ _ h => countEvent_canonical h) h) h)

theorem closeEntry_canonical {r e} (h : memoriesCanonical s) : memoriesCanonical (closeEntry r e s) :=
  answerEntry_canonical (cutLocal_canonical h)

theorem closeNow_canonical {r e} (h : memoriesCanonical s) : memoriesCanonical (closeNow r e s) :=
  closeEntry_canonical (setEntry_canonical (joinAll_canonical h))

theorem endUndispatched_canonical {r status} (h : memoriesCanonical s) : memoriesCanonical (endUndispatched r status s) :=
  answerEntry_canonical (joinAll_canonical h)

theorem endDispatched_canonical {r status} (h : memoriesCanonical s) : memoriesCanonical (endDispatched r status s) :=
  answerEntry_canonical (foldl_snd_canonical (fun _ _ h => joinArrival_canonical h) (joinAll_canonical h))

/-! ### Flash -/

theorem setNand_canonical {b v} (h : memoriesCanonical s) : memoriesCanonical (setNand b v s) :=
  h

theorem blockFor_canonical {c keep r} (e : blockFor c keep s = some r) (h : memoriesCanonical s) : memoriesCanonical r.2 := by
  unfold blockFor at e
  split at e
  · cases e
  · split at e
    · cases e
      exact h
    · split at e
      · cases e
      · obtain ⟨_, _, rfl⟩ := Option.map_eq_some_iff.mp e
        exact h

theorem placeCodeword_canonical {keep idx c t} (e : placeCodeword keep idx c s = some t) (h : memoriesCanonical s) :
    memoriesCanonical t := by
  obtain ⟨_, hb, rfl⟩ := Option.map_eq_some_iff.mp e
  exact blockFor_canonical hb h

theorem placeTlpn_canonical {rewrite n t} (e : placeTlpn rewrite n s = some t) (h : memoriesCanonical s) :
    memoriesCanonical t :=
  foldlBind_canonical (fun _ _ _ e h => placeCodeword_canonical e h) e fun _ hs => Option.some.inj hs ▸ h

theorem retireOpen_canonical {c} (h : memoriesCanonical s) : memoriesCanonical (retireOpen s c) := by
  unfold retireOpen
  split
  · next found =>
    exact tally_canonical (blockFor_canonical found h)
  · exact h

theorem unplace_canonical {gone} (h : memoriesCanonical s) : memoriesCanonical (unplace gone s) :=
  tier_canonical h (storeWf_filter (tier_wf h) _)

theorem eraseBlock_canonical {fails b} (h : memoriesCanonical s) : memoriesCanonical (eraseBlock fails s b) :=
  setNand_canonical (ite_canonical (tally_canonical (ite_canonical h h)) (ite_canonical h h))

theorem relocateBlock_canonical {eraseFails writeFails b} (h : memoriesCanonical s) :
    memoriesCanonical (relocateBlock eraseFails writeFails b s) := by
  unfold relocateBlock
  extract_lets -underBinder _ _ start₁ start₂
  have hstart₁ : memoriesCanonical start₁ := ite_canonical h h
  have hstart₂ : memoriesCanonical start₂ := ite_canonical (retireOpen_canonical hstart₁) hstart₁
  split
  · next moved =>
    have placed := foldlBind_canonical (fun _ _ _ e h => placeCodeword_canonical e h) moved fun _ hs => Option.some.inj hs ▸ hstart₂
    exact eraseBlock_canonical (tally_canonical placed)
  · exact ite_canonical hstart₂ h

theorem tierMaintenance_canonical {fails programFails} (h : memoriesCanonical s) :
    memoriesCanonical (tierMaintenance fails programFails s) := by
  unfold tierMaintenance
  split
  · exact h
  · extract_lets -underBinder _ s₁ s₂
    have hs₂ : memoriesCanonical s₂ := foldl_canonical (fun _ _ h => eraseBlock_canonical h) h
    refine foldl_canonical (fun _ _ h => ?_) hs₂
    split
    · exact ite_canonical h (relocateBlock_canonical h)
    · exact h

theorem noteRead_canonical {t} (h : memoriesCanonical s) : memoriesCanonical (noteRead t s) :=
  foldl_canonical (fun _ _ h => ite_canonical h (setNand_canonical h)) h

theorem noteCorrected_canonical {t cs} (h : memoriesCanonical s) : memoriesCanonical (noteCorrected t cs s) :=
  foldl_canonical (fun _ _ h => ite_canonical h (setNand_canonical h)) (tallyBy_canonical h)

/-! ### DirOps -/

theorem setExtent_canonical {x v} (h : memoriesCanonical s) : memoriesCanonical (setExtent x v s) :=
  h

theorem allocExtent_canonical {p r} (e : allocExtent p s = some r) (h : memoriesCanonical s) : memoriesCanonical r.2 := by
  unfold allocExtent at e
  split at e
  · cases e
  · cases e
    exact setExtent_canonical (pick_canonical h)

theorem extToGrace_canonical {x} (h : memoriesCanonical s) : memoriesCanonical (extToGrace x s) := by
  unfold extToGrace
  split
  · exact setExtent_canonical h
  · exact h
  · exact h
  · exact h

theorem extToLive_canonical {x} (h : memoriesCanonical s) : memoriesCanonical (extToLive x s) := by
  unfold extToLive
  split
  · exact setExtent_canonical h
  · exact h
  · exact h
  · exact h

theorem writeEntry_canonical {i e} (h : memoriesCanonical s) : memoriesCanonical (writeEntry i e s) :=
  h

theorem repairEntry_canonical {i} (h : memoriesCanonical s) : memoriesCanonical (repairEntry i s) :=
  countEvent_canonical h

theorem repairAll_canonical {is} (h : memoriesCanonical s) : memoriesCanonical (repairAll is s) :=
  foldl_canonical (fun _ _ h => ite_canonical h (repairEntry_canonical h)) h

theorem repairHits_canonical {p key mask} (h : memoriesCanonical s) : memoriesCanonical (repairHits p key mask s) :=
  repairAll_canonical h

theorem takeFree_canonical {n t} (e : takeFree n s = some t) (h : memoriesCanonical s) : memoriesCanonical t := by
  rw [(takeFree_some e).2]
  exact h

theorem takeNode_canonical {n t} (e : takeNode n s = some t) (h : memoriesCanonical s) : memoriesCanonical t := by
  rw [takeNode_frame e]
  exact h

theorem takePort_canonical {n t} (e : takePort n s = some t) (h : memoriesCanonical s) : memoriesCanonical t := by
  rw [takePort_frame e]
  exact h

theorem takeEach_canonical {l} (h : memoriesCanonical s) : memoriesCanonical (takeEach l s).2 := by
  rw [takeEach_frame]
  exact h

theorem payNode_canonical {key costs} (h : memoriesCanonical s) : memoriesCanonical (payNode key costs s).2 :=
  ite_snd_canonical (takeEach_canonical h) (takeEach_canonical h)

theorem nodeSwap_canonical {i seen words tiers countM1 tail t} (e : nodeSwap i seen words tiers countM1 tail s = .made t)
    (h : memoriesCanonical s) : memoriesCanonical t := by
  unfold nodeSwap at e
  dsimp only at e
  split at e
  · cases e
  · next found =>
    obtain ⟨_, _, hx⟩ := Option.bind_eq_some_iff.mp found
    obtain ⟨_, alloc, hx⟩ := Option.map_eq_some_iff.mp hx
    cases hx
    split at e
    · cases e
    · cases e
      exact extToGrace_canonical (writeEntry_canonical (setExtent_canonical
        (allocExtent_canonical alloc (repairAll_canonical h))))

theorem nodeCreate_canonical {p key words tiers countM1 tail t} (e : nodeCreate p key words tiers countM1 tail s = some t)
    (h : memoriesCanonical s) : memoriesCanonical t := by
  unfold nodeCreate at e
  split at e
  · next alloc =>
    cases e
    exact writeEntry_canonical (setExtent_canonical (allocExtent_canonical alloc h))
  · cases e

theorem slotAwaits_canonical {slot} (h : memoriesCanonical s) : memoriesCanonical (slotAwaits s slot) :=
  h

theorem setTailBit_canonical {i tail} (h : memoriesCanonical s) : memoriesCanonical (setTailBit i tail s) :=
  ite_canonical h (writeEntry_canonical h)

theorem placeTail_canonical {ctx layer group} (h : memoriesCanonical s) : memoriesCanonical (placeTail ctx layer group s) :=
  foldl_canonical (fun _ _ h => setTailBit_canonical h) (repairHits_canonical h)

theorem tryStateSwap_canonical {w t} (e : tryStateSwap w s = some t) (h : memoriesCanonical s) : memoriesCanonical t := by
  unfold tryStateSwap at e
  split at e
  · cases e
    exact h
  · dsimp only at e
    split at e
    · cases e
      exact h
    · split at e
      · cases e
      · next taken =>
        split at e
        · next swapped =>
          cases e
          exact placeTail_canonical (nodeSwap_canonical swapped (takeNode_canonical taken h))
        · cases e
        · cases e

theorem stateSwap_canonical {i changes} (h : memoriesCanonical s) : memoriesCanonical (stateSwap i changes s) := by
  unfold stateSwap
  extract_lets -underBinder
  split
  · exact h
  · extract_lets -underBinder
    split
    · exact h
    · split
      · next found =>
        exact tryStateSwap_canonical found h
      · exact h

theorem markPages_canonical {p state i} (h : memoriesCanonical s) : memoriesCanonical (markPages p state i s) :=
  ite_canonical h (stateSwap_canonical h)

theorem suspectSlots_canonical {slots} (h : memoriesCanonical s) : memoriesCanonical (suspectSlots slots s) :=
  ite_canonical h (foldl_canonical (fun _ _ h => ite_canonical (markPages_canonical h) h) h)

/-! ### Hold -/

theorem advanceCmd_canonical {f cls} (h : memoriesCanonical s) : memoriesCanonical (advanceCmd f cls s) := by
  unfold advanceCmd
  extract_lets -underBinder
  split
  · exact setQueue_canonical h
  · exact h

theorem finishCmd_canonical {f cls status reason value} (h : memoriesCanonical s) :
    memoriesCanonical (finishCmd f cls status reason value s) := by
  unfold finishCmd
  split
  · exact endCommand_canonical (advanceCmd_canonical h)
  · exact h

theorem settleGo_canonical {f cls n} (h : memoriesCanonical s) : memoriesCanonical (settleGo f cls n s) := by
  rw [settleGo_frame]
  exact h

theorem settle_canonical {f cls} (h : memoriesCanonical s) : memoriesCanonical (settle f cls s) :=
  settleGo_canonical h

theorem abortDelta_canonical (h : memoriesCanonical s) : memoriesCanonical (abortDelta s) :=
  countEvent_canonical h

theorem endRequest_canonical {status r} (h : memoriesCanonical s) : memoriesCanonical (endRequest status s r) := by
  unfold endRequest
  split
  · exact h
  · exact h
  · exact endUndispatched_canonical h
  · exact endUndispatched_canonical h
  · exact endDispatched_canonical h

theorem endMoveOut_canonical {m status} (h : memoriesCanonical s) : memoriesCanonical (endMoveOut m status s) :=
  settle_canonical (finishCmd_canonical h)

theorem endOp_canonical {o status} (h : memoriesCanonical s) : memoriesCanonical (endOp o status s) :=
  settle_canonical (finishCmd_canonical h)

theorem opsAdvance_canonical {hit f} (h : memoriesCanonical s) : memoriesCanonical (opsAdvance hit f s) := by
  unfold opsAdvance
  refine foldl_canonical (fun o s h => ?_) h
  dsimp only
  split
  · exact ite_canonical (endOp_canonical h) h
  · exact h

theorem tileProgress_canonical {key code} (h : memoriesCanonical s) : memoriesCanonical (tileProgress key code s) :=
  opsAdvance_canonical h

theorem pageProgress_canonical {n code} (h : memoriesCanonical s) : memoriesCanonical (pageProgress n code s) :=
  opsAdvance_canonical h

theorem postDrops_canonical (h : memoriesCanonical s) : memoriesCanonical (postDrops s) := by
  unfold postDrops
  refine foldl_canonical (fun _ _ h => ?_) ?_ <;> exact h

theorem fenceWork_canonical (h : memoriesCanonical s) : memoriesCanonical (fenceWork s) :=
  postDrops_canonical <| programs_canonical
    (foldl_canonical (fun _ _ h => slotAwaits_canonical h) <| foldl_canonical (fun _ _ h => endOp_canonical h) <|
      foldl_canonical (fun _ _ h => endMoveOut_canonical h) h)
    (by simp)

theorem holdEffects_canonical (h : memoriesCanonical s) : memoriesCanonical (holdEffects s) := by
  unfold holdEffects
  extract_lets -underBinder _ s₁ s₂
  have hs₂ : memoriesCanonical s₂ := by
    dsimp only [s₂]
    split
    · exact abortDelta_canonical h
    · exact abortDelta_canonical h
    · exact h
    · exact h
  exact fenceWork_canonical (foldl_canonical (fun _ _ h => endRequest_canonical h) hs₂)

theorem enterHold_canonical {cause} (h : memoriesCanonical s) : memoriesCanonical (enterHold cause s) :=
  ite_canonical h (holdEffects_canonical h)

theorem raise_canonical {code unit args} (h : memoriesCanonical s) : memoriesCanonical (raise code unit args s) := by
  unfold raise
  extract_lets -underBinder s₁
  have hs₁ : memoriesCanonical s₁ := raiseRecord_canonical h
  split
  · exact enterHold_canonical hs₁
  · exact hs₁

theorem strikeUe_canonical {addr tell} (htell : KeepsCanonical (tell)) (h : memoriesCanonical s) :
    memoriesCanonical (strikeUe addr tell s) :=
  ite_canonical (htell h) (ite_canonical (raise_canonical (htell h)) (htell h))

theorem wearUe_canonical {unit} (h : memoriesCanonical s) : memoriesCanonical (wearUe unit s) :=
  ite_canonical (countWear_canonical h) h

theorem countUe_canonical {addr code unit args} (h : memoriesCanonical s) :
    memoriesCanonical (countUe addr code unit args s) :=
  strikeUe_canonical (fun _ h => raise_canonical h) (wearUe_canonical h)

theorem noteUe_canonical {addr unit} (h : memoriesCanonical s) : memoriesCanonical (noteUe addr unit s) :=
  strikeUe_canonical (fun _ h => h) (wearUe_canonical h)

theorem strikeCtx_canonical {ctx ue} (h : memoriesCanonical s) : memoriesCanonical (strikeCtx ctx ue s) := by
  unfold strikeCtx
  split
  · exact countUe_canonical h
  · exact h

/-! ### Command -/

theorem endCmd_canonical {c status reason value} (h : memoriesCanonical s) :
    memoriesCanonical (endCmd c status reason value s) :=
  settle_canonical (finishCmd_canonical h)

theorem refuseCmd_canonical {c reason} (h : memoriesCanonical s) : memoriesCanonical (refuseCmd c reason s) :=
  endCmd_canonical h

theorem runFront_canonical {c fs barred reason ok} (hok : ∀ a, KeepsCanonical (ok a)) (h : memoriesCanonical s) :
    memoriesCanonical (runFront c fs barred reason ok s) := by
  unfold runFront
  split
  · exact refuseCmd_canonical h
  · exact refuseCmd_canonical h
  · exact endCmd_canonical h
  · exact hok _ h

theorem runCmd_canonical {f cls op fs barred reason ok} (hok : ∀ a, KeepsCanonical (ok a)) (h : memoriesCanonical s) :
    memoriesCanonical (runCmd f cls op fs barred reason ok s) := by
  unfold runCmd
  split
  · exact h
  · exact runFront_canonical (fun _ _ h => hok _ h) h

/-! ### Sched -/

theorem markApplied_canonical {isl idx} (h : memoriesCanonical s) : memoriesCanonical (markApplied isl idx s) :=
  h

theorem linkUsed_canonical {sts use} (h : memoriesCanonical s) : memoriesCanonical (linkUsed sts use s) :=
  h

/-! ### Gravers -/

theorem substEvent_canonical {r g v x} (h : memoriesCanonical s) : memoriesCanonical (substEvent r g v x s) :=
  logEvent_canonical (tally_canonical h)

theorem pageErrors_canonical {g b ue} (h : memoriesCanonical s) : memoriesCanonical (pageErrors g b ue s) :=
  suspectSlots_canonical (foldl_canonical (fun _ _ h => countUe_canonical h) h)

theorem sheetErrors_canonical {g words} (h : memoriesCanonical s) : memoriesCanonical (sheetErrors g words s) :=
  foldl_canonical (fun _ _ h => countUe_canonical (countWear_canonical (tally_canonical h))) h

theorem sheetCorrected_canonical {g n} (h : memoriesCanonical s) : memoriesCanonical (sheetCorrected g n s) :=
  foldl_canonical (fun _ _ h => countEvent_canonical h) (countWear_canonical h)

theorem endSweep_canonical {g b sheet} (h : memoriesCanonical s) : memoriesCanonical (endSweep g b sheet s) :=
  setGraver_canonical h

theorem execSweep1State_canonical {g ue} (h : memoriesCanonical s) : memoriesCanonical (execSweep1State g ue s) := by
  unfold execSweep1State
  split
  · exact ite_canonical h <|
      pageErrors_canonical <|
      foldl_canonical (fun _ _ h => substEvent_canonical h) <|
      ite_canonical (countEvent_canonical (endSweep_canonical h)) (endSweep_canonical h)
  · exact h

theorem execSweep2State_canonical {g corrected ueWords} (h : memoriesCanonical s) :
    memoriesCanonical (execSweep2State g corrected ueWords s) := by
  unfold execSweep2State
  split
  · exact sheetErrors_canonical (sheetCorrected_canonical (endSweep_canonical h))
  · exact h

theorem execSweep3State_canonical {g ue corrected ueWords} (h : memoriesCanonical s) :
    memoriesCanonical (execSweep3State g ue corrected ueWords s) := by
  unfold execSweep3State
  split
  · exact ite_canonical h <|
      pageErrors_canonical <|
      foldl_canonical (fun _ _ h => substEvent_canonical h) <|
      sheetErrors_canonical (sheetCorrected_canonical (endSweep_canonical h))
  · exact h

theorem markSlip_canonical {g} (h : memoriesCanonical s) : memoriesCanonical (markSlip g s) := by
  unfold markSlip
  extract_lets -underBinder
  split
  · exact ite_canonical (setReq_canonical h) h
  · exact h

theorem execBlockCloseState_canonical {g} (h : memoriesCanonical s) : memoriesCanonical (execBlockCloseState g s) := by
  unfold execBlockCloseState
  split
  · exact setGraver_canonical (markSlip_canonical h)
  · exact h

theorem execCancelAtSweepBoundaryState_canonical {g} (h : memoriesCanonical s) :
    memoriesCanonical (execCancelAtSweepBoundaryState g s) := by
  unfold execCancelAtSweepBoundaryState
  extract_lets -underBinder
  split
  · exact setGraver_canonical (markSlip_canonical h)
  · exact h

theorem execChainMergeState_canonical {st id corrected flitUe} (h : memoriesCanonical s) :
    memoriesCanonical (execChainMergeState st id corrected flitUe s) := by
  unfold execChainMergeState
  extract_lets -underBinder
  split
  · exact h
  · split
    · extract_lets -underBinder s₁ _ _ _ _ s₂
      have hs₁ : memoriesCanonical s₁ := foldl_canonical
          (fun _ _ h => countEvent_canonical (countWear_canonical h)) h
      have hs₂ : memoriesCanonical s₂ := foldl_canonical (fun _ _ h => countUe_canonical h) hs₁
      split
      · exact pruneAnswered_canonical hs₂
      · exact hs₂
    · exact pruneAnswered_canonical (countEvent_canonical h)

theorem execOverrunState_canonical {g} (h : memoriesCanonical s) : memoriesCanonical (execOverrunState g s) := by
  unfold execOverrunState
  extract_lets -underBinder
  split
  · exact ite_canonical h <|
      markSlip_canonical (setGraver_canonical (ite_canonical h (countEvent_canonical (countWear_canonical h))))
  · exact h

theorem execSheetPatrolState_canonical {g corrected ueWord} (h : memoriesCanonical s) :
    memoriesCanonical (execSheetPatrolState g corrected ueWord s) := by
  unfold execSheetPatrolState
  dsimp only
  split
  · exact sheetCorrected_canonical h
  · apply sheetErrors_canonical
    split
    · exact ite_canonical (sheetCorrected_canonical h) (setGraver_canonical (sheetCorrected_canonical h))
    · exact sheetCorrected_canonical h

theorem execBankReadyState_canonical {g} (h : memoriesCanonical s) : memoriesCanonical (execBankReadyState g s) :=
  setGraver_canonical h

theorem fenceGraver_canonical {g} (h : memoriesCanonical s) : memoriesCanonical (fenceGraver g s) :=
  suspectSlots_canonical (setGraver_canonical (tally_canonical h))

theorem closeBestEffort_canonical (h : memoriesCanonical s) : memoriesCanonical (closeBestEffort s) := by
  unfold closeBestEffort
  refine foldl_canonical (fun _ _ h => ?_) h
  split
  · exact ite_canonical (closeEntry_canonical h) h
  · exact h

theorem execGraverHangState_canonical {g} (h : memoriesCanonical s) : memoriesCanonical (execGraverHangState g s) :=
  ite_canonical (closeBestEffort_canonical (fenceGraver_canonical (raise_canonical (tally_canonical h)))) h

/-! ### Directory -/

theorem strikeEntry_canonical {i f} (h : memoriesCanonical s) : memoriesCanonical (strikeEntry i f s) :=
  ite_canonical h h

theorem applyFlips_canonical {u} (h : memoriesCanonical s) : memoriesCanonical (applyFlips u s) := by
  unfold applyFlips
  extract_lets -underBinder s₁ s₂
  have hs₁ : memoriesCanonical s₁ := foldl_canonical (fun _ _ h => strikeEntry_canonical h) h
  have hs₂ : memoriesCanonical s₂ := foldl_canonical (fun _ _ h => strikeEntry_canonical h) hs₁
  exact foldl_canonical (fun _ _ h => strikeEntry_canonical h) hs₂

theorem entryLost_canonical {i} (h : memoriesCanonical s) : memoriesCanonical (entryLost i s) :=
  countUe_canonical (tally_canonical (writeEntry_canonical h))

theorem checkedSearch_canonical {p key mask from_ ue} (h : memoriesCanonical s) :
    memoriesCanonical (checkedSearch p key mask from_ ue s).2 :=
  repairHits_canonical (foldl_canonical (fun _ _ h => entryLost_canonical h) h)

theorem patrolEntry_canonical {ue i} (h : memoriesCanonical s) : memoriesCanonical (patrolEntry ue s i) :=
  ite_canonical (entryLost_canonical h) (repairAll_canonical h)

theorem execDirectoryPatrolState_canonical {u} (h : memoriesCanonical s) :
    memoriesCanonical (execDirectoryPatrolState u s) :=
  foldl_canonical (fun _ _ h => patrolEntry_canonical h) (applyFlips_canonical h)

theorem releaseLost_canonical {e} (h : memoriesCanonical s) : memoriesCanonical (releaseLost e s) := by
  unfold releaseLost
  split
  · exact extToGrace_canonical h
  · exact h

theorem trimTlpn_canonical {t} (h : memoriesCanonical s) : memoriesCanonical (trimTlpn s t) :=
  unplace_canonical h

theorem freeExtent_canonical {x} (h : memoriesCanonical s) : memoriesCanonical (freeExtent x s) :=
  foldl_canonical (fun _ _ h => trimTlpn_canonical h) <|
    foldl_canonical (fun _ _ h => slotAwaits_canonical h) (setExtent_canonical h)

theorem execExtentGraceEndState_canonical {x} (h : memoriesCanonical s) :
    memoriesCanonical (execExtentGraceEndState x s) := by
  unfold execExtentGraceEndState
  split
  · exact ite_canonical (freeExtent_canonical h) h
  · exact h
  · exact h
  · exact h

theorem retrySwap_canonical {w} (h : memoriesCanonical s) : memoriesCanonical (retrySwap s w) := by
  unfold retrySwap
  split
  · next found =>
    exact tryStateSwap_canonical found h
  · exact h

theorem execStateOnlySwapRetryState_canonical (h : memoriesCanonical s) :
    memoriesCanonical (execStateOnlySwapRetryState s) :=
  foldl_canonical (fun _ _ h => retrySwap_canonical h) h

theorem execTailClearOnCloseState_canonical {ctx} (h : memoriesCanonical s) :
    memoriesCanonical (execTailClearOnCloseState ctx s) := by
  unfold execTailClearOnCloseState
  split
  · next found =>
    extract_lets -underBinder _ s₁ _ s₂
    have hs₁ : memoriesCanonical s₁ := repairAll_canonical (takeNode_canonical found h)
    have hs₂ : memoriesCanonical s₂ := foldl_canonical (fun _ _ h => writeEntry_canonical h) hs₁
    exact hs₂
  · exact h

theorem execDirectoryLeaseExpiryState_canonical {i} (h : memoriesCanonical s) :
    memoriesCanonical (execDirectoryLeaseExpiryState i s) :=
  ite_canonical (logEvent_canonical (writeEntry_canonical h)) h

theorem setPort_canonical {p v} (h : memoriesCanonical s) : memoriesCanonical (setPort p v s) :=
  h

theorem portTurn_canonical {p op cost r} (e : portTurn p op cost s = some r) (h : memoriesCanonical s) :
    memoriesCanonical r.2 := by
  unfold portTurn at e
  extract_lets next at e
  split at e
  · split at e
    · obtain ⟨_, taken, rfl⟩ := Option.map_eq_some_iff.mp e
      exact frame_canonical (takePort_canonical taken h) rfl rfl
    · cases e
  · cases e

theorem portDone_canonical {p f} (h : memoriesCanonical s) : memoriesCanonical (portDone p f s) :=
  setPort_canonical h

theorem portResult_canonical {p reasons ok} (hok : KeepsCanonical (ok)) (h : memoriesCanonical s) :
    memoriesCanonical (portResult p reasons ok s) := by
  unfold portResult
  split
  · exact setPort_canonical h
  · exact hok h

theorem execSearchState_canonical {p} (h : memoriesCanonical s) : memoriesCanonical (execSearchState p s) := by
  unfold execSearchState
  split
  · exact h
  · next found =>
    refine portResult_canonical (fun _ h => ?_) (portTurn_canonical found h)
    extract_lets -underBinder h₁
    have hh₁ : memoriesCanonical h₁.2 := checkedSearch_canonical h
    split <;> exact portDone_canonical hh₁

theorem execCountState_canonical {p} (h : memoriesCanonical s) : memoriesCanonical (execCountState p s) := by
  unfold execCountState
  split
  · exact h
  · next found =>
    exact portResult_canonical (fun _ h => portDone_canonical (repairHits_canonical h)) (portTurn_canonical found h)

theorem execReadState_canonical {p} (h : memoriesCanonical s) : memoriesCanonical (execReadState p s) := by
  unfold execReadState
  split
  · exact h
  · next found =>
    exact portResult_canonical (fun _ h => portDone_canonical (repairAll_canonical h)) (portTurn_canonical found h)

theorem execInvalidateState_canonical {p} (h : memoriesCanonical s) : memoriesCanonical (execInvalidateState p s) := by
  unfold execInvalidateState
  split
  · exact h
  · next found =>
    extract_lets -underBinder
    exact portResult_canonical
        (fun _ h => portDone_canonical (extToGrace_canonical (writeEntry_canonical (repairAll_canonical h))))
        (portTurn_canonical found h)

theorem execWriteState_canonical {p} (h : memoriesCanonical s) : memoriesCanonical (execWriteState p s) := by
  unfold execWriteState
  split
  · exact h
  · next found =>
    exact portResult_canonical (fun _ h => portDone_canonical (writeEntry_canonical (repairAll_canonical h))) <|
      portTurn_canonical found h

theorem execValidateState_canonical {p} (h : memoriesCanonical s) : memoriesCanonical (execValidateState p s) := by
  unfold execValidateState
  split
  · exact h
  · next found =>
    extract_lets -underBinder
    exact portResult_canonical
        (fun _ h =>
            portDone_canonical <|
            releaseLost_canonical <|
            extToLive_canonical (writeEntry_canonical (repairHits_canonical (repairAll_canonical h))))
        (portTurn_canonical found h)

theorem execSwapState_canonical {p} (h : memoriesCanonical s) : memoriesCanonical (execSwapState p s) := by
  unfold execSwapState
  split
  · exact h
  · next found =>
    extract_lets -underBinder
    exact portResult_canonical
        (fun _ h =>
            portDone_canonical <|
            extToGrace_canonical (extToLive_canonical (writeEntry_canonical (repairAll_canonical h))))
        (portTurn_canonical found h)

theorem execReleaseState_canonical {p} (h : memoriesCanonical s) : memoriesCanonical (execReleaseState p s) := by
  unfold execReleaseState
  split
  · exact h
  · next found =>
    extract_lets -underBinder
    exact portResult_canonical
        (fun _ h => portDone_canonical (releaseLost_canonical (writeEntry_canonical (repairAll_canonical h))))
        (portTurn_canonical found h)

theorem bulkInvalidate_canonical {p key mask} (h : memoriesCanonical s) :
    memoriesCanonical (bulkInvalidate p key mask s).2 :=
  foldl_canonical (fun _ _ h => extToGrace_canonical (writeEntry_canonical h)) (repairHits_canonical h)

theorem execBulkInvalidateState_canonical {p} (h : memoriesCanonical s) :
    memoriesCanonical (execBulkInvalidateState p s) := by
  unfold execBulkInvalidateState
  split
  · exact h
  · next found =>
    exact portResult_canonical (fun _ h => portDone_canonical (bulkInvalidate_canonical h)) <|
      portTurn_canonical found h

/-! ### Rows -/

theorem takeSlot_canonical {p stack r} (e : takeSlot p stack s = some r) (h : memoriesCanonical s) : memoriesCanonical r.2 := by
  unfold takeSlot at e
  dsimp only at e
  split at e
  · cases e
  · cases e
    exact frame_canonical (pick_canonical h) rfl rfl

theorem setRunPages_canonical {ctx layer group run words tiers t} (e : setRunPages ctx layer group run words tiers s = some t)
    (h : memoriesCanonical s) : memoriesCanonical t := by
  unfold setRunPages at e
  dsimp only at e
  split at e
  · split at e
    · next swapped =>
      cases e
      exact nodeSwap_canonical swapped (repairHits_canonical h)
    · cases e
    · cases e
  · exact nodeCreate_canonical e (repairHits_canonical h)

theorem takeSlots_canonical {p ctx layer group pages r} (e : takeSlots p ctx layer group pages s = some r)
    (h : memoriesCanonical s) : memoriesCanonical r.2 := by
  induction pages generalizing s r with
  | nil =>
    cases e
    exact h
  | cons page t ih =>
    unfold takeSlots at e
    split at e
    · cases e
    · split at e
      · cases e
      · next taken =>
        obtain ⟨rest, others, rfl⟩ := Option.map_eq_some_iff.mp e
        exact ih (r := rest) others (takeSlot_canonical taken h)

theorem installPages_canonical {ctx layer group pages t} (e : installPages ctx layer group pages s = some t)
    (h : memoriesCanonical s) : memoriesCanonical t :=
  foldlBind_canonical (fun _ _ _ e h => setRunPages_canonical e h) e fun _ hs => Option.some.inj hs ▸ h

theorem setDirty_canonical {ctx layer group page} (h : memoriesCanonical s) :
    memoriesCanonical (setDirty ctx layer group page s) := by
  unfold setDirty
  split
  · exact h
  · have touched := replacePrograms_canonical (p := fun p => p.page == ⟨ctx, layer, group, page⟩)
      (f := fun p => { p with touched := true }) h (fun _ => rfl)
    exact ite_canonical (setExtent_canonical touched) touched

theorem writeWhen_canonical {bestEffort ctx layer group pages fresh place}
    (hplace : ∀ s t, place s = .ok t → memoriesCanonical s → memoriesCanonical t) (h : memoriesCanonical s) :
    writeEndCanonical (writeWhen bestEffort ctx layer group pages fresh place s) := by
  unfold writeWhen
  dsimp only
  split
  · trivial
  · split
    · exact h
    · split
      · next paid => exact snd_canonical paid (payNode_canonical h)
      · next paid =>
        split
        · trivial
        · next placed => exact linkUsed_canonical (hplace _ _ placed (snd_canonical paid (payNode_canonical h)))

theorem storeRow_wf {g p r rec m} (hm : Memory.wf m = true) : Memory.wf (storeRow g p r rec m) = true :=
  foldl_wf (fun _ _ hm => wf_memWrite (wf_memWrite (wf_memWrite (wf_memWrite hm _ _) _ _) _ _) _ _) hm

theorem placeRows_canonical {w t} (e : placeRows w s = .ok t) (h : memoriesCanonical s) : memoriesCanonical t := by
  unfold placeRows at e
  dsimp only at e
  split at e
  · cases e
  · split at e
    · cases e
    · next taken =>
      split at e
      · cases e
      · next installed =>
        cases e
        have dirty := foldl_canonical (f := fun s p => setDirty w.ctx w.layer w.group p s) (l := touchedPages w.t0 w.recs.length)
          (fun _ _ h => setDirty_canonical h) (installPages_canonical installed (takeSlots_canonical taken h))
        refine placeTail_canonical (stk_canonical dirty (foldl_wf (fun _ _ hm => ?_) (stk_wf dirty)))
        split
        · exact storeRow_wf hm
        · exact hm

theorem storeRows_canonical {bestEffort w} (h : memoriesCanonical s) : writeEndCanonical (storeRows bestEffort w s) :=
  writeWhen_canonical (fun _ _ e h => placeRows_canonical e h) h

theorem refusedWrite_canonical {create} (h : memoriesCanonical s) : memoriesCanonical (refusedWrite create s) :=
  ite_canonical (countEvent_canonical h) h

theorem takeWrite_canonical {m} (h : memoriesCanonical s) : memoriesCanonical (takeWrite m s) := by
  unfold takeWrite
  dsimp only
  split <;> exact returnCredit_canonical (inboxTake_canonical h)

/-! ### Attention -/

theorem takeIn_canonical {r} (h : memoriesCanonical s) : memoriesCanonical (takeIn r s) :=
  h

theorem execAttnState_canonical {c} (h : memoriesCanonical s) : memoriesCanonical (execAttnState c s) := by
  unfold execAttnState
  split
  · exact h
  · extract_lets -underBinder s₁ s₂
    have hs₁ : memoriesCanonical s₁ := inboxTake_canonical h
    have hs₂ : memoriesCanonical s₂ := countEvent_canonical (returnCredit_canonical hs₁)
    split
    · exact ite_canonical hs₂ (returnToken_canonical hs₂)
    · split
      · exact takeIn_canonical hs₁
      · exact ite_canonical (takeIn_canonical (setReq_canonical hs₁)) (takeIn_canonical hs₁)

theorem checkReq_canonical {r} (h : memoriesCanonical s) : memoriesCanonical (checkReq r s) := by
  unfold checkReq
  extract_lets -underBinder s₁ s₂ s₃ _ s₄ _ s₅
  have hs₁ : memoriesCanonical s₁ := ite_canonical (countEvent_canonical h) h
  have hs₂ : memoriesCanonical s₂ := ite_canonical (countEvent_canonical hs₁) hs₁
  have hs₃ : memoriesCanonical s₃ := by
    dsimp only [s₃]
    split
    · exact returnCredit_canonical hs₂
    · exact hs₂
  have hs₄ : memoriesCanonical s₄ := setReq_canonical hs₃
  have hs₅ : memoriesCanonical s₅ := ite_canonical hs₄ hs₄
  exact ite_canonical (refuseReq_canonical hs₃) hs₅

theorem execAttnCheckStrokeState_canonical {id ue} (h : memoriesCanonical s) :
    memoriesCanonical (execAttnCheckStrokeState id ue s) := by
  unfold execAttnCheckStrokeState
  split
  · extract_lets -underBinder struck
    have hstruck : memoriesCanonical struck := strikeCtx_canonical h
    exact ite_canonical h <|
      ite_canonical (setReq_canonical h) <|
      ite_canonical (ite_canonical (checkReq_canonical hstruck) h) (ite_canonical (checkReq_canonical hstruck) h)
  · exact h

theorem placeChild_canonical {t x a} (h : memoriesCanonical x.2) : memoriesCanonical (placeChild t x a).2 := by
  unfold placeChild
  split
  · exact countEvent_canonical h
  · exact ite_snd_canonical (countEvent_canonical h) h

theorem openEntry_canonical {r} (h : memoriesCanonical s) : memoriesCanonical (openEntry r s) := by
  unfold openEntry
  extract_lets -underBinder _ _ s₁
  split
  · exact foldl_snd_canonical (fun _ _ h => placeChild_canonical h) h
  · exact h

theorem admitReq_canonical {r} (h : memoriesCanonical s) : memoriesCanonical (admitReq r s) :=
  ite_canonical (refuseReq_canonical h) <|
    ite_canonical (openEntry_canonical (setReq_canonical h)) (openEntry_canonical (setReq_canonical h))

theorem execAdmissionStrokeState_canonical {id ue} (h : memoriesCanonical s) :
    memoriesCanonical (execAdmissionStrokeState id ue s) := by
  unfold execAdmissionStrokeState
  split
  · exact ite_canonical (admitReq_canonical (strikeCtx_canonical h)) h
  · exact h

theorem lookupCycle_canonical {r t} (e : lookupCycle r s = some t) (h : memoriesCanonical s) : memoriesCanonical t := by
  unfold lookupCycle at e
  split at e
  · split at e
    · cases e
      exact h
    · cases e
  · exact takeFree_canonical e h

theorem execAdmissionLookupState_canonical {id u} (h : memoriesCanonical s) :
    memoriesCanonical (execAdmissionLookupState id u s) := by
  unfold execAdmissionLookupState
  split
  · exact h
  · split
    · next cycle =>
      extract_lets -underBinder _ found s₁ s₂ _ s₃
      have hs₁ : memoriesCanonical s₁ := checkedSearch_canonical (applyFlips_canonical (lookupCycle_canonical cycle h))
      have hs₂ : memoriesCanonical s₂ := by
        dsimp only [s₂]
        split
        · exact frame_canonical hs₁ rfl rfl
        · exact hs₁
      have hs₃ : memoriesCanonical s₃ := setReq_canonical hs₂
      exact tel_canonical hs₃
    · exact h

theorem deliver_canonical {r us} (h : memoriesCanonical s) : memoriesCanonical (deliver r us s) := by
  unfold deliver
  extract_lets -underBinder _ _ _ _ _ s₁ s₂ _ s₃
  have hs₁ : memoriesCanonical s₁ := foldl_canonical (fun _ _ h => countEvent_canonical h) h
  have hs₂ : memoriesCanonical s₂ := foldl_canonical (fun _ _ h => ite_canonical h (setGraver_canonical h)) hs₁
  have hs₃ : memoriesCanonical s₃ := setReq_canonical hs₂
  split
  · exact setEntry_canonical hs₃
  · exact hs₃

theorem extentErrors_canonical {r ue} (h : memoriesCanonical s) : memoriesCanonical (extentErrors r ue s) :=
  foldl_canonical (fun _ _ h => countUe_canonical h) h

theorem execWorkDispatchState_canonical {id ue} (h : memoriesCanonical s) :
    memoriesCanonical (execWorkDispatchState id ue s) := by
  unfold execWorkDispatchState
  split
  · exact h
  · split
    · exact h
    · split
      · exact ite_canonical h (deliver_canonical (extentErrors_canonical h))
      · exact h

theorem startBestEffort_canonical {id g} (h : memoriesCanonical s) : memoriesCanonical (startBestEffort id s g) :=
  setGraver_canonical h

theorem submitAttn_canonical {c} (h : memoriesCanonical s) : memoriesCanonical (submitAttn c s) :=
  settle_canonical (advanceCmd_canonical (takeIn_canonical h))

theorem execHostAttnState_canonical {f} (h : memoriesCanonical s) : memoriesCanonical (execHostAttnState f s) :=
  runCmd_canonical (fun _ _ h => ite_canonical (submitAttn_canonical h) h) h

theorem execAttnTokenTakenState_canonical {f} (h : memoriesCanonical s) :
    memoriesCanonical (execAttnTokenTakenState f s) := by
  unfold execAttnTokenTakenState
  split
  · exact ite_canonical (submitAttn_canonical h) h
  · exact h

theorem cancelReq_canonical {r} (h : memoriesCanonical s) : memoriesCanonical (cancelReq s r) := by
  unfold cancelReq
  extract_lets -underBinder s₁
  have hs₁ : memoriesCanonical s₁ := countEvent_canonical h
  split
  · exact hs₁
  · exact hs₁
  · exact endUndispatched_canonical hs₁
  · exact endUndispatched_canonical hs₁
  · exact hs₁

theorem checkBefore_canonical {tenant tag} (h : memoriesCanonical s) : memoriesCanonical (checkBefore tenant tag s) :=
  foldl_canonical (fun _ _ h => execAttnCheckStrokeState_canonical h) h

theorem cancelTag_canonical {tenant tag} (h : memoriesCanonical s) : memoriesCanonical (cancelTag tenant tag s).2 := by
  unfold cancelTag
  extract_lets -underBinder s₁
  have hs₁ : memoriesCanonical s₁ := checkBefore_canonical h
  exact ite_snd_canonical (countEvent_canonical hs₁) (foldl_canonical (fun _ _ h => cancelReq_canonical h) hs₁)

theorem execCancelState_canonical {c} (h : memoriesCanonical s) : memoriesCanonical (execCancelState c s) := by
  unfold execCancelState
  split
  · exact h
  · exact ite_canonical h <|
      ite_canonical (countEvent_canonical (returnCredit_canonical (inboxTake_canonical h))) <|
      cancelTag_canonical (returnCredit_canonical (inboxTake_canonical h))

theorem execHostCancelState_canonical {f} (h : memoriesCanonical s) : memoriesCanonical (execHostCancelState f s) :=
  runCmd_canonical (fun _ _ h => endCmd_canonical (cancelTag_canonical h)) h

theorem setLen_canonical {ctx newL} (h : memoriesCanonical s) : memoriesCanonical (setLen ctx newL s) :=
  h

theorem applyWrite_canonical {bestEffort part tenant hdr commit b} (h : memoriesCanonical s) :
    memoriesCanonical (applyWrite bestEffort part tenant hdr commit b s).2 := by
  unfold applyWrite
  dsimp only
  split
  · exact h
  · split
    · have stored := storeRows_canonical (bestEffort := bestEffort)
        (w := ⟨hdr.ctx, hdr.layer, hdr.group, hdr.t0, tokenRecs (ctxGeo hdr.ctx s) hdr.nrows b⟩) h
      split
      · next e =>
        rw [e] at stored
        exact ite_canonical (setLen_canonical stored) stored
      · exact refusedWrite_canonical h
      · next e =>
        rw [e] at stored
        exact stored
    · exact ite_canonical (setLen_canonical h) h

theorem admitWrite_canonical {commit m ue} (h : memoriesCanonical s) : memoriesCanonical (admitWrite commit m ue s) := by
  unfold admitWrite
  extract_lets -underBinder hdr s₁
  have applied := applyWrite_canonical (bestEffort := writeTurn m s₁ == .bestEffort) (part := (connRec m.conn s₁).part)
    (tenant := (connRec m.conn s₁).tenant) (hdr := hdr) (commit := commit) (b := m.body)
    (strikeCtx_canonical (ctx := hdr.ctx) (ue := ue) h)
  split
  · next e => exact snd_canonical e applied
  · next t e =>
    have taken := takeWrite_canonical (m := m) (snd_canonical e applied)
    extract_lets -underBinder _ t₁ t₂
    have ht₁ : memoriesCanonical t₁ := ite_canonical (countEvent_canonical taken) taken
    have ht₂ : memoriesCanonical t₂ := ite_canonical ht₁ (countEvent_canonical ht₁)
    exact sendCompletion_canonical ht₂

theorem execAppendState_canonical {c ue} (h : memoriesCanonical s) : memoriesCanonical (execAppendState c ue s) := by
  unfold execAppendState
  split
  · exact admitWrite_canonical h
  · exact h

theorem execCommitState_canonical {c ue} (h : memoriesCanonical s) : memoriesCanonical (execCommitState c ue s) := by
  unfold execCommitState
  split
  · exact admitWrite_canonical h
  · exact h

/-! ### Collator -/

theorem residueFails_canonical {r} (h : memoriesCanonical s) : memoriesCanonical (residueFails r s) := by
  unfold residueFails
  extract_lets -underBinder _ _ s₁ _ s₂
  have hs₁ : memoriesCanonical s₁ := handOver_canonical h
  have hs₂ : memoriesCanonical s₂ := raise_canonical (tally_canonical hs₁)
  exact ite_canonical (enterHold_canonical (tally_canonical hs₂)) hs₂

theorem execCollatorMergeState_canonical {id residueFault ueRows} (h : memoriesCanonical s) :
    memoriesCanonical (execCollatorMergeState id residueFault ueRows s) := by
  unfold execCollatorMergeState
  split
  · split
    · exact h
    · exact ite_canonical (residueFails_canonical h) <|
        ite_canonical (foldl_canonical (fun _ _ h => countUe_canonical h) h) <|
        ite_canonical
          (closeEntry_canonical <|
            setEntry_canonical (joinArrival_canonical (foldl_canonical (fun _ _ h => countUe_canonical h) h)))
          (setEntry_canonical (joinArrival_canonical (foldl_canonical (fun _ _ h => countUe_canonical h) h)))
  · exact h

theorem execChildImprState_canonical {c} (h : memoriesCanonical s) : memoriesCanonical (execChildImprState c s) := by
  unfold execChildImprState
  split
  · exact h
  · extract_lets -underBinder s₁ _ _ _ orphan repeated
    have hs₁ : memoriesCanonical s₁ := returnCredit_canonical (inboxTake_canonical h)
    have horphan : memoriesCanonical orphan := countEvent_canonical hs₁
    have hrepeated : memoriesCanonical repeated := countEvent_canonical hs₁
    split
    · split
      · exact horphan
      · exact ite_canonical hrepeated (setEntry_canonical hs₁)
    · exact ite_canonical horphan (ite_canonical hrepeated (setEntry_canonical hs₁))
    · exact ite_canonical horphan hs₁

theorem execOrphanState_canonical {tenant tag} (h : memoriesCanonical s) :
    memoriesCanonical (execOrphanState tenant tag s) :=
  ite_canonical (countEvent_canonical h) h

theorem closeStroke_canonical {r e} (h : memoriesCanonical s) : memoriesCanonical (closeStroke r e s) :=
  ite_canonical (setEntry_canonical (cutLocal_canonical (joinAll_canonical h))) (closeNow_canonical h)

theorem execCloseLineState_canonical {isl idx} (h : memoriesCanonical s) :
    memoriesCanonical (execCloseLineState isl idx s) := by
  unfold execCloseLineState
  split
  · exact h
  · extract_lets -underBinder s₁
    have hs₁ : memoriesCanonical s₁ := markApplied_canonical h
    refine foldl_canonical (fun _ _ h => ?_) hs₁
    split
    · exact h
    · exact h
    · exact endUndispatched_canonical h
    · exact endUndispatched_canonical h
    · split
      · exact h
      · exact ite_canonical (setEntry_canonical h) (closeStroke_canonical h)

theorem execCollatorEntryCloseState_canonical {tenant tag} (h : memoriesCanonical s) :
    memoriesCanonical (execCollatorEntryCloseState tenant tag s) := by
  unfold execCollatorEntryCloseState
  split
  · exact h
  · split
    · exact h
    · extract_lets -underBinder
      split
      · exact ite_canonical (closeNow_canonical h) h
      · exact ite_canonical (closeStroke_canonical h) h
      · exact h

/-! ### Lines -/

theorem dropPages_canonical {bad status r g} (h : memoriesCanonical s) : memoriesCanonical (dropPages bad status r g s) := by
  unfold dropPages
  dsimp only
  split
  · exact h
  · split
    · apply setEntry_canonical
      split
      · exact setReq_canonical (setGraver_canonical h)
      · exact setGraver_canonical h
    · split
      · exact setReq_canonical (setGraver_canonical h)
      · exact setGraver_canonical h

theorem dropLate_canonical {r g} (h : memoriesCanonical s) : memoriesCanonical (dropLate r g s) :=
  foldl_canonical (fun _ _ h => countEvent_canonical h) (dropPages_canonical h)

theorem openWindow_canonical {id l g} (h : memoriesCanonical s) : memoriesCanonical (openWindow id l s g) :=
  ite_canonical h (ite_canonical (setGraver_canonical h) (setGraver_canonical h))

theorem execWindowLineState_canonical {isl idx} (h : memoriesCanonical s) :
    memoriesCanonical (execWindowLineState isl idx s) := by
  unfold execWindowLineState
  split
  · exact h
  · extract_lets -underBinder s₁
    have hs₁ : memoriesCanonical s₁ := markApplied_canonical h
    split
    · exact hs₁
    · exact foldl_canonical (fun _ _ h => openWindow_canonical h) <|
        foldl_canonical (fun _ _ h => dropLate_canonical h) hs₁

theorem execBanksLineState_canonical {isl idx} (h : memoriesCanonical s) :
    memoriesCanonical (execBanksLineState isl idx s) := by
  unfold execBanksLineState
  split
  · exact h
  · exact foldl_canonical (fun _ _ h => ite_canonical h (setGraver_canonical h)) (markApplied_canonical h)

theorem setHeat_canonical {st v} (h : memoriesCanonical s) : memoriesCanonical (setHeat st v s) :=
  h

theorem enterBand_canonical {st b} (h : memoriesCanonical s) : memoriesCanonical (enterBand st b s) := by
  unfold enterBand
  extract_lets -underBinder _ s₁
  have hs₁ : memoriesCanonical s₁ := setHeat_canonical h
  split
  · exact hs₁
  · exact countEvent_canonical hs₁
  · exact countEvent_canonical hs₁
  · exact raise_canonical hs₁
  · exact raise_canonical hs₁

theorem repairPlate_canonical {st w} (h : memoriesCanonical s) : memoriesCanonical (repairPlate st s w) := by
  have noted := noteUe_canonical (addr := uePlate st w) (unit := unitStack st) h
  exact stk_canonical noted (wf_memWrite (stk_wf noted) _ _)

theorem refreshStroke_canonical {st finds} (h : memoriesCanonical s) : memoriesCanonical (refreshStroke st finds s) := by
  unfold refreshStroke
  extract_lets -underBinder _ _ _ s₁ s₂
  have hs₂ : memoriesCanonical s₂ := foldl_canonical (fun _ _ h => countUe_canonical h) h
  exact ite_canonical hs₂ (foldl_canonical (fun _ _ h => repairPlate_canonical h) hs₂)

theorem plannedRefresh_canonical {st finds} (h : memoriesCanonical s) : memoriesCanonical (plannedRefresh st finds s) := by
  unfold plannedRefresh
  extract_lets -underBinder _ s₁ _ s₂
  have hs₁ : memoriesCanonical s₁ := by
    dsimp only [s₁]
    split
    · exact ite_canonical (enterBand_canonical h) h
    · exact h
  have hs₂ : memoriesCanonical s₂ := ite_canonical hs₁ hs₁
  exact refreshStroke_canonical hs₂

theorem execRefreshLineState_canonical {isl idx finds} (h : memoriesCanonical s) :
    memoriesCanonical (execRefreshLineState isl idx finds s) := by
  unfold execRefreshLineState
  split
  · exact ite_canonical (plannedRefresh_canonical (markApplied_canonical h)) h
  · split
    · split
      · exact plannedRefresh_canonical (markApplied_canonical h)
      · exact h
    · split
      · exact plannedRefresh_canonical (markApplied_canonical h)
      · exact h

theorem departOnce_canonical {isl unit} (h : memoriesCanonical s) : memoriesCanonical (departOnce isl unit s) :=
  ite_canonical h (countEvent_canonical h)

theorem execExtraRefreshState_canonical {st} (h : memoriesCanonical s) :
    memoriesCanonical (execExtraRefreshState st s) := by
  unfold execExtraRefreshState
  exact ite_canonical
      (ite_canonical
          (departOnce_canonical <|
            ite_canonical (departOnce_canonical (refreshStroke_canonical (markApplied_canonical h))) <|
            refreshStroke_canonical (markApplied_canonical h))
          (ite_canonical (departOnce_canonical (refreshStroke_canonical (markApplied_canonical h))) <|
            refreshStroke_canonical (markApplied_canonical h)))
      h

theorem retrainChannel_canonical {st} (h : memoriesCanonical s) : memoriesCanonical (retrainChannel st s) :=
  h

theorem execRetrainLineState_canonical {isl idx} (h : memoriesCanonical s) :
    memoriesCanonical (execRetrainLineState isl idx s) := by
  unfold execRetrainLineState
  split
  · exact retrainChannel_canonical (markApplied_canonical h)
  · exact h

theorem execDircycLineState_canonical {isl idx} (h : memoriesCanonical s) :
    memoriesCanonical (execDircycLineState isl idx s) := by
  unfold execDircycLineState
  split
  · extract_lets -underBinder _ s₁
    have hs₁ : memoriesCanonical s₁ := markApplied_canonical h
    split <;> exact hs₁
  · exact h

theorem issueStaging_canonical {st} (h : memoriesCanonical s) : memoriesCanonical (issueStaging st s) :=
  h

theorem execLinkLineState_canonical {isl idx} (h : memoriesCanonical s) :
    memoriesCanonical (execLinkLineState isl idx s) := by
  unfold execLinkLineState
  split
  · exact ite_canonical (issueStaging_canonical h) h
  · exact h

theorem execMaintLineState_canonical {isl idx eraseFails programFails} (h : memoriesCanonical s) :
    memoriesCanonical (execMaintLineState isl idx eraseFails programFails s) := by
  unfold execMaintLineState
  split
  · extract_lets -underBinder s₁
    have hs₁ : memoriesCanonical s₁ := markApplied_canonical h
    split
    · exact retrainChannel_canonical hs₁
    · exact tierMaintenance_canonical hs₁
    · exact hs₁
  · exact h

theorem telCopy_canonical (h : memoriesCanonical s) : memoriesCanonical (telCopy s) :=
  h

theorem execSampleLineState_canonical {isl idx} (h : memoriesCanonical s) :
    memoriesCanonical (execSampleLineState isl idx s) := by
  unfold execSampleLineState
  split
  · exact telCopy_canonical (markApplied_canonical h)
  · exact h

/-! ### Tier -/

theorem tierAlloc_canonical {p r} (e : tierAlloc p s = some r) (h : memoriesCanonical s) : memoriesCanonical r.2 := by
  unfold tierAlloc at e
  dsimp only at e
  split at e
  · cases e
  · split at e
    · cases e
      exact pick_canonical h
    · cases e

theorem writeTier_canonical {rewrite p n sl t} (hsl : imageCanonical sl) (e : writeTier rewrite p n sl s = some t)
    (h : memoriesCanonical s) : memoriesCanonical t := by
  obtain ⟨_, placed, rfl⟩ := Option.map_eq_some_iff.mp e
  have kept := placeTlpn_canonical placed h
  exact tier_canonical kept (wf_memPlace (tier_wf kept) hsl.1 _ _ hsl.2)

theorem trimRange_canonical {first n} (h : memoriesCanonical s) : memoriesCanonical (trimRange first n s) :=
  unplace_canonical h

theorem noteHomeRead_canonical {word tier} (h : memoriesCanonical s) : memoriesCanonical (noteHomeRead word tier s) :=
  ite_canonical (noteRead_canonical h) h

theorem homeSlice_image {word tier} (h : memoriesCanonical s) : imageCanonical (homeSlice word tier s) := by
  unfold homeSlice
  split
  · exact ⟨wf_memSlice (tier_wf h) _ _, memSlice_bounds _ _ _⟩
  · exact ⟨wf_readPage (stk_wf h) _, readPage_bounds _ _⟩

theorem startProgram_canonical {n p spill fn t} (e : startProgram n p spill fn s = some t) (h : memoriesCanonical s) :
    memoriesCanonical t := by
  unfold startProgram at e
  dsimp only at e
  split at e
  · cases e
  · obtain ⟨x, got, rfl⟩ := Option.map_eq_some_iff.mp e
    have kept : memoriesCanonical x.2 := by
      split at got
      · split at got
        · cases got
          exact h
        · cases got
      · exact tierAlloc_canonical got h
    refine programs_canonical kept fun pr hpr => ?_
    rcases List.mem_append.mp hpr with old | new
    · exact program_image kept old
    · rw [List.mem_singleton.mp new]
      exact homeSlice_image h

theorem stallTier_canonical {op cause} (h : memoriesCanonical s) : memoriesCanonical (stallTier op cause s) :=
  ite_canonical h (raise_canonical (tally_canonical h))

theorem endStall_canonical (h : memoriesCanonical s) : memoriesCanonical (endStall s) :=
  h

theorem length_dense (m : Mem) (i n : Nat) : (dense m i n).length = n := by
  induction n generalizing m i with
  | zero => cases m <;> rfl
  | succ n ih =>
    cases m with
    | nil => exact congrArg (· + 1) (ih [] (i + 1))
    | cons y t =>
      unfold dense
      split <;> exact congrArg (· + 1) (ih _ (i + 1))

theorem b2Segs_lengths {f fuel off len segs} (e : b2Segs f s fuel off len = some segs) : (segs.map (·.2)).sum = len := by
  induction fuel generalizing off len segs with
  | zero =>
    cases len with
    | zero => cases e; rfl
    | succ len => cases e
  | succ fuel ih =>
    cases len with
    | zero => cases e; rfl
    | succ len =>
      unfold b2Segs at e
      dsimp only at e
      split at e
      · cases e
      · obtain ⟨rest, others, rfl⟩ := Option.map_eq_some_iff.mp e
        have lengths := ih others
        rw [List.map_cons, List.sum_cons, lengths]
        omega

theorem length_b2Read_le {f off len} : (b2Read f off len s).length ≤ len := by
  unfold b2Read
  split
  · next segs e =>
    have lengths : (segs.map fun x => (memRead s.mem.bar2 x.1 x.2).length).sum = len := by
      simp only [memRead, length_dense, b2Segs_lengths e]
    rw [List.length_flatMap]
    exact lengths.le
  · exact Nat.zero_le _

/-- What a function reads from its BAR2 for a page is a page image. -/
theorem imageCanonical_b2Read {f off} : imageCanonical (sparse (b2Read f off pageBytes s) 0) := by
  refine ⟨storeFrom_sparse _ 0, fun y hy => ?_⟩
  have bound := (sparse_bounds _ 0 y hy).2
  have length := length_b2Read_le (f := f) (off := off) (len := pageBytes) (s := s)
  omega

theorem tierEffect_canonical {c} (h : memoriesCanonical s) : memoriesCanonical (tierEffect c s) := by
  unfold tierEffect
  extract_lets -underBinder
  split
  · exact endCmd_canonical (noteRead_canonical (b2Write_canonical h))
  · split
    · split
      · next written => exact endCmd_canonical (writeTier_canonical imageCanonical_b2Read written h)
      · exact endCmd_canonical h
    · exact endCmd_canonical (trimRange_canonical h)

theorem tierFails_canonical {c} (h : memoriesCanonical s) : memoriesCanonical (tierFails c s) :=
  ite_canonical (endCmd_canonical (ite_canonical (tally_canonical h) h)) (stallTier_canonical h)

theorem tierCommand_canonical {op f ok} (h : memoriesCanonical s) : memoriesCanonical (tierCommand op f ok s) :=
  runCmd_canonical
      (fun _ _ h =>
          ite_canonical h <|
          ite_canonical (endCmd_canonical h) (ite_canonical (tierEffect_canonical h) (tierFails_canonical h)))
      h

theorem execTierReadState_canonical {f ok} (h : memoriesCanonical s) : memoriesCanonical (execTierReadState f ok s) :=
  tierCommand_canonical h

theorem execTierWriteState_canonical {f ok} (h : memoriesCanonical s) : memoriesCanonical (execTierWriteState f ok s) :=
  tierCommand_canonical h

theorem execTierTrimState_canonical {f ok} (h : memoriesCanonical s) : memoriesCanonical (execTierTrimState f ok s) :=
  tierCommand_canonical h

theorem mountTarget_canonical {t} (h : memoriesCanonical s) : memoriesCanonical (mountTarget s t) :=
  ite_canonical h h

theorem mounted_canonical {ts} (h : memoriesCanonical s) : memoriesCanonical (mounted ts s) :=
  foldl_canonical (fun _ _ h => eraseBlock_canonical h) <|
    unplace_canonical (foldl_canonical (fun _ _ h => mountTarget_canonical h) h)

theorem execFlashMountState_canonical {ts failure} (h : memoriesCanonical s) :
    memoriesCanonical (execFlashMountState ts failure s) := by
  unfold execFlashMountState
  split
  · split
    · exact stallTier_canonical h
    · exact mounted_canonical h
  · exact h

/-! ### Residency -/

theorem runRes_canonical {f op inHold fs reason ok} (hok : ∀ a, KeepsCanonical (ok a)) (h : memoriesCanonical s) :
    memoriesCanonical (runRes f op inHold fs reason ok s) := by
  unfold runRes
  split
  · exact h
  · exact ite_canonical h (runFront_canonical (fun _ _ h => hok _ h) h)

theorem storeCtx_canonical {ctx new} (h : memoriesCanonical s) : memoriesCanonical (storeCtx ctx new s) :=
  ite_canonical (ite_canonical h h) (ite_canonical h h)

theorem execContextWriteState_canonical {f} (h : memoriesCanonical s) : memoriesCanonical (execContextWriteState f s) :=
  runRes_canonical (fun _ _ h => endCmd_canonical (storeCtx_canonical h)) h

theorem allocExtents_canonical {p n r} (e : allocExtents p n s = some r) (h : memoriesCanonical s) : memoriesCanonical r.2 := by
  induction n generalizing s r with
  | zero =>
    cases e
    exact h
  | succ n ih =>
    obtain ⟨_, first, rest⟩ := Option.bind_eq_some_iff.mp e
    obtain ⟨last, others, rfl⟩ := Option.map_eq_some_iff.mp rest
    exact ih (r := last) others (allocExtent_canonical first h)

theorem execExtentGetState_canonical {f} (h : memoriesCanonical s) : memoriesCanonical (execExtentGetState f s) := by
  unfold execExtentGetState
  refine runRes_canonical (fun _ _ h => ?_) h
  split
  · next found =>
    exact endCmd_canonical (b2Write_canonical (allocExtents_canonical found h))
  · exact refuseCmd_canonical h

theorem reword_canonical {x words} (h : memoriesCanonical s) : memoriesCanonical (reword x words s) := by
  unfold reword
  extract_lets -underBinder _ s₁
  have hs₁ : memoriesCanonical s₁ := setExtent_canonical h
  refine foldl_canonical (fun _ _ h => ?_) hs₁
  exact h

theorem execExtentWriteState_canonical {f} (h : memoriesCanonical s) : memoriesCanonical (execExtentWriteState f s) :=
  runRes_canonical (fun _ _ h => endCmd_canonical (reword_canonical h)) h

theorem execExtentPutState_canonical {f} (h : memoriesCanonical s) : memoriesCanonical (execExtentPutState f s) :=
  runRes_canonical (fun _ _ h => endCmd_canonical (freeExtent_canonical h)) h

theorem runNamed_canonical {f op inHold fs reasons ok} (hok : ∀ a b, KeepsCanonical (ok a b)) (h : memoriesCanonical s) :
    memoriesCanonical (runNamed f op inHold fs reasons ok s) :=
  runRes_canonical (fun _ _ h' => ite_canonical h (ite_canonical (endCmd_canonical h') (hok _ _ h'))) h

theorem freeTile_canonical {key} (h : memoriesCanonical s) : memoriesCanonical (freeTile key s) :=
  h

theorem freeGone_canonical (h : memoriesCanonical s) : memoriesCanonical (freeGone s) :=
  foldl_canonical (fun _ _ h => tileProgress_canonical (freeTile_canonical h)) h

theorem pageLost_canonical {n} (h : memoriesCanonical s) : memoriesCanonical (pageLost n s) := by
  have counted : memoriesCanonical (if s.cool.flashGated then s else countEvent cTierLost unitNode (tally cCwFailed s)) :=
    ite_canonical h (countEvent_canonical (tally_canonical h))
  unfold pageLost
  dsimp only
  split
  · exact freeGone_canonical (stateSwap_canonical counted)
  · exact counted

theorem noteDrops_canonical {part ns} (h : memoriesCanonical s) : memoriesCanonical (noteDrops part ns s) := by
  unfold noteDrops
  split <;> exact h

theorem startOp_canonical {c tiles pages done codes} (h : memoriesCanonical s) :
    memoriesCanonical (startOp c tiles pages done codes s) :=
  ite_canonical (endCmd_canonical h) h

theorem leaveOut_canonical {code c out} (h : memoriesCanonical s) : memoriesCanonical (leaveOut code c out s) :=
  foldl_canonical (fun _ _ h => pageProgress_canonical (ite_canonical (slotAwaits_canonical h) h)) h

theorem abandonChange_canonical {c} (h : memoriesCanonical s) : memoriesCanonical (abandonChange c s) := by
  unfold abandonChange
  extract_lets -underBinder s₁
  have hs₁ : memoriesCanonical s₁ := leaveOut_canonical (countEvent_canonical h)
  split <;> exact hs₁

theorem countTimes_canonical {n c} (h : memoriesCanonical s) : memoriesCanonical (countTimes n c s) :=
  foldl_canonical (fun _ _ h => countEvent_canonical h) h

theorem changeMade_canonical {c} (h : memoriesCanonical s) : memoriesCanonical (changeMade c s) := by
  unfold changeMade
  extract_lets -underBinder _ _ s₁ s₂ s₃ s₄
  have hs₁ : memoriesCanonical s₁ := countTimes_canonical <|
    countTimes_canonical (countTimes_canonical (countTimes_canonical h))
  have hs₂ : memoriesCanonical s₂ := by
    dsimp only [s₂]
    split
    · refine foldl_canonical (fun _ _ h => ?_) hs₁
      exact h
    · exact hs₁
  have hs₃ : memoriesCanonical s₃ := noteDrops_canonical hs₂
  have hs₄ : memoriesCanonical s₄ := freeGone_canonical (placeTail_canonical hs₃)
  exact postDrops_canonical (foldl_canonical (fun _ _ h => pageProgress_canonical h) hs₄)

theorem readChange_canonical {failed c r} (e : readChange failed c s = some r) (h : memoriesCanonical s) :
    memoriesCanonical r.2 := by
  unfold readChange at e
  dsimp only at e
  split at e
  · cases e
  · have copied : ∀ (l : List PageChange) (s : State), memoriesCanonical s → memoriesCanonical (l.foldl (fun s m =>
        { noteHomeRead m.old m.tier s with
          mem.stk := writePage s.mem.stk (slotPlace (wordSlot m.new)) (homeSlice m.old m.tier s) }) s) := fun _ _ h =>
      foldl_canonical (fun _ _ h => stk_canonical (noteHomeRead_canonical h) (wf_writePage (stk_wf h) (homeSlice_image h).1 _)) h
    have lost := fun (l : List PageChange) (s : State) (h : memoriesCanonical s) =>
      foldl_canonical (f := fun s m => pageLost (c.page m.pos) s) (l := l) (fun _ _ h => pageLost_canonical h) h
    split at e <;> cases e <;> exact copied _ _ (lost _ _ (leaveOut_canonical (linkUsed_canonical h)))

theorem swapChange_canonical {c seen} (h : memoriesCanonical s) : changeEndCanonical (swapChange c seen s) := by
  unfold swapChange
  split
  · exact abandonChange_canonical h
  · exact h
  · next taken =>
    have kept := takeNode_canonical taken h
    dsimp only
    split
    · next swapped => exact changeMade_canonical (nodeSwap_canonical swapped kept)
    · exact abandonChange_canonical kept
    · split
      · exact abandonChange_canonical kept
      · exact leaveOut_canonical kept

theorem tryChange_canonical {failed c} (h : memoriesCanonical s) : changeEndCanonical (tryChange failed c s) := by
  unfold tryChange
  split
  · split
    · exact h
    · exact swapChange_canonical h
  · split
    · exact h
    · split
      · exact stallTier_canonical h
      · split
        · exact h
        · next read =>
          have kept := readChange_canonical read h
          split
          · split
            · exact kept
            · exact swapChange_canonical kept
          · exact kept

theorem driveChanges_canonical {mine failed} (h : memoriesCanonical s) : memoriesCanonical (driveChanges mine failed s) := by
  refine foldl_canonical (fun c s h => ?_) h
  have tried := tryChange_canonical (failed := failed) (c := c)
    (s := { s with res.changes := s.res.changes.filter (· != c) }) h
  dsimp only
  split
  · next e =>
    rw [e] at tried
    exact tried
  · next e =>
    rw [e] at tried
    exact tried

theorem startChange_canonical {c} (h : memoriesCanonical s) : memoriesCanonical (startChange c s) :=
  ite_canonical h (driveChanges_canonical h)

theorem driveOwn_canonical {f failed} (h : memoriesCanonical s) : memoriesCanonical (driveOwn f failed s) :=
  driveChanges_canonical h

theorem reserveTiles_canonical {p st first last l} (h : memoriesCanonical s) :
    memoriesCanonical (reserveTiles p st first last l s).2 := by
  induction l generalizing s with
  | nil => exact h
  | cons n t ih => exact ih (frame_canonical (pick_canonical h) rfl rfl)

theorem execStageState_canonical {f} (h : memoriesCanonical s) : memoriesCanonical (execStageState f s) :=
  runNamed_canonical
      (fun _ _ _ h => ite_canonical (endCmd_canonical h) (startOp_canonical (reserveTiles_canonical h))) h

theorem tileStood_canonical {key t} (h : memoriesCanonical s) : memoriesCanonical (tileStood key t s) := by
  have noted := noteHomeRead_canonical (word := wordOf t.page s) (tier := tierOf t.page s) h
  exact tileProgress_canonical (stk_canonical noted (wf_writePage (stk_wf noted) (homeSlice_image h).1 _))

theorem dropPlanned_canonical {key n} (h : memoriesCanonical s) : memoriesCanonical (dropPlanned key n s) :=
  foldl_canonical (fun _ _ h => foldl_canonical (fun _ _ h => dropPages_canonical h) h) h

theorem stageFails_canonical {key t} (h : memoriesCanonical s) : memoriesCanonical (stageFails key t s) :=
  pageLost_canonical (tileProgress_canonical (freeTile_canonical (dropPlanned_canonical h)))

theorem stageReadFails_canonical {key t} (h : memoriesCanonical s) : memoriesCanonical (stageReadFails key t s) :=
  ite_canonical (stageFails_canonical h) (stallTier_canonical h)

theorem execTileStandsState_canonical {st tile corrected} (h : memoriesCanonical s) :
    memoriesCanonical (execTileStandsState st tile corrected s) := by
  unfold execTileStandsState
  extract_lets -underBinder
  split
  · exact h
  · exact ite_canonical (ite_canonical (stageReadFails_canonical h) (tileStood_canonical (noteCorrected_canonical h)))
        (ite_canonical (tileStood_canonical h) (tileProgress_canonical (freeTile_canonical h)))

theorem execStageReadFailedState_canonical {st tile} (h : memoriesCanonical s) :
    memoriesCanonical (execStageReadFailedState st tile s) := by
  unfold execStageReadFailedState
  extract_lets -underBinder
  split
  · exact h
  · exact ite_canonical h (stageReadFails_canonical h)

theorem execTileFreeState_canonical {st tile} (h : memoriesCanonical s) :
    memoriesCanonical (execTileFreeState st tile s) := by
  unfold execTileFreeState
  extract_lets -underBinder
  split
  · exact h
  · exact ite_canonical (tileProgress_canonical (freeTile_canonical h)) h

theorem reserveSlots_canonical {p st l} (h : memoriesCanonical s) : memoriesCanonical (reserveSlots p st l s).2 := by
  induction l generalizing s with
  | nil => exact h
  | cons n t ih =>
    unfold reserveSlots
    split
    · next taken => exact ih (takeSlot_canonical taken h)
    · exact h

theorem rehomeRun_canonical {p st f ns} (h : memoriesCanonical s) : memoriesCanonical (rehomeRun p st f s ns) := by
  unfold rehomeRun
  split
  · exact h
  · exact reserveSlots_canonical h

theorem execRehomeState_canonical {f failed} (h : memoriesCanonical s) : memoriesCanonical (execRehomeState f failed s) :=
  ite_canonical (driveOwn_canonical h) <|
    runNamed_canonical
      (fun _ _ _ h =>
          ite_canonical (endCmd_canonical h) <|
          driveOwn_canonical (startOp_canonical (foldl_canonical (fun _ _ h => rehomeRun_canonical h) h)))
      h

theorem vaultStack_canonical {p r} (e : vaultStack p s = some r) (h : memoriesCanonical s) : memoriesCanonical r.2 := by
  unfold vaultStack at e
  dsimp only at e
  split at e
  · cases e
  · cases e
    exact pick_canonical h

theorem toVault_canonical {p n r x} (e : toVault p n r s = some x) (h : memoriesCanonical s) : memoriesCanonical x.2 := by
  unfold toVault at e
  split at e
  · cases e
  · next stack =>
    obtain ⟨_, taken, rfl⟩ := Option.map_eq_some_iff.mp e
    exact takeSlot_canonical taken (vaultStack_canonical stack h)

theorem toFlash_canonical {p n fn r x} (e : toFlash p n fn r s = some x) (h : memoriesCanonical s) : memoriesCanonical x.2 := by
  unfold toFlash at e
  dsimp only at e
  split at e
  · cases e
    exact h
  · split at e
    · cases e
      exact replacePrograms_canonical h (fun _ => rfl)
    · split at e
      · cases e
        exact h
      · obtain ⟨_, started, rfl⟩ := Option.map_eq_some_iff.mp e
        exact linkUsed_canonical (startProgram_canonical started h)

theorem evictPage_canonical {p target fn acc n} (h : memoriesCanonical acc.2) :
    memoriesCanonical (evictPage p target fn acc n).2 := by
  unfold evictPage
  extract_lets -underBinder _ s₁ _ own done
  exact ite_snd_canonical h <|
    ite_snd_canonical (ite_snd_canonical h h) <|
    ite_snd_canonical h <|
    ite_snd_canonical (ite_snd_canonical h (getD_snd_canonical (fun _ e => toVault_canonical e h) h)) <|
    ite_snd_canonical h (getD_snd_canonical (fun _ e => toFlash_canonical e h) h)

theorem evictUnit_canonical {p target fn acc n} (h : memoriesCanonical acc.2.2) :
    memoriesCanonical (evictUnit p target fn acc n).2.2 :=
  foldl_snd_canonical (fun _ _ h => evictPage_canonical h) h

theorem evictUnits_canonical {p target fn} (l : List Named) {acc} (h : memoriesCanonical acc.2.2) :
    memoriesCanonical (l.foldl (evictUnit p target fn) acc).2.2 := by
  induction l generalizing acc with
  | nil => exact h
  | cons n l ih => exact ih (evictUnit_canonical h)

theorem execEvictState_canonical {f} (h : memoriesCanonical s) : memoriesCanonical (execEvictState f s) :=
  ite_canonical (driveOwn_canonical h) <| runNamed_canonical
    (fun _ _ _ h' => ite_canonical h (driveOwn_canonical (startOp_canonical (evictUnits_canonical _ h')))) h

theorem writeBackPage_canonical {p tenant fn acc n} (h : memoriesCanonical acc.2) :
    memoriesCanonical (writeBackPage p tenant fn acc n).2 := by
  unfold writeBackPage
  extract_lets -underBinder _ s₁
  split
  · exact h
  · split
    · exact h
    · split
      · exact h
      · split
        · exact h
        · split
          · exact h
          · split
            · next found =>
              exact linkUsed_canonical (startProgram_canonical found h)
            · exact h

theorem execWriteBackState_canonical {f} (h : memoriesCanonical s) : memoriesCanonical (execWriteBackState f s) :=
  runNamed_canonical
      (fun _ _ _ h' =>
          ite_canonical h (startOp_canonical (foldl_snd_canonical (fun _ _ h' => writeBackPage_canonical h') h')))
      h

theorem programFails_canonical {pr} (h : memoriesCanonical s) : memoriesCanonical (programFails pr s) := by
  have dropped := filterPrograms_canonical (p := fun x => x.page != pr.page) h
  exact postDrops_canonical (pageProgress_canonical (ite_canonical (startChange_canonical dropped) dropped))

theorem programOk_canonical {rewrite pr} (hpr : imageCanonical pr.bytes) (h : memoriesCanonical s) :
    memoriesCanonical (programOk rewrite pr s) := by
  have dropped := filterPrograms_canonical (p := fun x => x.page != pr.page) h
  unfold programOk
  extract_lets -underBinder
  split
  · exact postDrops_canonical (pageProgress_canonical dropped)
  · split
    · exact postDrops_canonical (pageProgress_canonical dropped)
    · split
      · exact programFails_canonical h
      · next written =>
        extract_lets -underBinder x t _ s₁
        have stored : memoriesCanonical s₁ := setExtent_canonical (writeTier_canonical hpr written dropped)
        exact ite_canonical (pageProgress_canonical stored) <|
          ite_canonical (postDrops_canonical (pageProgress_canonical stored)) (startChange_canonical stored)

theorem execTierProgramDoneState_canonical {index failed} (h : memoriesCanonical s) :
    memoriesCanonical (execTierProgramDoneState index failed s) := by
  unfold execTierProgramDoneState
  split
  · exact h
  · next pr found =>
    have image := program_image h (List.mem_of_getElem? found)
    have retired := fun l : List Nat => foldl_canonical (f := retireOpen) (l := l) (fun _ _ h => retireOpen_canonical h) h
    exact ite_canonical h <| ite_canonical (programFails_canonical h) <| ite_canonical (programOk_canonical image (retired _)) <|
      ite_canonical (programFails_canonical (retired _)) (stallTier_canonical (retired _))

/-! ### Moves -/

theorem payloadPage_wf (g : Geo) (b : List Byte) : Memory.wf (payloadPage g b) = true := by
  have stored : ∀ (l : List (Nat × Nat)) (acc : Mem × List Byte), Memory.wf acc.1 = true → Memory.wf
      (l.foldl (fun acc x => (memWrite acc.1 x.1 (acc.2.take x.2), acc.2.drop x.2)) acc).1 = true := by
    intro l
    induction l with
    | nil => exact fun _ hm => hm
    | cons x l ih => exact fun _ hm => ih _ (wf_memWrite hm _ _)
  exact stored _ _ rfl

theorem placePage_canonical {hdr payload t} (e : placePage hdr payload s = .ok t) (h : memoriesCanonical s) :
    memoriesCanonical t := by
  unfold placePage at e
  dsimp only at e
  split at e
  · cases e
  · split at e
    · cases e
    · next taken =>
      split at e
      · cases e
      · next set =>
        cases e
        have kept := setRunPages_canonical set (takeSlot_canonical taken h)
        exact placeTail_canonical (stk_canonical kept (wf_writePage (stk_wf kept) (payloadPage_wf _ _) _))

theorem takePage_canonical {bestEffort hdr payload} (h : memoriesCanonical s) :
    memoriesCanonical (takePage bestEffort hdr payload s).2 := by
  have written := writeWhen_canonical (bestEffort := bestEffort) (ctx := hdr.ctx) (layer := hdr.layer) (group := hdr.group)
    (pages := [hdr.page]) (fresh := [hdr.page]) (place := placePage hdr payload) (fun _ _ e h => placePage_canonical e h) h
  unfold takePage
  split
  · next e =>
    rw [e] at written
    exact written
  · exact refusedWrite_canonical h
  · next e =>
    rw [e] at written
    exact written

theorem admitMove_canonical {isExport m} (h : memoriesCanonical s) : memoriesCanonical (admitMove isExport m s) := by
  have taken : ∀ hdr : MoveHdr, ∀ st : Nat, memoriesCanonical (if st ≠ stOk then (some st, s)
      else takePage (writeTurn m s == .bestEffort) hdr (m.body.drop 32) s).2 := fun _ _ =>
    ite_snd_canonical h (takePage_canonical h)
  unfold admitMove
  dsimp only
  split
  · next e => exact snd_canonical e (taken _ _)
  · next e =>
    have written := takeWrite_canonical (m := m) (snd_canonical e (taken _ _))
    have counted := ite_canonical (c := moveIngestBad m.body s = true) (countEvent_canonical (c := cIngestReject)
      (unit := unitConn m.conn) written) written
    exact sendCompletion_canonical (ite_canonical (countEvent_canonical counted) counted)

theorem execMoveState_canonical {c} (h : memoriesCanonical s) : memoriesCanonical (execMoveState c s) := by
  unfold execMoveState
  split
  · exact admitMove_canonical h
  · exact h

theorem execExportState_canonical {c} (h : memoriesCanonical s) : memoriesCanonical (execExportState c s) := by
  unfold execExportState
  split
  · exact admitMove_canonical h
  · exact h

theorem pageWriteCounts_canonical {f} (h : memoriesCanonical s) : memoriesCanonical (pageWriteCounts f s) := by
  unfold pageWriteCounts
  split
  · exact h
  · exact ite_canonical h <|
      ite_canonical (countEvent_canonical (ite_canonical (countEvent_canonical h) h)) <|
      ite_canonical (countEvent_canonical h) h

theorem execPageWriteState_canonical {f} (h : memoriesCanonical s) : memoriesCanonical (execPageWriteState f s) := by
  unfold execPageWriteState
  refine runRes_canonical (fun c s h => ?_) (pageWriteCounts_canonical h)
  have taken := takePage_canonical (bestEffort := false) (hdr := pageWriteHdr c) (payload := pageWritePayload c s) h
  dsimp only
  split
  · exact endCmd_canonical h
  · split
    · next e => exact endCmd_canonical (snd_canonical e taken)
    · next e => exact snd_canonical e taken

theorem sendPage_canonical {m n} (h : memoriesCanonical s) : memoriesCanonical (sendPage m n s).2 := by
  unfold sendPage
  split
  · exact h
  · exact queueMsg_canonical h

theorem keepMoveOut_canonical {m} (h : memoriesCanonical s) : memoriesCanonical (keepMoveOut m s) :=
  ite_canonical (endMoveOut_canonical h) h

theorem skipPage_canonical {m codes} (h : memoriesCanonical s) : memoriesCanonical (skipPage m codes s) :=
  keepMoveOut_canonical h

theorem sendGo_canonical {f failed fuel} (h : memoriesCanonical s) : memoriesCanonical (sendGo f failed fuel s) := by
  induction fuel generalizing s with
  | zero => exact h
  | succ fuel ih =>
    unfold sendGo
    split
    · exact h
    · split
      · exact h
      · refine ite_canonical (ih (skipPage_canonical (countEvent_canonical h))) <|
          ite_canonical (ih (skipPage_canonical h)) <| ite_canonical h <| ite_canonical h <|
          ite_canonical (ite_canonical (ih (skipPage_canonical h)) <|
            ite_canonical (ih (skipPage_canonical (pageLost_canonical h))) (stallTier_canonical h)) ?_
        exact ih (keepMoveOut_canonical (frame_canonical (sendPage_canonical
          (ite_canonical (linkUsed_canonical h) (noteHomeRead_canonical h))) rfl rfl))

theorem execMoveOutState_canonical {f failed} (h : memoriesCanonical s) : memoriesCanonical (execMoveOutState f failed s) :=
  ite_canonical h (ite_canonical (sendGo_canonical h) (runNamed_canonical (fun _ _ _ h => sendGo_canonical h) h))

theorem releasePage_canonical {n t} (e : releasePage n s = some t) (h : memoriesCanonical s) : memoriesCanonical t := by
  unfold releasePage at e
  split at e
  · cases e
    exact h
  · dsimp only at e
    split at e
    · next swapped =>
      cases e
      exact freeGone_canonical (placeTail_canonical (frame_canonical (nodeSwap_canonical swapped h) rfl rfl))
    · cases e
    · cases e

theorem moveEnded_canonical {m tag status} (h : memoriesCanonical s) : memoriesCanonical (moveEnded m tag status s) := by
  unfold moveEnded
  split
  · exact h
  · extract_lets -underBinder
    split
    · exact keepMoveOut_canonical h
    · split
      · split
        · next found =>
          exact keepMoveOut_canonical (releasePage_canonical found h)
        · exact keepMoveOut_canonical (countEvent_canonical h)
      · exact keepMoveOut_canonical h

theorem execMoveOutCompletionState_canonical {c} (h : memoriesCanonical s) :
    memoriesCanonical (execMoveOutCompletionState c s) := by
  unfold execMoveOutCompletionState
  split
  · exact h
  · extract_lets -underBinder
    split
    · split
      · split
        · next found =>
          exact moveEnded_canonical (returnCredit_canonical (inboxTake_canonical (takeNode_canonical found h)))
        · exact h
      · exact moveEnded_canonical (returnCredit_canonical (inboxTake_canonical h))
    · exact returnCredit_canonical (inboxTake_canonical h)

theorem execMoveOutTimeoutState_canonical {f} (h : memoriesCanonical s) :
    memoriesCanonical (execMoveOutTimeoutState f s) := by
  unfold execMoveOutTimeoutState
  split
  · exact ite_canonical (endMoveOut_canonical h) h
  · exact h

theorem execExportOutState_canonical {f failed} (h : memoriesCanonical s) :
    memoriesCanonical (execExportOutState f failed s) :=
  ite_canonical h (ite_canonical (sendGo_canonical h) (runNamed_canonical (fun _ _ _ h => sendGo_canonical h) h))

theorem exportUnstall_canonical {f ok} (h : memoriesCanonical s) : memoriesCanonical (exportUnstall f ok s) := by
  unfold exportUnstall
  split
  · exact h
  · exact ite_canonical (sendGo_canonical h) (skipPage_canonical h)

/-! ### Time -/

theorem setCountTo_canonical {c} (h : memoriesCanonical s) : memoriesCanonical (setCountTo c s) :=
  ite_canonical h h

theorem execSetSecondsState_canonical (h : memoriesCanonical s) : memoriesCanonical (execSetSecondsState s) :=
  ite_canonical (countEvent_canonical h) (setCountTo_canonical h)

theorem stepTime_canonical {ns} (h : memoriesCanonical s) : memoriesCanonical (stepTime ns s) :=
  h

theorem takeCount_canonical {sec} (h : memoriesCanonical s) : memoriesCanonical (takeCount sec s).2 := by
  unfold takeCount
  split
  · exact h
  · exact ite_snd_canonical (countEvent_canonical h) (stepTime_canonical h)

theorem acquire_canonical {sample interval} (h : memoriesCanonical s) : memoriesCanonical (acquire sample interval s) :=
  takeCount_canonical (stepTime_canonical h)

theorem registrationMark_canonical {sample sec} (h : memoriesCanonical s) :
    memoriesCanonical (registrationMark sample sec s) :=
  takeCount_canonical h

theorem farEdge_canonical {sample} (h : memoriesCanonical s) : memoriesCanonical (farEdge sample s) :=
  ite_canonical h (ite_canonical h (ite_canonical (raise_canonical h) h))

theorem execPpsEdgeState_canonical {sample high} (h : memoriesCanonical s) :
    memoriesCanonical (execPpsEdgeState sample high s) := by
  unfold execPpsEdgeState
  split
  · exact h
  · split
    · exact countEvent_canonical h
    · split
      · exact h
      · split
        · exact h
        · exact ite_canonical (acquire_canonical h) h
      · exact ite_canonical (registrationMark_canonical h) (countEvent_canonical h)
      · exact ite_canonical (registrationMark_canonical h) (farEdge_canonical (countEvent_canonical h))

theorem execPhaseStepState_canonical (h : memoriesCanonical s) : memoriesCanonical (execPhaseStepState s) :=
  ite_canonical (markApplied_canonical h) h

theorem execMarkMissingState_canonical (h : memoriesCanonical s) : memoriesCanonical (execMarkMissingState s) := by
  unfold execMarkMissingState
  extract_lets -underBinder
  split
  · exact ite_canonical (ite_canonical (raise_canonical h) h) h
  · exact ite_canonical (ite_canonical (raise_canonical h) h) h
  · exact h

theorem execReregState_canonical (h : memoriesCanonical s) : memoriesCanonical (execReregState s) :=
  ite_canonical h h

theorem reregStep_canonical {dest} (h : memoriesCanonical s) : memoriesCanonical (reregStep dest s) := by
  unfold reregStep
  split
  · exact ite_canonical h h
  · exact h

theorem execRegistrationState_canonical {failed dest} (h : memoriesCanonical s) :
    memoriesCanonical (execRegistrationState failed dest s) :=
  ite_canonical
      (ite_canonical (reregStep_canonical (emit_canonical h)) <|
        ite_canonical (countEvent_canonical (ite_canonical h h)) h)
      h

theorem endRegistration_canonical (h : memoriesCanonical s) : memoriesCanonical (endRegistration s) :=
  h

theorem registrationEnds_canonical (h : memoriesCanonical s) : memoriesCanonical (registrationEnds s) := by
  unfold registrationEnds
  split
  · exact ite_canonical (endRegistration_canonical h) h
  · exact h

theorem registrationLoss_canonical (h : memoriesCanonical s) : memoriesCanonical (registrationLoss s) :=
  ite_canonical (raise_canonical (countEvent_canonical h)) h

theorem relayBarrier_canonical {b} (h : memoriesCanonical s) : memoriesCanonical (relayBarrier b s) :=
  ite_canonical h (foldl_canonical (fun _ _ h => queueMsg_canonical h) h)

theorem pendBarrier_canonical {pass id} (h : memoriesCanonical s) : memoriesCanonical (pendBarrier pass id s) :=
  h

theorem takeBarrier_canonical {b} (h : memoriesCanonical s) : memoriesCanonical (takeBarrier b s) := by
  unfold takeBarrier
  exact ite_canonical (countEvent_canonical h) <|
    ite_canonical h <|
    relayBarrier_canonical (ite_canonical (setCountTo_canonical (pendBarrier_canonical h)) (pendBarrier_canonical h))

theorem execBarrierState_canonical {c} (h : memoriesCanonical s) : memoriesCanonical (execBarrierState c s) := by
  unfold execBarrierState
  split
  · exact h
  · extract_lets -underBinder s₁
    have hs₁ : memoriesCanonical s₁ := returnCredit_canonical (inboxTake_canonical h)
    split
    · exact hs₁
    · split
      · exact countEvent_canonical hs₁
      · exact takeBarrier_canonical hs₁

theorem execTimCtrlBarrierState_canonical (h : memoriesCanonical s) : memoriesCanonical (execTimCtrlBarrierState s) :=
  ite_canonical h (takeBarrier_canonical h)

theorem sampleBarrier_canonical {sample} (h : memoriesCanonical s) : memoriesCanonical (sampleBarrier sample s) :=
  ite_canonical (pendBarrier_canonical h) (countEvent_canonical h)

theorem execBarrierOutPulseState_canonical (h : memoriesCanonical s) : memoriesCanonical (execBarrierOutPulseState s) :=
  ite_canonical (sampleBarrier_canonical (driveBarrier_canonical h)) h

theorem execBarrierInEdgeState_canonical {rising sample} (h : memoriesCanonical s) :
    memoriesCanonical (execBarrierInEdgeState rising sample s) :=
  ite_canonical (sampleBarrier_canonical (driveBarrier_canonical h)) (driveBarrier_canonical h)

theorem execBarrierStartState_canonical (h : memoriesCanonical s) : memoriesCanonical (execBarrierStartState s) := by
  unfold execBarrierStartState
  split
  · exact ite_canonical (ite_canonical h (countEvent_canonical h)) h
  · exact h

theorem execHeartbeatState_canonical {c} (h : memoriesCanonical s) : memoriesCanonical (execHeartbeatState c s) := by
  unfold execHeartbeatState
  split
  · exact h
  · extract_lets -underBinder s₁ _ _ _ s₂
    have hs₁ : memoriesCanonical s₁ := returnCredit_canonical (inboxTake_canonical h)
    have hs₂ : memoriesCanonical s₂ := setAux_canonical hs₁
    exact ite_canonical (countEvent_canonical hs₁) (ite_canonical (countEvent_canonical hs₂) hs₂)

theorem execPeersLostState_canonical {c} (h : memoriesCanonical s) : memoriesCanonical (execPeersLostState c s) :=
  ite_canonical (raise_canonical (tally_canonical (setAux_canonical h))) h

/-! ### Wire -/

theorem setFport_canonical {p v} (h : memoriesCanonical s) : memoriesCanonical (setFport p v s) :=
  h

theorem setKeyPos_canonical {slot pos v} (h : memoriesCanonical s) : memoriesCanonical (setKeyPos slot pos v s) :=
  h

theorem erasePos_canonical {slot pos} (h : memoriesCanonical s) : memoriesCanonical (erasePos slot pos s) :=
  setKeyPos_canonical h

theorem writePos_canonical {i key t} (e : writePos i key s = some t) (h : memoriesCanonical s) : memoriesCanonical t := by
  unfold writePos at e
  dsimp only at e
  split at e
  · cases e
  · cases e
    exact h

theorem installPos_canonical {slot pos key} (h : memoriesCanonical s) : memoriesCanonical (installPos slot pos key s) := by
  unfold installPos
  extract_lets -underBinder
  split
  · next found =>
    exact writePos_canonical found h
  · exact countEvent_canonical h

theorem writesGo_canonical {l} (h : memoriesCanonical s) : memoriesCanonical (writesGo l s) := by
  induction l generalizing s with
  | nil => exact h
  | cons w t ih =>
    unfold writesGo
    split
    · next written => exact ih (writePos_canonical written h)
    · exact ih h

theorem endLatches_canonical {rest} (h : memoriesCanonical s) : memoriesCanonical (endLatches rest s) :=
  writesGo_canonical h

theorem zeroRanks_canonical {p} (h : memoriesCanonical s) : memoriesCanonical (zeroRanks p s) :=
  endLatches_canonical h

theorem setRing_canonical {r v} (h : memoriesCanonical s) : memoriesCanonical (setRing r v s) :=
  h

theorem toRing_canonical {r m} (h : memoriesCanonical s) : memoriesCanonical (toRing r m s) := by
  unfold toRing
  dsimp only
  have counted := countEvent_canonical (c := cRingWait) (unit := unitConn m.conn) h
  split
  · split
    · exact setRing_canonical h
    · split
      · exact returnCredit_canonical counted
      · exact counted
  · split
    · exact returnCredit_canonical counted
    · exact counted

theorem endWorkReq_canonical {slot status} (h : memoriesCanonical s) : memoriesCanonical (endWorkReq slot status s) := by
  unfold endWorkReq
  split
  · exact h
  · exact toRing_canonical h

theorem abortLoad_canonical {id} (h : memoriesCanonical s) : memoriesCanonical (abortLoad id s) :=
  countEvent_canonical (emit_canonical h)

theorem endAwaiting_canonical {c status w} (h : memoriesCanonical s) : memoriesCanonical (endAwaiting c status s w) := by
  unfold endAwaiting
  split
  · exact toRing_canonical h
  · exact endWorkReq_canonical h
  · split
    · exact ite_canonical h (abortLoad_canonical h)
    · exact h
  · exact h
  · exact h
  · exact h

theorem endMessages_canonical {c status k} (h : memoriesCanonical s) : memoriesCanonical (endMessages c status k s) := by
  unfold endMessages
  extract_lets -underBinder _ s₁ s₂ s₃
  have hs₁ : memoriesCanonical s₁ := setAux_canonical h
  have hs₂ : memoriesCanonical s₂ := foldl_canonical (fun _ _ h => endAwaiting_canonical h) hs₁
  have hs₃ : memoriesCanonical s₃ := foldl_canonical (fun _ _ h => endAwaiting_canonical h) hs₂
  refine foldl_canonical (fun _ _ h => ?_) hs₃
  refine foldl_canonical (fun _ _ h => ?_) h
  split
  · exact moveEnded_canonical h
  · exact h

theorem toKeyless_canonical {c} (h : memoriesCanonical s) : memoriesCanonical (toKeyless c s) := by
  unfold toKeyless
  extract_lets -underBinder _ _ s₁ s₂
  have hs₁ : memoriesCanonical s₁ := setConn_canonical h
  have hs₂ : memoriesCanonical s₂ := setAux_canonical hs₁
  split
  · exact endMessages_canonical hs₂
  · exact endMessages_canonical hs₂
  · exact hs₂
  · exact hs₂
  · exact hs₂

theorem freshEpoch_canonical {c epoch} (h : memoriesCanonical s) : memoriesCanonical (freshEpoch c epoch s) :=
  setAux_canonical h

theorem eraseConnKey_canonical {c epoch} (h : memoriesCanonical s) : memoriesCanonical (eraseConnKey c epoch s) := by
  unfold eraseConnKey
  extract_lets -underBinder _ s₁
  have hs₁ : memoriesCanonical s₁ := freshEpoch_canonical (erasePos_canonical h)
  exact ite_canonical (ite_canonical hs₁ (toKeyless_canonical hs₁)) hs₁

theorem failConn_canonical {c} (h : memoriesCanonical s) : memoriesCanonical (failConn c s) :=
  raise_canonical (tally_canonical (endMessages_canonical (setConn_canonical h)))

theorem closeConn_canonical {c} (h : memoriesCanonical s) : memoriesCanonical (closeConn c s) :=
  ite_canonical (setAux_canonical (setConn_canonical h)) h

theorem submitMsg_canonical {c m} (h : memoriesCanonical s) : memoriesCanonical (submitMsg c m s) :=
  ite_canonical (queueMsg_canonical h) (setAux_canonical (queueMsg_canonical h))

theorem rollCheck_canonical {c} (h : memoriesCanonical s) : memoriesCanonical (rollCheck c s) := by
  unfold rollCheck
  extract_lets -underBinder _ s₁ _ s₂ _ s₃ _ s₄
  have hs₁ : memoriesCanonical s₁ := ite_canonical (setConn_canonical h) h
  have hs₂ : memoriesCanonical s₂ := ite_canonical (setConn_canonical hs₁) hs₁
  have hs₃ : memoriesCanonical s₃ := setConn_canonical hs₂
  have hs₄ : memoriesCanonical s₄ := setAux_canonical hs₃
  exact ite_canonical (countEvent_canonical (freshEpoch_canonical (erasePos_canonical hs₄))) hs₂

/-! ### Ports -/

theorem handBack_canonical {p lane} (h : memoriesCanonical s) : memoriesCanonical (handBack p lane s) :=
  foldl_canonical (fun _ _ h => countEvent_canonical h) (countWear_canonical h)

theorem fecEvents_canonical {p l corrected failed} (h : memoriesCanonical s) :
    memoriesCanonical (fecEvents p l corrected failed s) := by
  unfold fecEvents
  extract_lets -underBinder s₁ s₂ s₃
  have hs₁ : memoriesCanonical s₁ := countWear_canonical h
  have hs₂ : memoriesCanonical s₂ := foldl_canonical (fun _ _ h => countEvent_canonical h) hs₁
  have hs₃ : memoriesCanonical s₃ := foldl_canonical (fun _ _ h => countEvent_canonical h) hs₂
  exact ite_canonical hs₃ (setFport_canonical hs₃)

theorem execLaneTrainedState_canonical {p l a} (h : memoriesCanonical s) :
    memoriesCanonical (execLaneTrainedState p l a s) :=
  ite_canonical (ite_canonical (setFport_canonical h) h) (setFport_canonical h)

theorem loseLane_canonical {p l} (h : memoriesCanonical s) : memoriesCanonical (loseLane p l s) := by
  unfold loseLane
  extract_lets -underBinder
  split
  · exact ite_canonical
        (handBack_canonical (emit_canonical (countEvent_canonical (countWear_canonical (setFport_canonical h)))))
        (setFport_canonical h)
  · exact h

theorem execLaneLostState_canonical {p l cause} (h : memoriesCanonical s) :
    memoriesCanonical (execLaneLostState p l cause s) := by
  unfold execLaneLostState
  split
  · exact ite_canonical (loseLane_canonical (fecEvents_canonical h)) (fecEvents_canonical h)
  · exact loseLane_canonical h
  · exact loseLane_canonical h
  · exact loseLane_canonical h

theorem execPrtCtrlRetrainState_canonical {p mask} (h : memoriesCanonical s) :
    memoriesCanonical (execPrtCtrlRetrainState p mask s) :=
  foldl_canonical (fun _ _ h => loseLane_canonical h) h

theorem execLaneReturnState_canonical {p l} (h : memoriesCanonical s) : memoriesCanonical (execLaneReturnState p l s) := by
  unfold execLaneReturnState
  extract_lets -underBinder
  split
  · exact ite_canonical (countEvent_canonical (setFport_canonical h)) h
  · exact h

theorem moveConn_canonical {p c} (h : memoriesCanonical s) : memoriesCanonical (moveConn p s c) := by
  unfold moveConn
  extract_lets -underBinder _ s₁
  have hs₁ : memoriesCanonical s₁ := setConn_canonical h
  split
  · exact hs₁
  · split
    · exact setAux_canonical hs₁
    · exact hs₁

theorem returnConn_canonical {p c} (h : memoriesCanonical s) : memoriesCanonical (returnConn p s c) := by
  unfold returnConn
  split
  · exact h
  · exact ite_canonical h (setAux_canonical (setConn_canonical h))

theorem dropPort_canonical {p} (h : memoriesCanonical s) : memoriesCanonical (dropPort p s) := by
  unfold dropPort
  extract_lets -underBinder _ _ s₁ s₂ s₃
  have hs₁ : memoriesCanonical s₁ := setFport_canonical h
  have hs₂ : memoriesCanonical s₂ := countWear_canonical (handBack_canonical hs₁)
  have hs₃ : memoriesCanonical s₃ := raise_canonical (tally_canonical hs₂)
  exact foldl_canonical (fun _ _ h => moveConn_canonical h) hs₃

theorem execPortDropState_canonical {p} (h : memoriesCanonical s) : memoriesCanonical (execPortDropState p s) :=
  ite_canonical (dropPort_canonical h) h

theorem execPortReturnState_canonical {p} (h : memoriesCanonical s) : memoriesCanonical (execPortReturnState p s) :=
  ite_canonical (setFport_canonical (foldl_canonical (fun _ _ h => returnConn_canonical h) h)) h

theorem laneSlip_canonical {p} (h : memoriesCanonical s) : memoriesCanonical (laneSlip p s) :=
  ite_canonical h (markApplied_canonical (countEvent_canonical h))

theorem releaseAwait_canonical {c} (h : memoriesCanonical s) : memoriesCanonical (releaseAwait c s) :=
  setConn_canonical h

theorem runSend_canonical {p r} (h : memoriesCanonical s) : memoriesCanonical (runSend p s r) := by
  unfold runSend
  extract_lets -underBinder _ _ _ _ _ _ _ _ _ s₁ s₂
  have hs₁ : memoriesCanonical s₁ := setFport_canonical (setFport_canonical h)
  have hs₂ : memoriesCanonical s₂ := ite_canonical (releaseAwait_canonical hs₁) hs₁
  exact ite_canonical h <|
    ite_canonical (setFport_canonical h) <|
    ite_canonical (ite_canonical (setFport_canonical h) (laneSlip_canonical h)) <|
    ite_canonical hs₂ (laneSlip_canonical hs₂)

theorem execSendLineState_canonical {isl idx} (h : memoriesCanonical s) :
    memoriesCanonical (execSendLineState isl idx s) := by
  unfold execSendLineState
  split
  · exact h
  · split
    · exact h
    · extract_lets -underBinder _ _ _ s₁ _ _ _ s₂
      have hs₁ : memoriesCanonical s₁ := markApplied_canonical h
      have hs₂ : memoriesCanonical s₂ := ite_canonical (setFport_canonical hs₁) hs₁
      exact ite_canonical (ite_canonical (laneSlip_canonical hs₁) hs₁) <|
        foldl_canonical (fun _ _ h => runSend_canonical h) hs₂

theorem execBeatLineState_canonical {isl idx} (h : memoriesCanonical s) :
    memoriesCanonical (execBeatLineState isl idx s) := by
  unfold execBeatLineState
  split
  · exact h
  · exact ite_canonical (tally_canonical (queueMsg_canonical (markApplied_canonical h))) (markApplied_canonical h)

theorem execAdaptLineState_canonical {isl idx} (h : memoriesCanonical s) :
    memoriesCanonical (execAdaptLineState isl idx s) := by
  unfold execAdaptLineState
  split
  · exact markApplied_canonical h
  · exact h

theorem ackSent_canonical {c} (h : memoriesCanonical s) : memoriesCanonical (ackSent c s) :=
  setAux_canonical h

theorem putFrame_canonical {p lane c hdr coded key} (h : memoriesCanonical s) :
    memoriesCanonical (putFrame p lane c hdr coded key s) :=
  emit_canonical h

theorem countSent_canonical {ack c epoch} (h : memoriesCanonical s) : memoriesCanonical (countSent ack c epoch s) :=
  ite_canonical (countEvent_canonical (setAux_canonical h)) (setAux_canonical h)

theorem messageSent_canonical {m} (h : memoriesCanonical s) : memoriesCanonical (messageSent m s) := by
  unfold messageSent
  split
  · exact ite_canonical (endWorkReq_canonical h) h
  · exact h
  · exact h
  · exact h
  · exact h
  · exact h

theorem startFresh_canonical {p lane c m0 key free} (h : memoriesCanonical s) :
    memoriesCanonical (startFresh p lane c m0 key free s) := by
  unfold startFresh
  extract_lets -underBinder _ _ _ _ _ _ _ _ _ _ _ s₁ _ _ s₂ _ s₃ s₄ s₅
  have hs₁ : memoriesCanonical s₁ := setConn_canonical h
  have hs₂ : memoriesCanonical s₂ := ite_canonical hs₁ hs₁
  have hs₃ : memoriesCanonical s₃ := ite_canonical hs₂ <|
    tallyBy_canonical (tallyBy_canonical (setFport_canonical hs₂))
  have hs₄ : memoriesCanonical s₄ := ite_canonical (countEvent_canonical hs₃) hs₃
  have hs₅ : memoriesCanonical s₅ := putFrame_canonical (countSent_canonical (ackSent_canonical hs₄))
  exact ite_canonical (messageSent_canonical hs₅) hs₅

theorem startCand_canonical {p lane x free} (h : memoriesCanonical s) : memoriesCanonical (startCand p lane x free s) := by
  unfold startCand
  extract_lets -underBinder
  split
  · split
    · exact putFrame_canonical (countSent_canonical (setAux_canonical (ackSent_canonical (setConn_canonical h))))
    · exact h
  · exact putFrame_canonical (countEvent_canonical (countWear_canonical (setConn_canonical h)))
  · split
    · exact startFresh_canonical h
    · exact h

theorem endCredit_canonical {p c cls} (h : memoriesCanonical s) : memoriesCanonical (endCredit p c cls s) :=
  ite_canonical h (setFport_canonical h)

theorem execFrameStartState_canonical {p} (h : memoriesCanonical s) : memoriesCanonical (execFrameStartState p s) := by
  unfold execFrameStartState
  split
  · exact h
  · split
    · exact endCredit_canonical (startCand_canonical (setFport_canonical h))
    · split
      · exact endCredit_canonical (startCand_canonical (setFport_canonical h))
      · exact h

theorem execFrameReceiveState_canonical {p x} (h : memoriesCanonical s) :
    memoriesCanonical (execFrameReceiveState p x s) := by
  unfold execFrameReceiveState
  extract_lets -underBinder _ s₁ _ _ _ _ s₂
  have hs₁ : memoriesCanonical s₁ := ite_canonical h (fecEvents_canonical h)
  exact ite_canonical hs₁ <|
    ite_canonical (countEvent_canonical hs₁) <|
    ite_canonical (countEvent_canonical hs₁) <|
    ite_canonical (countEvent_canonical hs₁) <|
    ite_canonical (countEvent_canonical hs₁) (ite_canonical (setFport_canonical hs₁) (countEvent_canonical hs₁))

/-! ### Transport -/

theorem takeAck_canonical {c hdr} (h : memoriesCanonical s) : memoriesCanonical (takeAck c hdr s) :=
  rollCheck_canonical (setConn_canonical h)

theorem takeRoll_canonical {c e hdr} (h : memoriesCanonical s) : memoriesCanonical (takeRoll c e hdr s) :=
  rollCheck_canonical (setConn_canonical h)

theorem handMessage_canonical {c x done} (h : memoriesCanonical s) : memoriesCanonical (handMessage c x done s) :=
  ite_canonical (toRing_canonical h) h

theorem handOn_canonical {c class0 n} (h : memoriesCanonical s) : memoriesCanonical (handOn c class0 n s) := by
  induction n generalizing s with
  | zero => exact h
  | succ n ih =>
    unfold handOn
    dsimp only
    split
    · exact h
    · split
      · exact ih (setConn_canonical h)
      · split
        · exact ih (handMessage_canonical (setConn_canonical h))
        · exact h

theorem killPartial_canonical {c x} (h : memoriesCanonical s) : memoriesCanonical (killPartial c x s) :=
  giveUnits_canonical (setConn_canonical h)

theorem takeSegment_canonical {p c hdr seg beyond} (h : memoriesCanonical s) :
    memoriesCanonical (takeSegment p c hdr seg beyond s) := by
  unfold takeSegment
  extract_lets -underBinder _ _ s₁
  have hs₁ : memoriesCanonical s₁ := ite_canonical (countEvent_canonical h) h
  exact ite_canonical (giveUnits_canonical (setConn_canonical hs₁)) <|
    ite_canonical (giveUnits_canonical (killPartial_canonical (ite_canonical hs₁ (countEvent_canonical hs₁)))) <|
    setConn_canonical hs₁

theorem settleRx_canonical {c} (h : memoriesCanonical s) : memoriesCanonical (settleRx c s) :=
  setConn_canonical (foldl_canonical (fun _ _ h => killPartial_canonical (countEvent_canonical h)) h)

theorem holdFrame_canonical {p c hdr seg} (h : memoriesCanonical s) : memoriesCanonical (holdFrame p c hdr seg s) := by
  unfold holdFrame
  extract_lets -underBinder _ _ _ _ s101 _ _ _ _ s₁
  have hs101 : memoriesCanonical s101 := setConn_canonical h
  have hs₁ : memoriesCanonical s₁ := takeSegment_canonical (setAux_canonical (setConn_canonical hs101))
  exact handOn_canonical (handOn_canonical (settleRx_canonical (setConn_canonical hs₁)))

theorem takePsn_canonical {p c hdr seg} (h : memoriesCanonical s) : memoriesCanonical (takePsn p c hdr seg s) :=
  ite_canonical (setAux_canonical (countEvent_canonical h)) <|
    ite_canonical (countEvent_canonical h) (ite_canonical (countEvent_canonical h) (holdFrame_canonical h))

theorem execTfxFrameAcceptState_canonical {p} (h : memoriesCanonical s) :
    memoriesCanonical (execTfxFrameAcceptState p s) := by
  unfold execTfxFrameAcceptState
  extract_lets -underBinder
  split
  · exact h
  · split
    · exact h
    · extract_lets -underBinder s₁
      have hs₁ : memoriesCanonical s₁ := setFport_canonical h
      split
      · exact countEvent_canonical hs₁
      · split
        · exact countEvent_canonical hs₁
        · split
          · exact countEvent_canonical hs₁
          · split
            · exact countEvent_canonical hs₁
            · extract_lets -underBinder s₂
              have hs₂ : memoriesCanonical s₂ := takeRoll_canonical (takeAck_canonical hs₁)
              split
              · exact ite_canonical hs₂ (takePsn_canonical hs₂)
              · exact ite_canonical hs₂ (takePsn_canonical hs₂)
              · exact hs₂
              · exact hs₂
              · exact hs₂

theorem execAckSendState_canonical {c} (h : memoriesCanonical s) : memoriesCanonical (execAckSendState c s) :=
  ite_canonical (setAux_canonical h) h

theorem execRetransmitState_canonical {c psn} (h : memoriesCanonical s) :
    memoriesCanonical (execRetransmitState c psn s) := by
  unfold execRetransmitState
  extract_lets -underBinder
  split
  · exact h
  · exact ite_canonical (setConn_canonical h) <|
      ite_canonical (ite_canonical (failConn_canonical h) (setConn_canonical h)) h

theorem execRollStallState_canonical {c} (h : memoriesCanonical s) : memoriesCanonical (execRollStallState c s) :=
  ite_canonical (raise_canonical (tally_canonical (setAux_canonical h))) h

theorem execCreditShrinkState_canonical {c} (h : memoriesCanonical s) : memoriesCanonical (execCreditShrinkState c s) :=
  ite_canonical (setAux_canonical (setConn_canonical h)) h

theorem execClosingEndState_canonical {c} (h : memoriesCanonical s) : memoriesCanonical (execClosingEndState c s) :=
  ite_canonical (toKeyless_canonical (ite_canonical (erasePos_canonical (erasePos_canonical h)) h)) h

/-! ### Remote -/

theorem setRegion_canonical {i r} (h : memoriesCanonical s) : memoriesCanonical (setRegion i r s) :=
  h

theorem regionWrite_canonical {r off bs} (h : memoriesCanonical s) : memoriesCanonical (regionWrite r off bs s) :=
  ite_canonical (b2Write_canonical h) (host_canonical h (wf_memWrite (host_wf h) _ _))

theorem setTrigger_canonical {i t} (h : memoriesCanonical s) : memoriesCanonical (setTrigger i t s) :=
  h

theorem fireOne_canonical {w} (h : memoriesCanonical s) : memoriesCanonical (fireOne s w) := by
  unfold fireOne
  extract_lets -underBinder _ s₁
  split
  · exact endWorkReq_canonical h
  · exact submitMsg_canonical h

theorem fireAll_canonical {i} (h : memoriesCanonical s) : memoriesCanonical (fireAll i s) :=
  foldl_canonical (fun _ _ h => fireOne_canonical h) h

theorem raiseTrigger_canonical {c i count} (h : memoriesCanonical s) : memoriesCanonical (raiseTrigger c i count s) :=
  ite_canonical (fireAll_canonical (setTrigger_canonical h)) (countEvent_canonical h)

theorem answer_canonical {c m kind status bytes data} (h : memoriesCanonical s) :
    memoriesCanonical (answer c m kind status bytes data s) :=
  queueMsg_canonical h

theorem takeRemote_canonical {c typ run} (hrun : ∀ a b, KeepsCanonical (run a b)) (h : memoriesCanonical s) :
    memoriesCanonical (takeRemote c typ run s) := by
  unfold takeRemote
  split
  · exact h
  · exact ite_canonical h (hrun _ _ (returnCredit_canonical (inboxTake_canonical h)))

theorem onRegion_canonical {c right n bodyBad fenced dma regionBad m run} (hrun : ∀ r, KeepsCanonical (run r))
    (h : memoriesCanonical s) : memoriesCanonical (onRegion c right n bodyBad fenced dma regionBad m run s) := by
  unfold onRegion
  dsimp only
  split
  · exact ite_canonical (hrun _ h) (answer_canonical h)
  · exact answer_canonical (ite_canonical (countEvent_canonical h) h)

theorem execRdmaRdState_canonical {c dmaError} (h : memoriesCanonical s) :
    memoriesCanonical (execRdmaRdState c dmaError s) :=
  takeRemote_canonical (fun _ _ _ h => onRegion_canonical (fun _ _ h => answer_canonical h) h) h

theorem execRdmaWrState_canonical {c dmaError} (h : memoriesCanonical s) :
    memoriesCanonical (execRdmaWrState c dmaError s) := by
  unfold execRdmaWrState
  exact takeRemote_canonical
      (fun _ _ _ h =>
          onRegion_canonical
            (fun _ _ h =>
                ite_canonical
                  (ite_canonical (raiseTrigger_canonical (regionWrite_canonical h)) (regionWrite_canonical h))
                  (answer_canonical <|
                    ite_canonical (raiseTrigger_canonical (regionWrite_canonical h)) (regionWrite_canonical h)))
            h)
      h

theorem execAtomicState_canonical {c} (h : memoriesCanonical s) : memoriesCanonical (execAtomicState c s) :=
  takeRemote_canonical
      (fun _ _ _ h => onRegion_canonical (fun _ _ h => answer_canonical (regionWrite_canonical h)) h) h

theorem execTrigState_canonical {c} (h : memoriesCanonical s) : memoriesCanonical (execTrigState c s) :=
  takeRemote_canonical (fun _ _ _ h => ite_canonical h (raiseTrigger_canonical h)) h

theorem execRespState_canonical {c} (h : memoriesCanonical s) : memoriesCanonical (execRespState c s) := by
  unfold execRespState
  split
  · exact h
  · extract_lets -underBinder s₁
    have hs₁ : memoriesCanonical s₁ := inboxTake_canonical h
    split
    · exact ite_canonical (toRing_canonical hs₁) (returnCredit_canonical hs₁)
    · extract_lets -underBinder s₂
      have hs₂ : memoriesCanonical s₂ := setAux_canonical hs₁
      split
      · exact toRing_canonical hs₂
      · split
        · exact endWorkReq_canonical (toRing_canonical hs₂)
        · exact returnCredit_canonical hs₂
      · exact ite_canonical (emit_canonical hs₂) (abortLoad_canonical (returnCredit_canonical hs₂))
      · exact returnCredit_canonical hs₂
      · exact returnCredit_canonical hs₂
      · exact returnCredit_canonical hs₂

theorem takeTag_canonical (h : memoriesCanonical s) : memoriesCanonical (takeTag s).2 :=
  h

theorem execRemoteLoadState_canonical {off n} (h : memoriesCanonical s) :
    memoriesCanonical (execRemoteLoadState off n s) := by
  unfold execRemoteLoadState
  split
  · exact emit_canonical h
  · extract_lets -underBinder _ _ _ _ _ s₁
    split
    · exact ite_canonical h (abortLoad_canonical h)
    · exact submitMsg_canonical (takeTag_canonical h)

theorem execRemoteStoreState_canonical {off data} (h : memoriesCanonical s) :
    memoriesCanonical (execRemoteStoreState off data s) :=
  ite_canonical (emit_canonical h) (ite_canonical (raise_canonical h) (queueMsg_canonical (takeTag_canonical h)))

theorem execDeadTargetState_canonical {id} (h : memoriesCanonical s) : memoriesCanonical (execDeadTargetState id s) := by
  unfold execDeadTargetState
  split
  · exact h
  · exact ite_canonical (raise_canonical (tally_canonical (emit_canonical (setAux_canonical h)))) h

theorem runTransport_canonical {f op fs reasons ok} (hok : ∀ a, KeepsCanonical (ok a)) (h : memoriesCanonical s) :
    memoriesCanonical (runTransport f op fs reasons ok s) :=
  runCmd_canonical (fun _ _ h => hok _ h) h

theorem execSendState_canonical {f} (h : memoriesCanonical s) : memoriesCanonical (execSendState f s) := by
  unfold execSendState
  refine runTransport_canonical (fun _ _ h => ?_) h
  extract_lets -underBinder
  split
  · exact endCmd_canonical h
  · exact endCmd_canonical (submitMsg_canonical h)

theorem execRegionRegState_canonical {f} (h : memoriesCanonical s) : memoriesCanonical (execRegionRegState f s) :=
  runTransport_canonical (fun _ _ h => endCmd_canonical (setRegion_canonical h)) h

theorem execRegionDeregState_canonical {f} (h : memoriesCanonical s) : memoriesCanonical (execRegionDeregState f s) :=
  runTransport_canonical (fun _ _ h => endCmd_canonical (setRegion_canonical h)) h

theorem execRingBindState_canonical {f} (h : memoriesCanonical s) : memoriesCanonical (execRingBindState f s) :=
  runTransport_canonical (fun _ _ h => endCmd_canonical (setAux_canonical h)) h

theorem execCounterResetState_canonical {f} (h : memoriesCanonical s) : memoriesCanonical (execCounterResetState f s) :=
  runTransport_canonical (fun _ _ h => endCmd_canonical (setTrigger_canonical h)) h

theorem execPostWrState_canonical {f} (h : memoriesCanonical s) : memoriesCanonical (execPostWrState f s) := by
  unfold execPostWrState
  exact runTransport_canonical
      (fun _ _ h =>
          ite_canonical (fireOne_canonical (endCmd_canonical (pick_canonical h))) <|
          endCmd_canonical (pick_canonical h))
      h

theorem execWrCancelState_canonical {f} (h : memoriesCanonical s) : memoriesCanonical (execWrCancelState f s) :=
  runTransport_canonical (fun _ _ h => endCmd_canonical h) h

theorem execConnCloseState_canonical {f} (h : memoriesCanonical s) : memoriesCanonical (execConnCloseState f s) :=
  runTransport_canonical (fun _ _ h => endCmd_canonical (closeConn_canonical h)) h

/-! ### Rings -/

theorem ringComplete_canonical {i status bytes m} (h : memoriesCanonical s) :
    memoriesCanonical (ringComplete i status bytes m s) :=
  interrupt_canonical (setRing_canonical (host_canonical h (wf_memWrite (host_wf h) _ _)))

theorem ringCredit_canonical {m n} (h : memoriesCanonical s) : memoriesCanonical (ringCredit m n s) := by
  unfold ringCredit
  split
  · exact returnCredit_canonical h
  · exact h

theorem fillPlaces_wf {l bs m n} (hm : Memory.wf m = true) : Memory.wf (fillPlaces l bs m n).1 = true := by
  induction l generalizing bs m n with
  | nil => exact hm
  | cons x t ih =>
    unfold fillPlaces
    split
    · exact wf_memWrite hm _ _
    · exact ih (wf_memWrite hm _ _)

theorem ringFrame_canonical {i m} (h : memoriesCanonical s) : memoriesCanonical (ringFrame i m s) := by
  have filled := fun l bs => host_canonical h (fillPlaces_wf (l := l) (bs := bs) (n := 0) (host_wf h))
  exact ite_canonical (ringComplete_canonical (ringCredit_canonical (setRing_canonical (filled _ _))))
    (ringCredit_canonical (setRing_canonical (filled _ _)))

theorem execRingWriteState_canonical {i} (h : memoriesCanonical s) : memoriesCanonical (execRingWriteState i s) := by
  unfold execRingWriteState
  extract_lets -underBinder
  split
  · exact h
  · extract_lets -underBinder
    exact ite_canonical (ringComplete_canonical (setRing_canonical h)) <|
      ite_canonical (ite_canonical h (countEvent_canonical (setRing_canonical h))) (ringFrame_canonical h)

theorem hostStore_canonical {x} (h : memoriesCanonical s) : memoriesCanonical (hostStore s x) :=
  ite_canonical (b2Write_canonical h) (host_canonical h (wf_memWrite (host_wf h) _ _))

theorem execPostState_canonical {i value stores} (h : memoriesCanonical s) :
    memoriesCanonical (execPostState i value stores s) :=
  setRing_canonical (foldl_canonical (fun _ _ h => hostStore_canonical h) h)

theorem ringShort_canonical {i} (h : memoriesCanonical s) : memoriesCanonical (ringShort i s) := by
  unfold ringShort
  extract_lets -underBinder
  split
  · exact h
  · exact countEvent_canonical (ringComplete_canonical (ringCredit_canonical h))

theorem execReclaimState_canonical {i value} (h : memoriesCanonical s) : memoriesCanonical (execReclaimState i value s) :=
  ite_canonical h (ite_canonical (ringShort_canonical (setRing_canonical h)) (setRing_canonical h))

theorem execRingLeaseExpiryState_canonical {i} (h : memoriesCanonical s) :
    memoriesCanonical (execRingLeaseExpiryState i s) := by
  unfold execRingLeaseExpiryState
  extract_lets -underBinder
  split
  · exact h
  · exact ite_canonical (raise_canonical (tally_canonical (ringShort_canonical h))) h

/-! ### Scraper -/

theorem markScrape_canonical {p home on} (h : memoriesCanonical s) : memoriesCanonical (markScrape p home on s) :=
  h

theorem scrapePage_canonical {p home acc n} (h : memoriesCanonical acc.2) :
    memoriesCanonical (scrapePage p home acc n).2 := by
  unfold scrapePage
  extract_lets -underBinder _ s₁ _ down
  have hdown : memoriesCanonical down.2 := ite_snd_canonical
      (getD_snd_canonical (fun _ e => toFlash_canonical e h) h) h
  exact ite_snd_canonical (getD_snd_canonical (fun _ e => toVault_canonical e h) hdown) hdown

theorem scrapeUnit_canonical {p home q} (h : memoriesCanonical s) : memoriesCanonical (scrapeUnit p home q s) := by
  unfold scrapeUnit
  split
  · exact h
  · exact ite_canonical h (startChange_canonical (foldl_snd_canonical (fun _ _ h => scrapePage_canonical h) h))

theorem scrapeNext_canonical {p home} (h : memoriesCanonical s) : memoriesCanonical (scrapeNext p home s) := by
  unfold scrapeNext
  split
  · exact scrapeUnit_canonical h
  · exact h

theorem execScraperEvictState_canonical {p home} (h : memoriesCanonical s) :
    memoriesCanonical (execScraperEvictState p home s) :=
  ite_canonical h <|
    ite_canonical (driveChanges_canonical h) <|
    ite_canonical (scrapeNext_canonical (markScrape_canonical h)) (markScrape_canonical h)

theorem burn_canonical {st n} (h : memoriesCanonical s) : memoriesCanonical (burn st n s) :=
  h

theorem zeroSlot_canonical {slot} (h : memoriesCanonical s) : memoriesCanonical (zeroSlot s slot) :=
  stk_canonical h (wf_zeroPages (stk_wf h) _ _)

theorem zeroSome_canonical {st n} (h : memoriesCanonical s) : memoriesCanonical (zeroSome st n s) := by
  induction n generalizing s with
  | zero => exact h
  | succ n ih =>
    unfold zeroSome
    dsimp only
    split
    · exact h
    · exact ih (burn_canonical (zeroSlot_canonical (pick_canonical h)))

theorem execBurnisherZeroState_canonical {st} (h : memoriesCanonical s) : memoriesCanonical (execBurnisherZeroState st s) :=
  zeroSome_canonical h

theorem execReverifyState_canonical {slot ue} (h : memoriesCanonical s) :
    memoriesCanonical (execReverifyState slot ue s) := by
  unfold execReverifyState
  extract_lets -underBinder _ _ s₁ s₂
  have hs₁ : memoriesCanonical s₁ := burn_canonical h
  have hs₂ : memoriesCanonical s₂ := countUe_canonical hs₁
  exact ite_canonical h <|
    ite_canonical
      (postDrops_canonical <|
        foldl_canonical (fun _ _ h => noteDrops_canonical (countEvent_canonical (stateSwap_canonical h))) hs₂)
      (foldl_canonical (fun _ _ h => stateSwap_canonical h) hs₁)

theorem execWriteBackPassState_canonical {p} (h : memoriesCanonical s) :
    memoriesCanonical (execWriteBackPassState p s) := by
  unfold execWriteBackPassState
  dsimp only
  split
  · exact h
  · split
    · exact h
    · split
      · next started => exact frame_canonical (startProgram_canonical started (linkUsed_canonical h)) rfl rfl
      · exact h

theorem execZeroSlotsState_canonical {f} (h : memoriesCanonical s) : memoriesCanonical (execZeroSlotsState f s) :=
  runCmd_canonical (fun _ _ h => endCmd_canonical (stk_canonical h (wf_zeroPages (stk_wf h) _ _))) h

theorem execZeroTilesState_canonical {f} (h : memoriesCanonical s) : memoriesCanonical (execZeroTilesState f s) :=
  runCmd_canonical (fun _ _ h => endCmd_canonical (stk_canonical h (wf_zeroPages (stk_wf h) _ _))) h

theorem execZeroB2State_canonical {f} (h : memoriesCanonical s) : memoriesCanonical (execZeroB2State f s) :=
  runCmd_canonical
    (fun _ _ h => endCmd_canonical (bar2_canonical h (foldl_wf (fun _ _ hm => wf_memZero hm _ _) (bar2_wf h)))) h

theorem endStalled_canonical {op ok} (h : memoriesCanonical s) : memoriesCanonical (endStalled op ok s) := by
  unfold endStalled
  split
  · exact ite_canonical (mounted_canonical h) h
  · split
    · exact h
    · exact ite_canonical (tileProgress_canonical (freeTile_canonical h)) <|
        ite_canonical (tileStood_canonical h) (tileProgress_canonical (freeTile_canonical h))
  · split
    · exact h
    · next found =>
      exact ite_canonical (programOk_canonical (program_image h (List.mem_of_find?_eq_some found)) h)
        (postDrops_canonical (pageProgress_canonical (filterPrograms_canonical h)))
  · exact exportUnstall_canonical h
  · exact ite_canonical (driveChanges_canonical h)
      (frame_canonical (foldl_canonical (fun _ _ h => leaveOut_canonical h) h) rfl rfl)
  · split
    · exact h
    · exact ite_canonical (tierEffect_canonical h) (endCmd_canonical h)

theorem execTierStallRetryState_canonical {ok} (h : memoriesCanonical s) :
    memoriesCanonical (execTierStallRetryState ok s) := by
  unfold execTierStallRetryState
  split
  · exact h
  · exact ite_canonical h (ite_canonical (endStalled_canonical (endStall_canonical h)) h)

theorem execFshCtrlSkipState_canonical (h : memoriesCanonical s) : memoriesCanonical (execFshCtrlSkipState s) := by
  unfold execFshCtrlSkipState
  split
  · exact h
  · exact endStalled_canonical (endStall_canonical h)

/-! ### PlateBits -/

theorem writeStore_canonical {addr b} (h : memoriesCanonical s) : memoriesCanonical (writeStore addr b s) :=
  stk_canonical h (foldl_wf (fun _ _ hm => wf_memWrite hm _ _) (stk_wf h))

theorem activate_canonical {p} (h : memoriesCanonical s) : memoriesCanonical (activate p s) :=
  writeStore_canonical h

/-! ### Trust -/

theorem mbxEnd_canonical {code reason resp} (h : memoriesCanonical s) : memoriesCanonical (mbxEnd code reason resp s) :=
  mbxResp_canonical h (wf_memWrite (mbxResp_wf h) _ _)

theorem mbxRefuse_canonical {reason} (h : memoriesCanonical s) : memoriesCanonical (mbxRefuse reason s) :=
  mbxEnd_canonical h

theorem mbxHold_canonical (h : memoriesCanonical s) : memoriesCanonical (mbxHold s) :=
  h

theorem mailbox_canonical {cmd lenOk ok} (hok : ∀ a, KeepsCanonical (ok a)) (h : memoriesCanonical s) :
    memoriesCanonical (mailbox cmd lenOk ok s) :=
  ite_canonical h (ite_canonical (mbxRefuse_canonical h) (ite_canonical (mbxRefuse_canonical h) (hok _ h)))

theorem answerKey_canonical {via code reason resp} (h : memoriesCanonical s) :
    memoriesCanonical (answerKey via code reason resp s) := by
  unfold answerKey
  split
  · exact mbxEnd_canonical h
  · exact emit_canonical h

theorem queueCurve_canonical {op} (h : memoriesCanonical s) : memoriesCanonical (queueCurve op s) :=
  h

theorem drawGo_canonical {c epoch n} (h : memoriesCanonical s) : memoriesCanonical (drawGo c epoch n s).2 := by
  induction n generalizing s with
  | zero => exact h
  | succ n ih =>
    unfold drawGo
    dsimp only
    split
    · exact ih h
    · exact h

theorem offerKey_canonical {via a} (h : memoriesCanonical s) : memoriesCanonical (offerKey via a s) := by
  unfold offerKey
  extract_lets -underBinder
  split
  · exact answerKey_canonical h
  · split
    · exact answerKey_canonical h
    · exact queueCurve_canonical (ite_canonical (mbxHold_canonical (drawGo_canonical h)) (drawGo_canonical h))

theorem dropOffer_canonical {c epoch} (h : memoriesCanonical s) : memoriesCanonical (dropOffer c epoch s) :=
  h

theorem acceptKey_canonical {via a} (h : memoriesCanonical s) : memoriesCanonical (acceptKey via a s) := by
  unfold acceptKey
  extract_lets -underBinder
  split
  · exact answerKey_canonical h
  · split
    · exact answerKey_canonical h
    · exact ite_canonical (answerKey_canonical h) (queueCurve_canonical (ite_canonical (mbxHold_canonical h) h))

theorem eraseKey_canonical {via a} (h : memoriesCanonical s) : memoriesCanonical (eraseKey via a s) := by
  unfold eraseKey
  extract_lets -underBinder
  split
  · exact answerKey_canonical h
  · split
    · exact answerKey_canonical h
    · extract_lets -underBinder s₁
      have hs₁ : memoriesCanonical s₁ := ite_canonical (eraseConnKey_canonical h) h
      exact answerKey_canonical (ite_canonical (eraseConnKey_canonical hs₁) hs₁)

theorem installConnKey_canonical {c epoch key} (h : memoriesCanonical s) :
    memoriesCanonical (installConnKey c epoch key s) := by
  unfold installConnKey
  extract_lets -underBinder _ _ s₁
  have hs₁ : memoriesCanonical s₁ := freshEpoch_canonical (installPos_canonical h)
  split
  · exact setAux_canonical (setConn_canonical hs₁)
  · exact ite_canonical (rollCheck_canonical (setConn_canonical hs₁)) hs₁
  · exact hs₁
  · exact hs₁
  · exact hs₁

theorem spdmError_canonical {b code} (h : memoriesCanonical s) : memoriesCanonical (spdmError b code s) :=
  emit_canonical h

theorem curveResult_canonical {op} (h : memoriesCanonical s) : memoriesCanonical (curveResult op s) := by
  unfold curveResult
  split
  · exact queueCurve_canonical h
  · exact answerKey_canonical h
  · split
    · exact answerKey_canonical (countEvent_canonical h)
    · split
      · exact answerKey_canonical h
      · exact answerKey_canonical h
      · exact answerKey_canonical (dropOffer_canonical (installConnKey_canonical h))
  · exact ite_canonical (mbxEnd_canonical (countEvent_canonical h)) <|
      ite_canonical (mbxEnd_canonical (countEvent_canonical h)) (mbxEnd_canonical h)
  · exact emit_canonical h
  · exact ite_canonical (spdmError_canonical (countEvent_canonical h)) (emit_canonical h)

theorem execCurveOpDoneState_canonical (h : memoriesCanonical s) : memoriesCanonical (execCurveOpDoneState s) := by
  unfold execCurveOpDoneState
  split
  · exact h
  · exact ite_canonical h (curveResult_canonical h)

theorem execOfferExpiryState_canonical {c epoch} (h : memoriesCanonical s) :
    memoriesCanonical (execOfferExpiryState c epoch s) :=
  h

theorem keyCommand_canonical {cmd len go} (hgo : ∀ a b, KeepsCanonical (go a b)) (h : memoriesCanonical s) :
    memoriesCanonical (keyCommand cmd len go s) := by
  unfold keyCommand
  split
  · exact ite_canonical (answerKey_canonical h) (ite_canonical (hgo _ _ h) (answerKey_canonical h))
  · exact mailbox_canonical (fun _ _ h => hgo _ _ h) h

theorem execKeyOfferState_canonical (h : memoriesCanonical s) : memoriesCanonical (execKeyOfferState s) :=
  keyCommand_canonical (fun _ _ _ h => offerKey_canonical h) h

theorem execKeyAcceptState_canonical (h : memoriesCanonical s) : memoriesCanonical (execKeyAcceptState s) :=
  keyCommand_canonical (fun _ _ _ h => acceptKey_canonical h) h

theorem execKeyEraseState_canonical (h : memoriesCanonical s) : memoriesCanonical (execKeyEraseState s) :=
  keyCommand_canonical (fun _ _ _ h => eraseKey_canonical h) h

theorem execFuseSvnState_canonical (h : memoriesCanonical s) : memoriesCanonical (execFuseSvnState s) :=
  mailbox_canonical (fun _ _ h => ite_canonical (mbxRefuse_canonical h) (mbxEnd_canonical (ite_canonical h h))) h

theorem execCurveMultState_canonical (h : memoriesCanonical s) : memoriesCanonical (execCurveMultState s) :=
  mailbox_canonical (fun _ _ h => queueCurve_canonical (mbxHold_canonical h)) h

theorem startScrub_canonical {tenant id running} (h : memoriesCanonical s) :
    memoriesCanonical (startScrub tenant id running s) := by
  unfold startScrub
  split
  · exact ite_canonical h h
  · exact h

theorem execScrubState_canonical (h : memoriesCanonical s) : memoriesCanonical (execScrubState s) :=
  mailbox_canonical
      (fun _ _ h =>
          ite_canonical (mbxRefuse_canonical h) (mbxEnd_canonical (ite_canonical h (startScrub_canonical h))))
      h

theorem scrubKeys_canonical {x} (h : memoriesCanonical s) : memoriesCanonical (scrubKeys x s) := by
  unfold scrubKeys
  extract_lets -underBinder s₁
  have hs₁ : memoriesCanonical s₁ := foldl_canonical
      (fun _ _ h =>
          ite_canonical (eraseConnKey_canonical (eraseConnKey_canonical h)) <|
          erasePos_canonical (erasePos_canonical h))
      h
  exact foldl_canonical (fun _ _ h => erasePos_canonical h) hs₁

theorem scrubContexts_canonical {x} (h : memoriesCanonical s) : memoriesCanonical (scrubContexts x s).2 := by
  unfold scrubContexts
  extract_lets -underBinder ctxs s₁ es exts x₁ s₂ s₃ tails
  have hs₁ : memoriesCanonical s₁ := by
    refine foldl_canonical (fun _ _ h => ?_) h
    exact ite_canonical h h
  have hs₂ : memoriesCanonical s₂ := foldl_canonical (fun _ _ h => ite_canonical (extToGrace_canonical (writeEntry_canonical h)) <|
    ite_canonical (releaseLost_canonical (writeEntry_canonical h)) <| ite_canonical (writeEntry_canonical h) h) hs₁
  have hs₃ : memoriesCanonical s₃ := by
    refine ite_canonical hs₂ (foldl_canonical (fun _ _ h => ?_) hs₂)
    split
    · exact freeExtent_canonical h
    all_goals exact h
  exact hs₃

theorem zeroSlotRange_canonical {r} (h : memoriesCanonical s) : memoriesCanonical (zeroSlotRange s r) :=
  stk_canonical h (wf_zeroPages (stk_wf h) _ _)

theorem zeroTileRange_canonical {r} (h : memoriesCanonical s) : memoriesCanonical (zeroTileRange s r) :=
  stk_canonical h (wf_zeroPages (stk_wf h) _ _)

theorem zeroCtx_canonical {c} (h : memoriesCanonical s) : memoriesCanonical (zeroCtx s c) :=
  h

theorem scrubZero_canonical {x} (h : memoriesCanonical s) : memoriesCanonical (scrubZero x s) := by
  unfold scrubZero
  extract_lets -underBinder one s₁ s₂ s₃ s₄ s₅ _ _ _ _ s₆
  have hs₁ : memoriesCanonical s₁ := foldl_canonical (fun _ _ h => zeroSlotRange_canonical h) h
  have hs₂ : memoriesCanonical s₂ := foldl_canonical (fun _ _ h => zeroTileRange_canonical h) hs₁
  have hs₃ : memoriesCanonical s₃ := ite_canonical hs₂ <|
    foldl_canonical (fun _ _ h => bar2_canonical h (wf_memZero (bar2_wf h) _ _)) hs₂
  have hs₄ : memoriesCanonical s₄ := foldl_canonical (fun _ _ h => setExtent_canonical h) hs₃
  have hs₅ : memoriesCanonical s₅ := foldl_canonical (fun _ _ h => zeroCtx_canonical h) hs₄
  have hs₆ : memoriesCanonical s₆ := ite_canonical hs₅ hs₅
  exact hs₆

theorem scrubFlash_canonical {x} (h : memoriesCanonical s) : memoriesCanonical (scrubFlash x s) :=
  foldl_canonical (fun _ _ h => ite_canonical (eraseBlock_canonical h) (relocateBlock_canonical h)) <|
    unplace_canonical h

theorem scrubSheets_canonical {x} (h : memoriesCanonical s) : memoriesCanonical (scrubSheets x s) :=
  ite_canonical h h

theorem scrubWork_canonical {x} (h : memoriesCanonical s) : memoriesCanonical (scrubWork x s).2 :=
  ite_snd_canonical (scrubKeys_canonical h) <|
    ite_snd_canonical (scrubContexts_canonical h) <|
    ite_snd_canonical (scrubZero_canonical h) <|
    ite_snd_canonical (scrubFlash_canonical h) (ite_snd_canonical (scrubSheets_canonical h) h)

theorem scrubVerified_canonical {x ok} (h : memoriesCanonical s) : memoriesCanonical (scrubVerified x ok s) :=
  ite_canonical h (ite_canonical (raise_canonical (tally_canonical h)) h)

theorem execScrubStepState_canonical {tenant id ok} (h : memoriesCanonical s) :
    memoriesCanonical (execScrubStepState tenant id ok s) := by
  unfold execScrubStepState
  split
  · exact h
  · exact ite_canonical h (ite_canonical (scrubVerified_canonical h) (scrubWork_canonical h))

theorem execGetMeasurementsState_canonical {b session nonce} (h : memoriesCanonical s) :
    memoriesCanonical (execGetMeasurementsState b session nonce s) :=
  ite_canonical h (ite_canonical (queueCurve_canonical h) (spdmError_canonical h))

theorem execKeyExchangeState_canonical {b q} (h : memoriesCanonical s) : memoriesCanonical (execKeyExchangeState b q s) :=
  ite_canonical h (ite_canonical (spdmError_canonical h) (queueCurve_canonical h))

theorem setStream_canonical {n v} (h : memoriesCanonical s) : memoriesCanonical (setStream n v s) :=
  h

theorem execIdeKmState_canonical {session stream key vf} (h : memoriesCanonical s) :
    memoriesCanonical (execIdeKmState session stream key vf s) :=
  ite_canonical h (setStream_canonical h)

theorem setTdi_canonical {n t} (h : memoriesCanonical s) : memoriesCanonical (setTdi n t s) :=
  h

theorem tdiError_canonical {running vf} (h : memoriesCanonical s) : memoriesCanonical (tdiError running s vf) := by
  unfold tdiError
  split
  · exact ite_canonical (startScrub_canonical (setTdi_canonical h)) (startScrub_canonical (setTdi_canonical h))
  · exact ite_canonical (startScrub_canonical (setTdi_canonical h)) (startScrub_canonical (setTdi_canonical h))
  · exact h
  · exact h

theorem execIdeFailState_canonical {stream} (h : memoriesCanonical s) : memoriesCanonical (execIdeFailState stream s) := by
  unfold execIdeFailState
  split
  · exact h
  · split
    · exact h
    · extract_lets -underBinder s₁
      have hs₁ : memoriesCanonical s₁ := countEvent_canonical (setStream_canonical h)
      split
      · exact tdiError_canonical hs₁
      · exact hs₁

theorem execLockInterfaceState_canonical {vf session} (h : memoriesCanonical s) :
    memoriesCanonical (execLockInterfaceState vf session s) :=
  ite_canonical h h

theorem execStartInterfaceState_canonical {vf} (h : memoriesCanonical s) :
    memoriesCanonical (execStartInterfaceState vf s) :=
  ite_canonical (setTdi_canonical h) h

theorem execStopInterfaceState_canonical {vf} (h : memoriesCanonical s) :
    memoriesCanonical (execStopInterfaceState vf s) := by
  unfold execStopInterfaceState
  split
  · exact h
  · split
    · exact startScrub_canonical (setTdi_canonical h)
    · exact startScrub_canonical (setTdi_canonical h)
    · exact startScrub_canonical (setTdi_canonical h)
    · exact h

theorem deferRequest_canonical {unit part request} (h : memoriesCanonical s) :
    memoriesCanonical (deferRequest unit part request s) :=
  logEvent_canonical (tally_canonical h)

theorem cutKeys_canonical (h : memoriesCanonical s) : memoriesCanonical (cutKeys s) := by
  unfold cutKeys
  extract_lets -underBinder _ s₁ _ _ s₂
  have hs₁ : memoriesCanonical s₁ := foldl_canonical (fun _ _ h => tdiError_canonical h) h
  exact ite_canonical hs₁ (countEvent_canonical hs₁)

/-! ### HostCmds -/

theorem acceptList_canonical {f cls off ncmd} (h : memoriesCanonical s) : memoriesCanonical (acceptList f cls off ncmd s) :=
  settle_canonical (setQueue_canonical h)

theorem execCqDoorbellState_canonical {f cls value stores} (h : memoriesCanonical s) :
    memoriesCanonical (execCqDoorbellState f cls value stores s) := by
  unfold execCqDoorbellState
  extract_lets -underBinder s₁
  have hs₁ : memoriesCanonical s₁ := foldl_canonical (fun _ _ h => hostStore_canonical h) h
  exact ite_canonical hs₁ <|
    ite_canonical (countEvent_canonical hs₁) (ite_canonical (countEvent_canonical hs₁) (acceptList_canonical hs₁))

theorem writeResults_canonical {f l} (h : memoriesCanonical s) : memoriesCanonical (writeResults f l s) :=
  foldl_canonical (fun _ _ h => b2Write_canonical h) h

theorem execListCompletionState_canonical {f cls} (h : memoriesCanonical s) :
    memoriesCanonical (execListCompletionState f cls s) := by
  unfold execListCompletionState
  extract_lets -underBinder
  split
  · exact h
  · exact ite_canonical h <|
      settle_canonical <|
      ite_canonical
        (interrupt_canonical (setQueue_canonical (b2Write_canonical (ite_canonical h (writeResults_canonical h)))))
        (setQueue_canonical (b2Write_canonical (ite_canonical h (writeResults_canonical h))))

theorem detachWork_canonical {f cls} (h : memoriesCanonical s) : memoriesCanonical (detachWork f cls s) :=
  ite_canonical h <| ite_canonical (mapPrograms_canonical h (fun _ => by split <;> rfl)) <|
    ite_canonical (endStall_canonical h) h

theorem disableQueue_canonical {f cls} (h : memoriesCanonical s) : memoriesCanonical (disableQueue f s cls) :=
  setQueue_canonical (detachWork_canonical h)

theorem execCqEnableState_canonical {f cls enable} (h : memoriesCanonical s) :
    memoriesCanonical (execCqEnableState f cls enable s) :=
  ite_canonical (ite_canonical h (setQueue_canonical h)) (disableQueue_canonical h)

theorem disableRing_canonical {i} (h : memoriesCanonical s) : memoriesCanonical (disableRing s i) :=
  foldl_canonical (fun _ _ h => ringCredit_canonical h) (setRing_canonical h)

theorem resetFn_canonical {f} (h : memoriesCanonical s) : memoriesCanonical (resetFn s f) :=
  foldl_canonical (fun _ _ h => disableRing_canonical h) <|
    foldl_canonical (fun _ _ h => disableQueue_canonical h) h

theorem execFlrState_canonical {f} (h : memoriesCanonical s) : memoriesCanonical (execFlrState f s) :=
  ite_canonical (tdiError_canonical (countEvent_canonical (resetFn_canonical h))) <|
    countEvent_canonical (resetFn_canonical h)

theorem linkLoss_canonical {l} (h : memoriesCanonical s) : memoriesCanonical (linkLoss l s) := by
  unfold linkLoss
  extract_lets -underBinder s₁
  have hs₁ : memoriesCanonical s₁ := countEvent_canonical (foldl_canonical (fun _ _ h => resetFn_canonical h) h)
  exact ite_canonical hs₁ hs₁

theorem execPerstState_canonical (h : memoriesCanonical s) : memoriesCanonical (execPerstState s) := by
  unfold execPerstState
  exact countEvent_canonical (host_frame_canonical (foldl_canonical (fun _ _ h => resetFn_canonical h) h))

theorem mapByte_canonical {page owner} (h : memoriesCanonical s) : memoriesCanonical (mapByte page owner s) := by
  unfold mapByte
  dsimp only
  split
  · exact h
  · split
    · exact logEvent_canonical h
    · exact ite_canonical (logEvent_canonical h) h

theorem mapBytes_canonical {page bs} (h : memoriesCanonical s) : memoriesCanonical (mapBytes page bs s) := by
  induction bs generalizing page s with
  | nil => exact h
  | cons b t ih =>
    unfold mapBytes
    dsimp only
    split
    · exact ih (ite_canonical (pick_canonical h) (mapByte_canonical (pick_canonical h)))
    · exact ih (mapByte_canonical h)

/-! ### PlateCmds -/

theorem plateRefused_canonical {reason sect} (h : memoriesCanonical s) : memoriesCanonical (plateRefused reason sect s) :=
  tally_canonical h

theorem loadRefused_canonical {delta reason sect} (h : memoriesCanonical s) :
    memoriesCanonical (loadRefused delta reason sect s) :=
  h

theorem execPltLoadState_canonical {stores} (h : memoriesCanonical s) : memoriesCanonical (execPltLoadState stores s) := by
  unfold execPltLoadState
  extract_lets -underBinder s₁ _ _ s₂
  have hs₁ : memoriesCanonical s₁ := foldl_canonical (fun _ _ h => hostStore_canonical h) h
  exact ite_canonical hs₁ <|
    ite_canonical (ite_canonical (loadRefused_canonical hs₁) hs₁) <|
    ite_canonical (loadRefused_canonical hs₁) (foldl_canonical (fun _ _ h => tdiError_canonical h) hs₁)

theorem execLoadCompleteState_canonical (h : memoriesCanonical s) : memoriesCanonical (execLoadCompleteState s) := by
  unfold execLoadCompleteState
  split
  · exact h
  · dsimp only
    split
    · exact loadRefused_canonical h
    · have stored := fun b => writeStore_canonical (addr := shadowAddr) (b := b) h
      exact ite_canonical (loadRefused_canonical h) (ite_canonical (plt_canonical (stored _)) (plt_canonical (stored _)))

theorem installFlash_canonical {new choose} (h : memoriesCanonical s) : memoriesCanonical (installFlash new choose s) :=
  foldl_canonical (fun _ _ h => installPos_canonical h) h

theorem changeKeys_canonical {old new} (h : memoriesCanonical s) : memoriesCanonical (changeKeys old new s) :=
  installFlash_canonical (foldl_canonical (fun _ _ h => erasePos_canonical (erasePos_canonical h)) h)

theorem loseTier_canonical (h : memoriesCanonical s) : memoriesCanonical (loseTier s) :=
  freeGone_canonical (unplace_canonical (foldl_canonical (fun _ _ h => markPages_canonical h) h))

theorem startWatch_canonical {c} (h : memoriesCanonical s) : memoriesCanonical (startWatch s c) :=
  ite_canonical (setAux_canonical h) h

theorem ungateGraver_canonical {g} (h : memoriesCanonical s) : memoriesCanonical (ungateGraver g s) :=
  ite_canonical (setGraver_canonical h) h

theorem allotGravers_canonical (h : memoriesCanonical s) : memoriesCanonical (allotGravers s) := by
  unfold allotGravers
  exact foldl_canonical
      (fun _ _ h =>
          ite_canonical (ite_canonical h (setGraver_canonical h)) <|
          ungateGraver_canonical (ite_canonical h (setGraver_canonical h)))
      h

theorem awaitQuotas_canonical (h : memoriesCanonical s) : memoriesCanonical (awaitQuotas s) :=
  h

theorem retrainPorts_canonical {old} (h : memoriesCanonical s) : memoriesCanonical (retrainPorts old s) :=
  foldl_canonical (fun _ _ h => ite_canonical h (setFport_canonical h)) h

theorem sealConn_canonical {c} (h : memoriesCanonical s) : memoriesCanonical (sealConn s c) := by
  unfold sealConn
  extract_lets -underBinder
  split
  · exact setConn_canonical h
  · exact h
  · exact ite_canonical h (ite_canonical h (toKeyless_canonical h))
  · exact ite_canonical h (ite_canonical h (toKeyless_canonical h))
  · exact ite_canonical h (ite_canonical h (toKeyless_canonical h))
  · exact ite_canonical h (ite_canonical h (toKeyless_canonical h))

theorem execPltSealState_canonical (h : memoriesCanonical s) : memoriesCanonical (execPltSealState s) := by
  unfold execPltSealState
  split
  · exact h
  · extract_lets -underBinder _ _ _ _ _ s₁ s₂ s₃ s₄ s₅ s₆
    have hs₁ : memoriesCanonical s₁ := activate_canonical h
    have hs₂ : memoriesCanonical s₂ := changeKeys_canonical hs₁
    have hs₃ : memoriesCanonical s₃ := installFlash_canonical hs₂
    have hs₄ : memoriesCanonical s₄ := ite_canonical hs₃ (loseTier_canonical hs₃)
    have hs₅ : memoriesCanonical s₅ := foldl_canonical (fun _ _ h => sealConn_canonical h) hs₄
    have hs₆ : memoriesCanonical s₆ := foldl_canonical (fun _ _ h => startWatch_canonical h) hs₅
    exact awaitQuotas_canonical (retrainPorts_canonical hs₆)

theorem execRankSwitchState_canonical (h : memoriesCanonical s) : memoriesCanonical (execRankSwitchState s) :=
  ite_canonical (allotGravers_canonical h) h

theorem armDone_canonical {code} (h : memoriesCanonical s) : memoriesCanonical (armDone code s) :=
  h

theorem execPltArmState_canonical (h : memoriesCanonical s) : memoriesCanonical (execPltArmState s) := by
  unfold execPltArmState
  split
  · exact h
  · extract_lets -underBinder
    exact ite_canonical (armDone_canonical (plateRefused_canonical h)) <|
      ite_canonical (armDone_canonical (plateRefused_canonical h)) <|
      ite_canonical (armDone_canonical (plateRefused_canonical h)) <|
      ite_canonical (countEvent_canonical (armDone_canonical h)) h

theorem execIslandAckState_canonical {i} (h : memoriesCanonical s) : memoriesCanonical (execIslandAckState i s) := by
  unfold execIslandAckState
  split <;> exact h

theorem execPltCommitState_canonical (h : memoriesCanonical s) : memoriesCanonical (execPltCommitState s) :=
  ite_canonical h h

theorem execPltAbortState_canonical (h : memoriesCanonical s) : memoriesCanonical (execPltAbortState s) := by
  unfold execPltAbortState
  split
  · exact abortDelta_canonical h
  · exact abortDelta_canonical h
  · exact abortDelta_canonical h
  · exact h

theorem swapConn_canonical {old c} (h : memoriesCanonical s) : memoriesCanonical (swapConn old s c) := by
  unfold swapConn
  extract_lets -underBinder
  split
  · exact setConn_canonical h
  · exact h
  · exact closeConn_canonical (setAux_canonical h)
  · exact setAux_canonical h
  · exact toKeyless_canonical h
  · exact toKeyless_canonical h
  · exact ite_canonical (toKeyless_canonical h) h
  · exact ite_canonical (toKeyless_canonical h) h
  · exact ite_canonical (toKeyless_canonical h) h
  · exact h

theorem swapScrubs_canonical {old new} (h : memoriesCanonical s) : memoriesCanonical (swapScrubs old new s) :=
  foldl_canonical (fun _ _ h => startScrub_canonical h) (foldl_canonical (fun _ _ h => startScrub_canonical h) h)

theorem reaim_canonical {r} (h : memoriesCanonical s) : memoriesCanonical (reaim s r) := by
  unfold reaim
  dsimp only
  split
  · exact ite_canonical (setReq_canonical h) (setReq_canonical h)
  · exact ite_canonical (countEvent_canonical h) (setReq_canonical h)

theorem reaimAll_canonical (h : memoriesCanonical s) : memoriesCanonical (reaimAll s) :=
  foldl_canonical (fun _ _ h => reaim_canonical h) h

theorem swapPlate_canonical {new} (h : memoriesCanonical s) : memoriesCanonical (swapPlate new s) := by
  unfold swapPlate
  extract_lets -underBinder _ s₁ _ _ _ s₂ s₃ s₄ _ s₅ s₆
  have hs₁ : memoriesCanonical s₁ := swapScrubs_canonical h
  have hs₂ : memoriesCanonical s₂ := activate_canonical hs₁
  have hs₃ : memoriesCanonical s₃ := reaimAll_canonical hs₂
  have hs₄ : memoriesCanonical s₄ := changeKeys_canonical hs₃
  have hs₅ : memoriesCanonical s₅ := foldl_canonical (fun _ _ h => swapConn_canonical h) hs₄
  have hs₆ : memoriesCanonical s₆ := foldl_canonical (fun _ _ h => startWatch_canonical h) hs₅
  exact tally_canonical (allotGravers_canonical hs₆)

theorem execDeltaBoundaryState_canonical (h : memoriesCanonical s) : memoriesCanonical (execDeltaBoundaryState s) := by
  unfold execDeltaBoundaryState
  split
  · exact h
  · exact h
  · split
    · exact h
    · split
      · exact swapPlate_canonical h
      · exact abortDelta_canonical h
  · split
    · exact h
    · split
      · exact swapPlate_canonical h
      · exact abortDelta_canonical h

theorem execPlateLostState_canonical (h : memoriesCanonical s) : memoriesCanonical (execPlateLostState s) :=
  ite_canonical h (raise_canonical h)

/-! ### Power -/

theorem trainPort_canonical {p} (h : memoriesCanonical s) : memoriesCanonical (trainPort s p) :=
  ite_canonical (setFport_canonical h) h

theorem startStage_canonical {n} (h : memoriesCanonical s) : memoriesCanonical (startStage n s) :=
  ite_canonical h (ite_canonical (foldl_canonical (fun _ _ h => trainPort_canonical h) h) (ite_canonical h h))

theorem stallStage_canonical {cause} (h : memoriesCanonical s) : memoriesCanonical (stallStage cause s) :=
  h

theorem mainOff_canonical (h : memoriesCanonical s) : memoriesCanonical (mainOff s) := by
  obtain ⟨-, tier, -, host, mbxReq, mbxResp, -⟩ := h
  exact ⟨rfl, tier, rfl, host, mbxReq, mbxResp, fun _ running => nomatch running⟩

theorem performCut_canonical {thermal} (h : memoriesCanonical s) : memoriesCanonical (performCut thermal s) :=
  mainOff_canonical (cutKeys_canonical (ite_canonical (tally_canonical h) h))

theorem allOff_canonical (h : memoriesCanonical s) : memoriesCanonical (allOff s) := by
  obtain ⟨-, tier, -, host, -, -, -⟩ := h
  exact ⟨rfl, tier, rfl, host, rfl, rfl, fun _ running => nomatch running⟩

theorem execCutState_canonical (h : memoriesCanonical s) : memoriesCanonical (execCutState s) :=
  ite_canonical (performCut_canonical h) h

theorem startZero_canonical {bifur smb} (h : memoriesCanonical s) : memoriesCanonical (startZero bifur smb s) :=
  startStage_canonical h

theorem execVauxInRangeState_canonical {mv ns bifur smb} (h : memoriesCanonical s) :
    memoriesCanonical (execVauxInRangeState mv ns bifur smb s) := by
  unfold execVauxInRangeState
  exact ite_canonical (ite_canonical (pick_canonical h) (allOff_canonical (pick_canonical h))) <|
    ite_canonical (ite_canonical (allOff_canonical h) h) (ite_canonical (ite_canonical (startZero_canonical h) h) h)

theorem holdReset_canonical (h : memoriesCanonical s) : memoriesCanonical (holdReset s) := by
  obtain ⟨stk, tier, bar2, host, -, -, programs⟩ := performCut_canonical (thermal := false) h
  exact ⟨stk, tier, bar2, host, rfl, rfl, programs⟩

theorem execSysRstNState_canonical {high lowNs bifur smb} (h : memoriesCanonical s) :
    memoriesCanonical (execSysRstNState high lowNs bifur smb s) :=
  ite_canonical (ite_canonical h (ite_canonical (startZero_canonical h) h)) (ite_canonical h (holdReset_canonical h))

theorem vinOutside_canonical (h : memoriesCanonical s) : memoriesCanonical (vinOutside s) :=
  ite_canonical h (raise_canonical (tally_canonical h))

theorem execVinMainRangeState_canonical {mv ns} (h : memoriesCanonical s) :
    memoriesCanonical (execVinMainRangeState mv ns s) :=
  ite_canonical h (ite_canonical (tally_canonical (performCut_canonical h)) (vinOutside_canonical h))

theorem loadFuses_canonical (h : memoriesCanonical s) : memoriesCanonical (loadFuses s) :=
  h

theorem stageZeroDone_canonical (h : memoriesCanonical s) : memoriesCanonical (stageZeroDone s) := by
  unfold stageZeroDone
  extract_lets -underBinder s₁
  have hs₁ : memoriesCanonical s₁ := loadFuses_canonical h
  split
  · exact hs₁
  · exact stallStage_canonical hs₁

theorem regulatorFailed_canonical (h : memoriesCanonical s) : memoriesCanonical (regulatorFailed s) :=
  ite_canonical (stallStage_canonical (performCut_canonical h)) (performCut_canonical h)

theorem memoriesClear_canonical (h : memoriesCanonical s) : memoriesCanonical (memoriesClear s) :=
  unplace_canonical (stk_canonical (tier_canonical h rfl) rfl)

theorem chainsTrained_canonical (h : memoriesCanonical s) : memoriesCanonical (chainsTrained s) :=
  foldl_canonical (fun _ _ h => ite_canonical h (setGraver_canonical h)) h

theorem stacksFail_canonical {cause mask} (h : memoriesCanonical s) : memoriesCanonical (stacksFail cause mask s) :=
  ite_canonical h (stallStage_canonical h)

theorem stageDone_canonical (h : memoriesCanonical s) : memoriesCanonical (stageDone s) := by
  unfold stageDone
  split
  · exact stageZeroDone_canonical h
  · exact startStage_canonical h
  · exact ite_canonical (startStage_canonical (chainsTrained_canonical (memoriesClear_canonical h))) h
  · exact ite_canonical (startStage_canonical h) h
  · exact ite_canonical (startStage_canonical h) h
  · exact ite_canonical h h
  · exact h

theorem execStageCompleteState_canonical {r} (h : memoriesCanonical s) :
    memoriesCanonical (execStageCompleteState r s) := by
  unfold execStageCompleteState
  split
  · exact h
  · split
    · exact stageDone_canonical h
    · exact ite_canonical (stallStage_canonical (loadFuses_canonical h)) h
    · exact ite_canonical (stallStage_canonical h) (ite_canonical (stallStage_canonical (performCut_canonical h)) h)
    · exact ite_canonical (regulatorFailed_canonical h) h
    · exact ite_canonical (stacksFail_canonical h) h
    · exact ite_canonical (stacksFail_canonical h) h

theorem execMainPowerStartState_canonical (h : memoriesCanonical s) : memoriesCanonical (execMainPowerStartState s) :=
  ite_canonical (startStage_canonical h) h

theorem execPowerSampleState_canonical {w da mv} (h : memoriesCanonical s) :
    memoriesCanonical (execPowerSampleState w da mv s) := by
  unfold execPowerSampleState
  exact ite_canonical h <|
    ite_canonical
      (raise_canonical <|
        ite_canonical (countEvent_canonical (ite_canonical (countEvent_canonical h) h)) <|
        ite_canonical (countEvent_canonical h) h)
      (ite_canonical (countEvent_canonical (ite_canonical (countEvent_canonical h) h)) <|
        ite_canonical (countEvent_canonical h) h)

theorem execCapState_canonical {watts} (h : memoriesCanonical s) : memoriesCanonical (execCapState watts s) :=
  h

theorem clearCause_canonical {b} (h : memoriesCanonical s) : memoriesCanonical (clearCause b s) :=
  ite_canonical h h

theorem clearThermal_canonical (h : memoriesCanonical s) : memoriesCanonical (clearThermal s) :=
  ite_canonical (clearCause_canonical h) h

theorem execDramTempSampleState_canonical {st c} (h : memoriesCanonical s) :
    memoriesCanonical (execDramTempSampleState st c s) :=
  ite_canonical (performCut_canonical (setHeat_canonical h)) (clearThermal_canonical (setHeat_canonical h))

theorem junctionCritical_canonical {unit since} (h : memoriesCanonical s) :
    memoriesCanonical (junctionCritical unit since s) :=
  ite_canonical (raise_canonical h) (clearThermal_canonical h)

theorem execJunctionTemperatureSampleState_canonical {die c} (h : memoriesCanonical s) :
    memoriesCanonical (execJunctionTemperatureSampleState die c s) := by
  unfold execJunctionTemperatureSampleState
  exact ite_canonical
      (ite_canonical (performCut_canonical (setHeat_canonical h)) <|
        junctionCritical_canonical (ite_canonical (countEvent_canonical (setHeat_canonical h)) (setHeat_canonical h)))
      (ite_canonical (performCut_canonical h) (junctionCritical_canonical h))

theorem execThermalDemandState_canonical {st} (h : memoriesCanonical s) : memoriesCanonical (execThermalDemandState st s) :=
  ite_canonical h (ite_canonical (setHeat_canonical h) (ite_canonical (setHeat_canonical h) h))

theorem execFlowWindowState_canonical {x} (h : memoriesCanonical s) : memoriesCanonical (execFlowWindowState x s) :=
  ite_canonical h (ite_canonical (raise_canonical (tally_canonical h)) (ite_canonical (clearCause_canonical h) h))

theorem execCoolantCutState_canonical (h : memoriesCanonical s) : memoriesCanonical (execCoolantCutState s) :=
  ite_canonical (performCut_canonical h) h

theorem gateGraver_canonical {g} (h : memoriesCanonical s) : memoriesCanonical (gateGraver g s) :=
  ite_canonical h (setGraver_canonical h)

theorem gateByNode_canonical (h : memoriesCanonical s) : memoriesCanonical (gateByNode s) :=
  foldl_canonical
      (fun _ _ h =>
          ite_canonical (ite_canonical (gateGraver_canonical h) h) (ite_canonical (ungateGraver_canonical h) h))
      h

theorem execPwrGgateReqState_canonical {i v} (h : memoriesCanonical s) :
    memoriesCanonical (execPwrGgateReqState i v s) := by
  unfold execPwrGgateReqState
  extract_lets -underBinder _ _ _ _ _ s₁
  refine foldl_canonical (fun _ _ h => ?_) h
  split
  · exact deferRequest_canonical h
  · exact h

theorem execPwrGateState_canonical {portDown flash} (h : memoriesCanonical s) :
    memoriesCanonical (execPwrGateState portDown flash s) := by
  unfold execPwrGateState
  extract_lets -underBinder _ _ _ _ _ _ s₁ s₂
  have hs₂ : memoriesCanonical s₂ := by
    dsimp only [s₂]
    refine foldl_canonical (fun _ _ h => ?_) h
    split
    · exact deferRequest_canonical h
    · exact h
  split
  · exact deferRequest_canonical hs₂
  · exact hs₂

theorem gatePort_canonical {p} (h : memoriesCanonical s) : memoriesCanonical (gatePort s p) := by
  unfold gatePort
  extract_lets -underBinder _ _ s₁
  have hs₁ : memoriesCanonical s₁ := setFport_canonical h
  exact ite_canonical (ite_canonical (ite_canonical hs₁ (dropPort_canonical hs₁)) h) <|
    ite_canonical (setFport_canonical h) h

theorem gateRequested_canonical {g} (h : memoriesCanonical s) : memoriesCanonical (gateRequested s g) :=
  ite_canonical (ite_canonical (gateGraver_canonical h) h) (ite_canonical (ungateGraver_canonical h) h)

theorem gateFlash_canonical (h : memoriesCanonical s) : memoriesCanonical (gateFlash s) :=
  ite_canonical (ite_canonical h h) (ite_canonical h h)

theorem execGateTakesEffectState_canonical (h : memoriesCanonical s) : memoriesCanonical (execGateTakesEffectState s) :=
  ite_canonical
      (gateFlash_canonical <|
        foldl_canonical (fun _ _ h => gatePort_canonical h) <|
        foldl_canonical (fun _ _ h => gateRequested_canonical h) h)
      h

theorem linkDeferred_canonical {l} (h : memoriesCanonical s) : memoriesCanonical (linkDeferred s l) :=
  ite_canonical (linkLoss_canonical h) h

theorem execDeferredTakesEffectState_canonical (h : memoriesCanonical s) :
    memoriesCanonical (execDeferredTakesEffectState s) :=
  ite_canonical
      (foldl_canonical (fun _ _ h => linkDeferred_canonical h) <|
        gateFlash_canonical <|
        foldl_canonical (fun _ _ h => gatePort_canonical h) <|
        foldl_canonical (fun _ _ h => gateRequested_canonical h) h)
      h

theorem execHostPowerManagementRequestState_canonical {r} (h : memoriesCanonical s) :
    memoriesCanonical (execHostPowerManagementRequestState r s) := by
  unfold execHostPowerManagementRequestState
  split
  · exact h
  · split
    · exact h
    · split
      · exact ite_canonical h (deferRequest_canonical h)
      · exact linkLoss_canonical h

theorem execPwrCtrlSkipState_canonical (h : memoriesCanonical s) : memoriesCanonical (execPwrCtrlSkipState s) :=
  ite_canonical h h

theorem execHoldEnterState_canonical (h : memoriesCanonical s) : memoriesCanonical (execHoldEnterState s) :=
  ite_canonical (enterHold_canonical h) h

theorem execHoldExitState_canonical (h : memoriesCanonical s) : memoriesCanonical (execHoldExitState s) :=
  ite_canonical (gateByNode_canonical h) (countEvent_canonical h)

theorem execRestartState_canonical (h : memoriesCanonical s) : memoriesCanonical (execRestartState s) :=
  ite_canonical h h

theorem execOffState_canonical (h : memoriesCanonical s) : memoriesCanonical (execOffState s) :=
  ite_canonical (enterHold_canonical h) h

theorem execHostLinkTrainedState_canonical {l speed width cache mem} (h : memoriesCanonical s) :
    memoriesCanonical (execHostLinkTrainedState l speed width cache mem s) :=
  ite_canonical h (ite_canonical h (ite_canonical h h))

/-! ### Faults -/

theorem fencePort_canonical {p} (h : memoriesCanonical s) : memoriesCanonical (fencePort p s) :=
  ite_canonical (tally_canonical h) (dropPort_canonical (tally_canonical h))

theorem fenceChannel_canonical {c} (h : memoriesCanonical s) : memoriesCanonical (fenceChannel c s) :=
  tally_canonical h

theorem execCoreResetState_canonical {core} (h : memoriesCanonical s) : memoriesCanonical (execCoreResetState core s) :=
  ite_canonical h (ite_canonical (enterHold_canonical (raise_canonical h)) (raise_canonical h))

theorem tierLeaseEnds_canonical (h : memoriesCanonical s) : memoriesCanonical (tierLeaseEnds s) := by
  unfold tierLeaseEnds
  split
  · exact programFails_canonical h
  · exact h

theorem execLeaseRevokedState_canonical {unit} (h : memoriesCanonical s) :
    memoriesCanonical (execLeaseRevokedState unit s) :=
  ite_canonical (ite_canonical (fencePort_canonical (raise_canonical (tally_canonical (zeroRanks_canonical h)))) h) <|
    ite_canonical (ite_canonical (fenceChannel_canonical (raise_canonical (tally_canonical h))) h) <|
    ite_canonical (ite_canonical (execCoreResetState_canonical (tally_canonical h)) h) <|
    ite_canonical (tierLeaseEnds_canonical (raise_canonical (tally_canonical h))) h

theorem execTrustRestartState_canonical (h : memoriesCanonical s) : memoriesCanonical (execTrustRestartState s) :=
  ite_canonical h (raise_canonical h)

theorem execUnfenceState_canonical {known} (h : memoriesCanonical s) : memoriesCanonical (execUnfenceState known s) :=
  mailbox_canonical
      (fun _ _ h =>
          ite_canonical (mbxRefuse_canonical h) (ite_canonical (mbxRefuse_canonical h) (mbxEnd_canonical h)))
      h

theorem returnUnit_canonical {x} (h : memoriesCanonical s) : memoriesCanonical (returnUnit s x) := by
  unfold returnUnit
  extract_lets -underBinder
  split
  · exact setGraver_canonical h
  · exact h
  · exact h
  · exact h
  · exact h
  · exact setAux_canonical h
  · exact h

theorem returnUnits_canonical (h : memoriesCanonical s) : memoriesCanonical (returnUnits s) :=
  foldl_canonical (fun _ _ h => returnUnit_canonical h) h

theorem reconFence_canonical {x} (h : memoriesCanonical s) : memoriesCanonical (reconFence s x) := by
  unfold reconFence
  extract_lets -underBinder _ s₁
  have hs₁ : memoriesCanonical s₁ := raise_canonical (tally_canonical h)
  exact ite_canonical (ite_canonical hs₁ (closeBestEffort_canonical (fenceGraver_canonical hs₁))) <|
    ite_canonical (enterHold_canonical hs₁) (ite_canonical (dropPort_canonical hs₁) (fencePort_canonical hs₁))

theorem execReconcileState_canonical (h : memoriesCanonical s) : memoriesCanonical (execReconcileState s) :=
  ite_canonical (foldl_canonical (fun _ _ h => reconFence_canonical h) h) h

theorem pushEvent_canonical (h : memoriesCanonical s) : memoriesCanonical (pushEvent s) := by
  unfold pushEvent
  split
  · exact ite_canonical (emit_canonical h) h
  · exact h

theorem queueEvent_canonical {data} (h : memoriesCanonical s) : memoriesCanonical (queueEvent data s) :=
  ite_canonical (countEvent_canonical h) (pushEvent_canonical h)

theorem popEvent_canonical (h : memoriesCanonical s) : memoriesCanonical (popEvent s) :=
  pushEvent_canonical h

theorem queueFault_canonical {r n} (h : memoriesCanonical s) : memoriesCanonical (queueFault r n s) :=
  ite_canonical (queueEvent_canonical h) h

theorem commitRecord_canonical {r} (h : memoriesCanonical s) : memoriesCanonical (commitRecord r s) :=
  queueFault_canonical (stk_canonical h (wf_memWrite (stk_wf h) _ _))

theorem execTraceRecordWriteState_canonical (h : memoriesCanonical s) :
    memoriesCanonical (execTraceRecordWriteState s) := by
  unfold execTraceRecordWriteState
  split
  · exact commitRecord_canonical h
  · split
    · exact commitRecord_canonical h
    · exact h

theorem execEvtSelState_canonical {i} (h : memoriesCanonical s) : memoriesCanonical (execEvtSelState i s) :=
  h

theorem execClearUeState_canonical (h : memoriesCanonical s) : memoriesCanonical (execClearUeState s) :=
  clearCause_canonical h

theorem execClearOtherState_canonical (h : memoriesCanonical s) : memoriesCanonical (execClearOtherState s) :=
  ite_canonical h (clearCause_canonical h)

theorem wearOne_canonical {inputs unit} (h : memoriesCanonical s) : memoriesCanonical (wearOne inputs s unit) :=
  ite_canonical (logEvent_canonical h) h

theorem execWearUpdateState_canonical {inputs} (h : memoriesCanonical s) :
    memoriesCanonical (execWearUpdateState inputs s) :=
  ite_canonical (foldl_canonical (fun _ _ h => wearOne_canonical h) h) h

/-! ### Mgmt -/

theorem setAssembly_canonical {b a} (h : memoriesCanonical s) : memoriesCanonical (setAssembly b a s) :=
  h

theorem mctpDrop_canonical {b} (h : memoriesCanonical s) : memoriesCanonical (mctpDrop b s) :=
  countEvent_canonical (setAssembly_canonical h)

theorem mctpJoin_canonical {b eom a} (h : memoriesCanonical s) : memoriesCanonical (mctpJoin b eom a s) :=
  ite_canonical (mctpDrop_canonical h) (ite_canonical (setAssembly_canonical h) (setAssembly_canonical h))

theorem execMctpPacketState_canonical {bd som eom seq tag payload} (h : memoriesCanonical s) :
    memoriesCanonical (execMctpPacketState bd som eom seq tag payload s) :=
  ite_canonical h <|
    ite_canonical (ite_canonical (mctpDrop_canonical h) (ite_canonical h (mctpJoin_canonical h))) <|
    ite_canonical (ite_canonical h (mctpDrop_canonical h)) <|
    ite_canonical (mctpDrop_canonical h) (mctpJoin_canonical h)

theorem execSetEndpointIdState_canonical {b eid} (h : memoriesCanonical s) :
    memoriesCanonical (execSetEndpointIdState b eid s) := by
  unfold execSetEndpointIdState
  split
  · exact h
  · split <;> exact h

theorem takeMessage_canonical {typ} (h : memoriesCanonical s) : memoriesCanonical (takeMessage typ s).2 := by
  unfold takeMessage
  split <;> exact h

theorem answerPldm_canonical {code body} (h : memoriesCanonical s) : memoriesCanonical (answerPldm code body s) :=
  emit_canonical (takeMessage_canonical h)

theorem execB2WriteState_canonical (h : memoriesCanonical s) : memoriesCanonical (execB2WriteState s) := by
  refine mailbox_canonical (fun _ _ h => ite_canonical (mbxRefuse_canonical h) ?_) h
  split
  · exact mbxRefuse_canonical h
  · exact ite_canonical (mbxEnd_canonical h) (mbxEnd_canonical (bar2_canonical h (wf_memWrite (bar2_wf h) _ _)))

theorem execB2ReadState_canonical (h : memoriesCanonical s) : memoriesCanonical (execB2ReadState s) := by
  unfold execB2ReadState
  refine mailbox_canonical (fun _ _ h => ?_) h
  extract_lets -underBinder
  split
  · exact mbxRefuse_canonical h
  · split
    · exact mbxRefuse_canonical h
    · exact ite_canonical (mbxEnd_canonical h) (mbxEnd_canonical h)

theorem refreshSensor_canonical {n} (h : memoriesCanonical s) : memoriesCanonical (refreshSensor s n) :=
  ite_canonical h (ite_canonical h (queueEvent_canonical h))

theorem execSensorRefreshState_canonical (h : memoriesCanonical s) : memoriesCanonical (execSensorRefreshState s) :=
  ite_canonical (foldl_canonical (fun _ _ h => refreshSensor_canonical h) h) h

theorem execGetSensorReadingState_canonical {n} (h : memoriesCanonical s) :
    memoriesCanonical (execGetSensorReadingState n s) :=
  ite_canonical h <|
    ite_canonical (answerPldm_canonical h) (ite_canonical (answerPldm_canonical h) (answerPldm_canonical h))

theorem execGetPdrState_canonical {handle} (h : memoriesCanonical s) : memoriesCanonical (execGetPdrState handle s) :=
  ite_canonical h (ite_canonical (answerPldm_canonical h) (answerPldm_canonical h))

theorem execSetEventReceiverState_canonical {r} (h : memoriesCanonical s) :
    memoriesCanonical (execSetEventReceiverState r s) :=
  ite_canonical (pushEvent_canonical h) h

theorem execPollForPlatformEventState_canonical (h : memoriesCanonical s) :
    memoriesCanonical (execPollForPlatformEventState s) := by
  unfold execPollForPlatformEventState
  split
  · exact h
  · split
    · exact popEvent_canonical (answerPldm_canonical h)
    · exact answerPldm_canonical h

theorem execPlatformEventRetryState_canonical {acked} (h : memoriesCanonical s) :
    memoriesCanonical (execPlatformEventRetryState acked s) := by
  unfold execPlatformEventRetryState
  split
  · exact ite_canonical h (ite_canonical (popEvent_canonical h) (ite_canonical (emit_canonical h) h))
  · exact h

theorem heard_canonical (h : memoriesCanonical s) : memoriesCanonical (heard s) :=
  h

theorem execRequestUpdateState_canonical (h : memoriesCanonical s) : memoriesCanonical (execRequestUpdateState s) :=
  ite_canonical h <|
    ite_canonical (answerPldm_canonical (heard_canonical h)) (answerPldm_canonical (heard_canonical h))

theorem setBank_canonical {comp b k} (h : memoriesCanonical s) : memoriesCanonical (setBank comp b k s) :=
  h

theorem execUpdateComponentState_canonical {comp image svn version sigOk} (h : memoriesCanonical s) :
    memoriesCanonical (execUpdateComponentState comp image svn version sigOk s) :=
  ite_canonical h (setBank_canonical (heard_canonical h))

theorem execVerifyComponentState_canonical (h : memoriesCanonical s) : memoriesCanonical (execVerifyComponentState s) :=
  ite_canonical h <|
    ite_canonical (answerPldm_canonical (setBank_canonical h)) <|
    answerPldm_canonical (countEvent_canonical (setBank_canonical h))

theorem execApplyCompleteState_canonical (h : memoriesCanonical s) : memoriesCanonical (execApplyCompleteState s) :=
  ite_canonical h (ite_canonical h h)

theorem execActivateFirmwareState_canonical {selfContained} (h : memoriesCanonical s) :
    memoriesCanonical (execActivateFirmwareState selfContained s) :=
  ite_canonical h <|
    ite_canonical (answerPldm_canonical (heard_canonical h)) (answerPldm_canonical (heard_canonical h))

theorem execCancelUpdateState_canonical (h : memoriesCanonical s) : memoriesCanonical (execCancelUpdateState s) :=
  ite_canonical h h

theorem execUpdateTimeoutState_canonical (h : memoriesCanonical s) : memoriesCanonical (execUpdateTimeoutState s) :=
  ite_canonical (countEvent_canonical h) h

/-! ### Regs -/

theorem clearRc_canonical {off lo hi} (h : memoriesCanonical s) : memoriesCanonical (clearRc off lo hi s) :=
  ite_canonical h (ite_canonical h (ite_canonical h (ite_canonical (setFport_canonical h) h)))

theorem endLatch_canonical {f off} (h : memoriesCanonical s) : memoriesCanonical (endLatch f off s) :=
  ite_canonical h h

theorem readWhole_canonical {f off} (h : memoriesCanonical s) : memoriesCanonical (readWhole f off s).2 := by
  unfold readWhole
  split
  · exact clearRc_canonical (endLatch_canonical h)
  · exact h

theorem readLow_canonical {f off} (h : memoriesCanonical s) : memoriesCanonical (readLow f off s).2 :=
  readWhole_canonical h

theorem readHigh_canonical {f off} (h : memoriesCanonical s) : memoriesCanonical (readHigh f off s).2 := by
  unfold readHigh
  split
  · split
    · exact h
    · split
      · exact clearRc_canonical h
      · exact h
  · split
    · exact clearRc_canonical h
    · exact h

theorem execUnalignedAccessState_canonical {f off width write} (h : memoriesCanonical s) :
    memoriesCanonical (execUnalignedAccessState f off width write s) :=
  ite_canonical (logEvent_canonical h) (emit_canonical (logEvent_canonical h))

theorem execRcFieldReadState_canonical {f off width} (h : memoriesCanonical s) :
    memoriesCanonical (execRcFieldReadState f off width s) :=
  ite_canonical (execUnalignedAccessState_canonical h) <|
    emit_canonical <|
    ite_snd_canonical (readWhole_canonical h) (ite_snd_canonical (readLow_canonical h) (readHigh_canonical h))

theorem lockedWrite_canonical {off w} (h : memoriesCanonical s) : memoriesCanonical (lockedWrite off w s) :=
  logEvent_canonical h

theorem writeDirCmd_canonical {n v} (h : memoriesCanonical s) : memoriesCanonical (writeDirCmd n v s) :=
  ite_canonical h (ite_canonical (setPort_canonical h) (setPort_canonical h))

theorem writeDirPort_canonical {n r w} (h : memoriesCanonical s) : memoriesCanonical (writeDirPort n r w s) :=
  ite_canonical (setPort_canonical h) <|
    ite_canonical (setPort_canonical h) <|
    ite_canonical (setPort_canonical h) <|
    ite_canonical (setPort_canonical h) <|
    ite_canonical (setPort_canonical h) (ite_canonical (writeDirCmd_canonical h) h)

theorem writeRing_canonical {n r w} (h : memoriesCanonical s) : memoriesCanonical (writeRing n r w s) := by
  unfold writeRing
  extract_lets -underBinder _ _ _ _ s₁
  have hs₁ : memoriesCanonical s₁ := ite_canonical (disableRing_canonical h) h
  exact ite_canonical (setRing_canonical h) <|
    ite_canonical (setRing_canonical h) <|
    ite_canonical (setRing_canonical hs₁) <|
    ite_canonical (execPostState_canonical h) (ite_canonical (execReclaimState_canonical h) h)

theorem mailboxGo_canonical (h : memoriesCanonical s) : memoriesCanonical (mailboxGo s) :=
  ite_canonical (mailbox_canonical (fun _ _ h => offerKey_canonical h) h) <|
    ite_canonical (mailbox_canonical (fun _ _ h => acceptKey_canonical h) h) <|
    ite_canonical (mailbox_canonical (fun _ _ h => eraseKey_canonical h) h) <|
    ite_canonical (execScrubState_canonical h) <|
    ite_canonical (execFuseSvnState_canonical h) <|
    ite_canonical (execCurveMultState_canonical h) <|
    ite_canonical (execUnfenceState_canonical h) <|
    ite_canonical (execB2WriteState_canonical h) <|
    ite_canonical (execB2ReadState_canonical h) (ite_canonical h (mbxRefuse_canonical h))

theorem actOn_canonical {v acts} (hacts : acts.Forall fun a => KeepsCanonical a.2) (h : memoriesCanonical s) :
    memoriesCanonical (actOn v acts s) := by
  induction acts generalizing s with
  | nil => exact h
  | cons a l ih =>
    rw [List.forall_cons] at hacts
    exact ih hacts.2 (ite_canonical (hacts.1 h) h)

theorem writeHub_canonical {off w} (h : memoriesCanonical s) : memoriesCanonical (writeHub off w s) := by
  have linkBPart : memoriesCanonical (if w.lo then { s with host.linkBPart := w.v % 128, host.linkBValid := bit w.v 7 } else s) :=
    ite_canonical (host_frame_canonical h) h
  have queue : ∀ i, memoriesCanonical (if 5 ≤ i % 8 then s
      else if off % 0x40 = 0 then execCqDoorbellState (i / 8) (i % 8) (BitVec.ofNat 64 w.v) [] s
      else if off % 0x40 = 8 ∧ w.lo then execCqEnableState (i / 8) (i % 8) (bit w.v 7) s
      else s) := fun i =>
    ite_canonical h (ite_canonical (execCqDoorbellState_canonical h) (ite_canonical (execCqEnableState_canonical h) h))
  unfold writeHub
  refine ite_canonical linkBPart (ite_canonical (host_frame_canonical h) (ite_canonical (queue _) ?_))
  refine ite_canonical (writeDirPort_canonical h) (ite_canonical ?_ ?_)
  · exact execPrtCtrlRetrainState_canonical (ite_canonical (lockedWrite_canonical h) (setFport_canonical h))
  · refine ite_canonical (tfx_canonical h) (ite_canonical ?_ (ite_canonical (writeRing_canonical h) h))
    exact ite_canonical (lockedWrite_canonical h) (tfx_canonical h)

theorem writeNode_canonical {off w} (h : memoriesCanonical s) : memoriesCanonical (writeNode off w s) := by
  have plate : memoriesCanonical (actOn w.v [(0, execPltLoadState []), (1, execPltSealState), (2, execPltArmState),
      (3, execPltCommitState), (4, execPltAbortState)] s) :=
    actOn_canonical ⟨fun _ h => execPltLoadState_canonical h, fun _ h => execPltSealState_canonical h,
      fun _ h => execPltArmState_canonical h, fun _ h => execPltCommitState_canonical h,
      fun _ h => execPltAbortState_canonical h⟩ h
  have time : memoriesCanonical (actOn w.v [(0, execSetSecondsState), (1, execReregState), (2, execTimCtrlBarrierState)] s) :=
    actOn_canonical ⟨fun _ h => execSetSecondsState_canonical h, fun _ h => execReregState_canonical h,
      fun _ h => execTimCtrlBarrierState_canonical h⟩ h
  have power : memoriesCanonical (actOn w.v [(0, execPwrCtrlSkipState), (1, execHoldEnterState), (2, execHoldExitState),
      (3, execRestartState), (4, execOffState)] s) :=
    actOn_canonical ⟨fun _ h => execPwrCtrlSkipState_canonical h, fun _ h => execHoldEnterState_canonical h,
      fun _ h => execHoldExitState_canonical h, fun _ h => execRestartState_canonical h,
      fun _ h => execOffState_canonical h⟩ h
  have faults : memoriesCanonical (actOn w.v [(0, execClearUeState), (1, execClearOtherState)] s) :=
    actOn_canonical ⟨fun _ h => execClearUeState_canonical h, fun _ h => execClearOtherState_canonical h⟩ h
  have mailbox : ∀ a, memoriesCanonical { s with mem.mbxReq := (
      let m := if w.lo then memWrite s.mem.mbxReq a (leBytes 4 (w.v % 2 ^ 32)) else s.mem.mbxReq
      if w.hi then memWrite m (a + 4) (leBytes 4 (w.v / 2 ^ 32)) else m) } := fun a => by
    refine mbxReq_canonical h ?_
    split <;> split
    · exact wf_memWrite (wf_memWrite (mbxReq_wf h) _ _) _ _
    · exact wf_memWrite (mbxReq_wf h) _ _
    · exact wf_memWrite (mbxReq_wf h) _ _
    · exact mbxReq_wf h
  unfold writeNode
  refine ite_canonical plate (ite_canonical (plt_canonical h) (ite_canonical (plt_canonical h) (ite_canonical (plt_canonical h) ?_)))
  refine ite_canonical (time_canonical h) (ite_canonical time (ite_canonical (time_canonical h) ?_))
  refine ite_canonical (driveBarrier_canonical (bar_canonical h)) (ite_canonical (bar_canonical h) (ite_canonical power ?_))
  refine ite_canonical (ite_canonical (execCapState_canonical h) h) (ite_canonical (ite_canonical (execPwrGateState_canonical h) h) ?_)
  refine ite_canonical (execPwrGgateReqState_canonical h) (ite_canonical (execPwrGgateReqState_canonical h) ?_)
  refine ite_canonical faults (ite_canonical (flt_canonical h) (ite_canonical (ite_canonical (execEvtSelState_canonical h) h) ?_))
  refine ite_canonical (ite_canonical (mailboxGo_canonical h) h) (ite_canonical (mailbox _) ?_)
  exact ite_canonical (ite_canonical (execFshCtrlSkipState_canonical h) h) h

theorem regWrite_canonical {off w} (h : memoriesCanonical s) : memoriesCanonical (regWrite off w s) :=
  ite_canonical (ite_canonical (mapBytes_canonical h) (ite_canonical (mapBytes_canonical h) (mapBytes_canonical h)))
      (ite_canonical (writeHub_canonical h) (writeNode_canonical h))

theorem fnWrite_canonical {f off w} (h : memoriesCanonical s) : memoriesCanonical (fnWrite f off w s) := by
  unfold fnWrite
  split
  · exact regWrite_canonical h
  · exact h

theorem regAnswer_canonical {b m status done data} (h : memoriesCanonical s) :
    memoriesCanonical (regAnswer b m status done data s) :=
  emit_canonical h

theorem readWords_canonical {n off} (h : memoriesCanonical s) : memoriesCanonical (readWords n off s).2 := by
  induction n generalizing off s with
  | zero => exact h
  | succ n ih => exact ih (readWhole_canonical h)

theorem writeWords_canonical {n off bs} (h : memoriesCanonical s) : memoriesCanonical (writeWords n off bs s) := by
  induction n generalizing off bs s with
  | zero => exact h
  | succ n ih => exact ih (fnWrite_canonical h)

theorem dropMessage_canonical {b m} (h : memoriesCanonical s) : memoriesCanonical (dropMessage b m s) :=
  h

theorem execRegReadState_canonical {b} (h : memoriesCanonical s) : memoriesCanonical (execRegReadState b s) := by
  unfold execRegReadState
  split
  · exact h
  · extract_lets -underBinder s₁ _ r₁
    have hs₁ : memoriesCanonical s₁ := dropMessage_canonical h
    have hr₁ : memoriesCanonical r₁.2 := readWords_canonical hs₁
    exact ite_canonical (regAnswer_canonical (countEvent_canonical hs₁)) <|
      ite_canonical (regAnswer_canonical hs₁) (regAnswer_canonical hr₁)

/-! ### Stages -/

theorem execBestEffortDispatchState_canonical {p ue} (h : memoriesCanonical s) :
    memoriesCanonical (execBestEffortDispatchState p ue s) := by
  unfold execBestEffortDispatchState
  split
  · exact h
  · extract_lets -underBinder _ _ _ _ s₁ _ _ _ s₂ s₃
    have hs₁ : memoriesCanonical s₁ := deliver_canonical (extentErrors_canonical h)
    have hs₂ : memoriesCanonical s₂ := tel_canonical (countEvent_canonical hs₁)
    have hs₃ : memoriesCanonical s₃ := foldl_canonical (fun _ _ h => startBestEffort_canonical h) hs₂
    split
    · exact h
    · split
      · exact ite_canonical (closeEntry_canonical hs₃) hs₃
      · exact hs₃

/-! ### Strobe -/

theorem departIsland_canonical {isl} (h : memoriesCanonical s) : memoriesCanonical (departIsland s isl) :=
  ite_canonical (countEvent_canonical h) (ite_canonical (countEvent_canonical h) h)

theorem telStroke_canonical (h : memoriesCanonical s) : memoriesCanonical (telStroke s) :=
  h

theorem portStroke_canonical {p} (h : memoriesCanonical s) : memoriesCanonical (portStroke s p) :=
  setFport_canonical h

theorem barrierFalls_canonical (h : memoriesCanonical s) : memoriesCanonical (barrierFalls s) := by
  unfold barrierFalls
  split
  · exact ite_canonical (driveBarrier_canonical h) h
  · exact h

theorem heatDelayed_canonical (h : memoriesCanonical s) : memoriesCanonical (heatDelayed s) :=
  h

theorem releaseRanks_canonical (h : memoriesCanonical s) : memoriesCanonical (releaseRanks s) :=
  ite_canonical h (endLatches_canonical h)

theorem endStroke_canonical (h : memoriesCanonical s) : memoriesCanonical (endStroke s) :=
  barrierFalls_canonical <|
    releaseRanks_canonical <|
    foldl_canonical (fun _ _ h => portStroke_canonical h) <|
    telStroke_canonical (foldl_canonical (fun _ _ h => departIsland_canonical h) (heatDelayed_canonical h))

theorem followDemand_canonical {st} (h : memoriesCanonical s) : memoriesCanonical (followDemand s st) :=
  setHeat_canonical h

theorem openCycles_canonical (h : memoriesCanonical s) : memoriesCanonical (openCycles s) :=
  h

theorem stageFreeLinks_canonical (h : memoriesCanonical s) : memoriesCanonical (stageFreeLinks s) :=
  foldl_canonical (fun _ _ h => ite_canonical (issueStaging_canonical h) h) h

theorem openStroke_canonical (h : memoriesCanonical s) : memoriesCanonical (openStroke s) :=
  stageFreeLinks_canonical (openCycles_canonical (foldl_canonical (fun _ _ h => followDemand_canonical h) h))

theorem bandFalls_canonical {st} (h : memoriesCanonical s) : memoriesCanonical (bandFalls s st) := by
  unfold bandFalls
  extract_lets -underBinder
  split
  · exact ite_canonical (enterBand_canonical h) h
  · exact h

theorem portPass_canonical {p} (h : memoriesCanonical s) : memoriesCanonical (portPass s p) :=
  ite_canonical h (setFport_canonical h)

theorem powerAverages_canonical {second} (h : memoriesCanonical s) : memoriesCanonical (powerAverages second s) :=
  ite_canonical h h

theorem vinPass_canonical (h : memoriesCanonical s) : memoriesCanonical (vinPass s) :=
  ite_canonical (vinOutside_canonical h) h

theorem openPass_canonical {second} (h : memoriesCanonical s) : memoriesCanonical (openPass second s) := by
  unfold openPass
  extract_lets -underBinder s₁ _ _ s₂ s₃ s₄ s₅ s₆
  have hs₁ : memoriesCanonical s₁ := powerAverages_canonical (vinPass_canonical (registrationEnds_canonical h))
  have hs₂ : memoriesCanonical s₂ := frame_canonical hs₁ rfl rfl
  have hs₃ : memoriesCanonical s₃ := foldl_canonical (fun _ _ h => bandFalls_canonical h) hs₂
  have hs₄ : memoriesCanonical s₄ := foldl_canonical (fun _ _ h => portPass_canonical h) hs₃
  have hs₅ : memoriesCanonical s₅ := returnUnits_canonical hs₄
  have hs₆ : memoriesCanonical s₆ := ite_canonical (gateByNode_canonical hs₅) hs₅
  exact ite_canonical (telCopy_canonical hs₆) hs₆

theorem execStrobeState_canonical {drift} (h : memoriesCanonical s) : memoriesCanonical (execStrobeState drift s) := by
  unfold execStrobeState
  extract_lets -underBinder s₁ s₂ s₃ s₄
  have hs₁ : memoriesCanonical s₁ := openStroke_canonical (endStroke_canonical h)
  have hs₂ : memoriesCanonical s₂ := ite_canonical (registrationLoss_canonical hs₁) hs₁
  have hs₃ : memoriesCanonical s₃ := ite_canonical (gateByNode_canonical hs₂) hs₂
  have hs₄ : memoriesCanonical s₄ := ite_canonical (openPass_canonical hs₃) hs₃
  exact ite_canonical (performCut_canonical hs₄) hs₄

/-! ### The instructions and the step -/

/-- The next state, where an outcome has one, is canonical. -/
def outcomeCanonical : Host.Outcome State Fault Refusal → Prop
  | .next t => memoriesCanonical t
  | .fault _ | .refused _ => True

theorem ite_outcome {c : Prop} [Decidable c] {a b : Host.Outcome State Fault Refusal} (ha : outcomeCanonical a)
    (hb : outcomeCanonical b) : outcomeCanonical (if c then a else b) := by
  split
  · exact ha
  · exact hb

theorem execRegisterWrite_outcome {f off width value} (h : memoriesCanonical s) :
    outcomeCanonical (execRegisterWrite f off width value s) := by
  unfold execRegisterWrite
  have written : ∀ off w, outcomeCanonical (.next (fnWrite f off w s)) := fun _ _ => fnWrite_canonical h
  exact ite_outcome (execUnalignedAccessState_canonical h)
    (ite_outcome (written _ _) (ite_outcome (written _ _) (written _ _)))

theorem execRegWrite_outcome {b} (h : memoriesCanonical s) : outcomeCanonical (execRegWrite b s) := by
  unfold execRegWrite
  split
  · exact h
  · have dropped : ∀ m, memoriesCanonical (dropMessage b m s) := fun _ => dropMessage_canonical h
    exact ite_outcome (regAnswer_canonical (countEvent_canonical (dropped _))) <|
      ite_outcome (regAnswer_canonical (dropped _)) (regAnswer_canonical (writeWords_canonical (dropped _)))

/-- Every instruction keeps the canonical form. -/
theorem exec_outcome (h : memoriesCanonical s) (c : Instr) : outcomeCanonical (exec c s) := by
  cases c with
  | registerWrite => exact execRegisterWrite_outcome h
  | rcFieldRead => exact execRcFieldReadState_canonical h
  | unalignedAccess => exact execUnalignedAccessState_canonical h
  | strobe => exact execStrobeState_canonical h
  | attn => exact execAttnState_canonical h
  | attnCheckStroke => exact execAttnCheckStrokeState_canonical h
  | admissionStroke => exact execAdmissionStrokeState_canonical h
  | admissionLookup => exact execAdmissionLookupState_canonical h
  | workDispatch => exact execWorkDispatchState_canonical h
  | bestEffortDispatch => exact execBestEffortDispatchState_canonical h
  | attnTokenTaken => exact execAttnTokenTakenState_canonical h
  | append => exact execAppendState_canonical h
  | commit => exact execCommitState_canonical h
  | cancel => exact execCancelState_canonical h
  | cancelAtSweepBoundary => exact execCancelAtSweepBoundaryState_canonical h
  | tailClearOnClose => exact execTailClearOnCloseState_canonical h
  | search => exact execSearchState_canonical h
  | count => exact execCountState_canonical h
  | read => exact execReadState_canonical h
  | invalidate => exact execInvalidateState_canonical h
  | write => exact execWriteState_canonical h
  | validate => exact execValidateState_canonical h
  | swap => exact execSwapState_canonical h
  | release => exact execReleaseState_canonical h
  | bulkInvalidate => exact execBulkInvalidateState_canonical h
  | directoryLeaseExpiry => exact execDirectoryLeaseExpiryState_canonical h
  | extentGraceEnd => exact execExtentGraceEndState_canonical h
  | stateOnlySwapRetry => exact execStateOnlySwapRetryState_canonical h
  | directoryPatrol => exact execDirectoryPatrolState_canonical h
  | sweep1 => exact execSweep1State_canonical h
  | sweep2 => exact execSweep2State_canonical h
  | sweep3 => exact execSweep3State_canonical h
  | blockClose => exact execBlockCloseState_canonical h
  | chainMerge => exact execChainMergeState_canonical h
  | sheetPatrol => exact execSheetPatrolState_canonical h
  | bankReady => exact execBankReadyState_canonical h
  | windowLine => exact execWindowLineState_canonical h
  | overrun => exact execOverrunState_canonical h
  | banksLine => exact execBanksLineState_canonical h
  | refreshLine => exact execRefreshLineState_canonical h
  | extraRefresh => exact execExtraRefreshState_canonical h
  | retrainLine => exact execRetrainLineState_canonical h
  | dircycLine => exact execDircycLineState_canonical h
  | linkLine => exact execLinkLineState_canonical h
  | maintLine => exact execMaintLineState_canonical h
  | closeLine => exact execCloseLineState_canonical h
  | sendLine => exact execSendLineState_canonical h
  | beatLine => exact execBeatLineState_canonical h
  | adaptLine => exact execAdaptLineState_canonical h
  | sampleLine => exact execSampleLineState_canonical h
  | collatorMerge => exact execCollatorMergeState_canonical h
  | childImpr => exact execChildImprState_canonical h
  | collatorEntryClose => exact execCollatorEntryCloseState_canonical h
  | orphan => exact execOrphanState_canonical h
  | contextWrite => exact execContextWriteState_canonical h
  | extentGet => exact execExtentGetState_canonical h
  | extentWrite => exact execExtentWriteState_canonical h
  | extentPut => exact execExtentPutState_canonical h
  | stage => exact execStageState_canonical h
  | tileStands => exact execTileStandsState_canonical h
  | stageReadFailed => exact execStageReadFailedState_canonical h
  | tileFree => exact execTileFreeState_canonical h
  | rehome => exact execRehomeState_canonical h
  | evict => exact execEvictState_canonical h
  | writeBack => exact execWriteBackState_canonical h
  | moveOut => exact execMoveOutState_canonical h
  | moveOutCompletion => exact execMoveOutCompletionState_canonical h
  | moveOutTimeout => exact execMoveOutTimeoutState_canonical h
  | exportOut => exact execExportOutState_canonical h
  | pageWrite => exact execPageWriteState_canonical h
  | move => exact execMoveState_canonical h
  | export_ => exact execExportState_canonical h
  | scraperEvict => exact execScraperEvictState_canonical h
  | burnisherZero => exact execBurnisherZeroState_canonical h
  | reverify => exact execReverifyState_canonical h
  | writeBackPass => exact execWriteBackPassState_canonical h
  | tierProgramDone => exact execTierProgramDoneState_canonical h
  | tierRead => exact execTierReadState_canonical h
  | tierWrite => exact execTierWriteState_canonical h
  | tierTrim => exact execTierTrimState_canonical h
  | tierStallRetry => exact execTierStallRetryState_canonical h
  | fshCtrlSkip => exact execFshCtrlSkipState_canonical h
  | flashMount => exact execFlashMountState_canonical h
  | zeroSlots => exact execZeroSlotsState_canonical h
  | zeroTiles => exact execZeroTilesState_canonical h
  | zeroB2 => exact execZeroB2State_canonical h
  | pltLoad => exact execPltLoadState_canonical h
  | loadComplete => exact execLoadCompleteState_canonical h
  | pltSeal => exact execPltSealState_canonical h
  | rankSwitch => exact execRankSwitchState_canonical h
  | pltArm => exact execPltArmState_canonical h
  | islandAck => exact execIslandAckState_canonical h
  | pltCommit => exact execPltCommitState_canonical h
  | pltAbort => exact execPltAbortState_canonical h
  | deltaBoundary => exact execDeltaBoundaryState_canonical h
  | plateLost => exact execPlateLostState_canonical h
  | heartbeat => exact execHeartbeatState_canonical h
  | peersLost => exact execPeersLostState_canonical h
  | ppsEdge => exact execPpsEdgeState_canonical h
  | phaseStep => exact execPhaseStepState_canonical h
  | markMissing => exact execMarkMissingState_canonical h
  | setSeconds => exact execSetSecondsState_canonical h
  | rereg => exact execReregState_canonical h
  | registration => exact execRegistrationState_canonical h
  | timCtrlBarrier => exact execTimCtrlBarrierState_canonical h
  | barrier => exact execBarrierState_canonical h
  | barrierOutPulse => exact execBarrierOutPulseState_canonical h
  | barrierInEdge => exact execBarrierInEdgeState_canonical h
  | barrierStart => exact execBarrierStartState_canonical h
  | laneTrained => exact execLaneTrainedState_canonical h
  | laneLost => exact execLaneLostState_canonical h
  | prtCtrlRetrain => exact execPrtCtrlRetrainState_canonical h
  | laneReturn => exact execLaneReturnState_canonical h
  | portDrop => exact execPortDropState_canonical h
  | portReturn => exact execPortReturnState_canonical h
  | frameStart => exact execFrameStartState_canonical h
  | frameReceive => exact execFrameReceiveState_canonical h
  | tfxFrameAccept => exact execTfxFrameAcceptState_canonical h
  | ackSend => exact execAckSendState_canonical h
  | retransmit => exact execRetransmitState_canonical h
  | rollStall => exact execRollStallState_canonical h
  | creditShrink => exact execCreditShrinkState_canonical h
  | closingEnd => exact execClosingEndState_canonical h
  | rdmaRd => exact execRdmaRdState_canonical h
  | rdmaWr => exact execRdmaWrState_canonical h
  | atomic => exact execAtomicState_canonical h
  | trig => exact execTrigState_canonical h
  | resp => exact execRespState_canonical h
  | ringWrite => exact execRingWriteState_canonical h
  | post => exact execPostState_canonical h
  | reclaim => exact execReclaimState_canonical h
  | ringLeaseExpiry => exact execRingLeaseExpiryState_canonical h
  | send => exact execSendState_canonical h
  | regionReg => exact execRegionRegState_canonical h
  | regionDereg => exact execRegionDeregState_canonical h
  | ringBind => exact execRingBindState_canonical h
  | counterReset => exact execCounterResetState_canonical h
  | postWr => exact execPostWrState_canonical h
  | wrCancel => exact execWrCancelState_canonical h
  | connClose => exact execConnCloseState_canonical h
  | cqDoorbell => exact execCqDoorbellState_canonical h
  | hostAttn => exact execHostAttnState_canonical h
  | hostCancel => exact execHostCancelState_canonical h
  | listCompletion => exact execListCompletionState_canonical h
  | cqEnable => exact execCqEnableState_canonical h
  | flr => exact execFlrState_canonical h
  | perst => exact execPerstState_canonical h
  | hubB2map => exact mapBytes_canonical h
  | remoteLoad => exact execRemoteLoadState_canonical h
  | remoteStore => exact execRemoteStoreState_canonical h
  | deadTarget => exact execDeadTargetState_canonical h
  | keyOffer => exact execKeyOfferState_canonical h
  | keyAccept => exact execKeyAcceptState_canonical h
  | keyErase => exact execKeyEraseState_canonical h
  | curveOpDone => exact execCurveOpDoneState_canonical h
  | offerExpiry => exact execOfferExpiryState_canonical h
  | scrub => exact execScrubState_canonical h
  | scrubStep => exact execScrubStepState_canonical h
  | fuseSvn => exact execFuseSvnState_canonical h
  | curveMult => exact execCurveMultState_canonical h
  | unfence => exact execUnfenceState_canonical h
  | b2Write => exact execB2WriteState_canonical h
  | b2Read => exact execB2ReadState_canonical h
  | getMeasurements => exact execGetMeasurementsState_canonical h
  | keyExchange => exact execKeyExchangeState_canonical h
  | ideKm => exact execIdeKmState_canonical h
  | ideFail => exact execIdeFailState_canonical h
  | lockInterface => exact execLockInterfaceState_canonical h
  | startInterface => exact execStartInterfaceState_canonical h
  | stopInterface => exact execStopInterfaceState_canonical h
  | cut => exact execCutState_canonical h
  | deferredTakesEffect => exact execDeferredTakesEffectState_canonical h
  | vauxInRange => exact execVauxInRangeState_canonical h
  | sysRstN => exact execSysRstNState_canonical h
  | vinMainRange => exact execVinMainRangeState_canonical h
  | stageComplete => exact execStageCompleteState_canonical h
  | mainPowerStart => exact execMainPowerStartState_canonical h
  | powerSample => exact execPowerSampleState_canonical h
  | dramTempSample => exact execDramTempSampleState_canonical h
  | thermalDemand => exact execThermalDemandState_canonical h
  | flowWindow => exact execFlowWindowState_canonical h
  | coolantCut => exact execCoolantCutState_canonical h
  | cap => exact execCapState_canonical h
  | pwrGgateReq => exact execPwrGgateReqState_canonical h
  | pwrGate => exact execPwrGateState_canonical h
  | gateTakesEffect => exact execGateTakesEffectState_canonical h
  | pwrCtrlSkip => exact execPwrCtrlSkipState_canonical h
  | holdEnter => exact execHoldEnterState_canonical h
  | holdExit => exact execHoldExitState_canonical h
  | restart => exact execRestartState_canonical h
  | off => exact execOffState_canonical h
  | graverHang => exact execGraverHangState_canonical h
  | leaseRevoked => exact execLeaseRevokedState_canonical h
  | coreReset => exact execCoreResetState_canonical h
  | trustRestart => exact execTrustRestartState_canonical h
  | reconcile => exact execReconcileState_canonical h
  | traceRecordWrite => exact execTraceRecordWriteState_canonical h
  | evtSel => exact execEvtSelState_canonical h
  | clearUe => exact execClearUeState_canonical h
  | clearOther => exact execClearOtherState_canonical h
  | wearUpdate => exact execWearUpdateState_canonical h
  | mctpPacket => exact execMctpPacketState_canonical h
  | setEndpointId => exact execSetEndpointIdState_canonical h
  | regRead => exact execRegReadState_canonical h
  | regWrite => exact execRegWrite_outcome h
  | getSensorReading => exact execGetSensorReadingState_canonical h
  | getPdr => exact execGetPdrState_canonical h
  | setEventReceiver => exact execSetEventReceiverState_canonical h
  | pollForPlatformEvent => exact execPollForPlatformEventState_canonical h
  | platformEventRetry => exact execPlatformEventRetryState_canonical h
  | sensorRefresh => exact execSensorRefreshState_canonical h
  | requestUpdate => exact execRequestUpdateState_canonical h
  | updateComponent => exact execUpdateComponentState_canonical h
  | verifyComponent => exact execVerifyComponentState_canonical h
  | applyComplete => exact execApplyCompleteState_canonical h
  | activateFirmware => exact execActivateFirmwareState_canonical h
  | cancelUpdate => exact execCancelUpdateState_canonical h
  | updateTimeout => exact execUpdateTimeoutState_canonical h
  | hostLinkTrained => exact execHostLinkTrainedState_canonical h
  | hostPowerManagementRequest => exact execHostPowerManagementRequestState_canonical h
  | junctionTemperatureSample => exact execJunctionTemperatureSampleState_canonical h

theorem step_outcome (h : memoriesCanonical s) : outcomeCanonical (step s) := by
  cases pending : s.pending with
  | nil =>
    rw [show step s = .next s by simp only [step, pending]]
    exact h
  | cons c rest =>
    rw [show step s = exec c { s with pending := rest } by simp only [step, pending]]
    have queued : memoriesCanonical { s with pending := rest } := frame_canonical h rfl rfl
    exact exec_outcome queued c

end operations

/-- Settles O59: every operation of the model keeps the form, so every instruction and every step does. -/
theorem memoriesStayCanonical : Obligations.MemoriesStayCanonical := by
  unfold Obligations.MemoriesStayCanonical
  intro s t stepped canonical
  have outcome := step_outcome canonical
  rw [stepped] at outcome
  exact outcome

end Sys2Proof.Proofs

/-! ## CONTEXT_WRITE and the extent commands -/

namespace Sys2Proof.Proofs

open Sys2Proof Sys2Proof.Machine Sys2Proof.Safety

section commands

variable {f op : Nat} {c : Cmd} {s t : State}

/-! ### A residency command that is ready runs or is refused by its own reasons -/

/-- A ready command that no reason refuses runs. -/
theorem runRes_runs {fs reason ok} (ready : resReady f op fs c s) (admitted : reason c s = none) :
    runRes f op false fs reason ok s = ok c s := by
  obtain ⟨⟨front, fields, party⟩, idle, running⟩ := ready
  simp [runRes, runFront, front, fields, party, idle, running, admitted]

/-- A ready command with a reason against it is refused with it. -/
theorem runRes_refuses {fs reason ok r} (ready : resReady f op fs c s) (against : reason c s = some r) :
    runRes f op false fs reason ok s = refuseCmd c r s := by
  obtain ⟨⟨front, fields, -⟩, idle, running⟩ := ready
  simp [runRes, runFront, front, fields, idle, running, against]

/-! ### Contexts -/

/-- A write that closes a context turns bit 63 of an open descriptor off. -/
theorem ctxCloses_bits {old new : Nat} (bounded : old < 2 ^ 64) (closes : ctxCloses old new = true) :
    bit old 63 = true ∧ bit new 63 = false := by
  obtain ⟨isOpen, sum⟩ := Bool.and_eq_true_iff.mp closes
  have sum : new + 2 ^ 63 = old := beq_iff_eq.mp sum
  have below : new / 2 ^ 63 = 0 := Nat.div_eq_of_lt (by omega)
  exact ⟨isOpen, by unfold bit; rw [below]; rfl⟩

/-- Opening a context stores the descriptor and clears what the context had. -/
theorem storeCtx_opens {ctx new : Nat} (shut : bit (ctxWord ctx s).toNat 63 = false) (opens : bit new 63 = true) :
    storeCtx ctx new s = { s with res := { s.res with
      ctxs := put 0 s.res.ctxs ctx (BitVec.ofNat 64 new), lens := put 0 s.res.lens ctx 0
      lensBefore := put (0, 0) s.res.lensBefore ctx (0, 0), staged := s.res.staged.filter (fun x => x.1 / 2 ^ 17 != ctx)
      ctxUe := s.res.ctxUe.filter (· != ctx) } } := by
  simp [storeCtx, shut, opens]

/-- Closing a context stores the descriptor and leaves its TAIL bits to be cleared. -/
theorem storeCtx_closes {ctx new : Nat} (closes : ctxCloses (ctxWord ctx s).toNat new = true) :
    storeCtx ctx new s = { s with
      res := { s.res with ctxs := put 0 s.res.ctxs ctx (BitVec.ofNat 64 new) }
      dir := { s.dir with tailClear := s.dir.tailClear ++ [((ctxGeo ctx s).tenant, ctx)] } } := by
  obtain ⟨isOpen, shut⟩ := ctxCloses_bits (ctxWord ctx s).isLt closes
  simp [storeCtx, isOpen, shut, ctxGeo]

/-- A CONTEXT_WRITE for a context that is shut or the partition's own is stored, where its descriptor names the partition and R34
allows it. -/
theorem contextWrite_admitted (ready : resReady f 1 [(0, 21), (8, 64)] c s)
    (old : (ctxGeo (field (c.arg 0 4) 0 21) s).isOpen = false ∨ (ctxGeo (field (c.arg 0 4) 0 21) s).part = c.part)
    (new : (geoOf (c.arg 8 8)).part = c.part) (legal : ctxRejects (field (c.arg 0 4) 0 21) (c.arg 8 8) s = false) :
    exec (.contextWrite f) s = .next (endCmd c 0 0 0 (storeCtx (field (c.arg 0 4) 0 21) (c.arg 8 8) s)) := by
  refine congrArg Host.Outcome.next (runRes_runs ready ?_)
  rcases old with shut | mine
  · simp [lowestReason, lowest, shut, new, legal]
  · simp [lowestReason, lowest, mine, new, legal]

theorem contextWrite_rejected (ready : resReady f 1 [(0, 21), (8, 64)] c s)
    (old : (ctxGeo (field (c.arg 0 4) 0 21) s).part = c.part) (new : (geoOf (c.arg 8 8)).part = c.part)
    (rejects : ctxRejects (field (c.arg 0 4) 0 21) (c.arg 8 8) s = true) :
    exec (.contextWrite f) s = .next (refuseCmd c 6 s) := by
  refine congrArg Host.Outcome.next (runRes_refuses ready ?_)
  simp [lowestReason, lowest, minCode, old, new, rejects]

/-- R34 allows a write that only closes a context, reserved bits aside. -/
theorem ctxRejects_of_closes {ctx new : Nat} (closes : ctxCloses (ctxWord ctx s).toNat new = true)
    (reserved : field new 43 20 = 0) : ctxRejects ctx new s = false := by
  simp [ctxRejects, closes, reserved]

/-! ### Extents -/

/-- An allocation means a free extent and room in the quota; it builds the extent and may use up a free value. -/
theorem allocExtent_some {p x : Nat} (alloc : allocExtent p s = some (x, t)) :
    0 < extFree s ∧ extHeld p s < extQuota p s ∧ t = setExtent x { st := .built p } (pick (extFree s) s).2 := by
  unfold allocExtent at alloc
  split at alloc
  · cases alloc
  · next room =>
    cases alloc
    exact ⟨by omega, by omega, rfl⟩

theorem allocExtents_one {p x : Nat} (alloc : allocExtent p s = some (x, t)) : allocExtents p 1 s = some ([x], t) := by
  simp [allocExtents, alloc]

/-- EXTENT_GET within the counts, the pool, the quota and the function's BAR2 writes out the indices it gets. -/
theorem extentGet_gets {xs : List Nat} (ready : resReady f 2 [(0, 32), (8, 64)] c s) (atLeastOne : 0 < c.arg 0 4)
    (most : c.arg 0 4 ≤ 64) (place : b2Ok c.f (c.arg 8 8) (4 * c.arg 0 4) s = true) (pool : c.arg 0 4 ≤ extFree s)
    (quota : extHeld c.part s + c.arg 0 4 ≤ extQuota c.part s) (alloc : allocExtents c.part (c.arg 0 4) s = some (xs, t)) :
    exec (.extentGet f) s = .next (endCmd c 0 0 xs.length (b2Write c.f (c.arg 8 8) (xs.flatMap (leBytes 4)) t)) := by
  have admitted : lowestReason [(!b2Ok c.f (c.arg 8 8) (4 * min (c.arg 0 4) 64) s, 2),
      (extFree s < c.arg 0 4 || extQuota c.part s < extHeld c.part s + c.arg 0 4, 5),
      (c.arg 0 4 = 0 || 64 < c.arg 0 4, 6)] = none := by
    have counts : ¬ (c.arg 0 4 = 0 ∨ 64 < c.arg 0 4) := by omega
    have supply : ¬ (extFree s < c.arg 0 4 ∨ extQuota c.part s < extHeld c.part s + c.arg 0 4) := by omega
    rw [Nat.min_eq_left most]
    simp [lowestReason, lowest, place, counts, supply]
  refine congrArg Host.Outcome.next ((runRes_runs ready admitted).trans ?_)
  rw [alloc]

theorem extentGet_short (ready : resReady f 2 [(0, 32), (8, 64)] c s)
    (place : b2Ok c.f (c.arg 8 8) (4 * min (c.arg 0 4) 64) s = true) (atLeastOne : 0 < c.arg 0 4)
    (short : extFree s < c.arg 0 4 ∨ extQuota c.part s < extHeld c.part s + c.arg 0 4) :
    exec (.extentGet f) s = .next (refuseCmd c 5 s) := by
  refine congrArg Host.Outcome.next (runRes_refuses ready ?_)
  by_cases many : 64 < c.arg 0 4
  · simp [lowestReason, lowest, minCode, place, short, many]
  · have counts : ¬ (c.arg 0 4 = 0 ∨ 64 < c.arg 0 4) := by omega
    simp [lowestReason, lowest, minCode, place, short, counts]

theorem extentReasons_built (built : (extent (field (c.arg 0 4) 0 20) s).st = .built c.part) :
    extentReasons c s = [(false, 3), (false, 4)] := by
  simp [extentReasons, extBuiltFor, built, extPart]

/-- A fold of operations on the residency changes the residency. -/
theorem foldl_res_frame {α : Type} {g : State → α → State} (step : ∀ s a, g s a = { s with res := (g s a).res }) (l : List α)
    (s : State) : l.foldl g s = { s with res := (l.foldl g s).res } := by
  induction l generalizing s with
  | nil => rfl
  | cons a l ih =>
    exact (ih (g s a)).trans (congrArg (fun u : State => { u with res := (l.foldl g (g s a)).res }) (step s a))

/-- TLPNs that are trimmed leave the flash and the tier's bytes. -/
theorem foldl_trimTlpn_frame (l : List Nat) (s : State) : l.foldl trimTlpn s =
    { s with fsh := (l.foldl trimTlpn s).fsh, mem := { s.mem with tier := (l.foldl trimTlpn s).mem.tier } } := by
  induction l generalizing s with
  | nil => rfl
  | cons a l ih => exact ih (trimTlpn s a)

theorem reword_frame (x : Nat) (words : Store Nat) (s : State) :
    reword x words s = { setExtent x { extent x s with words := words, former := once (slotsOf (extent x s)) } s with
      res := (reword x words s).res } := by
  unfold reword
  exact foldl_res_frame (fun _ _ => rfl) _ _

/-- Beside the extent itself, freeing it changes the residency's record of slots, the flash and the tier's bytes. -/
theorem freeExtent_frame (x : Nat) (s : State) : ∃ res fsh tier,
    freeExtent x s = { setExtent x {} s with res := res, fsh := fsh, mem := { s.mem with tier := tier } } := by
  unfold freeExtent
  dsimp only
  rw [foldl_trimTlpn_frame, foldl_res_frame (g := slotAwaits) (fun _ _ => rfl)]
  exact ⟨_, _, _, rfl⟩

/-- What an extent reads after it is written with words: the record is not the default, so it is listed. -/
theorem extent_reword {x p : Nat} (words : Store Nat) (built : (extent x s).st = .built p) :
    extent x (reword x words s) = { extent x s with words := words, former := once (slotsOf (extent x s)) } := by
  rw [reword_frame]
  refine look_put_self_ne _ x fun same => ?_
  have free := congrArg Extent.st same
  rw [built] at free
  cases free

theorem extentWrite_writes (ready : resReady f 3 [(0, 20), (8, 64)] c s) (place : b2Ok c.f (c.arg 8 8) 256 s = true)
    (built : (extent (field (c.arg 0 4) 0 20) s).st = .built c.part)
    (legal : ((extentWords c s).any fun w =>
      (wordState w < 2 && otherQuota c.part (wordSlot w) s) || wordRefused c.part w s) = false) :
    exec (.extentWrite f) s =
      .next (endCmd c 0 0 0 (reword (field (c.arg 0 4) 0 20) (changeWords [] (indexed 0 (extentWords c s))) s)) := by
  refine congrArg Host.Outcome.next (runRes_runs ready ?_)
  have each := List.any_eq_false.mp legal
  have own : ((extentWords c s).any fun w => wordState w < 2 && otherQuota c.part (wordSlot w) s) = false :=
    List.any_eq_false.mpr fun w mem bad => each w mem (by rw [bad, Bool.true_or])
  have fit : ((extentWords c s).any fun w => wordRefused c.part w s) = false :=
    List.any_eq_false.mpr fun w mem bad => each w mem (by rw [bad, Bool.or_true])
  simp only [lowestReason, extentReasons_built built, place, own, fit]
  rfl

theorem extentPut_frees (ready : resReady f 4 [(0, 20)] c s)
    (built : (extent (field (c.arg 0 4) 0 20) s).st = .built c.part) :
    exec (.extentPut f) s = .next (endCmd c 0 0 0 (freeExtent (field (c.arg 0 4) 0 20) s)) := by
  refine congrArg Host.Outcome.next (runRes_runs ready ?_)
  rw [extentReasons_built built]
  rfl

end commands

/-- Settles O21: each command, ready and with no reason against it, runs its operation on the state. -/
theorem contextAndExtents : Obligations.ContextAndExtents := by
  unfold Obligations.ContextAndExtents
  refine ⟨?_, ?_, ?_, ?_, ?_, ?_, ?_, ?_⟩
  · intro f c s ready shut opens mine legal
    rw [contextWrite_admitted ready (.inl shut) mine legal, storeCtx_opens shut opens]
  · intro f c s ready closes old new reserved
    rw [contextWrite_admitted ready (.inr old) new (ctxRejects_of_closes closes reserved), storeCtx_closes closes]
  · intro f c s ready old new rejects
    exact contextWrite_rejected ready old new rejects
  · intro f x c t s ready one place alloc
    obtain ⟨free, room, built⟩ := allocExtent_some alloc
    have gets := extentGet_gets (xs := [x]) ready (by omega) (by omega) (by rw [one]; exact place) (by omega) (by omega)
      (by rw [one]; exact allocExtents_one alloc)
    rw [List.flatMap_singleton] at gets
    subst built
    refine ⟨gets, ?_, ?_⟩ <;> rw [pick_frame] <;> rfl
  · intro f c s ready place many short
    exact extentGet_short ready place many short
  · intro f c s ready place built legal
    refine ⟨_, extentWrite_writes ready place built legal, extent_reword _ built, ?_, ?_⟩
    all_goals
      rw [reword_frame]
      rfl
  · intro f c s ready built
    obtain ⟨res, fsh, tier, frees⟩ := freeExtent_frame (field (c.arg 0 4) 0 20) s
    refine ⟨_, extentPut_frees ready built, ?_, ?_⟩ <;> rw [frees] <;> rfl
  · intro f c xs t s ready many most place pool quota alloc
    exact extentGet_gets ready many most place pool quota alloc

end Sys2Proof.Proofs

/-! ## The page directory: its ports and its upkeep (03_page_directory.md) -/

namespace Sys2Proof.Proofs

open Sys2Proof Sys2Proof.Machine

/-! ### Stores and lists -/

section stores

variable {α : Type} [DecidableEq α] {d : α}

/-- A write below every key of a canonical store becomes its first entry. -/
theorem put_below {k : Nat} {m : Store α} (wf : storeFrom d (k + 1) m = true) {v : α} (listed : v ≠ d) :
    put d m k v = (k, v) :: m := by
  cases m with
  | nil => rw [put_nil, if_neg listed]
  | cons x t =>
    obtain ⟨k', v'⟩ := x
    simp only [storeFrom, Bool.and_eq_true, decide_eq_true_eq] at wf
    rw [put_cons, if_pos (by omega), if_neg listed]

theorem put_restores_from {lo k : Nat} {m : Store α} (wf : storeFrom d lo m = true) (v : α) :
    put d (put d m k v) k (look d m k) = m := by
  induction m generalizing lo with
  | nil =>
    rw [put_nil, look_nil]
    split <;> simp [put_cons]
  | cons x t ih =>
    obtain ⟨k', v'⟩ := x
    simp only [storeFrom, Bool.and_eq_true, decide_eq_true_eq] at wf
    obtain ⟨⟨-, listed⟩, rest⟩ := wf
    rcases Nat.lt_trichotomy k k' with before | here | after
    · have unlisted : look d ((k', v') :: t) k = d := by
        rw [look_cons, if_neg (by omega)]
        exact look_below rest (by omega)
      rw [unlisted, put_cons, if_pos before]
      split <;> simp [put_cons, before]
    · subst here
      rw [look_cons, if_pos rfl, put_cons, if_neg (by omega), if_pos rfl]
      split
      · exact put_below rest listed
      · simp [put_cons, listed]
    · have apart : ¬ k < k' ∧ k ≠ k' := by omega
      rw [look_cons, if_neg (Ne.symm apart.2), put_cons, if_neg apart.1, if_neg apart.2, put_cons, if_neg apart.1,
        if_neg apart.2, ih rest]

/-- Writing back what a canonical store held undoes a write. -/
theorem put_restores {m : Store α} (wf : storeWf d m = true) (k : Nat) (v : α) :
    put d (put d m k v) k (look d m k) = m := put_restores_from wf v

omit [DecidableEq α] in
/-- An index that is not listed reads the default. -/
theorem look_unlisted {m : Store α} {k : Nat} (unlisted : k ∉ m.map (·.1)) : look d m k = d := by
  induction m with
  | nil => rfl
  | cons x t ih =>
    simp only [List.map_cons, List.mem_cons, not_or] at unlisted
    rw [look_cons, if_neg (Ne.symm unlisted.1), ih unlisted.2]

end stores

@[simp] theorem mem_once {a : Nat} {l : List Nat} : a ∈ once l ↔ a ∈ l := by
  induction l with
  | nil => rfl
  | cons b l ih =>
    by_cases same : a = b
    · simp [once, same]
    · simp [once, same, ih]

theorem once_nodup (l : List Nat) : (once l).Nodup := by
  induction l with
  | nil => exact List.nodup_nil
  | cons a l ih => exact List.nodup_cons.mpr ⟨by simp, ih.filter _⟩

/-- Of a list with each element once, a range of one number leaves that number. -/
theorem once_filter_single {i : Nat} {l : List Nat} (mem : i ∈ l) :
    (once l).filter (fun j => i ≤ j && j < i + 1) = [i] := by
  have one : (once l).count i = 1 := List.count_eq_one_of_mem (once_nodup l) (mem_once.mpr mem)
  have range : (fun j => decide (i ≤ j) && decide (j < i + 1)) = fun j => j == i := by
    funext j
    rw [Bool.eq_iff_iff]
    simp only [Bool.and_eq_true, decide_eq_true_eq, beq_iff_eq]
    omega
  rw [range, List.filter_beq, one, List.replicate_one]

/-! ### Entries and their shadows (R76) -/

section integrity

variable {s : State}

/-- Of entries that agree with their shadows none is rewritten. -/
theorem repairAll_agreeing {is : List Nat} (agree : is.all (fun i => shadowAgrees i s) = true) : repairAll is s = s := by
  induction is with
  | nil => rfl
  | cons i is ih =>
    obtain ⟨head, tail⟩ := Bool.and_eq_true_iff.mp agree
    exact (congrArg (repairAll is) (if_pos head)).trans (ih tail)

theorem repairAll_agreeing_one {i : Nat} (agree : shadowAgrees i s = true) : repairAll [i] s = s := if_pos agree

theorem repairAll_differing_one {i : Nat} (differs : shadowAgrees i s = false) : repairAll [i] s = repairEntry i s :=
  if_neg (Bool.eq_false_iff.mp differs)

theorem repairHits_agreeing {p : Nat} {key mask : BitVec 80}
    (agree : (rawHits p key mask s).all (fun i => shadowAgrees i s) = true) : repairHits p key mask s = s :=
  repairAll_agreeing agree

/-- Where a search's hits agree with their shadows it delivers the lowest match at or above its index. -/
theorem checkedSearch_agreeing {p low : Nat} {key mask : BitVec 80}
    (agree : (rawHits p key mask s).all (fun i => shadowAgrees i s) = true) :
    checkedSearch p key mask low [] s = ((dirMatches p key mask s).find? fun i => low ≤ i, s) := by
  have none : (rawHits p key mask s).filter (fun i => ([] : List Nat).contains i) = [] := by simp
  simp only [checkedSearch, none, List.foldl_nil, repairHits_agreeing agree]

theorem bulkInvalidate_count {p : Nat} {key mask : BitVec 80}
    (agree : (rawHits p key mask s).all (fun i => shadowAgrees i s) = true) :
    (bulkInvalidate p key mask s).1 =
      ((dirMatches p key mask s).filter fun i => !dataTail (dirEntry i s).data).length := by
  simp only [bulkInvalidate, repairHits_agreeing agree]

/-- An entry that differs from its shadow is listed, or its shadow is. -/
theorem listed_of_differs {i : Nat} (differs : shadowAgrees i s = false) :
    i ∈ s.dir.entries.map (·.1) ++ s.dir.shadows.map (·.1) := by
  by_contra unlisted
  simp only [List.mem_append, not_or] at unlisted
  have entry : rawEntry i s = {} := look_unlisted unlisted.1
  have shadow : dirShadow i s = {} := look_unlisted unlisted.2
  rw [shadowAgrees, dirEntry, entry, shadow] at differs
  exact absurd differs (by decide)

/-! ### A struck entry -/

theorem rawEntry_strike {i : Nat} (inRange : i < 262144) (wf : storeWf {} s.dir.entries = true) (f : DirEntry → DirEntry) :
    rawEntry i (strikeEntry i f s) = f (rawEntry i s) := by
  rw [strikeEntry, if_pos inRange]
  exact (look_put wf i i _).trans (if_pos rfl)

theorem dirShadow_strike (i j : Nat) (f : DirEntry → DirEntry) : dirShadow j (strikeEntry i f s) = dirShadow j s := by
  unfold strikeEntry
  split <;> rfl

/-- What bit flips in its key and data make of an entry. -/
def flipped (k : BitVec 80) (x : BitVec 48) (e : DirEntry) : DirEntry := { e with key := e.key ^^^ k, data := e.data ^^^ x }

/-- The shadow covers what was struck. -/
@[simp] theorem fromShadow_flipped (h : DirShadow) (k : BitVec 80) (x : BitVec 48) (e : DirEntry) :
    fromShadow h (flipped k x e) = fromShadow h e := rfl

theorem applyFlips_one (i : Nat) (k : BitVec 80) (x : BitVec 48) (s : State) :
    applyFlips ⟨[(i, k, x)], [], [], []⟩ s = strikeEntry i (flipped k x) s := rfl

/-- An entry whose key was struck differs from the shadow it agreed with. -/
theorem strikeKey_differs {i : Nat} {k : BitVec 80} {x : BitVec 48} (inRange : i < 262144) (wf : storeWf {} s.dir.entries = true)
    (agree : shadowAgrees i s = true) (flips : k ≠ 0) :
    shadowAgrees i (strikeEntry i (flipped k x) s) = false := by
  have key : (dirShadow i s).key = (rawEntry i s).key := congrArg DirEntry.key (beq_iff_eq.mp agree)
  refine beq_eq_false_iff_ne.mpr fun same => flips ?_
  rw [dirEntry, dirShadow_strike, rawEntry_strike inRange wf] at same
  have unchanged : (rawEntry i s).key = (rawEntry i s).key ^^^ k := key.symm.trans (congrArg DirEntry.key same)
  calc k = (rawEntry i s).key ^^^ ((rawEntry i s).key ^^^ k) := by rw [← BitVec.xor_assoc, BitVec.xor_self, BitVec.zero_xor]
    _ = 0 := by rw [← unchanged, BitVec.xor_self]; rfl

/-- A strike is undone, and counted, when the entry is rewritten from the shadow it agreed with. -/
theorem repairEntry_struck {i : Nat} {k : BitVec 80} {x : BitVec 48} (inRange : i < 262144) (wf : storeWf {} s.dir.entries = true)
    (agree : shadowAgrees i s = true) :
    repairEntry i (strikeEntry i (flipped k x) s) = countEvent cKeyRepaired unitNode s := by
  have entry : dirEntry i s = look {} s.dir.entries i := beq_iff_eq.mp agree
  have back : put {} (strikeEntry i (flipped k x) s).dir.entries i (dirEntry i (strikeEntry i (flipped k x) s)) =
      s.dir.entries := by
    rw [dirEntry, dirShadow_strike, rawEntry_strike inRange wf, fromShadow_flipped, strikeEntry, if_pos inRange]
    exact (congrArg _ entry).trans (put_restores wf i _)
  rw [repairEntry, back, strikeEntry, if_pos inRange]

end integrity

/-! ### What changes entries alone -/

/-- The second state differs from the first at most in the directory's entries and shadows and in what was counted and logged. -/
def EntriesOnly (s t : State) : Prop := ∃ entries shadows ctr flt,
  t = { s with dir := { s.dir with entries := entries, shadows := shadows }, ctr := ctr, flt := flt }

namespace EntriesOnly

variable {s t u : State}

theorem refl (s : State) : EntriesOnly s s := ⟨_, _, _, _, rfl⟩

theorem trans (first : EntriesOnly s t) (second : EntriesOnly t u) : EntriesOnly s u := by
  obtain ⟨_, _, _, _, rfl⟩ := first
  obtain ⟨_, _, _, _, rfl⟩ := second
  exact ⟨_, _, _, _, rfl⟩

theorem foldl {α : Type} {f : State → α → State} (each : ∀ s a, EntriesOnly s (f s a)) (l : List α) (s : State) :
    EntriesOnly s (l.foldl f s) := by
  induction l generalizing s with
  | nil => exact refl s
  | cons a l ih => exact (each s a).trans (ih (f s a))

theorem ite {c : Prop} [Decidable c] (yes : EntriesOnly s t) (no : EntriesOnly s u) : EntriesOnly s (if c then t else u) := by
  split
  · exact yes
  · exact no

theorem extents (h : EntriesOnly s t) : t.dir.extents = s.dir.extents := by
  obtain ⟨_, _, _, _, rfl⟩ := h
  rfl

theorem extent (h : EntriesOnly s t) (x : Nat) : Machine.extent x t = Machine.extent x s := by
  rw [Machine.extent, h.extents]
  rfl

theorem stateSwaps (h : EntriesOnly s t) : t.dir.stateSwaps = s.dir.stateSwaps := by
  obtain ⟨_, _, _, _, rfl⟩ := h
  rfl

theorem patrolPos (h : EntriesOnly s t) : t.dir.patrolPos = s.dir.patrolPos := by
  obtain ⟨_, _, _, _, rfl⟩ := h
  rfl

theorem patrolCycles (h : EntriesOnly s t) : t.dir.patrolCycles = s.dir.patrolCycles := by
  obtain ⟨_, _, _, _, rfl⟩ := h
  rfl

theorem writeEntry (i : Nat) (e : DirEntry) (s : State) : EntriesOnly s (Machine.writeEntry i e s) := ⟨_, _, _, _, rfl⟩

theorem repairEntry (i : Nat) (s : State) : EntriesOnly s (Machine.repairEntry i s) := by
  rw [Machine.repairEntry, countEvent_frame]
  exact ⟨_, _, _, _, rfl⟩

theorem repairAll (is : List Nat) (s : State) : EntriesOnly s (Machine.repairAll is s) :=
  foldl (fun s i => ite (refl s) (repairEntry i s)) is s

theorem setTailBit (i : Nat) (tail : Bool) (s : State) : EntriesOnly s (Machine.setTailBit i tail s) :=
  ite (refl s) (writeEntry i _ s)

theorem placeTail (ctx layer group : Nat) (s : State) : EntriesOnly s (Machine.placeTail ctx layer group s) :=
  (repairAll _ s).trans (foldl (fun s i => setTailBit i _ s) _ _)

theorem strikeEntry (i : Nat) (f : DirEntry → DirEntry) (s : State) : EntriesOnly s (Machine.strikeEntry i f s) :=
  ite ⟨_, _, _, _, rfl⟩ (refl s)

theorem applyFlips (up : DirUpset) (s : State) : EntriesOnly s (Machine.applyFlips up s) :=
  (foldl (fun s (x : Nat × BitVec 80 × BitVec 48) => strikeEntry x.1 _ s) _ s).trans <|
    (foldl (fun s i => strikeEntry i _ s) _ _).trans (foldl (fun s i => strikeEntry i _ s) _ _)

end EntriesOnly

/-! ### The patrol (R77) -/

section patrol

variable {s t : State}

/-- The listed entries that the patrol compares in this stroke. -/
def patrolled (up : DirUpset) (s : State) : List Nat :=
  (once (s.dir.entries.map (·.1) ++ s.dir.shadows.map (·.1) ++ up.shadowUe)).filter fun i =>
    s.dir.patrolPos ≤ i && i < s.dir.patrolPos + min s.dir.patrolCycles (262144 - s.dir.patrolPos)

/-- Short of the last entry the patrol compares its entries and moves on by its cycles. -/
theorem directoryPatrol_short {up : DirUpset} (flips : applyFlips up s = t)
    (short : t.dir.patrolPos + t.dir.patrolCycles < 262144) :
    exec (.directoryPatrol up) s = .next { (patrolled up t).foldl (patrolEntry up.shadowUe) t with
      dir.patrolPos := t.dir.patrolPos + t.dir.patrolCycles, dir.patrolCycles := 0 } := by
  have cycles : min t.dir.patrolCycles (262144 - t.dir.patrolPos) = t.dir.patrolCycles := by omega
  refine congrArg Host.Outcome.next ?_
  simp only [execDirectoryPatrolState, flips, patrolled, cycles, if_neg (Nat.ne_of_lt short)]

/-- With every shadow readable, the patrol rewrites what differs. -/
theorem patrolEntries_repair (is : List Nat) (s : State) : is.foldl (patrolEntry []) s = repairAll is s := rfl

/-- Whatever is struck or lost, the patrol moves on by its cycles and starts again after the last entry. -/
theorem directoryPatrol_moves (up : DirUpset) (s : State) : ∃ t, exec (.directoryPatrol up) s = .next t ∧
    t.dir.patrolCycles = 0 ∧
    t.dir.patrolPos = (if s.dir.patrolPos + min s.dir.patrolCycles (262144 - s.dir.patrolPos) = 262144 then 0
      else s.dir.patrolPos + min s.dir.patrolCycles (262144 - s.dir.patrolPos)) := by
  have flips := EntriesOnly.applyFlips up s
  refine ⟨_, rfl, rfl, ?_⟩
  rw [← flips.patrolPos, ← flips.patrolCycles]
  rfl

/-- Of entries that all agree with their shadows the patrol changes none. -/
theorem directoryPatrol_agreeing
    (agree : (s.dir.entries.map (·.1) ++ s.dir.shadows.map (·.1)).all (fun i => shadowAgrees i s) = true)
    (short : s.dir.patrolPos + s.dir.patrolCycles < 262144) :
    exec (.directoryPatrol ⟨[], [], [], []⟩) s =
      .next { s with dir.patrolPos := s.dir.patrolPos + s.dir.patrolCycles, dir.patrolCycles := 0 } := by
  have patrolledAgree : (patrolled ⟨[], [], [], []⟩ s).all (fun i => shadowAgrees i s) = true := by
    refine List.all_eq_true.mpr fun i mem => List.all_eq_true.mp agree i ?_
    simpa using mem_once.mp (List.mem_filter.mp mem).1
  rw [directoryPatrol_short (t := s) rfl short, patrolEntries_repair, repairAll_agreeing patrolledAgree]

/-- An entry whose key was struck is rewritten when the patrol comes to it. -/
theorem directoryPatrol_repairs {k : BitVec 80} (one : s.dir.patrolCycles = 1) (short : s.dir.patrolPos < 262143)
    (agree : shadowAgrees s.dir.patrolPos s = true) (flips : k ≠ 0) (wf : storeWf {} s.dir.entries = true) :
    exec (.directoryPatrol ⟨[(s.dir.patrolPos, k, 0)], [], [], []⟩) s = .next { countEvent cKeyRepaired unitNode s with
      dir.patrolPos := s.dir.patrolPos + 1, dir.patrolCycles := 0 } := by
  have inRange : s.dir.patrolPos < 262144 := by omega
  have struck : EntriesOnly s (strikeEntry s.dir.patrolPos (flipped k 0) s) := .strikeEntry _ _ s
  have differs : shadowAgrees s.dir.patrolPos (strikeEntry s.dir.patrolPos (flipped k 0) s) = false :=
    strikeKey_differs inRange wf agree flips
  have span : min (1 : Nat) (262144 - s.dir.patrolPos) = 1 := by omega
  have hit : patrolled ⟨[(s.dir.patrolPos, k, 0)], [], [], []⟩ (strikeEntry s.dir.patrolPos (flipped k 0) s) =
      [s.dir.patrolPos] := by
    rw [patrolled, struck.patrolPos, struck.patrolCycles, one, span, List.append_nil]
    exact once_filter_single (listed_of_differs differs)
  have within : (strikeEntry s.dir.patrolPos (flipped k 0) s).dir.patrolPos +
      (strikeEntry s.dir.patrolPos (flipped k 0) s).dir.patrolCycles < 262144 := by
    rw [struck.patrolPos, struck.patrolCycles]
    omega
  rw [directoryPatrol_short (applyFlips_one _ k 0 s) within, hit, patrolEntries_repair, repairAll_differing_one differs,
    repairEntry_struck inRange wf agree, struck.patrolPos, struck.patrolCycles, one]

end patrol

/-! ### Leases, grace and tail clears (R60, R73, R74) -/

section upkeep

variable {s : State}

/-- A lease that has run out lets its entry go, with an event. -/
theorem directoryLeaseExpiry_releases {i : Nat} (invalid : (dirEntry i s).v = false) (held : (dirEntry i s).held = true)
    (kept : (dirEntry i s).lost = false) (expired : (dirEntry i s).heldAt + 4194304 ≤ s.time.elapsed) :
    ∃ flt, exec (.directoryLeaseExpiry i) s =
      .next { writeEntry i { dirEntry i s with held := false, heldAt := 0 } s with flt := flt } := by
  rw [show exec (.directoryLeaseExpiry i) s = .next (execDirectoryLeaseExpiryState i s) from rfl, execDirectoryLeaseExpiryState,
    if_pos (by simp [invalid, held, kept, expired, passStrokes]), logEvent, logRecord_frame]
  exact ⟨_, rfl⟩

/-- With no request in flight an extent leaves GRACE once its pass of entry is past. -/
theorem extentGraceEnd_frees {x p pass : Nat} (grace : (extent x s).st = .grace p pass) (past : pass < passNow s)
    (idle : s.sch.reqs = []) : exec (.extentGraceEnd x) s = .next (freeExtent x s) := by
  refine congrArg Host.Outcome.next ?_
  simp [execExtentGraceEndState, grace, past, idle]

/-- With a node-update cycle to be had, the closed context's TAIL bits are cleared in the entries, and it leaves the list. -/
theorem tailClearOnClose_clears {ctx tenant : Nat} {q : State} (paid : takeNode 1 s = some q)
    (closed : s.dir.tailClear.find? (fun x => x.2 == ctx) = some (tenant, ctx)) :
    ∃ t, EntriesOnly q t ∧ exec (.tailClearOnClose ctx) s =
      .next { t with dir.tailClear := t.dir.tailClear.filter fun x => x != (tenant, ctx) } := by
  rw [show exec (.tailClearOnClose ctx) s = .next (execTailClearOnCloseState ctx s) from rfl, execTailClearOnCloseState, paid,
    closed]
  exact ⟨_, .trans (.repairAll _ q) (.foldl (fun s i => .writeEntry i _ s) _ _), rfl⟩

end upkeep

/-! ### State-only swaps (R471) -/

section swaps

variable {s t u : State}

/-- The one waiting swap, when it is made or needs no change any more, leaves none waiting. -/
theorem stateOnlySwapRetry_tries {w : StateSwap} (waits : s.dir.stateSwaps = [w])
    (tried : tryStateSwap w { s with dir.stateSwaps := [] } = some t) : exec .stateOnlySwapRetry s = .next t := by
  refine congrArg Host.Outcome.next ?_
  rw [execStateOnlySwapRetryState, waits, List.foldl_cons, retrySwap, tried, List.foldl_nil]

theorem tryStateSwap_gone {w : StateSwap} (gone : dirLookup w.part w.key s = none) : tryStateSwap w s = some s := by
  rw [tryStateSwap, gone]

theorem extToGrace_frame (x : Nat) (s : State) :
    extToGrace x s = { s with dir := { s.dir with extents := (extToGrace x s).dir.extents } } := by
  unfold extToGrace
  split <;> rfl

/-- An extent that enters GRACE leaves the others as they are. -/
theorem extent_extToGrace_other {x y : Nat} (other : x ≠ y) (s : State) : extent x (extToGrace y s) = extent x s := by
  unfold extToGrace
  split
  · exact look_put_other_ne _ _ _ (fun same => nomatch congrArg Extent.st same) other
  all_goals rfl

/-- An extent that is not FREE reads as it was written. -/
theorem extent_setExtent {v : Extent} (used : v.st ≠ .free) (x : Nat) (s : State) : extent x (setExtent x v s) = v :=
  look_put_self_ne _ _ fun free => used (congrArg Extent.st free)

theorem allocExtent_stateSwaps {p x : Nat} (alloc : allocExtent p s = some (x, u)) :
    u.dir.stateSwaps = s.dir.stateSwaps := by
  obtain ⟨-, -, rfl⟩ := allocExtent_some alloc
  rw [pick_frame]
  rfl

/-- With an extent to be had, the node's swap of an entry that agrees with its shadow and holds the data seen is made. -/
theorem nodeSwap_made {i p x : Nat} (words tiers : Store Nat) (countM1 : Nat) (tail : Bool) (agree : shadowAgrees i s = true)
    (owner : extPart (extent (dataExt (dirEntry i s).data) s).st = some p) (alloc : allocExtent p s = some (x, u))
    (fresh : x ≠ dataExt (dirEntry i s).data) :
    ∃ t, nodeSwap i (dirEntry i s).data words tiers countM1 tail s = .made t ∧ t.dir.stateSwaps = s.dir.stateSwaps ∧
      extent x t = { st := .live p, words := words, tiers := tiers } := by
  simp only [nodeSwap, repairAll_agreeing_one agree, owner, alloc, Option.bind_some, Option.map_some, ne_eq, not_true, if_false]
  refine ⟨_, rfl, ?_, ?_⟩
  · rw [extToGrace_frame]
    exact (allocExtent_stateSwaps alloc :)
  · rw [extent_extToGrace_other fresh, (EntriesOnly.writeEntry _ _ _).extent, extent_setExtent (by simp)]

/-- A waiting swap that is made gives the run a new LIVE extent with the changed words, and leaves the other swaps waiting. -/
theorem tryStateSwap_made {w : StateSwap} {i p x : Nat} {q : State} (found : dirLookup w.part w.key s = some i)
    (agree : shadowAgrees i s = true)
    (due : w.changes.filter (fun c => c.applies (extent (dataExt (dirEntry i s).data) s)) ≠ [])
    (paid : takeNode 1 s = some q) (owner : extPart (extent (dataExt (dirEntry i s).data) s).st = some p)
    (alloc : allocExtent p q = some (x, u)) (fresh : x ≠ dataExt (dirEntry i s).data) :
    ∃ t, tryStateSwap w s = some t ∧ t.dir.stateSwaps = s.dir.stateSwaps ∧ (extent x t).st = .live p ∧
      (extent x t).words = changeWords (extent (dataExt (dirEntry i s).data) s).words
        ((w.changes.filter fun c => c.applies (extent (dataExt (dirEntry i s).data) s)).map fun c => (c.pos, c.new)) := by
  have only := takeNode_frame paid
  have entry : dirEntry i q = dirEntry i s := by rw [only]; rfl
  have agree' : shadowAgrees i q = true := by rw [only]; exact agree
  have owner' : extPart (extent (dataExt (dirEntry i q).data) q).st = some p := by rw [only]; exact owner
  have swap := fun words tiers countM1 tail =>
    nodeSwap_made words tiers countM1 tail agree' owner' alloc (by rw [entry]; exact fresh)
  rw [entry] at swap
  choose swapped made waiting reads using swap
  simp only [tryStateSwap, found, List.isEmpty_iff, due, if_false, paid, made]
  refine ⟨_, rfl, ?_, ?_, ?_⟩
  · rw [(EntriesOnly.placeTail _ _ _ _).stateSwaps, waiting, only]
  · rw [(EntriesOnly.placeTail _ _ _ _).extent, reads]
  · rw [(EntriesOnly.placeTail _ _ _ _).extent, reads]

end swaps

/-- Settles O14: each upkeep operation by the lemma above that says what it does. -/
theorem directoryUpkeep : Obligations.DirectoryUpkeep := by
  unfold Obligations.DirectoryUpkeep
  refine ⟨?_, ?_, ?_, directoryPatrol_moves, ?_, ?_, ?_, ?_, ?_⟩
  · intro i s invalid held kept expired
    obtain ⟨flt, released⟩ := directoryLeaseExpiry_releases invalid held kept expired
    refine ⟨_, released, ?_, rfl⟩
    rw [writeEntry, invalid]
  · intro x p pass s grace past idle
    obtain ⟨res, fsh, tier, frees⟩ := freeExtent_frame x s
    exact ⟨_, (extentGraceEnd_frees grace past idle).trans (congrArg Host.Outcome.next frees), rfl, rfl, rfl⟩
  · intro ctx tenant q s paid closed
    obtain ⟨_, ⟨_, _, _, _, rfl⟩, cleared⟩ := tailClearOnClose_clears paid closed
    have only := takeNode_frame paid
    refine ⟨_, cleared, ?_, rfl, rfl, ?_, ?_⟩
    all_goals rw [only]
  · intro i k s here one short agree flips wf
    subst here
    refine ⟨_, directoryPatrol_repairs one short agree flips wf, ?_, ctrGet_countEvent cKeyRepaired unitNode s (by decide)⟩
    simp only [countEvent_dir]
  · intro w t s waits tried
    exact stateOnlySwapRetry_tries waits tried
  · intro s agree short
    exact directoryPatrol_agreeing agree short
  · intro w s waits gone
    exact stateOnlySwapRetry_tries waits (tryStateSwap_gone gone)
  · intro w i p x q u s waits found agree due paid owner alloc fresh
    obtain ⟨t, made, swaps, live, words⟩ :=
      tryStateSwap_made (s := { s with dir.stateSwaps := [] }) found agree due paid owner alloc fresh
    exact ⟨t, stateOnlySwapRetry_tries waits made, swaps, live, words⟩

/-! ### Port commands (R67, R75, R80) -/

/-- A command that gets its turn is the port's own; its state has paid cycles, moved the turn on and counted the command. -/
theorem portTurn_some {p op cost : Nat} {c : DirCmd} {s u : State} (turn : portTurn p op cost s = some (c, u)) :
    (dirPort p s).cmd = some c ∧ c.op = op ∧ ∃ q, takePort cost s = some q ∧ u = { q with
      dir.portPass := passNow q, dir.portNext := p + 1
      tel.live.portCmds := min 0xFFFFFFFF (q.tel.live.portCmds + 1) } := by
  cases waiting : (dirPort p s).cmd with
  | none => simp [portTurn, waiting] at turn
  | some d =>
    simp only [portTurn, waiting, Option.ite_none_right_eq_some] at turn
    obtain ⟨⟨same, -⟩, served⟩ := turn
    obtain ⟨q, paid, result⟩ := Option.map_eq_some_iff.mp served
    cases result
    exact ⟨rfl, same, q, paid, rfl⟩

/-! #### The lowest reason that fails -/

theorem foldl_minCode_least {r : Nat} {cs : List Nat} (least : ∀ a ∈ cs, r ≤ a) : cs.foldl minCode (some r) = some r := by
  induction cs with
  | nil => rfl
  | cons a cs ih =>
    obtain ⟨head, tail⟩ := List.forall_mem_cons.mp least
    rw [List.foldl_cons, minCode, Nat.min_eq_left head, ih tail]

theorem lowestReason_passes (r : Nat) (rs : List (Bool × Nat)) : lowestReason ((false, r) :: rs) = lowestReason rs := rfl

/-- A reason that fails is the lowest when no later one is below it. -/
theorem lowestReason_fails {r : Nat} {rs : List (Bool × Nat)} (least : ∀ x ∈ rs, r ≤ x.2) :
    lowestReason ((true, r) :: rs) = some r := by
  refine foldl_minCode_least fun a mem => ?_
  obtain ⟨x, failed, rfl⟩ := List.mem_map.mp mem
  exact least x (List.mem_filter.mp failed).1

/-- A port after a refusal. -/
def portRefused (p r : Nat) (s : State) : State :=
  setPort p { dirPort p s with busy := false, cmd := none, reason := r, code := 0x08 } s

section ports

variable {p r : Nat} {c : DirCmd} {s u : State} {reasons : List (Bool × Nat)} {ok : State → State}

theorem portResult_runs (admitted : lowestReason reasons = none) : portResult p reasons ok s = ok s := by
  rw [portResult, ← lowestReason, admitted]

theorem portResult_refuses (against : lowestReason reasons = some r) : portResult p reasons ok s = portRefused p r s := by
  rw [portResult, ← lowestReason, against]
  rfl

/-! #### SEARCH, COUNT and READ -/

theorem search_waits (waits : portTurn p 1 1 s = none) : exec (.search p) s = .next s := by
  refine congrArg Host.Outcome.next ?_
  rw [execSearchState, waits]

theorem search_refused (turn : portTurn p 1 1 s = some (c, u))
    (against : lowestReason [(badIndex p c.index u, 1), (reservedKey c.key, 2)] = some r) :
    exec (.search p) s = .next (portRefused p r u) := by
  refine congrArg Host.Outcome.next ?_
  rw [execSearchState, turn]
  exact portResult_refuses against

section search

variable (turn : portTurn p 1 1 s = some (c, u)) (inRange : badIndex p c.index u = false) (legal : reservedKey c.key = false)
  (agree : (rawHits p c.key c.mask u).all (fun k => shadowAgrees k u) = true)

include turn inRange legal agree

theorem search_hits {j : Nat} (found : (dirMatches p c.key c.mask u).find? (fun k => c.index ≤ k) = some j) :
    exec (.search p) s = .next (portDone p (fun pt => { pt with
      hit := true, index := j, rkey := (dirEntry j u).key, rdata := (dirEntry j u).data }) u) := by
  refine congrArg Host.Outcome.next ?_
  rw [execSearchState, turn]
  refine (portResult_runs (by simp [lowestReason, lowest, inRange, legal])).trans ?_
  simp only [checkedSearch_agreeing agree, found]

theorem search_misses (missing : (dirMatches p c.key c.mask u).find? (fun k => c.index ≤ k) = none) :
    exec (.search p) s = .next (portDone p (fun pt => { pt with hit := false }) u) := by
  refine congrArg Host.Outcome.next ?_
  rw [execSearchState, turn]
  refine (portResult_runs (by simp [lowestReason, lowest, inRange, legal])).trans ?_
  simp only [checkedSearch_agreeing agree, missing]

end search

theorem count_counts (turn : portTurn p 2 1 s = some (c, u)) (legal : reservedKey c.key = false)
    (agree : (rawHits p c.key c.mask u).all (fun k => shadowAgrees k u) = true) :
    exec (.count p) s = .next (portDone p (fun pt => { pt with count := (dirMatches p c.key c.mask u).length }) u) := by
  refine congrArg Host.Outcome.next ?_
  rw [execCountState, turn]
  refine (portResult_runs (by simp [lowestReason, lowest, legal])).trans ?_
  rw [repairHits_agreeing agree]

theorem read_reads (turn : portTurn p 3 1 s = some (c, u)) (inRange : badIndex p c.index u = false)
    (agree : shadowAgrees c.index u = true) :
    exec (.read p) s = .next (portDone p (fun pt => { pt with
      hit := (dirEntry c.index u).v, heldBit := (dirEntry c.index u).held
      rkey := (dirEntry c.index u).key, rdata := (dirEntry c.index u).data }) u) := by
  refine congrArg Host.Outcome.next ?_
  rw [execReadState, turn]
  refine (portResult_runs (by simp [lowestReason, lowest, inRange])).trans ?_
  rw [repairAll_agreeing_one agree]

/-! #### Updates of an entry of the range -/

/-- With no lost extent kept, letting an entry go moves none. -/
theorem releaseLost_none {e : DirEntry} (none : e.lostExt = none) : releaseLost e s = s := by
  rw [releaseLost, none]

section updates

variable (inRange : badIndex p c.index u = false)

include inRange

theorem invalidate_frees (turn : portTurn p 4 1 s = some (c, u)) (agree : shadowAgrees c.index u = true)
    (valid : (dirEntry c.index u).v = true) (noTail : dataTail (dirEntry c.index u).data = false) :
    exec (.invalidate p) s = .next (portDone p id (extToGrace (dataExt (dirEntry c.index u).data)
      (writeEntry c.index { dirEntry c.index u with v := false, held := true, heldAt := u.time.elapsed } u))) := by
  refine congrArg Host.Outcome.next ?_
  rw [execInvalidateState, turn]
  refine (portResult_runs (by simp [lowestReason, lowest, inRange, valid, noTail])).trans ?_
  rw [repairAll_agreeing_one agree]

theorem write_stores (turn : portTurn p 5 1 s = some (c, u)) (agree : shadowAgrees c.index u = true)
    (invalid : (dirEntry c.index u).v = false) :
    exec (.write p) s = .next (portDone p id (writeEntry c.index { dirEntry c.index u with
      key := c.key, data := c.data, held := true
      heldAt := if (dirEntry c.index u).held then (dirEntry c.index u).heldAt else u.time.elapsed } u)) := by
  refine congrArg Host.Outcome.next ?_
  rw [execWriteState, turn]
  refine (portResult_runs (by simp [lowestReason, lowest, inRange, invalid])).trans ?_
  rw [repairAll_agreeing_one agree]

theorem write_refused (turn : portTurn p 5 1 s = some (c, u)) (valid : (dirEntry c.index u).v = true) :
    exec (.write p) s = .next (portRefused p 6 u) := by
  refine congrArg Host.Outcome.next ?_
  rw [execWriteState, turn]
  exact portResult_refuses (by simp [lowestReason, lowest, minCode, inRange, valid])

/-- Every later reason against VALIDATE is higher than REASON 3. -/
theorem validate_badKey (turn : portTurn p 6 9 s = some (c, u)) (bad : keyCheckFails p (dirEntry c.index u).key u = true) :
    exec (.validate p) s = .next (portRefused p 3 u) := by
  refine congrArg Host.Outcome.next ?_
  rw [execValidateState, turn]
  refine portResult_refuses ?_
  rw [inRange, lowestReason_passes, bad, Bool.true_or]
  exact lowestReason_fails (by simp)

theorem validate_validates (turn : portTurn p 6 9 s = some (c, u)) (agree : shadowAgrees c.index u = true)
    (agreeHits : (rawHits p (dirEntry c.index u).key fullMask u).all (fun k => shadowAgrees k u) = true)
    (invalid : (dirEntry c.index u).v = false) (held : (dirEntry c.index u).held = true)
    (kept : (dirEntry c.index u).lostExt = none) (legal : keyCheckFails p (dirEntry c.index u).key u = false)
    (plain : dataReserved (dirEntry c.index u).data = false)
    (only : (dirMatches p (dirEntry c.index u).key fullMask u).any (fun k => k != c.index) = false)
    (built : extBuiltFor (dataExt (dirEntry c.index u).data) p u = true)
    (noTail : dataTail (dirEntry c.index u).data = false) :
    exec (.validate p) s = .next (portDone p id (extToLive (dataExt (dirEntry c.index u).data) (writeEntry c.index
      { dirEntry c.index u with v := true, held := false, heldAt := 0, lost := false, lostExt := none } u))) := by
  refine congrArg Host.Outcome.next ?_
  rw [execValidateState, turn]
  refine (portResult_runs ?_).trans ?_
  · rw [legal, plain, only, built, invalid, held, noTail, inRange]
    rfl
  · rw [repairAll_agreeing_one agree, repairHits_agreeing agreeHits, releaseLost_none kept]

section swap

variable (turn : portTurn p 7 1 s = some (c, u)) (plain : dataReserved c.data = false)
  (built : extBuiltFor (dataExt c.data) p u = true) (valid : (dirEntry c.index u).v = true)
  (noTail : dataTail (dirEntry c.index u).data = false) (noTailNew : dataTail c.data = false)

include turn plain built valid noTail noTailNew

theorem swap_swaps (agree : shadowAgrees c.index u = true) (expected : (dirEntry c.index u).data = (dirPort p u).rdata) :
    exec (.swap p) s = .next (portDone p id (extToGrace (dataExt (dirEntry c.index u).data)
      (extToLive (dataExt c.data) (writeEntry c.index { dirEntry c.index u with data := c.data } u)))) := by
  refine congrArg Host.Outcome.next ?_
  rw [execSwapState, turn]
  have same : ((dirEntry c.index u).data != (dirPort p u).rdata) = false := by simp [expected]
  refine (portResult_runs ?_).trans ?_
  · rw [inRange, plain, built, valid, noTail, noTailNew, same]
    rfl
  · rw [repairAll_agreeing_one agree]

theorem swap_refused (other : (dirEntry c.index u).data ≠ (dirPort p u).rdata) :
    exec (.swap p) s = .next (portRefused p 8 u) := by
  refine congrArg Host.Outcome.next ?_
  rw [execSwapState, turn]
  exact portResult_refuses
    (by simp [lowestReason, lowest, minCode, inRange, plain, built, valid, noTail, noTailNew, other])

end swap

theorem release_releases (turn : portTurn p 8 1 s = some (c, u)) (agree : shadowAgrees c.index u = true)
    (invalid : (dirEntry c.index u).v = false) (held : (dirEntry c.index u).held = true)
    (kept : (dirEntry c.index u).lostExt = none) :
    exec (.release p) s = .next (portDone p id (writeEntry c.index
      { dirEntry c.index u with held := false, heldAt := 0, lost := false, lostExt := none } u)) := by
  refine congrArg Host.Outcome.next ?_
  rw [execReleaseState, turn]
  refine (portResult_runs (by simp [lowestReason, lowest, inRange, invalid, held])).trans ?_
  rw [repairAll_agreeing_one agree, releaseLost_none kept]

theorem release_refused (turn : portTurn p 8 1 s = some (c, u)) (free : (dirEntry c.index u).held = false) :
    exec (.release p) s = .next (portRefused p 6 u) := by
  refine congrArg Host.Outcome.next ?_
  rw [execReleaseState, turn]
  exact portResult_refuses (by simp [lowestReason, lowest, minCode, inRange, free])

end updates

theorem bulkInvalidate_invalidates (turn : portTurn p 9 1 s = some (c, u)) (legal : reservedKey c.key = false)
    (agree : (rawHits p c.key c.mask u).all (fun k => shadowAgrees k u) = true) :
    exec (.bulkInvalidate p) s = .next (portDone p (fun pt => { pt with
      count := ((dirMatches p c.key c.mask u).filter fun k => !dataTail (dirEntry k u).data).length })
      (bulkInvalidate p c.key c.mask u).2) := by
  refine congrArg Host.Outcome.next ?_
  rw [execBulkInvalidateState, turn]
  refine (portResult_runs (by simp [lowestReason, lowest, legal])).trans ?_
  simp only [bulkInvalidate_count agree]

end ports

/-- Settles O12: SEARCH, COUNT and READ give what the entries hold, by the lemma above for each outcome. -/
theorem directoryPortReads : Obligations.DirectoryPortReads := by
  unfold Obligations.DirectoryPortReads
  refine ⟨?_, ?_, ?_, ?_, ?_, ?_, ?_, ?_⟩
  · intro p j c u s turn inRange legal agree found
    exact search_hits turn inRange legal agree found
  · intro p c u s turn inRange legal agree missing
    exact search_misses turn inRange legal agree missing
  · intro p c u s turn outside
    exact search_refused turn (by rw [outside, lowestReason_fails (by simp)])
  · intro p c u s turn legal agree
    exact count_counts turn legal agree
  · intro p c u s turn inRange agree
    exact read_reads turn inRange agree
  · intro p c u s turn inRange reserved
    exact search_refused turn (by rw [inRange, reserved]; rfl)
  · intro p op cost c u s turn
    obtain ⟨own, same, q, paid, rfl⟩ := portTurn_some turn
    have only := takePort_frame paid
    refine ⟨own, same, ?_, ?_, ?_, ?_, ?_⟩
    all_goals rw [only]
  · intro p s waits
    exact search_waits waits

/-- Settles O13: each update is admitted or refused by its reasons, by the lemma above for each outcome. -/
theorem directoryPortUpdates : Obligations.DirectoryPortUpdates := by
  unfold Obligations.DirectoryPortUpdates
  refine ⟨?_, ?_, ?_, ?_, ?_, ?_, ?_, ?_, ?_, ?_⟩
  · intro p c u s turn inRange agree valid noTail
    exact invalidate_frees inRange turn agree valid noTail
  · intro p c u s turn inRange agree invalid
    exact write_stores inRange turn agree invalid
  · intro p c u s turn inRange valid
    exact write_refused inRange turn valid
  · intro p c u s turn inRange agree agreeHits invalid held kept legal plain only built noTail
    exact validate_validates inRange turn agree agreeHits invalid held kept legal plain only built noTail
  · intro p c u s turn inRange agree plain built valid noTail noTailNew expected
    exact swap_swaps inRange turn plain built valid noTail noTailNew agree expected
  · intro p c u s turn inRange plain built valid noTail noTailNew other
    exact swap_refused inRange turn plain built valid noTail noTailNew other
  · intro p c u s turn inRange agree invalid held kept
    exact release_releases inRange turn agree invalid held kept
  · intro p c u s turn legal agree
    exact bulkInvalidate_invalidates turn legal agree
  · intro p c u s turn inRange bad
    exact validate_badKey inRange turn bad
  · intro p c u s turn inRange _ free
    exact release_refused inRange turn free

/-- Settles O57: every field of the reset state is its default, and an empty store reads its default at every index. -/
theorem resetState : Obligations.ResetState := by
  unfold Obligations.ResetState
  exact ⟨rfl, rfl, rfl, rfl, rfl, rfl, rfl, rfl, rfl, rfl, rfl, rfl, fun _ => ⟨rfl, rfl⟩, fun _ => rfl, fun _ => rfl⟩

end Sys2Proof.Proofs

/-! ## The gravers: sweeps, close, overrun, chain, sheet patrol and banks -/

namespace Sys2Proof.Proofs

open Sys2Proof Sys2Proof.Machine

/-! ### Counted events and the store of gravers -/

section counted

/-- A fold of operations that count and log changes counters and the fault state. -/
theorem foldl_counted_frame {α : Type} {f : State → α → State}
    (each : ∀ s a, f s a = { s with ctr := (f s a).ctr, flt := (f s a).flt }) (l : List α) (s : State) :
    l.foldl f s = { s with ctr := (l.foldl f s).ctr, flt := (l.foldl f s).flt } := by
  induction l generalizing s with
  | nil => rfl
  | cons a l ih =>
    rw [List.foldl_cons, ih, each]

/-- An event with its wear changes counters and the fault state. -/
theorem countEvent_countWear_frame (c : Ctr) (unit : Nat) (f : WearCount → WearCount) (s : State) :
    countEvent c unit (countWear unit f s) = { s with
      ctr := (countEvent c unit (countWear unit f s)).ctr, flt := (countEvent c unit (countWear unit f s)).flt } := by
  rw [countEvent_frame]
  rfl

/-- An event counted several times adds as often, up to its counter's width. -/
theorem ctrGet_countEvent_repeat {c : Ctr} (wide : 0 < c.width) (unit n : Nat) (s : State) :
    ctrGet c ((List.range (n + 1)).foldl (fun s _ => countEvent c unit s) s) =
      min (2 ^ c.width - 1) (ctrGet c s + (n + 1)) := by
  induction n with
  | zero => exact ctrGet_countEvent c unit s wide
  | succ n ih =>
    rw [List.range_succ, List.foldl_append, List.foldl_cons, List.foldl_nil, ctrGet_countEvent c unit _ wide, ih]
    omega

theorem sheetCorrected_frame (g n : Nat) (s : State) :
    sheetCorrected g n s = { s with ctr := (sheetCorrected g n s).ctr, flt := (sheetCorrected g n s).flt } := by
  unfold sheetCorrected
  rw [foldl_counted_frame fun s _ => countEvent_frame _ _ s]
  rfl

theorem ctrGet_sheetCorrected (g : Nat) {n : Nat} (atLeastOne : 0 < n) (s : State) :
    ctrGet (cSheetCe g) (sheetCorrected g n s) = min 0xFFFF (ctrGet (cSheetCe g) s + n) := by
  obtain ⟨n, rfl⟩ := Nat.exists_eq_succ_of_ne_zero atLeastOne.ne'
  exact ctrGet_countEvent_repeat (c := cSheetCe g) (Nat.zero_lt_succ 15) _ n _

/-- Writing a listed value a second time changes nothing. -/
theorem put_put_same {α : Type} [DecidableEq α] {d v : α} (listed : v ≠ d) (m : Store α) (k : Nat) :
    put d (put d m k v) k v = put d m k v := by
  induction m with
  | nil => simp [listed, put_cons]
  | cons x t ih =>
    obtain ⟨k', v'⟩ := x
    rcases Nat.lt_trichotomy k k' with before | here | after
    · simp [put_cons, before, listed]
    · simp [put_cons, here, listed]
    · have apart : ¬ k < k' ∧ k ≠ k' := by omega
      simp [put_cons, apart, ih]

theorem graver_setGraver {v : Graver} (listed : v ≠ {}) (g : Nat) (s : State) : graver g (setGraver g v s) = v :=
  look_put_self_ne _ _ listed

theorem setGraver_again {v : Graver} (listed : v ≠ {}) (g : Nat) (s : State) :
    setGraver g v (setGraver g v s) = setGraver g v s :=
  congrArg (fun gravers => ({ s with gravers := gravers } : State)) (put_put_same listed s.gravers g)

/-- A graver with an open block is listed. -/
theorem graver_ne_of_block {v : Graver} {b : OpenBlock} (block : v.block = some b) : v ≠ {} :=
  fun free => nomatch block.symm.trans (congrArg Graver.block free)

end counted

/-! ### The sweeps (R94, R98, R102) -/

section sweeps

variable {g : Nat} {ue : List Nat} {r : Req} {b : OpenBlock} {s : State}

@[simp] theorem suspectSlots_nil (s : State) : suspectSlots [] s = s := rfl

@[simp] theorem pageErrors_nil (g : Nat) (b : Block) (s : State) : pageErrors g b [] s = s := by simp [pageErrors]

@[simp] theorem sheetErrors_nil (g : Nat) (s : State) : sheetErrors g [] s = s := rfl

@[simp] theorem wordRows_nil (r : Req) : wordRows r [] = [] := rfl

/-- Which blocks are substituted depends on the stack memories alone. -/
theorem substituted_of_mem {s t : State} (same : t.mem = s.mem) (r : Req) (b : Block) (v : Bool) (dead : List Nat) :
    substituted r b v dead t = substituted r b v dead s := by
  simp only [substituted, vecBlocks, keyBytes, same]

theorem substituted_endSweep (r : Req) (b : Block) (v : Bool) (dead : List Nat) (o : OpenBlock)
    (sheet : Store (List (BitVec 32))) :
    substituted r b v dead (endSweep g o sheet s) = substituted r b v dead s := substituted_of_mem rfl r b v dead

theorem substituted_sheetCorrected (r : Req) (b : Block) (v : Bool) (dead : List Nat) (n : Nat) :
    substituted r b v dead (sheetCorrected g n s) = substituted r b v dead s :=
  substituted_of_mem (by rw [sheetCorrected_frame]) r b v dead

theorem sweep1_scores (opened : openAt g 0 s = some (r, b)) (reads : readsPause g b.block s = false)
    (clean : (ue.filter fun p => b.block.pages.any fun x => x.page == p) = [])
    (inRange : (blockScores r b.block [] s).2 = false) (computed : substituted r b.block false [] s = []) :
    exec (.sweep1 g ue) s = .next (endSweep g
      { b with swept := 1, rowMax := (blockScores r b.block [] s).1.map rowMaximum, deadPages := [], saturated := false }
      (writeScores (blockLen r b.block) (blockScores r b.block [] s).1 (graver g s).sheet) s) := by
  refine congrArg Host.Outcome.next ?_
  simp only [execSweep1State, opened, reads, clean, inRange, substituted_endSweep, computed, Bool.false_eq_true,
    if_false, List.foldl_nil, pageErrors_nil]

theorem sweep1_idle (shut : openAt g 0 s = none) : exec (.sweep1 g ue) s = .next s := by
  refine congrArg Host.Outcome.next ?_
  rw [execSweep1State, shut]

theorem sweep2_weighs {corrected : Nat} {ueWords : List (Nat × Nat)} (opened : openAt g 1 s = some (r, b))
    (clean : sweptWords (ceilDiv (blockLen r b.block) 32) ueWords = []) :
    exec (.sweep2 g ⟨corrected, ueWords⟩) s = .next (sheetCorrected g corrected (endSweep g
      { b with
        swept := 2
        rowMax := (blockWeights r b.block b.deadPages (sheetScores r b.block (graver g s).sheet)).1
        sums := (blockWeights r b.block b.deadPages (sheetScores r b.block (graver g s).sheet)).2.map (·.1)
        deadRows := b.deadRows ++ [] }
      (writeWeights r.hdr.precise (blockWeightWords r b)
        ((blockWeights r b.block b.deadPages (sheetScores r b.block (graver g s).sheet)).2.map (·.2)) (graver g s).sheet)
      s)) := by
  refine congrArg Host.Outcome.next ?_
  simp only [execSweep2State, opened, clean, wordRows_nil, sheetErrors_nil]

theorem sweep3_outputs {corrected : Nat} {ueWords : List (Nat × Nat)} (opened : openAt g 2 s = some (r, b))
    (reads : readsPause g b.block s = false)
    (cleanPages : (ue.filter fun p => (b.block.pages.any fun x => x.page == p) && !b.deadPages.contains p) = [])
    (cleanWords : sweptWords (blockWeightWords r b) ueWords = [])
    (computed : substituted r b.block true b.deadPages s = []) :
    exec (.sweep3 g ue ⟨corrected, ueWords⟩) s = .next (sheetCorrected g corrected (endSweep g
      { b with
        swept := 3
        sums := (List.zip b.sums (sheetWeights r.hdr.precise r.hdr.rows (groupSizes r b) (graver g s).sheet)).map (·.1)
        outs := blockOuts r b.block b.deadPages b.rowMax
          ((List.zip b.sums (sheetWeights r.hdr.precise r.hdr.rows (groupSizes r b) (graver g s).sheet)).map (·.2)) s }
      (graver g s).sheet s)) := by
  refine congrArg Host.Outcome.next ?_
  simp only [execSweep3State, opened, reads, cleanPages, cleanWords, List.append_nil, substituted_sheetCorrected,
    substituted_endSweep, computed, List.isEmpty_nil, if_true, Bool.false_eq_true, if_false, List.foldl_nil, pageErrors_nil,
    wordRows_nil, sheetErrors_nil]

end sweeps

/-! ### The close of a block (R103) -/

section close

variable {g n : Nat} {r : Req} {b : OpenBlock} {s : State}

/-- The request of an open block is the graver's current one. -/
theorem openAt_current (opened : openAt g n s = some (r, b)) : (graver g s).current = some r.id := by
  unfold openAt at opened
  split at opened
  · next r' b' request block =>
    split at opened
    · cases opened
      unfold graverReq at request
      dsimp only at request
      split at request
      · cases request
      · obtain ⟨id, current, found⟩ := Option.bind_eq_some_iff.mp request
        rw [current, beq_iff_eq.mp (List.find?_some found :)]
    · cases opened
  · cases opened

theorem markSlip_timely (timely : (graver g s).delayed = false) : markSlip g s = s := by
  unfold markSlip
  dsimp only
  split
  · rw [timely]
    rfl
  · rfl

/-- The close of a block: with blocks left the next one opens, without the work on the request ends. -/
theorem blockClose_closes (opened : openAt g 3 s = some (r, b)) (running : (graver g s).cancelled = false)
    (timely : (graver g s).delayed = false) :
    exec (.blockClose g) s = .next (setGraver g
      (if (((graver g s).descs.filter fun d => d.req == r.id).flatMap (·.blocks)).isEmpty
        then finishWork [] s (closeOpen r b (graver g s)) else openNext s (renew s (closeOpen r b (graver g s)))) s) := by
  refine congrArg Host.Outcome.next ?_
  simp only [execBlockCloseState, running, opened, markSlip_timely timely, Bool.false_eq_true, if_false]
  rfl

/-- Taking a block changes the descriptors alone. -/
theorem takeBlock_frame {gv gv' : Graver} {x : Block} (taken : takeBlock gv = some (x, gv')) :
    gv' = { gv with descs := gv'.descs } := by
  unfold takeBlock at taken
  split at taken
  · split at taken
    · split at taken
      · cases taken
        rfl
      · cases taken
    · cases taken
  · cases taken

theorem openNext_done (s : State) (gv : Graver) : (openNext s gv).done = gv.done := by
  unfold openNext
  split
  · next taken _ => exact (congrArg Graver.done (takeBlock_frame taken) :)
  · rfl

theorem nextWork_done (s : State) (gv : Graver) : (nextWork s gv).done = gv.done := by
  unfold nextWork
  split
  · exact openNext_done s _
  · rfl

theorem finishWork_done (extra : List Cov) (s : State) (gv : Graver) : (finishWork extra s gv).done = gv.done := by
  unfold finishWork
  split
  · exact nextWork_done s _
  · rfl

/-- With no other window waiting, a graver whose work ends is idle. -/
theorem finishWork_idle {id : Nat} {gv : Graver} (extra : List Cov) (s : State) (current : gv.current = some id)
    (alone : gv.descs.find? (fun d => d.req != id && d.opened) = none) :
    finishWork extra s gv = renew s { gv with
      finished := gv.finished ++ [(id, gv.frags, gv.cov ++ extra)]
      descs := gv.descs.filter fun d => d.req != id
      block := none, frags := [], cov := [], cancelled := false, atBoundary := false
      current := none, st := .idle, delayed := false, windowEnd := none, chainEnd := none } := by
  have waiting : (gv.descs.filter fun d => d.req != id).find? (·.opened) = none := by
    simpa only [List.find?_filter, ← Bool.and_eq_true, Bool.decide_eq_true] using alone
  simp only [finishWork, current, nextWork, waiting]

end close

/-! ### The overrun of a block (R106) -/

section overrun

variable {g we ce : Nat} {b : OpenBlock} {s : State}

/-- An overrun towards the wear of a graver and its counter. -/
def overrunCounted (g : Nat) (s : State) : State :=
  countEvent (cOverrun g) (unitGraver g) (countWear (unitGraver g) (fun w => { w with r := w.r + 1 }) s)

theorem overrunCounted_frame (g : Nat) (s : State) :
    overrunCounted g s = { s with ctr := (overrunCounted g s).ctr, flt := (overrunCounted g s).flt } :=
  countEvent_countWear_frame ..

theorem ctrGet_overrunCounted (g : Nat) (s : State) :
    ctrGet (cOverrun g) (overrunCounted g s) = min 0xFFFF (ctrGet (cOverrun g) s + 1) :=
  ctrGet_countEvent (cOverrun g) _ _ (Nat.zero_lt_succ 15)

/-- The graver with its open block marked as overrun. -/
def overrunMarked (b : OpenBlock) (gv : Graver) : Graver := { gv with block := some { b with overrun := true } }

theorem overrunMarked_listed (b : OpenBlock) (gv : Graver) : overrunMarked b gv ≠ {} := graver_ne_of_block rfl

/-- The state in which the overrun of an open block has been counted and the block marked. -/
def overrunNoted (g : Nat) (b : OpenBlock) (s : State) : State :=
  setGraver g (overrunMarked b (graver g s)) (overrunCounted g s)

theorem graver_overrunNoted (g : Nat) (b : OpenBlock) (s : State) :
    graver g (overrunNoted g b s) = overrunMarked b (graver g s) := graver_setGraver (overrunMarked_listed b _) g _

theorem overrunNoted_frame (g : Nat) (b : OpenBlock) (s : State) :
    overrunNoted g b s = { setGraver g (overrunMarked b (graver g s)) s with
      ctr := (overrunNoted g b s).ctr, flt := (overrunNoted g b s).flt } := by
  rw [overrunNoted, overrunCounted_frame]
  rfl

/-- Between the end of the window and of the chain strokes an open block is marked, and counted if it was not marked. -/
theorem overrun_marks (block : (graver g s).block = some b) (window : (graver g s).windowEnd = some we)
    (chain : (graver g s).chainEnd = some ce) (before : b.openedAt < we) (ended : we ≤ strokeCount s)
    (early : strokeCount s < ce) (timely : (graver g s).delayed = false) :
    exec (.overrun g) s = .next (setGraver g (overrunMarked b (graver g s)) (if b.overrun then s else overrunCounted g s)) := by
  refine congrArg Host.Outcome.next ?_
  have strokes : strokeCount (if b.overrun then s else overrunCounted g s) = strokeCount s := by
    split
    · rfl
    · rw [overrunCounted_frame]
      rfl
  have late : ¬ ce ≤ strokeCount s := Nat.not_le.mpr early
  rw [overrunCounted] at strokes
  simp only [execOverrunState, overrunCounted, overrunMarked, block, window, chain, if_neg (Nat.not_lt.mpr ended),
    decide_eq_false (Nat.not_le.mpr before), Bool.or_false, strokes, late, decide_false]
  exact markSlip_timely (by rw [graver_setGraver (graver_ne_of_block rfl), timely])

theorem overrun_counts (block : (graver g s).block = some b) (window : (graver g s).windowEnd = some we)
    (chain : (graver g s).chainEnd = some ce) (before : b.openedAt < we) (ended : we ≤ strokeCount s)
    (early : strokeCount s < ce) (first : b.overrun = false) (timely : (graver g s).delayed = false) :
    exec (.overrun g) s = .next (overrunNoted g b s) := by
  rw [overrun_marks block window chain before ended early timely, first, if_neg Bool.false_ne_true, overrunNoted]

/-- An overrun that has been noted is not counted again. -/
theorem overrun_again (window : (graver g s).windowEnd = some we) (chain : (graver g s).chainEnd = some ce)
    (before : b.openedAt < we) (ended : we ≤ strokeCount s) (early : strokeCount s < ce)
    (timely : (graver g s).delayed = false) :
    exec (.overrun g) (overrunNoted g b s) = .next (overrunNoted g b s) := by
  have holds := graver_overrunNoted g b s
  have strokes : strokeCount (overrunNoted g b s) = strokeCount s := by
    rw [overrunNoted_frame]
    rfl
  rw [overrun_marks (congrArg Graver.block holds) ((congrArg Graver.windowEnd holds).trans window)
    ((congrArg Graver.chainEnd holds).trans chain) before (strokes ▸ ended) (strokes ▸ early)
    ((congrArg Graver.delayed holds).trans timely), if_pos rfl, holds]
  exact congrArg Host.Outcome.next (setGraver_again (overrunMarked_listed b (graver g s)) g (overrunCounted g s))

end overrun

/-! ### The chain (R107) -/

section chain

variable {st id : Nat} {corrected : List Nat} {r : Req} {e : ColEntry} {s : State}

/-- The corrected flits of a stack's chain, counted for the gravers that corrected them. -/
def flitsCorrected (corrected : List Nat) (s : State) : State :=
  corrected.foldl (fun s g =>
    countEvent (cChainCe g) (unitGraver g) (countWear (unitGraver g) (fun w => { w with c := w.c + 1 }) s)) s

theorem flitsCorrected_frame (corrected : List Nat) (s : State) :
    flitsCorrected corrected s =
      { s with ctr := (flitsCorrected corrected s).ctr, flt := (flitsCorrected corrected s).flt } :=
  foldl_counted_frame (fun s _ => countEvent_countWear_frame _ _ _ s) corrected s

/-- The finished work on a request leaves the gravers. -/
def finishedForgotten (id : Nat) (s : State) : State :=
  pruneAnswered
    { s with gravers := mapStore {} (fun gv => { gv with finished := gv.finished.filter fun f => f.1 != id }) s.gravers }

/-- An entry that takes another's place under the same name stands in the list. -/
theorem mem_setEntry {e e' : ColEntry} (listed : e ∈ s.sch.entries) (req : e'.req = e.req) (tenant : e'.tenant = e.tenant)
    (tag : e'.tag = e.tag) : e' ∈ (setEntry e' s).sch.entries :=
  List.mem_map.mpr ⟨e, listed, by simp [req, tenant, tag]⟩

/-- The gravers of a stack that have finished their work on a request. -/
def finishedGravers (st id : Nat) (s : State) : List (Nat × Graver) :=
  s.gravers.filter fun x => x.1 / 16 == st && x.2.finished.any fun f => f.1 == id

/-- What was dealt to them. -/
def dealtToFinished (st id : Nat) (e : ColEntry) (s : State) : List Dealt :=
  e.dealt.filter fun d => ((finishedGravers st id s).map (·.1)).contains d.graver

/-- What arrives at the collator when the finished gravers of a stack merge and every flit is good. -/
def stackArrival (st id : Nat) (r : Req) (e : ColEntry) (s : State) : Arrival :=
  { source := st
    frags := stackFrags r ((finishedGravers st id s).filterMap (graverShare id))
      (((dealtToFinished st id e s).filter fun d => !d.cand).map fun d => chunkSpan d.base (d.base + d.count))
    cov := ((finishedGravers st id s).filterMap (graverShare id)).flatMap fun x => x.2.2
    status := stOk, slip := r.slip, collapsed := false, candIn := false, sources := 0, admitAt := r.admitTime
    keys := dealtToFinished st id e s }

/-- The entry once the stack's arrival has joined it and its finished gravers have delivered. -/
def stackArrived (st id : Nat) (r : Req) (e : ColEntry) (s : State) : ColEntry :=
  { e with
    arrivals := e.arrivals ++ [stackArrival st id r e s]
    dealt := e.dealt.filter fun d => !((finishedGravers st id s).map (·.1)).contains d.graver }

/-- With no open partner the finished gravers of a stack merge, and their arrival joins the request's open entry. -/
theorem chainMerge_arrives (finished : finishedGravers st id s ≠ [])
    (alone : (s.gravers.filter fun x => x.1 / 16 == st && (!(openBlocks id x.2).isEmpty || x.2.current == some id)) = [])
    (request : reqFind id s = some r) (entry : entryFind id s = some e) (unclosed : e.closedAt = none) :
    exec (.chainMerge st id corrected []) s = .next (finishedForgotten id
      (setEntry (stackArrived st id r e s) (flitsCorrected corrected s))) := by
  have entry' : entryFind id (flitsCorrected corrected s) = some e := by
    rw [flitsCorrected_frame]
    exact entry
  have stillOpen : e.closedAt.isNone = true := by rw [unclosed, Option.isNone_none]
  have merges : (finishedGravers st id s).isEmpty = false := by simp [finished]
  refine congrArg Host.Outcome.next ?_
  rw [flitsCorrected] at entry'
  rw [finishedGravers] at merges
  simp only [execChainMergeState, merges, alone, request, entry, entry', stillOpen, Option.filter_some,
    List.isEmpty_nil, Bool.not_true, Bool.false_and, Bool.or_false, Bool.false_eq_true, if_false, if_true,
    List.filterMap_nil, List.flatMap_nil, List.append_nil, List.foldl_nil, List.map_id']
  rfl

end chain

/-! ### The sheet patrol and the banks (R88, R89, R110) -/

section upkeep

variable {g : Nat} {corrected : List (Nat × Nat)} {s : State}

theorem sheetPatrol_counts : exec (.sheetPatrol g corrected none) s =
    .next (sheetCorrected g (corrected.filter (wordOn (graver g s))).length s) := rfl

/-- The patrol sees no error in banks that are not on. -/
theorem sheetPatrol_off (ueWord : Option (Nat × Nat)) (off : ∀ w, wordOn (graver g s) w = false) :
    exec (.sheetPatrol g corrected ueWord) s = .next (sheetCorrected g 0 s) := by
  have noUe : ueWord.filter (wordOn (graver g s)) = none := by
    cases ueWord <;> simp [off]
  have noCe : corrected.filter (wordOn (graver g s)) = [] := by simp [off]
  refine congrArg Host.Outcome.next ?_
  simp only [execSheetPatrolState, noUe, noCe, List.length_nil]

/-- With no block open an uncorrectable error counts, and excludes no row. -/
theorem sheetPatrol_uncorrectable {w : Nat × Nat} (on : wordOn (graver g s) w = true)
    (closed : (graver g s).block = none) : exec (.sheetPatrol g corrected (some w)) s =
      .next (sheetErrors g [w] (sheetCorrected g (corrected.filter (wordOn (graver g s))).length s)) := by
  refine congrArg Host.Outcome.next ?_
  simp only [execSheetPatrolState, Option.filter_some, on, if_true, closed]

theorem bankReady_wakes {b : Nat} (waking : (graver g s).waking = [(b, s.time.elapsed)]) :
    exec (.bankReady g) s = .next (setGraver g { graver g s with
      banks := put 0 (graver g s).banks b 2, waking := [] } s) := by
  refine congrArg Host.Outcome.next ?_
  simp [execBankReadyState, waking]

end upkeep

/-- Settles O17: each sweep, the close and the overrun by the lemma above that says what it does. -/
theorem graverSweeps : Obligations.GraverSweeps := by
  unfold Obligations.GraverSweeps
  refine ⟨?_, ?_, ?_, ?_, ?_, ?_, ?_⟩
  · intro g ue r b s opened reads clean inRange computed
    exact sweep1_scores opened reads clean inRange computed
  · intro g corrected ueWords r b s opened clean
    exact sweep2_weighs opened clean
  · intro g corrected ue ueWords r b s opened reads cleanPages cleanWords computed
    refine ⟨_, _, sweep3_outputs opened reads cleanPages cleanWords computed, rfl, ?_, ?_⟩
    all_goals rw [sheetCorrected_frame]; rfl
  · intro g r b s opened running timely
    refine ⟨_, blockClose_closes opened running timely, ?_⟩
    split
    · exact finishWork_done [] s _
    · exact openNext_done s _
  · intro g we ce b s block window chain before ended early first timely
    refine ⟨_, overrun_counts block window chain before ended early first timely, ctrGet_overrunCounted g s, ?_, ?_,
      overrun_again window chain before ended early timely⟩
    all_goals rw [overrunNoted_frame]; rfl
  · intro g r b s opened running timely last alone
    rw [blockClose_closes opened running timely, last, List.isEmpty_nil, if_pos rfl,
      finishWork_idle (gv := closeOpen r b (graver g s)) [] s (openAt_current opened) alone, ← running]
    rfl
  · intro g ue s shut
    exact sweep1_idle shut

/-- Settles O18: the chain, the patrol and the waking of banks, by the lemma above for each. -/
theorem chainAndUpkeep : Obligations.ChainAndUpkeep := by
  unfold Obligations.ChainAndUpkeep
  refine ⟨?_, ?_, ?_, ?_, ?_, ?_⟩
  · intro st id corrected r e s finished alone request entry unclosed
    have listed : e ∈ (flitsCorrected corrected s).sch.entries := by
      rw [flitsCorrected_frame]
      exact List.mem_of_find?_eq_some entry
    have named : e.req = some id := beq_iff_eq.mp (List.find?_some entry :)
    refine ⟨_, _, chainMerge_arrives finished alone request entry unclosed, rfl, rfl, rfl, ?_,
      ⟨_, mem_setEntry listed rfl rfl rfl, named, rfl⟩, ?_⟩
    all_goals rw [flitsCorrected_frame]; rfl
  · intro g corrected s
    exact sheetPatrol_counts
  · intro g corrected ueWord s off
    exact ⟨_, sheetPatrol_off ueWord off, rfl, rfl, rfl⟩
  · intro g b s waking
    exact bankReady_wakes waking
  · intro g corrected w s on closed
    exact sheetPatrol_uncorrectable on closed
  · intro g n s atLeastOne
    exact ⟨_, rfl, ctrGet_sheetCorrected g atLeastOne s, sheetCorrected_frame g n s⟩

end Sys2Proof.Proofs

/-! ## Attention requests: ATTN, APPEND, COMMIT and CANCEL (05_attention_requests.md) -/

namespace Sys2Proof.Proofs

open Sys2Proof Sys2Proof.Machine Sys2Proof.Safety

/-! ### An ATTN is taken in or discarded (R124, R125, R128) -/

section takingIn

variable {c f : Nat} {m : InMsg} {s : State}

/-- An ATTN within its credit, with room in flight and its occurrence free, becomes the next request. -/
theorem attn_takes (waits : inboxFind c tAttn false s = some m) (within : m.beyond = false)
    (room : inFlightCount s < maxInFlight) (free : s.sch.reqs.find? (sameOccurrence (aimed m s)) = none) :
    exec (.attn c) s = .next (takeIn (aimed m s) (inboxTake m s)) := by
  refine congrArg Host.Outcome.next ?_
  have room' : ¬ maxInFlight ≤ inFlightCount (inboxTake m s) := Nat.not_le.mpr room
  have free' : (inboxTake m s).sch.reqs.find? (sameOccurrence (aimed m (inboxTake m s))) = none := free
  simp only [execAttnState, waits, within, room', free', Bool.false_or, decide_eq_true_eq, if_false]
  rfl

/-- An ATTN beyond its credit is counted in OVERFLOW, and its segments' credit returns. -/
theorem attn_discards (waits : inboxFind c tAttn false s = some m) (beyond : m.beyond = true) :
    exec (.attn c) s = .next (countEvent cOverflow (unitConn c) (returnCredit c m.cls m.body.length (inboxTake m s))) := by
  refine congrArg Host.Outcome.next ?_
  simp only [execAttnState, waits, beyond, Bool.true_or, if_true]

/-- A SLOT that names none of the partition's slots leads to the best-effort class. -/
theorem aimed_unslotted (unknown : slotOf (connRec m.conn s).part (attnHdr m.body).slot 0 s = none) :
    (aimed m s).bestEffort = true ∧ (aimed m s).occ = none := by
  simp only [aimed, unknown]
  exact ⟨rfl, rfl⟩

/-- An ATTN of its own slot that was whole in time aims at the slot's next occurrence. -/
theorem aimed_slotted {sr : SlotRec} {a : Nat} (known : slotOf (connRec m.conn s).part (attnHdr m.body).slot 0 s = some sr)
    (next : nextOccurrence sr.slot m.at_ s = some a) (own : sr.conn = m.conn) (timely : m.doneAt + 1 < a) :
    (aimed m s).bestEffort = false ∧ (aimed m s).occ = some a ∧ (aimed m s).slot = some sr := by
  simp only [aimed, known, next, own, timely, and_self, if_true]

/-- A host ATTN that is submitted holds one more token. -/
theorem submitAttn_hostTokens (cmd : Cmd) (s : State) : (submitAttn cmd s).tfx.hostTokens = s.tfx.hostTokens + 1 := by
  rw [submitAttn, settle_frame, advanceCmd_frame]
  rfl

/-- A waiting host ATTN that no reason refuses is submitted when a token is free. -/
theorem attnTokenTaken_submits {cmd : Cmd} (front : hostCmd f 0 1 s = some cmd) (token : tokenFree s = true)
    (party : partyStatus false cmd s = none) (fields : cmdReason cmd attnArgs s = none)
    (admitted : hostAttnReason cmd s = none) :
    exec (.attnTokenTaken f) s = .next (submitAttn cmd s) := by
  refine congrArg Host.Outcome.next ?_
  simp only [execAttnTokenTakenState, front, token, party, fields, admitted, Option.isNone_none, Bool.and_self, if_true]

end takingIn

/-- Settles O9: an ATTN taken in, one discarded, what an ATTN aims at, and the host's, by the lemma above for each. -/
theorem attnTakenIn : Obligations.AttnTakenIn := by
  unfold Obligations.AttnTakenIn
  refine ⟨?_, ?_, ?_, ?_, ?_⟩
  · intro c m s waits within room free
    exact attn_takes waits within room free
  · intro c m s waits beyond
    refine ⟨_, attn_discards waits beyond, ?_, ?_, ctrGet_countEvent cOverflow _ _ (by decide), ?_⟩
    · rw [countEvent_tfx]
      rfl
    · rw [countEvent_sch]
      rfl
    · rw [countEvent_frame]
      rfl
  · intro m s unknown
    exact aimed_unslotted unknown
  · intro m sr a s known next own timely
    exact aimed_slotted known next own timely
  · intro f cmd s front token party fields admitted
    exact ⟨attnTokenTaken_submits front token party fields admitted, submitAttn_hostTokens cmd s⟩

/-! ### The check stroke and the admission stroke (R118, R129, R130, R133) -/

section admission

variable {id : Nat} {r : Req} {s : State}

/-- A request that passed its check, with the descriptor and the reduction mode it was checked with. -/
def checkedWith (r : Req) (s : State) : Req :=
  { r with phase := .checked, desc := ctxWord r.hdr.ctx s, canon := (partRec r.part s).canonical }

/-- A planned request that passes its checks stands checked once its body's credit has returned. -/
theorem checkReq_checks {c : Nat} (planned : r.bestEffort = false) (from_ : r.conn = some c)
    (encoded : attnIngestBad r.body s = false) (passes : attnStatus r (returnCredit c 1 r.body.length s) = stOk) :
    ∃ peak, checkReq r s = { setReq (checkedWith r s) (returnCredit c 1 r.body.length s) with sch.peak := peak } := by
  simp only [checkReq, checkedWith, planned, encoded, from_, passes, Bool.false_and, Bool.false_eq_true, if_false, ne_eq,
    not_true_eq_false]
  exact ⟨_, rfl⟩

/-- A planned request is checked in the stroke before its admission stroke. -/
theorem attnCheckStroke_planned (found : reqFind id s = some r) (new : r.phase = .taken) (free : heldPart r.part s = false)
    (planned : r.bestEffort = false) (due : r.occ = some (strokeCount s + 1)) :
    exec (.attnCheckStroke id none) s = .next (checkReq r s) := by
  refine congrArg Host.Outcome.next ?_
  simp only [execAttnCheckStrokeState, found, new, free, planned, due, strikeCtx, ne_eq, not_true_eq_false, if_false,
    Bool.false_eq_true, if_true]

/-- A request that passed its admission, with the length in force, the range it covers and the runs it looks up. -/
def admittedReq (r : Req) (s : State) : Req :=
  { r with
    phase := .lookups, tree := treeOf r s, len := lenAtAdmission r.hdr.ctx s
    lo := (coveredRange r.hdr (lenAtAdmission r.hdr.ctx s)).1, hi := (coveredRange r.hdr (lenAtAdmission r.hdr.ctx s)).2
    admitTime := s.time.now, admitPass := passNow s
    runs := coveredRuns (coveredRange r.hdr (lenAtAdmission r.hdr.ctx s)).1 (coveredRange r.hdr (lenAtAdmission r.hdr.ctx s)).2 }

/-- A child's IMPR that takes its place is counted at most. -/
theorem placeChild_frame (t : TreeLine) (x : ColEntry × State) (a : Arrival) :
    (placeChild t x a).2 = { x.2 with ctr := (placeChild t x a).2.ctr, flt := (placeChild t x a).2.flt } := by
  unfold placeChild
  split
  · exact countEvent_frame ..
  · split
    · exact countEvent_frame ..
    · rfl

theorem foldl_placeChild_frame (t : TreeLine) (l : List Arrival) (x : ColEntry × State) :
    (l.foldl (placeChild t) x).2 =
      { x.2 with ctr := (l.foldl (placeChild t) x).2.ctr, flt := (l.foldl (placeChild t) x).2.flt } := by
  induction l generalizing x with
  | nil => rfl
  | cons a l ih => rw [List.foldl_cons, ih, placeChild_frame]

/-- The opening of a request's entry changes the entries, the closed ones remembered, and what is counted. -/
theorem openEntry_frame (r : Req) (s : State) :
    openEntry r s = { s with
      sch := { s.sch with entries := (openEntry r s).sch.entries, closed := (openEntry r s).sch.closed }
      ctr := (openEntry r s).ctr, flt := (openEntry r s).flt } := by
  unfold openEntry
  dsimp only
  split
  · rw [foldl_placeChild_frame]
  · rfl

/-- A planned request that its admission passes is admitted: its entry opens, and TEL counts it. -/
theorem admitReq_admits (planned : r.bestEffort = false)
    (passes : admissionStatus r (lenAtAdmission r.hdr.ctx s) (coveredRange r.hdr (lenAtAdmission r.hdr.ctx s)).1
      (coveredRange r.hdr (lenAtAdmission r.hdr.ctx s)).2 s = stOk) :
    admitReq r s = { openEntry (admittedReq r s) (setReq (admittedReq r s) s) with
      tel.live.admitted := sat32 ((openEntry (admittedReq r s) (setReq (admittedReq r s) s)).tel.live.admitted + 1) } := by
  unfold admitReq
  exact (if_neg (not_not.mpr passes)).trans (if_neg (Bool.eq_false_iff.mp planned))

/-- A checked planned request comes to its admission in its stroke. -/
theorem admissionStroke_planned (found : reqFind id s = some r) (checked : r.phase = .checked)
    (free : heldPart r.part s = false) (planned : r.bestEffort = false) (due : r.occ = some (strokeCount s)) :
    exec (.admissionStroke id none) s = .next (admitReq r s) := by
  refine congrArg Host.Outcome.next ?_
  simp only [execAdmissionStrokeState, found, checked, free, planned, due, strikeCtx, Bool.not_false, Bool.false_eq_true,
    if_false, beq_self_eq_true, and_self, if_true]

end admission

/-- Settles O10: the check and the admission of a planned request, by the lemma above for each. -/
theorem attnCheckAndAdmission : Obligations.AttnCheckAndAdmission := by
  unfold Obligations.AttnCheckAndAdmission
  refine ⟨?_, ?_⟩
  · intro id r c s found new free planned due from_ encoded passes
    obtain ⟨peak, checks⟩ := checkReq_checks planned from_ encoded passes
    exact ⟨_, (attnCheckStroke_planned found new free planned due).trans (congrArg _ checks), rfl, rfl⟩
  · intro id r s found checked free planned due passes
    refine ⟨_, (admissionStroke_planned found checked free planned due).trans (congrArg _ (admitReq_admits planned passes)),
      ?_, ?_, ?_⟩
    all_goals rw [openEntry_frame]; rfl

/-! ### Lookups (R129, R76) -/

section lookups

variable {id run : Nat} {rest : List Nat} {up : DirUpset} {r : Req} {s q : State}

/-- The issue cycle of a lookup comes from its slot, or from the free ones. -/
theorem lookupCycle_frame (cycle : lookupCycle r s = some q) :
    q = { s with dir := { s.dir with freeCycles := q.dir.freeCycles } } := by
  unfold lookupCycle at cycle
  split at cycle
  · split at cycle
    · cases cycle
      rfl
    · cases cycle
  · rw [(takeFree_some cycle).2]

/-- A search with no lost shadow repairs entries at most. -/
theorem checkedSearch_entries (p low : Nat) (key mask : BitVec 80) (s : State) :
    EntriesOnly s (checkedSearch p key mask low [] s).2 := by
  have none : (rawHits p key mask s).filter (fun i => ([] : List Nat).contains i) = [] := by simp
  simp only [checkedSearch, none, List.foldl_nil]
  exact EntriesOnly.repairAll _ s

/-- The directory's answer to a request's lookup of a run, once upsets have struck it. -/
def runLookup (r : Req) (run : Nat) (up : DirUpset) (s : State) : Option Nat × State :=
  checkedSearch r.part (dirKey r.tenant r.hdr.ctx r.hdr.layer r.hdr.group run) lookupMask 0 up.shadowUe (applyFlips up s)

theorem runLookup_entries (r : Req) (run : Nat) (readable : up.shadowUe = []) (s : State) :
    EntriesOnly s (runLookup r run up s).2 := by
  rw [runLookup, readable]
  exact (EntriesOnly.applyFlips up s).trans (checkedSearch_entries ..)

/-- The state in which an answer's hit has taken its AGE. -/
def hitAged (answer : Option Nat × State) : State :=
  match answer.1 with
  | some i => { answer.2 with dir.entries := upd {} answer.2.dir.entries i fun e => { e with age := passNow answer.2 } }
  | none => answer.2

theorem hitAged_entries (answer : Option Nat × State) : EntriesOnly answer.2 (hitAged answer) := by
  unfold hitAged
  split
  · exact ⟨_, _, _, _, rfl⟩
  · exact .refl _

/-- The extent and the page count that an answer's hit names. -/
def hitExtent (answer : Option Nat × State) : Option (Nat × Nat) :=
  answer.1.map fun i => (dataExt (dirEntry i (hitAged answer)).data, dataCount (dirEntry i (hitAged answer)).data)

/-- A request with its lowest run looked up. -/
def lookedUp (r : Req) (run : Nat) (rest : List Nat) (answer : Option Nat × State) : Req :=
  { r with runs := rest, hits := r.hits ++ [⟨run, hitExtent answer⟩] }

/-- With a cycle to issue, the lowest run is looked up, and LOOKUPS counts it. -/
theorem admissionLookup_looksUp (found : reqFind id s = some r) (looking : r.phase = .lookups) (runs : r.runs = run :: rest)
    (cycle : lookupCycle r s = some q) :
    exec (.admissionLookup id up) s = .next {
      setReq (lookedUp r run rest (runLookup r run up q)) (hitAged (runLookup r run up q)) with
      tel.live.lookups := sat32 ((hitAged (runLookup r run up q)).tel.live.lookups + 1) } := by
  refine congrArg Host.Outcome.next ?_
  unfold execAdmissionLookupState
  simp only [found]
  split
  · next run' rest' q' _ runs' cycle' =>
    cases runs.symm.trans runs'
    cases cycle.symm.trans cycle'
    rw [runLookup]
    generalize checkedSearch _ _ _ _ _ _ = answer
    obtain ⟨_ | i, t⟩ := answer <;> rfl
  · next other => exact (other _ _ _ looking runs cycle).elim

/-- Cycles, entries and what was counted apart, a lookup leaves the node as it was. -/
theorem lookup_frame (cycle : lookupCycle r s = some q) (readable : up.shadowUe = []) :
    ∃ dir ctr flt, hitAged (runLookup r run up q) = { s with dir := dir, ctr := ctr, flt := flt } := by
  obtain ⟨_, _, _, _, searched⟩ := (runLookup_entries r run readable q).trans (hitAged_entries _)
  exact ⟨_, _, _, searched.trans (by rw [lookupCycle_frame cycle])⟩

end lookups

/-! ### Dispatch (R129, R133 to R137) -/

section dispatch

variable {id a : Nat} {ue : List Nat} {r : Req} {sl : SlotRec} {s : State}

theorem lt_dispatchStroke_iff (now a n lookups : Nat) :
    now < dispatchStroke a n lookups ↔ now + 1 < a + ceilDiv n lookups + max 1 (ceilDiv n 256) := by
  unfold dispatchStroke
  omega

/-- In the last of its dispatch strokes a planned request whose lookups all stand goes to its gravers. -/
theorem workDispatch_delivers (found : reqFind id s = some r) (looking : r.phase = .lookups) (done : r.runs = [])
    (planned : r.bestEffort = false) (slot : r.slot = some sl) (occ : r.occ = some a)
    (due : a + ceilDiv r.hits.length sl.lookups + max 1 (ceilDiv r.hits.length 256) ≤ strokeCount s + 1) :
    exec (.workDispatch id ue) s = .next (deliver r (allPages r ue s) (extentErrors r ue s)) := by
  have due' := (lt_dispatchStroke_iff ..).not.mpr (Nat.not_lt.mpr due)
  refine congrArg Host.Outcome.next ?_
  simp only [execWorkDispatchState, found, looking, done, planned, slot, occ, due', if_false,
    List.isEmpty_nil, Bool.not_true, Bool.false_eq_true, ne_eq, not_true_eq_false, or_self]

/-- Before it, nothing happens. -/
theorem workDispatch_early (found : reqFind id s = some r) (slot : r.slot = some sl) (occ : r.occ = some a)
    (early : strokeCount s + 1 < a + ceilDiv r.hits.length sl.lookups + max 1 (ceilDiv r.hits.length 256)) :
    exec (.workDispatch id ue) s = .next s := by
  have early' := (lt_dispatchStroke_iff ..).mpr early
  refine congrArg Host.Outcome.next ?_
  simp only [execWorkDispatchState, found, slot, occ, early', if_true, ite_self]

end dispatch

/-! ### The best-effort class (R126, R127) -/

section bestEffort

variable {id g p : Nat} {ue : List Nat} {r : Req} {s t u : State}

/-- A graver works on a request. -/
def worksOn (id : Nat) (gv : Graver) : Prop := gv.st = .working ∧ gv.current = some id

theorem worksOn_openNext {gv : Graver} (works : worksOn id gv) : worksOn id (openNext s gv) := by
  unfold openNext
  split
  · next taken _ =>
    have only := takeBlock_frame taken
    exact ⟨(congrArg Graver.st only).trans works.1, (congrArg Graver.current only).trans works.2⟩
  · exact works

theorem ne_free_of_worksOn {gv : Graver} (works : worksOn id gv) : gv ≠ {} := by
  rintro rfl
  exact nomatch works.1

/-- A graver that starts on best-effort work works on it, and one that works on it keeps to it when another starts. -/
theorem worksOn_startBestEffort {h : Nat} (either : worksOn id (graver g s) ∨ g = h) :
    worksOn id (graver g (startBestEffort id s h)) := by
  have starts : worksOn id (openNext s (renew s { graver h s with
      current := some id, st := .working, delayed := false, heated := false, windowEnd := none, chainEnd := none })) :=
    worksOn_openNext ⟨rfl, rfl⟩
  by_cases same : g = h
  · subst same
    rw [startBestEffort, graver_setGraver (ne_free_of_worksOn starts)]
    exact starts
  · have other : graver g (startBestEffort id s h) = graver g s :=
      look_put_other_ne _ _ _ (ne_free_of_worksOn starts) same
    rw [other]
    exact either.resolve_right same

theorem worksOn_foldl_startBestEffort {gs : List Nat} (either : worksOn id (graver g s) ∨ g ∈ gs) :
    worksOn id (graver g (gs.foldl (startBestEffort id) s)) := by
  induction gs generalizing s with
  | nil => exact either.resolve_right List.not_mem_nil
  | cons h gs ih =>
    refine ih ?_
    rw [List.mem_cons, ← or_assoc] at either
    exact either.imp_left worksOn_startBestEffort

theorem foldl_startBestEffort_frame (gs : List Nat) (s : State) :
    gs.foldl (startBestEffort id) s = { s with gravers := (gs.foldl (startBestEffort id) s).gravers } := by
  induction gs generalizing s with
  | nil => rfl
  | cons g gs ih =>
    rw [List.foldl_cons, ih]
    rfl

/-- The head of a queue has left it, and its descriptors are delivered. -/
def headDelivered (p : Nat) (ue : List Nat) (r : Req) (s : State) : State :=
  deliver r (allPages r ue s) (extentErrors r ue { s with sch.queues := upd [] s.sch.queues p fun q => q.drop 1 })

/-- A dispatch of the best-effort class, counted. -/
def dispatchCounted (s : State) : State :=
  { countEvent cBestEffort unitNode s with tel.live.bestEffort := sat32 (s.tel.live.bestEffort + 1) }

/-- The head of a queue is dispatched, and its gravers have started. -/
def headStarted (p : Nat) (ue : List Nat) (r : Req) (s : State) : State :=
  ((workOf r (allPages r ue s) s).map (·.1)).foldl (startBestEffort r.id) (dispatchCounted (headDelivered p ue r s))

theorem headStarted_sch (p : Nat) (ue : List Nat) (r : Req) (s : State) :
    (headStarted p ue r s).sch = (headDelivered p ue r s).sch := by
  rw [headStarted, foldl_startBestEffort_frame]
  generalize headDelivered p ue r s = u
  exact countEvent_sch ..

theorem headStarted_works {x : Nat × List Block} (dealt : x ∈ workOf r (allPages r ue s) s) :
    worksOn r.id (graver x.1 (headStarted p ue r s)) :=
  worksOn_foldl_startBestEffort (.inr (List.mem_map_of_mem dealt))

/-- A best-effort request with no source left closes. -/
def closedIfDone (id : Nat) (s : State) : State :=
  match reqFind id s, entryFind id s with
  | some r, some e => if bestEffortDone r e s then closeEntry r e s else s
  | _, _ => s

/-- With no higher stage waiting, its gravers open and buffer space free, the head of a queue is dispatched. -/
theorem bestEffortDispatch_starts (free : heldPart p s = false) (first : higherStageWaits s = false)
    (head : headReady p s = some r)
    (fits : ((workOf r (allPages r ue s) s).all fun x =>
      graverOpen x.1 (shareStrokes s.mgmt.grade r.hdr r.geo x.2) s) = true)
    (buffer : bufferFree r s = true) :
    exec (.bestEffortDispatch p ue) s = .next (closedIfDone r.id (headStarted p ue r s)) := by
  refine congrArg Host.Outcome.next ?_
  simp only [execBestEffortDispatchState, headStarted, dispatchCounted, headDelivered, free, first, head, fits, buffer,
    Bool.or_self, Bool.false_eq_true, if_false, Bool.not_true]
  generalize List.foldl (startBestEffort r.id) _ _ = u
  rfl

/-- While a higher stage waits, nothing is dispatched (R428; what it is to wait is the model's choice, notes/assumptions/118.md). -/
theorem bestEffortDispatch_waits (higher : higherStageWaits s = true) : exec (.bestEffortDispatch p ue) s = .next s := by
  refine congrArg Host.Outcome.next ?_
  simp only [execBestEffortDispatchState, higher, Bool.or_true, if_true]

/-! #### What a dispatch and an answer leave alone -/

/-- The stack memories, the directory and the count of best-effort dispatches stand as they were. -/
structure StacksKept (s t : State) : Prop where
  stk : t.mem.stk = s.mem.stk
  dir : t.dir = s.dir
  bestEffort : t.tel.live.bestEffort = s.tel.live.bestEffort

namespace StacksKept

theorem refl (s : State) : StacksKept s s := ⟨rfl, rfl, rfl⟩

theorem trans (first : StacksKept s t) (second : StacksKept t u) : StacksKept s u :=
  ⟨second.stk.trans first.stk, second.dir.trans first.dir, second.bestEffort.trans first.bestEffort⟩

theorem foldl {α : Type} {f : State → α → State} (each : ∀ s a, StacksKept s (f s a)) (l : List α) (s : State) :
    StacksKept s (l.foldl f s) := by
  induction l generalizing s with
  | nil => exact refl s
  | cons a l ih => exact (each s a).trans (ih (f s a))

theorem ite {c : Prop} [Decidable c] (yes : StacksKept s t) (no : StacksKept s u) : StacksKept s (if c then t else u) := by
  split
  · exact yes
  · exact no

theorem countEvent (c : Ctr) (unit : Nat) (s : State) : StacksKept s (Machine.countEvent c unit s) := by
  rw [countEvent_frame]
  exact ⟨rfl, rfl, rfl⟩

theorem deliver (r : Req) (us : List PageUse) (s : State) : StacksKept s (Machine.deliver r us s) := by
  unfold Machine.deliver
  extract_lets a work w missed cov missedCounted delivered r' s'
  have counted : StacksKept s missedCounted := foldl (fun s _ => countEvent cStackMiss unitNode s) _ s
  have given : StacksKept missedCounted delivered := foldl (fun s x => by dsimp only; split <;> exact ⟨rfl, rfl, rfl⟩) _ _
  have kept := counted.trans given
  clear_value delivered
  split
  · exact kept.trans ⟨rfl, rfl, rfl⟩
  · exact kept.trans ⟨rfl, rfl, rfl⟩

theorem handOver (r : Req) (i : ImprMsg) (s : State) : StacksKept s (Machine.handOver r i s) := by
  unfold Machine.handOver
  extract_lets noted left
  have closed : StacksKept s noted := ite (refl s) ⟨rfl, rfl, rfl⟩
  clear_value noted
  have dropped : StacksKept s left := closed.trans ⟨rfl, rfl, rfl⟩
  clear_value left
  split
  · refine dropped.trans ?_
    rw [hostImpr, endCommand_frame, b2Write_frame]
    exact ⟨rfl, rfl, rfl⟩
  · refine dropped.trans ?_
    extract_lets
    rw [queueMsg_frame]
    exact ⟨rfl, rfl, rfl⟩
  · exact dropped

theorem countMerges (n : Nat) (e : ColEntry) (s : State) : StacksKept s (Machine.countMerges n e s).2 := ⟨rfl, rfl, rfl⟩

theorem sendResult (r : Req) (e : ColEntry) (extra : List Cov) (codes : List Nat) (s : State) :
    StacksKept s (Machine.sendResult r e extra codes s) :=
  ((ite (countEvent ..) (refl s)).trans (countMerges ..)).trans (handOver ..)

theorem answerEntry (r : Req) (e : ColEntry) (codes : List Nat) (s : State) :
    StacksKept s (Machine.answerEntry r e codes s) :=
  (ite (foldl (fun s _ => countEvent cSourceLate unitCollator s) _ s) (refl s)).trans (sendResult ..)

theorem cutLocal (r : Req) (e : ColEntry) (s : State) : StacksKept s (Machine.cutLocal r e s).2 :=
  foldl (fun s st => countEvent cSourceLate (unitStack st) s) _ s

theorem closeEntry (r : Req) (e : ColEntry) (s : State) : StacksKept s (Machine.closeEntry r e s) :=
  (cutLocal r e s).trans (answerEntry ..)

theorem closedIfDone (id : Nat) (s : State) : StacksKept s (Proofs.closedIfDone id s) := by
  unfold Proofs.closedIfDone
  split
  · split
    · exact closeEntry ..
    · exact refl s
  · exact refl s

end StacksKept

@[simp] theorem extentErrors_nil (r : Req) (s : State) : extentErrors r [] s = s := by simp [extentErrors, once]

/-- With no extent lost, the dispatch of a queue's head is counted, and the stacks and the directory are left alone. -/
theorem headStarted_counts (p : Nat) (r : Req) (s : State) :
    (headStarted p [] r s).tel.live.bestEffort = sat32 (s.tel.live.bestEffort + 1) ∧
      (headStarted p [] r s).mem.stk = s.mem.stk ∧ (headStarted p [] r s).dir = s.dir := by
  have kept : StacksKept s (headDelivered p [] r s) := by
    rw [headDelivered, extentErrors_nil]
    exact .trans (t := { s with sch.queues := upd [] s.sch.queues p fun q => q.drop 1 }) ⟨rfl, rfl, rfl⟩ (.deliver ..)
  rw [headStarted, foldl_startBestEffort_frame]
  generalize headDelivered p [] r s = delivered at kept ⊢
  rw [dispatchCounted, countEvent_frame]
  exact ⟨congrArg (fun n => sat32 (n + 1)) kept.bestEffort, kept.stk, kept.dir⟩

end bestEffort

/-- Settles O11: the lookup, the planned dispatch and that of the best-effort class, by the lemma above for each. -/
theorem lookupsAndDispatch : Obligations.LookupsAndDispatch := by
  unfold Obligations.LookupsAndDispatch
  refine ⟨?_, ?_, ?_, ?_, ?_, ?_⟩
  · intro id run rest up r q s found looking runs cycle readable
    obtain ⟨_, _, _, only⟩ := lookup_frame (run := run) cycle readable
    refine ⟨_, hitExtent (runLookup r run up q), admissionLookup_looksUp found looking runs cycle, ?_⟩
    rw [only]
    exact ⟨rfl, rfl, rfl, rfl⟩
  · intro id ue r sl a s found looking done planned slot occ due
    exact workDispatch_delivers found looking done planned slot occ due
  · intro p ue r s free first head fits buffer
    refine ⟨_, headStarted p ue r s, bestEffortDispatch_starts free first head fits buffer, ?_, headStarted_sch p ue r s,
      fun _ dealt => headStarted_works dealt⟩
    generalize headStarted p ue r s = u
    rfl
  · intro p r s free first head fits buffer
    obtain ⟨counted, stk, dir⟩ := headStarted_counts p r s
    have kept := StacksKept.closedIfDone r.id (headStarted p [] r s)
    exact ⟨_, bestEffortDispatch_starts free first head fits buffer, kept.bestEffort.trans counted, kept.stk.trans stk,
      kept.dir.trans dir⟩
  · intro p ue s higher
    exact bestEffortDispatch_waits higher
  · intro id ue r sl a s found slot occ early
    exact workDispatch_early found slot occ early

/-! ### APPEND and COMMIT (R138 to R144) -/

section writes

variable {c : Nat} {m : InMsg} {ue : Option Nat} {bestEffort commit : Bool} {part tenant : Nat} {h : WriteHdr} {b : List Byte}
  {s t : State}

/-! #### One condition is reported as it is, and a status of ST_OK means that none holds (R17) -/

theorem combine_single (n : Nat) : combine [n] = n := by
  by_cases ok : n = stOk
  · subst ok
    rfl
  · cases mild : stMild n <;> simp [combine, ok, mild, lowest, minCode]

theorem rowsBad_of_writeStatus (passes : writeStatus part tenant h b s = stOk) : rowsBad h b s = false := by
  by_contra bad
  rw [Bool.not_eq_false] at bad
  simp only [writeStatus, bad, Bool.or_true, Bool.true_or] at passes
  generalize (s.pwr.hold || scrubPending part tenant s) = fenced at passes
  generalize s.res.ctxUe.contains h.ctx = lost at passes
  revert passes
  cases fenced <;> cases lost <;> decide

/-! #### What a write comes to -/

theorem applyWrite_refused (against : writeStatus part tenant h b s ≠ stOk) :
    applyWrite bestEffort part tenant h false b s = (some (writeStatus part tenant h b s), s) := by
  simp only [applyWrite, Bool.false_and, codeIf, Bool.false_eq_true, if_false, combine_single, ne_eq, against,
    not_false_eq_true, if_true]

/-- The rows that a write stores. -/
abbrev rowsOf (h : WriteHdr) (b : List Byte) (s : State) : RowWrite :=
  ⟨h.ctx, h.layer, h.group, h.t0, tokenRecs (ctxGeo h.ctx s) h.nrows b⟩

/-- A COMMIT sets the committed length, an APPEND does not. -/
def lengthSet (commit : Bool) (h : WriteHdr) (s : State) : State := if commit then setLen h.ctx h.newL s else s

/-- What a write of rows comes to. -/
def rowsComeTo (commit : Bool) (h : WriteHdr) : WriteEnd → State → Option Nat × State
  | .stored t, _ => (some stOk, lengthSet commit h t)
  | .refused create, s => (some stPageAbsent, refusedWrite create s)
  | .waits t, _ => (none, t)

theorem applyWrite_passes (passes : writeStatus part tenant h b s = stOk) (length : (commit && newLBad h s) = false) :
    applyWrite bestEffort part tenant h commit b s =
      if h.hasRows then rowsComeTo commit h (storeRows bestEffort (rowsOf h b s) s) s
      else (some stOk, lengthSet commit h s) := by
  simp only [applyWrite, passes, length, codeIf, Bool.false_eq_true, if_false, combine_single, ne_eq, not_true_eq_false]
  refine congrArg (fun x => if h.hasRows then x else (some stOk, lengthSet commit h s)) ?_
  cases storeRows bestEffort (rowsOf h b s) s <;> rfl

/-! #### The message and its completion -/

/-- The header of a write. -/
def hdrOf (commit : Bool) (m : InMsg) : WriteHdr := if commit then commitHdr m.body else appendHdr m.body

/-- A write is admitted with what it comes to. -/
abbrev writeComesTo (commit : Bool) (m : InMsg) (s : State) : Option Nat × State :=
  applyWrite (writeTurn m s == .bestEffort) (connRec m.conn s).part (connRec m.conn s).tenant (hdrOf commit m) commit m.body s

/-- A write that is done or refused leaves the inbox and is answered with its status; a refusal is counted. -/
theorem admitWrite_answers {st : Nat} (outcome : writeComesTo commit m s = (some st, t))
    (encoded : rowsBad (hdrOf commit m) m.body s = false) :
    admitWrite commit m none s = sendCompletion m.conn m.typ (hdrOf commit m).tag st 0
      (if st = stOk then takeWrite m t else countEvent cCommitRefused (unitConn m.conn) (takeWrite m t)) := by
  unfold admitWrite
  rw [← hdrOf]
  extract_lets h u
  have outcome' : applyWrite (writeTurn m u == .bestEffort) (connRec m.conn u).part (connRec m.conn u).tenant h commit
      m.body u = (some st, t) := outcome
  have encoded' : rowsBad h m.body u = false := encoded
  simp only [outcome', encoded', Bool.false_eq_true, if_false]
  rfl

/-- A refused write is counted in COMMIT_REFUSED. -/
theorem admitWrite_refuses {st : Nat} (refused : writeComesTo commit m s = (some st, t)) (against : st ≠ stOk)
    (encoded : rowsBad (hdrOf commit m) m.body s = false) :
    admitWrite commit m none s = sendCompletion m.conn m.typ (hdrOf commit m).tag st 0
      (countEvent cCommitRefused (unitConn m.conn) (takeWrite m t)) :=
  (admitWrite_answers refused encoded).trans (congrArg _ (if_neg against))

/-- A write that waits is not admitted. -/
theorem admitWrite_waits (waits : writeComesTo commit m s = (none, t)) : admitWrite commit m none s = t := by
  unfold admitWrite
  rw [← hdrOf]
  extract_lets h u
  have waits' : applyWrite (writeTurn m u == .bestEffort) (connRec m.conn u).part (connRec m.conn u).tenant h commit
      m.body u = (none, t) := waits
  rw [waits']

/-- A completion changes its connection alone. -/
theorem sendCompletion_inbox (c typ tag status bytes : Nat) (s : State) :
    (sendCompletion c typ tag status bytes s).tfx.inbox = s.tfx.inbox := by
  unfold sendCompletion queueMsg
  dsimp only
  split <;> rfl

theorem takeWrite_frame (m : InMsg) (s : State) :
    takeWrite m s = { s with tfx := (takeWrite m s).tfx, sch.slotTaken := (takeWrite m s).sch.slotTaken } := by
  unfold takeWrite
  cases writeTurn m s <;> rfl

theorem takeWrite_inbox (m : InMsg) (s : State) : (takeWrite m s).tfx.inbox = dropFirst m s.tfx.inbox := by
  unfold takeWrite
  cases writeTurn m s <;> rfl

/-- A write that has been answered: occurrences held and the transport apart, the node is as the write left it. -/
theorem answered_frame (c typ tag status bytes : Nat) (m : InMsg) (s : State) :
    sendCompletion c typ tag status bytes (takeWrite m s) = { s with
      tfx := (sendCompletion c typ tag status bytes (takeWrite m s)).tfx
      sch.slotTaken := (takeWrite m s).sch.slotTaken } := by
  rw [sendCompletion_frame, takeWrite_frame]

theorem answered_inbox (c typ tag status bytes : Nat) (m : InMsg) (s : State) :
    (sendCompletion c typ tag status bytes (takeWrite m s)).tfx.inbox = dropFirst m s.tfx.inbox := by
  rw [sendCompletion_inbox, takeWrite_inbox]

/-- A write that has been refused is counted, and nothing else differs from one that is done. -/
theorem refused_frame (c typ tag status bytes : Nat) (m : InMsg) (s : State) :
    sendCompletion c typ tag status bytes (countEvent cCommitRefused (unitConn m.conn) (takeWrite m s)) = { s with
      tfx := (sendCompletion c typ tag status bytes (countEvent cCommitRefused (unitConn m.conn) (takeWrite m s))).tfx
      sch.slotTaken := (takeWrite m s).sch.slotTaken
      ctr := (countEvent cCommitRefused (unitConn m.conn) (takeWrite m s)).ctr
      flt := (countEvent cCommitRefused (unitConn m.conn) (takeWrite m s)).flt } := by
  rw [sendCompletion_frame, countEvent_frame, takeWrite_frame]

theorem refused_counted (m : InMsg) (s : State) :
    ctrGet cCommitRefused (countEvent cCommitRefused (unitConn m.conn) (takeWrite m s)) =
      min 0xFFFF (ctrGet cCommitRefused s + 1) := by
  rw [ctrGet_countEvent _ _ _ (by decide), takeWrite_frame]
  rfl

/-! #### Rows of pages that stand -/

/-- The state in which the pages of a write are dirty. -/
def pagesDirty (w : RowWrite) (s : State) : State :=
  (touchedPages w.t0 w.recs.length).foldl (fun s p => setDirty w.ctx w.layer w.group p s) s

theorem setDirty_frame (ctx layer group page : Nat) (s : State) :
    setDirty ctx layer group page s = { s with
      dir := (setDirty ctx layer group page s).dir, res.programs := (setDirty ctx layer group page s).res.programs } := by
  unfold setDirty
  split
  · rfl
  · dsimp only
    split <;> rfl

theorem pagesDirty_frame (w : RowWrite) (s : State) :
    pagesDirty w s = { s with dir := (pagesDirty w s).dir, res.programs := (pagesDirty w s).res.programs } := by
  unfold pagesDirty
  induction touchedPages w.t0 w.recs.length generalizing s with
  | nil => rfl
  | cons p l ih => rw [List.foldl_cons, ih, setDirty_frame]

/-- The stack memories with the rows of a write. -/
def rowsPlaced (g : Geo) (w : RowWrite) (s : State) : Mem :=
  (indexed w.t0 w.recs).foldl (fun m x =>
    match pageOf w.ctx w.layer w.group (x.1 / 128) s with
    | some (_, word) => storeRow g (slotPlace (wordSlot word)) (x.1 % 128) x.2 m
    | none => m) s.mem.stk

/-- S of every layer and KV group once rows are stored: that of theirs rises to their end. -/
def stagedWith (w : RowWrite) (s : State) : Store Nat :=
  upd 0 s.res.staged (stagedKey w.ctx w.layer w.group) fun n => max n (w.t0 + w.recs.length)

/-- The rows of a write are stored in pages that stand. -/
def rowsStored (w : RowWrite) (s : State) : State :=
  { pagesDirty w s with
    mem.stk := rowsPlaced (ctxGeo w.ctx s) w (pagesDirty w s), res.staged := stagedWith w (pagesDirty w s) }

/-- A write whose pages all stand takes no slot and installs no page. -/
theorem placeRows_standing {w : RowWrite} (thawed : frozen w.ctx w.layer w.group s = false)
    (kept : reachesDropped w s = false) (standing : freshPages w s = []) :
    placeRows w s = .ok (placeTail w.ctx w.layer w.group (rowsStored w s)) := by
  simp only [placeRows, thawed, kept, standing, takeSlots, installPages, List.map_nil, once, List.foldl_nil, rowsStored,
    pagesDirty, Bool.or_self, Bool.false_eq_true, if_false]
  generalize List.foldl (fun s p => setDirty w.ctx w.layer w.group p s) s _ = d
  rfl

/-- The links of several stacks serve a write when each serves it: all of them in one stroke, the model's choice
(notes/assumptions/106.md). -/
theorem linkTurn_of_each (each : ∀ st, linkTurn bestEffort [st] s = true) (sts : List Nat) :
    linkTurn bestEffort sts s = true :=
  List.all_eq_true.mpr fun st _ => List.all_eq_true.mp (each st) st (List.mem_singleton_self st)

/-- The state in which nothing is paid towards a write any more. -/
def paidOff (w : RowWrite) (s : State) : State :=
  { s with dir.paid := put 0 s.dir.paid (stagedKey w.ctx w.layer w.group) 0 }

/-- A write with no directory update to make pays nothing. -/
theorem payNode_nothing (w : RowWrite) (s : State) :
    payNode (stagedKey w.ctx w.layer w.group) [] s = (true, paidOff w s) := by
  simp only [payNode, List.drop_nil, takeEach, List.length_nil, if_true, paidOff]

/-- The rows of a write are stored in pages that stand, and the tail page is marked. -/
def standingStored (w : RowWrite) (s : State) : State := placeTail w.ctx w.layer w.group (rowsStored w (paidOff w s))

/-- A write whose pages all stand is stored when the links serve it. -/
theorem storeRows_standing {w : RowWrite} (thawed : frozen w.ctx w.layer w.group s = false)
    (kept : reachesDropped w s = false) (standing : freshPages w s = [])
    (served : ∀ st, linkTurn bestEffort [st] s = true) :
    ∃ sts, storeRows bestEffort w s = .stored (linkUsed sts 0 (standingStored w s)) := by
  have placed := placeRows_standing thawed kept standing
  have placedPaid : placeRows w (paidOff w s) = .ok (standingStored w s) :=
    placeRows_standing (s := paidOff w s) thawed kept standing
  have free : updateCosts w.ctx w.layer w.group [] s = [] := rfl
  simp only [storeRows, writeWhen, placed, standing, linkTurn_of_each served, free, payNode_nothing, placedPaid,
    Bool.not_true, Bool.false_eq_true, if_false]
  exact ⟨_, rfl⟩

/-- Storing rows in standing pages changes the stack memories, S, what tier programs note, the directory and what is counted. -/
theorem standingStored_frame (w : RowWrite) (s : State) : ∃ dir programs stk ctr flt, standingStored w s = { s with
    dir := dir, res := { s.res with programs := programs, staged := stagedWith w s }, mem.stk := stk
    ctr := ctr, flt := flt } := by
  obtain ⟨_, _, _, _, tail⟩ := EntriesOnly.placeTail w.ctx w.layer w.group (rowsStored w (paidOff w s))
  rw [standingStored, tail, rowsStored, stagedWith, pagesDirty_frame]
  exact ⟨_, _, _, _, _, rfl⟩

/-! #### APPEND and COMMIT -/

/-- The next write of a connection is admitted. -/
theorem append_admits (next : nextWrite c tAppend s = some m) : exec (.append c ue) s = .next (admitWrite false m ue s) := by
  refine congrArg Host.Outcome.next ?_
  simp only [execAppendState, next]

theorem commit_admits (next : nextWrite c tCommit s = some m) : exec (.commit c ue) s = .next (admitWrite true m ue s) := by
  refine congrArg Host.Outcome.next ?_
  simp only [execCommitState, next]

section passing

variable (passes : writeStatus (connRec m.conn s).part (connRec m.conn s).tenant (hdrOf commit m) m.body s = stOk)
  (length : (commit && newLBad (hdrOf commit m) s) = false)
include passes length

/-- A write with no rows is done. -/
theorem admitWrite_rowless (rowless : (hdrOf commit m).hasRows = false) :
    admitWrite commit m none s = sendCompletion m.conn m.typ (hdrOf commit m).tag stOk 0
      (takeWrite m (lengthSet commit (hdrOf commit m) s)) := by
  have done : writeComesTo commit m s = (some stOk, lengthSet commit (hdrOf commit m) s) := by
    rw [writeComesTo, applyWrite_passes passes length]
    exact if_neg (Bool.eq_false_iff.mp rowless)
  exact (admitWrite_answers done (rowsBad_of_writeStatus passes)).trans (congrArg _ (if_pos rfl))

variable (rows : (hdrOf commit m).hasRows = true)
include rows

/-- A write whose rows are stored is done. -/
theorem admitWrite_stored
    (stored : storeRows (writeTurn m s == .bestEffort) (rowsOf (hdrOf commit m) m.body s) s = .stored t) :
    admitWrite commit m none s = sendCompletion m.conn m.typ (hdrOf commit m).tag stOk 0
      (takeWrite m (lengthSet commit (hdrOf commit m) t)) := by
  have done : writeComesTo commit m s = (some stOk, lengthSet commit (hdrOf commit m) t) := by
    rw [writeComesTo, applyWrite_passes passes length, stored]
    exact if_pos rows
  exact (admitWrite_answers done (rowsBad_of_writeStatus passes)).trans (congrArg _ (if_pos rfl))

/-- A write whose cycles or links are not there yet waits. -/
theorem admitWrite_postponed
    (waits : storeRows (writeTurn m s == .bestEffort) (rowsOf (hdrOf commit m) m.body s) s = .waits t) :
    admitWrite commit m none s = t := by
  refine admitWrite_waits ?_
  rw [writeComesTo, applyWrite_passes passes length, waits]
  exact if_pos rows

/-- A write whose pages all stand raises S of its layer and KV group when the links serve it. -/
theorem admitWrite_standing
    (thawed : frozen (hdrOf commit m).ctx (hdrOf commit m).layer (hdrOf commit m).group s = false)
    (kept : reachesDropped (rowsOf (hdrOf commit m) m.body s) s = false)
    (standing : freshPages (rowsOf (hdrOf commit m) m.body s) s = [])
    (served : ∀ st, linkTurn (writeTurn m s == .bestEffort) [st] s = true) :
    ∃ t, admitWrite commit m none s = t ∧
      t.res.staged = upd 0 s.res.staged (stagedKey (hdrOf commit m).ctx (hdrOf commit m).layer (hdrOf commit m).group)
        (fun n => max n ((hdrOf commit m).t0 + (hdrOf commit m).nrows)) ∧
      t.res.lens = (lengthSet commit (hdrOf commit m) s).res.lens ∧ t.tfx.inbox = dropFirst m s.tfx.inbox ∧
      t.mem = { s.mem with stk := t.mem.stk } := by
  obtain ⟨sts, stored⟩ := storeRows_standing thawed kept standing served
  obtain ⟨_, _, _, _, _, only⟩ := standingStored_frame (rowsOf (hdrOf commit m) m.body s) s
  have records : (rowsOf (hdrOf commit m) m.body s).recs.length = (hdrOf commit m).nrows := by simp [tokenRecs]
  refine ⟨_, admitWrite_stored passes length rows stored, ?_⟩
  rw [answered_inbox, answered_frame, only, stagedWith, records]
  cases commit <;> exact ⟨rfl, rfl, rfl, rfl⟩

end passing

end writes

/-- Settles O15: a write that is refused, done, stored or kept waiting, by the lemma above for each. -/
theorem appendAndCommit : Obligations.AppendAndCommit := by
  unfold Obligations.AppendAndCommit
  refine ⟨?_, ?_, ?_, ?_, ?_, ?_⟩
  · rintro _ m s next rfl encoded against
    have refused := admitWrite_refuses (commit := false) (applyWrite_refused against) against encoded
    refine ⟨_, (append_admits next).trans (congrArg _ refused), ?_, ?_, ?_⟩
    · rw [refused_frame]
      exact refused_counted m s
    · rw [sendCompletion_inbox, countEvent_tfx, takeWrite_inbox]
    · rw [refused_frame]
  · rintro _ m s next rfl rowless passes length
    refine ⟨_, (commit_admits next).trans (congrArg _ (admitWrite_rowless (commit := true) passes length rowless)), ?_⟩
    rw [answered_inbox, answered_frame]
    exact ⟨rfl, rfl, rfl, rfl, rfl, rfl⟩
  · rintro _ m t s next rfl passes rows stored
    exact (append_admits next).trans (congrArg _ (admitWrite_stored (commit := false) passes rfl rows stored))
  · rintro _ m t s next rfl passes rows waits
    exact (append_admits next).trans (congrArg _ (admitWrite_postponed (commit := false) passes rfl rows waits))
  · rintro _ m s next rfl passes rows thawed kept standing served
    obtain ⟨t, admitted, stored⟩ := admitWrite_standing (commit := false) passes rfl rows thawed kept standing served
    exact ⟨t, (append_admits next).trans (congrArg _ admitted), stored⟩
  · rintro _ m s next rfl passes rows length thawed kept standing served
    obtain ⟨t, admitted, stored⟩ := admitWrite_standing (commit := true) passes length rows thawed kept standing served
    exact ⟨t, (commit_admits next).trans (congrArg _ admitted), stored⟩

/-! ### CANCEL (R147, R148) -/

section cancel

variable {c f g tenant tag : Nat} {m : InMsg} {cmd : Cmd} {r : Req} {s : State}

/-- With no check of its TAG to come first, a CANCEL finds the requests in flight as they are. -/
theorem checkBefore_none (none : (s.sch.reqs.filter fun q => q.tenant == tenant && q.tag == tag && q.phase == .taken) = []) :
    checkBefore tenant tag s = s := by
  rw [checkBefore, none, List.foldl_nil]

/-- A TAG that no request in flight carries is counted in CANCEL_MISS. -/
theorem cancelTag_misses (none : (s.sch.reqs.filter fun q => q.tenant == tenant && q.tag == tag && q.phase == .taken) = [])
    (idle : (s.sch.reqs.filter fun q => q.tenant == tenant && q.tag == tag && inFlight q && !q.cancelled) = []) :
    cancelTag tenant tag s = (0, countEvent cCancelMiss unitNode s) := by
  simp only [cancelTag, checkBefore_none none, idle, List.isEmpty_nil, if_true]

/-- A request at work on gravers is marked, and so are its gravers. -/
def cancelMarked (r : Req) (s : State) : State :=
  { setReq { r with cancelled := true } s with gravers := mapStore {} (cancelOn r) s.gravers }

theorem cancelReq_marks (works : r.phase = .dispatched) :
    cancelReq s r = cancelMarked r (countEvent cCancelled unitNode s) := by
  simp only [cancelReq, cancelMarked, works]

/-- A TAG that one request carries, at work on gravers, marks it. -/
theorem cancelTag_marks (none : (s.sch.reqs.filter fun q => q.tenant == tenant && q.tag == tag && q.phase == .taken) = [])
    (one : (s.sch.reqs.filter fun q => q.tenant == tenant && q.tag == tag && inFlight q && !q.cancelled) = [r])
    (works : r.phase = .dispatched) :
    cancelTag tenant tag s = (1, cancelMarked r (countEvent cCancelled unitNode s)) := by
  simp only [cancelTag, checkBefore_none none, one, List.isEmpty_cons, Bool.false_eq_true, if_false, List.length_singleton,
    List.foldl_cons, List.foldl_nil, cancelReq_marks works]

/-- A well-formed CANCEL of an earlier stroke leaves the inbox and ends the requests of its TAG. -/
theorem cancel_admits (free : heldPart (connRec c s).part s = false) (waits : inboxFind c tCancel false s = some m)
    (earlier : m.doneAt < strokeCount s) (length : m.body.length = 16) (reserved : zeroes (m.body.drop 8) = true) :
    exec (.cancel c) s = .next (cancelTag (connRec c s).tenant (u m.body 0 8) (taken c m s)).2 := by
  have wellFormed : ¬(m.body.length ≠ 16 ∨ (!zeroes (m.body.drop 8)) = true) := by simp [length, reserved]
  refine congrArg Host.Outcome.next ?_
  simp only [execCancelState, free, waits, Nat.not_le.mpr earlier, wellFormed, Bool.false_eq_true, if_false]
  rfl

/-! #### At a sweep boundary (R111) -/

/-- A graver abandons what it still holds of its cancelled request. -/
def abandoned (r : Req) (s : State) (gv : Graver) : Graver :=
  finishWork ((openBlocks r.id gv).flatMap (blockCov r stCancelled)) s gv

section boundary

variable (working : (graver g s).st = .working) (cancelled : (graver g s).cancelled = true)
  (current : (graver g s).current = some r.id) (found : reqFind r.id s = some r) (timely : (graver g s).delayed = false)
include working cancelled current found timely

/-- With no block open, it abandons its later blocks. -/
theorem cancelAtSweepBoundary_idle (closed : (graver g s).block = none) :
    exec (.cancelAtSweepBoundary g) s = .next (setGraver g (abandoned r s (graver g s)) s) := by
  refine congrArg Host.Outcome.next ?_
  simp only [execCancelAtSweepBoundaryState, sweepBoundary, working, cancelled, current, found, closed, markSlip_timely timely,
    Bool.and_self, Option.bind_some]
  rfl

/-- A block whose third sweep has ended closes first. -/
theorem cancelAtSweepBoundary_closes {b : OpenBlock} (opened : (graver g s).block = some b) (swept : b.swept = 3) :
    exec (.cancelAtSweepBoundary g) s = .next (setGraver g (abandoned r s (closeOpen r b (graver g s))) s) := by
  refine congrArg Host.Outcome.next ?_
  simp only [execCancelAtSweepBoundaryState, sweepBoundary, working, cancelled, current, found, opened, swept,
    markSlip_timely timely, Bool.and_self, Option.bind_some, beq_self_eq_true, Bool.true_or, if_true]
  rfl

end boundary

/-! #### The host's ATTN and CANCEL (R347, R350) -/

/-- A host ATTN that no reason refuses is submitted when a token is free. -/
theorem hostAttn_submits (ready : hostReady f 0 1 attnArgs cmd s) (admitted : hostAttnReason cmd s = none)
    (token : tokenFree s = true) : exec (.hostAttn f) s = .next (submitAttn cmd s) := by
  obtain ⟨front, fields, party⟩ := ready
  refine congrArg Host.Outcome.next ?_
  simp only [execHostAttnState, runCmd, runFront, front, fields, party, admitted, token, if_true]

/-- A host CANCEL outside hold mode ends the requests of its TAG, and its value is their number. -/
theorem hostCancel_cancels (ready : hostReady f 0 2 [(0x00, 64)] cmd s) (running : s.pwr.hold = false) :
    exec (.hostCancel f) s = .next (endCmd cmd stOk 0 (cancelTag cmd.tenant (cmd.arg 0 8) s).1
      (cancelTag cmd.tenant (cmd.arg 0 8) s).2) := by
  obtain ⟨front, fields, party⟩ := ready
  refine congrArg Host.Outcome.next ?_
  simp only [execHostCancelState, runCmd, runFront, front, fields, running, party]

/-- A party that nothing else turns away is turned away with ST_FENCED where hold mode bars its command. -/
theorem partyStatus_barred (party : partyStatus false cmd s = none) : partyStatus true cmd s = some stFenced := by
  unfold partyStatus at party ⊢
  revert party
  generalize (cmd.f == 0 && assigned cmd.part s) = foreign
  generalize scrubPending cmd.part cmd.tenant s = scrubbed
  cases foreign <;> cases scrubbed <;> decide

/-- In hold mode a host CANCEL ends with ST_FENCED. -/
theorem hostCancel_fenced (ready : hostReady f 0 2 [(0x00, 64)] cmd s) (held : s.pwr.hold = true) :
    exec (.hostCancel f) s = .next (endCmd cmd stFenced 0 0 s) := by
  obtain ⟨front, fields, party⟩ := ready
  refine congrArg Host.Outcome.next ?_
  simp only [execHostCancelState, runCmd, runFront, front, fields, held, partyStatus_barred party]

end cancel

/-- Settles O16: a CANCEL that misses or marks, a graver at its boundary, and the host's commands, by the lemma above for
each. -/
theorem cancelAndHostAttn : Obligations.CancelAndHostAttn := by
  unfold Obligations.CancelAndHostAttn
  refine ⟨?_, ?_, ?_, ?_, ?_, ?_, ?_, ?_⟩
  · intro c m s free waits earlier none length reserved idle
    exact (cancel_admits free waits earlier length reserved).trans
      (congrArg (fun x => Host.Outcome.next x.2) (cancelTag_misses (s := taken c m s) none idle))
  · intro c m r s free waits earlier none length reserved one works
    refine ⟨_, (cancel_admits free waits earlier length reserved).trans
      (congrArg (fun x => Host.Outcome.next x.2) (cancelTag_marks (s := taken c m s) none one works)), ?_, ?_, ?_,
      ?_⟩
    · rw [countEvent_frame]
      rfl
    · rw [countEvent_frame]
      rfl
    · exact ctrGet_countEvent cCancelled unitNode (taken c m s) (by decide)
    · rw [countEvent_frame]
      rfl
  · intro g r s working cancelled current found closed timely
    exact cancelAtSweepBoundary_idle working cancelled current found timely closed
  · intro f cmd s front fields party admitted token
    exact hostAttn_submits ⟨front, fields, party⟩ admitted token
  · intro f cmd s front fields party running idle
    have missed : cancelTag cmd.tenant (cmd.arg 0 8) s = (0, countEvent cCancelMiss unitNode s) :=
      cancelTag_misses (by rw [idle]; rfl) (by rw [idle]; rfl)
    rw [hostCancel_cancels ⟨front, fields, party⟩ running, missed]
  · intro f cmd s front fields party held
    exact hostCancel_fenced ⟨front, fields, party⟩ held
  · intro f cmd s front fields party running
    exact hostCancel_cancels ⟨front, fields, party⟩ running
  · intro g r b s working cancelled current found opened swept timely
    exact cancelAtSweepBoundary_closes working cancelled current found timely opened swept

end Sys2Proof.Proofs

/-! ## Sources at the collator (06_impressions_and_collation.md) -/

namespace Sys2Proof.Proofs

open Sys2Proof Sys2Proof.Machine Sys2Proof.Safety

/-! ### A child's IMPR (R170, R171, R173) -/

section children

variable {c pos : Nat} {m : InMsg} {e : ColEntry} {r : Req} {s : State}

/-- The collator entry of the tenant and TAG that an IMPR names. -/
def entryNamed (c : Nat) (m : InMsg) (s : State) : Option ColEntry :=
  s.sch.entries.find? fun z => z.tenant == (connRec c s).tenant && z.tag == u m.body 0 8

/-- The entry that a child opens which comes before its node's own ATTN: its arrival has no position yet
(notes/assumptions/15.md). -/
def childOpened (c : Nat) (m : InMsg) (s : State) : ColEntry :=
  { tenant := (connRec c s).tenant, tag := u m.body 0 8, arrivals := [childArrival c 0 m.body false], openedPass := passNow s }

/-- The entry with a child's IMPR accepted for a position. -/
def childAccepted (c pos : Nat) (m : InMsg) (e : ColEntry) : ColEntry :=
  { e with accepted := e.accepted ++ [pos], arrivals := e.arrivals ++ [childArrival c pos m.body e.closedAt.isSome] }

/-- An IMPR that no entry waits for is an orphan, or opens one when a tree line names its connection and its TAG was not
closed within 64 passes. -/
theorem childImpr_unnamed (waits : inboxFind c tImpr false s = some m) (unnamed : entryNamed c m s = none) :
    exec (.childImpr c) s = .next
      (if !isChild c s || s.sch.closed.any fun x =>
          x.1 == (connRec c s).tenant && x.2.1 == u m.body 0 8 && passNow s < x.2.2 + 64
        then countEvent cOrphan (unitConn c) (taken c m s)
        else { taken c m s with sch.entries := s.sch.entries ++ [childOpened c m s] }) := by
  have unnamed' : (taken c m s).sch.entries.find?
      (fun z => z.tenant == (connRec c (taken c m s)).tenant && z.tag == u m.body 0 8) = none := unnamed
  refine congrArg Host.Outcome.next ?_
  simp only [execChildImprState, waits, unnamed']
  rfl

/-- An IMPR for an admitted request whose tree line places its connection is a duplicate, or accepted for that position. -/
theorem childImpr_placed (waits : inboxFind c tImpr false s = some m) (named : entryNamed c m s = some e)
    (admitted : (e.req.bind fun id => reqFind id s) = some r)
    (placed : ((treeOf r s).bind fun t => positionIn t c) = some pos) :
    exec (.childImpr c) s = .next
      (if e.accepted.contains pos then countEvent cDupDropped (unitConn c) (taken c m s)
        else setEntry (childAccepted c pos m e) (taken c m s)) := by
  have named' : (taken c m s).sch.entries.find?
      (fun z => z.tenant == (connRec c (taken c m s)).tenant && z.tag == u m.body 0 8) = some e := named
  have admitted' : (e.req.bind fun id => reqFind id (taken c m s)) = some r := admitted
  have placed' : ((treeOf r (taken c m s)).bind fun t => positionIn t c) = some pos := placed
  refine congrArg Host.Outcome.next ?_
  simp only [execChildImprState, waits, named', Option.bind_some, admitted', placed']
  rfl

end children

/-! ### An entry that stays without its ATTN (R171) -/

/-- The one entry, opened by a child 64 passes ago, is forgotten and counted. -/
theorem orphan_forgets {e : ColEntry} {s : State} (alone : s.sch.entries = [e]) (unadmitted : e.req = none)
    (old : e.openedPass + 64 ≤ passNow s) :
    exec (.orphan e.tenant e.tag) s = .next (countEvent cOrphan unitCollator { s with sch.entries := [] }) := by
  refine congrArg Host.Outcome.next ?_
  simp [execOrphanState, alone, unadmitted, old]

/-! ### Merging the first source that waits (R161, R162, R165, R167, R169, R424) -/

section merging

variable {id : Nat} {ueRows bad : List Nat} {a : Arrival} {rest : List Arrival} {r : Req} {e : ColEntry} {s : State}

/-- The entry with a source among those it has taken. -/
def sourceTaken (r : Req) (bad : List Nat) (a : Arrival) (e : ColEntry) (s : State) : ColEntry :=
  { e with taken := e.taken ++ [strikeRows r bad a s] }

/-- A stack's source that neither is the complete result nor meets one joins the entry beside the sources it holds. -/
theorem joinArrival_stack (stack : a.source < 16) (incomplete : isComplete a = false)
    (admissible : (e.taken.any isComplete && nonEmpty a.frags) = false) :
    joinArrival r e a bad s =
      countMerges (mergesNow r (sourceTaken r bad a e s) s) (sourceTaken r bad a e s) s := by
  have notChild : decide (16 ≤ a.source) = false := decide_eq_false (Nat.not_le.mpr stack)
  simp [joinArrival, notChild, incomplete, admissible, sourceTaken]

/-- A planned request's source that no error struck joins the entry, which stays open. -/
theorem collatorMerge_joins (request : reqFind id s = some r) (entry : entryFind id s = some e)
    (first : e.arrivals = a :: rest) (planned : r.bestEffort = false)
    (unstruck : (ueRows.filter fun x => x < r.hdr.rows) = []) :
    exec (.collatorMerge id false ueRows) s = .next
      (setEntry (joinArrival r { e with arrivals := rest } a [] s).1 (joinArrival r { e with arrivals := rest } a [] s).2) := by
  refine congrArg Host.Outcome.next ?_
  simp only [execCollatorMergeState, request, entry, first, unstruck, once, List.foldl_nil, bestEffortDone, planned,
    Option.isNone_some, Bool.false_and, Bool.false_eq_true, if_false]

/-- A residue mismatch ends the request, whatever waits behind the first source; its answer has the form of a refusal
(notes/assumptions/44.md). -/
theorem collatorMerge_residue (request : reqFind id s = some r) (entry : entryFind id s = some e)
    (first : e.arrivals = a :: rest) : exec (.collatorMerge id true ueRows) s = .next (residueFails r s) := by
  refine congrArg Host.Outcome.next ?_
  simp only [execCollatorMergeState, request, entry, first, if_true]

end merging

/-! ### The end of the grace and of a moved close (R171, R254) -/

section closing

variable {id c p : Nat} {r : Req} {e : ColEntry} {s : State}

/-- The one entry is the one that a close of its tenant and TAG finds, once a close stroke has come for it. -/
theorem closingEntry_found (alone : s.sch.entries = [e]) (came : (e.closedAt.isSome || e.closeMoved.isSome) = true) :
    (s.sch.entries.find? fun z =>
      z.tenant == e.tenant && z.tag == e.tag && (z.closedAt.isSome || z.closeMoved.isSome)) = some e := by
  simp [alone, came]

/-- An entry whose grace has passed closes with what has arrived. -/
theorem collatorEntryClose_grace (alone : s.sch.entries = [e]) (own : e.req = some id) (request : reqFind id s = some r)
    (closed : e.closedAt = some c) (passed : c + ((treeOf r s).map (·.grace)).getD 0 ≤ strokeCount s) :
    exec (.collatorEntryClose e.tenant e.tag) s = .next (closeNow r e s) := by
  have found := closingEntry_found alone (by simp [closed])
  refine congrArg Host.Outcome.next ?_
  simp only [execCollatorEntryCloseState, found, own, Option.bind_some, request, closed, passed, if_true]

/-- An entry whose close stroke moved closes 64 strokes after it was planned, whatever its stacks still owe. -/
theorem collatorEntryClose_moved (alone : s.sch.entries = [e]) (own : e.req = some id) (request : reqFind id s = some r)
    (unclosed : e.closedAt = none) (moved : e.closeMoved = some p) (passed : p + 64 ≤ strokeCount s) :
    exec (.collatorEntryClose e.tenant e.tag) s = .next (closeStroke r e s) := by
  have found := closingEntry_found alone (by simp [moved])
  refine congrArg Host.Outcome.next ?_
  simp only [execCollatorEntryCloseState, found, own, Option.bind_some, request, unclosed, moved, passed, decide_true,
    Bool.or_true, if_true]

end closing

/-- Settles O20: what becomes of a child's IMPR, the orphan's end, the merge of a source and the late closes, by the lemma
above for each. -/
theorem collatorSources : Obligations.CollatorSources := by
  unfold Obligations.CollatorSources
  refine ⟨?_, ?_, ?_, ?_, ?_, ?_, ?_, ?_, ?_⟩
  · intro c m s waits unnamed stranger
    rw [childImpr_unnamed waits unnamed, stranger, Bool.not_false, Bool.true_or, if_pos rfl]
  · intro c pos m e r s waits named admitted placed repeated
    rw [childImpr_placed waits named admitted placed, if_pos repeated]
  · intro c m s waits unnamed child unclosed
    have opens := childImpr_unnamed waits unnamed
    rw [child, unclosed, Bool.not_true, List.any_nil, Bool.or_false, if_neg Bool.false_ne_true] at opens
    exact ⟨_, opens, rfl, rfl⟩
  · intro e s alone unadmitted old
    exact orphan_forgets alone unadmitted old
  · intro id ueRows a r e s request entry first stack planned unstruck incomplete admissible
    have joins := collatorMerge_joins request entry first planned unstruck
    rw [joinArrival_stack (e := { e with arrivals := [] }) stack incomplete admissible] at joins
    exact ⟨_, _, joins, rfl, rfl, rfl, rfl, rfl, rfl⟩
  · intro id ueRows a rest r e s request entry first
    exact collatorMerge_residue request entry first
  · intro e id c r s alone own request closed passed
    exact collatorEntryClose_grace alone own request closed passed
  · intro c pos m e r s waits named admitted placed fresh
    rw [childImpr_placed waits named admitted placed, fresh, if_neg Bool.false_ne_true]
    rfl
  · intro e id p r s alone own request unclosed moved passed
    exact collatorEntryClose_moved alone own request unclosed moved passed

end Sys2Proof.Proofs

/-! ## The flash tier: its commands, its programs, the mount and its stalls (07_residency_and_tiers.md) -/

namespace Sys2Proof.Proofs

open Sys2Proof Sys2Proof.Machine Sys2Proof.Safety

/-! ### Parts of running operations end -/

section progress

variable {s : State}

theorem endOp_frame (o : ResOp) (status : Nat) (s : State) : ∃ host, endOp o status s =
    { s with res.ops := s.res.ops.filter (fun x => x != o), host := host } := by
  unfold endOp
  rw [settle_frame, finishCmd_frame]
  exact ⟨_, rfl⟩

/-- The second state differs from the first at most in the residency operations and in the host's queues. -/
def OpsOnly (s t : State) : Prop := ∃ ops host, t = { s with res.ops := ops, host := host }

namespace OpsOnly

variable {t u : State}

theorem refl (s : State) : OpsOnly s s := ⟨_, _, rfl⟩

theorem trans (first : OpsOnly s t) (second : OpsOnly t u) : OpsOnly s u := by
  obtain ⟨_, _, rfl⟩ := first
  obtain ⟨_, _, rfl⟩ := second
  exact ⟨_, _, rfl⟩

theorem foldl {α : Type} {f : State → α → State} (each : ∀ s a, OpsOnly s (f s a)) (l : List α) (s : State) :
    OpsOnly s (l.foldl f s) := by
  induction l generalizing s with
  | nil => exact refl s
  | cons a l ih => exact (each s a).trans (ih (f s a))

theorem opsAdvance (hit : ResOp → Bool) (f : ResOp → ResOp) (s : State) : OpsOnly s (opsAdvance hit f s) := by
  refine foldl (fun s o => ?_) s.res.ops s
  dsimp only
  split
  · split
    · obtain ⟨_, only⟩ := endOp_frame (f o) stOk
        { s with res.ops := replaceWhere (fun x => x.fn == o.fn) (fun _ => f o) s.res.ops }
      rw [only]
      exact ⟨_, _, rfl⟩
    · exact ⟨_, _, rfl⟩
  · exact refl s

theorem tileProgress (key : Nat) (code : Option Nat) (s : State) : OpsOnly s (tileProgress key code s) :=
  opsAdvance _ _ s

theorem pageProgress (n : PageName) (code : Option Nat) (s : State) : OpsOnly s (pageProgress n code s) :=
  opsAdvance _ _ s

end OpsOnly

end progress

/-! ### Codewords and their blocks (R203, R204) -/

section medium

variable {c keep idx t b : Nat} {rewrite : Bool} {s u : State}

theorem blockFor_frame (found : blockFor c keep s = some (b, u)) : ∃ opened, u = { s with fsh.opened := opened } := by
  unfold blockFor at found
  split at found
  · cases found
  · split at found
    · cases found
      exact ⟨_, rfl⟩
    · split at found
      · cases found
      · obtain ⟨_, -, same⟩ := Option.map_eq_some_iff.mp found
        cases same
        exact ⟨_, rfl⟩

/-- The second state differs from the first at most in the translation layer's blocks: what they hold, which are open, and where
codewords lie. -/
def BlocksOnly (s t : State) : Prop := ∃ blocks opened places,
  t = { s with fsh.blocks := blocks, fsh.opened := opened, fsh.places := places }

namespace BlocksOnly

variable {v : State}

theorem refl (s : State) : BlocksOnly s s := ⟨_, _, _, rfl⟩

theorem trans (first : BlocksOnly s u) (second : BlocksOnly u v) : BlocksOnly s v := by
  obtain ⟨_, _, _, rfl⟩ := first
  obtain ⟨_, _, _, rfl⟩ := second
  exact ⟨_, _, _, rfl⟩

end BlocksOnly

theorem placeCodeword_blocks (placed : placeCodeword keep idx c s = some u) : BlocksOnly s u := by
  obtain ⟨⟨_, _⟩, found, rfl⟩ := Option.map_eq_some_iff.mp placed
  obtain ⟨_, rfl⟩ := blockFor_frame found
  exact ⟨_, _, _, rfl⟩

/-- What holds of the first state and stays through every step of a chain that can fail holds of the last. -/
theorem foldlBind_induct {α : Type} {P : State → Prop} {f : α → State → Option State}
    (each : ∀ a s t, f a s = some t → P s → P t) {l : List α} {o : Option State} {t : State}
    (chain : l.foldl (fun o a => o.bind fun s => f a s) o = some t) (start : ∀ s, o = some s → P s) : P t := by
  induction l generalizing o with
  | nil => exact start t chain
  | cons a l ih =>
    refine ih chain fun s' step => ?_
    obtain ⟨s, before, step⟩ := Option.bind_eq_some_iff.mp step
    exact each a s s' step (start s before)

/-- A change that every step of such a chain passes on may be made after the chain instead. -/
theorem foldlBind_map {α : Type} {g : State → State} {f : α → State → Option State}
    (each : ∀ a s, f a (g s) = (f a s).map g) (l : List α) (o : Option State) :
    l.foldl (fun o a => o.bind fun s => f a s) (o.map g) = (l.foldl (fun o a => o.bind fun s => f a s) o).map g := by
  induction l generalizing o with
  | nil => rfl
  | cons a l ih =>
    have step : (o.map g).bind (f a) = (o.bind (f a)).map g := by
      cases o with
      | none => rfl
      | some s => exact each a s
    exact (congrArg (l.foldl _) step).trans (ih (o.bind (f a)))

theorem placeTlpn_blocks (placed : placeTlpn rewrite t s = some u) : BlocksOnly s u := by
  refine foldlBind_induct (P := BlocksOnly s) (fun _ v w step only => ?_) placed fun v first => ?_
  · exact only.trans (placeCodeword_blocks step)
  · cases first
    exact .refl s

/-- The residency has no part in where a codeword goes. -/
theorem blockFor_res (r : ResState) (c keep : Nat) (s : State) :
    blockFor c keep { s with res := r } = (blockFor c keep s).map fun x => (x.1, { x.2 with res := r }) := by
  have opened : openNand c { s with res := r } = openNand c s := rfl
  have free : freeBlocks c { s with res := r } = freeBlocks c s := rfl
  have fresh : freshBlock c { s with res := r } = freshBlock c s := rfl
  unfold blockFor
  rw [opened, free, fresh]
  dsimp only
  split
  · rfl
  · cases openNand c s with
    | some b => rfl
    | none =>
      dsimp only
      split
      · rfl
      · cases freshBlock c s <;> rfl

theorem placeTlpn_res (r : ResState) (rewrite : Bool) (t : Nat) (s : State) :
    placeTlpn rewrite t { s with res := r } = (placeTlpn rewrite t s).map fun u => { u with res := r } := by
  refine foldlBind_map (g := fun u => { u with res := r }) (fun i s => ?_) (List.range codewordsPerPage) (some s)
  unfold placeCodeword
  rw [blockFor_res]
  cases rewrite <;> simp only [Option.map_map] <;> rfl

theorem tierRoom_res (r : ResState) (t : Nat) (s : State) : tierRoom t { s with res := r } = tierRoom t s := by
  unfold tierRoom
  rw [placeTlpn_res, Option.isSome_map]

/-- Where the channels of a TLPN have room, a page is written under it: beside its bytes and the metadata of its codewords only
the blocks that take them change. -/
theorem writeTier_writes (room : tierRoom t s = true) (p : Nat) (sl : Mem) : ∃ u, writeTier false p t sl s = some u ∧
    u.mem = { s.mem with tier := memPlace s.mem.tier (t * pageBytes) pageBytes sl } ∧
    u.fsh.written = once (s.fsh.written ++ [t]) ∧ u.fsh.owner = put 0 s.fsh.owner t p ∧
    u.fsh.writeSeq = s.fsh.writeSeq + 1 ∧ u = { s with mem := u.mem, fsh := u.fsh } := by
  obtain ⟨v, placed⟩ := Option.isSome_iff_exists.mp room
  obtain ⟨_, _, _, rfl⟩ := placeTlpn_blocks placed
  refine ⟨_, by rw [writeTier, placed, Option.map_some], rfl, rfl, rfl, rfl, rfl⟩

/-- Where they have none, nothing is written. -/
theorem writeTier_full (full : tierRoom t s = false) (p : Nat) (sl : Mem) : writeTier false p t sl s = none := by
  rw [writeTier, Option.not_isSome_iff_eq_none.mp (Bool.eq_false_iff.mp full), Option.map_none]

end medium

/-! ### Tier-engine commands (R205; 13_host_attachment.md R350) -/

section commands

variable {f op : Nat} {ok : Bool} {c : Cmd} {s : State}

/-- A host command that is ready and that no reason refuses runs. -/
theorem runCmd_runs {cls : Nat} {fs reason run} (ready : hostReady f cls op fs c s) (admitted : reason c s = none) :
    runCmd f cls op fs false reason run s = run c s := by
  obtain ⟨front, fields, party⟩ := ready
  simp only [runCmd, runFront, front, fields, party, admitted]

section ready

variable (ready : hostReady f 4 op (tierFields op) c s) (admitted : tierReason c s = none)
  (going : s.fsh.stallOp ≠ some (.command f)) (ungated : s.cool.flashGated = false)
include ready admitted going ungated

theorem tierCommand_served (mounted : s.fsh.mounted = true) (readable : op = 1 → tierReadable c.part (tierNamed c).1 s = true) :
    tierCommand op f true s = tierEffect c s := by
  have reads : (op != 1 || tierReadable c.part (tierNamed c).1 s) = true := by
    by_cases read : op = 1
    · simp [readable read]
    · simp [read]
  refine (runCmd_runs ready admitted).trans ?_
  simp only [going, ungated, mounted, reads, Bool.and_self, Bool.false_eq_true, if_false, if_true]

theorem tierCommand_fails
    (unserved : (ok && s.fsh.mounted && (op != 1 || tierReadable c.part (tierNamed c).1 s)) = false) :
    tierCommand op f ok s = tierFails c s := by
  refine (runCmd_runs ready admitted).trans ?_
  simp only [going, ungated, unserved, Bool.false_eq_true, if_false]

end ready

theorem tierEffect_read (read : c.op = 1) : tierEffect c s = endCmd c 0 0 0
    (noteRead (tierNamed c).1 (b2Write c.f (c.arg 8 8) (dense (readTier (tierNamed c).1 s) 0 pageBytes) s)) := if_pos read

theorem tierEffect_write {t : State} (write : c.op = 2)
    (written : writeTier false c.part (tierNamed c).1 (sparse (b2Read c.f (c.arg 8 8) pageBytes s) 0) s = some t) :
    tierEffect c s = endCmd c 0 0 0 t := by
  simp only [tierEffect, write, written, if_true, Nat.reduceEqDiff, if_false]

theorem tierEffect_full (write : c.op = 2)
    (full : writeTier false c.part (tierNamed c).1 (sparse (b2Read c.f (c.arg 8 8) pageBytes s) 0) s = none) :
    tierEffect c s = endCmd c 4 0 0 s := by
  simp only [tierEffect, write, full, if_true, Nat.reduceEqDiff, if_false]

theorem tierEffect_trim (trim : c.op = 3) :
    tierEffect c s = endCmd c 0 0 (tierNamed c).2 (trimRange (tierNamed c).1 (tierNamed c).2 s) := by
  simp only [tierEffect, trim, Nat.reduceEqDiff, if_false]

/-- What does not lie in a range lies before it or after it. -/
theorem not_inRange (first n t : Nat) :
    (!(decide (first ≤ t) && decide (t < first + n))) = decide (t < first ∨ first + n ≤ t) := by
  rw [Bool.eq_iff_iff]
  simp only [Bool.not_eq_true', Bool.and_eq_false_iff, decide_eq_false_iff_not, decide_eq_true_eq]
  omega

/-- A trimmed range of TLPNs is unwritten, and its bytes are zero. -/
theorem trimRange_trims (first n : Nat) (s : State) : ∃ fsh, trimRange first n s =
      { s with fsh := fsh
               mem.tier := s.mem.tier.filter (fun x => decide (x.1 / pageBytes < first ∨ first + n ≤ x.1 / pageBytes)) } ∧
    fsh.written = s.fsh.written.filter (fun x => decide (x < first ∨ first + n ≤ x)) ∧
    fsh.owner = s.fsh.owner.filter (fun x => decide (x.1 < first ∨ first + n ≤ x.1)) := by
  simp only [trimRange, unplace, not_inRange]
  exact ⟨_, rfl, rfl, rfl⟩

end commands

/-! ### Stalls (R206) -/

section stalls

variable {op : StallOp} {s : State}

/-- An operation stalls where none does yet: beside the tier's stall the fault is counted, logged and signalled. -/
theorem stallTier_stalls (free : s.fsh.stalled = false) (op : StallOp) (cause : Nat) : ∃ ctr flt out,
    stallTier op cause s = { s with
    fsh := { s.fsh with stalled := true, cause := cause, stallOp := some op, retryAt := s.time.elapsed }
    ctr := ctr, flt := flt, out := out } := by
  unfold stallTier
  rw [free, raise_plain rfl, raiseRecord_frame]
  exact ⟨_, _, _, rfl⟩

theorem tierStallRetry_retries (stalled : s.fsh.stallOp = some op) (due : s.fsh.retryAt + 4000 ≤ s.time.elapsed) (ok : Bool) :
    exec (.tierStallRetry ok) s =
      .next (if ok then endStalled op true (endStall s) else { s with fsh := { s.fsh with retryAt := s.time.elapsed } }) := by
  refine congrArg Host.Outcome.next ?_
  simp only [execTierStallRetryState, stalled, Nat.not_lt.mpr due, if_false]

theorem fshCtrlSkip_skips (stalled : s.fsh.stallOp = some op) :
    exec .fshCtrlSkip s = .next (endStalled op false (endStall s)) := by
  refine congrArg Host.Outcome.next ?_
  rw [execFshCtrlSkipState, stalled]

/-- A staging read that is given up frees its tile and ends with ST_TIER_ERROR. -/
theorem endStalled_tile {key : Nat} {x : Nat × Tile} (found : s.res.tiles.find? (fun t => t.1 == key) = some x) :
    endStalled (.tile key) false s = tileProgress key (some stTierError) (freeTile key s) := by
  simp only [endStalled, found, Bool.not_false, if_true]

end stalls

/-! ### The mount (R202) -/

section mount

variable {s t u v : State}

/-- The second state differs from the first at most in the flash state and in what was counted; which TLPNs are written and what
is said of a stall stay. -/
def MediumOnly (s t : State) : Prop := ∃ fsh ctr, t = { s with fsh := fsh, ctr := ctr } ∧ fsh.written = s.fsh.written ∧
  fsh.stalled = s.fsh.stalled ∧ fsh.cause = s.fsh.cause ∧ fsh.stallOp = s.fsh.stallOp

namespace MediumOnly

theorem refl (s : State) : MediumOnly s s := ⟨_, _, rfl, rfl, rfl, rfl, rfl⟩

theorem trans (first : MediumOnly s t) (second : MediumOnly t u) : MediumOnly s u := by
  obtain ⟨_, _, rfl, written, stalled, cause, op⟩ := first
  obtain ⟨_, _, rfl, written', stalled', cause', op'⟩ := second
  exact ⟨_, _, rfl, written'.trans written, stalled'.trans stalled, cause'.trans cause, op'.trans op⟩

theorem ite {c : Prop} [Decidable c] (yes : MediumOnly s t) (no : MediumOnly s u) : MediumOnly s (if c then t else u) := by
  split
  · exact yes
  · exact no

theorem foldl {α : Type} {f : State → α → State} (each : ∀ s a, MediumOnly s (f s a)) (l : List α) (s : State) :
    MediumOnly s (l.foldl f s) := by
  induction l generalizing s with
  | nil => exact refl s
  | cons a l ih => exact (each s a).trans (ih (f s a))

theorem mountTarget (s : State) (x : FlashTarget) : MediumOnly s (mountTarget s x) :=
  ite ⟨_, _, rfl, rfl, rfl, rfl, rfl⟩ ⟨_, _, rfl, rfl, rfl, rfl, rfl⟩

theorem eraseBlock (fails : Bool) (s : State) (b : Nat) : MediumOnly s (eraseBlock fails s b) := by
  unfold Machine.eraseBlock
  extract_lets -underBinder v worn _ shut counted
  have closed : MediumOnly s shut := ite ⟨_, _, rfl, rfl, rfl, rfl, rfl⟩ (refl s)
  have tallied : MediumOnly shut counted := ite ⟨_, _, rfl, rfl, rfl, rfl, rfl⟩ (refl shut)
  exact (closed.trans tallied).trans ⟨_, _, rfl, rfl, rfl, rfl, rfl⟩

end MediumOnly

/-- The tier as the mount finds its targets. -/
def targetsMounted (ts : List FlashTarget) (s : State) : State :=
  (targetOrder ts).foldl mountTarget { s with
    fsh.present := [], fsh.excluded := [], fsh.targets := [], fsh.rawBytes := 0, fsh.goodBytes := 0, fsh.trMax := 0 }

/-- Every TLPN is trimmed, on channels that are trained. -/
def allTrimmed (s : State) : State :=
  unplace (fun _ => true) { s with fsh.lpddr := true, fsh.trainedAt := some s.time.elapsed, fsh.opened := [] }

theorem targetsMounted_medium (ts : List FlashTarget) (s : State) : MediumOnly s (targetsMounted ts s) :=
  .trans (t := { s with
    fsh.present := [], fsh.excluded := [], fsh.targets := [], fsh.rawBytes := 0, fsh.goodBytes := 0, fsh.trMax := 0 })
    ⟨_, _, rfl, rfl, rfl, rfl, rfl⟩ (.foldl .mountTarget _ _)

/-- As `MediumOnly`, with every TLPN trimmed and its bytes gone. -/
def TierEmptied (s t : State) : Prop := ∃ fsh ctr, t = { s with fsh := fsh, mem := { s.mem with tier := [] }, ctr := ctr } ∧
  fsh.written = [] ∧ fsh.stalled = s.fsh.stalled ∧ fsh.cause = s.fsh.cause ∧ fsh.stallOp = s.fsh.stallOp

theorem TierEmptied.between (before : MediumOnly s t) (emptied : TierEmptied t u) (after : MediumOnly u v) : TierEmptied s v := by
  obtain ⟨_, _, rfl, -, stalled, cause, op⟩ := before
  obtain ⟨_, _, rfl, written, stalled', cause', op'⟩ := emptied
  obtain ⟨_, _, rfl, written', stalled'', cause'', op''⟩ := after
  exact ⟨_, _, rfl, written'.trans written, (stalled''.trans stalled').trans stalled, (cause''.trans cause').trans cause,
    (op''.trans op').trans op⟩

theorem allTrimmed_empties (s : State) : TierEmptied s (allTrimmed s) := by
  have none : ∀ (α : Type) (l : List α), l.filter (fun _ => !true) = [] := fun _ _ => List.filter_eq_nil_iff.mpr (by simp)
  simp only [allTrimmed, unplace, none]
  exact ⟨_, _, rfl, rfl, rfl, rfl, rfl⟩

/-- Blocks that hold nothing after the trim are erased. -/
def emptyErased (s : State) : State := (emptyBlocks s).foldl (eraseBlock false) s

/-- The tier is mounted, with the capacity that its good blocks give. -/
def capacitySet (s : State) : State :=
  { s with fsh.mounted := true, fsh.usableGib := min usableLimit (s.fsh.goodBytes * 7 / 8) / 2 ^ 30 }

theorem mounted_eq (ts : List FlashTarget) (s : State) :
    mounted ts s = capacitySet (emptyErased (allTrimmed (targetsMounted ts s))) := by
  simp only [mounted, capacitySet, emptyErased, allTrimmed, targetsMounted]

/-- The mount takes its targets, trims every TLPN and sets the capacity. -/
theorem mounted_mounts (ts : List FlashTarget) (s : State) : ∃ fsh ctr,
    mounted ts s = { s with fsh := fsh, mem := { s.mem with tier := [] }, ctr := ctr } ∧ fsh.mounted = true ∧
    fsh.usableGib = min (28 * 10 ^ 12) (fsh.goodBytes * 7 / 8) / 2 ^ 30 ∧ fsh.written = [] ∧
    fsh.stalled = s.fsh.stalled ∧ fsh.cause = s.fsh.cause ∧ fsh.stallOp = s.fsh.stallOp := by
  obtain ⟨_, _, only, written, stalled, cause, op⟩ := TierEmptied.between (targetsMounted_medium ts s) (allTrimmed_empties _)
    (.foldl (.eraseBlock false) (emptyBlocks (allTrimmed (targetsMounted ts s))) _)
  rw [mounted_eq, emptyErased, only]
  exact ⟨_, _, rfl, rfl, rfl, written, stalled, cause, op⟩

end mount

/-! ### Programs (R194, R204) -/

section programs

variable {index : Nat} {failed : List Nat} {q : TierProgram} {s : State}

/-- The channels of a program that failed. -/
abbrev failedOn (failed : List Nat) (q : TierProgram) : List Nat := once (failed.filter fun c => (tlpnChannels q.tlpn).contains c)

/-- A program's codewords that failed retire their blocks. -/
abbrev blocksRetired (failed : List Nat) (q : TierProgram) (s : State) : State := (failedOn failed q).foldl retireOpen s

theorem failedOn_none (clean : failed.all (fun x => !(tlpnChannels q.tlpn).contains x) = true) : failedOn failed q = [] := by
  have none : (failed.filter fun c => (tlpnChannels q.tlpn).contains c) = [] :=
    List.filter_eq_nil_iff.mpr fun x mem => by simpa using List.all_eq_true.mp clean x mem
  rw [failedOn, none, once]

theorem failedOn_some (fails : failed.any (fun x => (tlpnChannels q.tlpn).contains x) = true) :
    (failedOn failed q).isEmpty = false := by
  obtain ⟨x, mem, on⟩ := List.any_eq_true.mp fails
  exact List.isEmpty_eq_false_iff_exists_mem.mpr ⟨x, mem_once.mpr (List.mem_filter.mpr ⟨mem, on⟩)⟩

section ending

variable (running : s.res.programs[index]? = some q) (going : s.fsh.stallOp ≠ some (.program q.page))
  (ungated : s.cool.flashGated = false)
include running going ungated

/-- A program ends well where its codewords, those rewritten among them, find blocks. -/
theorem tierProgramDone_places
    (room : (placeTlpn (!(failedOn failed q).isEmpty) q.tlpn (blocksRetired failed q s)).isSome = true) :
    exec (.tierProgramDone index failed) s =
      .next (programOk (!(failedOn failed q).isEmpty) q (blocksRetired failed q s)) := by
  refine congrArg Host.Outcome.next ?_
  simp only [execTierProgramDoneState, running, going, ungated, room, Bool.false_eq_true, if_false, if_true]

/-- Outside service a program that finds no room stalls. -/
theorem tierProgramDone_stalls (clean : failed.all (fun x => !(tlpnChannels q.tlpn).contains x) = true)
    (full : tierRoom q.tlpn s = false) (outside : inService s = false) :
    exec (.tierProgramDone index failed) s = .next (stallTier (.program q.page) 4 s) := by
  have bad : once (failed.filter fun c => (tlpnChannels q.tlpn).contains c) = [] := failedOn_none clean
  have unplaced : (placeTlpn false q.tlpn s).isSome = false := full
  refine congrArg Host.Outcome.next ?_
  simp only [execTierProgramDoneState, running, going, ungated, bad, List.isEmpty_nil, Bool.not_true, List.foldl_nil, unplaced,
    outside, Bool.false_eq_true, if_false]

end ending

/-- The program has left those under way. -/
def programEnded (q : TierProgram) (s : State) : State :=
  { s with res.programs := s.res.programs.filter fun x => x.page != q.page }

/-- The tier word of a program's page names its TLPN, dirty where rows came to the page since. -/
def tierNamedBy (q : TierProgram) (i : Nat) (s : State) : State :=
  setExtent (dataExt (dirEntry i s).data)
    { extent (dataExt (dirEntry i s).data) s with
      tiers := put 0 (extent (dataExt (dirEntry i s).data) s).tiers (q.page.page % 64)
        (q.tlpn + 2 ^ 29 + if q.touched then 2 ^ 30 else 0) } s

/-- A program that is no spill and whose page still has a slot stores its bytes and names its TLPN. -/
theorem programOk_stores {i w : Nat} {rewrite : Bool} {t : State} (keeps : q.spill = false)
    (mapped : pageOf q.page.ctx q.page.layer q.page.group q.page.page s = some (i, w)) (slotted : wordState w < 2)
    (written : writeTier rewrite q.part q.tlpn q.bytes (programEnded q s) = some t) :
    programOk rewrite q s = pageProgress q.page none (tierNamedBy q i t) := by
  rw [programEnded] at written
  simp only [programOk, mapped, Nat.not_le.mpr slotted, written, keeps, Bool.not_false, if_false, if_true]
  rfl

end programs

/-- Settles O24: a command, a program, a mount or a stalled operation, by the lemma above that says what it does. -/
theorem tierEngine : Obligations.TierEngine := by
  unfold Obligations.TierEngine
  refine ⟨?_, ?_, ?_, ?_, ?_, ?_, ?_, ?_, ?_, ?_, ?_, ?_, ?_, ?_, ?_⟩
  · intro f c s ready admitted read going ungated mounted readable
    exact congrArg Host.Outcome.next
      ((tierCommand_served ready admitted going ungated mounted fun _ => readable).trans (tierEffect_read read))
  · intro f ok c s ready admitted read going ungated unread serving
    have unserved : (ok && s.fsh.mounted && ((1 : Nat) != 1 || tierReadable c.part (tierNamed c).1 s)) = false := by
      rcases unread with fails | unreadable
      · simp [fails]
      · simp [unreadable]
    refine congrArg Host.Outcome.next ((tierCommand_fails ready admitted going ungated unserved).trans ?_)
    simp only [tierFails, serving, read, if_true]
  · intro f c s ready admitted write going ungated mounted room
    obtain ⟨t, written, mem, marks, owner, seq, only⟩ :=
      writeTier_writes room c.part (sparse (b2Read c.f (c.arg 8 8) pageBytes s) 0)
    exact ⟨t, congrArg Host.Outcome.next ((tierCommand_served ready admitted going ungated mounted (by simp)).trans
      (tierEffect_write write written)), mem, marks, owner, seq, only⟩
  · intro f c s ready admitted trim going ungated mounted
    obtain ⟨fsh, trims, marks, owner⟩ := trimRange_trims (tierNamed c).1 (tierNamed c).2 s
    refine ⟨_, congrArg Host.Outcome.next ((tierCommand_served ready admitted going ungated mounted (by simp)).trans
      (tierEffect_trim trim)), ?_, ?_, ?_, ?_⟩
    all_goals rw [trims]
    · exact marks
    · exact owner
  · intro ts s stage runs unmounted kept free
    obtain ⟨fsh, ctr, mounts, done, usable, written, -⟩ := mounted_mounts ts s
    refine ⟨_, congrArg Host.Outcome.next (?_ : execFlashMountState ts none s = mounted ts s), ?_⟩
    · simp [execFlashMountState, stage, runs, unmounted, kept, free]
    · rw [mounts]
      exact ⟨done, usable, written, rfl⟩
  · intro index i w failed q s running going ungated clean room keeps mapped slotted
    have bad : failedOn failed q = [] := failedOn_none clean
    obtain ⟨u, written, mem, marks, owner, -, only⟩ := writeTier_writes (s := programEnded q s)
      ((tierRoom_res ..).trans room) q.part q.bytes
    have placed := tierProgramDone_places (failed := failed) running going ungated (by rw [blocksRetired, bad]; exact room)
    rw [blocksRetired, bad] at placed
    refine ⟨_, placed.trans (congrArg Host.Outcome.next (programOk_stores keeps mapped slotted written)), ?_⟩
    obtain ⟨_, _, rest⟩ := OpsOnly.pageProgress q.page none (tierNamedBy q i u)
    rw [rest, tierNamedBy, only]
    exact ⟨(congrArg MemState.tier mem :), (congrArg MemState.stk mem :), marks, owner, rfl, rfl⟩
  · intro index failed q s running ungated clean full outside free idle
    obtain ⟨ctr, flt, out, stalls⟩ := stallTier_stalls free (.program q.page) 4
    refine ⟨_, tierProgramDone_stalls running (by rw [idle]; simp) ungated clean full outside, ?_⟩
    rw [stalls]
    exact ⟨rfl, rfl, rfl, rfl⟩
  · intro s op stalled due
    exact tierStallRetry_retries stalled due false
  · intro s ts stalled due
    obtain ⟨fsh, ctr, mounts, done, -, -, ended, cause, op⟩ := mounted_mounts ts (endStall s)
    refine ⟨_, tierStallRetry_retries stalled due true, ?_⟩
    rw [if_pos rfl, endStalled, if_pos rfl, mounts]
    exact ⟨done, ended, cause, op, rfl⟩
  · intro s key x stalled found
    refine ⟨_, (fshCtrlSkip_skips stalled).trans (congrArg Host.Outcome.next (endStalled_tile (s := endStall s) found)), ?_⟩
    obtain ⟨_, _, rest⟩ := OpsOnly.tileProgress key (some stTierError) (freeTile key (endStall s))
    rw [rest]
    exact ⟨rfl, rfl, rfl, rfl⟩
  · intro ts x s stage runs unmounted kept free
    obtain ⟨ctr, flt, out, stalls⟩ := stallTier_stalls free (.mount ts) (causeNum x)
    refine ⟨_, congrArg Host.Outcome.next (?_ : execFlashMountState ts (some x) s = stallTier (.mount ts) (causeNum x) s), ?_⟩
    · simp [execFlashMountState, stage, runs, unmounted, kept, free]
    · rw [stalls]
      exact ⟨rfl, rfl, rfl⟩
  · rintro index failed q _ s running going ungated fails rfl room
    have bad := failedOn_some fails
    have placed := tierProgramDone_places (failed := failed) running going ungated (by rw [bad]; exact room)
    rw [bad] at placed
    exact placed
  · intro f c s ready admitted write going ungated mounted full
    exact congrArg Host.Outcome.next ((tierCommand_served ready admitted going ungated mounted (by simp)).trans
      (tierEffect_full write (writeTier_full full ..)))
  · intro s ts stalled
    exact fshCtrlSkip_skips stalled
  · intro s op stalled due
    exact tierStallRetry_retries stalled due true

end Sys2Proof.Proofs

/-! ## Staging and tiles (07_residency_and_tiers.md R182, R185, R186, R205) -/

namespace Sys2Proof.Proofs

open Sys2Proof Sys2Proof.Machine Sys2Proof.Safety

/-! ### A command that names pages (R182, R184) -/

section named

variable {f op : Nat} {inHold : Bool} {c : Cmd} {s : State}

/-- A command that names pages and is ready runs on them where its own reasons pass. -/
theorem runNamed_runs {fs reasons run} (ready : pagesReady f op fs c s) (admitted : lowestReason (reasons c s) = none) :
    runNamed f op inHold fs reasons run s = run c (namedPages c) s := by
  obtain ⟨⟨⟨front, fields, party⟩, idle, running⟩, names, atLeastOne, most, inRange, whole, still⟩ := ready
  have counts : (decide ((namedPages c).count = 0) || decide (64 < (namedPages c).count) ||
      decide (131072 < (namedPages c).first + (namedPages c).count)) = false := by
    simp only [Bool.or_eq_false_iff, decide_eq_false_iff_not]
    omega
  have passes : lowestReason (pageReasons c s ++ reasons c s) = none := by
    simpa only [lowestReason, pageReasons, names, counts, List.cons_append, List.nil_append, List.filter_cons_of_neg,
      Bool.false_eq_true, not_false_eq_true] using admitted
  simp only [runNamed, runRes, runFront, front, fields, party, idle, running, passes, still, whole, Bool.false_and,
    Bool.false_eq_true, if_false]

/-- The pages that a command names. -/
abbrev namesOf (c : Cmd) : List PageName := (namedPages c).pages.map (namedPages c).at_

theorem length_namesOf (c : Cmd) : (namesOf c).length = (namedPages c).count := by
  simp [namesOf, Named.pages]

end named

/-! ### STAGE (R185) -/

section stage

variable {f : Nat} {c : Cmd} {s : State}

/-- Tiles serve the page in its home. -/
abbrev tiled (s : State) (x : PageName) : Bool := wordState (wordOf x s) == 1 || wordState (wordOf x s) == 2

/-- The tiles of a STAGE's stack that its partition has left. -/
abbrev tilesLeft (c : Cmd) (s : State) : Nat :=
  (tileRange c.part (c.arg 0x10 4) s).2 - (tilesTaken c.part (c.arg 0x10 4) s).length

/-- The tiles that a STAGE reserves for pages, and the state with them. -/
abbrev tilesReserved (c : Cmd) (l : List PageName) (s : State) : List Nat × State :=
  reserveTiles c.part (c.arg 0x10 4) (c.arg 0x18 8) (c.arg 0x20 8) l s

/-- Pages that a STAGE names and that tiles serve: those with a tile on its stack, and those without one. -/
abbrev stagedAlready (c : Cmd) (s : State) : List PageName :=
  (namesOf c).filter fun x => tiled s x && (tileOn x (c.arg 0x10 4) s).isSome
abbrev toStage (c : Cmd) (s : State) : List PageName :=
  (namesOf c).filter fun x => tiled s x && (tileOn x (c.arg 0x10 4) s).isNone

theorem reserveTiles_length (p st first last : Nat) (l : List PageName) (s : State) :
    (reserveTiles p st first last l s).1.length = l.length := by
  induction l generalizing s with
  | nil => rfl
  | cons n l ih => exact congrArg (· + 1) (ih _)

/-- Reserving tiles changes the tiles alone, and may use up free values. -/
theorem reserveTiles_frame (p st first last : Nat) (l : List PageName) (s : State) :
    ∃ tiles free, (reserveTiles p st first last l s).2 = { s with res.tiles := tiles, free := free } := by
  induction l generalizing s with
  | nil => exact ⟨_, _, rfl⟩
  | cons n l ih =>
    obtain ⟨_, _, taken⟩ : ∃ tiles free, (reserveTiles p st first last (n :: l) s).2 =
        (reserveTiles p st first last l { s with res.tiles := tiles, free := free }).2 := by
      simp only [reserveTiles]
      rw [pick_frame]
      exact ⟨_, _, rfl⟩
    obtain ⟨_, _, rest⟩ := ih _
    exact ⟨_, _, taken.trans rest⟩

section ready

variable (ready : pagesReady f 5 [(0x10, 32), (0x18, 64), (0x20, 64)] c s) (stack : c.arg 0x10 4 < 6)
include ready stack

theorem stage_short (short : tilesLeft c s < (toStage c s).length) : exec (.stage f) s = .next (endCmd c 1 0 0 s) :=
  congrArg Host.Outcome.next ((runNamed_runs ready (by simp [lowestReason, lowest, stack])).trans (if_pos short))

/-- With room for them, a STAGE whose pages have no tile on its stack yet reserves one for each that tiles serve. -/
theorem stage_reserves (room : (toStage c s).length ≤ tilesLeft c s) (untiled : stagedAlready c s = [])
    (homed : ∀ x ∈ namesOf c, wordState (wordOf x s) < 3) :
    exec (.stage f) s = .next
      (startOp c (tilesReserved c (toStage c s) s).1 []
        ((namesOf c).filter fun x => wordState (wordOf x s) == 0).length []
        (tilesReserved c (toStage c s) s).2) := by
  have present : ((namesOf c).filter fun x => decide (3 ≤ wordState (wordOf x s))) = [] :=
    List.filter_eq_nil_iff.mpr fun x mem => by simpa using homed x mem
  refine congrArg Host.Outcome.next ((runNamed_runs ready (by simp [lowestReason, lowest, stack])).trans ?_)
  dsimp only [stagedAlready, namesOf, tiled] at untiled present
  simp only [untiled, present, Nat.not_lt.mpr room, List.contains_nil, Bool.false_and, Bool.false_eq_true, List.map_id',
    List.length_nil, List.map_nil, Nat.add_zero, if_false]

/-- Pages at home in graver stacks need no tile. -/
theorem stage_home (home : ∀ x ∈ namesOf c, wordState (wordOf x s) = 0) :
    exec (.stage f) s = .next (endCmd c 0 0 (namedPages c).count s) := by
  have noneNeeded : toStage c s = [] := List.filter_eq_nil_iff.mpr fun x mem => by simp [tiled, home x mem]
  have untiled : stagedAlready c s = [] := List.filter_eq_nil_iff.mpr fun x mem => by simp [tiled, home x mem]
  have all : ((namesOf c).filter fun x => wordState (wordOf x s) == 0) = namesOf c :=
    List.filter_eq_self.mpr fun x mem => by simp [home x mem]
  rw [stage_reserves ready stack (by simp [noneNeeded]) untiled fun x mem => by simp [home x mem], noneNeeded, all,
    length_namesOf]
  rfl

/-- Pages that all need a tile get one each; the command then runs on. -/
theorem stage_starts (away : ∀ x ∈ namesOf c, tiled s x = true ∧ tileOn x (c.arg 0x10 4) s = none)
    (room : (namedPages c).count + (tilesTaken c.part (c.arg 0x10 4) s).length ≤ (tileRange c.part (c.arg 0x10 4) s).2) :
    ∃ t keys, exec (.stage f) s = .next t ∧
      tilesReserved c (namesOf c) s = (keys, { t with res.ops := s.res.ops }) ∧
      t.res.ops = s.res.ops ++ [⟨c.f, c.part, keys, [], 0, []⟩] ∧ keys.length = (namedPages c).count := by
  have allNeeded : toStage c s = namesOf c := List.filter_eq_self.mpr fun x mem => by simp [away x mem]
  have untiled : stagedAlready c s = [] := List.filter_eq_nil_iff.mpr fun x mem => by simp [away x mem]
  have states : ∀ x ∈ namesOf c, wordState (wordOf x s) = 1 ∨ wordState (wordOf x s) = 2 := fun x mem => by
    simpa [tiled] using (away x mem).1
  have noneHome : ((namesOf c).filter fun x => wordState (wordOf x s) == 0) = [] :=
    List.filter_eq_nil_iff.mpr fun x mem => by rcases states x mem with h | h <;> simp [h]
  have starts := stage_reserves ready stack (by rw [allNeeded, length_namesOf]; exact Nat.le_sub_of_add_le room) untiled
    fun x mem => by have := states x mem; omega
  have count : (tilesReserved c (namesOf c) s).1.length = (namedPages c).count :=
    (reserveTiles_length ..).trans (length_namesOf c)
  have atLeastOne : 0 < (namedPages c).count := ready.2.2.1
  have some : (tilesReserved c (namesOf c) s).1.isEmpty = false :=
    List.isEmpty_eq_false_iff.mpr (List.length_pos_iff.mp (count.symm ▸ atLeastOne))
  obtain ⟨tiles, free, only⟩ := reserveTiles_frame c.part (c.arg 0x10 4) (c.arg 0x18 8) (c.arg 0x20 8) (namesOf c) s
  rw [allNeeded, noneHome, startOp, some, Bool.false_and, if_neg Bool.false_ne_true, only] at starts
  exact ⟨_, _, starts, Prod.ext rfl only, rfl, count⟩

end ready

end stage

/-! ### A staging read that is complete (R185) -/

section stands

variable {key : Nat} {t : Tile} {s : State}

theorem noteCorrected_frame (n : Nat) (cs : List (Nat × Nat)) (s : State) : ∃ blocks ctr,
    noteCorrected n cs s = { s with fsh.blocks := blocks, ctr := ctr } := by
  unfold noteCorrected tallyBy
  generalize upd 0 s.ctr cCwCorrected.key _ = ctr
  suffices marked : ∀ blocks, ∃ blocks', cs.foldl _ { s with fsh.blocks := blocks, ctr := ctr } =
      { s with fsh.blocks := blocks', ctr := ctr } from let ⟨_, same⟩ := marked s.fsh.blocks; ⟨_, _, same⟩
  induction cs with
  | nil => exact fun _ => ⟨_, rfl⟩
  | cons x cs ih =>
    intro blocks
    rw [List.foldl_cons]
    dsimp only
    split
    · exact ih blocks
    · exact ih _

theorem noteHomeRead_frame (word tier : Nat) (s : State) :
    noteHomeRead word tier s = { s with fsh.blocks := (noteHomeRead word tier s).fsh.blocks } := by
  unfold noteHomeRead
  split
  · exact noteRead_frame ..
  · rfl

/-- A tile that stands holds the bytes of its page's home; earlier tiles of the page are freed. -/
theorem tileStood_stands (key : Nat) (t : Tile) (s : State) : ∃ ops host blocks, tileStood key t s = { s with
    mem.stk := writePage s.mem.stk (tilePlace key) (homeSlice (wordOf t.page s) (tierOf t.page s) s)
    res.tiles := replaceWhere (fun x => x.1 == key) (fun _ => (key, { t with stands := true, stoodAt := strokeCount s }))
      (s.res.tiles.filter fun x => x.1 == key || x.2.page != t.page)
    res.ops := ops, host := host, fsh.blocks := blocks } := by
  unfold tileStood
  rw [noteHomeRead_frame]
  obtain ⟨_, _, rest⟩ := OpsOnly.tileProgress key none _
  exact ⟨_, _, _, rest⟩

variable {st tile : Nat} {corrected : List (Nat × Nat)} (pending : tilePending (st * tilesPerStack + tile) s = some t)
include pending

/-- The read of a page in a vault is complete. -/
theorem tileStands_vault (vault : wordState (wordOf t.page s) = 1) :
    exec (.tileStands st tile corrected) s = .next (tileStood (st * tilesPerStack + tile) t s) := by
  refine congrArg Host.Outcome.next ?_
  simp [execTileStandsState, pending, vault, tileServes]

/-- The read of a page in flash is complete. -/
theorem tileStands_flash (flash : wordState (wordOf t.page s) = 2) (reads : readFails [] t.page s = false) :
    exec (.tileStands st tile corrected) s = .next
      (tileStood (st * tilesPerStack + tile) t (noteCorrected (field (tierOf t.page s) 0 29) corrected s)) := by
  refine congrArg Host.Outcome.next ?_
  simp [execTileStandsState, pending, flash, reads]

theorem stageReadFailed_fails (flash : wordState (wordOf t.page s) = 2) :
    exec (.stageReadFailed st tile) s = .next (stageReadFails (st * tilesPerStack + tile) t s) := by
  refine congrArg Host.Outcome.next ?_
  simp [execStageReadFailedState, pending, flash]

end stands

/-! ### A staging read that fails in service (R190, R206) -/

/-- No tile is added, no byte of a stack changes and the counter stands as it stood. -/
structure TilesFewer (d : Ctr) (s t : State) : Prop where
  tiles : t.res.tiles ⊆ s.res.tiles
  stk : t.mem.stk = s.mem.stk
  count : ctrGet d t = ctrGet d s
  cool : t.cool = s.cool

namespace TilesFewer

variable {d : Ctr} {s t u : State}

theorem refl (s : State) : TilesFewer d s s := ⟨List.Subset.refl _, rfl, rfl, rfl⟩

theorem trans (first : TilesFewer d s t) (second : TilesFewer d t u) : TilesFewer d s u :=
  ⟨List.Subset.trans second.tiles first.tiles, second.stk.trans first.stk, second.count.trans first.count,
    second.cool.trans first.cool⟩

theorem foldl {α : Type} {f : State → α → State} (each : ∀ s a, TilesFewer d s (f s a)) (l : List α) (s : State) :
    TilesFewer d s (l.foldl f s) := by
  induction l generalizing s with
  | nil => exact refl s
  | cons a l ih => exact (each s a).trans (ih (f s a))

theorem ite {c : Prop} [Decidable c] (yes : TilesFewer d s t) (no : TilesFewer d s u) : TilesFewer d s (if c then t else u) := by
  split
  · exact yes
  · exact no

theorem countEvent {c : Ctr} (wide : 0 < c.width) (other : d.key ≠ c.key) (unit : Nat) (s : State) :
    TilesFewer d s (Machine.countEvent c unit s) :=
  ⟨by rw [countEvent_res]; exact List.Subset.refl _, by rw [countEvent_mem], ctrGet_countEvent_other c d unit s wide other,
    countEvent_cool ..⟩

theorem opsOnly (h : OpsOnly s t) : TilesFewer d s t := by
  obtain ⟨_, _, rfl⟩ := h
  exact ⟨List.Subset.refl _, rfl, rfl, rfl⟩

theorem freeTile (key : Nat) (s : State) : TilesFewer d s (Machine.freeTile key s) :=
  ⟨List.filter_subset_self _, rfl, rfl, rfl⟩

theorem freeGone (s : State) : TilesFewer d s (Machine.freeGone s) :=
  foldl (fun s (t : Nat × Tile) => (freeTile t.1 s).trans (opsOnly (.tileProgress ..))) _ s

theorem dropPages (bad : WorkPage → Bool) (status : Nat) (r : Req) (g : Nat) (s : State) :
    TilesFewer d s (Machine.dropPages bad status r g s) := by
  unfold Machine.dropPages
  extract_lets gv mine gone trim descs cov lost left left' covered
  have trimmed : TilesFewer d s left' := ⟨List.Subset.refl _, rfl, rfl, rfl⟩
  have noted : TilesFewer d left' covered := by
    unfold covered
    split
    · exact ⟨List.Subset.refl _, rfl, rfl, rfl⟩
    · exact refl _
  clear_value covered
  refine ite (refl s) ((trimmed.trans noted).trans ?_)
  split
  · exact ⟨List.Subset.refl _, rfl, rfl, rfl⟩
  · exact refl _

theorem dropPlanned (key : Nat) (n : PageName) (s : State) : TilesFewer d s (Machine.dropPlanned key n s) := by
  unfold Machine.dropPlanned
  extract_lets looks sch noted
  have marked : TilesFewer d s noted := ⟨List.Subset.refl _, rfl, rfl, rfl⟩
  exact marked.trans (foldl (fun s r => foldl (fun s g => dropPages _ _ r g s) _ s) _ _)

theorem setTailBit (i : Nat) (tail : Bool) (s : State) : TilesFewer d s (Machine.setTailBit i tail s) :=
  ite (refl s) ⟨List.Subset.refl _, rfl, rfl, rfl⟩

section directory

variable (apart : d.key ≠ cKeyRepaired.key)
include apart

theorem repairEntry (i : Nat) (s : State) : TilesFewer d s (Machine.repairEntry i s) := by
  refine .trans ?_ (countEvent (by decide) apart unitNode _)
  exact ⟨List.Subset.refl _, rfl, rfl, rfl⟩

theorem repairAll (is : List Nat) (s : State) : TilesFewer d s (Machine.repairAll is s) :=
  foldl (fun s i => ite (refl s) (repairEntry apart i s)) is s

theorem placeTail (ctx layer group : Nat) (s : State) : TilesFewer d s (Machine.placeTail ctx layer group s) :=
  (repairAll apart _ s).trans (foldl (fun s i => setTailBit i _ s) _ _)

theorem nodeSwap {i countM1 : Nat} {seen : BitVec 48} {words tiers : Store Nat} {tail : Bool}
    (made : Machine.nodeSwap i seen words tiers countM1 tail s = .made t) : TilesFewer d s t := by
  refine (repairAll apart [i] s).trans ?_
  unfold Machine.nodeSwap at made
  dsimp only at made
  split at made
  · cases made
  · next found =>
    obtain ⟨_, _, hx⟩ := Option.bind_eq_some_iff.mp found
    obtain ⟨_, alloc, hx⟩ := Option.map_eq_some_iff.mp hx
    cases hx
    obtain ⟨-, -, rfl⟩ := allocExtent_some alloc
    split at made
    · cases made
    · cases made
      rw [extToGrace_frame, pick_frame]
      exact ⟨List.Subset.refl _, rfl, rfl, rfl⟩

theorem tryStateSwap {w : StateSwap} (tried : Machine.tryStateSwap w s = some t) : TilesFewer d s t := by
  unfold Machine.tryStateSwap at tried
  split at tried
  · cases tried
    exact refl s
  · dsimp only at tried
    split at tried
    · cases tried
      exact refl s
    · split at tried
      · cases tried
      · next paid =>
        split at tried
        · next made =>
          cases tried
          refine .trans ?_ ((nodeSwap apart made).trans (placeTail apart ..))
          rw [takeNode_frame paid]
          exact ⟨List.Subset.refl _, rfl, rfl, rfl⟩
        all_goals cases tried

theorem stateSwap (i : Nat) (changes : List (Nat × Nat)) (s : State) : TilesFewer d s (Machine.stateSwap i changes s) := by
  unfold Machine.stateSwap
  dsimp only
  split
  · exact refl s
  · split
    · exact refl s
    · split
      · next tried => exact tryStateSwap apart tried
      · exact ⟨List.Subset.refl _, rfl, rfl, rfl⟩

end directory

end TilesFewer

/-- A page whose flash read failed in service is counted once in TIER_LOST. -/
theorem pageLost_counts (n : PageName) {s : State} (ungated : s.cool.flashGated = false) :
    (pageLost n s).res.tiles ⊆ s.res.tiles ∧ (pageLost n s).mem.stk = s.mem.stk ∧
      ctrGet cTierLost (pageLost n s) = min 0xFFFF (ctrGet cTierLost s + 1) := by
  have counted : ctrGet cTierLost (countEvent cTierLost unitNode (tally cCwFailed s)) = min 0xFFFF (ctrGet cTierLost s + 1) := by
    rw [ctrGet_countEvent _ _ _ (by decide), tally, ctrGet_tallyBy_other _ _ _ _ (by decide) (by decide) (by decide)]
    rfl
  have dropped : TilesFewer cTierLost (countEvent cTierLost unitNode (tally cCwFailed s)) (pageLost n s) := by
    unfold pageLost
    simp only [ungated, Bool.false_eq_true, if_false]
    split
    · exact (TilesFewer.stateSwap (by decide) ..).trans (.freeGone _)
    · exact .refl _
  exact ⟨by simpa [tally] using dropped.tiles, by simpa [tally] using dropped.stk, dropped.count.trans counted⟩

/-- A staging read that fails in service frees its tile and loses its page. -/
theorem stageFails_frees {key : Nat} {t : Tile} {s : State} (ungated : s.cool.flashGated = false) :
    (∀ x ∈ (stageFails key t s).res.tiles, x ∈ s.res.tiles ∧ x.1 ≠ key) ∧
      ctrGet cTierLost (stageFails key t s) = min 0xFFFF (ctrGet cTierLost s + 1) ∧
      (stageFails key t s).mem.stk = s.mem.stk := by
  have planned : TilesFewer cTierLost s (dropPlanned key t.page s) := .dropPlanned ..
  have ended : TilesFewer cTierLost (freeTile key (dropPlanned key t.page s))
      (tileProgress key (some stTierError) (freeTile key (dropPlanned key t.page s))) := .opsOnly (.tileProgress ..)
  have freed := (planned.trans (.freeTile key _)).trans ended
  obtain ⟨fewer, bytes, count⟩ := pageLost_counts t.page (freed.cool.symm ▸ ungated)
  refine ⟨fun x mem => ?_, by rw [← freed.count]; exact count, bytes.trans freed.stk⟩
  obtain ⟨mem, apart⟩ := List.mem_filter.mp (ended.tiles (fewer mem))
  exact ⟨planned.tiles mem, by simpa using apart⟩

/-- A tile past its last pass, or whose page has left STATE 1 and 2, is freed; what waits for it goes on. -/
theorem tileFree_frees {st tile : Nat} {x : Nat × Tile} {s : State}
    (found : s.res.tiles.find? (fun t => t.1 == st * tilesPerStack + tile) = some x)
    (past : x.2.lastPass < passNow s ∨ tileServes x.2 s = false) :
    ∃ u, exec (.tileFree st tile) s = .next u ∧ OpsOnly (freeTile (st * tilesPerStack + tile) s) u := by
  have ended : (decide (x.2.lastPass < passNow s) || !tileServes x.2 s) = true := by simpa using past
  refine ⟨_, rfl, ?_⟩
  simp only [execTileFreeState, found, ended, if_true]
  exact .tileProgress ..

/-- Settles O22: STAGE reserves by `stage_reserves`, and a staging read ends as the lemmas above say for its outcome. -/
theorem stagingAndTiles : Obligations.StagingAndTiles := by
  unfold Obligations.StagingAndTiles
  refine ⟨?_, ?_, ?_, ?_, ?_, ?_, ?_⟩
  · intro f c s ready stack home
    exact stage_home ready stack (by simpa only [List.all_eq_true, beq_iff_eq] using home)
  · intro f c s ready stack short
    exact stage_short ready stack short
  · intro f c s ready stack away room
    exact stage_starts ready stack (by simpa only [List.all_eq_true, Bool.and_eq_true, Option.isNone_iff_eq_none] using away) room
  · intro st tile corrected t s pending home
    rcases home with vault | ⟨flash, reads⟩
    · obtain ⟨_, _, _, stood⟩ := tileStood_stands (st * tilesPerStack + tile) t s
      refine ⟨_, tileStands_vault pending vault, ?_⟩
      rw [stood]
      exact ⟨rfl, rfl, rfl, rfl, rfl, rfl⟩
    · obtain ⟨_, _, noted⟩ := noteCorrected_frame (field (tierOf t.page s) 0 29) corrected s
      refine ⟨_, tileStands_flash pending flash reads, ?_⟩
      obtain ⟨_, _, _, stood⟩ := tileStood_stands (st * tilesPerStack + tile) t
        (noteCorrected (field (tierOf t.page s) 0 29) corrected s)
      rw [stood, noted]
      exact ⟨rfl, rfl, rfl, rfl, rfl, rfl⟩
  · intro st tile t s pending flash outside ungated free
    obtain ⟨_, _, _, stalls⟩ := stallTier_stalls free (.tile (st * tilesPerStack + tile)) 1
    refine ⟨_, stageReadFailed_fails pending flash, ?_⟩
    rw [stageReadFails, outside, ungated, Bool.or_self, if_neg Bool.false_ne_true, stalls]
    exact ⟨rfl, rfl, rfl, rfl⟩
  · intro st tile t s pending flash serving ungated
    refine ⟨_, stageReadFailed_fails pending flash, ?_⟩
    rw [stageReadFails, serving, Bool.true_or, if_pos rfl]
    exact stageFails_frees ungated
  · intro st tile x s found past
    obtain ⟨_, frees, _, _, rfl⟩ := tileFree_frees found past
    exact ⟨_, frees, rfl, rfl, rfl, rfl⟩

end Sys2Proof.Proofs

/-! ## Changes on which a flash read has stalled (07_residency_and_tiers.md R205, R206)

A change under way waits while the flash read of one of its pages has stalled the tier, whatever the change does with the page. So
a drop that needs no read waits as well. -/

namespace Sys2Proof.Proofs

open Sys2Proof Sys2Proof.Machine Sys2Proof.Safety

/-! ### Waiting changes -/

section waiting

variable {failed : List Nat} {mine : RunChange → Bool} {c : RunChange} {s : State}

theorem tryChange_stalled (unread : c.seen = none) (stalled : stalledOn c s = true) : tryChange failed c s = .waits c s := by
  simp only [tryChange, unread, stalled, if_true]

/-- Where a flash read has stalled on each of the changes tried, they stay under way and nothing else changes. -/
theorem driveChanges_stalled (failed : List Nat)
    (stalled : ∀ c ∈ s.res.changes, mine c = true → c.seen = none ∧ stalledOn c s = true) :
    ∃ changes, driveChanges mine failed s = { s with res.changes := changes } := by
  have each : ∀ c ∈ s.res.changes.filter mine, c.seen = none ∧ stalledOn c s = true := fun c mem =>
    stalled c (List.mem_filter.mp mem).1 (List.mem_filter.mp mem).2
  unfold driveChanges
  generalize s.res.changes.filter mine = l at each
  suffices tried : ∀ changes, ∃ changes', l.foldl _ { s with res.changes := changes } = { s with res.changes := changes' }
    from tried s.res.changes
  induction l with
  | nil => exact fun changes => ⟨changes, rfl⟩
  | cons c l ih =>
    intro changes
    obtain ⟨unread, stalled⟩ := each c List.mem_cons_self
    have waits : ∀ changes, tryChange failed c { s with res.changes := changes } = .waits c { s with res.changes := changes } :=
      fun _ => tryChange_stalled unread stalled
    simp only [List.foldl_cons, waits]
    exact ih (fun c mem => each c (List.mem_cons_of_mem _ mem)) _

end waiting

/-! ### The change that drops a page -/

section drops

variable {f p : Nat} {n : PageName} {s : State}

/-- The change of EVICT (function `fn`) or of the scraper (home `home`) that leaves a page nowhere. -/
def dropChange (p : Nat) (n : PageName) (fn home : Option Nat) (s : State) : RunChange :=
  reliefChange p n fn home (toNowhere n false {} s)

theorem dropChange_pages (p : Nat) (n : PageName) (fn home : Option Nat) (s : State) : (dropChange p n fn home s).pages = [n] :=
  congrArg (fun page => [(⟨n.ctx, n.layer, n.group, page⟩ : PageName)]) (Nat.div_add_mod' n.page 64)

theorem stalledOn_dropChange {t : State} (stalled : t.fsh.stallOp = some (.rehomePage n)) (p : Nat) (fn home : Option Nat) :
    stalledOn (dropChange p n fn home s) t = true := by
  simp [stalledOn, stalled, dropChange_pages]

/-- The scraper past its mark takes up the unit it chooses (R188). -/
theorem scraperEvict_scrapes {home : Nat} {q : ScrapeUnit} (running : s.pwr.hold = false) (inForce : sealed s = true)
    (idle : (s.res.changes.any fun x => x.part == p && x.home == some home) = false) (past : mustScrape p home s = true)
    (chosen : chooseUnit home (scrapeUnits p home (markScrape p home true s)) = some q) :
    exec (.scraperEvict p home) s = .next (scrapeUnit p home q (markScrape p home true s)) := by
  refine congrArg Host.Outcome.next ?_
  simp only [execScraperEvictState, running, inForce, idle, past, scrapeNext, chosen, Bool.not_true, Bool.or_false,
    Bool.false_eq_true, if_false, if_true]

/-- A vault page of a tenant without SPILL is dropped (R190, R191). -/
theorem scrapeUnit_drops {q : ScrapeUnit} (one : q.pages = [n])
    (unspilled : (tenantRec (ctxGeo n.ctx s).tenant s).spill = false) :
    scrapeUnit p 6 q s = startChange (dropChange p n none (some 6) s) s := by
  simp only [scrapeUnit, one, List.foldl_cons, List.foldl_nil, scrapePage, unspilled, Bool.false_and,
    Bool.false_eq_true, if_false, Nat.lt_irrefl, decide_false]
  rfl

/-- While a flash read has stalled on the page, the scraper's drop waits. -/
theorem scrapeUnit_stalled {q : ScrapeUnit} (one : q.pages = [n])
    (unspilled : (tenantRec (ctxGeo n.ctx s).tenant s).spill = false) (stalled : s.fsh.stallOp = some (.rehomePage n)) :
    ∃ changes, scrapeUnit p 6 q s = { s with res.changes := changes } := by
  obtain ⟨changes, waits⟩ := driveChanges_stalled (mine := (· == dropChange p n none (some 6) s)) []
    (s := { s with res.changes := s.res.changes ++ [dropChange p n none (some 6) s] }) fun c _ same => by
      rw [beq_iff_eq.mp same]
      exact ⟨rfl, stalledOn_dropChange stalled ..⟩
  exact ⟨changes, (scrapeUnit_drops one unspilled).trans waits⟩

variable {c : Cmd}

/-- The one page that a command names. -/
abbrev onePage (c : Cmd) : PageName := (namedPages c).at_ (namedPages c).first

theorem chunksOf_one {m : Named} (one : m.count = 1) : chunksOf m = [m] := by
  obtain ⟨ctx, layer, group, first, count⟩ := m
  subst one
  simp [chunksOf, Named.pages, once]

theorem evictPage_drops (fn : Nat) (r : Relief) (held : wordState (wordOf n s) < 3) :
    evictPage p 2 fn (r, s) n = (toNowhere n false r s, s) := by
  have present : ¬(wordState (wordOf n s) = 5 ∨ 5 < wordState (wordOf n s)) := by omega
  have away : wordState (wordOf n s) ≠ 3 := by omega
  simp only [evictPage, Bool.or_eq_true, decide_eq_true_eq, present, away, if_true, if_false]

/-- An EVICT of one page to nowhere takes up the page's drop (R190). -/
theorem evict_drops (ready : pagesReady f 7 [(0x10, 32)] c s) (idle : drivesOwn f s = false) (target : c.arg 0x10 4 = 2)
    (one : (namedPages c).count = 1) (unstaged : pageStaged (onePage c) s = false) (notTail : pageIsTail (onePage c) s = false)
    (held : wordState (wordOf (onePage c) s) < 3) :
    exec (.evict f) s = .next (driveOwn f [] { s with
      res.ops := s.res.ops ++ [⟨c.f, c.part, [], [onePage c], 0, []⟩]
      res.changes := s.res.changes ++ [dropChange c.part (onePage c) (some f) none s] }) := by
  have named : (namedPages c).pages.map (namedPages c).at_ = [onePage c] := by simp [Named.pages, one]
  have unit : evictUnit c.part 2 f ([], {}, s) (namedPages c) =
      ([dropChange c.part (onePage c) (some f) none s], { waits := [onePage c] }, s) := by
    simp only [evictUnit, named, List.foldl_cons, List.foldl_nil, evictPage_drops f {} held]
    exact congrArg (fun pages => ([dropChange c.part (onePage c) (some f) none s], ({ waits := pages } : Relief), s))
      (dropChange_pages ..)
  refine congrArg Host.Outcome.next ?_
  rw [execEvictState, idle, if_neg Bool.false_ne_true]
  refine (runNamed_runs ready ?_).trans ?_
  · simp [lowestReason, lowest, target, named, unstaged, notTail]
  · rw [chunksOf_one one, target, List.foldl_cons, List.foldl_nil, unit]
    rfl

/-- While a flash read has stalled on the page, the drop waits. -/
theorem evict_stalled (ready : pagesReady f 7 [(0x10, 32)] c s) (idle : drivesOwn f s = false) (target : c.arg 0x10 4 = 2)
    (one : (namedPages c).count = 1) (unstaged : pageStaged (onePage c) s = false) (notTail : pageIsTail (onePage c) s = false)
    (held : wordState (wordOf (onePage c) s) < 3) (stalled : s.fsh.stallOp = some (.rehomePage (onePage c))) :
    ∃ ops changes, exec (.evict f) s = .next { s with res.ops := ops, res.changes := changes } := by
  obtain ⟨changes, waits⟩ := driveChanges_stalled (mine := fun c => c.fn == some f) [] (s := { s with
      res.ops := s.res.ops ++ [⟨c.f, c.part, [], [onePage c], 0, []⟩]
      res.changes := s.res.changes ++ [dropChange c.part (onePage c) (some f) none s] }) fun d mem own => by
    rcases List.mem_append.mp mem with before | new
    · exact absurd own (List.any_eq_false.mp idle d before)
    · rw [List.mem_singleton.mp new]
      exact ⟨rfl, stalledOn_dropChange stalled ..⟩
  exact ⟨_, changes, (evict_drops ready idle target one unstaged notTail held).trans (congrArg Host.Outcome.next waits)⟩

end drops

/-! ### A vault page to drop whose flash read has stalled -/

def vaultPage : PageName := ⟨5, 0, 0, 0⟩

/-- An EVICT of the page to nowhere. -/
def dropBytes : List Byte :=
  padTo 64 ([7, 0] ++ leBytes 2 1 ++ leBytes 4 0 ++ leBytes 4 5 ++ leBytes 4 0 ++ leBytes 4 0 ++ leBytes 4 1 ++ leBytes 8 2)

def dropCmd : Cmd := ⟨0, 1, 1, 0, 0, 1, 7, dropBytes⟩

/-- A partition whose vault stands below its mark, with one tenant that does not spill. -/
def vaultPlate : Plate :=
  { parts := [(0, { valid := true, dirCountK := 1, vaultLow := 1, vaultHigh := 2 })], tenants := [(1, { used := true })] }

def vaultEntry : DirEntry := { key := dirKey 1 5 0 0 0, data := dirData 78 0 true, v := true }

/-- The page's home is a vault, an EVICT that drops it waits, and the tier has stalled on a read of the page. -/
def vaultDropStalled : State :=
  { plt := { st := .sealed, active := some { plate := vaultPlate } }
    res.ctxs := [(5, BitVec.ofNat 64 (1 + 2 ^ 63))]
    dir := { entries := [(3, vaultEntry)], shadows := [(3, ⟨vaultEntry.key, vaultEntry.data, true, false⟩)]
             extents := [(78, { st := .live 0, words := [(0, pageWord 1 0x540009)] })], nodeRanges := [16] }
    host.queues := [(1, { enable := true, seq := 1, lists := [⟨1, 0, 1, 0, false, false, none, 0, [], false⟩] })]
    mem.bar2 := memWrite [] 64 dropBytes
    fsh := { stalled := true, cause := 1, stallOp := some (.rehomePage vaultPage) } }

/-- The unit that the scraper finds there. -/
def vaultUnit : ScrapeUnit := ⟨3, 0, 1, 0, 0, [vaultPage]⟩

/-- The node swap that drops the page, as the obligations name it. -/
abbrev dropSwap (r : State) : SwapEnd :=
  nodeSwap 3 (dirEntry 3 vaultDropStalled).data
    (changeWords (extent (dataExt (dirEntry 3 vaultDropStalled).data) vaultDropStalled).words [(0, pageWord 3 0)])
    (changeTiers (extent (dataExt (dirEntry 3 vaultDropStalled).data) vaultDropStalled).tiers [(0, 0)])
    (dataCount (dirEntry 3 vaultDropStalled).data - 1) (dataTail (dirEntry 3 vaultDropStalled).data) r

/-- A swap's end is a swap made. -/
def swapMade : SwapEnd → Bool
  | .made _ => true
  | .noExtent | .changed => false

theorem exists_of_swapMade {e : SwapEnd} (made : swapMade e = true) : ∃ u, e = .made u := by
  cases e with
  | made u => exact ⟨u, rfl⟩
  | noExtent => cases made
  | changed => cases made

theorem dropSwap_made {s : State} (makes : (takeNode 1 s).any (fun r => swapMade (dropSwap r)) = true) :
    ∃ r u, takeNode 1 s = some r ∧ dropSwap r = .made u := by
  obtain ⟨r, taken, made⟩ := (Option.any_eq_true _ _).mp makes
  obtain ⟨u, made⟩ := exists_of_swapMade made
  exact ⟨r, u, taken, made⟩

theorem vaultDropStalled_undropped : ctrGet cDropped vaultDropStalled = 0 := rfl

/-- Refutes O23 by its clause on an EVICT of one page to nowhere. The clause has no premise on the tier's stall: in
`vaultDropStalled` a flash read of the page has stalled (R206), so the drop that the command takes up waits (`evict_stalled`), and
DROPPED does not count it. -/
theorem not_pageMoves : ¬ Obligations.PageMoves := by
  unfold Obligations.PageMoves
  rintro ⟨-, -, -, -, -, -, -, drops, -⟩
  obtain ⟨r, u, taken, made⟩ := dropSwap_made (s := vaultDropStalled) (by decide +kernel)
  have ready : pagesReady 0 7 [(0x10, 32)] dropCmd vaultDropStalled := by and_intros <;> decide +kernel
  have idle : drivesOwn 0 vaultDropStalled = false := rfl
  have target : dropCmd.arg 0x10 4 = 2 := by decide +kernel
  have one : (namedPages dropCmd).count = 1 := by decide +kernel
  have unstaged : pageStaged (onePage dropCmd) vaultDropStalled = false := by decide +kernel
  have notTail : pageIsTail (onePage dropCmd) vaultDropStalled = false := by decide +kernel
  have held : wordState (wordOf (onePage dropCmd) vaultDropStalled) < 3 := by decide +kernel
  obtain ⟨t, evicts, counted, -⟩ := drops 0 3 dropCmd r u vaultDropStalled ready idle target one unstaged notTail
    (by decide +kernel) held (by decide +kernel) taken made
  obtain ⟨ops, changes, waits⟩ := evict_stalled ready idle target one unstaged notTail held (by decide +kernel)
  cases evicts.symm.trans waits
  exact absurd (vaultDropStalled_undropped.symm.trans counted) (by decide)

/-- Refutes O25 by its clause on the scraper's drop, which has no such premise either: in `vaultDropStalled` the drop waits
(`scrapeUnit_stalled`). -/
theorem not_scraperAndBurnisher : ¬ Obligations.ScraperAndBurnisher := by
  unfold Obligations.ScraperAndBurnisher
  rintro ⟨-, drops, -⟩
  obtain ⟨r, u, taken, made⟩ := dropSwap_made (s := markScrape 0 6 true vaultDropStalled) (by decide +kernel)
  have unspilled : (tenantRec (ctxGeo vaultPage.ctx vaultDropStalled).tenant vaultDropStalled).spill = false := by decide +kernel
  have past : mustScrape 0 6 vaultDropStalled = true := by decide +kernel
  have chosen : chooseUnit 6 (scrapeUnits 0 6 (markScrape 0 6 true vaultDropStalled)) = some vaultUnit := by
    decide +kernel
  obtain ⟨t, scrapes, counted, -⟩ := drops 0 3 vaultPage _ r u vaultDropStalled rfl rfl rfl past chosen rfl unspilled
    (by decide +kernel) (by decide +kernel) taken made
  obtain ⟨changes, waits⟩ := scrapeUnit_stalled (p := 0) (s := markScrape 0 6 true vaultDropStalled) (q := vaultUnit)
    rfl unspilled rfl
  cases scrapes.symm.trans ((scraperEvict_scrapes rfl rfl rfl past chosen).trans (congrArg Host.Outcome.next waits))
  exact absurd (vaultDropStalled_undropped.symm.trans counted) (by decide)

end Sys2Proof.Proofs

/-! ## Plates: loading, sealing, the loss of a plate, and deltas (08_plates.md) -/

namespace Sys2Proof.Proofs

open Sys2Proof Sys2Proof.Machine Sys2Proof.Safety

/-! ### What a plate's operations leave standing

Sealing a plate, swapping one and entering hold mode end requests, messages and residency work, and rewrite keys. None of that
reaches the plate registers, the power state, the time base, the stack memories or, but for the loss of the tier's copies, the
directory. -/

/-- The plate registers, the power state, the time base and the stack memories. -/
structure Standing where
  plt : PlateState
  pwr : PowerState
  time : TimeState
  stk : Mem

def standing (s : State) : Standing := ⟨s.plt, s.pwr, s.time, s.mem.stk⟩

/-- The directory beside them. -/
structure Grounds where
  standing : Standing
  dir : DirState

def grounds (s : State) : Grounds := ⟨standing s, s.dir⟩

section folds

variable {σ α β : Type} {g : σ → β}

/-- What each operation of a fold leaves, the fold leaves. -/
theorem foldl_leaves {f : σ → α → σ} (each : ∀ s a, g (f s a) = g s) (l : List α) (s : σ) : g (l.foldl f s) = g s := by
  induction l generalizing s with
  | nil => rfl
  | cons a l ih => exact (ih (f s a)).trans (each s a)

theorem ite_leaves {c : Prop} [Decidable c] {t u : σ} {x : β} (yes : g t = x) (no : g u = x) : g (if c then t else u) = x := by
  split
  · exact yes
  · exact no

end folds

section grounds

theorem grounds_countEvent (c : Ctr) (unit : Nat) (s : State) : grounds (countEvent c unit s) = grounds s := by
  rw [countEvent_frame]
  rfl

theorem grounds_returnCredit (c cls len : Nat) (s : State) : grounds (returnCredit c cls len s) = grounds s := rfl

/-! #### Requests that end -/

theorem grounds_noteClosed (r : Req) (s : State) : grounds (noteClosed r s) = grounds s := ite_leaves rfl rfl

theorem grounds_handOver (r : Req) (i : ImprMsg) (s : State) : grounds (handOver r i s) = grounds s := by
  rw [← grounds_noteClosed r s]
  unfold handOver
  generalize noteClosed r s = t
  dsimp only
  split
  · rw [hostImpr, endCommand_frame, b2Write_frame]
    rfl
  · rw [queueMsg_frame]
    rfl
  · rfl

theorem grounds_sendResult (r : Req) (e : ColEntry) (extra : List Cov) (codes : List Nat) (s : State) :
    grounds (sendResult r e extra codes s) = grounds s :=
  (grounds_handOver ..).trans (ite_leaves (grounds_countEvent ..) rfl)

theorem grounds_answerEntry (r : Req) (e : ColEntry) (codes : List Nat) (s : State) :
    grounds (answerEntry r e codes s) = grounds s :=
  (grounds_sendResult ..).trans (ite_leaves (foldl_leaves (fun s _ => grounds_countEvent cSourceLate unitCollator s) _ s) rfl)

theorem grounds_refuseSource (r : Req) (x : ColEntry × State) (a : Arrival) : grounds (refuseSource r x a).2 = grounds x.2 :=
  grounds_countEvent ..

theorem grounds_joinArrival (r : Req) (e : ColEntry) (a : Arrival) (bad : List Nat) (s : State) :
    grounds (joinArrival r e a bad s).2 = grounds s :=
  ite_leaves (g := fun x : ColEntry × State => grounds x.2) rfl <|
    ite_leaves (g := fun x : ColEntry × State => grounds x.2) (grounds_refuseSource r (e, s) a)
      (foldl_leaves (g := fun x : ColEntry × State => grounds x.2) (grounds_refuseSource r) _ _)

theorem grounds_joinAll (r : Req) (e : ColEntry) (s : State) : grounds (joinAll r e s).2 = grounds s :=
  foldl_leaves (g := fun x : ColEntry × State => grounds x.2) (fun x a => grounds_joinArrival r x.1 a [] x.2) _ _

theorem grounds_endUndispatched (r : Req) (status : Nat) (s : State) : grounds (endUndispatched r status s) = grounds s :=
  (grounds_answerEntry ..).trans (grounds_joinAll ..)

theorem grounds_endDispatched (r : Req) (status : Nat) (s : State) : grounds (endDispatched r status s) = grounds s :=
  (grounds_answerEntry ..).trans <|
    (foldl_leaves (g := fun x : ColEntry × State => grounds x.2) (fun x a => grounds_joinArrival r x.1 a [] x.2) _ _).trans
      (grounds_joinAll ..)

theorem grounds_endRequest (status : Nat) (s : State) (r : Req) : grounds (endRequest status s r) = grounds s := by
  unfold endRequest
  cases r.phase with
  | taken | answered => rfl
  | checked | lookups => exact grounds_endUndispatched ..
  | dispatched => exact grounds_endDispatched ..

/-! #### Residency work that ends -/

theorem grounds_endMoveOut (m : MoveOut) (status : Nat) (s : State) : grounds (endMoveOut m status s) = grounds s := by
  rw [endMoveOut, settle_frame, finishCmd_frame]
  rfl

theorem grounds_endOp (o : ResOp) (status : Nat) (s : State) : grounds (endOp o status s) = grounds s := by
  obtain ⟨_, ends⟩ := endOp_frame o status s
  rw [ends]
  rfl

theorem grounds_keepMoveOut (m : MoveOut) (s : State) : grounds (keepMoveOut m s) = grounds s :=
  ite_leaves (grounds_endMoveOut ..) rfl

theorem grounds_postDrops (s : State) : grounds (postDrops s) = grounds s := by
  unfold postDrops
  refine foldl_leaves (fun s d => ?_) _ _
  rfl

theorem grounds_fenceWork (s : State) : grounds (fenceWork s) = grounds s :=
  (grounds_postDrops _).trans <|
    (foldl_leaves (f := slotAwaits) (fun _ _ => rfl) _ _).trans <|
      (foldl_leaves (fun s o => grounds_endOp o stFenced s) _ _).trans
        (foldl_leaves (fun s m => grounds_endMoveOut m stFenced s) _ s)

/-! #### Messages that end, and connections that close -/

theorem grounds_toRing (r : Option Nat) (m : RingMsg) (s : State) : grounds (toRing r m s) = grounds s := by
  have counted := grounds_countEvent cRingWait (unitConn m.conn) s
  have dropped (c : Option Nat) : grounds (match c with
      | some k => returnCredit m.conn k m.body.length (countEvent cRingWait (unitConn m.conn) s)
      | none => countEvent cRingWait (unitConn m.conn) s) = grounds s := by
    cases c with
    | none => exact counted
    | some k => exact (grounds_returnCredit ..).trans counted
  unfold toRing
  cases r with
  | none => exact dropped m.cls
  | some r => exact ite_leaves rfl (dropped m.cls)

theorem grounds_endWorkReq (slot status : Nat) (s : State) : grounds (endWorkReq slot status s) = grounds s := by
  unfold endWorkReq
  split
  · rfl
  · exact grounds_toRing ..

theorem grounds_endAwaiting (c status : Nat) (s : State) (w : Awaiting) : grounds (endAwaiting c status s w) = grounds s := by
  unfold endAwaiting
  cases w.purpose with
  | hostSend => exact grounds_toRing ..
  | workReq => exact grounds_endWorkReq ..
  | remoteLoad id =>
    dsimp only
    split
    · exact ite_leaves rfl (grounds_countEvent ..)
    · rfl
  | none | moveOut | remoteStore => rfl

/-- A page of a MOVE_OUT that did not arrive is not released. -/
theorem grounds_moveEnded_failed {status : Nat} (failed : status ≠ stOk) (m : MoveOut) (tag : Nat) (s : State) :
    grounds (moveEnded m tag status s) = grounds s := by
  unfold moveEnded
  split
  · rfl
  · rw [if_pos failed]
    exact grounds_keepMoveOut ..

theorem grounds_endMessages {status : Nat} (failed : status ≠ stOk) (c : Nat) (k : Conn) (s : State) :
    grounds (endMessages c status k s) = grounds s := by
  unfold endMessages
  refine (foldl_leaves (fun s m => foldl_leaves (fun s w => ?_) _ s) _ _).trans ?_
  · split
    · exact grounds_moveEnded_failed failed ..
    · rfl
  · exact (foldl_leaves (fun s _ => grounds_endAwaiting c status s _) _ _).trans
      (foldl_leaves (fun s w => grounds_endAwaiting c status s w) _ _)

theorem grounds_toKeyless (c : Nat) (s : State) : grounds (toKeyless c s) = grounds s := by
  have failed : stKeyAbsent ≠ stOk := by decide
  unfold toKeyless
  dsimp only
  cases (conn c s).st with
  | active | closing => exact grounds_endMessages failed ..
  | unused | keyless | failed => rfl

theorem grounds_closeConn (c : Nat) (s : State) : grounds (closeConn c s) = grounds s := ite_leaves rfl rfl

theorem grounds_sealConn (s : State) (c : Nat) : grounds (sealConn s c) = grounds s := by
  have again (used : Bool) : grounds (if used && ((liveKey (connRec c s).keySlot 0 s).isSome ||
      (liveKey (connRec c s).keySlot 1 s).isSome) then s
      else if used && (conn c s).st == .keyless then s else toKeyless c s) = grounds s :=
    ite_leaves rfl (ite_leaves rfl (grounds_toKeyless c s))
  unfold sealConn
  dsimp only
  split
  · rfl
  · rfl
  all_goals exact again _

theorem grounds_swapConn (old : Plate) (s : State) (c : Nat) : grounds (swapConn old s c) = grounds s := by
  unfold swapConn
  dsimp only
  split
  · rfl
  · rfl
  · exact grounds_closeConn ..
  · rfl
  · exact grounds_toKeyless c s
  · exact grounds_toKeyless c s
  · exact ite_leaves (grounds_toKeyless c s) rfl
  · exact ite_leaves (grounds_toKeyless c s) rfl
  · exact ite_leaves (grounds_toKeyless c s) rfl
  · rfl

theorem grounds_startWatch (s : State) (c : Nat) : grounds (startWatch s c) = grounds s := ite_leaves rfl rfl

/-! #### Keys, scrubs, ports and gravers -/

theorem grounds_installPos (slot pos : Nat) (key : BitVec 512) (s : State) : grounds (installPos slot pos key s) = grounds s := by
  unfold installPos writePos
  dsimp only
  split
  · next wrote =>
    split at wrote
    · cases wrote
    · cases wrote
      rfl
  · exact grounds_countEvent ..

theorem grounds_installFlash (new : Plate) (choose : Nat → Nat → Bool) (s : State) :
    grounds (installFlash new choose s) = grounds s :=
  foldl_leaves (fun s _ => grounds_installPos _ _ _ s) _ s

theorem grounds_changeKeys (old new : Plate) (s : State) : grounds (changeKeys old new s) = grounds s := by
  unfold changeKeys
  refine (grounds_installFlash ..).trans (foldl_leaves (fun s k => ?_) _ s)
  rw [erasePos_frame, erasePos_frame]
  rfl

theorem grounds_startScrub (tenant : Bool) (id : Nat) (running : Bool) (s : State) :
    grounds (startScrub tenant id running s) = grounds s := by
  unfold startScrub
  split
  · exact ite_leaves rfl rfl
  · rfl

theorem grounds_swapScrubs (old new : Plate) (s : State) : grounds (swapScrubs old new s) = grounds s :=
  (foldl_leaves (fun s t => grounds_startScrub true t true s) _ _).trans
    (foldl_leaves (fun s p => grounds_startScrub false p true s) _ s)

theorem grounds_retrainPorts (old : Plate) (s : State) : grounds (retrainPorts old s) = grounds s := by
  unfold retrainPorts
  refine foldl_leaves (fun s p => ?_) _ s
  exact ite_leaves rfl rfl

/-- The state beside its gravers. -/
def besideGravers (s : State) : State := { s with gravers := [] }

theorem besideGravers_setGraver (g : Nat) (v : Graver) (s : State) : besideGravers (setGraver g v s) = besideGravers s := rfl

theorem besideGravers_ungateGraver (g : Nat) (s : State) : besideGravers (ungateGraver g s) = besideGravers s :=
  ite_leaves (besideGravers_setGraver ..) rfl

theorem besideGravers_allotGravers (s : State) : besideGravers (allotGravers s) = besideGravers s := by
  unfold allotGravers
  refine foldl_leaves (fun s g => ?_) _ s
  dsimp only
  generalize graver g s = gv
  have moved : besideGravers (if gv.part = (plate s).alloc.getD g 0x80 then s
      else setGraver g { banksOff gv with part := (plate s).alloc.getD g 0x80 } s) = besideGravers s :=
    ite_leaves rfl (besideGravers_setGraver ..)
  exact ite_leaves moved ((besideGravers_ungateGraver ..).trans moved)

theorem grounds_besideGravers (s : State) : grounds (besideGravers s) = grounds s := rfl

theorem eq_of_besideGravers {s t : State} (h : besideGravers t = besideGravers s) : t = { s with gravers := t.gravers } :=
  congrArg (fun u : State => { u with gravers := t.gravers }) h

theorem allotGravers_frame (s : State) : allotGravers s = { s with gravers := (allotGravers s).gravers } :=
  eq_of_besideGravers (besideGravers_allotGravers s)

theorem grounds_allotGravers (s : State) : grounds (allotGravers s) = grounds s := by
  rw [← grounds_besideGravers, besideGravers_allotGravers, grounds_besideGravers]

/-! #### Requests that aim at a new plate's occurrences -/

theorem grounds_setReq (r : Req) (s : State) : grounds (setReq r s) = grounds s := rfl

theorem grounds_reaim (s : State) (r : Req) : grounds (reaim s r) = grounds s := by
  unfold reaim
  dsimp only
  split
  · exact ite_leaves (grounds_setReq ..) (grounds_setReq ..)
  · refine ite_leaves ?_ (grounds_setReq ..)
    rw [grounds_countEvent]
    rfl

theorem grounds_reaimAll (s : State) : grounds (reaimAll s) = grounds s :=
  foldl_leaves grounds_reaim _ s

end grounds

/-! #### The loss of the tier's copies (14_trust_and_isolation.md R363) -/

section tier

variable {s t : State}

theorem standing_entriesOnly (only : EntriesOnly s t) : standing t = standing s := by
  obtain ⟨_, _, _, _, rfl⟩ := only
  rfl

theorem standing_nodeSwap {i countM1 : Nat} {seen : BitVec 48} {words tiers : Store Nat} {tail : Bool}
    (made : nodeSwap i seen words tiers countM1 tail s = .made t) : standing t = standing s := by
  rw [← standing_entriesOnly (.repairAll [i] s)]
  unfold nodeSwap at made
  dsimp only at made
  split at made
  · cases made
  · next found =>
    obtain ⟨_, _, hx⟩ := Option.bind_eq_some_iff.mp found
    obtain ⟨_, alloc, hx⟩ := Option.map_eq_some_iff.mp hx
    cases hx
    obtain ⟨-, -, rfl⟩ := allocExtent_some alloc
    split at made
    · cases made
    · cases made
      rw [extToGrace_frame, pick_frame]
      rfl

theorem standing_tryStateSwap {w : StateSwap} (tried : tryStateSwap w s = some t) : standing t = standing s := by
  unfold tryStateSwap at tried
  split at tried
  · cases tried
    rfl
  · dsimp only at tried
    split at tried
    · cases tried
      rfl
    · split at tried
      · cases tried
      · next paid =>
        split at tried
        · next made =>
          cases tried
          rw [standing_entriesOnly (.placeTail ..), standing_nodeSwap made, takeNode_frame paid]
          rfl
        all_goals cases tried

theorem standing_stateSwap (i : Nat) (changes : List (Nat × Nat)) (s : State) :
    standing (stateSwap i changes s) = standing s := by
  unfold stateSwap
  dsimp only
  split
  · rfl
  · refine ite_leaves rfl ?_
    split
    · next tried => exact standing_tryStateSwap tried
    · rfl

theorem standing_markPages (p : Nat → Bool) (state i : Nat) (s : State) : standing (markPages p state i s) = standing s :=
  ite_leaves rfl (standing_stateSwap ..)

theorem standing_freeGone (s : State) : standing (freeGone s) = standing s := by
  unfold freeGone
  refine foldl_leaves (fun s t => ?_) _ s
  obtain ⟨_, _, only⟩ := OpsOnly.tileProgress t.1 (leftCode t.2.page s) (freeTile t.1 s)
  rw [only]
  rfl

/-- The directory changes, the tier and the residency; the plate, the power state, the time base and the stacks do not. -/
theorem standing_loseTier (s : State) : standing (loseTier s) = standing s := by
  unfold loseTier
  dsimp only
  exact (standing_freeGone _).trans (foldl_leaves (fun s i => standing_markPages _ 3 i s) _ _)

end tier

/-! ### LOAD and its completion (R224, R227, R229, R230) -/

section load

variable {stores : List HostStore} {b : List Byte} {r s : State}

/-- Outside a seal in force, or in hold mode, a full plate is copied. -/
theorem pltLoad_full (stored : stores.foldl hostStore s = r) (unloading : r.plt.st ≠ .loading)
    (full : isDelta (loadBytes r) = false) (allowed : r.plt.st = .sealed → r.pwr.hold = true) (unassigned : r.tru.tdis = []) :
    exec (.pltLoad stores) s = .next { r with plt := { r.plt with
      before := restState r, loading := some (loadBytes r), st := .loading, phase := .idle } } := by
  have unblocked : ¬ (r.plt.st = .sealed ∧ (!r.pwr.hold) = true) := by
    rintro ⟨isSealed, notHeld⟩
    simp [allowed isSealed] at notHeld
  refine congrArg Host.Outcome.next ?_
  simp only [execPltLoadState, stored, if_neg unloading, full, Bool.false_eq_true, if_false, if_neg unblocked, unassigned,
    List.map_nil, List.foldl_nil]

/-- A delta is copied while a plate is sealed, out of hold mode, when no delta is under way. -/
theorem pltLoad_delta (stored : stores.foldl hostStore s = r) (isSealed : r.plt.st = .sealed) (running : r.pwr.hold = false)
    (delta : isDelta (loadBytes r) = true) (idle : r.plt.phase = .idle) :
    exec (.pltLoad stores) s = .next { r with plt := { r.plt with
      before := .sealed, loading := some (loadBytes r), st := .loading } } := by
  refine congrArg Host.Outcome.next ?_
  simp [execPltLoadState, restState, stored, isSealed, running, delta, idle]

/-- A full plate is refused while a plate is sealed out of hold mode. -/
theorem pltLoad_refused (stored : stores.foldl hostStore s = r) (isSealed : r.plt.st = .sealed) (running : r.pwr.hold = false)
    (full : isDelta (loadBytes r) = false) :
    exec (.pltLoad stores) s = .next (loadRefused false 22 noSection { r with plt.before := .sealed }) := by
  refine congrArg Host.Outcome.next ?_
  simp [execPltLoadState, restState, stored, isSealed, running, full]

/-- A full plate that has been copied stands in the shadow store, or is refused by the first check that fails. -/
theorem loadComplete_full (loading : s.plt.st = .loading) (copied : s.plt.loading = some b) (full : isDelta b = false)
    (noScrubs : s.tru.scrubs = []) :
    exec .loadComplete s = .next (match plateFails b s.plt.loadLen s.fsh.usableGib s.start.failedStacks with
      | some x => loadRefused false x.1 x.2 s
      | none => { writeStore shadowAddr b s with plt := { s.plt with
          loading := none, shadow := some (plateStore b), shadowDigest := digestOf b
          code := 0, reason := 0, sect := 0, st := .valid } }) := by
  refine congrArg Host.Outcome.next ?_
  simp only [execLoadCompleteState, loading, copied, full, noScrubs, if_true, Bool.false_eq_true, if_false, List.any_nil]
  cases plateFails b s.plt.loadLen s.fsh.usableGib s.start.failedStacks <;> rfl

/-- A delta that has been copied stands as the plate it results in, or is refused by the first check that fails. -/
theorem loadComplete_delta {a : List Byte} {p : PlateStore} (loading : s.plt.st = .loading) (copied : s.plt.loading = some b)
    (delta : isDelta b = true) (active : s.plt.active = some p) (result : applyDelta (readStore activeAddr p s) b = a)
    (noScrubs : s.tru.scrubs = []) :
    exec .loadComplete s = .next (match deltaFails b a s.plt.loadLen s with
      | some x => loadRefused true x.1 x.2 s
      | none => { writeStore shadowAddr a s with plt := { s.plt with
          loading := none, shadow := some (plateStore a), shadowDigest := digestOf a
          code := 0, reason := 0, sect := 0, st := .sealed, phase := .loaded } }) := by
  have assembled : applyDelta ((s.plt.active.map fun p => readStore activeAddr p s).getD []) b = a := by
    rw [active]
    exact result
  refine congrArg Host.Outcome.next ?_
  simp only [execLoadCompleteState, loading, copied, delta, assembled, noScrubs, if_true, Bool.false_eq_true, if_false,
    List.any_nil]
  cases deltaFails b a s.plt.loadLen s <;> rfl

end load

/-! ### SEAL and the switch of ranks (R228) -/

section sealing

variable {new : PlateStore} {s : State}

/-- The state in which the checked plate has become the plate in force. -/
def sealTaken (new : PlateStore) (s : State) : State :=
  { activate new s with
    plt.st := .sealed, plt.everSealed := true, plt.switchPending := true, plt.prior := []
    pwr.holdCause := s.pwr.holdCause &&& (63 - 4) }

/-- The key slots follow that plate's KEYMAP, and its flash keys are installed. -/
def sealKeyed (new : PlateStore) (s : State) : State :=
  installFlash new.plate (fun _ _ => true) (changeKeys (plate s) new.plate (sealTaken new s))

theorem grounds_sealKeyed (new : PlateStore) (s : State) : grounds (sealKeyed new s) = grounds (sealTaken new s) :=
  (grounds_installFlash ..).trans (grounds_changeKeys ..)

/-- The connections, ports and slots go over to the plate in force. -/
def sealSettled (old new : Plate) (s : State) : State :=
  awaitQuotas (retrainPorts old ((plateConns old new).foldl startWatch ((plateConns old new).foldl sealConn s)))

theorem grounds_sealSettled (old new : Plate) (s : State) : grounds (sealSettled old new s) = grounds s :=
  (grounds_retrainPorts ..).trans <| (foldl_leaves grounds_startWatch _ _).trans (foldl_leaves grounds_sealConn _ _)

/-- With no plate in force before, or with one of the same epoch, the tier keeps its copies. -/
def keepsTier (new : PlateStore) (s : State) : Bool := s.plt.active.isNone || (plate s).epoch = new.plate.epoch

/-- The state that SEAL leaves. -/
def sealEnd (new : PlateStore) (s : State) : State :=
  sealSettled (plate s) new.plate (if keepsTier new s then sealKeyed new s else loseTier (sealKeyed new s))

theorem pltSeal_seals (valid : s.plt.st = .valid) (shadow : s.plt.shadow = some new) :
    exec .pltSeal s = .next (sealEnd new s) := by
  refine congrArg Host.Outcome.next ?_
  rw [execPltSealState, if_pos valid, shadow]
  rfl

theorem standing_sealEnd (new : PlateStore) (s : State) : standing (sealEnd new s) = standing (sealTaken new s) := by
  have keyed : standing (sealKeyed new s) = standing (sealTaken new s) := congrArg Grounds.standing (grounds_sealKeyed new s)
  exact (congrArg Grounds.standing (grounds_sealSettled ..)).trans
    (ite_leaves keyed ((standing_loseTier _).trans keyed))

/-- A SEAL that keeps the tier's copies leaves the directory. -/
theorem dir_sealEnd (keeps : keepsTier new s = true) : (sealEnd new s).dir = s.dir := by
  rw [sealEnd, if_pos keeps]
  exact congrArg Grounds.dir ((grounds_sealSettled ..).trans (grounds_sealKeyed new s))

theorem keepsTier_of (same : s.plt.active = none ∨ (plate s).epoch = new.plate.epoch) : keepsTier new s = true := by
  simpa [keepsTier] using same

theorem rankSwitch_switches (pending : s.plt.switchPending = true) (boundary : strokeNow s = 0) :
    exec .rankSwitch s = .next (allotGravers { s with plt := { s.plt with
      running := some (plate s).lines, switchPending := false } }) :=
  congrArg Host.Outcome.next (if_pos ⟨pending, boundary⟩)

end sealing

/-! ### Hold mode, and the loss of the plate (R226; 16_faults_and_recovery.md R434) -/

section loss

variable {s : State}

theorem bit_or_pow (n i : Nat) : bit (n ||| 2 ^ i) i = true := by
  have set : (n ||| 2 ^ i).testBit i = true := by simp
  rw [Nat.testBit_eq_decide_div_mod_eq, decide_eq_true_eq] at set
  simp [bit, set]

/-- What stands, beside the delta under way and TIM_STATUS.RUN. -/
def besideDelta (x : Standing) : Standing :=
  { x with
    plt := { x.plt with phase := .idle, dcode := 0, held := [], shadow := none }
    time := { x.time with run := 0 } }

/-- The effects of entry end at most the delta and the RUN phase. -/
theorem besideDelta_holdEffects (s : State) : besideDelta (standing (holdEffects s)) = besideDelta (standing s) := by
  have aborted (u : State) : besideDelta (standing (abortDelta u)) = besideDelta (standing u) :=
    congrArg (fun x => besideDelta (Grounds.standing x)) (grounds_countEvent ..)
  have ended (u : State) : standing (fenceWork (u.sch.reqs.foldl (endRequest stPageAbsent) u)) = standing u :=
    congrArg Grounds.standing ((grounds_fenceWork _).trans (foldl_leaves (grounds_endRequest stPageAbsent) _ _))
  unfold holdEffects
  dsimp only
  rw [ended]
  cases s.plt.phase with
  | armed | committed => exact aborted _
  | idle | loaded => rfl

theorem besideDelta_enterHold (cause : Nat) (s : State) : besideDelta (standing (enterHold cause s)) =
    besideDelta { standing s with
      pwr := { (standing s).pwr with hold := true, holdCause := (standing s).pwr.holdCause ||| 2 ^ cause } } :=
  ite_leaves (g := fun s => besideDelta (standing s)) rfl (besideDelta_holdEffects _)

/-- The state in which the plate is marked lost. -/
def markedLost (s : State) : State :=
  { s with plt.st := .lost, plt.running := none, plt.switchPending := false, plt.loading := none }

theorem plateLost_raises {b : PlateStore} (active : s.plt.active = some b) (unlost : s.plt.st ≠ .lost) :
    exec .plateLost s = .next (enterHold 2 (raiseRecord fPlateLost unitNode [] (markedLost s))) := by
  refine congrArg Host.Outcome.next ?_
  rw [← raise_hold (code := fPlateLost) rfl, execPlateLostState]
  simp [active, unlost, markedLost]

theorem standing_raiseRecord (code unit : Nat) (args : List Byte) (s : State) :
    standing (raiseRecord code unit args s) = standing s := by
  rw [raiseRecord_frame]
  rfl

/-- The plate is marked lost and hold mode has its cause; the plate's bytes stay. -/
theorem besideDelta_lost (s : State) :
    besideDelta (standing (enterHold 2 (raiseRecord fPlateLost unitNode [] (markedLost s)))) =
      besideDelta { standing (markedLost s) with
        pwr := { s.pwr with hold := true, holdCause := s.pwr.holdCause ||| 2 ^ 2 } } := by
  rw [besideDelta_enterHold, standing_raiseRecord]
  rfl

end loss

/-! ### The repair of a plate store (R226) -/

section repair

variable {st idx w addr unit : Nat} {finds : PatrolFinds} {s : State}

/-- With fewer than 15 errors of the last second, one that is made good is noted and raises nothing. -/
theorem noteUe_few (few : (ueRecent s).length < 15) : ∃ flt, noteUe addr unit s = { s with flt := flt } := by
  have worn : ∃ flt, wearUe unit s = { s with flt := flt } ∧ flt.ueSeen = s.flt.ueSeen := by
    unfold wearUe
    split
    · exact ⟨_, rfl, rfl⟩
    · exact ⟨_, rfl, rfl⟩
  obtain ⟨flt, worn, seen⟩ := worn
  have few' : (ueRecent { s with flt := flt }).length < 15 := by
    rw [ueRecent, ← seen] at few
    exact few
  rw [noteUe, worn, strikeUe]
  dsimp only [id]
  rw [if_neg (show ¬ (ueRecent { s with flt := flt }).length + 1 = 16 by omega)]
  split
  · exact ⟨_, rfl⟩
  · exact ⟨_, rfl⟩

theorem repairPlate_copies (few : (ueRecent s).length < 15) : (repairPlate st s w).mem.stk =
    memWrite s.mem.stk (plateWordAddr st w) (memRead s.mem.stk (plateWordAddr (13 - st) w) 8) := by
  obtain ⟨flt, noted⟩ := noteUe_few (addr := uePlate st w) (unit := unitStack st) few
  rw [repairPlate, noted]

/-- The patrol of a vault stack repairs the one word it finds. -/
theorem refreshStroke_repairs (vault : 6 ≤ st) (inStore : w < plateWords) (few : (ueRecent s).length < 15) :
    (refreshStroke st ⟨[], [w]⟩ s).mem.stk =
      memWrite s.mem.stk (plateWordAddr st w) (memRead s.mem.stk (plateWordAddr (13 - st) w) 8) := by
  have notGraver : ¬ st < 6 := by omega
  unfold refreshStroke
  dsimp only
  rw [if_neg notGraver]
  simp only [List.filter_nil, List.foldl_nil, List.filter_cons, inStore, decide_true, if_true, List.foldl_cons]
  exact repairPlate_copies few

/-- A stack in the normal band with no rise ahead is refreshed once. -/
theorem plannedRefresh_cool (cool : stackHeat st s = {}) : plannedRefresh st finds s = refreshStroke st finds s := by
  simp [plannedRefresh, cool, bandRank]

theorem refreshLine_vault {m : Store LineProg} {l : Line} (running : s.plt.running = some m)
    (due : dueLine islHub idx opVaultRefresh s = some l) :
    exec (.refreshLine islHub idx finds) s = .next (plannedRefresh l.linkStack finds (markApplied islHub idx s)) := by
  refine congrArg Host.Outcome.next ?_
  have notGraver : ¬ islHub < 6 := by decide
  simp only [execRefreshLineState, running, if_neg notGraver, if_true, due]

end repair

/-- Settles O26: LOAD, its completion, SEAL, the switch of ranks, the repair and the loss, by the lemma above for each. -/
theorem plateLoadAndSeal : Obligations.PlateLoadAndSeal := by
  unfold Obligations.PlateLoadAndSeal
  refine ⟨?_, ?_, ?_, ?_, ?_, ?_, ?_, ?_, ?_⟩
  · intro stores r s stored unloading full allowed unassigned
    exact pltLoad_full stored unloading full allowed unassigned
  · intro stores r s stored isSealed running delta idle
    exact pltLoad_delta stored isSealed running delta idle
  · intro stores r s stored isSealed running full
    exact ⟨_, pltLoad_refused stored isSealed running full, rfl, rfl, rfl, rfl, rfl⟩
  · intro b s loading copied full noScrubs
    exact loadComplete_full loading copied full noScrubs
  · intro new s valid shadow
    have stands := standing_sealEnd new s
    have cause : _ = s.pwr.holdCause &&& 59 := congrArg (fun x => x.pwr.holdCause) stands
    exact ⟨_, pltSeal_seals valid shadow, congrArg Standing.plt stands, cause, congrArg Standing.time stands,
      fun same => dir_sealEnd (keepsTier_of same)⟩
  · intro s pending boundary
    have frame := allotGravers_frame { s with plt := { s.plt with running := some (plate s).lines, switchPending := false } }
    have plt := congrArg State.plt frame
    refine ⟨_, rankSwitch_switches pending boundary, plt, ?_⟩
    rw [plt]
    exact frame
  · intro b s active unlost
    have stands := besideDelta_lost s
    have cause : _ = s.pwr.holdCause ||| 2 ^ 2 := congrArg (fun x => x.pwr.holdCause) stands
    refine ⟨_, plateLost_raises active unlost, congrArg (fun x => x.plt.st) stands,
      (congrArg (fun x => x.plt.active) stands).trans active, congrArg (fun x => x.plt.running) stands,
      congrArg (fun x => x.pwr.hold) stands, ?_, congrArg Standing.stk stands⟩
    exact (congrArg (bit · 2) cause).trans (bit_or_pow _ 2)
  · intro idx w l m s running due vault cool inStore few
    refine ⟨_, refreshLine_vault running due, ?_⟩
    have cool' : stackHeat l.linkStack (markApplied islHub idx s) = {} := cool
    rw [plannedRefresh_cool cool']
    exact refreshStroke_repairs vault inStore few
  · intro b a p s loading copied delta active result noScrubs
    exact loadComplete_delta loading copied delta active result noScrubs

/-! ### Deltas (R232 to R236) -/

section deltas

variable {new : PlateStore} {i : Nat} {s : State}

/-- A loaded delta whose boundary is fewer than 8 passes ahead ends at ARM. -/
theorem pltArm_near (loaded : s.plt.phase = .loaded) (isSealed : s.plt.st = .sealed) (shadow : s.plt.shadow = some new)
    (near : s.plt.boundary < passNow s + 8) :
    exec .pltArm s = .next (armDone stMalformed (plateRefused 24 noSection s)) := by
  refine congrArg Host.Outcome.next ?_
  rw [execPltArmState, if_pos ⟨loaded, isSealed⟩, shadow]
  exact if_pos near

/-- With its boundary far enough ahead, no party scrub-pending and no partition assigned, a delta is armed if every partition it
touches is drained. -/
theorem pltArm_far (loaded : s.plt.phase = .loaded) (isSealed : s.plt.st = .sealed) (shadow : s.plt.shadow = some new)
    (far : passNow s + 8 ≤ s.plt.boundary) (noScrubs : s.tru.scrubs = []) (unassigned : assignedParts s = []) :
    exec .pltArm s = .next (if (touchedParts (plate s) new.plate).any (fun p => !drained p s)
      then countEvent cDeltasBusy unitNode (armDone stDeltaBusy s)
      else { s with plt := { s.plt with
        phase := .armed, armedAt := s.plt.boundary, acked := 0, held := touchedParts (plate s) new.plate
        code := 0, reason := 0, sect := 0 } }) := by
  refine congrArg Host.Outcome.next ?_
  rw [execPltArmState, if_pos ⟨loaded, isSealed⟩, shadow]
  simp only [if_neg (Nat.not_lt.mpr far), noScrubs, unassigned, List.any_nil, Bool.false_eq_true, if_false]

theorem islandAck_acks (under : s.plt.phase = .armed ∨ s.plt.phase = .committed) :
    exec (.islandAck i) s = .next { s with plt := { s.plt with acked := s.plt.acked ||| 2 ^ i } } := by
  refine congrArg Host.Outcome.next ?_
  rcases under with phase | phase <;> rw [execIslandAckState, phase]

theorem pltAbort_aborts (under : s.plt.phase ≠ .idle) : exec .pltAbort s = .next (abortDelta s) := by
  refine congrArg Host.Outcome.next ?_
  cases phase : s.plt.phase with
  | idle => exact absurd phase under
  | loaded | armed | committed => rw [execPltAbortState, phase]

theorem deltaBoundary_early (under : s.plt.phase = .armed ∨ s.plt.phase = .committed) (early : passNow s < s.plt.armedAt) :
    exec .deltaBoundary s = .next s := by
  refine congrArg Host.Outcome.next ?_
  rcases under with phase | phase <;> simp only [execDeltaBoundaryState, phase, if_pos early]

theorem deltaBoundary_swaps (committed : s.plt.phase = .committed) (reached : s.plt.armedAt ≤ passNow s)
    (acked : s.plt.acked = 0x3FFFF) (shadow : s.plt.shadow = some new) :
    exec .deltaBoundary s = .next (swapPlate new s) := by
  refine congrArg Host.Outcome.next ?_
  simp only [execDeltaBoundaryState, committed, if_neg (Nat.not_lt.mpr reached), acked, and_self, if_true, shadow]

theorem deltaBoundary_aborts (failed : s.plt.phase = .armed ∨ (s.plt.phase = .committed ∧ s.plt.acked ≠ 0x3FFFF))
    (reached : s.plt.armedAt ≤ passNow s) : exec .deltaBoundary s = .next (abortDelta s) := by
  refine congrArg Host.Outcome.next ?_
  rcases failed with armed | ⟨committed, missing⟩
  · simp only [execDeltaBoundaryState, armed, if_neg (Nat.not_lt.mpr reached), reduceCtorEq, false_and, if_false]
  · simp only [execDeltaBoundaryState, committed, if_neg (Nat.not_lt.mpr reached), missing, and_false, if_false]

/-- The state in which the resulting plate has become the plate in force on every island. -/
def swapTaken (old : Plate) (new : PlateStore) (s : State) : State :=
  { activate new s with
    plt.running := some new.plate.lines, plt.switchPending := false, plt.phase := .idle, plt.dcode := stOk, plt.held := []
    plt.prior := (strokeCount s, old) :: s.plt.prior.filter fun x => strokeCount s < x.1 + 8192 }

theorem swapTaken_plt (old : Plate) (new : PlateStore) (s : State) : (swapTaken old new s).plt = { s.plt with
    active := some new, shadow := none, digest := s.plt.shadowDigest, deltaSeq := new.plate.deltaSeq
    running := some new.plate.lines, switchPending := false
    prior := (strokeCount s, old) :: s.plt.prior.filter fun x => strokeCount s < x.1 + 8192
    phase := .idle, dcode := stOk, held := [] } := rfl

theorem standing_tally (c : Ctr) (s : State) : standing (tally c s) = standing s := rfl

theorem standing_swapPlate (new : PlateStore) (s : State) :
    standing (swapPlate new s) = standing (swapTaken (plate s) new (swapScrubs (plate s) new.plate s)) := by
  unfold swapPlate
  extract_lets -underBinder old s₁ _ _ _ s₂ s₃ s₄ fresh s₅ s₆
  have aimed : grounds s₃ = grounds s₂ := grounds_reaimAll s₂
  have keyed : grounds s₄ = grounds s₃ := grounds_changeKeys ..
  have closed : grounds s₅ = grounds s₄ := foldl_leaves (grounds_swapConn old) _ _
  have awaited : grounds s₆ = grounds s₅ := foldl_leaves grounds_startWatch _ _
  have allotted : grounds (allotGravers s₆) = grounds s₆ := grounds_allotGravers s₆
  have settled := congrArg Grounds.standing (allotted.trans (awaited.trans (closed.trans (keyed.trans aimed))))
  exact (standing_tally ..).trans settled

/-- The plate registers and the time base once the resulting plate has taken effect. -/
theorem swapPlate_takes (new : PlateStore) (s : State) :
    (swapPlate new s).plt = (swapTaken (plate s) new s).plt ∧ (swapPlate new s).time = s.time := by
  have stands := standing_swapPlate new s
  have scrubbed : standing (swapScrubs (plate s) new.plate s) = standing s := congrArg Grounds.standing (grounds_swapScrubs ..)
  generalize swapPlate new s = t at stands ⊢
  generalize swapScrubs (plate s) new.plate s = u at stands scrubbed
  have plt : u.plt = s.plt := congrArg Standing.plt scrubbed
  have time : u.time = s.time := congrArg Standing.time scrubbed
  have stroke : strokeCount u = strokeCount s := congrArg (fun x : TimeState => x.now / strokeNs) time
  refine ⟨(congrArg Standing.plt stands).trans ?_, (congrArg Standing.time stands).trans time⟩
  change (swapTaken (plate s) new u).plt = _
  rw [swapTaken_plt, swapTaken_plt, plt, stroke]

end deltas

/-- Settles O27: ARM, the acknowledgements, COMMIT, ABORT and the boundary, by the lemma above for each. -/
theorem deltas : Obligations.Deltas := by
  unfold Obligations.Deltas
  refine ⟨?_, ?_, ?_, ?_, ?_, ?_, ?_, ?_, ?_⟩
  · intro new s loaded isSealed shadow far noScrubs unassigned allDrained
    have noneBusy : (touchedParts (plate s) new.plate).any (fun p => !drained p s) = false := by
      simpa using allDrained
    rw [pltArm_far loaded isSealed shadow far noScrubs unassigned, noneBusy, if_neg Bool.false_ne_true]
  · intro new s loaded isSealed shadow near
    exact ⟨_, pltArm_near loaded isSealed shadow near, rfl, rfl⟩
  · intro new p s loaded isSealed shadow far noScrubs unassigned touched busy
    have arms := pltArm_far loaded isSealed shadow far noScrubs unassigned
    rw [touched, List.any_cons, busy, Bool.not_false, Bool.true_or, if_pos rfl, countEvent_frame] at arms
    exact ⟨_, arms, rfl, rfl⟩
  · intro i s under
    exact islandAck_acks under
  · intro s armed early
    exact congrArg Host.Outcome.next (if_pos ⟨armed, early⟩)
  · intro s under
    refine ⟨_, pltAbort_aborts under, ?_, ?_, ?_⟩
    · rw [abortDelta, countEvent_plt]
    · exact ctrGet_countEvent _ _ _ (by decide)
    · rw [abortDelta, countEvent_frame]
  · intro s under early
    exact deltaBoundary_early under early
  · intro new s committed reached acked shadow
    obtain ⟨plt, time⟩ := swapPlate_takes new s
    exact ⟨_, deltaBoundary_swaps committed reached acked shadow, plt, time⟩
  · intro s failed reached
    exact deltaBoundary_aborts failed reached

end Sys2Proof.Proofs

/-! ## Strokes, passes and the lines of the islands (09_strokes_and_passes.md R240 to R247) -/

namespace Sys2Proof.Proofs

open Sys2Proof Sys2Proof.Machine Sys2Proof.Safety

/-- Settles O52: the numbers are quotients and remainders of the time base. -/
theorem strokesAndPasses : Obligations.StrokesAndPasses := by
  unfold Obligations.StrokesAndPasses
  intro s
  simp only [strokeCount, strokeNow, passNow, strokeNs, passNs, passStrokes, true_and]
  refine ⟨?_, ?_, ?_, ?_, ?_⟩ <;> omega

section lines

variable {isl idx g st : Nat} {l : Line} {r : Req} {e : ColEntry} {s : State}

theorem bit_mod {i w : Nat} (n : Nat) (below : i < w) : bit (n % 2 ^ w) i = bit n i := by
  have same := Nat.testBit_mod_two_pow n w i
  simp only [below, decide_true, Bool.true_and, Nat.testBit_eq_decide_div_mod_eq, decide_eq_decide] at same
  rw [Bool.eq_iff_iff]
  simpa [bit] using same

/-- A mask with one bit names one unit of 16. -/
theorem filter_bit_single {n : Nat} (below : n < 16) : ((List.range 16).filter fun e => bit (2 ^ n) e) = [n] := by
  interval_cases n <;> decide

/-- So the gravers that such a mask names on an island are one graver. -/
theorem gravers_named {mask : Nat} (one : mask % 2 ^ 16 = 2 ^ (g % 16)) (island : g / 16 = isl) :
    ((List.range 16).filter fun e => bit mask e).map (16 * isl + ·) = [g] := by
  have named : ((List.range 16).filter fun e => bit mask e) = [g % 16] := by
    rw [← filter_bit_single (Nat.mod_lt g (by decide)), ← one]
    exact List.filter_congr fun e below => (bit_mod mask (List.mem_range.mp below)).symm
  rw [named, List.map_singleton, ← island, Nat.div_add_mod]

/-! ### WINDOW (R245) -/

theorem windowLine_unserved (island : isl < 6) (due : dueLine isl idx opWindow s = some l)
    (unserved : windowReq (idx / carriedLine) l.slot (markApplied isl idx s) = none) :
    exec (.windowLine isl idx) s = .next (markApplied isl idx s) := by
  refine congrArg Host.Outcome.next ?_
  simp only [execWindowLineState, if_pos island, due, unserved]

theorem windowLine_serves (island : isl < 6) (due : dueLine isl idx opWindow s = some l)
    (serves : windowReq (idx / carriedLine) l.slot (markApplied isl idx s) = some r)
    (one : l.gmask = 2 ^ (g % 16)) (own : g / 16 = isl) :
    exec (.windowLine isl idx) s = .next (openWindow r.id l (dropLate r g (markApplied isl idx s)) g) := by
  refine congrArg Host.Outcome.next ?_
  have named := gravers_named (mask := l.gmask) ((Nat.mod_mod _ _).trans one) own
  simp only [execWindowLineState, if_pos island, due, serves, named, List.foldl_cons, List.foldl_nil]

/-- With every tile standing in time the window opens with all its pages (07_residency_and_tiers.md R187). -/
theorem dropLate_timely (timely : ∀ d ∈ (graver g s).descs, ∀ b ∈ d.blocks, ∀ p ∈ b.pages, tileLate r p s = false) :
    dropLate r g s = s := by
  have nothing : (((graver g s).descs.filter fun d => d.req == r.id).flatMap fun d =>
      d.blocks.flatMap fun b => b.pages.filter fun p => tileLate r p s) = [] := by
    simp only [List.flatMap_eq_nil_iff, List.filter_eq_nil_iff, List.mem_filter, Bool.not_eq_true]
    exact fun d hd b hb p hp => timely d hd.1 b hb p hp
  simp only [dropLate, dropPages, nothing, List.isEmpty_nil, if_true, List.foldl_nil]

/-- The window of an idle graver with work for the request opens at once. -/
theorem openWindow_idle {id : Nat} (works : ((graver g s).descs.any fun d => d.req == id) = true)
    (free : (graver g s).current = none) (idle : (graver g s).st = .idle) : openWindow id l s g =
      setGraver g (openNext s (renew s { graver g s with
        current := some id, st := .working, delayed := false, heated := false
        windowEnd := some (strokeCount s + (l.lenM1 + 1)), chainEnd := some (strokeCount s + (l.lenM1 + 1) + l.chain) })) s := by
  simp [openWindow, works, free, idle]

/-! ### BANKS (04_graver_engines.md R89) -/

theorem banksLine_moves (island : isl < 6) (due : dueLine isl idx opBanks s = some l)
    (one : l.arg0 % 65536 = 2 ^ (g % 16)) (own : g / 16 = isl) (unfenced : (graver g s).st ≠ .fenced)
    (ungated : (graver g s).st ≠ .gated) : exec (.banksLine isl idx) s =
      .next (setGraver g (((List.range 32).filter fun b => bit l.arg1 b).foldl (moveBank (field l.arg0 16 2) s) (graver g s))
        (markApplied isl idx s)) := by
  refine congrArg Host.Outcome.next ?_
  have works : ¬ (decide ((graver g s).st = .fenced) || decide ((graver g s).st = .gated)) = true := by
    simp [unfenced, ungated]
  simp only [execBanksLineState, if_pos island, due, gravers_named one own, List.foldl_cons, List.foldl_nil]
  exact if_neg works

/-! ### Refresh strokes (R246) -/

/-- A refresh stroke that finds no error of its stack moves the patrol on and is counted. -/
theorem refreshStroke_clean {finds : PatrolFinds}
    (slots : (finds.slots.filter fun x => slotStack x == st && x < slotCount) = []) (plate : 6 ≤ st → finds.plate = []) :
    ∃ tel, refreshStroke st finds s = { s with tel := tel } ∧
      tel.patrol = put 0 s.tel.patrol st ((look 0 s.tel.patrol st + 1) % 1048576) := by
  simp only [refreshStroke, slots, List.foldl_nil]
  by_cases below : st < 6
  · rw [if_pos below]
    exact ⟨_, rfl, rfl⟩
  · rw [if_neg below, plate (Nat.le_of_not_lt below)]
    exact ⟨_, rfl, rfl⟩

/-- So does one of any stack that finds nothing. -/
theorem refreshStroke_findless (st : Nat) (s : State) : ∃ tel, refreshStroke st ⟨[], []⟩ s = { s with tel := tel } ∧
    tel.patrol = put 0 s.tel.patrol st ((look 0 s.tel.patrol st + 1) % 1048576) :=
  refreshStroke_clean rfl fun _ => rfl

theorem refreshLine_graver {m : Store LineProg} {finds : PatrolFinds} (running : s.plt.running = some m) (island : isl < 6)
    (due : dueLine isl idx opRefresh s = some l) :
    exec (.refreshLine isl idx finds) s = .next (plannedRefresh isl finds (markApplied isl idx s)) := by
  refine congrArg Host.Outcome.next ?_
  simp only [execRefreshLineState, running, if_pos island, due]

/-- A due extra refresh stroke that displaces no claim is a refresh stroke and no more (15_start_power_cooling.md R401). -/
theorem extraRefresh_refreshes (planned : s.sch.extraRefresh.contains (st, strokeCount s) = true)
    (first : s.sch.applied.contains (st, 0x10001) = false) (window : st < 6 → windowClaims st s = false)
    (link : claimed islHub opLink (strokeCount s) (fun l => l.linkStack == st) s = false) :
    exec (.extraRefresh st) s = .next (refreshStroke st ⟨[], []⟩ (markApplied st 0x10001 s)) := by
  refine congrArg Host.Outcome.next ?_
  obtain ⟨tel, refreshed, -⟩ := refreshStroke_findless st (markApplied st 0x10001 s)
  have unopened : (decide (st < 6) && windowClaims st { markApplied st 0x10001 s with tel := tel }) = false := by
    rw [show windowClaims st { markApplied st 0x10001 s with tel := tel } = windowClaims st s from rfl]
    simpa using window
  unfold execExtraRefreshState
  rw [if_pos (by rw [planned, first]; rfl), refreshed]
  simp only [unopened, Bool.false_and, Bool.false_eq_true, if_false]
  exact if_neg (Bool.not_eq_true _ ▸ link)

/-! ### RETRAIN, DIRCYC, LINK and MAINT (R244) -/

/-- A DIRCYC line opens a range of cycles: with USE 1 for the node, with 2 for the ports, with 3 for the patrol (R247). -/
def cyclesOpened (use n : Nat) (d : DirState) : DirState :=
  { d with
    nodeRanges := d.nodeRanges ++ (if use = 1 then [n] else [])
    portRanges := d.portRanges ++ (if use = 2 then [n] else [])
    patrolCycles := d.patrolCycles + (if use = 3 then n else 0) }

theorem retrainLine_retrains (island : isl < 6) (due : dueStroke isl idx opRetrain s = some l) :
    exec (.retrainLine isl idx) s = .next (retrainChannel isl (markApplied isl idx s)) := by
  refine congrArg Host.Outcome.next ?_
  simp only [execRetrainLineState, if_pos island, due]

theorem dircycLine_opens (due : dueStroke islHub idx opDircyc s = some l) : exec (.dircycLine islHub idx) s =
    .next { markApplied islHub idx s with dir := cyclesOpened (field l.arg0 18 2) (field l.arg0 9 9) s.dir } := by
  refine congrArg Host.Outcome.next ?_
  simp only [execDircycLineState, if_true, due]
  have two : field l.arg0 18 2 < 4 := Nat.mod_lt _ (by decide)
  generalize field l.arg0 18 2 = use at two
  interval_cases use <;> simp [cyclesOpened]
  rfl

/-- The stack's link has the use of the line in this stroke. -/
def linkOpened (idx : Nat) (l : Line) (s : State) : State :=
  { markApplied islHub idx s with res.linkUse := upd 0 s.res.linkUse l.linkStack fun m => m ||| 2 ^ l.linkUse }

theorem linkLine_opens (due : dueStroke islHub idx opLink s = some l) : exec (.linkLine islHub idx) s =
    .next (if l.linkUse = 1 then issueStaging l.linkStack (linkOpened idx l s) else linkOpened idx l s) := by
  refine congrArg Host.Outcome.next ?_
  simp only [execLinkLineState, if_true, due]
  rfl

theorem maintLine_retrains {ef pf : List Nat} (due : dueStroke islHub idx opMaint s = some l) (use : field l.arg0 0 2 = 1) :
    exec (.maintLine islHub idx ef pf) s = .next (retrainChannel (field l.arg0 2 3) (markApplied islHub idx s)) := by
  refine congrArg Host.Outcome.next ?_
  simp only [execMaintLineState, if_true, due, use]

theorem maintLine_maintains {ef pf : List Nat} (due : dueStroke islHub idx opMaint s = some l) (use : field l.arg0 0 2 = 2) :
    exec (.maintLine islHub idx ef pf) s = .next (tierMaintenance ef pf { markApplied islHub idx s with
      fsh.maint := true, tel.flashMaint := (s.tel.flashMaint + 1) % 65536 }) := by
  refine congrArg Host.Outcome.next ?_
  simp only [execMaintLineState, if_true, due, use]
  rfl

/-! ### CLOSE and SAMPLE (R244, R254; 17_management_and_registers.md R452) -/

/-- The requests whose occurrence a CLOSE line closes in this stroke. -/
def closing (idx : Nat) (l : Line) (s : State) : List Req :=
  s.sch.reqs.filter (servesReq (idx / carriedLine) l.slot Line.closeAfter s)

/-- What a CLOSE line does to one request (R254). -/
def closeRequest (s : State) (r : Req) : State :=
  match r.phase with
  | .taken | .answered => s
  | .checked | .lookups => endUndispatched r stPageAbsent s
  | .dispatched =>
    match entryFind r.id s with
    | none => s
    | some e => if sanctioned e s then setEntry { e with closeMoved := some (strokeCount s) } s else closeStroke r e s

theorem closeLine_closes (due : dueLine islCollator idx opClose s = some l) :
    exec (.closeLine islCollator idx) s = .next ((closing idx l s).foldl closeRequest (markApplied islCollator idx s)) := by
  refine congrArg Host.Outcome.next ?_
  simp only [execCloseLineState, if_true, due]
  rfl

theorem closeRequest_lookups (phase : r.phase = .lookups) : closeRequest s r = endUndispatched r stPageAbsent s := by
  simp only [closeRequest, phase]

theorem closeRequest_dispatched (phase : r.phase = .dispatched) (entry : entryFind r.id s = some e)
    (due : sanctioned e s = false) : closeRequest s r = closeStroke r e s := by
  simp only [closeRequest, phase, entry, due, Bool.false_eq_true, if_false]

/-- A request without children has nobody to wait for. -/
theorem closeStroke_childless (childless : childrenOf r s = []) : closeStroke r e s = closeNow r e s := by
  simp [closeStroke, missingChildren, childless, indexed]

theorem sampleLine_samples (due : dueLine islTime idx opSample s = some l) :
    exec (.sampleLine islTime idx) s = .next (telCopy (markApplied islTime idx s)) := by
  refine congrArg Host.Outcome.next ?_
  simp only [execSampleLineState, if_true, due]

end lines

/-- Settles O19: each line of an island, and an extra refresh stroke, by the lemma above that says what it does. -/
theorem scheduleLines : Obligations.ScheduleLines := by
  unfold Obligations.ScheduleLines
  refine ⟨?_, ?_, ?_, ?_, ?_, ?_, ?_, ?_, ?_, ?_, ?_, ?_, ?_, ?_, ?_, ?_⟩
  · intro isl idx l s island due unserved
    exact windowLine_unserved island due unserved
  · intro isl idx g l r s island due serves one own works timely free idle
    have opens := windowLine_serves island due serves one own
    rw [dropLate_timely (s := markApplied isl idx s) timely,
      openWindow_idle (s := markApplied isl idx s) works free idle] at opens
    exact ⟨_, opens, rfl, rfl⟩
  · intro isl idx g l s island due one own unfenced ungated
    exact ⟨_, banksLine_moves island due one own unfenced ungated, rfl, rfl⟩
  · intro isl idx ue l m s island running due cool clean
    obtain ⟨tel, refreshed, patrol⟩ := refreshStroke_clean (s := markApplied isl idx s) clean fun vault => by omega
    have refreshes := refreshLine_graver (finds := ue) running island due
    rw [plannedRefresh_cool (s := markApplied isl idx s) cool, refreshed] at refreshes
    exact ⟨_, refreshes, patrol, rfl, rfl⟩
  · intro st s planned first window link
    obtain ⟨tel, refreshed, patrol⟩ := refreshStroke_findless st (markApplied st 0x10001 s)
    have refreshes := extraRefresh_refreshes planned first window link
    rw [refreshed] at refreshes
    exact ⟨_, refreshes, patrol, rfl, rfl⟩
  · intro isl idx l s island due
    exact retrainLine_retrains island due
  · intro idx l s due
    exact dircycLine_opens due
  · intro idx l s due other
    exact (linkLine_opens due).trans (congrArg Host.Outcome.next (if_neg other))
  · intro idx ef pf l s due use
    exact maintLine_retrains due use
  · intro idx l s due unserved
    rw [closeLine_closes due, closing, unserved]
    rfl
  · intro idx l r e s due one phase entry timely
    rw [closeLine_closes due, closing, one]
    exact congrArg Host.Outcome.next (closeRequest_dispatched phase entry timely)
  · intro idx l s due
    exact sampleLine_samples due
  · intro idx l r s due one phase
    rw [closeLine_closes due, closing, one]
    exact congrArg Host.Outcome.next (closeRequest_lookups phase)
  · intro r e s childless
    exact closeStroke_childless childless
  · intro idx l s due staging
    have opens := (linkLine_opens due).trans (congrArg Host.Outcome.next (if_pos staging))
    rw [linkOpened, staging] at opens
    exact opens
  · intro idx ef pf l s due use
    exact maintLine_maintains due use

end Sys2Proof.Proofs

/-! ## Heartbeats and peers (09_strokes_and_passes.md R258, R259) -/

namespace Sys2Proof.Proofs

open Sys2Proof Sys2Proof.Machine Sys2Proof.Safety

section peers

variable {k isl idx : Nat} {l : Line} {m : InMsg} {s : State}

/-- The heartbeat leaves the inbox, and its credit returns. -/
def beatTaken (k : Nat) (m : InMsg) (s : State) : State := returnCredit k m.cls m.body.length (inboxTake m s)

/-- A heartbeat that is accepted starts the peer's 48 passes again (R258, R259). -/
def beatNoted (k : Nat) (m : InMsg) (s : State) : State := setAux k { aux k s with lastBeat := s.time.elapsed } (beatTaken k m s)

/-- The pass of the sender and the pass in which the heartbeat came differ by more than one (R258). -/
abbrev beatSkewed (m : InMsg) : Prop :=
  m.doneAt / passStrokes + 1 < u m.body 0 8 ∨ u m.body 0 8 + 1 < m.doneAt / passStrokes

/-- A heartbeat that waits is taken, and answered for by its body and its pass. -/
theorem heartbeat_comes (waits : inboxFind k tHeartbeat false s = some m) : exec (.heartbeat k) s = .next
    (if !beatOk k m.body s then countEvent cBeatBad (unitConn k) (beatTaken k m s)
    else if beatSkewed m then countEvent cSkewAlarm (unitConn k) (beatNoted k m s) else beatNoted k m s) := by
  refine congrArg Host.Outcome.next ?_
  simp only [execHeartbeatState, waits]
  rfl

theorem heartbeat_timely (waits : inboxFind k tHeartbeat false s = some m) (ok : beatOk k m.body s = true)
    (timely : ¬ beatSkewed m) : exec (.heartbeat k) s = .next (beatNoted k m s) := by
  rw [heartbeat_comes waits, ok, if_neg (by decide), if_neg timely]

theorem heartbeat_skewed (waits : inboxFind k tHeartbeat false s = some m) (ok : beatOk k m.body s = true)
    (skewed : beatSkewed m) : exec (.heartbeat k) s = .next (countEvent cSkewAlarm (unitConn k) (beatNoted k m s)) := by
  rw [heartbeat_comes waits, ok, if_neg (by decide), if_pos skewed]

theorem heartbeat_bad (waits : inboxFind k tHeartbeat false s = some m) (bad : beatOk k m.body s = false) :
    exec (.heartbeat k) s = .next (countEvent cBeatBad (unitConn k) (beatTaken k m s)) := by
  rw [heartbeat_comes waits, bad, if_pos (by decide)]

/-- A loss is told of by its counter, its fault and its mark; it does not enter hold mode. -/
theorem peersLost_marks (watch : watched k s = true) (present : (aux k s).lost = false)
    (silent : (aux k s).lastBeat + 48 * passStrokes ≤ s.time.elapsed) : exec (.peersLost k) s =
      .next (raiseRecord fPeerLost (unitConn k) [] (tally cPeersLost (setAux k { aux k s with lost := true } s))) := by
  rw [← raise_plain (code := fPeerLost) rfl]
  refine congrArg Host.Outcome.next (if_pos ?_)
  simp [watch, present, silent]

theorem ctrGet_raiseRecord_other {c : Ctr} (other : c.key ≠ ctrFaults.key) (code unit : Nat) (args : List Byte) (s : State) :
    ctrGet c (raiseRecord code unit args s) = ctrGet c s := by
  change ctrGet c (logRecord _ (tallyBy 1 ctrFaults _)) = _
  rw [ctrGet_logRecord, ctrGet_tallyBy_other 1 ctrFaults c _ (by decide) Nat.one_pos other]
  rfl

/-! ### BEAT and ADAPT lines (R244, R258) -/

theorem beatLine_beats (above : islPort ≤ isl) (below : isl < islTime) (due : dueLine isl idx opBeat s = some l)
    (active : (conn (l.arg0 % 65536) s).st = .active) : exec (.beatLine isl idx) s =
      .next (tally cBeatsSent (queueMsg (l.arg0 % 65536) { typ := tHeartbeat, body := beatBody (markApplied isl idx s) }
        (markApplied isl idx s))) := by
  refine congrArg Host.Outcome.next ?_
  unfold execBeatLineState
  rw [if_pos (by simp [above, below]), due]
  exact if_pos active

theorem adaptLine_adapts (above : islPort ≤ isl) (below : isl < islTime) (due : dueStroke isl idx opAdapt s = some l) :
    exec (.adaptLine isl idx) s = .next (markApplied isl idx { s with tel.adapts := (s.tel.adapts + 1) % 65536 }) := by
  refine congrArg Host.Outcome.next ?_
  unfold execAdaptLineState
  rw [if_pos (by simp [above, below]), due]

end peers

/-- Settles O28: a heartbeat that comes, a peer that is lost, and the lines, by the lemma above for each. -/
theorem heartbeatAndPeers : Obligations.HeartbeatAndPeers := by
  unfold Obligations.HeartbeatAndPeers
  refine ⟨?_, ?_, ?_, ?_, ?_, ?_⟩
  · intro k m s waits ok early late
    exact heartbeat_timely waits ok (by simp only [beatSkewed, passStrokes]; omega)
  · intro k m s waits ok ahead
    refine ⟨_, heartbeat_skewed waits ok (Or.inl ahead), ?_, ?_, ?_, ?_⟩
    · rw [countEvent_tfx]; rfl
    · exact ctrGet_countEvent _ _ _ (by decide)
    · rw [countEvent_tfx]; rfl
    · rw [countEvent_frame]; rfl
  · intro k m s waits bad
    refine ⟨_, heartbeat_bad waits bad, ?_, ?_, ?_, ?_⟩
    · rw [countEvent_tfx]; rfl
    · exact ctrGet_countEvent _ _ _ (by decide)
    · rw [countEvent_tfx]; rfl
    · rw [countEvent_frame]; rfl
  · intro k s watch present silent
    refine ⟨_, peersLost_marks watch present silent, ?_, ?_, ?_, ?_⟩
    · rw [raiseRecord_frame]; rfl
    · rw [ctrGet_raiseRecord_other (by decide)]
      exact ctrGet_tallyBy 1 cPeersLost _ (by decide) Nat.one_pos
    · rw [raiseRecord_frame]; rfl
    · rw [raiseRecord_frame]; rfl
  · intro isl idx k l s above below due names active
    subst names
    exact beatLine_beats above below due active
  · intro isl idx l s above below due
    exact adaptLine_adapts above below due

end Sys2Proof.Proofs

/-! ## The start of an ACK frame (11_fabric_ports.md R294 to R297; 12_transport.md R324)

The frame's addresses come from the connection's record, and that of a connection which a delta removed stands beside its counts.
As long as what is stored there reads back, counting the acknowledgement leaves the record alone. In a store that lists the
connection twice, a state that falls back to its default takes the first listing away and uncovers the second. -/

namespace Sys2Proof.Proofs

open Sys2Proof Sys2Proof.Machine Sys2Proof.Safety

section acks

variable {p lane c cls : Nat} {x : Cand} {key : Key} {s t u : State}

/-- From `s` to `t` the connection's own counts changed, but not its record, and events may have been logged. -/
structure RecordKept (c : Nat) (s t : State) : Prop where
  canonical : storeWf {} s.tfx.aux = true → storeWf {} t.tfx.aux = true
  record : storeWf {} s.tfx.aux = true → (aux c t).oldRec = (aux c s).oldRec
  rest : ∃ aux ctr flt, t = { s with tfx := { s.tfx with aux := aux }, ctr := ctr, flt := flt }

namespace RecordKept

theorem trans (first : RecordKept c s t) (second : RecordKept c t u) : RecordKept c s u where
  canonical wf := second.canonical (first.canonical wf)
  record wf := (second.record (first.canonical wf)).trans (first.record wf)
  rest := by
    obtain ⟨_, _, _, rfl⟩ := first.rest
    obtain ⟨_, _, _, rfl⟩ := second.rest
    exact ⟨_, _, _, rfl⟩

theorem setAux {v : ConnAux} (record : v.oldRec = (aux c s).oldRec) : RecordKept c s (setAux c v s) where
  canonical wf := storeWf_put wf c v
  record wf := (congrArg ConnAux.oldRec ((look_put wf c c v).trans (if_pos rfl))).trans record
  rest := ⟨_, _, _, rfl⟩

theorem countEvent (e : Ctr) (unit : Nat) (s : State) : RecordKept c s (countEvent e unit s) where
  canonical wf := by rw [countEvent_tfx]; exact wf
  record _ := by rw [aux, countEvent_tfx]; rfl
  rest := ⟨_, _, _, countEvent_frame ..⟩

theorem countSent (ack : Bool) (c epoch : Nat) (s : State) : RecordKept c s (countSent ack c epoch s) := by
  have counted {v : ConnAux} (record : v.oldRec = (aux c s).oldRec) (n : Nat) : RecordKept c s
      (if n = 2 ^ 31 then Machine.countEvent cSeqExhaust (unitConn c) (Machine.setAux c v s) else Machine.setAux c v s) := by
    split
    · exact (setAux record).trans (countEvent ..)
    · exact setAux record
  cases ack with
  | true => exact counted (v := { aux c s with acksSent := (aux c s).acksSent.modify epoch (· + 1) }) rfl _
  | false => exact counted (v := { aux c s with dataSent := (aux c s).dataSent.modify epoch (· + 1) }) rfl _

/-- The addresses of a frame come from the plate, the next hops and the connection's record. -/
theorem frameAddr (kept : RecordKept c s t) (wf : storeWf {} s.tfx.aux = true) : frameAddr p c cls t = frameAddr p c cls s := by
  have old := kept.record wf
  obtain ⟨aux, ctr, flt, rfl⟩ := kept.rest
  have same : connRec c { s with tfx := { s.tfx with aux := aux }, ctr := ctr, flt := flt } = connRec c s := by
    unfold connRec
    rw [show (look {} aux c).oldRec = (look {} s.tfx.aux c).oldRec from old]
    rfl
  unfold Machine.frameAddr
  rw [same]
  rfl

end RecordKept

/-- A connection notes the pass in which it sent an acknowledgement. -/
def ackStamped (c : Nat) (s : State) : State := setAux c { aux c s with ackPass := passNow s } s

/-- An acknowledgement is noted as sent in this pass and counted under its key. -/
def ackNoted (c epoch : Nat) (s : State) : State :=
  countSent true c epoch (ackStamped c (ackSent c s))

theorem ackNoted_kept (c epoch : Nat) (s : State) : RecordKept c s (ackNoted c epoch s) :=
  have sent : RecordKept c s (ackSent c s) := .setAux rfl
  have stamped : RecordKept c (ackSent c s) (ackStamped c (ackSent c s)) := .setAux rfl
  (sent.trans stamped).trans (.countSent ..)

/-- The serial of the connection's acknowledgements rises (R310). -/
def serialRisen (c : Nat) (s : State) : State := setConn c { conn c s with ackSerial := ((conn c s).ackSerial + 1) % seqMod } s

/-- An ACK frame, where the states of connections are canonical: the serial rises, and the frame goes to the peer that the
connection had. -/
theorem startCand_ack_canonical (wf : storeWf {} s.tfx.aux = true) (head : x.head = .ack)
    (keyed : connKey x.conn (conn x.conn s).sendEpoch s = some key) (free : Bool) : ∃ t, startCand p lane x free s = t ∧
      t.tfx.conns = put {} s.tfx.conns x.conn
        { conn x.conn s with ackSerial := ((conn x.conn s).ackSerial + 1) % 4294967296 } ∧
      t.out = s.out ++ [.frame p lane (frameAddr p x.conn 0 s)
        { ackHdr x.conn s with typ := 0x31, op := 2, seq := (conn x.conn s).ackSerial } [] key (overhead s)] ∧
      t.tfx.inbox = s.tfx.inbox ∧ t.dir = s.dir ∧ t.mem = s.mem := by
  have kept := ackNoted_kept x.conn (conn x.conn s).sendEpoch (serialRisen x.conn s)
  have addr := kept.frameAddr (p := p) (cls := 0) wf
  have starts : startCand p lane x free s = putFrame p lane x.conn
      { ackHdr x.conn s with typ := 0x31, op := 2, seq := (conn x.conn s).ackSerial } [] key
      (ackNoted x.conn (conn x.conn s).sendEpoch (serialRisen x.conn s)) := by
    simp only [startCand, head, keyed]
    rfl
  refine ⟨_, starts, ?_⟩
  obtain ⟨aux, ctr, flt, noted⟩ := kept.rest
  generalize ackNoted x.conn (conn x.conn s).sendEpoch (serialRisen x.conn s) = u at addr noted
  subst noted
  refine ⟨rfl, ?_, rfl, rfl, rfl⟩
  exact congrArg (fun addr => s.out ++ [Output.frame p lane addr _ [] key (overhead s)]) addr

/-- Connection 0 is listed twice beside its queues: with an acknowledgement that is ready, and behind that with the record of a
connection that a delta removed. No plate is in force, and the key of position 0 is live. -/
def recordListedTwice : State :=
  { tfx.aux := [(0, { ackReady := true }), (0, { oldRec := some { peerAddr := 5 } })]
    tru.keys := [(0, { rank0 := some 1, live := true })] }

/-- The acknowledgement that is ready. -/
def readyAck : Cand := ⟨0, 0, .ack, 114⟩

/-- The address to which a frame goes. -/
def peerOf : Output → Option Nat
  | .frame _ _ addr .. => some addr.dstIp
  | _ => none

theorem recordListedTwice_keyed : connKey 0 (conn 0 recordListedTwice).sendEpoch recordListedTwice =
    some (BitVec.setWidth 256 (1 : BitVec 512)) := rfl

theorem recordListedTwice_peer : (frameAddr 0 0 0 recordListedTwice).dstIp = 0 := rfl

theorem recordListedTwice_sends : (startCand 0 0 readyAck true recordListedTwice).out.map peerOf = [some 5] := rfl

/-- Refutes O30 by its last clause, the start of an ACK frame. The clause has no premise on the form of the store that holds the
states of connections: in `recordListedTwice` noting the acknowledgement uncovers the second listing, and the frame goes to the
peer of that record and not to the one of the state before. What the clause lacks is the premise that the store is canonical, as
every store that `put` has built is: with it the clause stands (`startCand_ack_canonical`). -/
theorem not_framesOut : ¬ Obligations.FramesOut := by
  unfold Obligations.FramesOut
  rintro ⟨-, -, -, -, acks⟩
  obtain ⟨_, rfl, -, out, -⟩ := acks 0 0 readyAck _ recordListedTwice rfl recordListedTwice_keyed
  have peers := congrArg (List.map peerOf) out
  rw [recordListedTwice_sends] at peers
  have peer : some 5 = some (frameAddr 0 0 0 recordListedTwice).dstIp := (List.cons.inj peers).1
  rw [recordListedTwice_peer] at peer
  exact absurd peer (by decide)

end acks

end Sys2Proof.Proofs

/-! ## The strobe (09_strokes_and_passes.md R241, R248, R249; 10_registration_and_time.md R271) -/

namespace Sys2Proof.Proofs

open Sys2Proof Sys2Proof.Machine Sys2Proof.Safety

/-! ### What ending work leaves

The state without the parts that requests, messages and residency work write when they end, and without the plate's delta and the
RUN phase, which entering hold mode ends too. Every operation below leaves this rest as it is. -/

/-- The state beside what ending work writes: commands, time, directory, ports, keys, start-up, power, and the memories but BAR2. -/
def besideWork (s : State) : State := { s with
  sch := {}, res := {}, tfx := {}, host := {}, gravers := [], plt := {}, tel := {}, ctr := [], out := []
  flt := { lastCode := s.flt.lastCode }, mem.bar2 := [], time.run := 0 }

section work

theorem besideWork_logRecord (r : Record) (s : State) : besideWork (logRecord r s) = besideWork s := ite_leaves rfl rfl

theorem besideWork_countEvent (c : Ctr) (unit : Nat) (s : State) : besideWork (countEvent c unit s) = besideWork s :=
  besideWork_logRecord ..

theorem besideWork_handOver (r : Req) (i : ImprMsg) (s : State) : besideWork (handOver r i s) = besideWork s := by
  have noted : besideWork (noteClosed r s) = besideWork s := ite_leaves rfl rfl
  rw [← noted]
  unfold handOver
  generalize noteClosed r s = t
  dsimp only
  split
  · rw [hostImpr, endCommand_frame, b2Write_frame]
    rfl
  · rw [queueMsg_frame]
    rfl
  · rfl

theorem besideWork_answerEntry (r : Req) (e : ColEntry) (codes : List Nat) (s : State) :
    besideWork (answerEntry r e codes s) = besideWork s := by
  have sent (extra : List Cov) (t : State) : besideWork (sendResult r e extra codes t) = besideWork t :=
    (besideWork_handOver ..).trans (ite_leaves (besideWork_countEvent ..) rfl)
  exact (sent ..).trans (ite_leaves (foldl_leaves (fun _ _ => besideWork_countEvent ..) _ s) rfl)

theorem besideWork_joinArrival (r : Req) (e : ColEntry) (a : Arrival) (bad : List Nat) (s : State) :
    besideWork (joinArrival r e a bad s).2 = besideWork s := by
  have refused (x : ColEntry × State) (a : Arrival) : besideWork (refuseSource r x a).2 = besideWork x.2 :=
    besideWork_countEvent ..
  exact ite_leaves (g := fun x : ColEntry × State => besideWork x.2) rfl <|
    ite_leaves (g := fun x : ColEntry × State => besideWork x.2) (refused (e, s) a)
      (foldl_leaves (g := fun x : ColEntry × State => besideWork x.2) refused _ _)

theorem besideWork_joined (r : Req) (l : List Arrival) (x : ColEntry × State) :
    besideWork (l.foldl (fun x a => joinArrival r x.1 a [] x.2) x).2 = besideWork x.2 :=
  foldl_leaves (g := fun x : ColEntry × State => besideWork x.2) (fun x a => besideWork_joinArrival r x.1 a [] x.2) l x

theorem besideWork_endRequest (status : Nat) (s : State) (r : Req) : besideWork (endRequest status s r) = besideWork s := by
  unfold endRequest
  cases r.phase with
  | taken | answered => rfl
  | checked | lookups => exact (besideWork_answerEntry ..).trans (besideWork_joined ..)
  | dispatched =>
    exact (besideWork_answerEntry ..).trans ((besideWork_joined ..).trans (besideWork_joined ..))

theorem besideWork_endMoveOut (m : MoveOut) (status : Nat) (s : State) : besideWork (endMoveOut m status s) = besideWork s := by
  rw [endMoveOut, settle_frame, finishCmd_frame]
  rfl

theorem besideWork_endOp (o : ResOp) (status : Nat) (s : State) : besideWork (endOp o status s) = besideWork s := by
  obtain ⟨_, ends⟩ := endOp_frame o status s
  rw [ends]
  rfl

theorem besideWork_fenceWork (s : State) : besideWork (fenceWork s) = besideWork s := by
  have posted (t : State) : besideWork (postDrops t) = besideWork t := by
    unfold postDrops
    refine foldl_leaves (fun s d => ?_) _ _
    rfl
  exact (posted _).trans <|
    (foldl_leaves (f := slotAwaits) (fun _ _ => rfl) _ _).trans <|
      (foldl_leaves (fun s o => besideWork_endOp o stFenced s) _ _).trans
        (foldl_leaves (fun s m => besideWork_endMoveOut m stFenced s) _ s)

end work

/-! ### Entering hold mode, and gating -/

section hold

/-- Hold mode with one more cause. -/
def holdCaused (cause : Nat) (s : State) : State :=
  { s with pwr := { s.pwr with hold := true, holdCause := s.pwr.holdCause ||| 2 ^ cause } }

theorem besideWork_holdEffects (s : State) : besideWork (holdEffects s) = besideWork s := by
  have aborted (u : State) : besideWork (abortDelta u) = besideWork u := besideWork_countEvent ..
  have ended (u : State) : besideWork (fenceWork (u.sch.reqs.foldl (endRequest stPageAbsent) u)) = besideWork u :=
    (besideWork_fenceWork _).trans (foldl_leaves (besideWork_endRequest stPageAbsent) _ _)
  unfold holdEffects
  dsimp only
  rw [ended]
  cases s.plt.phase with
  | armed | committed => exact aborted _
  | idle | loaded => rfl

theorem besideWork_enterHold (cause : Nat) (s : State) : besideWork (enterHold cause s) = holdCaused cause (besideWork s) :=
  ite_leaves (g := besideWork) rfl (besideWork_holdEffects _)

theorem besideWork_raiseRecord (code unit : Nat) (args : List Byte) (s : State) :
    besideWork (raiseRecord code unit args s) = { besideWork s with flt.lastCode := code } :=
  besideWork_logRecord ..

/-- The registration is lost: hold mode has cause 5 (10_registration_and_time.md R271). -/
def registrationLost (s : State) : State := holdCaused 5 { s with time.reg := false, flt.lastCode := fRegLoss }

theorem atPass_registrationLost (s : State) : atPass (registrationLost s) = atPass s := rfl

theorem offDue_registrationLost (s : State) : offDue (registrationLost s) = offDue s := rfl

theorem besideWork_registrationLoss {s : State} (registered : s.time.reg = true) :
    besideWork (registrationLoss s) = besideWork (registrationLost s) := by
  unfold registrationLoss
  rw [if_pos registered, raise_hold (code := fRegLoss) rfl, besideWork_enterHold, besideWork_raiseRecord, besideWork_countEvent]
  rfl

theorem besideWork_gateByNode (s : State) : besideWork (gateByNode s) = besideWork s := by
  refine foldl_leaves (fun s g => ?_) _ s
  have gated : besideWork (gateGraver g s) = besideWork s := ite_leaves rfl rfl
  have ungated : besideWork (ungateGraver g s) = besideWork s := ite_leaves rfl rfl
  exact ite_leaves (ite_leaves gated rfl) (ite_leaves ungated rfl)

end hold

/-! ### The end of a stroke and the stroke that opens -/

/-- The state without what the end of a stroke and the opening of one write of themselves: gravers, ports and stacks, the directory's
cycles, the barrier's pin, counts and telemetry. The keys are apart, since frames that latched one may have left (R369). -/
def besideStroke (s : State) : State := { s with
  gravers := [], ports := [], bar := {}, tru := {}, flt := {}, tel := {}, ctr := [], out := []
  sch := { applied := s.sch.applied }, res := { linkUse := s.res.linkUse }
  dir := { s.dir with nodeRanges := [], portRanges := [], patrolCycles := 0, freeCycles := 0 }
  start.nodeStrokes := 0, pwr.stacks8 := [] }

section stroke

theorem besideStroke_countEvent (c : Ctr) (unit : Nat) (s : State) : besideStroke (countEvent c unit s) = besideStroke s := by
  rw [countEvent_frame]
  rfl

theorem besideStroke_departIsland (s : State) (isl : Nat) : besideStroke (departIsland s isl) = besideStroke s :=
  ite_leaves (besideStroke_countEvent ..) (ite_leaves (besideStroke_countEvent ..) rfl)

/-- Writes of keys that waited change the keys alone. -/
theorem writesGo_frame (l : List (Nat × BitVec 512)) (s : State) : writesGo l s = { s with tru := (writesGo l s).tru } := by
  induction l generalizing s with
  | nil => rfl
  | cons w l ih =>
    rw [writesGo]
    split
    next t written =>
      unfold writePos at written
      dsimp only at written
      split at written
      · cases written
      · cases written
        rw [ih]
    next => rw [ih]

theorem endLatches_frame (rest : List KeyLatch) (s : State) : endLatches rest s = { s with tru := (endLatches rest s).tru } := by
  rw [endLatches, writesGo_frame]

theorem releaseRanks_frame (s : State) : releaseRanks s = { s with tru := (releaseRanks s).tru } := by
  unfold releaseRanks
  split
  · rfl
  · rw [endLatches_frame]

theorem besideStroke_releaseRanks (s : State) : besideStroke (releaseRanks s) = besideStroke s := by
  rw [releaseRanks_frame]
  rfl

/-- The pin of the barrier and the output log are all that the end of the master's pulse changes. -/
theorem barrierFalls_frame (s : State) : ∃ bar out, barrierFalls s = { s with bar := bar, out := out } := by
  unfold barrierFalls
  split
  · split
    · unfold driveBarrier
      dsimp only
      split
      · exact ⟨_, _, rfl⟩
      · exact ⟨_, _, rfl⟩
    · exact ⟨_, _, rfl⟩
  · exact ⟨_, _, rfl⟩

theorem besideStroke_portStroke (s : State) (p : Nat) : besideStroke (portStroke s p) = besideStroke s := rfl

theorem besideStroke_telStroke (s : State) : besideStroke (telStroke s) = besideStroke s := rfl

theorem telStroke_tru (s : State) : (telStroke s).tru = s.tru := rfl

theorem portStroke_tru (s : State) (p : Nat) : (portStroke s p).tru = s.tru := rfl

theorem departIsland_tru (s : State) (isl : Nat) : (departIsland s isl).tru = s.tru :=
  ite_leaves (g := State.tru) (countEvent_tru ..) (ite_leaves (g := State.tru) (countEvent_tru ..) rfl)

/-- The stroke on the islands and ports, before the ranks of frames that have left are given back. -/
def strokeRun (s : State) : State :=
  (s.ports.map (·.1)).foldl portStroke (telStroke ((List.range 6).foldl departIsland (heatDelayed s)))

theorem besideStroke_strokeRun (s : State) : besideStroke (strokeRun s) = besideStroke s := by
  rw [strokeRun, foldl_leaves besideStroke_portStroke, besideStroke_telStroke, foldl_leaves besideStroke_departIsland]
  rfl

theorem strokeRun_tru (s : State) : (strokeRun s).tru = s.tru := by
  rw [strokeRun, foldl_leaves portStroke_tru, telStroke_tru, foldl_leaves departIsland_tru]
  rfl

theorem endStroke_eq (s : State) : endStroke s = barrierFalls (releaseRanks (strokeRun s)) := rfl

theorem besideStroke_endStroke (s : State) : besideStroke (endStroke s) = besideStroke s := by
  obtain ⟨_, _, falls⟩ := barrierFalls_frame (releaseRanks (strokeRun s))
  rw [endStroke_eq, falls]
  exact (besideStroke_releaseRanks _).trans (besideStroke_strokeRun s)

/-- With no rank latched a stroke ends with the keys as they were (14_trust_and_isolation.md R369). -/
theorem endStroke_tru {s : State} (unlatched : s.tru.latches = []) : (endStroke s).tru = s.tru := by
  obtain ⟨_, _, falls⟩ := barrierFalls_frame (releaseRanks (strokeRun s))
  have released : releaseRanks (strokeRun s) = strokeRun s := if_pos (by rw [strokeRun_tru, unlatched]; rfl)
  rw [endStroke_eq, falls, released]
  exact strokeRun_tru s

/-- What the strobe itself does to the rest: time moves, and marks of the stroke before are cleared (R241). -/
def strobed (s : State) : State := { s with
  time := { s.time with elapsed := s.time.elapsed + 1, now := if s.time.counting then nextBoundary s.time.now else s.time.now }
  sch := {}, res := {}, fsh.maint := false }

theorem besideStroke_followDemand (s : State) (st : Nat) : besideStroke (followDemand s st) = besideStroke s := rfl

theorem followDemand_tru (s : State) (st : Nat) : (followDemand s st).tru = s.tru := rfl

theorem besideStroke_openCycles (s : State) : besideStroke (openCycles s) = besideStroke s := rfl

theorem openCycles_tru (s : State) : (openCycles s).tru = s.tru := rfl

theorem besideStroke_stageFreeLinks (s : State) : besideStroke (stageFreeLinks s) = besideStroke s := by
  refine foldl_leaves (fun s st => ?_) _ s
  exact ite_leaves rfl rfl

theorem stageFreeLinks_tru (s : State) : (stageFreeLinks s).tru = s.tru := by
  refine foldl_leaves (g := State.tru) (fun s st => ?_) _ s
  exact ite_leaves (g := State.tru) rfl rfl

theorem besideStroke_openStroke (s : State) : besideStroke (openStroke s) = besideStroke (strobed s) := by
  unfold openStroke
  dsimp only
  rw [besideStroke_stageFreeLinks, besideStroke_openCycles, foldl_leaves besideStroke_followDemand]
  rfl

theorem openStroke_tru (s : State) : (openStroke s).tru = s.tru := by
  unfold openStroke
  dsimp only
  rw [stageFreeLinks_tru, openCycles_tru, foldl_leaves followDemand_tru]

/-- The stroke that follows. -/
def nextStroke (s : State) : State := openStroke (endStroke s)

theorem besideStroke_nextStroke (s : State) : besideStroke (nextStroke s) = besideStroke (strobed s) := by
  rw [nextStroke, besideStroke_openStroke]
  exact congrArg strobed (besideStroke_endStroke s)

theorem nextStroke_tru {s : State} (unlatched : s.tru.latches = []) : (nextStroke s).tru = s.tru :=
  (openStroke_tru _).trans (endStroke_tru unlatched)

end stroke

/-! ### The strobe -/

/-- What a view does not lose can be read behind it. -/
theorem read_behind {σ β : Type} (view : σ → σ) (g : σ → β) (kept : ∀ s, g (view s) = g s) {t u : σ}
    (h : view t = view u) : g t = g u :=
  (kept t).symm.trans ((congrArg g h).trans (kept u))

section strobe

variable {s : State} {drift : List (Nat × Nat)}

theorem nextStroke_leaves {β : Type} (g : State → β) (kept : ∀ s, g (besideStroke s) = g s) (s : State) :
    g (nextStroke s) = g (strobed s) :=
  read_behind besideStroke g kept (besideStroke_nextStroke s)

/-- Away from a pass boundary, a power-down and hold mode, a strobe in registration is the next stroke. -/
theorem strobe_runs (registered : drifted drift = false) (running : s.pwr.hold = false) (within : atPass (nextStroke s) = false)
    (on : offDue (nextStroke s) = false) : exec (.strobe drift) s = .next (nextStroke s) := by
  have unheld : (nextStroke s).pwr.hold = false := (nextStroke_leaves (fun t => t.pwr.hold) (fun _ => rfl) s).trans running
  refine congrArg Host.Outcome.next ?_
  unfold nextStroke at unheld within on ⊢
  simp only [execStrobeState, registered, Bool.false_eq_true, if_false, unheld, within, on]

/-- A time base that counts moves to its next stroke boundary. -/
theorem now_strobed (counting : s.time.counting = true) : (strobed s).time.now = (s.time.now / 250 + 1) * 250 := by
  simp only [strobed, counting, if_true, nextBoundary, strokeNs]
  omega

/-- A time base that counts begins a pass every 64 strokes. -/
theorem atPass_counting (counting : s.time.counting = true) (within : (s.time.now / 250 + 1) % 64 ≠ 0) :
    atPass (nextStroke s) = false := by
  rw [nextStroke_leaves atPass (fun _ => rfl), atPass, if_pos (show (strobed s).time.counting = true from counting), strokeNow,
    now_strobed counting, Nat.mul_div_cancel _ (by decide)]
  simpa using within

/-- Before that the strokes strobed take its place. -/
theorem atPass_uncounted (stands : s.time.counting = false) (within : (s.time.elapsed + 1) % 64 ≠ 0) :
    atPass (nextStroke s) = false := by
  rw [nextStroke_leaves atPass (fun _ => rfl), atPass, if_neg (by rw [show (strobed s).time.counting = false from stands]; decide)]
  simpa [strobed] using within

/-- A drift of 2 ticks or more ends in hold mode with cause 5, with the rest of work aside (10_registration_and_time.md R271). -/
theorem strobe_loses (lost : drifted drift = true) (registered : s.time.reg = true) (within : atPass (nextStroke s) = false)
    (on : offDue (nextStroke s) = false) : ∃ t, exec (.strobe drift) s = .next t ∧
      besideWork t = besideWork (registrationLost (nextStroke s)) := by
  have registered : (nextStroke s).time.reg = true := (nextStroke_leaves (fun t => t.time.reg) (fun _ => rfl) s).trans registered
  unfold nextStroke at registered within on ⊢
  generalize opened : openStroke (endStroke s) = u at registered within on ⊢
  have left := besideWork_registrationLoss registered
  have held : (registrationLoss u).pwr.hold = true := read_behind besideWork (fun t => t.pwr.hold) (fun _ => rfl) left
  have gated := (besideWork_gateByNode (registrationLoss u)).trans left
  have within : atPass (gateByNode (registrationLoss u)) = false := by
    rw [read_behind besideWork atPass (fun _ => rfl) gated, atPass_registrationLost, within]
  have on : offDue (gateByNode (registrationLoss u)) = false := by
    rw [read_behind besideWork offDue (fun _ => rfl) gated, offDue_registrationLost, on]
  refine ⟨_, congrArg Host.Outcome.next ?_, gated⟩
  simp only [execStrobeState, opened, lost, if_true, held, within, on, Bool.false_eq_true, if_false]

end strobe

/-! ### What no strobe changes -/

/-- The commands that wait, the strokes strobed, and the memories that keep their bytes without main power. -/
structure Lasting where
  pending : List Instr
  elapsed : Nat
  tier : Mem
  host : Mem

def lasting (s : State) : Lasting := ⟨s.pending, s.time.elapsed, s.mem.tier, s.mem.host⟩

section lasting

theorem lasting_nextStroke (s : State) : lasting (nextStroke s) = { lasting s with elapsed := s.time.elapsed + 1 } :=
  nextStroke_leaves lasting (fun _ => rfl) s

theorem lasting_countEvent (c : Ctr) (unit : Nat) (s : State) : lasting (countEvent c unit s) = lasting s :=
  read_behind besideWork lasting (fun _ => rfl) (besideWork_countEvent ..)

theorem lasting_enterHold (cause : Nat) (s : State) : lasting (enterHold cause s) = lasting s :=
  read_behind besideWork lasting (fun _ => rfl) (u := holdCaused cause s) (besideWork_enterHold ..)

theorem lasting_raise (code unit : Nat) (args : List Byte) (s : State) : lasting (raise code unit args s) = lasting s := by
  have recorded : lasting (raiseRecord code unit args s) = lasting s := by
    rw [raiseRecord_frame]
    rfl
  unfold raise
  split
  · exact (lasting_enterHold ..).trans recorded
  · exact recorded

theorem lasting_registrationLoss (s : State) : lasting (registrationLoss s) = lasting s :=
  ite_leaves ((lasting_raise ..).trans (lasting_countEvent ..)) rfl

theorem lasting_gateByNode (s : State) : lasting (gateByNode s) = lasting s :=
  read_behind besideWork lasting (fun _ => rfl) (besideWork_gateByNode s)

/-! #### The pass boundary -/

theorem lasting_enterBand (st : Nat) (b : Band) (s : State) : lasting (enterBand st b s) = lasting s := by
  cases b with
  | normal => rfl
  | double | throttle => exact lasting_countEvent ..
  | critical | shutdown => exact lasting_raise ..

theorem lasting_bandFalls (s : State) (st : Nat) : lasting (bandFalls s st) = lasting s := by
  unfold bandFalls
  dsimp only
  split
  · exact ite_leaves (lasting_enterBand ..) rfl
  · rfl

theorem lasting_registrationEnds (s : State) : lasting (registrationEnds s) = lasting s := by
  unfold registrationEnds
  split
  · exact ite_leaves rfl rfl
  · rfl

theorem lasting_vinPass (s : State) : lasting (vinPass s) = lasting s :=
  ite_leaves (ite_leaves rfl (lasting_raise ..)) rfl

theorem lasting_powerAverages (second : Bool) (s : State) : lasting (powerAverages second s) = lasting s := ite_leaves rfl rfl

theorem lasting_portPass (s : State) (p : Nat) : lasting (portPass s p) = lasting s := ite_leaves rfl rfl

theorem lasting_returnUnit (s : State) (x : Nat) : lasting (returnUnit s x) = lasting s := by
  unfold returnUnit
  dsimp only
  split <;> rfl

theorem lasting_returnUnits (s : State) : lasting (returnUnits s) = lasting s := foldl_leaves lasting_returnUnit _ _

theorem lasting_telCopy (s : State) : lasting (telCopy s) = lasting s := rfl

theorem lasting_openPass (second : Bool) (s : State) : lasting (openPass second s) = lasting s := by
  unfold openPass
  extract_lets measured _ _ counted fallen passed returned gated
  have measured_lasts : lasting measured = lasting s :=
    (lasting_powerAverages ..).trans ((lasting_vinPass _).trans (lasting_registrationEnds s))
  have fallen_lasts : lasting fallen = lasting s := (foldl_leaves lasting_bandFalls _ counted).trans measured_lasts
  have passed_lasts : lasting passed = lasting s := (foldl_leaves lasting_portPass _ fallen).trans fallen_lasts
  have returned_lasts : lasting returned = lasting s := (lasting_returnUnits passed).trans passed_lasts
  have gated_lasts : lasting gated = lasting s := ite_leaves ((lasting_gateByNode _).trans returned_lasts) returned_lasts
  exact ite_leaves ((lasting_telCopy gated).trans gated_lasts) gated_lasts

/-! #### The cut -/

theorem lasting_tdiError (running : Bool) (s : State) (vf : Nat) : lasting (tdiError running s vf) = lasting s := by
  have scrubbed (tenant : Bool) (id : Nat) (running : Bool) (s : State) :
      lasting (startScrub tenant id running s) = lasting s := by
    unfold startScrub
    split
    · exact ite_leaves rfl rfl
    · rfl
  unfold tdiError
  split
  · exact ite_leaves (scrubbed ..) (scrubbed ..)
  · exact ite_leaves (scrubbed ..) (scrubbed ..)
  · rfl
  · rfl

theorem lasting_cutKeys (s : State) : lasting (cutKeys s) = lasting s := by
  have ends : lasting ((assignedParts s).foldl (tdiError false) s) = lasting s := foldl_leaves (lasting_tdiError false) _ s
  exact ite_leaves ends ((lasting_countEvent ..).trans ends)

theorem lasting_mainOff (s : State) : lasting (mainOff s) = lasting s := rfl

theorem lasting_performCut (thermal : Bool) (s : State) : lasting (performCut thermal s) = lasting s := by
  have counted : lasting (if thermal = true then tally cShutdown s else s) = lasting s := ite_leaves rfl rfl
  exact (lasting_mainOff _).trans ((lasting_cutKeys _).trans counted)

/-- Every strobe moves the strokes on by one, and changes nothing else of what lasts. -/
theorem lasting_strobe (drift : List (Nat × Nat)) (s : State) :
    lasting (execStrobeState drift s) = { lasting s with elapsed := s.time.elapsed + 1 } := by
  unfold execStrobeState
  extract_lets opened registered gated passed
  have opened_lasts : lasting opened = { lasting s with elapsed := s.time.elapsed + 1 } := lasting_nextStroke s
  have registered_lasts : lasting registered = { lasting s with elapsed := s.time.elapsed + 1 } :=
    ite_leaves ((lasting_registrationLoss opened).trans opened_lasts) opened_lasts
  have gated_lasts : lasting gated = { lasting s with elapsed := s.time.elapsed + 1 } :=
    ite_leaves ((lasting_gateByNode registered).trans registered_lasts) registered_lasts
  have passed_lasts : lasting passed = { lasting s with elapsed := s.time.elapsed + 1 } :=
    ite_leaves ((lasting_openPass (atSecond gated) gated).trans gated_lasts) gated_lasts
  exact ite_leaves ((lasting_performCut ..).trans passed_lasts) passed_lasts

end lasting

/-- Settles O51: a strobe within a pass is the next stroke, one that finds a drift ends in hold mode, and what lasts no strobe
changes. -/
theorem strobeAndTime : Obligations.StrobeAndTime := by
  unfold Obligations.StrobeAndTime
  refine ⟨?_, ?_, ?_, ?_⟩
  · intro s counting within running on
    have rest {β : Type} (g : State → β) (kept : ∀ s, g (besideStroke s) = g s) := nextStroke_leaves g kept s
    refine ⟨_, strobe_runs rfl running (atPass_counting counting within) on, rest (·.time.elapsed) fun _ => rfl, ?_,
      rest (·.sch.applied) fun _ => rfl, rest (·.res.linkUse) fun _ => rfl, rest (·.mem) fun _ => rfl,
      rest (·.dir.entries) fun _ => rfl, rest (·.dir.extents) fun _ => rfl, nextStroke_tru, rest (·.host) fun _ => rfl,
      rest (·.fsh.maint) fun _ => rfl⟩
    exact (rest (·.time.now) fun _ => rfl).trans (now_strobed counting)
  · intro s stands within running on
    have rest {β : Type} (g : State → β) (kept : ∀ s, g (besideStroke s) = g s) := nextStroke_leaves g kept s
    refine ⟨_, strobe_runs rfl running (atPass_uncounted stands within) on, rest (·.time.elapsed) fun _ => rfl, ?_,
      rest (·.mem) fun _ => rfl, nextStroke_tru, rest (·.host) fun _ => rfl⟩
    exact (rest (·.time.now) fun _ => rfl).trans (by simp [strobed, stands])
  · intro i n s island far counting within registered on _
    have lost : drifted [(i, n)] = true := by simp [drifted, island, far]
    obtain ⟨t, strobes, left⟩ := strobe_loses lost registered (atPass_counting counting within) on
    have rest {β : Type} (g : State → β) (kept : ∀ s, g (besideWork s) = g s) := read_behind besideWork g kept left
    refine ⟨t, strobes, rest (·.time.reg) fun _ => rfl, rest (·.pwr.hold) fun _ => rfl, ?_, rest (·.flt.lastCode) fun _ => rfl⟩
    rw [rest (·.pwr.holdCause) fun _ => rfl]
    exact (Nat.testBit_or ..).trans (by rw [Nat.testBit_two_pow_self, Bool.or_true])
  · intro drift s
    have lasts := lasting_strobe drift s
    exact ⟨_, rfl, congrArg Lasting.elapsed lasts, congrArg Lasting.pending lasts, congrArg Lasting.tier lasts,
      congrArg Lasting.host lasts⟩

end Sys2Proof.Proofs

/-! ## Registration and time (10_registration_and_time.md) -/

namespace Sys2Proof.Proofs

open Sys2Proof Sys2Proof.Machine Sys2Proof.Safety

/-! ### PPS edges (R263 to R267) -/

section edges

variable {x f sec interval : Nat} {s : State}

theorem ppsEdge_glitches (counting : s.time.counting = true) :
    exec (.ppsEdge x false) s = .next (countEvent cPpsGlitch unitNode s) := by
  refine congrArg Host.Outcome.next ?_
  simp [execPpsEdgeState, counting]

theorem ppsEdge_begins (counting : s.time.counting = true) (free : s.time.lock = .free) :
    exec (.ppsEdge x true) s = .next { s with time.lock := .acquiring, time.firstEdge := some x } := by
  refine congrArg Host.Outcome.next ?_
  simp [execPpsEdgeState, counting, free]

/-- The second edge of an acquisition comes within 150,000 ticks of one second after the first (R264). -/
abbrev intervalFits (f x : Nat) : Prop := f + unitsPerSec ≤ x + acquireWindow ∧ x ≤ f + unitsPerSec + acquireWindow

/-- The second edge of an acquisition locks the node, or is the first edge of another one. -/
theorem ppsEdge_second (counting : s.time.counting = true) (acquiring : s.time.lock = .acquiring)
    (first : s.time.firstEdge = some f) : exec (.ppsEdge x true) s =
      .next (if intervalFits f x then acquire x (x - f) s else { s with time.firstEdge := some x }) := by
  refine congrArg Host.Outcome.next ?_
  simp [execPpsEdgeState, counting, acquiring, first]

/-- An edge that comes while the node is locked is a mark, or is rejected. -/
theorem ppsEdge_locked (counting : s.time.counting = true) (locked : s.time.lock = .locked) : exec (.ppsEdge x true) s =
    .next (if (phaseError x (nearestSecond x s) s).natAbs ≤ markWindow ∧ s.time.markedSecond ≠ some (nearestSecond x s) then
      registrationMark x (nearestSecond x s) s else countEvent cPpsReject unitNode s) := by
  refine congrArg Host.Outcome.next ?_
  simp [execPpsEdgeState, counting, locked]

/-- With no count set, a mark keeps the count of its second. -/
theorem takeCount_unset (unset : s.time.setCount = none) : takeCount sec s = (sec, s) := by
  unfold takeCount
  rw [unset]

/-! #### Acquisition (R264) -/

/-- The whole second on which an acquisition puts its second edge: the first whose expected sample is not below the edge's. -/
def acquiredSecond (x : Nat) (s : State) : Nat := ceilDiv (x - s.time.ppsDelay) unitsPerSec

/-- The ticks by which the time base steps forward to that second. -/
def acquireShift (x : Nat) (s : State) : Nat := (expectedSample (acquiredSecond x s) s - x) / unitsPerNs

/-- With no count set, an acquisition changes the time state alone, and the time base moves by the step (R264). -/
theorem acquire_unset (unset : s.time.setCount = none) :
    let t := acquire x interval s
    t = { s with time := t.time } ∧ t.time.lock = .locked ∧ t.time.pllInterval = interval ∧
      t.time.now = s.time.now + acquireShift x s := by
  unfold acquire
  simp [takeCount_unset, stepTime, unset, acquireShift, acquiredSecond]

/-- The step leaves the sample less than a tick below the expected one. -/
theorem acquireShift_reaches (late : s.time.ppsDelay ≤ x) :
    x + 8 * acquireShift x s ≤ expectedSample (acquiredSecond x s) s ∧
      expectedSample (acquiredSecond x s) s < x + 8 * acquireShift x s + 8 := by
  simp only [acquireShift, expectedSample, acquiredSecond, ceilDiv, unitsPerSec, unitsPerNs]
  omega

/-! #### Registration marks (R265) -/

/-- A sample within 1 µs of a second's expected sample is nearest to that second. -/
theorem nearestSecond_within (above : expectedSample sec s ≤ x + markWindow) (below : x ≤ expectedSample sec s + markWindow) :
    nearestSecond x s = sec := by
  simp only [expectedSample, nearestSecond, unitsPerSec, markWindow] at *
  omega

theorem phaseError_within (above : expectedSample sec s ≤ x + markWindow) (below : x ≤ expectedSample sec s + markWindow) :
    (phaseError x sec s).natAbs ≤ markWindow := by
  simp only [phaseError, markWindow] at *
  omega

theorem ppsEdge_marks (counting : s.time.counting = true) (locked : s.time.lock = .locked)
    (fresh : s.time.markedSecond ≠ some sec) (above : expectedSample sec s ≤ x + markWindow)
    (below : x ≤ expectedSample sec s + markWindow) : exec (.ppsEdge x true) s = .next (registrationMark x sec s) := by
  rw [ppsEdge_locked counting locked, nearestSecond_within above below, if_pos ⟨phaseError_within above below, fresh⟩]

theorem ppsEdge_rejected (counting : s.time.counting = true) (locked : s.time.lock = .locked)
    (stray : 8000 < (phaseError x (nearestSecond x s) s).natAbs ∨ s.time.markedSecond = some (nearestSecond x s)) :
    exec (.ppsEdge x true) s = .next (countEvent cPpsReject unitNode s) := by
  rw [ppsEdge_locked counting locked, if_neg]
  rintro ⟨near, fresh⟩
  exact stray.elim (Nat.not_lt.mpr near) fresh

/-- With no count set, a mark changes the time state alone, and the count is its own second's. -/
theorem registrationMark_unset (unset : s.time.setCount = none) :
    let t := registrationMark x sec s
    t = { s with time := t.time } ∧ t.time.mark = x / 8 ∧ t.time.lastErr = phaseError x sec s ∧
      t.time.slew = t.time.lastErr ∧ t.time.missing = 0 ∧ t.time.lock = .locked ∧ t.time.now = s.time.now ∧
      t.time.markedSecond = some sec := by
  unfold registrationMark
  rw [takeCount_unset unset]
  simp

end edges

/-- Settles O3: a glitch, the first edge, and the second one inside and outside its window, by the lemma above for each. -/
theorem ppsEdgeAcquires : Obligations.PpsEdgeAcquires := by
  unfold Obligations.PpsEdgeAcquires
  refine ⟨?_, ?_, ?_, ?_⟩
  · intro x s counting
    exact ppsEdge_glitches counting
  · intro x s counting free
    exact ppsEdge_begins counting free
  · intro x f s counting acquiring first unset early late delayed
    have locks : exec (.ppsEdge x true) s = .next (acquire x (x - f) s) := by
      rw [ppsEdge_second counting acquiring first, if_pos ⟨early, late⟩]
    obtain ⟨below, above⟩ := acquireShift_reaches delayed
    obtain ⟨frame, lock, measured, now⟩ := acquire_unset (x := x) (interval := x - f) unset
    refine ⟨_, acquiredSecond x s, locks, frame, lock, measured, ?_, ?_, ?_⟩
    · exact now ▸ Nat.le_add_right ..
    · rw [now, Nat.add_sub_cancel_left]; exact below
    · rw [now, Nat.add_sub_cancel_left]; exact above
  · intro x f s counting acquiring first outside
    rw [ppsEdge_second counting acquiring first, if_neg]
    rintro ⟨early, late⟩
    exact outside.elim (Nat.not_lt.mpr early) (Nat.not_lt.mpr late)

/-! ### Phase steps (R265) -/

section steps

variable {s : State}

/-- At most `n` units come off an error, and its sign stays. -/
theorem slewBy_reduces (n : Nat) (e : Int) :
    (slewBy n e).natAbs = e.natAbs - n ∧ (0 ≤ e → 0 ≤ slewBy n e) ∧ (e ≤ 0 → slewBy n e ≤ 0) := by
  unfold slewBy
  split <;> omega

/-- The state after the phase step of a pass. -/
def phaseStepped (s : State) : State := markApplied islTime 0x10002 { s with time.slew := slewBy 8 s.time.slew }

theorem phaseStep_steps (stroke : strokeNow s = 63) (error : s.time.slew ≠ 0)
    (fresh : s.sch.applied.contains (islTime, 0x10002) = false) : exec .phaseStep s = .next (phaseStepped s) := by
  refine congrArg Host.Outcome.next (if_pos ⟨stroke, error, ?_⟩)
  rw [fresh, Bool.not_false]

/-- A pass has one phase step. -/
theorem phaseStep_once (done : s.sch.applied.contains (islTime, 0x10002) = true) : exec .phaseStep s = .next s := by
  refine congrArg Host.Outcome.next (if_neg ?_)
  rintro ⟨-, -, fresh⟩
  simp only [done, Bool.not_true, Bool.false_eq_true] at fresh

end steps

/-- Settles O4: the mark, the rejected edge and the phase step, by the lemma above for each. -/
theorem registrationMark : Obligations.RegistrationMark := by
  unfold Obligations.RegistrationMark
  refine ⟨?_, ?_, ?_⟩
  · intro x sec s counting locked unset fresh above below
    exact ⟨_, ppsEdge_marks counting locked fresh above below, registrationMark_unset unset⟩
  · intro x s counting locked stray
    exact ppsEdge_rejected counting locked stray
  · intro s stroke error fresh
    obtain ⟨size, positive, negative⟩ := slewBy_reduces 8 s.time.slew
    refine ⟨_, phaseStep_steps stroke error fresh, size, positive, negative, rfl, phaseStep_once ?_⟩
    simp [phaseStepped]

/-! ### Missing marks and the whole-second count (R266, R268) -/

section seconds

variable {l : Nat} {s : State}

/-- The state after the window of second `l` has passed without a mark, before any fault. -/
def markMissed (l : Nat) (s : State) : State :=
  { s with time.lock := .holdover, time.missing := min 0xFF (s.time.missing + 1), time.lastSecond := some l }

/-- Locked or in holdover, a second whose window has passed counts as missing, and the eighth raises PPS_LOST (R266, R267). -/
theorem markMissing_counts (watching : s.time.lock = .locked ∨ s.time.lock = .holdover) (last : s.time.lastSecond = some l)
    (past : expectedSample (l + 1) s + (if s.time.lock = .holdover then holdWindow else markWindow) < s.time.now * unitsPerNs) :
    exec .markMissing s = .next (if (markMissed (l + 1) s).time.missing = 8 then
      raise fPpsLost unitNode [] (markMissed (l + 1) s) else markMissed (l + 1) s) := by
  refine congrArg Host.Outcome.next ?_
  rcases watching with locked | holdover
  · simp only [execMarkMissingState, locked, last] at past ⊢
    exact if_pos past
  · simp only [execMarkMissingState, holdover, last] at past ⊢
    exact if_pos past

/-- With no count set, SET_SECONDS sets TIM_SECONDS for the next mark. -/
theorem setSeconds_first (unset : countSet s = false) :
    exec .setSeconds s = .next { s with time.setCount := some s.time.seconds } := by
  refine congrArg Host.Outcome.next ?_
  simp [execSetSecondsState, secondsConflict, setCountTo, unset]

/-- Once a count is set, another one is ignored outside hold mode. -/
theorem setSeconds_conflict (set : countSet s = true) (other : s.time.seconds ≠ countInForce s) (service : s.pwr.hold = false) :
    exec .setSeconds s = .next (countEvent cBarBad unitNode s) := by
  refine congrArg Host.Outcome.next (if_pos ?_)
  simp [secondsConflict, set, other, service]

end seconds

/-- Settles O5: a missing mark and a setting of the count, by the lemma above for each. -/
theorem holdoverAndCount : Obligations.HoldoverAndCount := by
  unfold Obligations.HoldoverAndCount
  refine ⟨?_, ?_, ?_, ?_⟩
  · intro l s locked last past few
    have missing : (markMissed (l + 1) s).time.missing = s.time.missing + 1 := Nat.min_eq_right (by omega)
    rw [markMissing_counts (.inl locked) last (by rw [locked]; exact past), if_neg (by omega), ← missing]
    rfl
  · intro l s holdover last past seven
    have eighth : markMissed (l + 1) s = { s with time.missing := 8, time.lastSecond := some (l + 1) } := by
      simp [markMissed, seven, ← holdover]
    rw [markMissing_counts (.inr holdover) last (by rw [holdover]; exact past), eighth, if_pos rfl]
  · intro s never unset
    exact setSeconds_first (by simp [countSet, never, unset])
  · intro s set service unset marked other
    refine setSeconds_conflict (by simp [countSet, set]) ?_ service
    obtain ⟨l, last⟩ := Option.ne_none_iff_exists'.mp marked
    simp only [countInForce, unset, last] at other ⊢
    simp only [ne_eq, Option.some.injEq] at other
    omega

/-! ### Island registration (R270) -/

section registration

variable {p m : Nat} {dest : Option Nat} {s : State}

/-- The pulse of a registration that is due goes out at a pass boundary. -/
structure PulseGoes (s : State) : Prop where
  due : regDue s = true
  boundary : strokeNow s = 0
  reached : s.bar.regPass ≤ passNow s

/-- Without REREG a registration does not step the time base. -/
theorem reregStep_unwanted (unwanted : s.bar.regWanted = false) : reregStep dest s = s := by
  unfold reregStep
  split
  · simp [unwanted]
  · rfl

/-- In stage 5 of start-up a registration is due once the time base is locked. -/
theorem regDue_stage5 (stage : s.start.stage = 5) (first : s.bar.registered = false) (idle : s.bar.regEnd = none)
    (locked : s.time.lock = .locked) : regDue s = true := by
  simp [regDue, stage, first, idle, locked]

/-- The state in which a registration whose echoes were all in time is under way, for two passes from its pulse. -/
def registrationRuns (s : State) : State := { s with time.reg := false, bar.regEnd := some (passNow s + 2) }

/-- The state after a pulse that some island has not answered in time: the node tries again at the next pass boundary, and
after the third failure 1,000 passes on. -/
def attemptFailed (m : Nat) (s : State) : State :=
  { s with
    out := s.out ++ [.registrationPulse]
    time.reg := false
    time.regFailMask := m % 2 ^ 18
    bar.regTries := min 3 (s.bar.regTries + 1)
    bar.regPass := passNow s + (if 3 ≤ s.bar.regTries + 1 then 1000 else 1) }

/-- The stall of stage 5 for its registration (15_start_power_cooling.md R394). -/
def stage5Stalled (s : State) : State := if s.start.stage = 5 then { s with start.stalled := true, start.cause := 8 } else s

/-- A pulse is followed by the two passes of a registration, by a further attempt, or by the stall after the third. -/
theorem registration_pulses (goes : PulseGoes s) : exec (.registration m dest) s = .next
    (if m % 2 ^ 18 = 0 then registrationRuns (reregStep dest (emit .registrationPulse s))
    else if 3 ≤ s.bar.regTries + 1 then countEvent cRegFail unitNode (stage5Stalled (attemptFailed m s))
    else attemptFailed m s) := by
  obtain ⟨due, boundary, reached⟩ := goes
  exact congrArg Host.Outcome.next (if_pos (by simp [due, boundary, reached]))

theorem registration_succeeds (goes : PulseGoes s) (echoes : m % 2 ^ 18 = 0) (unwanted : s.bar.regWanted = false) :
    exec (.registration m dest) s = .next (registrationRuns (emit .registrationPulse s)) := by
  rw [registration_pulses goes, if_pos echoes, reregStep_unwanted (s := emit _ _) unwanted]

theorem registration_fails (goes : PulseGoes s) (late : m % 2 ^ 18 ≠ 0) (early : s.bar.regTries < 2) :
    exec (.registration m dest) s = .next (attemptFailed m s) := by
  rw [registration_pulses goes, if_neg late, if_neg (by omega)]

theorem registration_stalls (goes : PulseGoes s) (late : m % 2 ^ 18 ≠ 0) (third : s.bar.regTries = 2)
    (stage : s.start.stage = 5) : exec (.registration m dest) s = .next
      (countEvent cRegFail unitNode { attemptFailed m s with start.stalled := true, start.cause := 8 }) := by
  have stalls : stage5Stalled (attemptFailed m s) = _ := if_pos stage
  rw [registration_pulses goes, if_neg late, if_pos (by omega), stalls]

theorem rereg_held (held : s.pwr.hold = true) : exec .rereg s =
    .next { s with bar.regWanted := true, bar.regTries := 0, bar.regPass := passNow s + 1 } :=
  congrArg Host.Outcome.next (if_pos held)

theorem rereg_serving (serving : s.pwr.hold = false) : exec .rereg s = .next s :=
  congrArg Host.Outcome.next (if_neg (by simp [serving]))

/-- Where start-up has not stalled for it and REREG did not ask for it, the end of a registration touches REG alone. -/
theorem endRegistration_unstalled (unwanted : s.bar.regWanted = false) (unstalled : s.start.cause ≠ 8) :
    endRegistration s = { s with
      time.reg := true, time.regFailMask := 0, bar.regEnd := none, bar.regTries := 0, bar.registered := true } := by
  have notFive : (s.start.stage == 5 && s.start.cause == 8) = false := by simp [unstalled]
  simp [endRegistration, notFive, unwanted]

theorem registrationEnds_due (under : s.bar.regEnd = some p) (due : p ≤ passNow s) :
    registrationEnds s = endRegistration s := by
  unfold registrationEnds
  rw [under]
  exact if_pos due

theorem registrationEnds_early (under : s.bar.regEnd = some p) (early : passNow s < p) : registrationEnds s = s := by
  unfold registrationEnds
  rw [under]
  exact if_neg (Nat.not_le.mpr early)

end registration

/-- Settles O6: an attempt that succeeds, fails or stalls, REREG, and the end of a registration, by the lemma above for each. -/
theorem islandRegistration : Obligations.IslandRegistration := by
  unfold Obligations.IslandRegistration
  refine ⟨?_, ?_, ?_, ?_, ?_, ?_, ?_⟩
  · intro m dest s echoes stage first idle locked unwanted boundary reached
    exact registration_succeeds ⟨regDue_stage5 stage first idle locked, boundary, reached⟩ echoes unwanted
  · intro m dest s late due boundary reached early
    have tries : min 3 (s.bar.regTries + 1) = s.bar.regTries + 1 := by omega
    rw [registration_fails ⟨due, boundary, reached⟩ late early, attemptFailed, tries, if_neg (by omega)]
    rfl
  · intro m dest s late stage due boundary reached third
    refine ⟨_, registration_stalls ⟨due, boundary, reached⟩ late third stage, ?_, ?_, ?_, ?_, ?_,
      ctrGet_countEvent _ _ _ (by decide)⟩
    · rw [countEvent_bar]; simp [attemptFailed, third, passNow]
    · rw [countEvent_start]
    · rw [countEvent_start]
    · rw [countEvent_time]; rfl
    · rw [countEvent_time]; rfl
  · intro s held
    exact rereg_held held
  · intro s serving
    exact rereg_serving serving
  · intro p s under due unwanted unstalled
    rw [registrationEnds_due under due, endRegistration_unstalled unwanted unstalled]
  · intro p s under early
    exact registrationEnds_early under early

/-! ### Barriers (R273 to R276) -/

section barriers

variable {c p x : Nat} {b : Barrier} {m : InMsg} {s : State}

/-! #### A barrier is judged (R275) -/

/-- A barrier with no relays left, or a node with no connection to another, sends nothing on. -/
theorem relayBarrier_none (alone : b.hops = 0 ∨ nodeConns s = []) : relayBarrier b s = s := by
  unfold relayBarrier
  rcases alone with last | lone
  · exact if_pos last
  · simp [lone]

/-- A barrier without seconds, in time and with a new identifier, is pending at a node that does not run and has nobody to relay
it to. -/
theorem takeBarrier_pends (waiting : s.time.run ≠ 2) (early : passNow s + 2 ≤ b.startPass) (plain : b.setSeconds = false)
    (new : s.bar.pendingId < b.id) (alone : b.hops = 0 ∨ nodeConns s = []) :
    takeBarrier b s = pendBarrier b.startPass b.id s := by
  have good : barrierBad b s = false := by simp [barrierBad, waiting, plain, Nat.not_lt.mpr early]
  have passed : takeBarrier b s = relayBarrier b (pendBarrier b.startPass b.id s) := by
    simp [takeBarrier, good, plain, Nat.not_le.mpr new]
  exact passed.trans (relayBarrier_none alone)

theorem takeBarrier_late (late : b.startPass < passNow s + 2) : takeBarrier b s = countEvent cBarBad unitNode s := by
  unfold takeBarrier
  exact if_pos (by simp [barrierBad, late])

/-- An identifier is a word of 32 bits. -/
theorem pendBarrier_word {pass id : Nat} (word : id < 4294967296) :
    pendBarrier pass id s = { s with time.run := 1, bar.pendingPass := some pass, bar.pendingId := id } := by
  unfold pendBarrier
  rw [Nat.mod_eq_of_lt (by exact word)]

/-- The barrier that TIM_BARRIER describes. -/
def ownBarrier (s : State) : Barrier := ⟨s.bar.startPass, s.bar.nextId, s.bar.hops, false, (plate s).nodeId, 0⟩

theorem timCtrlBarrier_issues (noPin : s.bar.pin = false) : exec .timCtrlBarrier s = .next (takeBarrier (ownBarrier s) s) :=
  congrArg Host.Outcome.next (if_neg (by simp [noPin]))

theorem timCtrlBarrier_pin (pin : s.bar.pin = true) :
    exec .timCtrlBarrier s = .next { s with bar.pinPass := some (passNow s + 1) } :=
  congrArg Host.Outcome.next (if_pos pin)

/-! #### The pins (R276) -/

/-- The level that BARRIER_OUT takes: the master's pulse or, with REPEAT, the level of BARRIER_IN. -/
def barrierLevel (s : State) : Bool := s.bar.outLow.isSome || (s.bar.repeat_ && s.bar.barrierIn)

theorem driveBarrier_frame (s : State) :
    driveBarrier s = { s with bar.barrierOut := barrierLevel s, out := (driveBarrier s).out } := by
  by_cases stands : barrierLevel s = s.bar.barrierOut
  · have driven : driveBarrier s = s := if_pos stands
    rw [driven, stands]
  · have driven : driveBarrier s = emit (.barrierOut (barrierLevel s)) { s with bar.barrierOut := barrierLevel s } :=
      if_neg stands
    rw [driven]
    rfl

/-- The stroke of its pass in which a sample of BARRIER_IN falls, the delay of its cable taken off. -/
abbrev barrierStroke (x : Nat) (s : State) : Nat := (x - s.time.barDelay) / 8 / 250 % 64

theorem sampleBarrier_within (from32 : 32 ≤ barrierStroke x s) (to47 : barrierStroke x s ≤ 47) : sampleBarrier x s =
    pendBarrier ((x - s.time.barDelay) / 8 / 16000 + 64) (s.bar.pendingId + 1) s :=
  if_pos ⟨from32, to47⟩

theorem sampleBarrier_outside (outside : barrierStroke x s < 32 ∨ 47 < barrierStroke x s) :
    sampleBarrier x s = countEvent cBarBad unitNode s := by
  refine if_neg ?_
  rintro ⟨from32, to47⟩
  exact outside.elim (Nat.not_lt.mpr from32) (Nat.not_lt.mpr to47)

/-- Neither outcome of a sample moves BARRIER_OUT. -/
theorem sampleBarrier_barrierOut (x : Nat) (s : State) : (sampleBarrier x s).bar.barrierOut = s.bar.barrierOut := by
  by_cases within : 32 ≤ barrierStroke x s ∧ barrierStroke x s ≤ 47
  · rw [sampleBarrier_within within.1 within.2]
    rfl
  · rw [sampleBarrier_outside (by omega), countEvent_bar]

/-- The state in which BARRIER_IN has its new level and a node with REPEAT has copied it. -/
def barrierInMoved (rising : Bool) (s : State) : State := driveBarrier { s with bar.barrierIn := rising }

theorem barrierInEdge_rises : exec (.barrierInEdge ⟨true, x⟩) s = .next (sampleBarrier x (barrierInMoved true s)) := rfl

theorem barrierInEdge_falls : exec (.barrierInEdge ⟨false, x⟩) s = .next (barrierInMoved false s) := rfl

theorem barrierInMoved_frame (rising : Bool) (s : State) : barrierInMoved rising s =
    { s with
      bar.barrierIn := rising
      bar.barrierOut := s.bar.outLow.isSome || (s.bar.repeat_ && rising)
      out := (barrierInMoved rising s).out } :=
  driveBarrier_frame _

theorem barrierInMoved_time (rising : Bool) (s : State) : (barrierInMoved rising s).time = s.time := by
  rw [barrierInMoved_frame]

theorem barrierInMoved_repeats (rising : Bool) (copies : s.bar.repeat_ = true) (noPulse : s.bar.outLow = none) :
    (barrierInMoved rising s).bar.barrierOut = rising := by
  rw [barrierInMoved_frame]
  simp [copies, noPulse]

/-- The state in which the pin master drives its pulse of 16 strokes. -/
def pulseDriven (s : State) : State :=
  { s with
    bar.pinPass := none
    bar.barrierOut := true
    bar.outLow := some (s.time.elapsed + 16)
    out := s.out ++ [.barrierOut true] }

theorem barrierOutPulse_drives (own : s.bar.pinPass = some (passNow s)) (stroke : strokeNow s = 32)
    (low : s.bar.barrierOut = false) :
    exec .barrierOutPulse s = .next (sampleBarrier (s.time.now * 8) (pulseDriven s)) := by
  refine congrArg Host.Outcome.next ?_
  simp only [execBarrierOutPulseState, own, stroke, and_self, if_true]
  simp [driveBarrier, low, emit, pulseDriven]

/-! #### The start (R273) -/

/-- A pending barrier whose START_PASS has come, at a pass boundary. -/
structure StartReached (p : Nat) (s : State) : Prop where
  pending : s.bar.pendingPass = some p
  run : s.time.run = 1
  boundary : strokeNow s = 0
  reached : p ≤ passNow s

/-- The barrier starts the plate, or is missed. -/
theorem barrierStart_reached (start : StartReached p s) : exec .barrierStart s = .next
    (if s.time.reg && timState s == 2 && !s.pwr.hold then { s with bar.pendingPass := none, time.run := 2 }
    else countEvent cBarLate unitNode { s with bar.pendingPass := none, time.run := 0 }) := by
  obtain ⟨pending, run, boundary, reached⟩ := start
  refine congrArg Host.Outcome.next ?_
  unfold execBarrierStartState
  rw [pending]
  exact if_pos ⟨run, boundary, reached⟩

theorem timState_locked (locked : s.time.lock = .locked) (settled : s.time.settling = false) : timState s = 2 := by
  simp [timState, locked, settled]

/-! #### A barrier that comes as a message (R275) -/

theorem barrier_refused (waits : inboxFind c tBarrier false s = some m) (host : (connRec c s).requester = true) :
    exec (.barrier c) s = .next (taken c m s) := by
  refine congrArg Host.Outcome.next ?_
  simp only [execBarrierState, waits]
  exact if_pos host

theorem barrier_malformed (waits : inboxFind c tBarrier false s = some m) (node : (connRec c s).requester = false)
    (bad : readBarrier m.body = none) : exec (.barrier c) s = .next (countEvent cBarBad unitNode (taken c m s)) := by
  refine congrArg Host.Outcome.next ?_
  simp only [execBarrierState, waits, bad]
  exact if_neg (Bool.eq_false_iff.mp node)

theorem barrier_read (waits : inboxFind c tBarrier false s = some m) (node : (connRec c s).requester = false)
    (good : readBarrier m.body = some b) : exec (.barrier c) s = .next (takeBarrier b (taken c m s)) := by
  refine congrArg Host.Outcome.next ?_
  simp only [execBarrierState, waits, good]
  exact if_neg (Bool.eq_false_iff.mp node)

end barriers

/-- Settles O7: the barrier of a register write, the pins, and the start, by the lemma above for each. -/
theorem barrierChecks : Obligations.BarrierChecks := by
  unfold Obligations.BarrierChecks
  refine ⟨?_, ?_, ?_, ?_, ?_, ?_, ?_, ?_, ?_, ?_⟩
  · intro s noPin waiting early new word lone
    rw [timCtrlBarrier_issues noPin, takeBarrier_pends waiting early rfl new (.inr lone)]
    exact congrArg Host.Outcome.next (pendBarrier_word word)
  · intro s noPin late
    rw [timCtrlBarrier_issues noPin, takeBarrier_late late]
  · intro s pin
    exact timCtrlBarrier_pin pin
  · intro s own stroke low
    exact barrierOutPulse_drives own stroke low
  · intro x s from32 to47
    rw [← barrierInMoved_time true s] at from32 to47
    have pends : exec (.barrierInEdge ⟨true, x⟩) s = _ :=
      barrierInEdge_rises.trans (congrArg Host.Outcome.next (sampleBarrier_within from32 to47))
    rw [barrierInMoved_frame] at pends
    exact ⟨_, pends, rfl, rfl, rfl⟩
  · intro x s outside
    rw [← barrierInMoved_time true s] at outside
    rw [barrierInEdge_rises, sampleBarrier_outside outside]
    rfl
  · intro p s pending run boundary reached registered locked settled service
    rw [barrierStart_reached ⟨pending, run, boundary, reached⟩, if_pos]
    simp [registered, timState_locked locked settled, service]
  · intro p s pending run boundary reached missed
    rw [barrierStart_reached ⟨pending, run, boundary, reached⟩, if_neg]
    rcases missed with lost | held
    · simp [lost]
    · simp [held]
  · intro x s
    exact barrierInEdge_falls
  · intro rising x s copies noPulse
    cases rising
    · exact ⟨_, barrierInEdge_falls, barrierInMoved_repeats false copies noPulse⟩
    · exact ⟨_, barrierInEdge_rises, (sampleBarrier_barrierOut ..).trans (barrierInMoved_repeats true copies noPulse)⟩

/-- Settles O8: a barrier message that is taken, not accepted or malformed, by the lemma above for each. -/
theorem barrierMessage : Obligations.BarrierMessage := by
  unfold Obligations.BarrierMessage
  refine ⟨?_, ?_, ?_⟩
  · intro c m b s waits node good waiting plain early new word last
    have pends : takeBarrier b (taken c m s) = _ := takeBarrier_pends waiting early plain new (.inl last)
    rw [pendBarrier_word word] at pends
    refine ⟨_, (barrier_read waits node good).trans (congrArg _ pends), rfl, rfl, ?_, rfl⟩
    exact inboxTake_tfx_inbox ..
  · intro c m s waits host
    exact barrier_refused waits host
  · intro c m s waits node bad
    exact barrier_malformed waits node bad

end Sys2Proof.Proofs

/-! ## Lanes, ports and received frames (11_fabric_ports.md R281 to R299; 12_transport.md R310 to R323) -/

namespace Sys2Proof.Proofs

open Sys2Proof Sys2Proof.Machine Sys2Proof.Safety

/-- A fold of operations on the transport changes the transport. -/
theorem foldl_tfx_frame {α : Type} {g : State → α → State} (each : ∀ s a, g s a = { s with tfx := (g s a).tfx }) (l : List α)
    (s : State) : l.foldl g s = { s with tfx := (l.foldl g s).tfx } := by
  induction l generalizing s with
  | nil => rfl
  | cons a l ih => exact (ih (g s a)).trans (congrArg (fun u : State => { u with tfx := (l.foldl g (g s a)).tfx }) (each s a))

/-! ### Codewords of a lane (R286, R307) -/

section codewords

variable {p l corrected failed : Nat} {s : State}

/-- A port of which a lane that holds lock begins its second anew (R286). -/
def relocked (l now : Nat) (v : Port) : Port := setLane l (fun x => { x with lockSince := x.lockSince.map fun _ => now }) v

/-- The codewords of a lane are counted, each with its event, and both numbers towards the lane's wear. -/
def codewordsCounted (p l corrected failed : Nat) (s : State) : State :=
  (List.range failed).foldl (fun s _ => countEvent (cFecUncorrected p l) (unitLane p l) s) <|
    (List.range corrected).foldl (fun s _ => countEvent (cFecCorrected p l) (unitLane p l) s) <|
      countWear (unitLane p l) (fun w => { w with c := w.c + corrected, u := w.u + failed }) s

theorem codewordsCounted_frame (p l corrected failed : Nat) (s : State) : codewordsCounted p l corrected failed s =
    { s with ctr := (codewordsCounted p l corrected failed s).ctr, flt := (codewordsCounted p l corrected failed s).flt } := by
  unfold codewordsCounted
  rw [foldl_counted_frame fun s _ => countEvent_frame _ _ s, foldl_counted_frame fun s _ => countEvent_frame _ _ s,
    countWear_frame]

/-- Codewords change the counts, and with one not corrected their lane's lock. -/
theorem fecEvents_frame (p l corrected failed : Nat) (s : State) : fecEvents p l corrected failed s =
    { s with
      ports := if failed = 0 then s.ports else put {} s.ports p (relocked l s.time.elapsed (fport p s))
      ctr := (codewordsCounted p l corrected failed s).ctr
      flt := (codewordsCounted p l corrected failed s).flt } := by
  change (if failed = 0 then codewordsCounted p l corrected failed s
    else setFport p (relocked l (codewordsCounted p l corrected failed s).time.elapsed
      (fport p (codewordsCounted p l corrected failed s))) (codewordsCounted p l corrected failed s)) = _
  rw [codewordsCounted_frame]
  split
  · rfl
  · rfl

/-- A port that is listed afterwards reads as its codewords left it. -/
theorem fport_fecEvents (listed : relocked l s.time.elapsed (fport p s) ≠ {}) : fport p (fecEvents p l corrected failed s) =
    if failed = 0 then fport p s else relocked l s.time.elapsed (fport p s) := by
  rw [fecEvents_frame]
  change look {} (if failed = 0 then s.ports else _) p = _
  split
  · rfl
  · exact look_put_self_ne _ _ listed

/-- Codewords change the lanes of an up port and nothing else of it. -/
theorem fport_fecEvents_up (up : (fport p s).st = .up) :
    ∃ lanes, fport p (fecEvents p l corrected failed s) = { fport p s with lanes := lanes } := by
  have listed : relocked l s.time.elapsed (fport p s) ≠ {} := by
    intro free
    have down : (relocked l s.time.elapsed (fport p s)).st = .down := congrArg Port.st free
    exact nomatch up.symm.trans down
  rw [fport_fecEvents listed]
  split
  · exact ⟨_, rfl⟩
  · exact ⟨_, rfl⟩

end codewords

/-! ### Lanes that train (R281) -/

section lanes

variable {p l n : Nat} {a : Ability} {cause : LaneFault} {v : Port} {x : Lane} {s : State}

theorem setLane_lanes (f : Lane → Lane) (here : v.lanes[l]? = some x) : (setLane l f v).lanes = v.lanes.set l (f x) := by
  simp [setLane, List.modify_eq_set_getElem?, here]

@[simp] theorem unstretch_lanes (v : Port) : (unstretch v).lanes = v.lanes := by
  unfold unstretch
  split <;> rfl

/-- A lane that completes training where its port takes it is ACTIVE and locked. -/
theorem laneTrained_activates (started : 3 ≤ s.start.stage) (standing : (fport p s).st ≠ .dropped)
    (ungated : (fport p s).gated = false) (fits : abilityFits (portMode p s) (fport p s).anOff a = true)
    (separate : bonded (portMode p s) = true) (here : (fport p s).lanes[l]? = some x) (training : x.st = .training) :
    ∃ v, exec (.laneTrained p l a) s = .next (setFport p v s) ∧
      v.lanes = (fport p s).lanes.set l { x with st := .active, lockSince := some s.time.elapsed } := by
  have takes : (s.start.stage < 3 || (fport p s).st == .dropped || (fport p s).gated ||
      !abilityFits (portMode p s) (fport p s).anOff a) = false := by
    simp [standing, ungated, fits, started]
  refine ⟨_, congrArg Host.Outcome.next (if_neg (ne_true_of_eq_false takes)), ?_⟩
  simp [separate, setLane_lanes _ here, training]

/-! ### Lanes that are lost (R285, R289) -/

/-- Frames handed back change connections, counts and wear. -/
theorem handBack_frame (p : Nat) (lane : Nat → Bool) (s : State) : handBack p lane s =
    { s with tfx := { s.tfx with conns := (handBack p lane s).tfx.conns }
             ctr := (handBack p lane s).ctr, flt := (handBack p lane s).flt } := by
  unfold handBack
  rw [foldl_counted_frame fun s _ => countEvent_frame _ _ s]
  rfl

theorem ctrGet_handBack_other {c : Ctr} (other : c.key ≠ (cRequeued p).key) (lane : Nat → Bool) (s : State) :
    ctrGet c (handBack p lane s) = ctrGet c s :=
  foldl_leaves (g := ctrGet c) (fun s _ => ctrGet_countEvent_other (cRequeued p) c _ s (Nat.zero_lt_succ 15) other) _ _

/-- A port that has lost a lane: with 3 others ACTIVE it is to be stretched (R290). -/
def portLess (l : Nat) (separate : Bool) (v : Port) : Port :=
  let v := setLane l (fun x => { x with st := .retired, lockSince := none, queued := 0 }) v
  if separate && 3 ≤ activeLanes v then { v with stretchPending := true } else v

theorem portLess_lanes (separate : Bool) (here : v.lanes[l]? = some x) :
    (portLess l separate v).lanes = v.lanes.set l { x with st := .retired, lockSince := none, queued := 0 } := by
  unfold portLess
  dsimp only
  split <;> exact setLane_lanes _ here

/-- The loss of a lane is counted, adds to its wear and is told to the peer. -/
def lossTold (p l : Nat) (s : State) : State :=
  emit (.remoteFault p l) (countEvent (cLaneLost p) (unitLane p l)
    (countWear (unitLane p l) (fun w => { w with t := w.t + 1 }) s))

theorem lossTold_frame (p l : Nat) (s : State) : lossTold p l s =
    { s with ctr := (lossTold p l s).ctr, flt := (lossTold p l s).flt, out := s.out ++ [.remoteFault p l] } := by
  unfold lossTold emit
  rw [countEvent_countWear_frame]

theorem ctrGet_lossTold (p l : Nat) (s : State) :
    ctrGet (cLaneLost p) (lossTold p l s) = min (2 ^ (cLaneLost p).width - 1) (ctrGet (cLaneLost p) s + 1) :=
  ctrGet_countEvent (cLaneLost p) _ _ (Nat.zero_lt_succ 15)

/-- An ACTIVE lane that is lost is retired, its loss is told, and its frames are to be sent again. -/
theorem loseLane_active (here : (fport p s).lanes[l]? = some x) (active : x.st = .active) : loseLane p l s =
    handBack p (· == l) (lossTold p l (setFport p (portLess l (bonded (portMode p s)) (fport p s)) s)) := by
  simp only [loseLane, here, if_pos active]
  rfl

theorem loseLane_frame (here : (fport p s).lanes[l]? = some x) (active : x.st = .active) : loseLane p l s =
    { s with
      ports := put {} s.ports p (portLess l (bonded (portMode p s)) (fport p s))
      tfx := { s.tfx with conns := (loseLane p l s).tfx.conns }
      ctr := (loseLane p l s).ctr, flt := (loseLane p l s).flt, out := s.out ++ [.remoteFault p l] } := by
  rw [loseLane_active here active, handBack_frame, lossTold_frame]
  rfl

theorem ctrGet_loseLane (here : (fport p s).lanes[l]? = some x) (active : x.st = .active) :
    ctrGet (cLaneLost p) (loseLane p l s) = min (2 ^ (cLaneLost p).width - 1) (ctrGet (cLaneLost p) s + 1) := by
  rw [loseLane_active here active, ctrGet_handBack_other, ctrGet_lossTold]
  · rfl
  · simp [Ctr.key, cLaneLost, cRequeued]

theorem laneLost_link (link : cause = .lockLost ∨ cause = .remoteFault ∨ cause = .alignmentLost) :
    exec (.laneLost p l cause) s = .next (loseLane p l s) := by
  rcases link with rfl | rfl | rfl <;> rfl

/-- A port with an ACTIVE lane is listed. -/
theorem port_ne_of_active (here : v.lanes[l]? = some x) (active : x.st = .active) : v ≠ {} := by
  rintro rfl
  have off : ∀ y ∈ ({} : Port).lanes, y.st = .off := by decide
  exact nomatch active.symm.trans (off x (List.mem_of_getElem? here))

/-- Codewords leave an ACTIVE lane ACTIVE. -/
theorem fecEvents_keeps_active (corrected : Nat) (here : (fport p s).lanes[l]? = some x) (active : x.st = .active) :
    ((fport p (fecEvents p l corrected n s)).lanes[l]?).map (·.st) = some .active := by
  have relock : (relocked l s.time.elapsed (fport p s)).lanes[l]? =
      some { x with lockSince := x.lockSince.map fun _ => s.time.elapsed } := by
    simp [relocked, setLane, here]
  rw [fport_fecEvents (port_ne_of_active relock active)]
  split
  · simp [here, active]
  · simp [relock, active]

/-- 8 codewords not corrected within a microsecond lose an ACTIVE lane; fewer are counted (R285). -/
theorem laneLost_codewords (here : (fport p s).lanes[l]? = some x) (active : x.st = .active) :
    exec (.laneLost p l (.uncorrectable n)) s =
      .next (if 8 ≤ n then loseLane p l (fecEvents p l 0 n s) else fecEvents p l 0 n s) := by
  refine congrArg Host.Outcome.next ?_
  simp only [execLaneLostState, fecEvents_keeps_active 0 here active, and_true]

/-- A mask with one bit names one lane of four. -/
theorem lane_named (lane : l < 4) : ((List.range 4).filter fun m => bit (2 ^ l) m) = [l] := by
  interval_cases l <;> decide

theorem prtCtrlRetrain_loses (lane : l < 4) (here : (fport p s).lanes[l]? = some x) (active : x.st = .active) :
    exec (.prtCtrlRetrain p (2 ^ l)) s = .next (loseLane p l s) := by
  have named : ((List.range 4).filter fun m => bit (2 ^ l) m && (((fport p s).lanes[m]?).map (·.st)) == some .active) = [l] := by
    simp only [Bool.and_comm (bit _ _)]
    rw [← List.filter_filter, lane_named lane]
    simp [here, active]
  refine congrArg Host.Outcome.next ?_
  rw [execPrtCtrlRetrainState, named, List.foldl_cons, List.foldl_nil]

/-! ### Lanes that return (R286, R290) -/

/-- A stable retired lane of an up port is ACTIVE again at a pass boundary, and is counted. -/
theorem laneReturn_returns (here : (fport p s).lanes[l]? = some x) (up : (fport p s).st = .up) (retired : x.st = .retired)
    (stable : laneStable x s = true) (boundary : strokeNow s = 0) : exec (.laneReturn p l) s =
      .next (countEvent (cLaneReturn p) (unitLane p l)
        (setFport p (unstretch (setLane l (fun x => { x with st := .active, queued := 0 }) (fport p s))) s)) := by
  refine congrArg Host.Outcome.next ?_
  simp only [execLaneReturnState, here]
  exact if_pos ⟨up, retired, stable, boundary⟩

end lanes

/-! ### Ports that drop and return (R291 to R293) -/

section drops

variable {p n : Nat} {s : State}

theorem moveConn_frame (p : Nat) (s : State) (c : Nat) : moveConn p s c = { s with tfx := (moveConn p s c).tfx } := by
  unfold moveConn
  dsimp only
  split
  · rfl
  · split <;> rfl

theorem returnConn_frame (p : Nat) (s : State) (c : Nat) : returnConn p s c = { s with tfx := (returnConn p s c).tfx } := by
  unfold returnConn
  split
  · rfl
  · split <;> rfl

/-- A port that has dropped: its lanes retire, and its credit and its runs are gone (R291). -/
def portDropped (now : Nat) (v : Port) : Port :=
  { v with
    st := .dropped
    lanes := v.lanes.map fun x => { x with st := .retired, queued := 0, lockSince := if x.st = .active then some now else x.lockSince }
    stretched := false, stretchPending := false, credit := [], sends := [], granted := 0, spent := 0, deficit := 0 }

theorem portDropped_lanes (now : Nat) (v : Port) : (portDropped now v).lanes.all (fun x => x.st == .retired) = true := by
  simp [portDropped]

/-- The drop of a port changes ports, transport, counts and the output; it does not enter hold mode. -/
theorem dropPort_frame (p : Nat) (s : State) : dropPort p s =
    { s with ports := put {} s.ports p (portDropped s.time.elapsed (fport p s))
             tfx := (dropPort p s).tfx, ctr := (dropPort p s).ctr, flt := (dropPort p s).flt, out := (dropPort p s).out } := by
  unfold dropPort
  dsimp only
  rw [foldl_tfx_frame (moveConn_frame p), raise_plain rfl, raiseRecord_frame, handBack_frame]
  rfl

theorem portDrop_drops (up : (fport p s).st = .up) (few : activeLanes (fport p s) < if bonded (portMode p s) then 3 else 4) :
    exec (.portDrop p) s = .next (dropPort p s) := congrArg Host.Outcome.next (if_pos ⟨up, few⟩)

/-- A port that comes back with its stable lanes, stretched with three (R290, R293). -/
def portBack (p : Nat) (s : State) : Port :=
  { fport p s with
    st := .up
    lanes := (fport p s).lanes.map fun x => if laneStable x s then { x with st := .active } else x
    stretched := decide (((fport p s).lanes.filter fun x => laneStable x s).length = 3) }

theorem portReturn_returns (out : (fport p s).st ≠ .up) (ungated : (fport p s).gated = false)
    (unfenced : bit s.flt.fencedPorts p = false) (boundary : strokeNow s = 0)
    (stable : ((fport p s).lanes.filter fun x => laneStable x s).length = n)
    (enough : n = 4 ∨ (bonded (portMode p s) = true ∧ n = 3)) :
    exec (.portReturn p) s = .next (setFport p (portBack p s) ((allConns s).foldl (returnConn p) s)) := by
  refine congrArg Host.Outcome.next (if_pos ⟨out, ?_, ?_, boundary, stable ▸ enough⟩)
  · simp [ungated]
  · simp [unfenced]

end drops

/-- Settles O29: training, loss and return of lanes, drop and return of ports, by the lemma above for each. -/
theorem lanesAndPorts : Obligations.LanesAndPorts := by
  unfold Obligations.LanesAndPorts
  refine ⟨?_, ?_, ?_, ?_, ?_, ?_, ?_⟩
  · intro p l a x s started standing ungated fits separate here training
    exact laneTrained_activates started standing ungated fits separate here training
  · intro p l f x s link here active
    refine ⟨_, laneLost_link link, ?_, ctrGet_loseLane here active, ?_, ?_⟩
    · rw [loseLane_frame here active]
      exact ⟨_, rfl, portLess_lanes _ here⟩
    · rw [loseLane_frame here active]
    · rw [loseLane_frame here active]
  · intro p l x s lane here active
    exact prtCtrlRetrain_loses lane here active
  · intro p l x s here up retired stable boundary
    refine ⟨_, laneReturn_returns here up retired stable boundary, ⟨_, countEvent_ports .., ?_⟩, ?_, ?_⟩
    · rw [unstretch_lanes, setLane_lanes _ here]
    · exact ctrGet_countEvent (cLaneReturn p) _ _ (Nat.zero_lt_succ 15)
    · rw [countEvent_frame]
      rfl
  · intro p s up few
    refine ⟨_, portDropped s.time.elapsed (fport p s), portDrop_drops up few, ?_⟩
    rw [dropPort_frame]
    exact ⟨rfl, rfl, rfl, rfl, portDropped_lanes .., rfl, rfl, rfl⟩
  · intro p n s out ungated unfenced boundary stable enough
    refine ⟨_, portReturn_returns out ungated unfenced boundary stable enough, ?_⟩
    rw [foldl_tfx_frame (returnConn_frame p), ← stable]
    exact ⟨rfl, rfl⟩
  · intro p l n x s here active
    exact laneLost_codewords here active

/-! ### Frames that a port receives (R298, R299; 12_transport.md R310) -/

section received

variable {p : Nat} {x : RxFrame} {s : State}

/-- The port takes frames: it is up, not gated and not fenced. -/
structure Receives (p : Nat) (s : State) : Prop where
  up : (fport p s).st = .up
  ungated : (fport p s).gated = false
  unfenced : bit s.flt.fencedPorts p = false

/-- What a port does with a frame whose codewords are counted: the filter of R298, then the smoothing queue. -/
def frameFiltered (p : Nat) (x : RxFrame) (s : State) : State :=
  if !x.fcsOk then countEvent (cFcsBad p) (unitPort p) s
  else if x.size < 64 || 9216 < x.size then countEvent (cOversize p) (unitPort p) s
  else if !isTfx p x s then countEvent (cNotTfx p) (unitPort p) s
  else if (connRec (readHdr x.hdr).conn s).used && !bit (connRec (readHdr x.hdr).conn s).ports p then
    countEvent (cWrongPort p) (unitPort p) s
  else if smoothLevel (fport p s) + x.size ≤ smoothBytes &&
      ((readHdr x.hdr).cls == 0 || decide (smoothHigh (fport p s) + x.size ≤ smoothBytes - smoothKept)) then
    setFport p { fport p s with smooth := (fport p s).smooth ++ [x]
                                smoothPeak := max (fport p s).smoothPeak (smoothLevel (fport p s) + x.size) }
      { s with tel.live.rx := upd 0 s.tel.live.rx p fun n => sat32 (n + x.size) }
  else countEvent (cSmoothDrop p) (unitPort p) { s with tel.live.rx := upd 0 s.tel.live.rx p fun n => sat32 (n + x.size) }

theorem frameReceive_filters (receives : Receives p s) : exec (.frameReceive p x) s =
    .next (frameFiltered p x (fecEvents p x.lane x.fecCorrected x.fecUncorrected s)) := by
  obtain ⟨up, ungated, unfenced⟩ := receives
  obtain ⟨lanes, port⟩ := fport_fecEvents_up (l := x.lane) (corrected := x.fecCorrected) (failed := x.fecUncorrected) up
  refine congrArg Host.Outcome.next ?_
  have lit : ((fport p s).st == .down || (fport p s).st == .training || (fport p s).gated || bit s.flt.fencedPorts p) = false := by
    simp [up, ungated, unfenced]
  have litAfter : ((fport p (fecEvents p x.lane x.fecCorrected x.fecUncorrected s)).st == .down ||
      (fport p (fecEvents p x.lane x.fecCorrected x.fecUncorrected s)).st == .training ||
      (fport p (fecEvents p x.lane x.fecCorrected x.fecUncorrected s)).gated || bit s.flt.fencedPorts p) = false := by
    simp [port, up, ungated, unfenced]
  simp only [execFrameReceiveState, lit, litAfter, Bool.false_eq_true, if_false]
  rfl

theorem frameFiltered_fcs (bad : x.fcsOk = false) : frameFiltered p x s = countEvent (cFcsBad p) (unitPort p) s := by
  simp [frameFiltered, bad]

theorem frameFiltered_length (good : x.fcsOk = true) (length : x.size < 64 ∨ 9216 < x.size) :
    frameFiltered p x s = countEvent (cOversize p) (unitPort p) s := by
  simp [frameFiltered, good, length]

/-- The frame passes the first two checks. -/
structure Whole (x : RxFrame) : Prop where
  good : x.fcsOk = true
  atLeast : 64 ≤ x.size
  atMost : x.size ≤ 9216

theorem frameFiltered_form (whole : Whole x) (other : isTfx p x s = false) :
    frameFiltered p x s = countEvent (cNotTfx p) (unitPort p) s := by
  obtain ⟨good, atLeast, atMost⟩ := whole
  simp [frameFiltered, good, atLeast.not_gt, atMost.not_gt, other]

/-- A frame that passes the filter and fits waits in the smoothing queue (R299). -/
theorem frameFiltered_waits (whole : Whole x) (tfx : isTfx p x s = true)
    (own : (connRec (readHdr x.hdr).conn s).used = true → bit (connRec (readHdr x.hdr).conn s).ports p = true)
    (fits : smoothLevel (fport p s) + x.size ≤ 262144)
    (leaves : (readHdr x.hdr).cls ≠ 0 → smoothHigh (fport p s) + x.size ≤ 229376) : frameFiltered p x s =
      setFport p { fport p s with smooth := (fport p s).smooth ++ [x]
                                  smoothPeak := max (fport p s).smoothPeak (smoothLevel (fport p s) + x.size) }
        { s with tel.live.rx := upd 0 s.tel.live.rx p fun n => sat32 (n + x.size) } := by
  obtain ⟨good, atLeast, atMost⟩ := whole
  have room : (decide (smoothLevel (fport p s) + x.size ≤ smoothBytes) && ((readHdr x.hdr).cls == 0 ||
      decide (smoothHigh (fport p s) + x.size ≤ smoothBytes - smoothKept))) = true := by
    rw [Bool.and_eq_true, Bool.or_eq_true, beq_iff_eq, decide_eq_true_eq, decide_eq_true_eq]
    exact ⟨fits, Classical.or_iff_not_imp_left.mpr leaves⟩
  have ownPort : ((connRec (readHdr x.hdr).conn s).used && !bit (connRec (readHdr x.hdr).conn s).ports p) = false := by
    simpa using own
  simp only [frameFiltered, good, tfx, ownPort, room]
  simp [atLeast.not_gt, atMost.not_gt]

/-- Codewords change neither what frames are the port's nor whose ports a connection's are. -/
theorem isTfx_fecEvents (l corrected failed : Nat) : isTfx p x (fecEvents p l corrected failed s) = isTfx p x s := by
  rw [fecEvents_frame]
  rfl

theorem connRec_fecEvents (c l corrected failed : Nat) : connRec c (fecEvents p l corrected failed s) = connRec c s := by
  rw [fecEvents_frame]
  rfl

end received

/-! ### Frames that leave the queue (12_transport.md R311, R318 to R324) -/

section accepted

variable {p c e : Nat} {x : RxFrame} {rest : List RxFrame} {seg : List Byte} {h : Hdr} {st : ConnSt} {s : State}

/-- An update that leaves a connection in use stands. -/
theorem conn_st_setConn {v : Conn} (stands : v.st = st) (used : st ≠ .unused) : (conn c (setConn c v s)).st = st := by
  have listed : v ≠ {} := fun free => used (stands.symm.trans (congrArg Conn.st free))
  exact (congrArg Conn.st (look_put_self_ne _ _ listed)).trans stands

/-- The steps of a rollover leave a connection in use as it stands (R319). -/
theorem rollCheck_keeps_st (stands : (conn c s).st = st) (used : st ≠ .unused) : (conn c (rollCheck c s)).st = st := by
  unfold rollCheck
  extract_lets -underBinder _ s₁ _ s₂ _ s₃ _ s₄
  have turned : (conn c s₁).st = st := ite_leaves (g := fun t => (conn c t).st) (conn_st_setConn stands used) stands
  have drained : (conn c s₂).st = st := ite_leaves (g := fun t => (conn c t).st) (conn_st_setConn turned used) turned
  have ended : (conn c s₄).st = st := conn_st_setConn drained used
  refine ite_leaves (g := fun t => (conn c t).st) ?_ drained
  rw [conn, countEvent_tfx]
  exact ended

theorem takeAck_keeps_st (stands : (conn c s).st = st) (used : st ≠ .unused) : (conn c (takeAck c h s)).st = st :=
  rollCheck_keeps_st (conn_st_setConn stands used) used

theorem takeRoll_keeps_st (stands : (conn c s).st = st) (used : st ≠ .unused) : (conn c (takeRoll c e h s)).st = st :=
  rollCheck_keeps_st (conn_st_setConn stands used) used

/-- A frame has left the smoothing queue of its port. -/
def frameTaken (p : Nat) (rest : List RxFrame) (s : State) : State := setFport p { fport p s with smooth := rest } s

/-- What its acknowledgement, its credit limits and its rollover bits bring (R319, R324). -/
def frameAcks (e : Nat) (h : Hdr) (s : State) : State := takeRoll h.conn e h (takeAck h.conn h s)

theorem frameAcks_keeps_st (stands : (conn h.conn s).st = st) (used : st ≠ .unused) :
    (conn h.conn (frameAcks e h s)).st = st := takeRoll_keeps_st (takeAck_keeps_st stands used) used

theorem frameAcks_keeps_working (works : (conn h.conn s).st = .active ∨ (conn h.conn s).st = .closing) :
    (conn h.conn (frameAcks e h s)).st = .active ∨ (conn h.conn (frameAcks e h s)).st = .closing :=
  works.imp (frameAcks_keeps_st · nofun) (frameAcks_keeps_st · nofun)

/-- A frame is at the front of the queue of a port that is not fenced. -/
structure Leaves (p : Nat) (x : RxFrame) (rest : List RxFrame) (s : State) : Prop where
  front : (fport p s).smooth = x :: rest
  unfenced : bit s.flt.fencedPorts p = false

/-- A frame of a connection in use authenticates under an epoch, and its header has no reserved bits. -/
structure Authentic (p e : Nat) (x : RxFrame) (rest : List RxFrame) (s : State) : Prop extends Leaves p x rest s where
  used : (conn (readHdr x.hdr).conn s).st ≠ .unused
  epoch : authEpoch (readHdr x.hdr).conn (readHdr x.hdr) x.sealKey (frameTaken p rest s) = some e
  plain : hdrReserved x.hdr = false

theorem tfxFrameAccept_unused (leaves : Leaves p x rest s) (unused : (conn (readHdr x.hdr).conn s).st = .unused) :
    exec (.tfxFrameAccept p) s = .next (countEvent cBadConn (unitConn (readHdr x.hdr).conn) (frameTaken p rest s)) := by
  refine congrArg Host.Outcome.next ?_
  simp only [execTfxFrameAcceptState, leaves.front, leaves.unfenced, Bool.false_eq_true, if_false]
  exact if_pos unused

theorem tfxFrameAccept_unsealed (leaves : Leaves p x rest s) (used : (conn (readHdr x.hdr).conn s).st ≠ .unused)
    (unsealed : x.sealKey = none) :
    exec (.tfxFrameAccept p) s = .next (countEvent cAuthFail (unitConn (readHdr x.hdr).conn) (frameTaken p rest s)) := by
  refine congrArg Host.Outcome.next ?_
  simp only [execTfxFrameAcceptState, leaves.front, leaves.unfenced, Bool.false_eq_true, if_false, unsealed, authEpoch]
  exact if_neg used

/-- What becomes of a decoded frame once what it acknowledges is taken. -/
def frameSettled (p : Nat) (h : Hdr) (seg : List Byte) (s : State) : State :=
  match (conn h.conn s).st with
  | .active | .closing => if h.op = 2 then s else takePsn p h.conn h seg s
  | .failed | .keyless | .unused => s

/-- An ACK frame has brought what it brings, whatever the state of its connection. -/
theorem frameSettled_ack (ack : h.op = 2) : frameSettled p h seg s = s := by
  simp only [frameSettled, if_pos ack]
  split <;> rfl

/-- On a working connection a DATA or RESP frame goes by its PSN (R323). -/
theorem frameSettled_psn (works : (conn h.conn s).st = .active ∨ (conn h.conn s).st = .closing) (other : h.op ≠ 2) :
    frameSettled p h seg s = takePsn p h.conn h seg s := by
  unfold frameSettled
  rcases works with st | st
  · rw [st]
    exact if_neg other
  · rw [st]
    exact if_neg other

/-- The segment of a frame; an ACK frame has none. -/
def frameSegment (x : RxFrame) : Option (List Byte) :=
  if (readHdr x.hdr).op = 2 then some [] else decodeSegment (readHdr x.hdr).kind (readHdr x.hdr).segLen x.coded

theorem frameSegment_ack (ack : (readHdr x.hdr).op = 2) : frameSegment x = some [] := if_pos ack

theorem frameSegment_coded (other : (readHdr x.hdr).op ≠ 2) :
    frameSegment x = decodeSegment (readHdr x.hdr).kind (readHdr x.hdr).segLen x.coded := if_neg other

/-- An authentic frame is counted where its segment does not decode; else it brings its acknowledgement first. -/
theorem tfxFrameAccept_authentic (frame : Authentic p e x rest s)
    (fields : (readHdr x.hdr).op = 2 → ackFieldsOk (readHdr x.hdr) = true) : exec (.tfxFrameAccept p) s =
      .next ((frameSegment x).elim (countEvent (cIntegrity p) (unitPort p) (frameTaken p rest s)) fun seg =>
        frameSettled p (readHdr x.hdr) seg (frameAcks e (readHdr x.hdr) (frameTaken p rest s))) := by
  obtain ⟨⟨front, unfenced⟩, used, epoch, plain⟩ := frame
  have meant : (hdrReserved x.hdr || ((readHdr x.hdr).op == 2 && !ackFieldsOk (readHdr x.hdr))) = false := by
    simpa [plain] using fields
  refine congrArg Host.Outcome.next ?_
  simp only [execTfxFrameAcceptState, front, unfenced, Bool.false_eq_true, if_false]
  refine (if_neg used).trans ?_
  unfold frameTaken at epoch ⊢
  simp only [epoch, meant, Bool.false_eq_true, if_false]
  unfold frameSegment frameAcks
  generalize setFport p _ s = t
  generalize takeRoll _ e _ (takeAck _ _ t) = r
  generalize (if (readHdr x.hdr).op = 2 then some [] else _) = o
  cases o with
  | none => rfl
  | some seg => rfl

end accepted

/-- Settles O31: the port's filter and its queue, and the ways of a frame that leaves it, by the lemma above for each. -/
theorem framesIn : Obligations.FramesIn := by
  unfold Obligations.FramesIn
  refine ⟨?_, ?_, ?_, ?_, ?_, ?_, ?_, ?_, ?_⟩
  · intro p x s up ungated unfenced bad
    rw [frameReceive_filters ⟨up, ungated, unfenced⟩, frameFiltered_fcs bad]
  · intro p x s up ungated unfenced good length
    rw [frameReceive_filters ⟨up, ungated, unfenced⟩, frameFiltered_length good length]
  · intro p x s up ungated unfenced good atLeast atMost other
    rw [frameReceive_filters ⟨up, ungated, unfenced⟩,
      frameFiltered_form ⟨good, atLeast, atMost⟩ ((isTfx_fecEvents ..).trans other)]
  · rintro p x r s up ungated unfenced rfl good atLeast atMost tfx own fits leaves
    obtain ⟨lanes, port⟩ := fport_fecEvents_up (l := x.lane) (corrected := x.fecCorrected) (failed := x.fecUncorrected) up
    rw [frameReceive_filters ⟨up, ungated, unfenced⟩,
      frameFiltered_waits ⟨good, atLeast, atMost⟩ ((isTfx_fecEvents ..).trans tfx)]
    · rfl
    · rw [connRec_fecEvents]
      exact own
    · rw [port]
      exact fits
    · rw [port]
      exact leaves
  · intro p x rest s front unfenced unused
    exact tfxFrameAccept_unused ⟨front, unfenced⟩ unused
  · intro p x rest s front unfenced used unsealed
    exact tfxFrameAccept_unsealed ⟨front, unfenced⟩ used unsealed
  · intro p e x rest s front unfenced active epoch plain ack fields
    have used : (conn (readHdr x.hdr).conn s).st ≠ .unused := by simp [active]
    rw [tfxFrameAccept_authentic ⟨⟨front, unfenced⟩, used, epoch, plain⟩ fun _ => fields, frameSegment_ack ack,
      Option.elim_some, frameSettled_ack ack]
    rfl
  · intro p e x rest seg s front unfenced works epoch plain other decodes
    have used : (conn (readHdr x.hdr).conn s).st ≠ .unused := by
      rcases works with st | st <;> simp [st]
    have stillWorks := frameAcks_keeps_working (e := e) (s := frameTaken p rest s) works
    rw [tfxFrameAccept_authentic ⟨⟨front, unfenced⟩, used, epoch, plain⟩ fun ack => absurd ack other,
      frameSegment_coded other, decodes, Option.elim_some, frameSettled_psn stillWorks other]
    rfl
  · intro p e x rest s front unfenced used epoch plain other broken
    rw [tfxFrameAccept_authentic ⟨⟨front, unfenced⟩, used, epoch, plain⟩ fun ack => absurd ack other,
      frameSegment_coded other, broken, Option.elim_none]
    rfl

end Sys2Proof.Proofs

/-! ## What no command breaks: the waiting commands, the bounds of the trace, and the burnt counts

For every operation on the state one lemma, in the order of the model: the state it leads to still has the commands that waited, a
bounded trace FIFO and burnt counts that have not fallen. A field of another component is not in question, so an operation that
writes only such fields hands the hypothesis on; what carries the argument are the rules of `logRecord`, of the trace writer, of
FUSE_SVN and of the losses of power. -/

namespace Sys2Proof.Proofs

open Sys2Proof Sys2Proof.Machine Sys2Proof.Safety

/-- What no command may break, told of a state `s` that it leads to from `s₀`: the commands that wait are the same, the trace FIFO is
bounded if it was, and no burnt count has fallen. -/
def Since (s₀ s : State) : Prop :=
  s.pending = s₀.pending ∧ (fifoBounded s₀ → fifoBounded s) ∧ s₀.tru.burntTc ≤ s.tru.burntTc ∧
    s₀.tru.burntHub ≤ s.tru.burntHub

/-- An operation on the state breaks nothing of this. -/
abbrev KeepsSince (s₀ : State) (f : State → State) : Prop := ∀ ⦃s : State⦄, Since s₀ s → Since s₀ (f s)

/-- Where neither the queue nor the fault or trust state differs, nothing of this does. -/
theorem frame_since {s₀ s t : State} (h : Since s₀ s) (queue : t.pending = s.pending) (flt : t.flt = s.flt)
    (tru : t.tru = s.tru) : Since s₀ t := by
  unfold Since fifoBounded at *
  rw [queue, flt, tru]
  exact h

/-! ### The components that are not in question -/

section components

variable {s₀ s : State} (h : Since s₀ s)
include h

theorem time_since {x} : Since s₀ { s with time := x } := h

theorem bar_since {x} : Since s₀ { s with bar := x } := h

theorem plt_since {x} : Since s₀ { s with plt := x } := h

theorem res_since {x} : Since s₀ { s with res := x } := h

theorem sch_since {x} : Since s₀ { s with sch := x } := h

theorem tfx_since {x} : Since s₀ { s with tfx := x } := h

theorem host_since {x} : Since s₀ { s with host := x } := h

theorem mem_since {x} : Since s₀ { s with mem := x } := h

theorem tel_since {x} : Since s₀ { s with tel := x } := h

theorem wearSel_since {x} : Since s₀ { s with flt.wearSel := x } := h

end components

/-! ### Branches, folds and optional results -/

theorem ite_since {s₀ : State} {c : Prop} [Decidable c] {a b : State} (ha : Since s₀ a) (hb : Since s₀ b) :
    Since s₀ (if c then a else b) := by
  split
  · exact ha
  · exact hb

theorem ite_snd_since {s₀ : State} {β : Type} {c : Prop} [Decidable c] {a b : β × State} (ha : Since s₀ a.2)
    (hb : Since s₀ b.2) : Since s₀ (if c then a else b).2 := by
  split
  · exact ha
  · exact hb

theorem getD_snd_since {s₀ : State} {β : Type} {o : Option (β × State)} {x : β × State} (ho : ∀ y, o = some y → Since s₀ y.2)
    (h : Since s₀ x.2) : Since s₀ (o.getD x).2 := by
  cases o with
  | none => exact h
  | some y => exact ho y rfl

theorem snd_since {s₀ : State} {β : Type} {r : β × State} {x : β} {t : State} (e : r = (x, t)) (h : Since s₀ r.2) :
    Since s₀ t := by
  rw [e] at h
  exact h

theorem foldl_since {s₀ : State} {α : Type} {f : State → α → State}
    (hf : ∀ a s, Since s₀ s → Since s₀ (f s a)) {l : List α} {s : State} (h : Since s₀ s) :
    Since s₀ (l.foldl f s) := by
  induction l generalizing s with
  | nil => exact h
  | cons a l ih => exact ih (hf a s h)

theorem foldl_snd_since {s₀ : State} {α β : Type} {f : β × State → α → β × State}
    (hf : ∀ a x, Since s₀ x.2 → Since s₀ (f x a).2) {l : List α} {x : β × State}
    (h : Since s₀ x.2) : Since s₀ (l.foldl f x).2 := by
  induction l generalizing x with
  | nil => exact h
  | cons a l ih => exact ih (hf a x h)

/-- A chain of operations that can each fail breaks nothing where it succeeds. -/
theorem foldlBind_since {s₀ : State} {α : Type} {f : α → State → Option State}
    (hf : ∀ a s t, f a s = some t → Since s₀ s → Since s₀ t) {l : List α} {o : Option State} {t : State}
    (e : l.foldl (fun o a => o.bind fun s => f a s) o = some t) (h : ∀ s, o = some s → Since s₀ s) :
    Since s₀ t := by
  induction l generalizing o with
  | nil => exact h t e
  | cons a l ih =>
    refine ih e fun s hs => ?_
    obtain ⟨s', ho, hs'⟩ := Option.bind_eq_some_iff.mp hs
    exact hf a s' s hs' (h s' ho)

/-- What a write comes to breaks nothing of this. -/
def WriteEndSince (s₀ : State) : WriteEnd → Prop
  | .stored s | .waits s => Since s₀ s
  | .refused _ => True

/-- What an attempt at a change comes to breaks nothing of this. -/
def ChangeEndSince (s₀ : State) : ChangeEnd → Prop
  | .over s | .waits _ s => Since s₀ s

section operations

variable {s₀ s : State}

/-! ### Ops -/

theorem pick_since {n} (h : Since s₀ s) : Since s₀ (pick n s).2 :=
  ite_snd_since h h

theorem emit_since {o} (h : Since s₀ s) : Since s₀ (emit o s) :=
  h

theorem driveBarrier_since (h : Since s₀ s) : Since s₀ (driveBarrier s) :=
  ite_since h (emit_since h)

theorem interrupt_since {fn vector} (h : Since s₀ s) : Since s₀ (interrupt fn vector s) :=
  emit_since h

/-- A record is appended only while there is room, and what is counted instead saturates. -/
theorem logRecord_since {r} (h : Since s₀ s) : Since s₀ (logRecord r s) := by
  obtain ⟨queue, bounded, svnTc, svnHub⟩ := h
  have room64 : (if r.severity = 1 then 64 else 56) ≤ 64 := by split <;> decide
  refine iteInduction (fun room => ?appended) (fun _ => ?folded)
  case appended =>
    refine ⟨queue, fun b => ?_, svnTc, svnHub⟩
    obtain ⟨fifo, peak, lost, lostSinceRead⟩ := bounded b
    have longer : (s.flt.fifo ++ [r]).length ≤ 64 := by
      rw [List.length_append, List.length_singleton]
      omega
    exact ⟨longer, max_le peak (by omega), lost, lostSinceRead⟩
  case folded =>
    refine ⟨queue, fun b => ?_, svnTc, svnHub⟩
    obtain ⟨fifo, peak, -, -⟩ := bounded b
    exact ⟨fifo, peak, min_le_left _ _, min_le_left _ _⟩

theorem logEvent_since {cls n unit args} (h : Since s₀ s) : Since s₀ (logEvent cls n unit args s) :=
  logRecord_since h

theorem tallyBy_since {n c} (h : Since s₀ s) : Since s₀ (tallyBy n c s) :=
  h

theorem tally_since {c} (h : Since s₀ s) : Since s₀ (tally c s) :=
  tallyBy_since h

theorem countEvent_since {c unit} (h : Since s₀ s) : Since s₀ (countEvent c unit s) :=
  logEvent_since (tally_since h)

theorem countWear_since {unit f} (h : Since s₀ s) : Since s₀ (countWear unit f s) :=
  h

theorem raiseRecord_since {code unit args} (h : Since s₀ s) :
    Since s₀ (raiseRecord code unit args s) :=
  interrupt_since (logRecord_since (tally_since h))

/-! ### Msg -/

theorem setConn_since {c v} (h : Since s₀ s) : Since s₀ (setConn c v s) :=
  h

theorem setAux_since {c v} (h : Since s₀ s) : Since s₀ (setAux c v s) :=
  h

theorem queueMsg_since {c m} (h : Since s₀ s) : Since s₀ (queueMsg c m s) :=
  ite_since h (setConn_since h)

theorem sendCompletion_since {c typ tag status bytes} (h : Since s₀ s) :
    Since s₀ (sendCompletion c typ tag status bytes s) :=
  queueMsg_since h

theorem giveUnits_since {c cls n} (h : Since s₀ s) : Since s₀ (giveUnits c cls n s) :=
  setConn_since h

theorem returnCredit_since {c cls len} (h : Since s₀ s) : Since s₀ (returnCredit c cls len s) :=
  giveUnits_since h

theorem returnToken_since {c} (h : Since s₀ s) : Since s₀ (returnToken c s) :=
  setConn_since h

theorem inboxTake_since {m} (h : Since s₀ s) : Since s₀ (inboxTake m s) :=
  h

theorem b2Write_since {f off bs} (h : Since s₀ s) : Since s₀ (b2Write f off bs s) := by
  unfold b2Write
  split
  · exact h
  · exact h

theorem setQueue_since {f cls q} (h : Since s₀ s) : Since s₀ (setQueue f cls q s) :=
  h

theorem endCommand_since {f cls seq idx status reason value} (h : Since s₀ s) :
    Since s₀ (endCommand f cls seq idx status reason value s) :=
  setQueue_since h

/-! ### Collate -/

theorem setReq_since {r} (h : Since s₀ s) : Since s₀ (setReq r s) :=
  h

theorem setGraver_since {g v} (h : Since s₀ s) : Since s₀ (setGraver g v s) :=
  h

theorem dropReq_since {id} (h : Since s₀ s) : Since s₀ (dropReq id s) :=
  h

theorem setEntry_since {e} (h : Since s₀ s) : Since s₀ (setEntry e s) :=
  h

theorem dropEntry_since {id} (h : Since s₀ s) : Since s₀ (dropEntry id s) :=
  h

theorem pruneAnswered_since (h : Since s₀ s) : Since s₀ (pruneAnswered s) :=
  h

theorem telImpr_since {i} (h : Since s₀ s) : Since s₀ (telImpr i s) :=
  h

theorem hostImpr_since {f seq idx out i} (h : Since s₀ s) : Since s₀ (hostImpr f seq idx out i s) :=
  endCommand_since (b2Write_since h)

theorem noteClosed_since {r} (h : Since s₀ s) : Since s₀ (noteClosed r s) :=
  ite_since h h

theorem handOver_since {r i} (h : Since s₀ s) : Since s₀ (handOver r i s) := by
  unfold handOver
  extract_lets -underBinder s₁ s₂
  have hs₂ : Since s₀ s₂ :=
    telImpr_since (dropEntry_since (dropReq_since (noteClosed_since h)))
  split
  · exact tfx_since (hostImpr_since hs₂)
  · exact queueMsg_since (returnToken_since hs₂)
  · exact hs₂

theorem refuseReq_since {r status} (h : Since s₀ s) : Since s₀ (refuseReq r status s) :=
  handOver_since (countEvent_since h)

theorem countMerges_since {n e} (h : Since s₀ s) : Since s₀ (countMerges n e s).2 :=
  h

theorem sendResult_since {r e extra codes} (h : Since s₀ s) :
    Since s₀ (sendResult r e extra codes s) :=
  handOver_since (countMerges_since (ite_since (countEvent_since h) h))

theorem refuseSource_since {r x a} (h : Since s₀ x.2) : Since s₀ (refuseSource r x a).2 :=
  countEvent_since h

theorem joinArrival_since {r e a bad} (h : Since s₀ s) : Since s₀ (joinArrival r e a bad s).2 :=
  ite_snd_since h <|
    ite_snd_since (refuseSource_since h) <|
    countMerges_since (foldl_snd_since (fun _ _ h => refuseSource_since h) h)

theorem joinAll_since {r e} (h : Since s₀ s) : Since s₀ (joinAll r e s).2 :=
  foldl_snd_since (fun _ _ h => joinArrival_since h) h

theorem cutLocal_since {r e} (h : Since s₀ s) : Since s₀ (cutLocal r e s).2 :=
  foldl_since (fun _ _ h => countEvent_since h) h

theorem answerEntry_since {r e codes} (h : Since s₀ s) : Since s₀ (answerEntry r e codes s) :=
  sendResult_since (ite_since (foldl_since (fun _ _ h => countEvent_since h) h) h)

theorem closeEntry_since {r e} (h : Since s₀ s) : Since s₀ (closeEntry r e s) :=
  answerEntry_since (cutLocal_since h)

theorem closeNow_since {r e} (h : Since s₀ s) : Since s₀ (closeNow r e s) :=
  closeEntry_since (setEntry_since (joinAll_since h))

theorem endUndispatched_since {r status} (h : Since s₀ s) : Since s₀ (endUndispatched r status s) :=
  answerEntry_since (joinAll_since h)

theorem endDispatched_since {r status} (h : Since s₀ s) : Since s₀ (endDispatched r status s) :=
  answerEntry_since (foldl_snd_since (fun _ _ h => joinArrival_since h) (joinAll_since h))

/-! ### Flash -/

theorem setNand_since {b v} (h : Since s₀ s) : Since s₀ (setNand b v s) :=
  h

theorem blockFor_since {c keep r} (e : blockFor c keep s = some r) (h : Since s₀ s) : Since s₀ r.2 := by
  unfold blockFor at e
  split at e
  · cases e
  · split at e
    · cases e
      exact h
    · split at e
      · cases e
      · obtain ⟨_, _, rfl⟩ := Option.map_eq_some_iff.mp e
        exact h

theorem placeCodeword_since {keep idx c t} (e : placeCodeword keep idx c s = some t) (h : Since s₀ s) :
    Since s₀ t := by
  obtain ⟨_, hb, rfl⟩ := Option.map_eq_some_iff.mp e
  exact blockFor_since hb h

theorem placeTlpn_since {rewrite n t} (e : placeTlpn rewrite n s = some t) (h : Since s₀ s) :
    Since s₀ t :=
  foldlBind_since (fun _ _ _ e h => placeCodeword_since e h) e fun _ hs => Option.some.inj hs ▸ h

theorem retireOpen_since {c} (h : Since s₀ s) : Since s₀ (retireOpen s c) := by
  unfold retireOpen
  split
  · next found =>
    exact tally_since (blockFor_since found h)
  · exact h

theorem unplace_since {gone} (h : Since s₀ s) : Since s₀ (unplace gone s) :=
  h

theorem eraseBlock_since {fails b} (h : Since s₀ s) : Since s₀ (eraseBlock fails s b) :=
  setNand_since (ite_since (tally_since (ite_since h h)) (ite_since h h))

theorem relocateBlock_since {eraseFails writeFails b} (h : Since s₀ s) :
    Since s₀ (relocateBlock eraseFails writeFails b s) := by
  unfold relocateBlock
  extract_lets -underBinder _ _ start₁ start₂
  have hstart₁ : Since s₀ start₁ := ite_since h h
  have hstart₂ : Since s₀ start₂ := ite_since (retireOpen_since hstart₁) hstart₁
  split
  · next moved =>
    have placed := foldlBind_since (fun _ _ _ e h => placeCodeword_since e h) moved fun _ hs => Option.some.inj hs ▸ hstart₂
    exact eraseBlock_since (tally_since placed)
  · exact ite_since hstart₂ h

theorem tierMaintenance_since {fails programFails} (h : Since s₀ s) :
    Since s₀ (tierMaintenance fails programFails s) := by
  unfold tierMaintenance
  split
  · exact h
  · extract_lets -underBinder _ s₁ s₂
    have hs₂ : Since s₀ s₂ := foldl_since (fun _ _ h => eraseBlock_since h) h
    refine foldl_since (fun _ _ h => ?_) hs₂
    split
    · exact ite_since h (relocateBlock_since h)
    · exact h

theorem noteRead_since {t} (h : Since s₀ s) : Since s₀ (noteRead t s) :=
  foldl_since (fun _ _ h => ite_since h (setNand_since h)) h

theorem noteCorrected_since {t cs} (h : Since s₀ s) : Since s₀ (noteCorrected t cs s) :=
  foldl_since (fun _ _ h => ite_since h (setNand_since h)) (tallyBy_since h)

/-! ### DirOps -/

theorem setExtent_since {x v} (h : Since s₀ s) : Since s₀ (setExtent x v s) :=
  h

theorem allocExtent_since {p r} (e : allocExtent p s = some r) (h : Since s₀ s) : Since s₀ r.2 := by
  unfold allocExtent at e
  split at e
  · cases e
  · cases e
    exact setExtent_since (pick_since h)

theorem extToGrace_since {x} (h : Since s₀ s) : Since s₀ (extToGrace x s) := by
  unfold extToGrace
  split
  · exact setExtent_since h
  · exact h
  · exact h
  · exact h

theorem extToLive_since {x} (h : Since s₀ s) : Since s₀ (extToLive x s) := by
  unfold extToLive
  split
  · exact setExtent_since h
  · exact h
  · exact h
  · exact h

theorem writeEntry_since {i e} (h : Since s₀ s) : Since s₀ (writeEntry i e s) :=
  h

theorem repairEntry_since {i} (h : Since s₀ s) : Since s₀ (repairEntry i s) :=
  countEvent_since h

theorem repairAll_since {is} (h : Since s₀ s) : Since s₀ (repairAll is s) :=
  foldl_since (fun _ _ h => ite_since h (repairEntry_since h)) h

theorem repairHits_since {p key mask} (h : Since s₀ s) : Since s₀ (repairHits p key mask s) :=
  repairAll_since h

theorem takeFree_since {n t} (e : takeFree n s = some t) (h : Since s₀ s) : Since s₀ t := by
  rw [(takeFree_some e).2]
  exact h

theorem takeNode_since {n t} (e : takeNode n s = some t) (h : Since s₀ s) : Since s₀ t := by
  rw [takeNode_frame e]
  exact h

theorem takePort_since {n t} (e : takePort n s = some t) (h : Since s₀ s) : Since s₀ t := by
  rw [takePort_frame e]
  exact h

theorem takeEach_since {l} (h : Since s₀ s) : Since s₀ (takeEach l s).2 := by
  rw [takeEach_frame]
  exact h

theorem payNode_since {key costs} (h : Since s₀ s) : Since s₀ (payNode key costs s).2 :=
  ite_snd_since (takeEach_since h) (takeEach_since h)

theorem nodeSwap_since {i seen words tiers countM1 tail t} (e : nodeSwap i seen words tiers countM1 tail s = .made t)
    (h : Since s₀ s) : Since s₀ t := by
  unfold nodeSwap at e
  dsimp only at e
  split at e
  · cases e
  · next found =>
    obtain ⟨_, _, hx⟩ := Option.bind_eq_some_iff.mp found
    obtain ⟨_, alloc, hx⟩ := Option.map_eq_some_iff.mp hx
    cases hx
    split at e
    · cases e
    · cases e
      exact extToGrace_since (writeEntry_since (setExtent_since
        (allocExtent_since alloc (repairAll_since h))))

theorem nodeCreate_since {p key words tiers countM1 tail t} (e : nodeCreate p key words tiers countM1 tail s = some t)
    (h : Since s₀ s) : Since s₀ t := by
  unfold nodeCreate at e
  split at e
  · next alloc =>
    cases e
    exact writeEntry_since (setExtent_since (allocExtent_since alloc h))
  · cases e

theorem slotAwaits_since {slot} (h : Since s₀ s) : Since s₀ (slotAwaits s slot) :=
  h

theorem setTailBit_since {i tail} (h : Since s₀ s) : Since s₀ (setTailBit i tail s) :=
  ite_since h (writeEntry_since h)

theorem placeTail_since {ctx layer group} (h : Since s₀ s) : Since s₀ (placeTail ctx layer group s) :=
  foldl_since (fun _ _ h => setTailBit_since h) (repairHits_since h)

theorem tryStateSwap_since {w t} (e : tryStateSwap w s = some t) (h : Since s₀ s) : Since s₀ t := by
  unfold tryStateSwap at e
  split at e
  · cases e
    exact h
  · dsimp only at e
    split at e
    · cases e
      exact h
    · split at e
      · cases e
      · next taken =>
        split at e
        · next swapped =>
          cases e
          exact placeTail_since (nodeSwap_since swapped (takeNode_since taken h))
        · cases e
        · cases e

theorem stateSwap_since {i changes} (h : Since s₀ s) : Since s₀ (stateSwap i changes s) := by
  unfold stateSwap
  extract_lets -underBinder
  split
  · exact h
  · extract_lets -underBinder
    split
    · exact h
    · split
      · next found =>
        exact tryStateSwap_since found h
      · exact h

theorem markPages_since {p state i} (h : Since s₀ s) : Since s₀ (markPages p state i s) :=
  ite_since h (stateSwap_since h)

theorem suspectSlots_since {slots} (h : Since s₀ s) : Since s₀ (suspectSlots slots s) :=
  ite_since h (foldl_since (fun _ _ h => ite_since (markPages_since h) h) h)

/-! ### Hold -/

theorem advanceCmd_since {f cls} (h : Since s₀ s) : Since s₀ (advanceCmd f cls s) := by
  unfold advanceCmd
  extract_lets -underBinder
  split
  · exact setQueue_since h
  · exact h

theorem finishCmd_since {f cls status reason value} (h : Since s₀ s) :
    Since s₀ (finishCmd f cls status reason value s) := by
  unfold finishCmd
  split
  · exact endCommand_since (advanceCmd_since h)
  · exact h

theorem settleGo_since {f cls n} (h : Since s₀ s) : Since s₀ (settleGo f cls n s) := by
  rw [settleGo_frame]
  exact h

theorem settle_since {f cls} (h : Since s₀ s) : Since s₀ (settle f cls s) :=
  settleGo_since h

theorem abortDelta_since (h : Since s₀ s) : Since s₀ (abortDelta s) :=
  countEvent_since h

theorem endRequest_since {status r} (h : Since s₀ s) : Since s₀ (endRequest status s r) := by
  unfold endRequest
  split
  · exact h
  · exact h
  · exact endUndispatched_since h
  · exact endUndispatched_since h
  · exact endDispatched_since h

theorem endMoveOut_since {m status} (h : Since s₀ s) : Since s₀ (endMoveOut m status s) :=
  settle_since (finishCmd_since h)

theorem endOp_since {o status} (h : Since s₀ s) : Since s₀ (endOp o status s) :=
  settle_since (finishCmd_since h)

theorem opsAdvance_since {hit f} (h : Since s₀ s) : Since s₀ (opsAdvance hit f s) := by
  unfold opsAdvance
  refine foldl_since (fun o s h => ?_) h
  dsimp only
  split
  · exact ite_since (endOp_since h) h
  · exact h

theorem tileProgress_since {key code} (h : Since s₀ s) : Since s₀ (tileProgress key code s) :=
  opsAdvance_since h

theorem pageProgress_since {n code} (h : Since s₀ s) : Since s₀ (pageProgress n code s) :=
  opsAdvance_since h

theorem postDrops_since (h : Since s₀ s) : Since s₀ (postDrops s) := by
  unfold postDrops
  refine foldl_since (fun _ _ h => ?_) ?_ <;> exact h

theorem fenceWork_since (h : Since s₀ s) : Since s₀ (fenceWork s) :=
  postDrops_since <| res_since
    (foldl_since (fun _ _ h => slotAwaits_since h) <| foldl_since (fun _ _ h => endOp_since h) <|
      foldl_since (fun _ _ h => endMoveOut_since h) h)

theorem holdEffects_since (h : Since s₀ s) : Since s₀ (holdEffects s) := by
  unfold holdEffects
  extract_lets -underBinder _ s₁ s₂
  have hs₂ : Since s₀ s₂ := by
    dsimp only [s₂]
    split
    · exact abortDelta_since h
    · exact abortDelta_since h
    · exact h
    · exact h
  exact fenceWork_since (foldl_since (fun _ _ h => endRequest_since h) hs₂)

theorem enterHold_since {cause} (h : Since s₀ s) : Since s₀ (enterHold cause s) :=
  ite_since h (holdEffects_since h)

theorem raise_since {code unit args} (h : Since s₀ s) : Since s₀ (raise code unit args s) := by
  unfold raise
  extract_lets -underBinder s₁
  have hs₁ : Since s₀ s₁ := raiseRecord_since h
  split
  · exact enterHold_since hs₁
  · exact hs₁

theorem strikeUe_since {addr tell} (htell : KeepsSince s₀ (tell)) (h : Since s₀ s) :
    Since s₀ (strikeUe addr tell s) :=
  ite_since (htell h) (ite_since (raise_since (htell h)) (htell h))

theorem wearUe_since {unit} (h : Since s₀ s) : Since s₀ (wearUe unit s) :=
  ite_since (countWear_since h) h

theorem countUe_since {addr code unit args} (h : Since s₀ s) :
    Since s₀ (countUe addr code unit args s) :=
  strikeUe_since (fun _ h => raise_since h) (wearUe_since h)

theorem noteUe_since {addr unit} (h : Since s₀ s) : Since s₀ (noteUe addr unit s) :=
  strikeUe_since (fun _ h => h) (wearUe_since h)

theorem strikeCtx_since {ctx ue} (h : Since s₀ s) : Since s₀ (strikeCtx ctx ue s) := by
  unfold strikeCtx
  split
  · exact countUe_since h
  · exact h

/-! ### Command -/

theorem endCmd_since {c status reason value} (h : Since s₀ s) :
    Since s₀ (endCmd c status reason value s) :=
  settle_since (finishCmd_since h)

theorem refuseCmd_since {c reason} (h : Since s₀ s) : Since s₀ (refuseCmd c reason s) :=
  endCmd_since h

theorem runFront_since {c fs barred reason ok} (hok : ∀ a, KeepsSince s₀ (ok a)) (h : Since s₀ s) :
    Since s₀ (runFront c fs barred reason ok s) := by
  unfold runFront
  split
  · exact refuseCmd_since h
  · exact refuseCmd_since h
  · exact endCmd_since h
  · exact hok _ h

theorem runCmd_since {f cls op fs barred reason ok} (hok : ∀ a, KeepsSince s₀ (ok a)) (h : Since s₀ s) :
    Since s₀ (runCmd f cls op fs barred reason ok s) := by
  unfold runCmd
  split
  · exact h
  · exact runFront_since (fun _ _ h => hok _ h) h

/-! ### Sched -/

theorem markApplied_since {isl idx} (h : Since s₀ s) : Since s₀ (markApplied isl idx s) :=
  h

theorem linkUsed_since {sts use} (h : Since s₀ s) : Since s₀ (linkUsed sts use s) :=
  h

/-! ### Gravers -/

theorem substEvent_since {r g v x} (h : Since s₀ s) : Since s₀ (substEvent r g v x s) :=
  logEvent_since (tally_since h)

theorem pageErrors_since {g b ue} (h : Since s₀ s) : Since s₀ (pageErrors g b ue s) :=
  suspectSlots_since (foldl_since (fun _ _ h => countUe_since h) h)

theorem sheetErrors_since {g words} (h : Since s₀ s) : Since s₀ (sheetErrors g words s) :=
  foldl_since (fun _ _ h => countUe_since (countWear_since (tally_since h))) h

theorem sheetCorrected_since {g n} (h : Since s₀ s) : Since s₀ (sheetCorrected g n s) :=
  foldl_since (fun _ _ h => countEvent_since h) (countWear_since h)

theorem endSweep_since {g b sheet} (h : Since s₀ s) : Since s₀ (endSweep g b sheet s) :=
  setGraver_since h

theorem execSweep1State_since {g ue} (h : Since s₀ s) : Since s₀ (execSweep1State g ue s) := by
  unfold execSweep1State
  split
  · exact ite_since h <|
      pageErrors_since <|
      foldl_since (fun _ _ h => substEvent_since h) <|
      ite_since (countEvent_since (endSweep_since h)) (endSweep_since h)
  · exact h

theorem execSweep2State_since {g corrected ueWords} (h : Since s₀ s) :
    Since s₀ (execSweep2State g corrected ueWords s) := by
  unfold execSweep2State
  split
  · exact sheetErrors_since (sheetCorrected_since (endSweep_since h))
  · exact h

theorem execSweep3State_since {g ue corrected ueWords} (h : Since s₀ s) :
    Since s₀ (execSweep3State g ue corrected ueWords s) := by
  unfold execSweep3State
  split
  · exact ite_since h <|
      pageErrors_since <|
      foldl_since (fun _ _ h => substEvent_since h) <|
      sheetErrors_since (sheetCorrected_since (endSweep_since h))
  · exact h

theorem markSlip_since {g} (h : Since s₀ s) : Since s₀ (markSlip g s) := by
  unfold markSlip
  extract_lets -underBinder
  split
  · exact ite_since (setReq_since h) h
  · exact h

theorem execBlockCloseState_since {g} (h : Since s₀ s) : Since s₀ (execBlockCloseState g s) := by
  unfold execBlockCloseState
  split
  · exact setGraver_since (markSlip_since h)
  · exact h

theorem execCancelAtSweepBoundaryState_since {g} (h : Since s₀ s) :
    Since s₀ (execCancelAtSweepBoundaryState g s) := by
  unfold execCancelAtSweepBoundaryState
  extract_lets -underBinder
  split
  · exact setGraver_since (markSlip_since h)
  · exact h

theorem execChainMergeState_since {st id corrected flitUe} (h : Since s₀ s) :
    Since s₀ (execChainMergeState st id corrected flitUe s) := by
  unfold execChainMergeState
  extract_lets -underBinder
  split
  · exact h
  · split
    · extract_lets -underBinder s₁ _ _ _ _ s₂
      have hs₁ : Since s₀ s₁ := foldl_since
          (fun _ _ h => countEvent_since (countWear_since h)) h
      have hs₂ : Since s₀ s₂ := foldl_since (fun _ _ h => countUe_since h) hs₁
      split
      · exact pruneAnswered_since hs₂
      · exact hs₂
    · exact pruneAnswered_since (countEvent_since h)

theorem execOverrunState_since {g} (h : Since s₀ s) : Since s₀ (execOverrunState g s) := by
  unfold execOverrunState
  extract_lets -underBinder
  split
  · exact ite_since h <|
      markSlip_since (setGraver_since (ite_since h (countEvent_since (countWear_since h))))
  · exact h

theorem execSheetPatrolState_since {g corrected ueWord} (h : Since s₀ s) :
    Since s₀ (execSheetPatrolState g corrected ueWord s) := by
  unfold execSheetPatrolState
  dsimp only
  split
  · exact sheetCorrected_since h
  · apply sheetErrors_since
    split
    · exact ite_since (sheetCorrected_since h) (setGraver_since (sheetCorrected_since h))
    · exact sheetCorrected_since h

theorem execBankReadyState_since {g} (h : Since s₀ s) : Since s₀ (execBankReadyState g s) :=
  setGraver_since h

theorem fenceGraver_since {g} (h : Since s₀ s) : Since s₀ (fenceGraver g s) :=
  suspectSlots_since (setGraver_since (tally_since h))

theorem closeBestEffort_since (h : Since s₀ s) : Since s₀ (closeBestEffort s) := by
  unfold closeBestEffort
  refine foldl_since (fun _ _ h => ?_) h
  split
  · exact ite_since (closeEntry_since h) h
  · exact h

theorem execGraverHangState_since {g} (h : Since s₀ s) : Since s₀ (execGraverHangState g s) :=
  ite_since (closeBestEffort_since (fenceGraver_since (raise_since (tally_since h)))) h

/-! ### Directory -/

theorem strikeEntry_since {i f} (h : Since s₀ s) : Since s₀ (strikeEntry i f s) :=
  ite_since h h

theorem applyFlips_since {u} (h : Since s₀ s) : Since s₀ (applyFlips u s) := by
  unfold applyFlips
  extract_lets -underBinder s₁ s₂
  have hs₁ : Since s₀ s₁ := foldl_since (fun _ _ h => strikeEntry_since h) h
  have hs₂ : Since s₀ s₂ := foldl_since (fun _ _ h => strikeEntry_since h) hs₁
  exact foldl_since (fun _ _ h => strikeEntry_since h) hs₂

theorem entryLost_since {i} (h : Since s₀ s) : Since s₀ (entryLost i s) :=
  countUe_since (tally_since (writeEntry_since h))

theorem checkedSearch_since {p key mask from_ ue} (h : Since s₀ s) :
    Since s₀ (checkedSearch p key mask from_ ue s).2 :=
  repairHits_since (foldl_since (fun _ _ h => entryLost_since h) h)

theorem patrolEntry_since {ue i} (h : Since s₀ s) : Since s₀ (patrolEntry ue s i) :=
  ite_since (entryLost_since h) (repairAll_since h)

theorem execDirectoryPatrolState_since {u} (h : Since s₀ s) :
    Since s₀ (execDirectoryPatrolState u s) :=
  foldl_since (fun _ _ h => patrolEntry_since h) (applyFlips_since h)

theorem releaseLost_since {e} (h : Since s₀ s) : Since s₀ (releaseLost e s) := by
  unfold releaseLost
  split
  · exact extToGrace_since h
  · exact h

theorem trimTlpn_since {t} (h : Since s₀ s) : Since s₀ (trimTlpn s t) :=
  unplace_since h

theorem freeExtent_since {x} (h : Since s₀ s) : Since s₀ (freeExtent x s) :=
  foldl_since (fun _ _ h => trimTlpn_since h) <|
    foldl_since (fun _ _ h => slotAwaits_since h) (setExtent_since h)

theorem execExtentGraceEndState_since {x} (h : Since s₀ s) :
    Since s₀ (execExtentGraceEndState x s) := by
  unfold execExtentGraceEndState
  split
  · exact ite_since (freeExtent_since h) h
  · exact h
  · exact h
  · exact h

theorem retrySwap_since {w} (h : Since s₀ s) : Since s₀ (retrySwap s w) := by
  unfold retrySwap
  split
  · next found =>
    exact tryStateSwap_since found h
  · exact h

theorem execStateOnlySwapRetryState_since (h : Since s₀ s) :
    Since s₀ (execStateOnlySwapRetryState s) :=
  foldl_since (fun _ _ h => retrySwap_since h) h

theorem execTailClearOnCloseState_since {ctx} (h : Since s₀ s) :
    Since s₀ (execTailClearOnCloseState ctx s) := by
  unfold execTailClearOnCloseState
  split
  · next found =>
    extract_lets -underBinder _ s₁ _ s₂
    have hs₁ : Since s₀ s₁ := repairAll_since (takeNode_since found h)
    have hs₂ : Since s₀ s₂ := foldl_since (fun _ _ h => writeEntry_since h) hs₁
    exact hs₂
  · exact h

theorem execDirectoryLeaseExpiryState_since {i} (h : Since s₀ s) :
    Since s₀ (execDirectoryLeaseExpiryState i s) :=
  ite_since (logEvent_since (writeEntry_since h)) h

theorem setPort_since {p v} (h : Since s₀ s) : Since s₀ (setPort p v s) :=
  h

theorem portTurn_since {p op cost r} (e : portTurn p op cost s = some r) (h : Since s₀ s) :
    Since s₀ r.2 := by
  unfold portTurn at e
  extract_lets next at e
  split at e
  · split at e
    · obtain ⟨_, taken, rfl⟩ := Option.map_eq_some_iff.mp e
      have kept := takePort_since taken h
      exact kept
    · cases e
  · cases e

theorem portDone_since {p f} (h : Since s₀ s) : Since s₀ (portDone p f s) :=
  setPort_since h

theorem portResult_since {p reasons ok} (hok : KeepsSince s₀ (ok)) (h : Since s₀ s) :
    Since s₀ (portResult p reasons ok s) := by
  unfold portResult
  split
  · exact setPort_since h
  · exact hok h

theorem execSearchState_since {p} (h : Since s₀ s) : Since s₀ (execSearchState p s) := by
  unfold execSearchState
  split
  · exact h
  · next found =>
    refine portResult_since (fun _ h => ?_) (portTurn_since found h)
    extract_lets -underBinder h₁
    have hh₁ : Since s₀ h₁.2 := checkedSearch_since h
    split <;> exact portDone_since hh₁

theorem execCountState_since {p} (h : Since s₀ s) : Since s₀ (execCountState p s) := by
  unfold execCountState
  split
  · exact h
  · next found =>
    exact portResult_since (fun _ h => portDone_since (repairHits_since h)) (portTurn_since found h)

theorem execReadState_since {p} (h : Since s₀ s) : Since s₀ (execReadState p s) := by
  unfold execReadState
  split
  · exact h
  · next found =>
    exact portResult_since (fun _ h => portDone_since (repairAll_since h)) (portTurn_since found h)

theorem execInvalidateState_since {p} (h : Since s₀ s) : Since s₀ (execInvalidateState p s) := by
  unfold execInvalidateState
  split
  · exact h
  · next found =>
    extract_lets -underBinder
    exact portResult_since
        (fun _ h => portDone_since (extToGrace_since (writeEntry_since (repairAll_since h))))
        (portTurn_since found h)

theorem execWriteState_since {p} (h : Since s₀ s) : Since s₀ (execWriteState p s) := by
  unfold execWriteState
  split
  · exact h
  · next found =>
    exact portResult_since (fun _ h => portDone_since (writeEntry_since (repairAll_since h))) <|
      portTurn_since found h

theorem execValidateState_since {p} (h : Since s₀ s) : Since s₀ (execValidateState p s) := by
  unfold execValidateState
  split
  · exact h
  · next found =>
    extract_lets -underBinder
    exact portResult_since
        (fun _ h =>
            portDone_since <|
            releaseLost_since <|
            extToLive_since (writeEntry_since (repairHits_since (repairAll_since h))))
        (portTurn_since found h)

theorem execSwapState_since {p} (h : Since s₀ s) : Since s₀ (execSwapState p s) := by
  unfold execSwapState
  split
  · exact h
  · next found =>
    extract_lets -underBinder
    exact portResult_since
        (fun _ h =>
            portDone_since <|
            extToGrace_since (extToLive_since (writeEntry_since (repairAll_since h))))
        (portTurn_since found h)

theorem execReleaseState_since {p} (h : Since s₀ s) : Since s₀ (execReleaseState p s) := by
  unfold execReleaseState
  split
  · exact h
  · next found =>
    extract_lets -underBinder
    exact portResult_since
        (fun _ h => portDone_since (releaseLost_since (writeEntry_since (repairAll_since h))))
        (portTurn_since found h)

theorem bulkInvalidate_since {p key mask} (h : Since s₀ s) :
    Since s₀ (bulkInvalidate p key mask s).2 :=
  foldl_since (fun _ _ h => extToGrace_since (writeEntry_since h)) (repairHits_since h)

theorem execBulkInvalidateState_since {p} (h : Since s₀ s) :
    Since s₀ (execBulkInvalidateState p s) := by
  unfold execBulkInvalidateState
  split
  · exact h
  · next found =>
    exact portResult_since (fun _ h => portDone_since (bulkInvalidate_since h)) <|
      portTurn_since found h

/-! ### Rows -/

theorem takeSlot_since {p stack r} (e : takeSlot p stack s = some r) (h : Since s₀ s) : Since s₀ r.2 := by
  unfold takeSlot at e
  dsimp only at e
  split at e
  · cases e
  · cases e
    exact pick_since h

theorem setRunPages_since {ctx layer group run words tiers t} (e : setRunPages ctx layer group run words tiers s = some t)
    (h : Since s₀ s) : Since s₀ t := by
  unfold setRunPages at e
  dsimp only at e
  split at e
  · split at e
    · next swapped =>
      cases e
      exact nodeSwap_since swapped (repairHits_since h)
    · cases e
    · cases e
  · exact nodeCreate_since e (repairHits_since h)

theorem takeSlots_since {p ctx layer group pages r} (e : takeSlots p ctx layer group pages s = some r)
    (h : Since s₀ s) : Since s₀ r.2 := by
  induction pages generalizing s r with
  | nil =>
    cases e
    exact h
  | cons page t ih =>
    unfold takeSlots at e
    split at e
    · cases e
    · split at e
      · cases e
      · next taken =>
        obtain ⟨rest, others, rfl⟩ := Option.map_eq_some_iff.mp e
        exact ih (r := rest) others (takeSlot_since taken h)

theorem installPages_since {ctx layer group pages t} (e : installPages ctx layer group pages s = some t)
    (h : Since s₀ s) : Since s₀ t :=
  foldlBind_since (fun _ _ _ e h => setRunPages_since e h) e fun _ hs => Option.some.inj hs ▸ h

theorem setDirty_since {ctx layer group page} (h : Since s₀ s) :
    Since s₀ (setDirty ctx layer group page s) := by
  unfold setDirty
  split
  · exact h
  · have touched : Since s₀ { s with res.programs := _ } := h
    exact ite_since (setExtent_since touched) touched

theorem writeWhen_since {bestEffort ctx layer group pages fresh place}
    (hplace : ∀ s t, place s = .ok t → Since s₀ s → Since s₀ t) (h : Since s₀ s) :
    WriteEndSince s₀ (writeWhen bestEffort ctx layer group pages fresh place s) := by
  unfold writeWhen
  dsimp only
  split
  · trivial
  · split
    · exact h
    · split
      · next paid => exact snd_since paid (payNode_since h)
      · next paid =>
        split
        · trivial
        · next placed => exact linkUsed_since (hplace _ _ placed (snd_since paid (payNode_since h)))

theorem placeRows_since {w t} (e : placeRows w s = .ok t) (h : Since s₀ s) : Since s₀ t := by
  unfold placeRows at e
  dsimp only at e
  split at e
  · cases e
  · split at e
    · cases e
    · next taken =>
      split at e
      · cases e
      · next installed =>
        cases e
        have dirty := foldl_since (f := fun s p => setDirty w.ctx w.layer w.group p s) (l := touchedPages w.t0 w.recs.length)
          (fun _ _ h => setDirty_since h) (installPages_since installed (takeSlots_since taken h))
        exact placeTail_since (frame_since dirty rfl rfl rfl)

theorem storeRows_since {bestEffort w} (h : Since s₀ s) : WriteEndSince s₀ (storeRows bestEffort w s) :=
  writeWhen_since (fun _ _ e h => placeRows_since e h) h

theorem refusedWrite_since {create} (h : Since s₀ s) : Since s₀ (refusedWrite create s) :=
  ite_since (countEvent_since h) h

theorem takeWrite_since {m} (h : Since s₀ s) : Since s₀ (takeWrite m s) := by
  unfold takeWrite
  dsimp only
  split <;> exact returnCredit_since (inboxTake_since h)

/-! ### Attention -/

theorem takeIn_since {r} (h : Since s₀ s) : Since s₀ (takeIn r s) :=
  h

theorem execAttnState_since {c} (h : Since s₀ s) : Since s₀ (execAttnState c s) := by
  unfold execAttnState
  split
  · exact h
  · extract_lets -underBinder s₁ s₂
    have hs₁ : Since s₀ s₁ := inboxTake_since h
    have hs₂ : Since s₀ s₂ := countEvent_since (returnCredit_since hs₁)
    split
    · exact ite_since hs₂ (returnToken_since hs₂)
    · split
      · exact takeIn_since hs₁
      · exact ite_since (takeIn_since (setReq_since hs₁)) (takeIn_since hs₁)

theorem checkReq_since {r} (h : Since s₀ s) : Since s₀ (checkReq r s) := by
  unfold checkReq
  extract_lets -underBinder s₁ s₂ s₃ _ s₄ _ s₅
  have hs₁ : Since s₀ s₁ := ite_since (countEvent_since h) h
  have hs₂ : Since s₀ s₂ := ite_since (countEvent_since hs₁) hs₁
  have hs₃ : Since s₀ s₃ := by
    dsimp only [s₃]
    split
    · exact returnCredit_since hs₂
    · exact hs₂
  have hs₄ : Since s₀ s₄ := setReq_since hs₃
  have hs₅ : Since s₀ s₅ := ite_since hs₄ hs₄
  exact ite_since (refuseReq_since hs₃) hs₅

theorem execAttnCheckStrokeState_since {id ue} (h : Since s₀ s) :
    Since s₀ (execAttnCheckStrokeState id ue s) := by
  unfold execAttnCheckStrokeState
  split
  · extract_lets -underBinder struck
    have hstruck : Since s₀ struck := strikeCtx_since h
    exact ite_since h <|
      ite_since (setReq_since h) <|
      ite_since (ite_since (checkReq_since hstruck) h) (ite_since (checkReq_since hstruck) h)
  · exact h

theorem placeChild_since {t x a} (h : Since s₀ x.2) : Since s₀ (placeChild t x a).2 := by
  unfold placeChild
  split
  · exact countEvent_since h
  · exact ite_snd_since (countEvent_since h) h

theorem openEntry_since {r} (h : Since s₀ s) : Since s₀ (openEntry r s) := by
  unfold openEntry
  extract_lets -underBinder _ _ s₁
  split
  · exact foldl_snd_since (fun _ _ h => placeChild_since h) h
  · exact h

theorem admitReq_since {r} (h : Since s₀ s) : Since s₀ (admitReq r s) :=
  ite_since (refuseReq_since h) <|
    ite_since (openEntry_since (setReq_since h)) (openEntry_since (setReq_since h))

theorem execAdmissionStrokeState_since {id ue} (h : Since s₀ s) :
    Since s₀ (execAdmissionStrokeState id ue s) := by
  unfold execAdmissionStrokeState
  split
  · exact ite_since (admitReq_since (strikeCtx_since h)) h
  · exact h

theorem lookupCycle_since {r t} (e : lookupCycle r s = some t) (h : Since s₀ s) : Since s₀ t := by
  unfold lookupCycle at e
  split at e
  · split at e
    · cases e
      exact h
    · cases e
  · exact takeFree_since e h

theorem execAdmissionLookupState_since {id u} (h : Since s₀ s) :
    Since s₀ (execAdmissionLookupState id u s) := by
  unfold execAdmissionLookupState
  split
  · exact h
  · split
    · next cycle =>
      extract_lets -underBinder _ found s₁ s₂ _ s₃
      have hs₁ : Since s₀ s₁ := checkedSearch_since (applyFlips_since (lookupCycle_since cycle h))
      have hs₂ : Since s₀ s₂ := by
        dsimp only [s₂]
        split
        · exact hs₁
        · exact hs₁
      have hs₃ : Since s₀ s₃ := setReq_since hs₂
      exact tel_since hs₃
    · exact h

theorem deliver_since {r us} (h : Since s₀ s) : Since s₀ (deliver r us s) := by
  unfold deliver
  extract_lets -underBinder _ _ _ _ _ s₁ s₂ _ s₃
  have hs₁ : Since s₀ s₁ := foldl_since (fun _ _ h => countEvent_since h) h
  have hs₂ : Since s₀ s₂ := foldl_since (fun _ _ h => ite_since h (setGraver_since h)) hs₁
  have hs₃ : Since s₀ s₃ := setReq_since hs₂
  split
  · exact setEntry_since hs₃
  · exact hs₃

theorem extentErrors_since {r ue} (h : Since s₀ s) : Since s₀ (extentErrors r ue s) :=
  foldl_since (fun _ _ h => countUe_since h) h

theorem execWorkDispatchState_since {id ue} (h : Since s₀ s) :
    Since s₀ (execWorkDispatchState id ue s) := by
  unfold execWorkDispatchState
  split
  · exact h
  · split
    · exact h
    · split
      · exact ite_since h (deliver_since (extentErrors_since h))
      · exact h

theorem startBestEffort_since {id g} (h : Since s₀ s) : Since s₀ (startBestEffort id s g) :=
  setGraver_since h

theorem submitAttn_since {c} (h : Since s₀ s) : Since s₀ (submitAttn c s) :=
  settle_since (advanceCmd_since (takeIn_since h))

theorem execHostAttnState_since {f} (h : Since s₀ s) : Since s₀ (execHostAttnState f s) :=
  runCmd_since (fun _ _ h => ite_since (submitAttn_since h) h) h

theorem execAttnTokenTakenState_since {f} (h : Since s₀ s) :
    Since s₀ (execAttnTokenTakenState f s) := by
  unfold execAttnTokenTakenState
  split
  · exact ite_since (submitAttn_since h) h
  · exact h

theorem cancelReq_since {r} (h : Since s₀ s) : Since s₀ (cancelReq s r) := by
  unfold cancelReq
  extract_lets -underBinder s₁
  have hs₁ : Since s₀ s₁ := countEvent_since h
  split
  · exact hs₁
  · exact hs₁
  · exact endUndispatched_since hs₁
  · exact endUndispatched_since hs₁
  · exact hs₁

theorem checkBefore_since {tenant tag} (h : Since s₀ s) : Since s₀ (checkBefore tenant tag s) :=
  foldl_since (fun _ _ h => execAttnCheckStrokeState_since h) h

theorem cancelTag_since {tenant tag} (h : Since s₀ s) : Since s₀ (cancelTag tenant tag s).2 := by
  unfold cancelTag
  extract_lets -underBinder s₁
  have hs₁ : Since s₀ s₁ := checkBefore_since h
  exact ite_snd_since (countEvent_since hs₁) (foldl_since (fun _ _ h => cancelReq_since h) hs₁)

theorem execCancelState_since {c} (h : Since s₀ s) : Since s₀ (execCancelState c s) := by
  unfold execCancelState
  split
  · exact h
  · exact ite_since h <|
      ite_since (countEvent_since (returnCredit_since (inboxTake_since h))) <|
      cancelTag_since (returnCredit_since (inboxTake_since h))

theorem execHostCancelState_since {f} (h : Since s₀ s) : Since s₀ (execHostCancelState f s) :=
  runCmd_since (fun _ _ h => endCmd_since (cancelTag_since h)) h

theorem setLen_since {ctx newL} (h : Since s₀ s) : Since s₀ (setLen ctx newL s) :=
  h

theorem applyWrite_since {bestEffort part tenant hdr commit b} (h : Since s₀ s) :
    Since s₀ (applyWrite bestEffort part tenant hdr commit b s).2 := by
  unfold applyWrite
  dsimp only
  split
  · exact h
  · split
    · have stored := storeRows_since (bestEffort := bestEffort)
        (w := ⟨hdr.ctx, hdr.layer, hdr.group, hdr.t0, tokenRecs (ctxGeo hdr.ctx s) hdr.nrows b⟩) h
      split
      · next e =>
        rw [e] at stored
        exact ite_since (setLen_since stored) stored
      · exact refusedWrite_since h
      · next e =>
        rw [e] at stored
        exact stored
    · exact ite_since (setLen_since h) h

theorem admitWrite_since {commit m ue} (h : Since s₀ s) : Since s₀ (admitWrite commit m ue s) := by
  unfold admitWrite
  extract_lets -underBinder hdr s₁
  have applied := applyWrite_since (bestEffort := writeTurn m s₁ == .bestEffort) (part := (connRec m.conn s₁).part)
    (tenant := (connRec m.conn s₁).tenant) (hdr := hdr) (commit := commit) (b := m.body)
    (strikeCtx_since (ctx := hdr.ctx) (ue := ue) h)
  split
  · next e => exact snd_since e applied
  · next t e =>
    have taken := takeWrite_since (m := m) (snd_since e applied)
    extract_lets -underBinder _ t₁ t₂
    have ht₁ : Since s₀ t₁ := ite_since (countEvent_since taken) taken
    have ht₂ : Since s₀ t₂ := ite_since ht₁ (countEvent_since ht₁)
    exact sendCompletion_since ht₂

theorem execAppendState_since {c ue} (h : Since s₀ s) : Since s₀ (execAppendState c ue s) := by
  unfold execAppendState
  split
  · exact admitWrite_since h
  · exact h

theorem execCommitState_since {c ue} (h : Since s₀ s) : Since s₀ (execCommitState c ue s) := by
  unfold execCommitState
  split
  · exact admitWrite_since h
  · exact h

/-! ### Collator -/

theorem residueFails_since {r} (h : Since s₀ s) : Since s₀ (residueFails r s) := by
  unfold residueFails
  extract_lets -underBinder _ _ s₁ _ s₂
  have hs₁ : Since s₀ s₁ := handOver_since h
  have hs₂ : Since s₀ s₂ := raise_since (tally_since hs₁)
  exact ite_since (enterHold_since (tally_since hs₂)) hs₂

theorem execCollatorMergeState_since {id residueFault ueRows} (h : Since s₀ s) :
    Since s₀ (execCollatorMergeState id residueFault ueRows s) := by
  unfold execCollatorMergeState
  split
  · split
    · exact h
    · exact ite_since (residueFails_since h) <|
        ite_since (foldl_since (fun _ _ h => countUe_since h) h) <|
        ite_since
          (closeEntry_since <|
            setEntry_since (joinArrival_since (foldl_since (fun _ _ h => countUe_since h) h)))
          (setEntry_since (joinArrival_since (foldl_since (fun _ _ h => countUe_since h) h)))
  · exact h

theorem execChildImprState_since {c} (h : Since s₀ s) : Since s₀ (execChildImprState c s) := by
  unfold execChildImprState
  split
  · exact h
  · extract_lets -underBinder s₁ _ _ _ orphan repeated
    have hs₁ : Since s₀ s₁ := returnCredit_since (inboxTake_since h)
    have horphan : Since s₀ orphan := countEvent_since hs₁
    have hrepeated : Since s₀ repeated := countEvent_since hs₁
    split
    · split
      · exact horphan
      · exact ite_since hrepeated (setEntry_since hs₁)
    · exact ite_since horphan (ite_since hrepeated (setEntry_since hs₁))
    · exact ite_since horphan hs₁

theorem execOrphanState_since {tenant tag} (h : Since s₀ s) :
    Since s₀ (execOrphanState tenant tag s) :=
  ite_since (countEvent_since h) h

theorem closeStroke_since {r e} (h : Since s₀ s) : Since s₀ (closeStroke r e s) :=
  ite_since (setEntry_since (cutLocal_since (joinAll_since h))) (closeNow_since h)

theorem execCloseLineState_since {isl idx} (h : Since s₀ s) :
    Since s₀ (execCloseLineState isl idx s) := by
  unfold execCloseLineState
  split
  · exact h
  · extract_lets -underBinder s₁
    have hs₁ : Since s₀ s₁ := markApplied_since h
    refine foldl_since (fun _ _ h => ?_) hs₁
    split
    · exact h
    · exact h
    · exact endUndispatched_since h
    · exact endUndispatched_since h
    · split
      · exact h
      · exact ite_since (setEntry_since h) (closeStroke_since h)

theorem execCollatorEntryCloseState_since {tenant tag} (h : Since s₀ s) :
    Since s₀ (execCollatorEntryCloseState tenant tag s) := by
  unfold execCollatorEntryCloseState
  split
  · exact h
  · split
    · exact h
    · extract_lets -underBinder
      split
      · exact ite_since (closeNow_since h) h
      · exact ite_since (closeStroke_since h) h
      · exact h

/-! ### Lines -/

theorem dropPages_since {bad status r g} (h : Since s₀ s) : Since s₀ (dropPages bad status r g s) := by
  unfold dropPages
  dsimp only
  split
  · exact h
  · split
    · apply setEntry_since
      split
      · exact setReq_since (setGraver_since h)
      · exact setGraver_since h
    · split
      · exact setReq_since (setGraver_since h)
      · exact setGraver_since h

theorem dropLate_since {r g} (h : Since s₀ s) : Since s₀ (dropLate r g s) :=
  foldl_since (fun _ _ h => countEvent_since h) (dropPages_since h)

theorem openWindow_since {id l g} (h : Since s₀ s) : Since s₀ (openWindow id l s g) :=
  ite_since h (ite_since (setGraver_since h) (setGraver_since h))

theorem execWindowLineState_since {isl idx} (h : Since s₀ s) :
    Since s₀ (execWindowLineState isl idx s) := by
  unfold execWindowLineState
  split
  · exact h
  · extract_lets -underBinder s₁
    have hs₁ : Since s₀ s₁ := markApplied_since h
    split
    · exact hs₁
    · exact foldl_since (fun _ _ h => openWindow_since h) <|
        foldl_since (fun _ _ h => dropLate_since h) hs₁

theorem execBanksLineState_since {isl idx} (h : Since s₀ s) :
    Since s₀ (execBanksLineState isl idx s) := by
  unfold execBanksLineState
  split
  · exact h
  · exact foldl_since (fun _ _ h => ite_since h (setGraver_since h)) (markApplied_since h)

theorem setHeat_since {st v} (h : Since s₀ s) : Since s₀ (setHeat st v s) :=
  h

theorem enterBand_since {st b} (h : Since s₀ s) : Since s₀ (enterBand st b s) := by
  unfold enterBand
  extract_lets -underBinder _ s₁
  have hs₁ : Since s₀ s₁ := setHeat_since h
  split
  · exact hs₁
  · exact countEvent_since hs₁
  · exact countEvent_since hs₁
  · exact raise_since hs₁
  · exact raise_since hs₁

theorem repairPlate_since {st w} (h : Since s₀ s) : Since s₀ (repairPlate st s w) := by
  have noted := noteUe_since (addr := uePlate st w) (unit := unitStack st) h
  exact mem_since noted

theorem refreshStroke_since {st finds} (h : Since s₀ s) : Since s₀ (refreshStroke st finds s) := by
  unfold refreshStroke
  extract_lets -underBinder _ _ _ s₁ s₂
  have hs₂ : Since s₀ s₂ := foldl_since (fun _ _ h => countUe_since h) h
  exact ite_since hs₂ (foldl_since (fun _ _ h => repairPlate_since h) hs₂)

theorem plannedRefresh_since {st finds} (h : Since s₀ s) : Since s₀ (plannedRefresh st finds s) := by
  unfold plannedRefresh
  extract_lets -underBinder _ s₁ _ s₂
  have hs₁ : Since s₀ s₁ := by
    dsimp only [s₁]
    split
    · exact ite_since (enterBand_since h) h
    · exact h
  have hs₂ : Since s₀ s₂ := ite_since hs₁ hs₁
  exact refreshStroke_since hs₂

theorem execRefreshLineState_since {isl idx finds} (h : Since s₀ s) :
    Since s₀ (execRefreshLineState isl idx finds s) := by
  unfold execRefreshLineState
  split
  · exact ite_since (plannedRefresh_since (markApplied_since h)) h
  · split
    · split
      · exact plannedRefresh_since (markApplied_since h)
      · exact h
    · split
      · exact plannedRefresh_since (markApplied_since h)
      · exact h

theorem departOnce_since {isl unit} (h : Since s₀ s) : Since s₀ (departOnce isl unit s) :=
  ite_since h (countEvent_since h)

theorem execExtraRefreshState_since {st} (h : Since s₀ s) :
    Since s₀ (execExtraRefreshState st s) := by
  unfold execExtraRefreshState
  exact ite_since
      (ite_since
          (departOnce_since <|
            ite_since (departOnce_since (refreshStroke_since (markApplied_since h))) <|
            refreshStroke_since (markApplied_since h))
          (ite_since (departOnce_since (refreshStroke_since (markApplied_since h))) <|
            refreshStroke_since (markApplied_since h)))
      h

theorem retrainChannel_since {st} (h : Since s₀ s) : Since s₀ (retrainChannel st s) :=
  h

theorem execRetrainLineState_since {isl idx} (h : Since s₀ s) :
    Since s₀ (execRetrainLineState isl idx s) := by
  unfold execRetrainLineState
  split
  · exact retrainChannel_since (markApplied_since h)
  · exact h

theorem execDircycLineState_since {isl idx} (h : Since s₀ s) :
    Since s₀ (execDircycLineState isl idx s) := by
  unfold execDircycLineState
  split
  · extract_lets -underBinder _ s₁
    have hs₁ : Since s₀ s₁ := markApplied_since h
    split <;> exact hs₁
  · exact h

theorem issueStaging_since {st} (h : Since s₀ s) : Since s₀ (issueStaging st s) :=
  h

theorem execLinkLineState_since {isl idx} (h : Since s₀ s) :
    Since s₀ (execLinkLineState isl idx s) := by
  unfold execLinkLineState
  split
  · exact ite_since (issueStaging_since h) h
  · exact h

theorem execMaintLineState_since {isl idx eraseFails programFails} (h : Since s₀ s) :
    Since s₀ (execMaintLineState isl idx eraseFails programFails s) := by
  unfold execMaintLineState
  split
  · extract_lets -underBinder s₁
    have hs₁ : Since s₀ s₁ := markApplied_since h
    split
    · exact retrainChannel_since hs₁
    · exact tierMaintenance_since hs₁
    · exact hs₁
  · exact h

theorem telCopy_since (h : Since s₀ s) : Since s₀ (telCopy s) :=
  h

theorem execSampleLineState_since {isl idx} (h : Since s₀ s) :
    Since s₀ (execSampleLineState isl idx s) := by
  unfold execSampleLineState
  split
  · exact telCopy_since (markApplied_since h)
  · exact h

/-! ### Tier -/

theorem tierAlloc_since {p r} (e : tierAlloc p s = some r) (h : Since s₀ s) : Since s₀ r.2 := by
  unfold tierAlloc at e
  dsimp only at e
  split at e
  · cases e
  · split at e
    · cases e
      exact pick_since h
    · cases e

theorem writeTier_since {rewrite p n sl t} (e : writeTier rewrite p n sl s = some t)
    (h : Since s₀ s) : Since s₀ t := by
  obtain ⟨_, placed, rfl⟩ := Option.map_eq_some_iff.mp e
  have kept := placeTlpn_since placed h
  exact frame_since kept rfl rfl rfl

theorem trimRange_since {first n} (h : Since s₀ s) : Since s₀ (trimRange first n s) :=
  unplace_since h

theorem noteHomeRead_since {word tier} (h : Since s₀ s) : Since s₀ (noteHomeRead word tier s) :=
  ite_since (noteRead_since h) h

theorem startProgram_since {n p spill fn t} (e : startProgram n p spill fn s = some t) (h : Since s₀ s) :
    Since s₀ t := by
  unfold startProgram at e
  dsimp only at e
  split at e
  · cases e
  · obtain ⟨x, got, rfl⟩ := Option.map_eq_some_iff.mp e
    have kept : Since s₀ x.2 := by
      split at got
      · split at got
        · cases got
          exact h
        · cases got
      · exact tierAlloc_since got h
    exact res_since kept

theorem stallTier_since {op cause} (h : Since s₀ s) : Since s₀ (stallTier op cause s) :=
  ite_since h (raise_since (tally_since h))

theorem endStall_since (h : Since s₀ s) : Since s₀ (endStall s) :=
  h

theorem tierEffect_since {c} (h : Since s₀ s) : Since s₀ (tierEffect c s) := by
  unfold tierEffect
  extract_lets -underBinder
  split
  · exact endCmd_since (noteRead_since (b2Write_since h))
  · split
    · split
      · next written => exact endCmd_since (writeTier_since written h)
      · exact endCmd_since h
    · exact endCmd_since (trimRange_since h)

theorem tierFails_since {c} (h : Since s₀ s) : Since s₀ (tierFails c s) :=
  ite_since (endCmd_since (ite_since (tally_since h) h)) (stallTier_since h)

theorem tierCommand_since {op f ok} (h : Since s₀ s) : Since s₀ (tierCommand op f ok s) :=
  runCmd_since
      (fun _ _ h =>
          ite_since h <|
          ite_since (endCmd_since h) (ite_since (tierEffect_since h) (tierFails_since h)))
      h

theorem execTierReadState_since {f ok} (h : Since s₀ s) : Since s₀ (execTierReadState f ok s) :=
  tierCommand_since h

theorem execTierWriteState_since {f ok} (h : Since s₀ s) : Since s₀ (execTierWriteState f ok s) :=
  tierCommand_since h

theorem execTierTrimState_since {f ok} (h : Since s₀ s) : Since s₀ (execTierTrimState f ok s) :=
  tierCommand_since h

theorem mountTarget_since {t} (h : Since s₀ s) : Since s₀ (mountTarget s t) :=
  ite_since h h

theorem mounted_since {ts} (h : Since s₀ s) : Since s₀ (mounted ts s) :=
  foldl_since (fun _ _ h => eraseBlock_since h) <|
    unplace_since (foldl_since (fun _ _ h => mountTarget_since h) h)

theorem execFlashMountState_since {ts failure} (h : Since s₀ s) :
    Since s₀ (execFlashMountState ts failure s) := by
  unfold execFlashMountState
  split
  · split
    · exact stallTier_since h
    · exact mounted_since h
  · exact h

/-! ### Residency -/

theorem runRes_since {f op inHold fs reason ok} (hok : ∀ a, KeepsSince s₀ (ok a)) (h : Since s₀ s) :
    Since s₀ (runRes f op inHold fs reason ok s) := by
  unfold runRes
  split
  · exact h
  · exact ite_since h (runFront_since (fun _ _ h => hok _ h) h)

theorem storeCtx_since {ctx new} (h : Since s₀ s) : Since s₀ (storeCtx ctx new s) :=
  ite_since (ite_since h h) (ite_since h h)

theorem execContextWriteState_since {f} (h : Since s₀ s) : Since s₀ (execContextWriteState f s) :=
  runRes_since (fun _ _ h => endCmd_since (storeCtx_since h)) h

theorem allocExtents_since {p n r} (e : allocExtents p n s = some r) (h : Since s₀ s) : Since s₀ r.2 := by
  induction n generalizing s r with
  | zero =>
    cases e
    exact h
  | succ n ih =>
    obtain ⟨_, first, rest⟩ := Option.bind_eq_some_iff.mp e
    obtain ⟨last, others, rfl⟩ := Option.map_eq_some_iff.mp rest
    exact ih (r := last) others (allocExtent_since first h)

theorem execExtentGetState_since {f} (h : Since s₀ s) : Since s₀ (execExtentGetState f s) := by
  unfold execExtentGetState
  refine runRes_since (fun _ _ h => ?_) h
  split
  · next found =>
    exact endCmd_since (b2Write_since (allocExtents_since found h))
  · exact refuseCmd_since h

theorem reword_since {x words} (h : Since s₀ s) : Since s₀ (reword x words s) := by
  unfold reword
  extract_lets -underBinder _ s₁
  have hs₁ : Since s₀ s₁ := setExtent_since h
  refine foldl_since (fun _ _ h => ?_) hs₁
  exact h

theorem execExtentWriteState_since {f} (h : Since s₀ s) : Since s₀ (execExtentWriteState f s) :=
  runRes_since (fun _ _ h => endCmd_since (reword_since h)) h

theorem execExtentPutState_since {f} (h : Since s₀ s) : Since s₀ (execExtentPutState f s) :=
  runRes_since (fun _ _ h => endCmd_since (freeExtent_since h)) h

theorem runNamed_since {f op inHold fs reasons ok} (hok : ∀ a b, KeepsSince s₀ (ok a b)) (h : Since s₀ s) :
    Since s₀ (runNamed f op inHold fs reasons ok s) :=
  runRes_since (fun _ _ h' => ite_since h (ite_since (endCmd_since h') (hok _ _ h'))) h

theorem freeTile_since {key} (h : Since s₀ s) : Since s₀ (freeTile key s) :=
  h

theorem freeGone_since (h : Since s₀ s) : Since s₀ (freeGone s) :=
  foldl_since (fun _ _ h => tileProgress_since (freeTile_since h)) h

theorem pageLost_since {n} (h : Since s₀ s) : Since s₀ (pageLost n s) := by
  have counted : Since s₀ (if s.cool.flashGated then s else countEvent cTierLost unitNode (tally cCwFailed s)) :=
    ite_since h (countEvent_since (tally_since h))
  unfold pageLost
  dsimp only
  split
  · exact freeGone_since (stateSwap_since counted)
  · exact counted

theorem noteDrops_since {part ns} (h : Since s₀ s) : Since s₀ (noteDrops part ns s) := by
  unfold noteDrops
  split <;> exact h

theorem startOp_since {c tiles pages done codes} (h : Since s₀ s) :
    Since s₀ (startOp c tiles pages done codes s) :=
  ite_since (endCmd_since h) h

theorem leaveOut_since {code c out} (h : Since s₀ s) : Since s₀ (leaveOut code c out s) :=
  foldl_since (fun _ _ h => pageProgress_since (ite_since (slotAwaits_since h) h)) h

theorem abandonChange_since {c} (h : Since s₀ s) : Since s₀ (abandonChange c s) := by
  unfold abandonChange
  extract_lets -underBinder s₁
  have hs₁ : Since s₀ s₁ := leaveOut_since (countEvent_since h)
  split <;> exact hs₁

theorem countTimes_since {n c} (h : Since s₀ s) : Since s₀ (countTimes n c s) :=
  foldl_since (fun _ _ h => countEvent_since h) h

theorem changeMade_since {c} (h : Since s₀ s) : Since s₀ (changeMade c s) := by
  unfold changeMade
  extract_lets -underBinder _ _ s₁ s₂ s₃ s₄
  have hs₁ : Since s₀ s₁ := countTimes_since <|
    countTimes_since (countTimes_since (countTimes_since h))
  have hs₂ : Since s₀ s₂ := by
    dsimp only [s₂]
    split
    · refine foldl_since (fun _ _ h => ?_) hs₁
      exact h
    · exact hs₁
  have hs₃ : Since s₀ s₃ := noteDrops_since hs₂
  have hs₄ : Since s₀ s₄ := freeGone_since (placeTail_since hs₃)
  exact postDrops_since (foldl_since (fun _ _ h => pageProgress_since h) hs₄)

theorem readChange_since {failed c r} (e : readChange failed c s = some r) (h : Since s₀ s) :
    Since s₀ r.2 := by
  unfold readChange at e
  dsimp only at e
  split at e
  · cases e
  · have copied : ∀ (l : List PageChange) (s : State), Since s₀ s → Since s₀ (l.foldl (fun s m =>
        { noteHomeRead m.old m.tier s with
          mem.stk := writePage s.mem.stk (slotPlace (wordSlot m.new)) (homeSlice m.old m.tier s) }) s) := fun _ _ h =>
      foldl_since (fun _ _ h => mem_since (noteHomeRead_since h)) h
    have lost := fun (l : List PageChange) (s : State) (h : Since s₀ s) =>
      foldl_since (f := fun s m => pageLost (c.page m.pos) s) (l := l) (fun _ _ h => pageLost_since h) h
    split at e <;> cases e <;> exact copied _ _ (lost _ _ (leaveOut_since (linkUsed_since h)))

theorem swapChange_since {c seen} (h : Since s₀ s) : ChangeEndSince s₀ (swapChange c seen s) := by
  unfold swapChange
  split
  · exact abandonChange_since h
  · exact h
  · next taken =>
    have kept := takeNode_since taken h
    dsimp only
    split
    · next swapped => exact changeMade_since (nodeSwap_since swapped kept)
    · exact abandonChange_since kept
    · split
      · exact abandonChange_since kept
      · exact leaveOut_since kept

theorem tryChange_since {failed c} (h : Since s₀ s) : ChangeEndSince s₀ (tryChange failed c s) := by
  unfold tryChange
  split
  · split
    · exact h
    · exact swapChange_since h
  · split
    · exact h
    · split
      · exact stallTier_since h
      · split
        · exact h
        · next read =>
          have kept := readChange_since read h
          split
          · split
            · exact kept
            · exact swapChange_since kept
          · exact kept

theorem driveChanges_since {mine failed} (h : Since s₀ s) : Since s₀ (driveChanges mine failed s) := by
  refine foldl_since (fun c s h => ?_) h
  have tried := tryChange_since (failed := failed) (c := c)
    (s := { s with res.changes := s.res.changes.filter (· != c) }) h
  dsimp only
  split
  · next e =>
    rw [e] at tried
    exact tried
  · next e =>
    rw [e] at tried
    exact tried

theorem startChange_since {c} (h : Since s₀ s) : Since s₀ (startChange c s) :=
  ite_since h (driveChanges_since h)

theorem driveOwn_since {f failed} (h : Since s₀ s) : Since s₀ (driveOwn f failed s) :=
  driveChanges_since h

theorem reserveTiles_since {p st first last l} (h : Since s₀ s) :
    Since s₀ (reserveTiles p st first last l s).2 := by
  induction l generalizing s with
  | nil => exact h
  | cons n t ih => exact ih (pick_since h)

theorem execStageState_since {f} (h : Since s₀ s) : Since s₀ (execStageState f s) :=
  runNamed_since
      (fun _ _ _ h => ite_since (endCmd_since h) (startOp_since (reserveTiles_since h))) h

theorem tileStood_since {key t} (h : Since s₀ s) : Since s₀ (tileStood key t s) := by
  have noted := noteHomeRead_since (word := wordOf t.page s) (tier := tierOf t.page s) h
  exact tileProgress_since (frame_since noted rfl rfl rfl)

theorem dropPlanned_since {key n} (h : Since s₀ s) : Since s₀ (dropPlanned key n s) :=
  foldl_since (fun _ _ h => foldl_since (fun _ _ h => dropPages_since h) h) h

theorem stageFails_since {key t} (h : Since s₀ s) : Since s₀ (stageFails key t s) :=
  pageLost_since (tileProgress_since (freeTile_since (dropPlanned_since h)))

theorem stageReadFails_since {key t} (h : Since s₀ s) : Since s₀ (stageReadFails key t s) :=
  ite_since (stageFails_since h) (stallTier_since h)

theorem execTileStandsState_since {st tile corrected} (h : Since s₀ s) :
    Since s₀ (execTileStandsState st tile corrected s) := by
  unfold execTileStandsState
  extract_lets -underBinder
  split
  · exact h
  · exact ite_since (ite_since (stageReadFails_since h) (tileStood_since (noteCorrected_since h)))
        (ite_since (tileStood_since h) (tileProgress_since (freeTile_since h)))

theorem execStageReadFailedState_since {st tile} (h : Since s₀ s) :
    Since s₀ (execStageReadFailedState st tile s) := by
  unfold execStageReadFailedState
  extract_lets -underBinder
  split
  · exact h
  · exact ite_since h (stageReadFails_since h)

theorem execTileFreeState_since {st tile} (h : Since s₀ s) :
    Since s₀ (execTileFreeState st tile s) := by
  unfold execTileFreeState
  extract_lets -underBinder
  split
  · exact h
  · exact ite_since (tileProgress_since (freeTile_since h)) h

theorem reserveSlots_since {p st l} (h : Since s₀ s) : Since s₀ (reserveSlots p st l s).2 := by
  induction l generalizing s with
  | nil => exact h
  | cons n t ih =>
    unfold reserveSlots
    split
    · next taken => exact ih (takeSlot_since taken h)
    · exact h

theorem rehomeRun_since {p st f ns} (h : Since s₀ s) : Since s₀ (rehomeRun p st f s ns) := by
  unfold rehomeRun
  split
  · exact h
  · exact reserveSlots_since h

theorem execRehomeState_since {f failed} (h : Since s₀ s) : Since s₀ (execRehomeState f failed s) :=
  ite_since (driveOwn_since h) <|
    runNamed_since
      (fun _ _ _ h =>
          ite_since (endCmd_since h) <|
          driveOwn_since (startOp_since (foldl_since (fun _ _ h => rehomeRun_since h) h)))
      h

theorem vaultStack_since {p r} (e : vaultStack p s = some r) (h : Since s₀ s) : Since s₀ r.2 := by
  unfold vaultStack at e
  dsimp only at e
  split at e
  · cases e
  · cases e
    exact pick_since h

theorem toVault_since {p n r x} (e : toVault p n r s = some x) (h : Since s₀ s) : Since s₀ x.2 := by
  unfold toVault at e
  split at e
  · cases e
  · next stack =>
    obtain ⟨_, taken, rfl⟩ := Option.map_eq_some_iff.mp e
    exact takeSlot_since taken (vaultStack_since stack h)

theorem toFlash_since {p n fn r x} (e : toFlash p n fn r s = some x) (h : Since s₀ s) : Since s₀ x.2 := by
  unfold toFlash at e
  dsimp only at e
  split at e
  · cases e
    exact h
  · split at e
    · cases e
      exact h
    · split at e
      · cases e
        exact h
      · obtain ⟨_, started, rfl⟩ := Option.map_eq_some_iff.mp e
        exact linkUsed_since (startProgram_since started h)

theorem evictPage_since {p target fn acc n} (h : Since s₀ acc.2) :
    Since s₀ (evictPage p target fn acc n).2 := by
  unfold evictPage
  extract_lets -underBinder _ s₁ _ own done
  exact ite_snd_since h <|
    ite_snd_since (ite_snd_since h h) <|
    ite_snd_since h <|
    ite_snd_since (ite_snd_since h (getD_snd_since (fun _ e => toVault_since e h) h)) <|
    ite_snd_since h (getD_snd_since (fun _ e => toFlash_since e h) h)

theorem evictUnit_since {p target fn acc n} (h : Since s₀ acc.2.2) :
    Since s₀ (evictUnit p target fn acc n).2.2 :=
  foldl_snd_since (fun _ _ h => evictPage_since h) h

theorem evictUnits_since {p target fn} (l : List Named) {acc} (h : Since s₀ acc.2.2) :
    Since s₀ (l.foldl (evictUnit p target fn) acc).2.2 := by
  induction l generalizing acc with
  | nil => exact h
  | cons n l ih => exact ih (evictUnit_since h)

theorem execEvictState_since {f} (h : Since s₀ s) : Since s₀ (execEvictState f s) :=
  ite_since (driveOwn_since h) <| runNamed_since
    (fun _ _ _ h' => ite_since h (driveOwn_since (startOp_since (evictUnits_since _ h')))) h

theorem writeBackPage_since {p tenant fn acc n} (h : Since s₀ acc.2) :
    Since s₀ (writeBackPage p tenant fn acc n).2 := by
  unfold writeBackPage
  extract_lets -underBinder _ s₁
  split
  · exact h
  · split
    · exact h
    · split
      · exact h
      · split
        · exact h
        · split
          · exact h
          · split
            · next found =>
              exact linkUsed_since (startProgram_since found h)
            · exact h

theorem execWriteBackState_since {f} (h : Since s₀ s) : Since s₀ (execWriteBackState f s) :=
  runNamed_since
      (fun _ _ _ h' =>
          ite_since h (startOp_since (foldl_snd_since (fun _ _ h' => writeBackPage_since h') h')))
      h

theorem programFails_since {pr} (h : Since s₀ s) : Since s₀ (programFails pr s) := by
  have dropped : Since s₀ { s with res.programs := s.res.programs.filter fun x => x.page != pr.page } := h
  exact postDrops_since (pageProgress_since (ite_since (startChange_since dropped) dropped))

theorem programOk_since {rewrite pr} (h : Since s₀ s) :
    Since s₀ (programOk rewrite pr s) := by
  have dropped : Since s₀ { s with res.programs := s.res.programs.filter fun x => x.page != pr.page } := h
  unfold programOk
  extract_lets -underBinder
  split
  · exact postDrops_since (pageProgress_since dropped)
  · split
    · exact postDrops_since (pageProgress_since dropped)
    · split
      · exact programFails_since h
      · next written =>
        extract_lets -underBinder x t _ s₁
        have stored : Since s₀ s₁ := setExtent_since (writeTier_since written dropped)
        exact ite_since (pageProgress_since stored) <|
          ite_since (postDrops_since (pageProgress_since stored)) (startChange_since stored)

theorem execTierProgramDoneState_since {index failed} (h : Since s₀ s) :
    Since s₀ (execTierProgramDoneState index failed s) := by
  unfold execTierProgramDoneState
  split
  · exact h
  · next pr found =>
    have retired := fun l : List Nat => foldl_since (f := retireOpen) (l := l) (fun _ _ h => retireOpen_since h) h
    exact ite_since h <| ite_since (programFails_since h) <| ite_since (programOk_since (retired _)) <|
      ite_since (programFails_since (retired _)) (stallTier_since (retired _))

/-! ### Moves -/

theorem placePage_since {hdr payload t} (e : placePage hdr payload s = .ok t) (h : Since s₀ s) :
    Since s₀ t := by
  unfold placePage at e
  dsimp only at e
  split at e
  · cases e
  · split at e
    · cases e
    · next taken =>
      split at e
      · cases e
      · next set =>
        cases e
        have kept := setRunPages_since set (takeSlot_since taken h)
        exact placeTail_since (frame_since kept rfl rfl rfl)

theorem takePage_since {bestEffort hdr payload} (h : Since s₀ s) :
    Since s₀ (takePage bestEffort hdr payload s).2 := by
  have written := writeWhen_since (bestEffort := bestEffort) (ctx := hdr.ctx) (layer := hdr.layer) (group := hdr.group)
    (pages := [hdr.page]) (fresh := [hdr.page]) (place := placePage hdr payload) (fun _ _ e h => placePage_since e h) h
  unfold takePage
  split
  · next e =>
    rw [e] at written
    exact written
  · exact refusedWrite_since h
  · next e =>
    rw [e] at written
    exact written

theorem admitMove_since {isExport m} (h : Since s₀ s) : Since s₀ (admitMove isExport m s) := by
  have taken : ∀ hdr : MoveHdr, ∀ st : Nat, Since s₀ (if st ≠ stOk then (some st, s)
      else takePage (writeTurn m s == .bestEffort) hdr (m.body.drop 32) s).2 := fun _ _ =>
    ite_snd_since h (takePage_since h)
  unfold admitMove
  dsimp only
  split
  · next e => exact snd_since e (taken _ _)
  · next e =>
    have written := takeWrite_since (m := m) (snd_since e (taken _ _))
    have counted := ite_since (c := moveIngestBad m.body s = true) (countEvent_since (c := cIngestReject)
      (unit := unitConn m.conn) written) written
    exact sendCompletion_since (ite_since (countEvent_since counted) counted)

theorem execMoveState_since {c} (h : Since s₀ s) : Since s₀ (execMoveState c s) := by
  unfold execMoveState
  split
  · exact admitMove_since h
  · exact h

theorem execExportState_since {c} (h : Since s₀ s) : Since s₀ (execExportState c s) := by
  unfold execExportState
  split
  · exact admitMove_since h
  · exact h

theorem pageWriteCounts_since {f} (h : Since s₀ s) : Since s₀ (pageWriteCounts f s) := by
  unfold pageWriteCounts
  split
  · exact h
  · exact ite_since h <|
      ite_since (countEvent_since (ite_since (countEvent_since h) h)) <|
      ite_since (countEvent_since h) h

theorem execPageWriteState_since {f} (h : Since s₀ s) : Since s₀ (execPageWriteState f s) := by
  unfold execPageWriteState
  refine runRes_since (fun c s h => ?_) (pageWriteCounts_since h)
  have taken := takePage_since (bestEffort := false) (hdr := pageWriteHdr c) (payload := pageWritePayload c s) h
  dsimp only
  split
  · exact endCmd_since h
  · split
    · next e => exact endCmd_since (snd_since e taken)
    · next e => exact snd_since e taken

theorem sendPage_since {m n} (h : Since s₀ s) : Since s₀ (sendPage m n s).2 := by
  unfold sendPage
  split
  · exact h
  · exact queueMsg_since h

theorem keepMoveOut_since {m} (h : Since s₀ s) : Since s₀ (keepMoveOut m s) :=
  ite_since (endMoveOut_since h) h

theorem skipPage_since {m codes} (h : Since s₀ s) : Since s₀ (skipPage m codes s) :=
  keepMoveOut_since h

theorem sendGo_since {f failed fuel} (h : Since s₀ s) : Since s₀ (sendGo f failed fuel s) := by
  induction fuel generalizing s with
  | zero => exact h
  | succ fuel ih =>
    unfold sendGo
    split
    · exact h
    · split
      · exact h
      · refine ite_since (ih (skipPage_since (countEvent_since h))) <|
          ite_since (ih (skipPage_since h)) <| ite_since h <| ite_since h <|
          ite_since (ite_since (ih (skipPage_since h)) <|
            ite_since (ih (skipPage_since (pageLost_since h))) (stallTier_since h)) ?_
        exact ih (keepMoveOut_since (sendPage_since
          (ite_since (linkUsed_since h) (noteHomeRead_since h))))

theorem execMoveOutState_since {f failed} (h : Since s₀ s) : Since s₀ (execMoveOutState f failed s) :=
  ite_since h (ite_since (sendGo_since h) (runNamed_since (fun _ _ _ h => sendGo_since h) h))

theorem releasePage_since {n t} (e : releasePage n s = some t) (h : Since s₀ s) : Since s₀ t := by
  unfold releasePage at e
  split at e
  · cases e
    exact h
  · dsimp only at e
    split at e
    · next swapped =>
      cases e
      have freed := nodeSwap_since swapped h
      exact freeGone_since (placeTail_since (res_since freed))
    · cases e
    · cases e

theorem moveEnded_since {m tag status} (h : Since s₀ s) : Since s₀ (moveEnded m tag status s) := by
  unfold moveEnded
  split
  · exact h
  · extract_lets -underBinder
    split
    · exact keepMoveOut_since h
    · split
      · split
        · next found =>
          exact keepMoveOut_since (releasePage_since found h)
        · exact keepMoveOut_since (countEvent_since h)
      · exact keepMoveOut_since h

theorem execMoveOutCompletionState_since {c} (h : Since s₀ s) :
    Since s₀ (execMoveOutCompletionState c s) := by
  unfold execMoveOutCompletionState
  split
  · exact h
  · extract_lets -underBinder
    split
    · split
      · split
        · next found =>
          exact moveEnded_since (returnCredit_since (inboxTake_since (takeNode_since found h)))
        · exact h
      · exact moveEnded_since (returnCredit_since (inboxTake_since h))
    · exact returnCredit_since (inboxTake_since h)

theorem execMoveOutTimeoutState_since {f} (h : Since s₀ s) :
    Since s₀ (execMoveOutTimeoutState f s) := by
  unfold execMoveOutTimeoutState
  split
  · exact ite_since (endMoveOut_since h) h
  · exact h

theorem execExportOutState_since {f failed} (h : Since s₀ s) :
    Since s₀ (execExportOutState f failed s) :=
  ite_since h (ite_since (sendGo_since h) (runNamed_since (fun _ _ _ h => sendGo_since h) h))

theorem exportUnstall_since {f ok} (h : Since s₀ s) : Since s₀ (exportUnstall f ok s) := by
  unfold exportUnstall
  split
  · exact h
  · exact ite_since (sendGo_since h) (skipPage_since h)

/-! ### Time -/

theorem setCountTo_since {c} (h : Since s₀ s) : Since s₀ (setCountTo c s) :=
  ite_since h h

theorem execSetSecondsState_since (h : Since s₀ s) : Since s₀ (execSetSecondsState s) :=
  ite_since (countEvent_since h) (setCountTo_since h)

theorem stepTime_since {ns} (h : Since s₀ s) : Since s₀ (stepTime ns s) :=
  h

theorem takeCount_since {sec} (h : Since s₀ s) : Since s₀ (takeCount sec s).2 := by
  unfold takeCount
  split
  · exact h
  · exact ite_snd_since (countEvent_since h) (stepTime_since h)

theorem acquire_since {sample interval} (h : Since s₀ s) : Since s₀ (acquire sample interval s) :=
  takeCount_since (stepTime_since h)

theorem registrationMark_since {sample sec} (h : Since s₀ s) :
    Since s₀ (Machine.registrationMark sample sec s) :=
  takeCount_since h

theorem farEdge_since {sample} (h : Since s₀ s) : Since s₀ (farEdge sample s) :=
  ite_since h (ite_since h (ite_since (raise_since h) h))

theorem execPpsEdgeState_since {sample high} (h : Since s₀ s) :
    Since s₀ (execPpsEdgeState sample high s) := by
  unfold execPpsEdgeState
  split
  · exact h
  · split
    · exact countEvent_since h
    · split
      · exact h
      · split
        · exact h
        · exact ite_since (acquire_since h) h
      · exact ite_since (registrationMark_since h) (countEvent_since h)
      · exact ite_since (registrationMark_since h) (farEdge_since (countEvent_since h))

theorem execPhaseStepState_since (h : Since s₀ s) : Since s₀ (execPhaseStepState s) :=
  ite_since (markApplied_since h) h

theorem execMarkMissingState_since (h : Since s₀ s) : Since s₀ (execMarkMissingState s) := by
  unfold execMarkMissingState
  extract_lets -underBinder
  split
  · exact ite_since (ite_since (raise_since h) h) h
  · exact ite_since (ite_since (raise_since h) h) h
  · exact h

theorem execReregState_since (h : Since s₀ s) : Since s₀ (execReregState s) :=
  ite_since h h

theorem reregStep_since {dest} (h : Since s₀ s) : Since s₀ (reregStep dest s) := by
  unfold reregStep
  split
  · exact ite_since h h
  · exact h

theorem execRegistrationState_since {failed dest} (h : Since s₀ s) :
    Since s₀ (execRegistrationState failed dest s) :=
  ite_since
      (ite_since (reregStep_since (emit_since h)) <|
        ite_since (countEvent_since (ite_since h h)) h)
      h

theorem endRegistration_since (h : Since s₀ s) : Since s₀ (endRegistration s) :=
  h

theorem registrationEnds_since (h : Since s₀ s) : Since s₀ (registrationEnds s) := by
  unfold registrationEnds
  split
  · exact ite_since (endRegistration_since h) h
  · exact h

theorem registrationLoss_since (h : Since s₀ s) : Since s₀ (registrationLoss s) :=
  ite_since (raise_since (countEvent_since h)) h

theorem relayBarrier_since {b} (h : Since s₀ s) : Since s₀ (relayBarrier b s) :=
  ite_since h (foldl_since (fun _ _ h => queueMsg_since h) h)

theorem pendBarrier_since {pass id} (h : Since s₀ s) : Since s₀ (pendBarrier pass id s) :=
  h

theorem takeBarrier_since {b} (h : Since s₀ s) : Since s₀ (takeBarrier b s) := by
  unfold takeBarrier
  exact ite_since (countEvent_since h) <|
    ite_since h <|
    relayBarrier_since (ite_since (setCountTo_since (pendBarrier_since h)) (pendBarrier_since h))

theorem execBarrierState_since {c} (h : Since s₀ s) : Since s₀ (execBarrierState c s) := by
  unfold execBarrierState
  split
  · exact h
  · extract_lets -underBinder s₁
    have hs₁ : Since s₀ s₁ := returnCredit_since (inboxTake_since h)
    split
    · exact hs₁
    · split
      · exact countEvent_since hs₁
      · exact takeBarrier_since hs₁

theorem execTimCtrlBarrierState_since (h : Since s₀ s) : Since s₀ (execTimCtrlBarrierState s) :=
  ite_since h (takeBarrier_since h)

theorem sampleBarrier_since {sample} (h : Since s₀ s) : Since s₀ (sampleBarrier sample s) :=
  ite_since (pendBarrier_since h) (countEvent_since h)

theorem execBarrierOutPulseState_since (h : Since s₀ s) : Since s₀ (execBarrierOutPulseState s) :=
  ite_since (sampleBarrier_since (driveBarrier_since h)) h

theorem execBarrierInEdgeState_since {rising sample} (h : Since s₀ s) :
    Since s₀ (execBarrierInEdgeState rising sample s) :=
  ite_since (sampleBarrier_since (driveBarrier_since h)) (driveBarrier_since h)

theorem execBarrierStartState_since (h : Since s₀ s) : Since s₀ (execBarrierStartState s) := by
  unfold execBarrierStartState
  split
  · exact ite_since (ite_since h (countEvent_since h)) h
  · exact h

theorem execHeartbeatState_since {c} (h : Since s₀ s) : Since s₀ (execHeartbeatState c s) := by
  unfold execHeartbeatState
  split
  · exact h
  · extract_lets -underBinder s₁ _ _ _ s₂
    have hs₁ : Since s₀ s₁ := returnCredit_since (inboxTake_since h)
    have hs₂ : Since s₀ s₂ := setAux_since hs₁
    exact ite_since (countEvent_since hs₁) (ite_since (countEvent_since hs₂) hs₂)

theorem execPeersLostState_since {c} (h : Since s₀ s) : Since s₀ (execPeersLostState c s) :=
  ite_since (raise_since (tally_since (setAux_since h))) h

/-! ### Wire -/

theorem setFport_since {p v} (h : Since s₀ s) : Since s₀ (setFport p v s) :=
  h

theorem setKeyPos_since {slot pos v} (h : Since s₀ s) : Since s₀ (setKeyPos slot pos v s) :=
  h

theorem erasePos_since {slot pos} (h : Since s₀ s) : Since s₀ (erasePos slot pos s) :=
  setKeyPos_since h

theorem writePos_since {i key t} (e : writePos i key s = some t) (h : Since s₀ s) : Since s₀ t := by
  unfold writePos at e
  dsimp only at e
  split at e
  · cases e
  · cases e
    exact h

theorem installPos_since {slot pos key} (h : Since s₀ s) : Since s₀ (installPos slot pos key s) := by
  unfold installPos
  extract_lets -underBinder
  split
  · next found =>
    exact writePos_since found h
  · exact countEvent_since h

theorem writesGo_since {l} (h : Since s₀ s) : Since s₀ (writesGo l s) := by
  induction l generalizing s with
  | nil => exact h
  | cons w t ih =>
    unfold writesGo
    split
    · next written => exact ih (writePos_since written h)
    · exact ih h

theorem endLatches_since {rest} (h : Since s₀ s) : Since s₀ (endLatches rest s) :=
  writesGo_since h

theorem zeroRanks_since {p} (h : Since s₀ s) : Since s₀ (zeroRanks p s) :=
  endLatches_since h

theorem setRing_since {r v} (h : Since s₀ s) : Since s₀ (setRing r v s) :=
  h

theorem toRing_since {r m} (h : Since s₀ s) : Since s₀ (toRing r m s) := by
  unfold toRing
  dsimp only
  have counted := countEvent_since (c := cRingWait) (unit := unitConn m.conn) h
  split
  · split
    · exact setRing_since h
    · split
      · exact returnCredit_since counted
      · exact counted
  · split
    · exact returnCredit_since counted
    · exact counted

theorem endWorkReq_since {slot status} (h : Since s₀ s) : Since s₀ (endWorkReq slot status s) := by
  unfold endWorkReq
  split
  · exact h
  · exact toRing_since h

theorem abortLoad_since {id} (h : Since s₀ s) : Since s₀ (abortLoad id s) :=
  countEvent_since (emit_since h)

theorem endAwaiting_since {c status w} (h : Since s₀ s) : Since s₀ (endAwaiting c status s w) := by
  unfold endAwaiting
  split
  · exact toRing_since h
  · exact endWorkReq_since h
  · split
    · exact ite_since h (abortLoad_since h)
    · exact h
  · exact h
  · exact h
  · exact h

theorem endMessages_since {c status k} (h : Since s₀ s) : Since s₀ (endMessages c status k s) := by
  unfold endMessages
  extract_lets -underBinder _ s₁ s₂ s₃
  have hs₁ : Since s₀ s₁ := setAux_since h
  have hs₂ : Since s₀ s₂ := foldl_since (fun _ _ h => endAwaiting_since h) hs₁
  have hs₃ : Since s₀ s₃ := foldl_since (fun _ _ h => endAwaiting_since h) hs₂
  refine foldl_since (fun _ _ h => ?_) hs₃
  refine foldl_since (fun _ _ h => ?_) h
  split
  · exact moveEnded_since h
  · exact h

theorem toKeyless_since {c} (h : Since s₀ s) : Since s₀ (toKeyless c s) := by
  unfold toKeyless
  extract_lets -underBinder _ _ s₁ s₂
  have hs₁ : Since s₀ s₁ := setConn_since h
  have hs₂ : Since s₀ s₂ := setAux_since hs₁
  split
  · exact endMessages_since hs₂
  · exact endMessages_since hs₂
  · exact hs₂
  · exact hs₂
  · exact hs₂

theorem freshEpoch_since {c epoch} (h : Since s₀ s) : Since s₀ (freshEpoch c epoch s) :=
  setAux_since h

theorem eraseConnKey_since {c epoch} (h : Since s₀ s) : Since s₀ (eraseConnKey c epoch s) := by
  unfold eraseConnKey
  extract_lets -underBinder _ s₁
  have hs₁ : Since s₀ s₁ := freshEpoch_since (erasePos_since h)
  exact ite_since (ite_since hs₁ (toKeyless_since hs₁)) hs₁

theorem failConn_since {c} (h : Since s₀ s) : Since s₀ (failConn c s) :=
  raise_since (tally_since (endMessages_since (setConn_since h)))

theorem closeConn_since {c} (h : Since s₀ s) : Since s₀ (closeConn c s) :=
  ite_since (setAux_since (setConn_since h)) h

theorem submitMsg_since {c m} (h : Since s₀ s) : Since s₀ (submitMsg c m s) :=
  ite_since (queueMsg_since h) (setAux_since (queueMsg_since h))

theorem rollCheck_since {c} (h : Since s₀ s) : Since s₀ (rollCheck c s) := by
  unfold rollCheck
  extract_lets -underBinder _ s₁ _ s₂ _ s₃ _ s₄
  have hs₁ : Since s₀ s₁ := ite_since (setConn_since h) h
  have hs₂ : Since s₀ s₂ := ite_since (setConn_since hs₁) hs₁
  have hs₃ : Since s₀ s₃ := setConn_since hs₂
  have hs₄ : Since s₀ s₄ := setAux_since hs₃
  exact ite_since (countEvent_since (freshEpoch_since (erasePos_since hs₄))) hs₂

/-! ### Ports -/

theorem handBack_since {p lane} (h : Since s₀ s) : Since s₀ (handBack p lane s) :=
  foldl_since (fun _ _ h => countEvent_since h) (countWear_since h)

theorem fecEvents_since {p l corrected failed} (h : Since s₀ s) :
    Since s₀ (fecEvents p l corrected failed s) := by
  unfold fecEvents
  extract_lets -underBinder s₁ s₂ s₃
  have hs₁ : Since s₀ s₁ := countWear_since h
  have hs₂ : Since s₀ s₂ := foldl_since (fun _ _ h => countEvent_since h) hs₁
  have hs₃ : Since s₀ s₃ := foldl_since (fun _ _ h => countEvent_since h) hs₂
  exact ite_since hs₃ (setFport_since hs₃)

theorem execLaneTrainedState_since {p l a} (h : Since s₀ s) :
    Since s₀ (execLaneTrainedState p l a s) :=
  ite_since (ite_since (setFport_since h) h) (setFport_since h)

theorem loseLane_since {p l} (h : Since s₀ s) : Since s₀ (loseLane p l s) := by
  unfold loseLane
  extract_lets -underBinder
  split
  · exact ite_since
        (handBack_since (emit_since (countEvent_since (countWear_since (setFport_since h)))))
        (setFport_since h)
  · exact h

theorem execLaneLostState_since {p l cause} (h : Since s₀ s) :
    Since s₀ (execLaneLostState p l cause s) := by
  unfold execLaneLostState
  split
  · exact ite_since (loseLane_since (fecEvents_since h)) (fecEvents_since h)
  · exact loseLane_since h
  · exact loseLane_since h
  · exact loseLane_since h

theorem execPrtCtrlRetrainState_since {p mask} (h : Since s₀ s) :
    Since s₀ (execPrtCtrlRetrainState p mask s) :=
  foldl_since (fun _ _ h => loseLane_since h) h

theorem execLaneReturnState_since {p l} (h : Since s₀ s) : Since s₀ (execLaneReturnState p l s) := by
  unfold execLaneReturnState
  extract_lets -underBinder
  split
  · exact ite_since (countEvent_since (setFport_since h)) h
  · exact h

theorem moveConn_since {p c} (h : Since s₀ s) : Since s₀ (moveConn p s c) := by
  unfold moveConn
  extract_lets -underBinder _ s₁
  have hs₁ : Since s₀ s₁ := setConn_since h
  split
  · exact hs₁
  · split
    · exact setAux_since hs₁
    · exact hs₁

theorem returnConn_since {p c} (h : Since s₀ s) : Since s₀ (returnConn p s c) := by
  unfold returnConn
  split
  · exact h
  · exact ite_since h (setAux_since (setConn_since h))

theorem dropPort_since {p} (h : Since s₀ s) : Since s₀ (dropPort p s) := by
  unfold dropPort
  extract_lets -underBinder _ _ s₁ s₂ s₃
  have hs₁ : Since s₀ s₁ := setFport_since h
  have hs₂ : Since s₀ s₂ := countWear_since (handBack_since hs₁)
  have hs₃ : Since s₀ s₃ := raise_since (tally_since hs₂)
  exact foldl_since (fun _ _ h => moveConn_since h) hs₃

theorem execPortDropState_since {p} (h : Since s₀ s) : Since s₀ (execPortDropState p s) :=
  ite_since (dropPort_since h) h

theorem execPortReturnState_since {p} (h : Since s₀ s) : Since s₀ (execPortReturnState p s) :=
  ite_since (setFport_since (foldl_since (fun _ _ h => returnConn_since h) h)) h

theorem laneSlip_since {p} (h : Since s₀ s) : Since s₀ (laneSlip p s) :=
  ite_since h (markApplied_since (countEvent_since h))

theorem releaseAwait_since {c} (h : Since s₀ s) : Since s₀ (releaseAwait c s) :=
  setConn_since h

theorem runSend_since {p r} (h : Since s₀ s) : Since s₀ (runSend p s r) := by
  unfold runSend
  extract_lets -underBinder _ _ _ _ _ _ _ _ _ s₁ s₂
  have hs₁ : Since s₀ s₁ := setFport_since (setFport_since h)
  have hs₂ : Since s₀ s₂ := ite_since (releaseAwait_since hs₁) hs₁
  exact ite_since h <|
    ite_since (setFport_since h) <|
    ite_since (ite_since (setFport_since h) (laneSlip_since h)) <|
    ite_since hs₂ (laneSlip_since hs₂)

theorem execSendLineState_since {isl idx} (h : Since s₀ s) :
    Since s₀ (execSendLineState isl idx s) := by
  unfold execSendLineState
  split
  · exact h
  · split
    · exact h
    · extract_lets -underBinder _ _ _ s₁ _ _ _ s₂
      have hs₁ : Since s₀ s₁ := markApplied_since h
      have hs₂ : Since s₀ s₂ := ite_since (setFport_since hs₁) hs₁
      exact ite_since (ite_since (laneSlip_since hs₁) hs₁) <|
        foldl_since (fun _ _ h => runSend_since h) hs₂

theorem execBeatLineState_since {isl idx} (h : Since s₀ s) :
    Since s₀ (execBeatLineState isl idx s) := by
  unfold execBeatLineState
  split
  · exact h
  · exact ite_since (tally_since (queueMsg_since (markApplied_since h))) (markApplied_since h)

theorem execAdaptLineState_since {isl idx} (h : Since s₀ s) :
    Since s₀ (execAdaptLineState isl idx s) := by
  unfold execAdaptLineState
  split
  · exact markApplied_since h
  · exact h

theorem ackSent_since {c} (h : Since s₀ s) : Since s₀ (ackSent c s) :=
  setAux_since h

theorem putFrame_since {p lane c hdr coded key} (h : Since s₀ s) :
    Since s₀ (putFrame p lane c hdr coded key s) :=
  emit_since h

theorem countSent_since {ack c epoch} (h : Since s₀ s) : Since s₀ (countSent ack c epoch s) :=
  ite_since (countEvent_since (setAux_since h)) (setAux_since h)

theorem messageSent_since {m} (h : Since s₀ s) : Since s₀ (messageSent m s) := by
  unfold messageSent
  split
  · exact ite_since (endWorkReq_since h) h
  · exact h
  · exact h
  · exact h
  · exact h
  · exact h

theorem startFresh_since {p lane c m0 key free} (h : Since s₀ s) :
    Since s₀ (startFresh p lane c m0 key free s) := by
  unfold startFresh
  extract_lets -underBinder _ _ _ _ _ _ _ _ _ _ _ s₁ _ _ s₂ _ s₃ s₄ s₅
  have hs₁ : Since s₀ s₁ := setConn_since h
  have hs₂ : Since s₀ s₂ := ite_since hs₁ hs₁
  have hs₃ : Since s₀ s₃ := ite_since hs₂ <|
    tallyBy_since (tallyBy_since (setFport_since hs₂))
  have hs₄ : Since s₀ s₄ := ite_since (countEvent_since hs₃) hs₃
  have hs₅ : Since s₀ s₅ := putFrame_since (countSent_since (ackSent_since hs₄))
  exact ite_since (messageSent_since hs₅) hs₅

theorem startCand_since {p lane x free} (h : Since s₀ s) : Since s₀ (startCand p lane x free s) := by
  unfold startCand
  extract_lets -underBinder
  split
  · split
    · exact putFrame_since (countSent_since (setAux_since (ackSent_since (setConn_since h))))
    · exact h
  · exact putFrame_since (countEvent_since (countWear_since (setConn_since h)))
  · split
    · exact startFresh_since h
    · exact h

theorem endCredit_since {p c cls} (h : Since s₀ s) : Since s₀ (endCredit p c cls s) :=
  ite_since h (setFport_since h)

theorem execFrameStartState_since {p} (h : Since s₀ s) : Since s₀ (execFrameStartState p s) := by
  unfold execFrameStartState
  split
  · exact h
  · split
    · exact endCredit_since (startCand_since (setFport_since h))
    · split
      · exact endCredit_since (startCand_since (setFport_since h))
      · exact h

theorem execFrameReceiveState_since {p x} (h : Since s₀ s) :
    Since s₀ (execFrameReceiveState p x s) := by
  unfold execFrameReceiveState
  extract_lets -underBinder _ s₁ _ _ _ _ s₂
  have hs₁ : Since s₀ s₁ := ite_since h (fecEvents_since h)
  exact ite_since hs₁ <|
    ite_since (countEvent_since hs₁) <|
    ite_since (countEvent_since hs₁) <|
    ite_since (countEvent_since hs₁) <|
    ite_since (countEvent_since hs₁) (ite_since (setFport_since hs₁) (countEvent_since hs₁))

/-! ### Transport -/

theorem takeAck_since {c hdr} (h : Since s₀ s) : Since s₀ (takeAck c hdr s) :=
  rollCheck_since (setConn_since h)

theorem takeRoll_since {c e hdr} (h : Since s₀ s) : Since s₀ (takeRoll c e hdr s) :=
  rollCheck_since (setConn_since h)

theorem handMessage_since {c x done} (h : Since s₀ s) : Since s₀ (handMessage c x done s) :=
  ite_since (toRing_since h) h

theorem handOn_since {c class0 n} (h : Since s₀ s) : Since s₀ (handOn c class0 n s) := by
  induction n generalizing s with
  | zero => exact h
  | succ n ih =>
    unfold handOn
    dsimp only
    split
    · exact h
    · split
      · exact ih (setConn_since h)
      · split
        · exact ih (handMessage_since (setConn_since h))
        · exact h

theorem killPartial_since {c x} (h : Since s₀ s) : Since s₀ (killPartial c x s) :=
  giveUnits_since (setConn_since h)

theorem takeSegment_since {p c hdr seg beyond} (h : Since s₀ s) :
    Since s₀ (takeSegment p c hdr seg beyond s) := by
  unfold takeSegment
  extract_lets -underBinder _ _ s₁
  have hs₁ : Since s₀ s₁ := ite_since (countEvent_since h) h
  exact ite_since (giveUnits_since (setConn_since hs₁)) <|
    ite_since (giveUnits_since (killPartial_since (ite_since hs₁ (countEvent_since hs₁)))) <|
    setConn_since hs₁

theorem settleRx_since {c} (h : Since s₀ s) : Since s₀ (settleRx c s) :=
  setConn_since (foldl_since (fun _ _ h => killPartial_since (countEvent_since h)) h)

theorem holdFrame_since {p c hdr seg} (h : Since s₀ s) : Since s₀ (holdFrame p c hdr seg s) := by
  unfold holdFrame
  extract_lets -underBinder _ _ _ _ s101 _ _ _ _ s₁
  have hs101 : Since s₀ s101 := setConn_since h
  have hs₁ : Since s₀ s₁ := takeSegment_since (setAux_since (setConn_since hs101))
  exact handOn_since (handOn_since (settleRx_since (setConn_since hs₁)))

theorem takePsn_since {p c hdr seg} (h : Since s₀ s) : Since s₀ (takePsn p c hdr seg s) :=
  ite_since (setAux_since (countEvent_since h)) <|
    ite_since (countEvent_since h) (ite_since (countEvent_since h) (holdFrame_since h))

theorem execTfxFrameAcceptState_since {p} (h : Since s₀ s) :
    Since s₀ (execTfxFrameAcceptState p s) := by
  unfold execTfxFrameAcceptState
  extract_lets -underBinder
  split
  · exact h
  · split
    · exact h
    · extract_lets -underBinder s₁
      have hs₁ : Since s₀ s₁ := setFport_since h
      split
      · exact countEvent_since hs₁
      · split
        · exact countEvent_since hs₁
        · split
          · exact countEvent_since hs₁
          · split
            · exact countEvent_since hs₁
            · extract_lets -underBinder s₂
              have hs₂ : Since s₀ s₂ := takeRoll_since (takeAck_since hs₁)
              split
              · exact ite_since hs₂ (takePsn_since hs₂)
              · exact ite_since hs₂ (takePsn_since hs₂)
              · exact hs₂
              · exact hs₂
              · exact hs₂

theorem execAckSendState_since {c} (h : Since s₀ s) : Since s₀ (execAckSendState c s) :=
  ite_since (setAux_since h) h

theorem execRetransmitState_since {c psn} (h : Since s₀ s) :
    Since s₀ (execRetransmitState c psn s) := by
  unfold execRetransmitState
  extract_lets -underBinder
  split
  · exact h
  · exact ite_since (setConn_since h) <|
      ite_since (ite_since (failConn_since h) (setConn_since h)) h

theorem execRollStallState_since {c} (h : Since s₀ s) : Since s₀ (execRollStallState c s) :=
  ite_since (raise_since (tally_since (setAux_since h))) h

theorem execCreditShrinkState_since {c} (h : Since s₀ s) : Since s₀ (execCreditShrinkState c s) :=
  ite_since (setAux_since (setConn_since h)) h

theorem execClosingEndState_since {c} (h : Since s₀ s) : Since s₀ (execClosingEndState c s) :=
  ite_since (toKeyless_since (ite_since (erasePos_since (erasePos_since h)) h)) h

/-! ### Remote -/

theorem setRegion_since {i r} (h : Since s₀ s) : Since s₀ (setRegion i r s) :=
  h

theorem regionWrite_since {r off bs} (h : Since s₀ s) : Since s₀ (regionWrite r off bs s) :=
  ite_since (b2Write_since h) h

theorem setTrigger_since {i t} (h : Since s₀ s) : Since s₀ (setTrigger i t s) :=
  h

theorem fireOne_since {w} (h : Since s₀ s) : Since s₀ (fireOne s w) := by
  unfold fireOne
  extract_lets -underBinder _ s₁
  split
  · exact endWorkReq_since h
  · exact submitMsg_since h

theorem fireAll_since {i} (h : Since s₀ s) : Since s₀ (fireAll i s) :=
  foldl_since (fun _ _ h => fireOne_since h) h

theorem raiseTrigger_since {c i count} (h : Since s₀ s) : Since s₀ (raiseTrigger c i count s) :=
  ite_since (fireAll_since (setTrigger_since h)) (countEvent_since h)

theorem answer_since {c m kind status bytes data} (h : Since s₀ s) :
    Since s₀ (answer c m kind status bytes data s) :=
  queueMsg_since h

theorem takeRemote_since {c typ run} (hrun : ∀ a b, KeepsSince s₀ (run a b)) (h : Since s₀ s) :
    Since s₀ (takeRemote c typ run s) := by
  unfold takeRemote
  split
  · exact h
  · exact ite_since h (hrun _ _ (returnCredit_since (inboxTake_since h)))

theorem onRegion_since {c right n bodyBad fenced dma regionBad m run} (hrun : ∀ r, KeepsSince s₀ (run r))
    (h : Since s₀ s) : Since s₀ (onRegion c right n bodyBad fenced dma regionBad m run s) := by
  unfold onRegion
  dsimp only
  split
  · exact ite_since (hrun _ h) (answer_since h)
  · exact answer_since (ite_since (countEvent_since h) h)

theorem execRdmaRdState_since {c dmaError} (h : Since s₀ s) :
    Since s₀ (execRdmaRdState c dmaError s) :=
  takeRemote_since (fun _ _ _ h => onRegion_since (fun _ _ h => answer_since h) h) h

theorem execRdmaWrState_since {c dmaError} (h : Since s₀ s) :
    Since s₀ (execRdmaWrState c dmaError s) := by
  unfold execRdmaWrState
  exact takeRemote_since
      (fun _ _ _ h =>
          onRegion_since
            (fun _ _ h =>
                ite_since
                  (ite_since (raiseTrigger_since (regionWrite_since h)) (regionWrite_since h))
                  (answer_since <|
                    ite_since (raiseTrigger_since (regionWrite_since h)) (regionWrite_since h)))
            h)
      h

theorem execAtomicState_since {c} (h : Since s₀ s) : Since s₀ (execAtomicState c s) :=
  takeRemote_since
      (fun _ _ _ h => onRegion_since (fun _ _ h => answer_since (regionWrite_since h)) h) h

theorem execTrigState_since {c} (h : Since s₀ s) : Since s₀ (execTrigState c s) :=
  takeRemote_since (fun _ _ _ h => ite_since h (raiseTrigger_since h)) h

theorem execRespState_since {c} (h : Since s₀ s) : Since s₀ (execRespState c s) := by
  unfold execRespState
  split
  · exact h
  · extract_lets -underBinder s₁
    have hs₁ : Since s₀ s₁ := inboxTake_since h
    split
    · exact ite_since (toRing_since hs₁) (returnCredit_since hs₁)
    · extract_lets -underBinder s₂
      have hs₂ : Since s₀ s₂ := setAux_since hs₁
      split
      · exact toRing_since hs₂
      · split
        · exact endWorkReq_since (toRing_since hs₂)
        · exact returnCredit_since hs₂
      · exact ite_since (emit_since hs₂) (abortLoad_since (returnCredit_since hs₂))
      · exact returnCredit_since hs₂
      · exact returnCredit_since hs₂
      · exact returnCredit_since hs₂

theorem takeTag_since (h : Since s₀ s) : Since s₀ (takeTag s).2 :=
  h

theorem execRemoteLoadState_since {off n} (h : Since s₀ s) :
    Since s₀ (execRemoteLoadState off n s) := by
  unfold execRemoteLoadState
  split
  · exact emit_since h
  · extract_lets -underBinder _ _ _ _ _ s₁
    split
    · exact ite_since h (abortLoad_since h)
    · exact submitMsg_since (takeTag_since h)

theorem execRemoteStoreState_since {off data} (h : Since s₀ s) :
    Since s₀ (execRemoteStoreState off data s) :=
  ite_since (emit_since h) (ite_since (raise_since h) (queueMsg_since (takeTag_since h)))

theorem execDeadTargetState_since {id} (h : Since s₀ s) : Since s₀ (execDeadTargetState id s) := by
  unfold execDeadTargetState
  split
  · exact h
  · exact ite_since (raise_since (tally_since (emit_since (setAux_since h)))) h

theorem runTransport_since {f op fs reasons ok} (hok : ∀ a, KeepsSince s₀ (ok a)) (h : Since s₀ s) :
    Since s₀ (runTransport f op fs reasons ok s) :=
  runCmd_since (fun _ _ h => hok _ h) h

theorem execSendState_since {f} (h : Since s₀ s) : Since s₀ (execSendState f s) := by
  unfold execSendState
  refine runTransport_since (fun _ _ h => ?_) h
  extract_lets -underBinder
  split
  · exact endCmd_since h
  · exact endCmd_since (submitMsg_since h)

theorem execRegionRegState_since {f} (h : Since s₀ s) : Since s₀ (execRegionRegState f s) :=
  runTransport_since (fun _ _ h => endCmd_since (setRegion_since h)) h

theorem execRegionDeregState_since {f} (h : Since s₀ s) : Since s₀ (execRegionDeregState f s) :=
  runTransport_since (fun _ _ h => endCmd_since (setRegion_since h)) h

theorem execRingBindState_since {f} (h : Since s₀ s) : Since s₀ (execRingBindState f s) :=
  runTransport_since (fun _ _ h => endCmd_since (setAux_since h)) h

theorem execCounterResetState_since {f} (h : Since s₀ s) : Since s₀ (execCounterResetState f s) :=
  runTransport_since (fun _ _ h => endCmd_since (setTrigger_since h)) h

theorem execPostWrState_since {f} (h : Since s₀ s) : Since s₀ (execPostWrState f s) := by
  unfold execPostWrState
  exact runTransport_since
      (fun _ _ h =>
          ite_since (fireOne_since (endCmd_since (pick_since h))) <|
          endCmd_since (pick_since h))
      h

theorem execWrCancelState_since {f} (h : Since s₀ s) : Since s₀ (execWrCancelState f s) :=
  runTransport_since (fun _ _ h => endCmd_since h) h

theorem execConnCloseState_since {f} (h : Since s₀ s) : Since s₀ (execConnCloseState f s) :=
  runTransport_since (fun _ _ h => endCmd_since (closeConn_since h)) h

/-! ### Rings -/

theorem ringComplete_since {i status bytes m} (h : Since s₀ s) :
    Since s₀ (ringComplete i status bytes m s) :=
  interrupt_since (setRing_since h)

theorem ringCredit_since {m n} (h : Since s₀ s) : Since s₀ (ringCredit m n s) := by
  unfold ringCredit
  split
  · exact returnCredit_since h
  · exact h

theorem ringFrame_since {i m} (h : Since s₀ s) : Since s₀ (ringFrame i m s) := by
  have filled : ∀ m, Since s₀ { s with mem.host := m } := fun _ => mem_since h
  exact ite_since (ringComplete_since (ringCredit_since (setRing_since (filled _))))
    (ringCredit_since (setRing_since (filled _)))

theorem execRingWriteState_since {i} (h : Since s₀ s) : Since s₀ (execRingWriteState i s) := by
  unfold execRingWriteState
  extract_lets -underBinder
  split
  · exact h
  · extract_lets -underBinder
    exact ite_since (ringComplete_since (setRing_since h)) <|
      ite_since (ite_since h (countEvent_since (setRing_since h))) (ringFrame_since h)

theorem hostStore_since {x} (h : Since s₀ s) : Since s₀ (hostStore s x) :=
  ite_since (b2Write_since h) h

theorem execPostState_since {i value stores} (h : Since s₀ s) :
    Since s₀ (execPostState i value stores s) :=
  setRing_since (foldl_since (fun _ _ h => hostStore_since h) h)

theorem ringShort_since {i} (h : Since s₀ s) : Since s₀ (ringShort i s) := by
  unfold ringShort
  extract_lets -underBinder
  split
  · exact h
  · exact countEvent_since (ringComplete_since (ringCredit_since h))

theorem execReclaimState_since {i value} (h : Since s₀ s) : Since s₀ (execReclaimState i value s) :=
  ite_since h (ite_since (ringShort_since (setRing_since h)) (setRing_since h))

theorem execRingLeaseExpiryState_since {i} (h : Since s₀ s) :
    Since s₀ (execRingLeaseExpiryState i s) := by
  unfold execRingLeaseExpiryState
  extract_lets -underBinder
  split
  · exact h
  · exact ite_since (raise_since (tally_since (ringShort_since h))) h

/-! ### Scraper -/

theorem markScrape_since {p home on} (h : Since s₀ s) : Since s₀ (markScrape p home on s) :=
  h

theorem scrapePage_since {p home acc n} (h : Since s₀ acc.2) :
    Since s₀ (scrapePage p home acc n).2 := by
  unfold scrapePage
  extract_lets -underBinder _ s₁ _ down
  have hdown : Since s₀ down.2 := ite_snd_since
      (getD_snd_since (fun _ e => toFlash_since e h) h) h
  exact ite_snd_since (getD_snd_since (fun _ e => toVault_since e h) hdown) hdown

theorem scrapeUnit_since {p home q} (h : Since s₀ s) : Since s₀ (scrapeUnit p home q s) := by
  unfold scrapeUnit
  split
  · exact h
  · exact ite_since h (startChange_since (foldl_snd_since (fun _ _ h => scrapePage_since h) h))

theorem scrapeNext_since {p home} (h : Since s₀ s) : Since s₀ (scrapeNext p home s) := by
  unfold scrapeNext
  split
  · exact scrapeUnit_since h
  · exact h

theorem execScraperEvictState_since {p home} (h : Since s₀ s) :
    Since s₀ (execScraperEvictState p home s) :=
  ite_since h <|
    ite_since (driveChanges_since h) <|
    ite_since (scrapeNext_since (markScrape_since h)) (markScrape_since h)

theorem burn_since {st n} (h : Since s₀ s) : Since s₀ (burn st n s) :=
  h

theorem zeroSlot_since {slot} (h : Since s₀ s) : Since s₀ (zeroSlot s slot) :=
  h

theorem zeroSome_since {st n} (h : Since s₀ s) : Since s₀ (zeroSome st n s) := by
  induction n generalizing s with
  | zero => exact h
  | succ n ih =>
    unfold zeroSome
    dsimp only
    split
    · exact h
    · exact ih (burn_since (zeroSlot_since (pick_since h)))

theorem execBurnisherZeroState_since {st} (h : Since s₀ s) : Since s₀ (execBurnisherZeroState st s) :=
  zeroSome_since h

theorem execReverifyState_since {slot ue} (h : Since s₀ s) :
    Since s₀ (execReverifyState slot ue s) := by
  unfold execReverifyState
  extract_lets -underBinder _ _ s₁ s₂
  have hs₁ : Since s₀ s₁ := burn_since h
  have hs₂ : Since s₀ s₂ := countUe_since hs₁
  exact ite_since h <|
    ite_since
      (postDrops_since <|
        foldl_since (fun _ _ h => noteDrops_since (countEvent_since (stateSwap_since h))) hs₂)
      (foldl_since (fun _ _ h => stateSwap_since h) hs₁)

theorem execWriteBackPassState_since {p} (h : Since s₀ s) :
    Since s₀ (execWriteBackPassState p s) := by
  unfold execWriteBackPassState
  dsimp only
  split
  · exact h
  · split
    · exact h
    · split
      · next started => 
        have run := startProgram_since started (linkUsed_since h)
        exact run
      · exact h

theorem execZeroSlotsState_since {f} (h : Since s₀ s) : Since s₀ (execZeroSlotsState f s) :=
  runCmd_since (fun _ _ h => endCmd_since h) h

theorem execZeroTilesState_since {f} (h : Since s₀ s) : Since s₀ (execZeroTilesState f s) :=
  runCmd_since (fun _ _ h => endCmd_since h) h

theorem execZeroB2State_since {f} (h : Since s₀ s) : Since s₀ (execZeroB2State f s) :=
  runCmd_since
    (fun _ _ h => endCmd_since h) h

theorem endStalled_since {op ok} (h : Since s₀ s) : Since s₀ (endStalled op ok s) := by
  unfold endStalled
  split
  · exact ite_since (mounted_since h) h
  · split
    · exact h
    · exact ite_since (tileProgress_since (freeTile_since h)) <|
        ite_since (tileStood_since h) (tileProgress_since (freeTile_since h))
  · split
    · exact h
    · next found =>
      exact ite_since (programOk_since h)
        (postDrops_since (pageProgress_since h))
  · exact exportUnstall_since h
  · exact ite_since (driveChanges_since h)
      (foldl_since (fun _ _ h => leaveOut_since h) h)
  · split
    · exact h
    · exact ite_since (tierEffect_since h) (endCmd_since h)

theorem execTierStallRetryState_since {ok} (h : Since s₀ s) :
    Since s₀ (execTierStallRetryState ok s) := by
  unfold execTierStallRetryState
  split
  · exact h
  · exact ite_since h (ite_since (endStalled_since (endStall_since h)) h)

theorem execFshCtrlSkipState_since (h : Since s₀ s) : Since s₀ (execFshCtrlSkipState s) := by
  unfold execFshCtrlSkipState
  split
  · exact h
  · exact endStalled_since (endStall_since h)

/-! ### PlateBits -/

theorem writeStore_since {addr b} (h : Since s₀ s) : Since s₀ (writeStore addr b s) :=
  h

/-! ### Trust -/

theorem mbxEnd_since {code reason resp} (h : Since s₀ s) : Since s₀ (mbxEnd code reason resp s) :=
  h

theorem mbxRefuse_since {reason} (h : Since s₀ s) : Since s₀ (mbxRefuse reason s) :=
  mbxEnd_since h

theorem mbxHold_since (h : Since s₀ s) : Since s₀ (mbxHold s) :=
  h

theorem mailbox_since {cmd lenOk ok} (hok : ∀ a, KeepsSince s₀ (ok a)) (h : Since s₀ s) :
    Since s₀ (mailbox cmd lenOk ok s) :=
  ite_since h (ite_since (mbxRefuse_since h) (ite_since (mbxRefuse_since h) (hok _ h)))

theorem answerKey_since {via code reason resp} (h : Since s₀ s) :
    Since s₀ (answerKey via code reason resp s) := by
  unfold answerKey
  split
  · exact mbxEnd_since h
  · exact emit_since h

theorem queueCurve_since {op} (h : Since s₀ s) : Since s₀ (queueCurve op s) :=
  h

theorem drawGo_since {c epoch n} (h : Since s₀ s) : Since s₀ (drawGo c epoch n s).2 := by
  induction n generalizing s with
  | zero => exact h
  | succ n ih =>
    unfold drawGo
    dsimp only
    split
    · exact ih h
    · exact h

theorem offerKey_since {via a} (h : Since s₀ s) : Since s₀ (offerKey via a s) := by
  unfold offerKey
  extract_lets -underBinder
  split
  · exact answerKey_since h
  · split
    · exact answerKey_since h
    · exact queueCurve_since (ite_since (mbxHold_since (drawGo_since h)) (drawGo_since h))

theorem dropOffer_since {c epoch} (h : Since s₀ s) : Since s₀ (dropOffer c epoch s) :=
  h

theorem acceptKey_since {via a} (h : Since s₀ s) : Since s₀ (acceptKey via a s) := by
  unfold acceptKey
  extract_lets -underBinder
  split
  · exact answerKey_since h
  · split
    · exact answerKey_since h
    · exact ite_since (answerKey_since h) (queueCurve_since (ite_since (mbxHold_since h) h))

theorem eraseKey_since {via a} (h : Since s₀ s) : Since s₀ (eraseKey via a s) := by
  unfold eraseKey
  extract_lets -underBinder
  split
  · exact answerKey_since h
  · split
    · exact answerKey_since h
    · extract_lets -underBinder s₁
      have hs₁ : Since s₀ s₁ := ite_since (eraseConnKey_since h) h
      exact answerKey_since (ite_since (eraseConnKey_since hs₁) hs₁)

theorem installConnKey_since {c epoch key} (h : Since s₀ s) :
    Since s₀ (installConnKey c epoch key s) := by
  unfold installConnKey
  extract_lets -underBinder _ _ s₁
  have hs₁ : Since s₀ s₁ := freshEpoch_since (installPos_since h)
  split
  · exact setAux_since (setConn_since hs₁)
  · exact ite_since (rollCheck_since (setConn_since hs₁)) hs₁
  · exact hs₁
  · exact hs₁
  · exact hs₁

theorem spdmError_since {b code} (h : Since s₀ s) : Since s₀ (spdmError b code s) :=
  emit_since h

theorem curveResult_since {op} (h : Since s₀ s) : Since s₀ (curveResult op s) := by
  unfold curveResult
  split
  · exact queueCurve_since h
  · exact answerKey_since h
  · split
    · exact answerKey_since (countEvent_since h)
    · split
      · exact answerKey_since h
      · exact answerKey_since h
      · exact answerKey_since (dropOffer_since (installConnKey_since h))
  · exact ite_since (mbxEnd_since (countEvent_since h)) <|
      ite_since (mbxEnd_since (countEvent_since h)) (mbxEnd_since h)
  · exact emit_since h
  · exact ite_since (spdmError_since (countEvent_since h)) (emit_since h)

theorem execCurveOpDoneState_since (h : Since s₀ s) : Since s₀ (execCurveOpDoneState s) := by
  unfold execCurveOpDoneState
  split
  · exact h
  · exact ite_since h (curveResult_since h)

theorem execOfferExpiryState_since {c epoch} (h : Since s₀ s) :
    Since s₀ (execOfferExpiryState c epoch s) :=
  h

theorem keyCommand_since {cmd len go} (hgo : ∀ a b, KeepsSince s₀ (go a b)) (h : Since s₀ s) :
    Since s₀ (keyCommand cmd len go s) := by
  unfold keyCommand
  split
  · exact ite_since (answerKey_since h) (ite_since (hgo _ _ h) (answerKey_since h))
  · exact mailbox_since (fun _ _ h => hgo _ _ h) h

theorem execKeyOfferState_since (h : Since s₀ s) : Since s₀ (execKeyOfferState s) :=
  keyCommand_since (fun _ _ _ h => offerKey_since h) h

theorem execKeyAcceptState_since (h : Since s₀ s) : Since s₀ (execKeyAcceptState s) :=
  keyCommand_since (fun _ _ _ h => acceptKey_since h) h

theorem execKeyEraseState_since (h : Since s₀ s) : Since s₀ (execKeyEraseState s) :=
  keyCommand_since (fun _ _ _ h => eraseKey_since h) h

/-- A count below the burnt one is refused. -/
theorem execFuseSvnState_since (h : Since s₀ s) : Since s₀ (execFuseSvnState s) := by
  refine mailbox_since (fun a s h => ?_) h
  refine iteInduction (fun _ => mbxRefuse_since h) (fun allowed => mbxEnd_since ?_)
  simp only [Bool.or_eq_true, decide_eq_true_eq, not_or, Nat.not_lt] at allowed
  obtain ⟨⟨⟨-, now⟩, -⟩, -⟩ := allowed
  obtain ⟨queue, bounded, svnTc, svnHub⟩ := h
  split at now
  · next trust =>
    rw [if_pos trust]
    exact ⟨queue, bounded, by show s₀.tru.burntTc ≤ u a 1 1; omega, svnHub⟩
  · next hub =>
    rw [if_neg hub]
    exact ⟨queue, bounded, svnTc, by show s₀.tru.burntHub ≤ u a 1 1; omega⟩

theorem execCurveMultState_since (h : Since s₀ s) : Since s₀ (execCurveMultState s) :=
  mailbox_since (fun _ _ h => queueCurve_since (mbxHold_since h)) h

theorem startScrub_since {tenant id running} (h : Since s₀ s) :
    Since s₀ (startScrub tenant id running s) := by
  unfold startScrub
  split
  · exact ite_since h h
  · exact h

theorem execScrubState_since (h : Since s₀ s) : Since s₀ (execScrubState s) :=
  mailbox_since
      (fun _ _ h =>
          ite_since (mbxRefuse_since h) (mbxEnd_since (ite_since h (startScrub_since h))))
      h

theorem scrubKeys_since {x} (h : Since s₀ s) : Since s₀ (scrubKeys x s) := by
  unfold scrubKeys
  extract_lets -underBinder s₁
  have hs₁ : Since s₀ s₁ := foldl_since
      (fun _ _ h =>
          ite_since (eraseConnKey_since (eraseConnKey_since h)) <|
          erasePos_since (erasePos_since h))
      h
  exact foldl_since (fun _ _ h => erasePos_since h) hs₁

theorem scrubContexts_since {x} (h : Since s₀ s) : Since s₀ (scrubContexts x s).2 := by
  unfold scrubContexts
  extract_lets -underBinder ctxs s₁ es exts x₁ s₂ s₃ tails
  have hs₁ : Since s₀ s₁ := by
    refine foldl_since (fun _ _ h => ?_) h
    exact ite_since h h
  have hs₂ : Since s₀ s₂ := foldl_since (fun _ _ h => ite_since (extToGrace_since (writeEntry_since h)) <|
    ite_since (releaseLost_since (writeEntry_since h)) <| ite_since (writeEntry_since h) h) hs₁
  have hs₃ : Since s₀ s₃ := by
    refine ite_since hs₂ (foldl_since (fun _ _ h => ?_) hs₂)
    split
    · exact freeExtent_since h
    all_goals exact h
  exact hs₃

theorem zeroSlotRange_since {r} (h : Since s₀ s) : Since s₀ (zeroSlotRange s r) :=
  h

theorem zeroTileRange_since {r} (h : Since s₀ s) : Since s₀ (zeroTileRange s r) :=
  h

theorem zeroCtx_since {c} (h : Since s₀ s) : Since s₀ (zeroCtx s c) :=
  h

theorem scrubZero_since {x} (h : Since s₀ s) : Since s₀ (scrubZero x s) := by
  unfold scrubZero
  extract_lets -underBinder one s₁ s₂ s₃ s₄ s₅ _ _ _ _ s₆
  have hs₁ : Since s₀ s₁ := foldl_since (fun _ _ h => zeroSlotRange_since h) h
  have hs₂ : Since s₀ s₂ := foldl_since (fun _ _ h => zeroTileRange_since h) hs₁
  have hs₃ : Since s₀ s₃ := ite_since hs₂ <|
    foldl_since (fun _ _ h => mem_since h) hs₂
  have hs₄ : Since s₀ s₄ := foldl_since (fun _ _ h => setExtent_since h) hs₃
  have hs₅ : Since s₀ s₅ := foldl_since (fun _ _ h => zeroCtx_since h) hs₄
  have hs₆ : Since s₀ s₆ := ite_since hs₅ hs₅
  exact hs₆

theorem scrubFlash_since {x} (h : Since s₀ s) : Since s₀ (scrubFlash x s) :=
  foldl_since (fun _ _ h => ite_since (eraseBlock_since h) (relocateBlock_since h)) <|
    unplace_since h

theorem scrubSheets_since {x} (h : Since s₀ s) : Since s₀ (scrubSheets x s) :=
  ite_since h h

theorem scrubWork_since {x} (h : Since s₀ s) : Since s₀ (scrubWork x s).2 :=
  ite_snd_since (scrubKeys_since h) <|
    ite_snd_since (scrubContexts_since h) <|
    ite_snd_since (scrubZero_since h) <|
    ite_snd_since (scrubFlash_since h) (ite_snd_since (scrubSheets_since h) h)

theorem scrubVerified_since {x ok} (h : Since s₀ s) : Since s₀ (scrubVerified x ok s) :=
  ite_since h (ite_since (raise_since (tally_since h)) h)

theorem execScrubStepState_since {tenant id ok} (h : Since s₀ s) :
    Since s₀ (execScrubStepState tenant id ok s) := by
  unfold execScrubStepState
  split
  · exact h
  · exact ite_since h (ite_since (scrubVerified_since h) (scrubWork_since h))

theorem execGetMeasurementsState_since {b session nonce} (h : Since s₀ s) :
    Since s₀ (execGetMeasurementsState b session nonce s) :=
  ite_since h (ite_since (queueCurve_since h) (spdmError_since h))

theorem execKeyExchangeState_since {b q} (h : Since s₀ s) : Since s₀ (execKeyExchangeState b q s) :=
  ite_since h (ite_since (spdmError_since h) (queueCurve_since h))

theorem setStream_since {n v} (h : Since s₀ s) : Since s₀ (setStream n v s) :=
  h

theorem execIdeKmState_since {session stream key vf} (h : Since s₀ s) :
    Since s₀ (execIdeKmState session stream key vf s) :=
  ite_since h (setStream_since h)

theorem setTdi_since {n t} (h : Since s₀ s) : Since s₀ (setTdi n t s) :=
  h

theorem tdiError_since {running vf} (h : Since s₀ s) : Since s₀ (tdiError running s vf) := by
  unfold tdiError
  split
  · exact ite_since (startScrub_since (setTdi_since h)) (startScrub_since (setTdi_since h))
  · exact ite_since (startScrub_since (setTdi_since h)) (startScrub_since (setTdi_since h))
  · exact h
  · exact h

theorem execIdeFailState_since {stream} (h : Since s₀ s) : Since s₀ (execIdeFailState stream s) := by
  unfold execIdeFailState
  split
  · exact h
  · split
    · exact h
    · extract_lets -underBinder s₁
      have hs₁ : Since s₀ s₁ := countEvent_since (setStream_since h)
      split
      · exact tdiError_since hs₁
      · exact hs₁

theorem execLockInterfaceState_since {vf session} (h : Since s₀ s) :
    Since s₀ (execLockInterfaceState vf session s) :=
  ite_since h h

theorem execStartInterfaceState_since {vf} (h : Since s₀ s) :
    Since s₀ (execStartInterfaceState vf s) :=
  ite_since (setTdi_since h) h

theorem execStopInterfaceState_since {vf} (h : Since s₀ s) :
    Since s₀ (execStopInterfaceState vf s) := by
  unfold execStopInterfaceState
  split
  · exact h
  · split
    · exact startScrub_since (setTdi_since h)
    · exact startScrub_since (setTdi_since h)
    · exact startScrub_since (setTdi_since h)
    · exact h

theorem deferRequest_since {unit part request} (h : Since s₀ s) :
    Since s₀ (deferRequest unit part request s) :=
  logEvent_since (tally_since h)

theorem cutKeys_since (h : Since s₀ s) : Since s₀ (cutKeys s) := by
  unfold cutKeys
  extract_lets -underBinder _ s₁ _ _ s₂
  have hs₁ : Since s₀ s₁ := foldl_since (fun _ _ h => tdiError_since h) h
  exact ite_since hs₁ (countEvent_since hs₁)

/-! ### HostCmds -/

theorem acceptList_since {f cls off ncmd} (h : Since s₀ s) : Since s₀ (acceptList f cls off ncmd s) :=
  settle_since (setQueue_since h)

theorem execCqDoorbellState_since {f cls value stores} (h : Since s₀ s) :
    Since s₀ (execCqDoorbellState f cls value stores s) := by
  unfold execCqDoorbellState
  extract_lets -underBinder s₁
  have hs₁ : Since s₀ s₁ := foldl_since (fun _ _ h => hostStore_since h) h
  exact ite_since hs₁ <|
    ite_since (countEvent_since hs₁) (ite_since (countEvent_since hs₁) (acceptList_since hs₁))

theorem writeResults_since {f l} (h : Since s₀ s) : Since s₀ (writeResults f l s) :=
  foldl_since (fun _ _ h => b2Write_since h) h

theorem execListCompletionState_since {f cls} (h : Since s₀ s) :
    Since s₀ (execListCompletionState f cls s) := by
  unfold execListCompletionState
  extract_lets -underBinder
  split
  · exact h
  · exact ite_since h <|
      settle_since <|
      ite_since
        (interrupt_since (setQueue_since (b2Write_since (ite_since h (writeResults_since h)))))
        (setQueue_since (b2Write_since (ite_since h (writeResults_since h))))

theorem detachWork_since {f cls} (h : Since s₀ s) : Since s₀ (detachWork f cls s) :=
  ite_since h <| ite_since h <|
    ite_since (endStall_since h) h

theorem disableQueue_since {f cls} (h : Since s₀ s) : Since s₀ (disableQueue f s cls) :=
  setQueue_since (detachWork_since h)

theorem execCqEnableState_since {f cls enable} (h : Since s₀ s) :
    Since s₀ (execCqEnableState f cls enable s) :=
  ite_since (ite_since h (setQueue_since h)) (disableQueue_since h)

theorem disableRing_since {i} (h : Since s₀ s) : Since s₀ (disableRing s i) :=
  foldl_since (fun _ _ h => ringCredit_since h) (setRing_since h)

theorem resetFn_since {f} (h : Since s₀ s) : Since s₀ (resetFn s f) :=
  foldl_since (fun _ _ h => disableRing_since h) <|
    foldl_since (fun _ _ h => disableQueue_since h) h

theorem execFlrState_since {f} (h : Since s₀ s) : Since s₀ (execFlrState f s) :=
  ite_since (tdiError_since (countEvent_since (resetFn_since h))) <|
    countEvent_since (resetFn_since h)

theorem linkLoss_since {l} (h : Since s₀ s) : Since s₀ (linkLoss l s) := by
  unfold linkLoss
  extract_lets -underBinder s₁
  have hs₁ : Since s₀ s₁ := countEvent_since (foldl_since (fun _ _ h => resetFn_since h) h)
  exact ite_since hs₁ hs₁

theorem execPerstState_since (h : Since s₀ s) : Since s₀ (execPerstState s) := by
  unfold execPerstState
  exact countEvent_since (host_since (foldl_since (fun _ _ h => resetFn_since h) h))

theorem mapByte_since {page owner} (h : Since s₀ s) : Since s₀ (mapByte page owner s) := by
  unfold mapByte
  dsimp only
  split
  · exact h
  · split
    · exact logEvent_since h
    · exact ite_since (logEvent_since h) h

theorem mapBytes_since {page bs} (h : Since s₀ s) : Since s₀ (mapBytes page bs s) := by
  induction bs generalizing page s with
  | nil => exact h
  | cons b t ih =>
    unfold mapBytes
    dsimp only
    split
    · exact ih (ite_since (pick_since h) (mapByte_since (pick_since h)))
    · exact ih (mapByte_since h)

/-! ### PlateCmds -/

theorem plateRefused_since {reason sect} (h : Since s₀ s) : Since s₀ (plateRefused reason sect s) :=
  tally_since h

theorem loadRefused_since {delta reason sect} (h : Since s₀ s) :
    Since s₀ (loadRefused delta reason sect s) :=
  h

theorem execPltLoadState_since {stores} (h : Since s₀ s) : Since s₀ (execPltLoadState stores s) := by
  unfold execPltLoadState
  extract_lets -underBinder s₁ _ _ s₂
  have hs₁ : Since s₀ s₁ := foldl_since (fun _ _ h => hostStore_since h) h
  exact ite_since hs₁ <|
    ite_since (ite_since (loadRefused_since hs₁) hs₁) <|
    ite_since (loadRefused_since hs₁) (foldl_since (fun _ _ h => tdiError_since h) hs₁)

theorem execLoadCompleteState_since (h : Since s₀ s) : Since s₀ (execLoadCompleteState s) := by
  unfold execLoadCompleteState
  split
  · exact h
  · dsimp only
    split
    · exact loadRefused_since h
    · have stored := fun b => writeStore_since (addr := shadowAddr) (b := b) h
      exact ite_since (loadRefused_since h) (ite_since (plt_since (stored _)) (plt_since (stored _)))

theorem installFlash_since {new choose} (h : Since s₀ s) : Since s₀ (installFlash new choose s) :=
  foldl_since (fun _ _ h => installPos_since h) h

theorem changeKeys_since {old new} (h : Since s₀ s) : Since s₀ (changeKeys old new s) :=
  installFlash_since (foldl_since (fun _ _ h => erasePos_since (erasePos_since h)) h)

theorem loseTier_since (h : Since s₀ s) : Since s₀ (loseTier s) :=
  freeGone_since (unplace_since (foldl_since (fun _ _ h => markPages_since h) h))

theorem startWatch_since {c} (h : Since s₀ s) : Since s₀ (startWatch s c) :=
  ite_since (setAux_since h) h

theorem ungateGraver_since {g} (h : Since s₀ s) : Since s₀ (ungateGraver g s) :=
  ite_since (setGraver_since h) h

theorem allotGravers_since (h : Since s₀ s) : Since s₀ (allotGravers s) := by
  unfold allotGravers
  exact foldl_since
      (fun _ _ h =>
          ite_since (ite_since h (setGraver_since h)) <|
          ungateGraver_since (ite_since h (setGraver_since h)))
      h

theorem awaitQuotas_since (h : Since s₀ s) : Since s₀ (awaitQuotas s) :=
  h

theorem retrainPorts_since {old} (h : Since s₀ s) : Since s₀ (retrainPorts old s) :=
  foldl_since (fun _ _ h => ite_since h (setFport_since h)) h

theorem sealConn_since {c} (h : Since s₀ s) : Since s₀ (sealConn s c) := by
  unfold sealConn
  extract_lets -underBinder
  split
  · exact setConn_since h
  · exact h
  · exact ite_since h (ite_since h (toKeyless_since h))
  · exact ite_since h (ite_since h (toKeyless_since h))
  · exact ite_since h (ite_since h (toKeyless_since h))
  · exact ite_since h (ite_since h (toKeyless_since h))

theorem execPltSealState_since (h : Since s₀ s) : Since s₀ (execPltSealState s) := by
  unfold execPltSealState
  split
  · exact h
  · extract_lets -underBinder _ _ _ _ _ s₁ s₂ s₃ s₄ s₅ s₆
    have hs₁ : Since s₀ s₁ := frame_since h rfl rfl rfl
    have hs₂ : Since s₀ s₂ := changeKeys_since hs₁
    have hs₃ : Since s₀ s₃ := installFlash_since hs₂
    have hs₄ : Since s₀ s₄ := ite_since hs₃ (loseTier_since hs₃)
    have hs₅ : Since s₀ s₅ := foldl_since (fun _ _ h => sealConn_since h) hs₄
    have hs₆ : Since s₀ s₆ := foldl_since (fun _ _ h => startWatch_since h) hs₅
    exact awaitQuotas_since (retrainPorts_since hs₆)

theorem execRankSwitchState_since (h : Since s₀ s) : Since s₀ (execRankSwitchState s) :=
  ite_since (allotGravers_since h) h

theorem armDone_since {code} (h : Since s₀ s) : Since s₀ (armDone code s) :=
  h

theorem execPltArmState_since (h : Since s₀ s) : Since s₀ (execPltArmState s) := by
  unfold execPltArmState
  split
  · exact h
  · extract_lets -underBinder
    exact ite_since (armDone_since (plateRefused_since h)) <|
      ite_since (armDone_since (plateRefused_since h)) <|
      ite_since (armDone_since (plateRefused_since h)) <|
      ite_since (countEvent_since (armDone_since h)) h

theorem execIslandAckState_since {i} (h : Since s₀ s) : Since s₀ (execIslandAckState i s) := by
  unfold execIslandAckState
  split <;> exact h

theorem execPltCommitState_since (h : Since s₀ s) : Since s₀ (execPltCommitState s) :=
  ite_since h h

theorem execPltAbortState_since (h : Since s₀ s) : Since s₀ (execPltAbortState s) := by
  unfold execPltAbortState
  split
  · exact abortDelta_since h
  · exact abortDelta_since h
  · exact abortDelta_since h
  · exact h

theorem swapConn_since {old c} (h : Since s₀ s) : Since s₀ (swapConn old s c) := by
  unfold swapConn
  extract_lets -underBinder
  split
  · exact setConn_since h
  · exact h
  · exact closeConn_since (setAux_since h)
  · exact setAux_since h
  · exact toKeyless_since h
  · exact toKeyless_since h
  · exact ite_since (toKeyless_since h) h
  · exact ite_since (toKeyless_since h) h
  · exact ite_since (toKeyless_since h) h
  · exact h

theorem swapScrubs_since {old new} (h : Since s₀ s) : Since s₀ (swapScrubs old new s) :=
  foldl_since (fun _ _ h => startScrub_since h) (foldl_since (fun _ _ h => startScrub_since h) h)

theorem reaim_since {r} (h : Since s₀ s) : Since s₀ (reaim s r) := by
  unfold reaim
  dsimp only
  split
  · exact ite_since (setReq_since h) (setReq_since h)
  · exact ite_since (countEvent_since h) (setReq_since h)

theorem reaimAll_since (h : Since s₀ s) : Since s₀ (reaimAll s) :=
  foldl_since (fun _ _ h => reaim_since h) h

theorem swapPlate_since {new} (h : Since s₀ s) : Since s₀ (swapPlate new s) := by
  unfold swapPlate
  extract_lets -underBinder _ s₁ _ _ _ s₂ s₃ s₄ _ s₅ s₆
  have hs₁ : Since s₀ s₁ := swapScrubs_since h
  have hs₂ : Since s₀ s₂ := frame_since hs₁ rfl rfl rfl
  have hs₃ : Since s₀ s₃ := reaimAll_since hs₂
  have hs₄ : Since s₀ s₄ := changeKeys_since hs₃
  have hs₅ : Since s₀ s₅ := foldl_since (fun _ _ h => swapConn_since h) hs₄
  have hs₆ : Since s₀ s₆ := foldl_since (fun _ _ h => startWatch_since h) hs₅
  exact tally_since (allotGravers_since hs₆)

theorem execDeltaBoundaryState_since (h : Since s₀ s) : Since s₀ (execDeltaBoundaryState s) := by
  unfold execDeltaBoundaryState
  split
  · exact h
  · exact h
  · split
    · exact h
    · split
      · exact swapPlate_since h
      · exact abortDelta_since h
  · split
    · exact h
    · split
      · exact swapPlate_since h
      · exact abortDelta_since h

theorem execPlateLostState_since (h : Since s₀ s) : Since s₀ (execPlateLostState s) :=
  ite_since h (raise_since h)

/-! ### Power -/

theorem trainPort_since {p} (h : Since s₀ s) : Since s₀ (trainPort s p) :=
  ite_since (setFport_since h) h

theorem startStage_since {n} (h : Since s₀ s) : Since s₀ (startStage n s) :=
  ite_since h (ite_since (foldl_since (fun _ _ h => trainPort_since h) h) (ite_since h h))

theorem stallStage_since {cause} (h : Since s₀ s) : Since s₀ (stallStage cause s) :=
  h

/-- Where the fault state is cleared the FIFO is empty. -/
theorem cleared_fifoBounded {s : State} (cleared : s.flt = {}) : fifoBounded s := by
  unfold fifoBounded
  rw [cleared]
  decide

theorem mainOff_since (h : Since s₀ s) : Since s₀ (mainOff s) := by
  obtain ⟨queue, -, svnTc, svnHub⟩ := h
  exact ⟨queue, fun _ => cleared_fifoBounded rfl, svnTc, svnHub⟩

theorem performCut_since {thermal} (h : Since s₀ s) : Since s₀ (performCut thermal s) := by
  have counted : Since s₀ (if thermal then tally cShutdown s else s) := ite_since (tally_since h) h
  have off := mainOff_since (cutKeys_since counted)
  exact off

theorem allOff_since (h : Since s₀ s) : Since s₀ (allOff s) := by
  obtain ⟨queue, -, svnTc, svnHub⟩ := h
  exact ⟨queue, fun _ => cleared_fifoBounded rfl, svnTc, svnHub⟩

theorem execCutState_since (h : Since s₀ s) : Since s₀ (execCutState s) :=
  ite_since (performCut_since h) h

theorem startZero_since {bifur smb} (h : Since s₀ s) : Since s₀ (startZero bifur smb s) :=
  startStage_since h

theorem execVauxInRangeState_since {mv ns bifur smb} (h : Since s₀ s) :
    Since s₀ (execVauxInRangeState mv ns bifur smb s) := by
  unfold execVauxInRangeState
  exact ite_since (ite_since (pick_since h) (allOff_since (pick_since h))) <|
    ite_since (ite_since (allOff_since h) h) (ite_since (ite_since (startZero_since h) h) h)

theorem holdReset_since (h : Since s₀ s) : Since s₀ (holdReset s) := by
  exact performCut_since (thermal := false) h

theorem execSysRstNState_since {high lowNs bifur smb} (h : Since s₀ s) :
    Since s₀ (execSysRstNState high lowNs bifur smb s) :=
  ite_since (ite_since h (ite_since (startZero_since h) h)) (ite_since h (holdReset_since h))

theorem vinOutside_since (h : Since s₀ s) : Since s₀ (vinOutside s) :=
  ite_since h (raise_since (tally_since h))

theorem execVinMainRangeState_since {mv ns} (h : Since s₀ s) :
    Since s₀ (execVinMainRangeState mv ns s) :=
  ite_since h (ite_since (tally_since (performCut_since h)) (vinOutside_since h))

theorem loadFuses_since (h : Since s₀ s) : Since s₀ (loadFuses s) :=
  h

theorem stageZeroDone_since (h : Since s₀ s) : Since s₀ (stageZeroDone s) := by
  unfold stageZeroDone
  extract_lets -underBinder s₁
  have hs₁ : Since s₀ s₁ := loadFuses_since h
  split
  · exact hs₁
  · exact stallStage_since hs₁

theorem regulatorFailed_since (h : Since s₀ s) : Since s₀ (regulatorFailed s) :=
  ite_since (stallStage_since (performCut_since h)) (performCut_since h)

theorem memoriesClear_since (h : Since s₀ s) : Since s₀ (memoriesClear s) :=
  unplace_since (frame_since h rfl rfl rfl)

theorem chainsTrained_since (h : Since s₀ s) : Since s₀ (chainsTrained s) :=
  foldl_since (fun _ _ h => ite_since h (setGraver_since h)) h

theorem stacksFail_since {cause mask} (h : Since s₀ s) : Since s₀ (stacksFail cause mask s) :=
  ite_since h (stallStage_since h)

theorem stageDone_since (h : Since s₀ s) : Since s₀ (stageDone s) := by
  unfold stageDone
  split
  · exact stageZeroDone_since h
  · exact startStage_since h
  · exact ite_since (startStage_since (chainsTrained_since (memoriesClear_since h))) h
  · exact ite_since (startStage_since h) h
  · exact ite_since (startStage_since h) h
  · exact ite_since h h
  · exact h

theorem execStageCompleteState_since {r} (h : Since s₀ s) :
    Since s₀ (execStageCompleteState r s) := by
  unfold execStageCompleteState
  split
  · exact h
  · split
    · exact stageDone_since h
    · exact ite_since (stallStage_since (loadFuses_since h)) h
    · exact ite_since (stallStage_since h) (ite_since (stallStage_since (performCut_since h)) h)
    · exact ite_since (regulatorFailed_since h) h
    · exact ite_since (stacksFail_since h) h
    · exact ite_since (stacksFail_since h) h

theorem execMainPowerStartState_since (h : Since s₀ s) : Since s₀ (execMainPowerStartState s) :=
  ite_since (startStage_since h) h

theorem execPowerSampleState_since {w da mv} (h : Since s₀ s) :
    Since s₀ (execPowerSampleState w da mv s) := by
  unfold execPowerSampleState
  exact ite_since h <|
    ite_since
      (raise_since <|
        ite_since (countEvent_since (ite_since (countEvent_since h) h)) <|
        ite_since (countEvent_since h) h)
      (ite_since (countEvent_since (ite_since (countEvent_since h) h)) <|
        ite_since (countEvent_since h) h)

theorem execCapState_since {watts} (h : Since s₀ s) : Since s₀ (execCapState watts s) :=
  h

theorem clearCause_since {b} (h : Since s₀ s) : Since s₀ (clearCause b s) :=
  ite_since h h

theorem clearThermal_since (h : Since s₀ s) : Since s₀ (clearThermal s) :=
  ite_since (clearCause_since h) h

theorem execDramTempSampleState_since {st c} (h : Since s₀ s) :
    Since s₀ (execDramTempSampleState st c s) :=
  ite_since (performCut_since (setHeat_since h)) (clearThermal_since (setHeat_since h))

theorem junctionCritical_since {unit since} (h : Since s₀ s) :
    Since s₀ (junctionCritical unit since s) :=
  ite_since (raise_since h) (clearThermal_since h)

theorem execJunctionTemperatureSampleState_since {die c} (h : Since s₀ s) :
    Since s₀ (execJunctionTemperatureSampleState die c s) := by
  unfold execJunctionTemperatureSampleState
  exact ite_since
      (ite_since (performCut_since (setHeat_since h)) <|
        junctionCritical_since (ite_since (countEvent_since (setHeat_since h)) (setHeat_since h)))
      (ite_since (performCut_since h) (junctionCritical_since h))

theorem execThermalDemandState_since {st} (h : Since s₀ s) : Since s₀ (execThermalDemandState st s) :=
  ite_since h (ite_since (setHeat_since h) (ite_since (setHeat_since h) h))

theorem execFlowWindowState_since {x} (h : Since s₀ s) : Since s₀ (execFlowWindowState x s) :=
  ite_since h (ite_since (raise_since (tally_since h)) (ite_since (clearCause_since h) h))

theorem execCoolantCutState_since (h : Since s₀ s) : Since s₀ (execCoolantCutState s) :=
  ite_since (performCut_since h) h

theorem gateGraver_since {g} (h : Since s₀ s) : Since s₀ (gateGraver g s) :=
  ite_since h (setGraver_since h)

theorem gateByNode_since (h : Since s₀ s) : Since s₀ (gateByNode s) :=
  foldl_since
      (fun _ _ h =>
          ite_since (ite_since (gateGraver_since h) h) (ite_since (ungateGraver_since h) h))
      h

theorem execPwrGgateReqState_since {i v} (h : Since s₀ s) :
    Since s₀ (execPwrGgateReqState i v s) := by
  unfold execPwrGgateReqState
  extract_lets -underBinder _ _ _ _ _ s₁
  refine foldl_since (fun _ _ h => ?_) h
  split
  · exact deferRequest_since h
  · exact h

theorem execPwrGateState_since {portDown flash} (h : Since s₀ s) :
    Since s₀ (execPwrGateState portDown flash s) := by
  unfold execPwrGateState
  extract_lets -underBinder _ _ _ _ _ _ s₁ s₂
  have hs₂ : Since s₀ s₂ := by
    dsimp only [s₂]
    refine foldl_since (fun _ _ h => ?_) h
    split
    · exact deferRequest_since h
    · exact h
  split
  · exact deferRequest_since hs₂
  · exact hs₂

theorem gatePort_since {p} (h : Since s₀ s) : Since s₀ (gatePort s p) := by
  unfold gatePort
  extract_lets -underBinder _ _ s₁
  have hs₁ : Since s₀ s₁ := setFport_since h
  exact ite_since (ite_since (ite_since hs₁ (dropPort_since hs₁)) h) <|
    ite_since (setFport_since h) h

theorem gateRequested_since {g} (h : Since s₀ s) : Since s₀ (gateRequested s g) :=
  ite_since (ite_since (gateGraver_since h) h) (ite_since (ungateGraver_since h) h)

theorem gateFlash_since (h : Since s₀ s) : Since s₀ (gateFlash s) :=
  ite_since (ite_since h h) (ite_since h h)

theorem execGateTakesEffectState_since (h : Since s₀ s) : Since s₀ (execGateTakesEffectState s) :=
  ite_since
      (gateFlash_since <|
        foldl_since (fun _ _ h => gatePort_since h) <|
        foldl_since (fun _ _ h => gateRequested_since h) h)
      h

theorem linkDeferred_since {l} (h : Since s₀ s) : Since s₀ (linkDeferred s l) :=
  ite_since (linkLoss_since h) h

theorem execDeferredTakesEffectState_since (h : Since s₀ s) :
    Since s₀ (execDeferredTakesEffectState s) :=
  ite_since
      (foldl_since (fun _ _ h => linkDeferred_since h) <|
        gateFlash_since <|
        foldl_since (fun _ _ h => gatePort_since h) <|
        foldl_since (fun _ _ h => gateRequested_since h) h)
      h

theorem execHostPowerManagementRequestState_since {r} (h : Since s₀ s) :
    Since s₀ (execHostPowerManagementRequestState r s) := by
  unfold execHostPowerManagementRequestState
  split
  · exact h
  · split
    · exact h
    · split
      · exact ite_since h (deferRequest_since h)
      · exact linkLoss_since h

theorem execPwrCtrlSkipState_since (h : Since s₀ s) : Since s₀ (execPwrCtrlSkipState s) :=
  ite_since h h

theorem execHoldEnterState_since (h : Since s₀ s) : Since s₀ (execHoldEnterState s) :=
  ite_since (enterHold_since h) h

theorem execHoldExitState_since (h : Since s₀ s) : Since s₀ (execHoldExitState s) :=
  ite_since (gateByNode_since h) (countEvent_since h)

theorem execRestartState_since (h : Since s₀ s) : Since s₀ (execRestartState s) :=
  ite_since h h

theorem execOffState_since (h : Since s₀ s) : Since s₀ (execOffState s) :=
  ite_since (enterHold_since h) h

theorem execHostLinkTrainedState_since {l speed width cache mem} (h : Since s₀ s) :
    Since s₀ (execHostLinkTrainedState l speed width cache mem s) :=
  ite_since h (ite_since h (ite_since h h))

/-! ### Faults -/

theorem fencePort_since {p} (h : Since s₀ s) : Since s₀ (fencePort p s) :=
  ite_since (tally_since h) (dropPort_since (tally_since h))

theorem fenceChannel_since {c} (h : Since s₀ s) : Since s₀ (fenceChannel c s) :=
  tally_since h

theorem execCoreResetState_since {core} (h : Since s₀ s) : Since s₀ (execCoreResetState core s) :=
  ite_since h (ite_since (enterHold_since (raise_since h)) (raise_since h))

theorem tierLeaseEnds_since (h : Since s₀ s) : Since s₀ (tierLeaseEnds s) := by
  unfold tierLeaseEnds
  split
  · exact programFails_since h
  · exact h

theorem execLeaseRevokedState_since {unit} (h : Since s₀ s) :
    Since s₀ (execLeaseRevokedState unit s) :=
  ite_since (ite_since (fencePort_since (raise_since (tally_since (zeroRanks_since h)))) h) <|
    ite_since (ite_since (fenceChannel_since (raise_since (tally_since h))) h) <|
    ite_since (ite_since (execCoreResetState_since (tally_since h)) h) <|
    ite_since (tierLeaseEnds_since (raise_since (tally_since h))) h

theorem execTrustRestartState_since (h : Since s₀ s) : Since s₀ (execTrustRestartState s) :=
  ite_since h (raise_since h)

theorem execUnfenceState_since {known} (h : Since s₀ s) : Since s₀ (execUnfenceState known s) :=
  mailbox_since
      (fun _ _ h =>
          ite_since (mbxRefuse_since h) (ite_since (mbxRefuse_since h) (mbxEnd_since h)))
      h

theorem returnUnit_since {x} (h : Since s₀ s) : Since s₀ (returnUnit s x) := by
  unfold returnUnit
  extract_lets -underBinder
  split
  · exact setGraver_since h
  · exact h
  · exact h
  · exact h
  · exact h
  · exact setAux_since h
  · exact h

theorem returnUnits_since (h : Since s₀ s) : Since s₀ (returnUnits s) :=
  foldl_since (fun _ _ h => returnUnit_since h) h

theorem reconFence_since {x} (h : Since s₀ s) : Since s₀ (reconFence s x) := by
  unfold reconFence
  extract_lets -underBinder _ s₁
  have hs₁ : Since s₀ s₁ := raise_since (tally_since h)
  exact ite_since (ite_since hs₁ (closeBestEffort_since (fenceGraver_since hs₁))) <|
    ite_since (enterHold_since hs₁) (ite_since (dropPort_since hs₁) (fencePort_since hs₁))

theorem execReconcileState_since (h : Since s₀ s) : Since s₀ (execReconcileState s) :=
  ite_since (foldl_since (fun _ _ h => reconFence_since h) h) h

theorem pushEvent_since (h : Since s₀ s) : Since s₀ (pushEvent s) := by
  unfold pushEvent
  split
  · exact ite_since (emit_since h) h
  · exact h

theorem queueEvent_since {data} (h : Since s₀ s) : Since s₀ (queueEvent data s) :=
  ite_since (countEvent_since h) (pushEvent_since h)

theorem popEvent_since (h : Since s₀ s) : Since s₀ (popEvent s) :=
  pushEvent_since h

theorem queueFault_since {r n} (h : Since s₀ s) : Since s₀ (queueFault r n s) :=
  ite_since (queueEvent_since h) h

theorem commitRecord_since {r} (h : Since s₀ s) : Since s₀ (commitRecord r s) :=
  queueFault_since h

/-- The writer takes an entry out, or clears the lost count. -/
theorem execTraceRecordWriteState_since (h : Since s₀ s) :
    Since s₀ (execTraceRecordWriteState s) := by
  unfold execTraceRecordWriteState
  obtain ⟨queue, bounded, svn⟩ := h
  split
  · refine commitRecord_since ⟨queue, fun b => ?_, svn⟩
    obtain ⟨fifo, peak, -, lostSinceRead⟩ := bounded b
    exact ⟨fifo, peak, Nat.zero_le _, lostSinceRead⟩
  · split
    · next r rest front =>
      refine commitRecord_since ⟨queue, fun b => ?_, svn⟩
      obtain ⟨fifo, counts⟩ := bounded b
      rw [front, List.length_cons] at fifo
      exact ⟨by show rest.length ≤ 64; omega, counts⟩
    · exact ⟨queue, bounded, svn⟩

theorem execEvtSelState_since {i} (h : Since s₀ s) : Since s₀ (execEvtSelState i s) :=
  h

theorem execClearUeState_since (h : Since s₀ s) : Since s₀ (execClearUeState s) :=
  clearCause_since h

theorem execClearOtherState_since (h : Since s₀ s) : Since s₀ (execClearOtherState s) :=
  ite_since h (clearCause_since h)

theorem wearOne_since {inputs unit} (h : Since s₀ s) : Since s₀ (wearOne inputs s unit) :=
  ite_since (logEvent_since h) h

theorem execWearUpdateState_since {inputs} (h : Since s₀ s) :
    Since s₀ (execWearUpdateState inputs s) :=
  ite_since (foldl_since (fun _ _ h => wearOne_since h) h) h

/-! ### Mgmt -/

theorem setAssembly_since {b a} (h : Since s₀ s) : Since s₀ (setAssembly b a s) :=
  h

theorem mctpDrop_since {b} (h : Since s₀ s) : Since s₀ (mctpDrop b s) :=
  countEvent_since (setAssembly_since h)

theorem mctpJoin_since {b eom a} (h : Since s₀ s) : Since s₀ (mctpJoin b eom a s) :=
  ite_since (mctpDrop_since h) (ite_since (setAssembly_since h) (setAssembly_since h))

theorem execMctpPacketState_since {bd som eom seq tag payload} (h : Since s₀ s) :
    Since s₀ (execMctpPacketState bd som eom seq tag payload s) :=
  ite_since h <|
    ite_since (ite_since (mctpDrop_since h) (ite_since h (mctpJoin_since h))) <|
    ite_since (ite_since h (mctpDrop_since h)) <|
    ite_since (mctpDrop_since h) (mctpJoin_since h)

theorem execSetEndpointIdState_since {b eid} (h : Since s₀ s) :
    Since s₀ (execSetEndpointIdState b eid s) := by
  unfold execSetEndpointIdState
  split
  · exact h
  · split <;> exact h

theorem takeMessage_since {typ} (h : Since s₀ s) : Since s₀ (takeMessage typ s).2 := by
  unfold takeMessage
  split <;> exact h

theorem answerPldm_since {code body} (h : Since s₀ s) : Since s₀ (answerPldm code body s) :=
  emit_since (takeMessage_since h)

theorem execB2WriteState_since (h : Since s₀ s) : Since s₀ (execB2WriteState s) := by
  refine mailbox_since (fun _ _ h => ite_since (mbxRefuse_since h) ?_) h
  split
  · exact mbxRefuse_since h
  · exact ite_since (mbxEnd_since h) (mbxEnd_since h)

theorem execB2ReadState_since (h : Since s₀ s) : Since s₀ (execB2ReadState s) := by
  unfold execB2ReadState
  refine mailbox_since (fun _ _ h => ?_) h
  extract_lets -underBinder
  split
  · exact mbxRefuse_since h
  · split
    · exact mbxRefuse_since h
    · exact ite_since (mbxEnd_since h) (mbxEnd_since h)

theorem refreshSensor_since {n} (h : Since s₀ s) : Since s₀ (refreshSensor s n) :=
  ite_since h (ite_since h (queueEvent_since h))

theorem execSensorRefreshState_since (h : Since s₀ s) : Since s₀ (execSensorRefreshState s) :=
  ite_since (foldl_since (fun _ _ h => refreshSensor_since h) h) h

theorem execGetSensorReadingState_since {n} (h : Since s₀ s) :
    Since s₀ (execGetSensorReadingState n s) :=
  ite_since h <|
    ite_since (answerPldm_since h) (ite_since (answerPldm_since h) (answerPldm_since h))

theorem execGetPdrState_since {handle} (h : Since s₀ s) : Since s₀ (execGetPdrState handle s) :=
  ite_since h (ite_since (answerPldm_since h) (answerPldm_since h))

theorem execSetEventReceiverState_since {r} (h : Since s₀ s) :
    Since s₀ (execSetEventReceiverState r s) :=
  ite_since (pushEvent_since h) h

theorem execPollForPlatformEventState_since (h : Since s₀ s) :
    Since s₀ (execPollForPlatformEventState s) := by
  unfold execPollForPlatformEventState
  split
  · exact h
  · split
    · exact popEvent_since (answerPldm_since h)
    · exact answerPldm_since h

theorem execPlatformEventRetryState_since {acked} (h : Since s₀ s) :
    Since s₀ (execPlatformEventRetryState acked s) := by
  unfold execPlatformEventRetryState
  split
  · exact ite_since h (ite_since (popEvent_since h) (ite_since (emit_since h) h))
  · exact h

theorem heard_since (h : Since s₀ s) : Since s₀ (heard s) :=
  h

theorem execRequestUpdateState_since (h : Since s₀ s) : Since s₀ (execRequestUpdateState s) :=
  ite_since h <|
    ite_since (answerPldm_since (heard_since h)) (answerPldm_since (heard_since h))

theorem setBank_since {comp b k} (h : Since s₀ s) : Since s₀ (setBank comp b k s) :=
  h

theorem execUpdateComponentState_since {comp image svn version sigOk} (h : Since s₀ s) :
    Since s₀ (execUpdateComponentState comp image svn version sigOk s) :=
  ite_since h (setBank_since (heard_since h))

theorem execVerifyComponentState_since (h : Since s₀ s) : Since s₀ (execVerifyComponentState s) :=
  ite_since h <|
    ite_since (answerPldm_since (setBank_since h)) <|
    answerPldm_since (countEvent_since (setBank_since h))

theorem execApplyCompleteState_since (h : Since s₀ s) : Since s₀ (execApplyCompleteState s) :=
  ite_since h (ite_since h h)

theorem execActivateFirmwareState_since {selfContained} (h : Since s₀ s) :
    Since s₀ (execActivateFirmwareState selfContained s) :=
  ite_since h <|
    ite_since (answerPldm_since (heard_since h)) (answerPldm_since (heard_since h))

theorem execCancelUpdateState_since (h : Since s₀ s) : Since s₀ (execCancelUpdateState s) :=
  ite_since h h

theorem execUpdateTimeoutState_since (h : Since s₀ s) : Since s₀ (execUpdateTimeoutState s) :=
  ite_since (countEvent_since h) h

/-! ### Regs -/

/-- A read clears the peak and the lost count of the trace. -/
theorem clearTrace_since {peak lost : Prop} [Decidable peak] [Decidable lost] (h : Since s₀ s) :
    Since s₀ { s with flt.fifoPeak := if peak then 0 else s.flt.fifoPeak,
                      flt.lostSinceRead := if lost then 0 else s.flt.lostSinceRead } := by
  obtain ⟨queue, bounded, svn⟩ := h
  refine ⟨queue, fun b => ?_, svn⟩
  obtain ⟨fifo, peak, lost, lostSinceRead⟩ := bounded b
  exact ⟨fifo, by dsimp only; split <;> omega, lost, by dsimp only; split <;> omega⟩

theorem clearRc_since {off lo hi} (h : Since s₀ s) : Since s₀ (clearRc off lo hi s) :=
  ite_since h (ite_since h (ite_since (clearTrace_since h) (ite_since (setFport_since h) h)))

theorem endLatch_since {f off} (h : Since s₀ s) : Since s₀ (endLatch f off s) :=
  ite_since h h

theorem readWhole_since {f off} (h : Since s₀ s) : Since s₀ (readWhole f off s).2 := by
  unfold readWhole
  split
  · exact clearRc_since (endLatch_since h)
  · exact h

theorem readLow_since {f off} (h : Since s₀ s) : Since s₀ (readLow f off s).2 :=
  readWhole_since h

theorem readHigh_since {f off} (h : Since s₀ s) : Since s₀ (readHigh f off s).2 := by
  unfold readHigh
  split
  · split
    · exact h
    · split
      · exact clearRc_since h
      · exact h
  · split
    · exact clearRc_since h
    · exact h

theorem execUnalignedAccessState_since {f off width write} (h : Since s₀ s) :
    Since s₀ (execUnalignedAccessState f off width write s) :=
  ite_since (logEvent_since h) (emit_since (logEvent_since h))

theorem execRcFieldReadState_since {f off width} (h : Since s₀ s) :
    Since s₀ (execRcFieldReadState f off width s) :=
  ite_since (execUnalignedAccessState_since h) <|
    emit_since <|
    ite_snd_since (readWhole_since h) (ite_snd_since (readLow_since h) (readHigh_since h))

theorem lockedWrite_since {off w} (h : Since s₀ s) : Since s₀ (lockedWrite off w s) :=
  logEvent_since h

theorem writeDirCmd_since {n v} (h : Since s₀ s) : Since s₀ (writeDirCmd n v s) :=
  ite_since h (ite_since (setPort_since h) (setPort_since h))

theorem writeDirPort_since {n r w} (h : Since s₀ s) : Since s₀ (writeDirPort n r w s) :=
  ite_since (setPort_since h) <|
    ite_since (setPort_since h) <|
    ite_since (setPort_since h) <|
    ite_since (setPort_since h) <|
    ite_since (setPort_since h) (ite_since (writeDirCmd_since h) h)

theorem writeRing_since {n r w} (h : Since s₀ s) : Since s₀ (writeRing n r w s) := by
  unfold writeRing
  extract_lets -underBinder _ _ _ _ s₁
  have hs₁ : Since s₀ s₁ := ite_since (disableRing_since h) h
  exact ite_since (setRing_since h) <|
    ite_since (setRing_since h) <|
    ite_since (setRing_since hs₁) <|
    ite_since (execPostState_since h) (ite_since (execReclaimState_since h) h)

theorem mailboxGo_since (h : Since s₀ s) : Since s₀ (mailboxGo s) :=
  ite_since (mailbox_since (fun _ _ h => offerKey_since h) h) <|
    ite_since (mailbox_since (fun _ _ h => acceptKey_since h) h) <|
    ite_since (mailbox_since (fun _ _ h => eraseKey_since h) h) <|
    ite_since (execScrubState_since h) <|
    ite_since (execFuseSvnState_since h) <|
    ite_since (execCurveMultState_since h) <|
    ite_since (execUnfenceState_since h) <|
    ite_since (execB2WriteState_since h) <|
    ite_since (execB2ReadState_since h) (ite_since h (mbxRefuse_since h))

theorem actOn_since {v acts} (hacts : acts.Forall fun a => KeepsSince s₀ a.2) (h : Since s₀ s) :
    Since s₀ (actOn v acts s) := by
  induction acts generalizing s with
  | nil => exact h
  | cons a l ih =>
    rw [List.forall_cons] at hacts
    exact ih hacts.2 (ite_since (hacts.1 h) h)

theorem writeHub_since {off w} (h : Since s₀ s) : Since s₀ (writeHub off w s) := by
  have linkBPart : Since s₀ (if w.lo then { s with host.linkBPart := w.v % 128, host.linkBValid := bit w.v 7 } else s) :=
    ite_since (host_since h) h
  have queue : ∀ i, Since s₀ (if 5 ≤ i % 8 then s
      else if off % 0x40 = 0 then execCqDoorbellState (i / 8) (i % 8) (BitVec.ofNat 64 w.v) [] s
      else if off % 0x40 = 8 ∧ w.lo then execCqEnableState (i / 8) (i % 8) (bit w.v 7) s
      else s) := fun i =>
    ite_since h (ite_since (execCqDoorbellState_since h) (ite_since (execCqEnableState_since h) h))
  unfold writeHub
  refine ite_since linkBPart (ite_since (host_since h) (ite_since (queue _) ?_))
  refine ite_since (writeDirPort_since h) (ite_since ?_ ?_)
  · exact execPrtCtrlRetrainState_since (ite_since (lockedWrite_since h) (setFport_since h))
  · refine ite_since (tfx_since h) (ite_since ?_ (ite_since (writeRing_since h) h))
    exact ite_since (lockedWrite_since h) (tfx_since h)

theorem writeNode_since {off w} (h : Since s₀ s) : Since s₀ (writeNode off w s) := by
  have plate : Since s₀ (actOn w.v [(0, execPltLoadState []), (1, execPltSealState), (2, execPltArmState),
      (3, execPltCommitState), (4, execPltAbortState)] s) :=
    actOn_since ⟨fun _ h => execPltLoadState_since h, fun _ h => execPltSealState_since h,
      fun _ h => execPltArmState_since h, fun _ h => execPltCommitState_since h,
      fun _ h => execPltAbortState_since h⟩ h
  have time : Since s₀ (actOn w.v [(0, execSetSecondsState), (1, execReregState), (2, execTimCtrlBarrierState)] s) :=
    actOn_since ⟨fun _ h => execSetSecondsState_since h, fun _ h => execReregState_since h,
      fun _ h => execTimCtrlBarrierState_since h⟩ h
  have power : Since s₀ (actOn w.v [(0, execPwrCtrlSkipState), (1, execHoldEnterState), (2, execHoldExitState),
      (3, execRestartState), (4, execOffState)] s) :=
    actOn_since ⟨fun _ h => execPwrCtrlSkipState_since h, fun _ h => execHoldEnterState_since h,
      fun _ h => execHoldExitState_since h, fun _ h => execRestartState_since h,
      fun _ h => execOffState_since h⟩ h
  have faults : Since s₀ (actOn w.v [(0, execClearUeState), (1, execClearOtherState)] s) :=
    actOn_since ⟨fun _ h => execClearUeState_since h, fun _ h => execClearOtherState_since h⟩ h
  have mailbox : ∀ a, Since s₀ { s with mem.mbxReq := (
      let m := if w.lo then memWrite s.mem.mbxReq a (leBytes 4 (w.v % 2 ^ 32)) else s.mem.mbxReq
      if w.hi then memWrite m (a + 4) (leBytes 4 (w.v / 2 ^ 32)) else m) } := fun _ => mem_since h
  unfold writeNode
  refine ite_since plate (ite_since (plt_since h) (ite_since (plt_since h) (ite_since (plt_since h) ?_)))
  refine ite_since (time_since h) (ite_since time (ite_since (time_since h) ?_))
  refine ite_since (driveBarrier_since (bar_since h)) (ite_since (bar_since h) (ite_since power ?_))
  refine ite_since (ite_since (execCapState_since h) h) (ite_since (ite_since (execPwrGateState_since h) h) ?_)
  refine ite_since (execPwrGgateReqState_since h) (ite_since (execPwrGgateReqState_since h) ?_)
  refine ite_since faults (ite_since (wearSel_since h) (ite_since (ite_since (execEvtSelState_since h) h) ?_))
  refine ite_since (ite_since (mailboxGo_since h) h) (ite_since (mailbox _) ?_)
  exact ite_since (ite_since (execFshCtrlSkipState_since h) h) h

theorem regWrite_since {off w} (h : Since s₀ s) : Since s₀ (regWrite off w s) :=
  ite_since (ite_since (mapBytes_since h) (ite_since (mapBytes_since h) (mapBytes_since h)))
      (ite_since (writeHub_since h) (writeNode_since h))

theorem fnWrite_since {f off w} (h : Since s₀ s) : Since s₀ (fnWrite f off w s) := by
  unfold fnWrite
  split
  · exact regWrite_since h
  · exact h

theorem regAnswer_since {b m status done data} (h : Since s₀ s) :
    Since s₀ (regAnswer b m status done data s) :=
  emit_since h

theorem readWords_since {n off} (h : Since s₀ s) : Since s₀ (readWords n off s).2 := by
  induction n generalizing off s with
  | zero => exact h
  | succ n ih => exact ih (readWhole_since h)

theorem writeWords_since {n off bs} (h : Since s₀ s) : Since s₀ (writeWords n off bs s) := by
  induction n generalizing off bs s with
  | zero => exact h
  | succ n ih => exact ih (fnWrite_since h)

theorem dropMessage_since {b m} (h : Since s₀ s) : Since s₀ (dropMessage b m s) :=
  h

theorem execRegReadState_since {b} (h : Since s₀ s) : Since s₀ (execRegReadState b s) := by
  unfold execRegReadState
  split
  · exact h
  · extract_lets -underBinder s₁ _ r₁
    have hs₁ : Since s₀ s₁ := dropMessage_since h
    have hr₁ : Since s₀ r₁.2 := readWords_since hs₁
    exact ite_since (regAnswer_since (countEvent_since hs₁)) <|
      ite_since (regAnswer_since hs₁) (regAnswer_since hr₁)

/-! ### Stages -/

theorem execBestEffortDispatchState_since {p ue} (h : Since s₀ s) :
    Since s₀ (execBestEffortDispatchState p ue s) := by
  unfold execBestEffortDispatchState
  split
  · exact h
  · extract_lets -underBinder _ _ _ _ s₁ _ _ _ s₂ s₃
    have hs₁ : Since s₀ s₁ := deliver_since (extentErrors_since h)
    have hs₂ : Since s₀ s₂ := tel_since (countEvent_since hs₁)
    have hs₃ : Since s₀ s₃ := foldl_since (fun _ _ h => startBestEffort_since h) hs₂
    split
    · exact h
    · split
      · exact ite_since (closeEntry_since hs₃) hs₃
      · exact hs₃

/-! ### Strobe -/

theorem departIsland_since {isl} (h : Since s₀ s) : Since s₀ (departIsland s isl) :=
  ite_since (countEvent_since h) (ite_since (countEvent_since h) h)

theorem telStroke_since (h : Since s₀ s) : Since s₀ (telStroke s) :=
  h

theorem portStroke_since {p} (h : Since s₀ s) : Since s₀ (portStroke s p) :=
  setFport_since h

theorem barrierFalls_since (h : Since s₀ s) : Since s₀ (barrierFalls s) := by
  unfold barrierFalls
  split
  · exact ite_since (driveBarrier_since h) h
  · exact h

theorem heatDelayed_since (h : Since s₀ s) : Since s₀ (heatDelayed s) :=
  h

theorem releaseRanks_since (h : Since s₀ s) : Since s₀ (releaseRanks s) :=
  ite_since h (endLatches_since h)

theorem endStroke_since (h : Since s₀ s) : Since s₀ (endStroke s) :=
  barrierFalls_since <|
    releaseRanks_since <|
    foldl_since (fun _ _ h => portStroke_since h) <|
    telStroke_since (foldl_since (fun _ _ h => departIsland_since h) (heatDelayed_since h))

theorem followDemand_since {st} (h : Since s₀ s) : Since s₀ (followDemand s st) :=
  setHeat_since h

theorem openCycles_since (h : Since s₀ s) : Since s₀ (openCycles s) :=
  h

theorem stageFreeLinks_since (h : Since s₀ s) : Since s₀ (stageFreeLinks s) :=
  foldl_since (fun _ _ h => ite_since (issueStaging_since h) h) h

theorem openStroke_since (h : Since s₀ s) : Since s₀ (openStroke s) :=
  stageFreeLinks_since (openCycles_since (foldl_since (fun _ _ h => followDemand_since h) h))

theorem bandFalls_since {st} (h : Since s₀ s) : Since s₀ (bandFalls s st) := by
  unfold bandFalls
  extract_lets -underBinder
  split
  · exact ite_since (enterBand_since h) h
  · exact h

theorem portPass_since {p} (h : Since s₀ s) : Since s₀ (portPass s p) :=
  ite_since h (setFport_since h)

theorem powerAverages_since {second} (h : Since s₀ s) : Since s₀ (powerAverages second s) :=
  ite_since h h

theorem vinPass_since (h : Since s₀ s) : Since s₀ (vinPass s) :=
  ite_since (vinOutside_since h) h

theorem openPass_since {second} (h : Since s₀ s) : Since s₀ (openPass second s) := by
  unfold openPass
  extract_lets -underBinder s₁ _ _ s₂ s₃ s₄ s₅ s₆
  have hs₁ : Since s₀ s₁ := powerAverages_since (vinPass_since (registrationEnds_since h))
  have hs₂ : Since s₀ s₂ := hs₁
  have hs₃ : Since s₀ s₃ := foldl_since (fun _ _ h => bandFalls_since h) hs₂
  have hs₄ : Since s₀ s₄ := foldl_since (fun _ _ h => portPass_since h) hs₃
  have hs₅ : Since s₀ s₅ := returnUnits_since hs₄
  have hs₆ : Since s₀ s₆ := ite_since (gateByNode_since hs₅) hs₅
  exact ite_since (telCopy_since hs₆) hs₆

theorem execStrobeState_since {drift} (h : Since s₀ s) : Since s₀ (execStrobeState drift s) := by
  unfold execStrobeState
  extract_lets -underBinder s₁ s₂ s₃ s₄
  have hs₁ : Since s₀ s₁ := openStroke_since (endStroke_since h)
  have hs₂ : Since s₀ s₂ := ite_since (registrationLoss_since hs₁) hs₁
  have hs₃ : Since s₀ s₃ := ite_since (gateByNode_since hs₂) hs₂
  have hs₄ : Since s₀ s₄ := ite_since (openPass_since hs₃) hs₃
  exact ite_since (performCut_since hs₄) hs₄

/-! ### The instructions and the step -/

/-- The command completes, in a state in which nothing of this is broken. -/
def OutcomeSince (s₀ : State) : Host.Outcome State Fault Refusal → Prop
  | .next t => Since s₀ t
  | .fault _ | .refused _ => False

theorem ite_outcomeSince {c : Prop} [Decidable c] {a b : Host.Outcome State Fault Refusal} (ha : OutcomeSince s₀ a)
    (hb : OutcomeSince s₀ b) : OutcomeSince s₀ (if c then a else b) := by
  split
  · exact ha
  · exact hb

theorem execRegisterWrite_sinceSince {f off width value} (h : Since s₀ s) :
    OutcomeSince s₀ (execRegisterWrite f off width value s) := by
  unfold execRegisterWrite
  have written : ∀ off w, OutcomeSince s₀ (.next (fnWrite f off w s)) := fun _ _ => fnWrite_since h
  exact ite_outcomeSince (execUnalignedAccessState_since h)
    (ite_outcomeSince (written _ _) (ite_outcomeSince (written _ _) (written _ _)))

theorem execRegWrite_sinceSince {b} (h : Since s₀ s) : OutcomeSince s₀ (execRegWrite b s) := by
  unfold execRegWrite
  split
  · exact h
  · have dropped : ∀ m, Since s₀ (dropMessage b m s) := fun _ => dropMessage_since h
    exact ite_outcomeSince (regAnswer_since (countEvent_since (dropped _))) <|
      ite_outcomeSince (regAnswer_since (dropped _)) (regAnswer_since (writeWords_since (dropped _)))

/-- Every instruction completes and breaks nothing of this. -/
theorem exec_since (h : Since s₀ s) (c : Instr) : OutcomeSince s₀ (exec c s) := by
  cases c with
  | registerWrite => exact execRegisterWrite_sinceSince h
  | rcFieldRead => exact execRcFieldReadState_since h
  | unalignedAccess => exact execUnalignedAccessState_since h
  | strobe => exact execStrobeState_since h
  | attn => exact execAttnState_since h
  | attnCheckStroke => exact execAttnCheckStrokeState_since h
  | admissionStroke => exact execAdmissionStrokeState_since h
  | admissionLookup => exact execAdmissionLookupState_since h
  | workDispatch => exact execWorkDispatchState_since h
  | bestEffortDispatch => exact execBestEffortDispatchState_since h
  | attnTokenTaken => exact execAttnTokenTakenState_since h
  | append => exact execAppendState_since h
  | commit => exact execCommitState_since h
  | cancel => exact execCancelState_since h
  | cancelAtSweepBoundary => exact execCancelAtSweepBoundaryState_since h
  | tailClearOnClose => exact execTailClearOnCloseState_since h
  | search => exact execSearchState_since h
  | count => exact execCountState_since h
  | read => exact execReadState_since h
  | invalidate => exact execInvalidateState_since h
  | write => exact execWriteState_since h
  | validate => exact execValidateState_since h
  | swap => exact execSwapState_since h
  | release => exact execReleaseState_since h
  | bulkInvalidate => exact execBulkInvalidateState_since h
  | directoryLeaseExpiry => exact execDirectoryLeaseExpiryState_since h
  | extentGraceEnd => exact execExtentGraceEndState_since h
  | stateOnlySwapRetry => exact execStateOnlySwapRetryState_since h
  | directoryPatrol => exact execDirectoryPatrolState_since h
  | sweep1 => exact execSweep1State_since h
  | sweep2 => exact execSweep2State_since h
  | sweep3 => exact execSweep3State_since h
  | blockClose => exact execBlockCloseState_since h
  | chainMerge => exact execChainMergeState_since h
  | sheetPatrol => exact execSheetPatrolState_since h
  | bankReady => exact execBankReadyState_since h
  | windowLine => exact execWindowLineState_since h
  | overrun => exact execOverrunState_since h
  | banksLine => exact execBanksLineState_since h
  | refreshLine => exact execRefreshLineState_since h
  | extraRefresh => exact execExtraRefreshState_since h
  | retrainLine => exact execRetrainLineState_since h
  | dircycLine => exact execDircycLineState_since h
  | linkLine => exact execLinkLineState_since h
  | maintLine => exact execMaintLineState_since h
  | closeLine => exact execCloseLineState_since h
  | sendLine => exact execSendLineState_since h
  | beatLine => exact execBeatLineState_since h
  | adaptLine => exact execAdaptLineState_since h
  | sampleLine => exact execSampleLineState_since h
  | collatorMerge => exact execCollatorMergeState_since h
  | childImpr => exact execChildImprState_since h
  | collatorEntryClose => exact execCollatorEntryCloseState_since h
  | orphan => exact execOrphanState_since h
  | contextWrite => exact execContextWriteState_since h
  | extentGet => exact execExtentGetState_since h
  | extentWrite => exact execExtentWriteState_since h
  | extentPut => exact execExtentPutState_since h
  | stage => exact execStageState_since h
  | tileStands => exact execTileStandsState_since h
  | stageReadFailed => exact execStageReadFailedState_since h
  | tileFree => exact execTileFreeState_since h
  | rehome => exact execRehomeState_since h
  | evict => exact execEvictState_since h
  | writeBack => exact execWriteBackState_since h
  | moveOut => exact execMoveOutState_since h
  | moveOutCompletion => exact execMoveOutCompletionState_since h
  | moveOutTimeout => exact execMoveOutTimeoutState_since h
  | exportOut => exact execExportOutState_since h
  | pageWrite => exact execPageWriteState_since h
  | move => exact execMoveState_since h
  | export_ => exact execExportState_since h
  | scraperEvict => exact execScraperEvictState_since h
  | burnisherZero => exact execBurnisherZeroState_since h
  | reverify => exact execReverifyState_since h
  | writeBackPass => exact execWriteBackPassState_since h
  | tierProgramDone => exact execTierProgramDoneState_since h
  | tierRead => exact execTierReadState_since h
  | tierWrite => exact execTierWriteState_since h
  | tierTrim => exact execTierTrimState_since h
  | tierStallRetry => exact execTierStallRetryState_since h
  | fshCtrlSkip => exact execFshCtrlSkipState_since h
  | flashMount => exact execFlashMountState_since h
  | zeroSlots => exact execZeroSlotsState_since h
  | zeroTiles => exact execZeroTilesState_since h
  | zeroB2 => exact execZeroB2State_since h
  | pltLoad => exact execPltLoadState_since h
  | loadComplete => exact execLoadCompleteState_since h
  | pltSeal => exact execPltSealState_since h
  | rankSwitch => exact execRankSwitchState_since h
  | pltArm => exact execPltArmState_since h
  | islandAck => exact execIslandAckState_since h
  | pltCommit => exact execPltCommitState_since h
  | pltAbort => exact execPltAbortState_since h
  | deltaBoundary => exact execDeltaBoundaryState_since h
  | plateLost => exact execPlateLostState_since h
  | heartbeat => exact execHeartbeatState_since h
  | peersLost => exact execPeersLostState_since h
  | ppsEdge => exact execPpsEdgeState_since h
  | phaseStep => exact execPhaseStepState_since h
  | markMissing => exact execMarkMissingState_since h
  | setSeconds => exact execSetSecondsState_since h
  | rereg => exact execReregState_since h
  | registration => exact execRegistrationState_since h
  | timCtrlBarrier => exact execTimCtrlBarrierState_since h
  | barrier => exact execBarrierState_since h
  | barrierOutPulse => exact execBarrierOutPulseState_since h
  | barrierInEdge => exact execBarrierInEdgeState_since h
  | barrierStart => exact execBarrierStartState_since h
  | laneTrained => exact execLaneTrainedState_since h
  | laneLost => exact execLaneLostState_since h
  | prtCtrlRetrain => exact execPrtCtrlRetrainState_since h
  | laneReturn => exact execLaneReturnState_since h
  | portDrop => exact execPortDropState_since h
  | portReturn => exact execPortReturnState_since h
  | frameStart => exact execFrameStartState_since h
  | frameReceive => exact execFrameReceiveState_since h
  | tfxFrameAccept => exact execTfxFrameAcceptState_since h
  | ackSend => exact execAckSendState_since h
  | retransmit => exact execRetransmitState_since h
  | rollStall => exact execRollStallState_since h
  | creditShrink => exact execCreditShrinkState_since h
  | closingEnd => exact execClosingEndState_since h
  | rdmaRd => exact execRdmaRdState_since h
  | rdmaWr => exact execRdmaWrState_since h
  | atomic => exact execAtomicState_since h
  | trig => exact execTrigState_since h
  | resp => exact execRespState_since h
  | ringWrite => exact execRingWriteState_since h
  | post => exact execPostState_since h
  | reclaim => exact execReclaimState_since h
  | ringLeaseExpiry => exact execRingLeaseExpiryState_since h
  | send => exact execSendState_since h
  | regionReg => exact execRegionRegState_since h
  | regionDereg => exact execRegionDeregState_since h
  | ringBind => exact execRingBindState_since h
  | counterReset => exact execCounterResetState_since h
  | postWr => exact execPostWrState_since h
  | wrCancel => exact execWrCancelState_since h
  | connClose => exact execConnCloseState_since h
  | cqDoorbell => exact execCqDoorbellState_since h
  | hostAttn => exact execHostAttnState_since h
  | hostCancel => exact execHostCancelState_since h
  | listCompletion => exact execListCompletionState_since h
  | cqEnable => exact execCqEnableState_since h
  | flr => exact execFlrState_since h
  | perst => exact execPerstState_since h
  | hubB2map => exact mapBytes_since h
  | remoteLoad => exact execRemoteLoadState_since h
  | remoteStore => exact execRemoteStoreState_since h
  | deadTarget => exact execDeadTargetState_since h
  | keyOffer => exact execKeyOfferState_since h
  | keyAccept => exact execKeyAcceptState_since h
  | keyErase => exact execKeyEraseState_since h
  | curveOpDone => exact execCurveOpDoneState_since h
  | offerExpiry => exact execOfferExpiryState_since h
  | scrub => exact execScrubState_since h
  | scrubStep => exact execScrubStepState_since h
  | fuseSvn => exact execFuseSvnState_since h
  | curveMult => exact execCurveMultState_since h
  | unfence => exact execUnfenceState_since h
  | b2Write => exact execB2WriteState_since h
  | b2Read => exact execB2ReadState_since h
  | getMeasurements => exact execGetMeasurementsState_since h
  | keyExchange => exact execKeyExchangeState_since h
  | ideKm => exact execIdeKmState_since h
  | ideFail => exact execIdeFailState_since h
  | lockInterface => exact execLockInterfaceState_since h
  | startInterface => exact execStartInterfaceState_since h
  | stopInterface => exact execStopInterfaceState_since h
  | cut => exact execCutState_since h
  | deferredTakesEffect => exact execDeferredTakesEffectState_since h
  | vauxInRange => exact execVauxInRangeState_since h
  | sysRstN => exact execSysRstNState_since h
  | vinMainRange => exact execVinMainRangeState_since h
  | stageComplete => exact execStageCompleteState_since h
  | mainPowerStart => exact execMainPowerStartState_since h
  | powerSample => exact execPowerSampleState_since h
  | dramTempSample => exact execDramTempSampleState_since h
  | thermalDemand => exact execThermalDemandState_since h
  | flowWindow => exact execFlowWindowState_since h
  | coolantCut => exact execCoolantCutState_since h
  | cap => exact execCapState_since h
  | pwrGgateReq => exact execPwrGgateReqState_since h
  | pwrGate => exact execPwrGateState_since h
  | gateTakesEffect => exact execGateTakesEffectState_since h
  | pwrCtrlSkip => exact execPwrCtrlSkipState_since h
  | holdEnter => exact execHoldEnterState_since h
  | holdExit => exact execHoldExitState_since h
  | restart => exact execRestartState_since h
  | off => exact execOffState_since h
  | graverHang => exact execGraverHangState_since h
  | leaseRevoked => exact execLeaseRevokedState_since h
  | coreReset => exact execCoreResetState_since h
  | trustRestart => exact execTrustRestartState_since h
  | reconcile => exact execReconcileState_since h
  | traceRecordWrite => exact execTraceRecordWriteState_since h
  | evtSel => exact execEvtSelState_since h
  | clearUe => exact execClearUeState_since h
  | clearOther => exact execClearOtherState_since h
  | wearUpdate => exact execWearUpdateState_since h
  | mctpPacket => exact execMctpPacketState_since h
  | setEndpointId => exact execSetEndpointIdState_since h
  | regRead => exact execRegReadState_since h
  | regWrite => exact execRegWrite_sinceSince h
  | getSensorReading => exact execGetSensorReadingState_since h
  | getPdr => exact execGetPdrState_since h
  | setEventReceiver => exact execSetEventReceiverState_since h
  | pollForPlatformEvent => exact execPollForPlatformEventState_since h
  | platformEventRetry => exact execPlatformEventRetryState_since h
  | sensorRefresh => exact execSensorRefreshState_since h
  | requestUpdate => exact execRequestUpdateState_since h
  | updateComponent => exact execUpdateComponentState_since h
  | verifyComponent => exact execVerifyComponentState_since h
  | applyComplete => exact execApplyCompleteState_since h
  | activateFirmware => exact execActivateFirmwareState_since h
  | cancelUpdate => exact execCancelUpdateState_since h
  | updateTimeout => exact execUpdateTimeoutState_since h
  | hostLinkTrained => exact execHostLinkTrainedState_since h
  | hostPowerManagementRequest => exact execHostPowerManagementRequestState_since h
  | junctionTemperatureSample => exact execJunctionTemperatureSampleState_since h

theorem since_refl (s : State) : Since s s :=
  ⟨rfl, id, le_rfl, le_rfl⟩

/-- Every command completes and breaks nothing of this. -/
theorem exec_completes (c : Instr) (s : State) : ∃ t, exec c s = .next t ∧ Since s t := by
  have outcome := exec_since (since_refl s) c
  cases ran : exec c s with
  | next t =>
    rw [ran] at outcome
    exact ⟨t, rfl, outcome⟩
  | fault _ | refused _ =>
    rw [ran] at outcome
    exact outcome.elim

/-- A step breaks nothing of this but that the front command leaves the queue. -/
theorem step_since {s t : State} (stepped : step s = .next t) : Since { s with pending := t.pending } t := by
  cases pending : s.pending with
  | nil =>
    rw [show step s = .next s by simp only [step, pending]] at stepped
    cases stepped
    exact since_refl s
  | cons c rest =>
    rw [show step s = exec c { s with pending := rest } by simp only [step, pending]] at stepped
    obtain ⟨t', ran, queue, kept⟩ := exec_completes c { s with pending := rest }
    rw [ran] at stepped
    cases stepped
    exact ⟨rfl, kept⟩

end operations

/-- Settles O55: what every operation of the model keeps, every command keeps. -/
theorem queueUntouched : Obligations.QueueUntouched := by
  unfold Obligations.QueueUntouched
  intro c s
  obtain ⟨t, ran, queue, -⟩ := exec_completes c s
  exact ⟨t, ran, queue⟩

/-- Settles O58: a record is appended where there is room and folded where there is none, and nothing else lengthens the FIFO. -/
theorem fifoStaysBounded : Obligations.FifoStaysBounded := by
  unfold Obligations.FifoStaysBounded
  intro s t stepped bounded
  obtain ⟨-, kept, -⟩ := step_since stepped
  exact kept bounded

/-- Settles O60: only FUSE_SVN writes a burnt count, and it refuses a lower one. -/
theorem fusesNeverFall : Obligations.FusesNeverFall := by
  unfold Obligations.FusesNeverFall
  intro s t stepped
  obtain ⟨-, -, svn⟩ := step_since stepped
  exact svn

/-- Settles O1: the two cases are those of the step. -/
theorem stepRunsFrontCommand : Obligations.StepRunsFrontCommand := by
  unfold Obligations.StepRunsFrontCommand
  constructor
  · intro c rest s front
    simp only [step, front]
  · intro s empty
    simp only [step, empty]

end Sys2Proof.Proofs

/-! ## Transport (12_transport.md, 13_host_attachment.md R353 to R355) -/

namespace Sys2Proof.Proofs

open Sys2Proof Sys2Proof.Machine Sys2Proof.Safety

/-! ### Timers of a connection (R319 to R325, R472) -/

section timers

variable {k psn : Nat} {f : SentFrame} {s : State}

/-- The timer of an unacknowledged frame has run out, and no later acknowledgement asks for the frame before it (R325). -/
abbrev timedOut (k psn : Nat) (f : SentFrame) (s : State) : Prop :=
  (conn k s).unacked.find? (fun z => z.hdr.seq == psn) = some f ∧ f.at_ + 200 ≤ s.time.elapsed ∧ f.later < 4

theorem retransmit_timedOut (out : timedOut k psn f s) : execRetransmitState k psn s =
    if f.timeouts = 15 then failConn k s
    else
      let g : SentFrame := { f with again := true, timeouts := f.timeouts + 1, at_ := s.time.elapsed }
      setConn k { conn k s with unacked := replaceWhere (fun y => y.hdr.seq == psn) (fun _ => g) (conn k s).unacked } s := by
  obtain ⟨found, late, few⟩ := out
  unfold execRetransmitState
  simp only [found]
  rw [if_neg (by omega), if_pos late]
  exact if_congr (by omega) rfl rfl

/-- A stalled rollover changes the stall's note, the counts, the fault and its signal. -/
def rollStalled (k : Nat) (s : State) : State :=
  raise fRollStall (unitConn k) [] (tally cRollStall (setAux k { aux k s with stalled := true } s))

theorem rollStall_stalls (rolls : 1 ≤ (conn k s).rollStep) (late : (conn k s).rollPass + 62500 ≤ passNow s)
    (fresh : (aux k s).stalled = false) : exec (.rollStall k) s = .next (rollStalled k s) :=
  congrArg Host.Outcome.next (if_pos ⟨rolls, late, by simp [fresh]⟩)

theorem rollStall_again (stalled : (aux k s).stalled = true) : exec (.rollStall k) s = .next s :=
  congrArg Host.Outcome.next (if_neg fun ⟨_, _, fresh⟩ => by simp [stalled] at fresh)

theorem rollStalled_frame (k : Nat) (s : State) : rollStalled k s =
    { s with tfx.aux := put {} s.tfx.aux k { aux k s with stalled := true }
             ctr := (rollStalled k s).ctr, flt := (rollStalled k s).flt, out := (rollStalled k s).out } := by
  unfold rollStalled
  rw [raise_plain rfl, raiseRecord_frame]
  rfl

theorem rollStalled_stalled (k : Nat) (s : State) : (aux k (rollStalled k s)).stalled = true := by
  have noted : ({ aux k s with stalled := true } : ConnAux) ≠ {} := fun e => absurd (congrArg ConnAux.stalled e) (by simp)
  rw [rollStalled_frame]
  exact congrArg ConnAux.stalled (look_put_self_ne s.tfx.aux k noted)

theorem closingEnd_late (closing : (conn k s).st = .closing) (late : (aux k s).closeAt + 4000 ≤ s.time.elapsed)
    (own : look (0, 0) (plate s).keymap (connRec k s).keySlot = (1, k)) : exec (.closingEnd k) s =
      .next (toKeyless k (erasePos (connRec k s).keySlot 0 (erasePos (connRec k s).keySlot 1 s))) := by
  refine congrArg Host.Outcome.next ((if_pos ⟨closing, .inr late⟩).trans ?_)
  simp only [own]
  simp

end timers

/-- Settles O32: each timer by the lemma above that says what it does. -/
theorem transportTimers : Obligations.TransportTimers := by
  unfold Obligations.TransportTimers
  refine ⟨?_, ?_, ?_, ?_, ?_, ?_, ?_⟩
  · intro k s due
    exact congrArg Host.Outcome.next (if_pos due)
  · intro k s idle
    exact congrArg Host.Outcome.next (if_neg (Bool.not_eq_true _ ▸ idle))
  · intro k psn f s found late few left
    exact congrArg Host.Outcome.next ((retransmit_timedOut ⟨found, late, few⟩).trans (if_neg left))
  · intro k psn f s found late few last
    exact congrArg Host.Outcome.next ((retransmit_timedOut ⟨found, late, few⟩).trans (if_pos last))
  · intro k s rolls late fresh
    refine ⟨_, rollStall_stalls rolls late fresh, ?_, ?_, rollStall_again (rollStalled_stalled k s)⟩
    · rw [rollStalled_frame]
    · rw [rollStalled_frame]
  · intro k s past
    exact ⟨_, congrArg Host.Outcome.next (if_pos past), rfl, rfl, rfl⟩
  · intro k s closing late own
    exact closingEnd_late closing late own

end Sys2Proof.Proofs

namespace Sys2Proof.Proofs

open Sys2Proof Sys2Proof.Machine Sys2Proof.Safety

/-! ### Remote operations (R331 to R335) -/

section remote

variable {k right n typ : Nat} {m : InMsg} {r : Region} {s : State}

theorem takeRemote_takes {run : InMsg → Bool → State → State} (ready : remoteReady k typ m s) :
    takeRemote k typ run s = run m false (taken k m s) := by
  obtain ⟨next, free, unscrubbed⟩ := ready
  simp only [takeRemote, next, free, unscrubbed, Bool.false_eq_true, if_false]

section region

theorem b2Segs_host {s t : State} (host : t.host = s.host) (f fuel off len : Nat) :
    b2Segs f t fuel off len = b2Segs f s fuel off len := by
  have page : ∀ k, b2Page f k t = b2Page f k s := by simp only [b2Page, fnPart, b2Pages, host, implies_true]
  induction fuel generalizing off len with
  | zero => cases len <;> rfl
  | succ fuel ih =>
    cases len with
    | zero => rfl
    | succ len => simp only [b2Segs, page, ih]

theorem inRegion_host {s t : State} (host : t.host = s.host) (r : Region) (off n : Nat) :
    inRegion r off n t = inRegion r off n s := by
  simp only [inRegion, b2Ok, b2Range, b2Segs_host host]

theorem regionRead_host {s t : State} (host : t.host = s.host) (mem : t.mem = s.mem) (r : Region) (off n : Nat) :
    regionRead r off n t = regionRead r off n s := by
  simp only [regionRead, b2Read, b2Range, b2Segs_host host, mem]

@[simp] theorem inRegion_taken (r : Region) (off n k : Nat) (m : InMsg) (s : State) :
    inRegion r off n (taken k m s) = inRegion r off n s :=
  inRegion_host (s := s) (t := taken k m s) rfl r off n

@[simp] theorem regionRead_taken (r : Region) (off n k : Nat) (m : InMsg) (s : State) :
    regionRead r off n (taken k m s) = regionRead r off n s :=
  regionRead_host (s := s) (t := taken k m s) rfl rfl r off n

variable {dma : Bool} {regionBad : Region → Bool} {run : Region → State → State}

theorem onRegion_runs (named : regionFor (u m.body 8 4) (connRec k s).tenant right s = some r)
    (inside : inRegion r (u m.body 0x10 8) n s = true) (good : regionBad r = false) (reached : dma = false ∨ r.bar2 = true) :
    onRegion k right n false false dma regionBad m run s = run r s := by
  have reachable : (dma && !r.bar2) = false := by
    rcases reached with h | h <;> simp [h]
  have fine : remoteStatus n false false dma regionBad (some r) m s = stOk := by
    simp only [remoteStatus, inside, good, reachable]
    rfl
  simp only [onRegion, named, fine, if_true]

theorem onRegion_unnamed (unnamed : regionFor (u m.body 8 4) (connRec k s).tenant right s = none) :
    onRegion k right n false false dma regionBad m run s =
      answer k m 0 stAuthFail 0 [] (countEvent cRegionFail (unitConn k) s) := by
  have barred : remoteStatus n false false dma regionBad none m s = stAuthFail := rfl
  simp only [onRegion, unnamed, barred, if_true]

/-- A failed access of host memory, where the region does not lie in BAR2. -/
theorem onRegion_unreached (named : regionFor (u m.body 8 4) (connRec k s).tenant right s = some r)
    (inside : inRegion r (u m.body 0x10 8) n s = true) (good : regionBad r = false) (host : r.bar2 = false) :
    onRegion k right n false false true regionBad m run s = answer k m r.kind stTargetDead 0 [] s := by
  have dead : remoteStatus n false false true regionBad (some r) m s = stTargetDead := by
    simp only [remoteStatus, inside, good, host]
    rfl
  simp only [onRegion, named, dead]
  rfl

end region

/-- A body of RDMA_RD that is as R332 gives it. -/
abbrev readWellFormed (b : List Byte) : Prop :=
  b.length = 0x20 ∧ 0 < u b 0xC 4 ∧ u b 0xC 4 ≤ 1048576 ∧ u b 0x18 8 = 0

/-- What an RDMA_RD answers of its region. -/
def readRun (k : Nat) (m : InMsg) (r : Region) (s : State) : State :=
  answer k m r.kind 0 (u m.body 0xC 4) (regionRead r (u m.body 0x10 8) (u m.body 0xC 4) s) s

theorem rdmaRd_onRegion {d : Bool} (ready : remoteReady k 0x20 m s) (formed : readWellFormed m.body) :
    exec (.rdmaRd k d) s =
      .next (onRegion k 0 (u m.body 0xC 4) false false d (fun _ => false) m (readRun k m) (taken k m s)) := by
  obtain ⟨length, some_, most, rest⟩ := formed
  have fine : (m.body.length != 0x20 || u m.body 0xC 4 == 0 || decide (1048576 < u m.body 0xC 4) ||
      u m.body 0x18 8 != 0) = false := by
    simp [length, rest, Nat.ne_of_gt some_, Nat.not_lt.mpr most]
  refine congrArg Host.Outcome.next ((takeRemote_takes ready).trans ?_)
  simp only [fine]
  rfl

/-- What an RDMA_WR without a trigger does with its region. -/
def writeRun (k : Nat) (m : InMsg) (r : Region) (s : State) : State :=
  let t := regionWrite r (u m.body 0x10 8) (m.body.drop 32) s
  if bit (u m.body 0xC 1) 1 then t else answer k m r.kind 0 (m.body.length - 32) [] t

theorem rdmaWr_writes {d : Bool} (ready : remoteReady k 0x21 m s) (formed : writeBad m.body = false)
    (untriggered : bit (u m.body 0xC 1) 0 = false) (named : regionFor (u m.body 8 4) (connRec k s).tenant 1 s = some r)
    (inside : inRegion r (u m.body 0x10 8) (m.body.length - 32) s = true) (reached : d = false ∨ r.bar2 = true) :
    exec (.rdmaWr k d) s = .next (writeRun k m r (taken k m s)) := by
  refine congrArg Host.Outcome.next ((takeRemote_takes ready).trans ?_)
  simp only [formed, untriggered, List.length_drop, Bool.false_eq_true, if_false]
  exact onRegion_runs (s := taken k m s) (run := writeRun k m) named (by simp [inside]) rfl reached

/-- What an ATOMIC does with its region. -/
def atomicRun (k : Nat) (m : InMsg) (r : Region) (s : State) : State :=
  let old := leNat (regionRead r (u m.body 0x10 8) 8 s)
  answer k m r.kind 0 8 (leBytes 8 old) (regionWrite r (u m.body 0x10 8)
    (leBytes 8 (atomicValue (u m.body 0xC 4) old (u m.body 0x18 8) (u m.body 0x20 8))) s)

theorem atomic_runs (ready : remoteReady k 0x22 m s) (length : m.body.length = 0x28) (opcode : u m.body 0xC 4 < 3)
    (compare : u m.body 0xC 4 = 1 ∨ u m.body 0x20 8 = 0) (named : regionFor (u m.body 8 4) (connRec k s).tenant 2 s = some r)
    (inside : inRegion r (u m.body 0x10 8) 8 s = true) (sram : r.bar2 = true) (aligned : u m.body 0x10 8 % 8 = 0) :
    exec (.atomic k) s = .next (atomicRun k m r (taken k m s)) := by
  have unused : (u m.body 0xC 4 != 1 && u m.body 0x20 8 != 0) = false := by
    rcases compare with h | h <;> simp [h]
  have fine : (m.body.length != 0x28 || decide (3 ≤ u m.body 0xC 4) || (u m.body 0xC 4 != 1 && u m.body 0x20 8 != 0) ||
      u m.body 0x10 8 % 8 != 0) = false := by
    simp [length, unused, aligned, opcode]
  refine congrArg Host.Outcome.next ((takeRemote_takes ready).trans ?_)
  simp only [fine]
  exact onRegion_runs (s := taken k m s) (run := atomicRun k m) named (by simp [inside]) (by simp [sram]) (.inl rfl)

/-- A body of TRIG that is as R334 gives it. -/
abbrev trigWellFormed (b : List Byte) : Prop :=
  b.length = 16 ∧ u b 0 4 < 131072 ∧ 0 < u b 4 4 ∧ u b 8 8 = 0

theorem trig_raises (ready : remoteReady k 0x30 m s) (formed : trigWellFormed m.body) :
    exec (.trig k) s = .next (raiseTrigger k (u m.body 0 4) (u m.body 4 4) (taken k m s)) := by
  obtain ⟨length, counter, some_, rest⟩ := formed
  have fine : (m.body.length != 16 || u m.body 0 4 / 2 ^ 17 != 0 || u m.body 4 4 == 0 || u m.body 8 8 != 0) = false := by
    simp [length, rest, Nat.ne_of_gt some_, Nat.div_eq_of_lt counter]
  refine congrArg Host.Outcome.next ((takeRemote_takes ready).trans ?_)
  simp only [Bool.false_or, fine, Bool.false_eq_true, if_false]

theorem fireAll_unreached {i : Nat} (unreached : s.tfx.workReqs.all (fun w => w.counter != i || w.fired ||
    decide ((trigger i s).value < w.threshold)) = true) : fireAll i s = s := by
  have none_ : (s.tfx.workReqs.filter fun w => w.counter == i && !w.fired && decide (w.threshold ≤ (trigger i s).value)) = [] := by
    rw [List.filter_eq_nil_iff]
    intro w hw fires
    have waits := List.all_eq_true.mp unreached w hw
    simp only [Bool.and_eq_true, beq_iff_eq, Bool.not_eq_true', decide_eq_true_eq] at fires
    obtain ⟨⟨counter, unfired⟩, reached⟩ := fires
    simp [counter, unfired] at waits
    omega
  unfold fireAll
  rw [none_]
  rfl

end remote

/-! ### Answers (R335) -/

section answers

variable {k : Nat} {m : InMsg} {w : Awaiting} {s : State}

/-- The first message of a connection that answers one of this node's. -/
abbrev answered (k : Nat) (m : InMsg) (s : State) : Prop :=
  s.tfx.inbox.find? (fun z => z.conn == k && z.isResp && z.typ != tMove && z.typ != tExport) = some m

theorem resp_unawaited (comes : answered k m s) (unawaited : (aux k s).waits = []) (other : m.typ ≠ 0x21) :
    exec (.resp k) s = .next (taken k m s) := by
  refine congrArg Host.Outcome.next ?_
  have unawaited' : (aux k (inboxTake m s)).waits = [] := unawaited
  simp only [execRespState, comes, unawaited', List.find?_nil]
  exact if_neg fun h => other h.1

/-- The one answer that the connection awaits is this one. -/
abbrev awaited (k : Nat) (m : InMsg) (w : Awaiting) (s : State) : Prop :=
  (aux k s).waits = [w] ∧ w.tag = u m.body 0 8 ∧ w.typ = m.typ

theorem dropWait_only (w : Awaiting) : dropWait w [w] = [] := if_pos rfl

theorem awaited_found (awaits : awaited k m w s) :
    (aux k s).waits.find? (fun w => w.tag == u m.body 0 8 && w.typ == m.typ) = some w := by
  obtain ⟨waits, tag, typ⟩ := awaits
  simp [waits, tag, typ]

/-- The state in which the answer has come and is awaited no longer. -/
def unawaited (k : Nat) (m : InMsg) (s : State) : State := setAux k { aux k s with waits := [] } (inboxTake m s)

theorem resp_hostSend {x : Nat} (comes : answered k m s) (awaits : awaited k m w s) (purpose : w.purpose = .hostSend x) :
    exec (.resp k) s = .next (toRing (aux k s).ring ⟨k, m.typ, 1, x, completionStatus m.body, m.body, some m.cls⟩
      (unawaited k m s)) := by
  refine congrArg Host.Outcome.next ?_
  have found : (aux k (inboxTake m s)).waits.find? _ = some w := awaited_found awaits
  have drop : dropWait w (aux k (inboxTake m s)).waits = [] := (congrArg (dropWait w) awaits.1).trans (dropWait_only w)
  simp only [execRespState, comes, found, purpose, drop]
  rfl

theorem resp_remoteLoad {id : Nat} (comes : answered k m s) (awaits : awaited k m w s) (purpose : w.purpose = .remoteLoad id)
    (ok : completionStatus m.body = 0) : exec (.resp k) s = .next (emit (.loadData id (m.body.drop 16))
      { returnCredit k m.cls m.body.length (unawaited k m s) with host.loads := s.host.loads.filter fun l => l.id != id }) := by
  refine congrArg Host.Outcome.next ?_
  have found : (aux k (inboxTake m s)).waits.find? _ = some w := awaited_found awaits
  have drop : dropWait w (aux k (inboxTake m s)).waits = [] := (congrArg (dropWait w) awaits.1).trans (dropWait_only w)
  simp only [execRespState, comes, found, purpose, drop, ok]
  rfl

end answers

/-- Settles O33: each operation and each answer by the lemma above that says what it does. -/
theorem remoteOperations : Obligations.RemoteOperations := by
  unfold Obligations.RemoteOperations
  refine ⟨?_, ?_, ?_, ?_, ?_, ?_, ?_, ?_, ?_, ?_, ?_, ?_⟩
  · intro k d m r s ready length some_ most rest named inside reached
    rw [rdmaRd_onRegion ready ⟨length, some_, most, rest⟩,
      onRegion_runs (s := taken k m s) named (by simp [inside]) rfl reached, readRun, regionRead_taken]
  · intro k d m s ready length some_ most rest unnamed
    rw [rdmaRd_onRegion ready ⟨length, some_, most, rest⟩, onRegion_unnamed (s := taken k m s) unnamed]
  · intro k m r s ready length some_ most rest named inside host
    rw [rdmaRd_onRegion ready ⟨length, some_, most, rest⟩,
      onRegion_unreached (s := taken k m s) named (by simp [inside]) rfl host]
  · intro k d m r s ready formed untriggered loud named inside reached
    rw [rdmaWr_writes ready formed untriggered named inside reached, writeRun, loud]
    rfl
  · intro k m r s ready length opcode compare named inside sram aligned
    rw [atomic_runs ready length opcode compare named inside sram aligned, atomicRun, regionRead_taken]
    rfl
  · intro k m s ready length counter some_ rest own
    rw [trig_raises ready ⟨length, counter, some_, rest⟩]
    exact congrArg Host.Outcome.next (if_pos own)
  · intro k m s ready length counter some_ rest other
    rw [trig_raises ready ⟨length, counter, some_, rest⟩]
    exact congrArg Host.Outcome.next (if_neg other)
  · intro k m s comes none_ other
    exact resp_unawaited comes none_ other
  · intro k id m w s comes waits tag typ purpose ok
    exact ⟨_, resp_remoteLoad comes ⟨waits, tag, typ⟩ purpose ok, rfl, rfl, rfl, rfl, rfl⟩
  · intro k d m r s ready formed untriggered quiet named inside reached
    rw [rdmaWr_writes ready formed untriggered named inside reached, writeRun, quiet]
    rfl
  · intro i s unreached
    exact fireAll_unreached unreached
  · intro k x m w s comes waits tag typ purpose
    exact resp_hostSend comes ⟨waits, tag, typ⟩ purpose

end Sys2Proof.Proofs

namespace Sys2Proof.Proofs

open Sys2Proof Sys2Proof.Machine Sys2Proof.Safety

/-! ### The host's transport commands (13_host_attachment.md R349, R350) -/

section commands

variable {f op : Nat} {c : Cmd} {s : State}

theorem lowestReason_none {rs : List (Bool × Nat)} (fine : rs.all (fun r => !r.1) = true) : lowestReason rs = none := by
  have unfounded : rs.filter (·.1) = [] :=
    List.filter_eq_nil_iff.mpr fun r hr => by simpa using List.all_eq_true.mp fine r hr
  unfold lowestReason
  rw [unfounded]
  rfl

theorem runTransport_runs {fs reasons ok} (ready : hostReady f 2 op fs c s)
    (fine : (reasons c s).all (fun r => !r.1) = true) : runTransport f op fs reasons ok s = ok c s :=
  runCmd_runs ready (lowestReason_none fine)

/-- A message that SEND and POST_WR accept (R350). -/
abbrev messageFine (c : Cmd) (k typ cls body len : Nat) (s : State) : Prop :=
  connOwned c k s = true ∧ hostTypes.contains typ = true ∧ cls ≠ 0 ∧ len ≠ 0 ∧ b2Ok c.f body len s = true

theorem messageReasons_fine {k typ cls body len : Nat} (fine : messageFine c k typ cls body len s) :
    (messageReasons c k typ cls body len s).all (fun r => !r.1) = true := by
  obtain ⟨own, known, class_, some_, place⟩ := fine
  simp only [messageReasons, own, known, place]
  simp [class_, some_]

theorem send_submits (ready : hostReady f 2 1 [(0, 16), (2, 8), (3, 3), (8, 64), (0x10, 21), (0x18, 64)] c s)
    (fine : messageFine c (c.arg 0 2) (c.arg 2 1) (c.arg 3 1) (c.arg 8 8) (c.arg 0x10 4) s)
    (open_ : sendRefusal (c.arg 0 2) s = none) :
    let body := b2Read c.f (c.arg 8 8) (c.arg 0x10 4) s
    exec (.send f) s = .next (endCmd c 0 0 (c.arg 0x10 4) (submitMsg (c.arg 0 2)
      { typ := c.arg 2 1, cls := c.arg 3 1, kind := postKind (c.arg 2 1) body, tag := u body 0 8, body
        purpose := if c.arg 2 1 = 0x30 then .none else .hostSend (c.arg 0x18 8)
        mute := isQuiet (c.arg 2 1) body || c.arg 2 1 == 0x30 } s)) := by
  refine congrArg Host.Outcome.next ((runTransport_runs ready (messageReasons_fine fine)).trans ?_)
  simp only [open_]

/-- The entry that REGION_REG writes (R331). -/
def registered (c : Cmd) (s : State) : Region :=
  { live := true, seen := true, bar2 := bit (c.arg 4 1) 0, fn := c.f, base := c.arg 8 8, len := c.arg 0x10 8,
    tenant := c.tenant, rights := field (c.arg 4 1) 1 3, kind := field (c.arg 4 1) 4 2,
    gen := if (region (c.arg 0 4) s).seen then ((region (c.arg 0 4) s).gen + 1) % 16384 else (region (c.arg 0 4) s).gen }

theorem region_setRegion {i : Nat} {r : Region} (live : r.live = true) : region i (setRegion i r s) = r := by
  have listed : r ≠ {} := fun e => by simp [e] at live
  exact look_put_self_ne s.tfx.regions i listed

theorem regionReg_registers (ready : hostReady f 2 2 [(0, 18), (4, 6), (8, 64), (0x10, 64)] c s)
    (mine : (region (c.arg 0 4) s).live = true → tenantIn (region (c.arg 0 4) s).tenant c.part s = true)
    (kind : field (c.arg 4 1) 4 2 ≠ 3) (place : bit (c.arg 4 1) 0 = true → b2Ok c.f (c.arg 8 8) (c.arg 0x10 8) s = true) :
    exec (.regionReg f) s = .next (endCmd c 0 0 ((registered c s).gen * 2 ^ 18 + c.arg 0 4)
      (setRegion (c.arg 0 4) (registered c s) s)) := by
  have key : regionKey (c.arg 0 4) (setRegion (c.arg 0 4) (registered c s) s) = (registered c s).gen * 2 ^ 18 + c.arg 0 4 := by
    rw [regionKey, region_setRegion rfl]
  rw [← key]
  refine congrArg Host.Outcome.next (runTransport_runs ready ?_)
  simp only [List.all_cons, List.all_nil, Bool.and_true, Bool.and_eq_true, Bool.not_eq_true', Bool.and_eq_false_imp, tenantMine,
    Bool.not_eq_false', beq_eq_false_iff_ne]
  exact ⟨mine, kind, place⟩

/-- The work request that POST_WR holds (R335). -/
def postedReq (c : Cmd) (slot : Nat) : WorkReq :=
  { slot := slot, counter := c.arg 0 4, threshold := c.arg 4 4, conn := c.arg 8 2, typ := c.arg 0xA 1, cls := c.arg 0xB 1,
    ring := c.arg 0xC 2, fn := c.f, body := c.arg 0x10 8, bodyLen := c.arg 0x18 4, tag := c.arg 0x20 8, fired := false }

theorem trigger_endCmd (status reason value i : Nat) : trigger i (endCmd c status reason value s) = trigger i s := by
  rw [endCmd_frame]
  rfl

theorem postWr_holds (ready : hostReady f 2 6 [(0, 17), (4, 32), (8, 16), (0xA, 8), (0xB, 3), (0xC, 16), (0x10, 64), (0x18, 21),
      (0x20, 64)] c s) (fine : messageFine c (c.arg 8 2) (c.arg 0xA 1) (c.arg 0xB 1) (c.arg 0x10 8) (c.arg 0x18 4) s)
    {n : Nat} (allotted : (trigger (c.arg 0 4) s).tenant = some n) (mine : tenantMine c n s = true) (ring : c.arg 0xC 2 < 256)
    (own : c.arg 0xC 2 / 2 = c.part) (room : s.tfx.workReqs.length < 1048576) :
    let free := pick (1048576 - s.tfx.workReqs.length) s
    let slot := nthFree (sortNat (s.tfx.workReqs.map (·.slot))) free.1
    let held := endCmd c 0 0 slot { free.2 with tfx.workReqs := s.tfx.workReqs ++ [postedReq c slot] }
    exec (.postWr f) s = .next
      (if c.arg 4 4 ≤ (trigger (c.arg 0 4) s).value then fireOne held (postedReq c slot) else held) := by
  have tfx : (pick (1048576 - s.tfx.workReqs.length) s).2.tfx = s.tfx := by rw [pick_frame]
  refine congrArg Host.Outcome.next ((runTransport_runs ready ?_).trans ?_)
  · rw [List.all_append, messageReasons_fine fine]
    simp [allotted, mine, ring, own, room]
  · simp only [workSlots, tfx, trigger_endCmd]
    rfl

end commands

/-- Settles O35: each command is ready and no reason is against it, so it runs its own meaning. -/
theorem transportCommands : Obligations.TransportCommands := by
  unfold Obligations.TransportCommands
  refine ⟨?_, ?_, ?_, ?_, ?_, ?_, ?_, ?_, ?_⟩
  · intro f c s ready own known class_ some_ place open_
    exact send_submits ready ⟨own, known, class_, some_, place⟩ open_
  · intro f c s ready mine kind place
    exact ⟨_, _, regionReg_registers ready mine kind place, rfl, rfl⟩
  · intro f c s ready live mine
    exact congrArg Host.Outcome.next (runTransport_runs ready (by simp [live, tenantMine, mine]))
  · intro f c s ready mine ring own
    refine congrArg Host.Outcome.next ((runTransport_runs ready (by simp [mine, own, ring])).trans ?_)
    simp only [show c.arg 2 2 ≠ 0xFFFF by omega, if_false]
  · intro f c s ready free
    exact congrArg Host.Outcome.next (runTransport_runs ready (by simp [free]))
  · intro f c n s ready own known class_ some_ place allotted mine ring part room
    have held := postWr_holds ready ⟨own, known, class_, some_, place⟩ allotted mine ring part room
    refine ⟨_, _, _, rfl, rfl, fun waits => ?_, fun fires => ?_⟩
    · exact held.trans (congrArg Host.Outcome.next (if_neg (Nat.not_le.mpr waits)))
    · exact held.trans (congrArg Host.Outcome.next (if_pos fires))
  · intro f c w s ready found mine waits
    exact congrArg Host.Outcome.next (runTransport_runs ready (by simp [found, mine, waits]))
  · intro f c s ready mine active
    exact congrArg Host.Outcome.next (runTransport_runs ready (by simp [mine, active]))
  · intro f c s ready mine unbound
    refine congrArg Host.Outcome.next ((runTransport_runs ready (by simp [mine, unbound])).trans ?_)
    simp only [unbound, if_true]

end Sys2Proof.Proofs

namespace Sys2Proof.Proofs

open Sys2Proof Sys2Proof.Machine Sys2Proof.Safety

/-! ### Receive rings (R336, R337) -/

section rings

variable {i value : Nat} {m : RingMsg} {rest : List RingMsg} {s : State}

/-- A message stands first on an enabled ring. -/
abbrev ringFront (i : Nat) (m : RingMsg) (rest : List RingMsg) (s : State) : Prop :=
  (ring i s).enable = true ∧ (ring i s).waiting = m :: rest

/-- The bytes of the next frame of a message on a ring. -/
abbrev frameLeft (i : Nat) (m : RingMsg) (s : State) : Nat := min 9024 (m.body.length - (ring i s).written)

theorem frameLeft_ne_zero (left : (ring i s).written < m.body.length) : frameLeft i m s ≠ 0 :=
  Nat.ne_of_gt (Nat.lt_min.mpr ⟨by decide, Nat.sub_pos_of_lt left⟩)

/-- The bytes that a ring's buffers have room for. -/
abbrev ringSpace (i : Nat) (s : State) : Nat := ((ringRoom (ring i s) s).map (·.2)).sum

theorem ringWrite_front (front : ringFront i m rest s) : execRingWriteState i s =
    if frameLeft i m s = 0 then ringComplete i m.status m.body.length m
      (setRing i { ring i s with firstBuf := if (ring i s).nbuf = 0 then (ring i s).consumed else (ring i s).firstBuf } s)
    else if ringSpace i s < frameLeft i m s then
      if (ring i s).waits then s
      else countEvent cRingWait (unitConn m.conn) (setRing i { ring i s with waits := true, reservedAt := s.time.elapsed } s)
    else ringFrame i m s := by
  obtain ⟨enabled, waiting⟩ := front
  simp only [execRingWriteState, enabled, waiting, if_true]

/-- A message with nothing left takes its completion entry, from the ring as it stands. -/
theorem ringWrite_completes (front : ringFront i m rest s) (done : m.body.length ≤ (ring i s).written)
    (buffers : (ring i s).nbuf ≠ 0) :
    exec (.ringWrite i) s = .next (ringComplete i m.status m.body.length m (setRing i (ring i s) s)) := by
  have nothing : frameLeft i m s = 0 := by
    rw [frameLeft, Nat.sub_eq_zero_of_le done, Nat.min_zero]
  refine congrArg Host.Outcome.next ((ringWrite_front front).trans ((if_pos nothing).trans ?_))
  rw [if_neg buffers]

theorem ring_setRing {r : Ring} (listed : r ≠ {}) : ring i (setRing i r s) = r := look_put_self_ne s.tfx.rings i listed

/-- RECLAIM, where no buffer is open: the posted buffers from the index on are taken back (R337). -/
theorem reclaim_closed (closed : (ring i s).fill = none) : execReclaimState i value s =
    if ringAvail (ring i s) ≤ (value % ringSize (ring i s) + ringSize (ring i s) - (ring i s).consumed % ringSize (ring i s)) %
      ringSize (ring i s) then s
    else
      let t := setRing i { ring i s with post := value % ringSize (ring i s) } s
      if (ring i s).waits then ringShort i t else t := by
  simp only [execReclaimState, closed, Option.isSome_none, b2n, Bool.false_and, Bool.or_false, Bool.false_eq_true, if_false,
    Nat.sub_zero, Nat.add_zero, Nat.add_mod_right]

end rings

/-- Settles O36: what a ring does with its first message, POST, RECLAIM and the lease, by the lemma above for each. -/
theorem receiveRings : Obligations.ReceiveRings := by
  unfold Obligations.ReceiveRings
  refine ⟨?_, ?_, ?_, ?_, ?_, ?_, ?_, ?_⟩
  · intro i m rest s enabled waiting left short unwaited
    refine congrArg Host.Outcome.next ((ringWrite_front ⟨enabled, waiting⟩).trans ?_)
    rw [if_neg (frameLeft_ne_zero left), if_pos short, unwaited]
    rfl
  · intro i m rest s enabled waiting done buffers
    refine ⟨_, ringWrite_completes ⟨enabled, waiting⟩ done buffers, ?_, rfl, rfl⟩
    have listed : ring i s ≠ {} := fun e => buffers (by rw [e])
    unfold ringComplete
    rw [ring_setRing listed]
    rfl
  · rintro i value stores s r rfl
    rfl
  · intro i value s empty closed
    exact congrArg Host.Outcome.next ((reclaim_closed closed).trans (if_pos (empty ▸ Nat.zero_le _)))
  · intro i value s closed unwaited within
    refine congrArg Host.Outcome.next ((reclaim_closed closed).trans ?_)
    rw [if_neg (Nat.not_le.mpr within), unwaited]
    rfl
  · intro i m rest s waiting waits late
    refine congrArg Host.Outcome.next ?_
    simp only [execRingLeaseExpiryState, waiting]
    exact if_pos ⟨waits, late⟩
  · intro i m rest s enabled waiting left room
    refine congrArg Host.Outcome.next ((ringWrite_front ⟨enabled, waiting⟩).trans ?_)
    rw [if_neg (frameLeft_ne_zero left), if_neg (Nat.not_lt.mpr room)]
  · intro i value s closed waits within
    refine congrArg Host.Outcome.next ((reclaim_closed closed).trans ?_)
    rw [if_neg (Nat.not_le.mpr within), waits]
    rfl

/-! ### Loads and stores of the remote window (13_host_attachment.md R353 to R355) -/

section access

variable {off n id : Nat} {data : List Byte} {s : State}

theorem nextTag_queueMsg (k : Nat) (m : Post) (s : State) : (queueMsg k m s).tfx.nextTag = s.tfx.nextTag := by
  unfold queueMsg
  dsimp only
  split <;> rfl

theorem nextTag_submitMsg (k : Nat) (m : Post) (s : State) : (submitMsg k m s).tfx.nextTag = s.tfx.nextTag := by
  unfold submitMsg
  dsimp only
  split <;> exact nextTag_queueMsg k m s

theorem submitMsg_frame (k : Nat) (m : Post) (s : State) : submitMsg k m s = { s with tfx := (submitMsg k m s).tfx } := by
  unfold submitMsg
  dsimp only
  rw [queueMsg_frame]
  split <;> rfl

/-- The load as the node notes it. -/
def loadNoted (off n : Nat) (s : State) : State :=
  { s with host.nextLoad := s.host.nextLoad + 1
           host.loads := s.host.loads ++ [{ id := s.host.nextLoad, window := off / 2 ^ 26, len := n, at_ := s.time.elapsed }] }

/-- The RDMA_RD that a load sends. -/
def loadPost (off n : Nat) (s : State) : Post :=
  { typ := tRdmaRd, cls := 1, tag := s.tfx.nextTag, purpose := .remoteLoad s.host.nextLoad,
    body := leBytes 8 s.tfx.nextTag ++ leBytes 4 (rwin (off / 2 ^ 26) s).rkey ++ leBytes 4 n ++ leBytes 8 (remoteOffset off s) ++
      leBytes 8 0 }

theorem remoteLoad_sends (good : accessBad off n s = false) (open_ : sendRefusal (rwin (off / 2 ^ 26) s).conn s = none) :
    exec (.remoteLoad off n) s =
      .next (submitMsg (rwin (off / 2 ^ 26) s).conn (loadPost off n s) (takeTag (loadNoted off n s)).2) := by
  have stillOpen : sendRefusal (rwin (off / 2 ^ 26) s).conn (loadNoted off n s) = none := open_
  refine congrArg Host.Outcome.next ((if_neg (good ▸ Bool.false_ne_true)).trans ?_)
  unfold loadNoted at stillOpen
  simp only [stillOpen]
  rfl

theorem remoteStore_good (good : accessBad off data.length s = false) : execRemoteStoreState off data s =
    if deadWindow (off / 2 ^ 26) s then raise fDeadTarget (unitConn (rwin (off / 2 ^ 26) s).conn) [] s
    else
      let body := leBytes 8 s.tfx.nextTag ++ leBytes 4 (rwin (off / 2 ^ 26) s).rkey ++ leBytes 1 2 ++ leBytes 3 0 ++
        leBytes 8 (remoteOffset off s) ++ leBytes 8 0 ++ data
      queueMsg (rwin (off / 2 ^ 26) s).conn
        { typ := 0x21, cls := 1, kind := postKind 0x21 body, tag := s.tfx.nextTag, body, purpose := .remoteStore, mute := true }
        (takeTag s).2 :=
  if_neg (by simp [good])

/-- A load of the watch class before its fault: it has completed with all ones and is counted (R355). -/
def loadDead (l : RemoteLoad) (s : State) : State :=
  let k := (rwin l.window s).conn
  let kept := { s with host.loads := s.host.loads.filter fun x => x.id != l.id }
  tally cDeadLoads (emit (.loadData l.id (List.replicate l.len 0xFF))
    (setAux k { aux k s with waits := (aux k s).waits.filter fun w => w.purpose != .remoteLoad l.id } kept))

theorem deadTarget_ends {l : RemoteLoad} (found : s.host.loads.find? (fun z => z.id == id) = some l)
    (watch : (rwin l.window s).watch = true) (late : l.at_ + 80 ≤ s.time.elapsed) :
    exec (.deadTarget id) s = .next (raise fDeadTarget (unitConn (rwin l.window s).conn) [] (loadDead l s)) := by
  have named : l.id = id := by simpa using List.find?_some found
  refine congrArg Host.Outcome.next ?_
  simp only [execDeadTargetState, found, watch, deadStrokes, late, decide_true, Bool.or_true, Bool.and_true, if_true, loadDead,
    named]
  rfl

end access

/-- Settles O34: a refused access, the load, the store and the dead target, by the lemma above for each. -/
theorem remoteAccess : Obligations.RemoteAccess := by
  unfold Obligations.RemoteAccess
  refine ⟨?_, ?_, ?_, ?_, ?_, ?_⟩
  · intro off n s bad
    exact congrArg Host.Outcome.next (if_pos bad)
  · intro off data s bad
    exact congrArg Host.Outcome.next (if_pos bad)
  · intro off n s good open_
    refine ⟨_, remoteLoad_sends good open_, ?_⟩
    rw [nextTag_submitMsg, submitMsg_frame]
    exact ⟨rfl, rfl, rfl, rfl, rfl⟩
  · rintro off data body s good alive rfl
    exact congrArg Host.Outcome.next ((remoteStore_good good).trans (if_neg (alive ▸ Bool.false_ne_true)))
  · intro off data s good dead
    exact congrArg Host.Outcome.next ((remoteStore_good good).trans (if_pos dead))
  · intro id l s found watch late
    have named : l.id = id := by simpa using List.find?_some found
    refine ⟨_, deadTarget_ends found watch late, ?_⟩
    rw [raise_plain rfl, ctrGet_raiseRecord_other (by decide), raiseRecord_frame, ← named]
    exact ⟨List.mem_append_left _ (List.mem_append_right _ (List.mem_singleton.mpr rfl)), rfl, ctrGet_tallyBy 1 cDeadLoads _ (by decide) Nat.one_pos, rfl⟩

end Sys2Proof.Proofs

namespace Sys2Proof.Proofs

open Sys2Proof Sys2Proof.Machine Sys2Proof.Safety

/-! ## Host queues (13_host_attachment.md R344 to R351) -/

section doorbells

variable {f cls : Nat} {v : BitVec 64} {stores : List HostStore} {s r : State}

/-- The place and the number of commands that a doorbell names. -/
abbrev bellOff (v : BitVec 64) : Nat := field v.toNat 0 21 * 64
abbrev bellCount (v : BitVec 64) : Nat := field v.toNat 32 10

/-- A doorbell of a queue that listens, after the stores that precede it. -/
theorem doorbell_listens (stored : r = stores.foldl hostStore s) (listens : queueListens f cls r = true) :
    execCqDoorbellState f cls v stores s =
      if 64 ≤ (hostQueue f cls r).lists.length then countEvent (cDbOverflow f cls) unitNode r
      else if bellCount v = 0 || !b2Ok f (bellOff v) (64 + 64 * bellCount v) r then countEvent (cDbBad f cls) unitNode r
      else acceptList f cls (bellOff v) (bellCount v) r := by
  subst stored
  simp only [execCqDoorbellState, listens, Bool.not_true, Bool.false_eq_true, if_false]

theorem doorbell_ignored (stored : r = stores.foldl hostStore s) (deaf : queueListens f cls r = false) :
    exec (.cqDoorbell f cls v stores) s = .next r := by
  subst stored
  exact congrArg Host.Outcome.next (if_pos (by simp [deaf]))

end doorbells

section completion

variable {f cls : Nat} {l : CmdList} {rest : List CmdList} {s : State}

/-- The front list of a queue leaves it with its COMPLETION word written over what its results left, and its vector if it asks
for one (R349). -/
def listLeaves (f cls : Nat) (l : CmdList) (rest : List CmdList) (s u : State) : State :=
  let t := setQueue f cls { hostQueue f cls s with lists := rest } (b2Write f l.off (completionWord l) u)
  settle f cls (if l.irq then interrupt f cls t else t)

theorem listCompletion_ends (front : (hostQueue f cls s).lists = l :: rest) (ended : listEnded l = true) :
    exec (.listCompletion f cls) s =
      .next (listLeaves f cls l rest s (if l.refused.isSome then s else writeResults f l s)) := by
  refine congrArg Host.Outcome.next ?_
  simp only [execListCompletionState, front, ended, Bool.not_true, Bool.false_eq_true, if_false]
  rfl

end completion

/-! ### Resets (R351) -/

section resets

/-- What a reset of functions leaves alone. -/
def besidePort (s : State) : MemState × DirState × TrustState × Store Nat := (s.mem, s.dir, s.tru, s.ctr)

theorem besidePort_inj {s t : State} (same : besidePort s = besidePort t) :
    s.mem = t.mem ∧ s.dir = t.dir ∧ s.tru = t.tru ∧ s.ctr = t.ctr := by
  simpa [besidePort] using same

theorem besidePort_ringCredit (m : RingMsg) (n : Nat) (s : State) : besidePort (ringCredit m n s) = besidePort s := by
  unfold ringCredit
  split <;> rfl

theorem besidePort_disableRing (s : State) (i : Nat) : besidePort (disableRing s i) = besidePort s :=
  foldl_leaves (g := besidePort) (fun s m => besidePort_ringCredit m m.body.length s) _ _

theorem besidePort_detachWork (f cls : Nat) (s : State) : besidePort (detachWork f cls s) = besidePort s := by
  unfold detachWork
  dsimp only
  split
  · rfl
  · split
    · rfl
    · split <;> rfl

theorem besidePort_disableQueue (f : Nat) (s : State) (cls : Nat) : besidePort (disableQueue f s cls) = besidePort s :=
  besidePort_detachWork f cls s

theorem besidePort_resetFn (s : State) (f : Nat) : besidePort (resetFn s f) = besidePort s :=
  (foldl_leaves besidePort_disableRing _ _).trans (foldl_leaves (besidePort_disableQueue f) _ _)

/-- Both links are down (15_start_power_cooling.md R391). -/
def linksDown (s : State) : State :=
  { s with host.speed := 0, host.width := 0, host.cxlIo := false, host.cxlCache := false, host.cxlMem := false,
           host.linkBUp := false, host.loads := [] }

theorem perst_resets (s : State) :
    exec .perst s = .next (countEvent cFlr (unitLink 0) (linksDown ((List.range 130).foldl resetFn s))) := rfl

end resets

/-- Settles O37: doorbells, completions, the enable bit and the resets, by the lemma above for each. -/
theorem hostQueues : Obligations.HostQueues := by
  unfold Obligations.HostQueues
  refine ⟨?_, ?_, ?_, ?_, ?_, ?_, ?_, ?_, ?_, ?_⟩
  · intro f cls v stores s r stored listens room some_ place
    refine ⟨_, _, rfl, congrArg Host.Outcome.next ((doorbell_listens stored listens).trans ?_), rfl⟩
    rw [if_neg (Nat.not_le.mpr room), if_neg (by simp [some_, place])]
    rfl
  · intro f cls v stores s r stored listens full
    exact congrArg Host.Outcome.next ((doorbell_listens stored listens).trans (if_pos full))
  · intro f cls v stores s r stored listens room bad
    refine congrArg Host.Outcome.next ((doorbell_listens stored listens).trans ?_)
    rw [if_neg (Nat.not_le.mpr room), if_pos (by simpa using bad)]
  · intro f cls v stores s r stored deaf
    exact doorbell_ignored stored deaf
  · rintro f cls st l rest s t front refused rfl
    rw [listCompletion_ends front (by simp [listEnded, refused]), listLeaves, completionWord, refused]
    rfl
  · rintro f cls l rest s t front accepted finished counted rfl
    rw [listCompletion_ends front (by simpa [listEnded, accepted, counted] using finished), listLeaves, completionWord, accepted]
    rfl
  · intro f cls s disabled
    exact congrArg Host.Outcome.next (if_neg (c := (hostQueue f cls s).enable = true) (disabled ▸ Bool.false_ne_true))
  · intro f cls s
    rfl
  · intro f s
    obtain ⟨mem, dir, -, -⟩ := besidePort_inj (besidePort_resetFn s f)
    exact ⟨_, rfl, rfl, (countEvent_mem ..).trans mem, (countEvent_dir ..).trans dir⟩
  · intro s
    have left := foldl_leaves besidePort_resetFn (List.range 130) s
    rw [perst_resets]
    generalize (List.range 130).foldl resetFn s = r at left ⊢
    obtain ⟨mem, dir, tru, ctr⟩ := besidePort_inj left
    refine ⟨_, rfl, ?_⟩
    rw [ctrGet_countEvent cFlr _ _ (Nat.zero_lt_succ 15), countEvent_host, countEvent_mem, countEvent_dir, countEvent_tru]
    exact ⟨rfl, rfl, rfl, rfl, rfl, congrArg (fun m => min (2 ^ cFlr.width - 1) (look 0 m cFlr.key + 1)) ctr, mem, dir, tru⟩

end Sys2Proof.Proofs

/-! ## Power: gating, requests that wait, and hold mode by command (15_start_power_cooling.md R399 to R409) -/

namespace Sys2Proof.Proofs

open Sys2Proof Sys2Proof.Machine Sys2Proof.Safety

/-! ### Deferred requests (14_trust_and_isolation.md R384, R385) -/

section deferrals

variable {s : State}

theorem deferRequest_frame (unit part request : Nat) (s : State) : deferRequest unit part request s =
    { s with ctr := (deferRequest unit part request s).ctr, flt := (deferRequest unit part request s).flt } := by
  unfold deferRequest logEvent
  rw [logRecord_frame]
  rfl

theorem holder_unassigned {serves : Nat → Bool} (unassigned : assignedParts s = []) : holder serves s = none := by
  unfold holder
  rw [unassigned]
  rfl

/-- The requests that secure hold bars are deferred, each for the partition that holds its unit. -/
def deferHeld (unit : Nat → Nat) (request : Nat) (holderOf : Nat → State → Option Nat) (l : List Nat) (s : State) : State :=
  l.foldl (fun s g => match holderOf g s with
    | some p => deferRequest (unit g) p request s
    | none => s) s

variable (unit : Nat → Nat) (request : Nat) (holderOf : Nat → State → Option Nat) (l : List Nat)

theorem deferHeld_frame (s : State) : deferHeld unit request holderOf l s = { s with
    ctr := (deferHeld unit request holderOf l s).ctr, flt := (deferHeld unit request holderOf l s).flt } := by
  refine foldl_counted_frame (fun s g => ?_) l s
  split
  · rw [deferRequest_frame]
  · rfl

theorem deferHeld_unheld (unheld : ∀ g, holderOf g s = none) : deferHeld unit request holderOf l s = s :=
  List.foldl_fixed' (fun g => by simp only [unheld g]) l

end deferrals

section requests

variable {s : State}

/-- What PWR_GGATE_REQ leaves before it defers a request: the register, and the requests that stand as pending. -/
def ggateWritten (i : Nat) (v : BitVec 64) (s : State) : State :=
  let old := s.pwr.ggate.toNat
  let new := if i = 0 then old / 2 ^ 64 * 2 ^ 64 + v.toNat else old % 2 ^ 64 + v.toNat % 2 ^ 32 * 2 ^ 64
  let fresh := (List.range 96).filter fun g => bit new g && !bit old g
  let pend := ((List.range 96).filter fun g => bit new g && (bit s.pwr.ggatePend.toNat g || fresh.contains g)).map (2 ^ ·)
  { s with pwr.ggate := BitVec.ofNat 96 new, pwr.ggatePend := BitVec.ofNat 96 pend.sum }

theorem pwrGgateReq_writes (i : Nat) (v : BitVec 64) (s : State) :
    ∃ fresh, exec (.pwrGgateReq i v) s = .next (deferHeld unitGraver 0 graverHolder fresh (ggateWritten i v s)) := ⟨_, rfl⟩

/-- What PWR_GATE leaves before it defers a request. -/
def gateWritten (d : Nat) (fl : Bool) (s : State) : State :=
  let down := d % 256
  let fresh := (List.range 8).filter fun p => bit down p && !bit s.pwr.portDown p
  let pend := ((List.range 8).filter fun p => bit down p && (bit s.cool.portPend p || fresh.contains p)).map (2 ^ ·)
  { s with pwr.portDown := down, pwr.flashDown := fl, cool.portPend := pend.sum
           cool.flashPend := fl && (s.cool.flashPend || (fl && !s.pwr.flashDown)) }

/-- The deferral of a request for the flash-tier controller. -/
def deferFlash (fresh : Bool) (s : State) : State :=
  match if fresh then flashHolder s else none with
  | some q => deferRequest unitNode q 2 s
  | none => s

theorem pwrGate_writes (d : Nat) (fl : Bool) (s : State) : ∃ fresh ports, exec (.pwrGate d fl) s =
    .next (deferFlash fresh (deferHeld unitPort 2 portHolder ports (gateWritten d fl s))) := ⟨_, _, rfl⟩

theorem deferFlash_frame (fresh : Bool) (s : State) : deferFlash fresh s =
    { s with ctr := (deferFlash fresh s).ctr, flt := (deferFlash fresh s).flt } := by
  unfold deferFlash
  split
  · rw [deferRequest_frame]
  · rfl

theorem deferFlash_unheld {fresh : Bool} (unassigned : assignedParts s = []) : deferFlash fresh s = s := by
  have unheld : flashHolder s = none := holder_unassigned unassigned
  cases fresh
  · rfl
  · simp only [deferFlash, unheld, if_true]

end requests

/-! ### Requests that take effect (R399, R400) -/

section effects

variable {s : State}

/-- The pending requests of gravers and ports at a pass boundary. -/
def gravelsGated (s : State) : State := (List.range 8).foldl gatePort ((List.range 96).foldl gateRequested s)

theorem gateRequested_idle (g : Nat) (none_ : s.pwr.ggatePend = 0) (fresh : s.gravers = []) : gateRequested s g = s := by
  have pend : bit s.pwr.ggatePend.toNat g = false := by
    rw [none_]
    simp [bit]
  have st : (graver g s).st = .idle := by
    unfold graver
    rw [fresh]
    rfl
  simp [gateRequested, pend, st]

theorem gatePort_idle (p : Nat) (none_ : s.cool.portPend = 0) (fresh : s.ports = []) : gatePort s p = s := by
  have pend : bit s.cool.portPend p = false := by
    rw [none_]
    simp [bit]
  have gated : (fport p s).gated = false := by
    unfold fport
    rw [fresh]
    rfl
  simp [gatePort, pend, gated]

theorem gravelsGated_idle (gravers : s.gravers = []) (ports : s.ports = []) (ggatePend : s.pwr.ggatePend = 0)
    (portPend : s.cool.portPend = 0) : gravelsGated s = s := by
  unfold gravelsGated
  rw [List.foldl_fixed' (fun g => gateRequested_idle g ggatePend gravers),
    List.foldl_fixed' (fun p => gatePort_idle p portPend ports)]

theorem gateTakesEffect_boundary (boundary : strokeNow s = 0) :
    exec .gateTakesEffect s = .next (gateFlash (gravelsGated s)) := congrArg Host.Outcome.next (if_pos boundary)

theorem deferredTakesEffect_boundary (boundary : strokeNow s = 0) : exec .deferredTakesEffect s =
    .next (linkDeferred (linkDeferred (gateFlash (gravelsGated s)) 0) 1) := congrArg Host.Outcome.next (if_pos boundary)

theorem gateFlash_gates (pend : s.cool.flashPend = true) (tdis : s.tru.tdis = []) (idle : flashIdle s = true) :
    gateFlash s = { s with cool.flashPend := false, cool.flashGated := true } := by
  have unassigned : assignedParts s = [] := by
    unfold assignedParts
    rw [tdis]
    rfl
  have unheld : flashHolder s = none := holder_unassigned unassigned
  simp [gateFlash, pend, unheld, idle]

theorem gateFlash_rests (pend : s.cool.flashPend = false) (gated : s.cool.flashGated = false) : gateFlash s = s := by
  simp [gateFlash, pend, gated]

theorem gateRequested_pending {g : Nat} (pend : bit s.pwr.ggatePend.toNat g = true) : gateRequested s g =
    if (graverHolder g s).isNone && graverIdle (graver g s) then
      gateGraver g { s with pwr.ggatePend := s.pwr.ggatePend &&& ~~~(BitVec.ofNat 96 (2 ^ g)) }
    else s := if_pos pend

theorem gatePort_waits {p : Nat} (pend : bit s.cool.portPend p = true)
    (busy : (portHolder p s).isSome = true ∨ portIdle p s = false) : gatePort s p = s := by
  refine (if_pos pend).trans (if_neg ?_)
  rcases busy with held | working
  · simp [Option.isSome_iff_ne_none.mp held]
  · simp [working]

theorem linkDeferred_held {w : Nat} (held : linkHolder s = some w) : linkDeferred s 0 = s :=
  if_neg (by simp [held])

end effects

/-! ### Hold mode by command (R407, R408) -/

section hold

variable {s : State}

theorem enterHold_pwr (cause : Nat) (s : State) :
    (enterHold cause s).pwr = { s.pwr with hold := true, holdCause := s.pwr.holdCause ||| 2 ^ cause } := by
  have pwr := congrArg State.pwr (besideWork_enterHold cause s)
  exact pwr

theorem enterHold_start (cause : Nat) (s : State) : (enterHold cause s).start = s.start := by
  have start := congrArg State.start (besideWork_enterHold cause s)
  exact start

theorem besideGravers_gateByNode (s : State) : besideGravers (gateByNode s) = besideGravers s := by
  refine foldl_leaves (fun s g => ?_) _ s
  have gated : besideGravers (gateGraver g s) = besideGravers s := ite_leaves rfl (besideGravers_setGraver ..)
  exact ite_leaves (ite_leaves gated rfl) (ite_leaves (besideGravers_ungateGraver g s) rfl)

theorem holdExit_leaves (may : mayLeaveHold s = true) :
    exec .holdExit s = .next (gateByNode { s with pwr.hold := false, pwr.holdCause := 0 }) :=
  congrArg Host.Outcome.next (if_pos may)

end hold

/-- Settles O42: the writes, the pass boundary, hold mode and the links, by the lemma above for each. -/
theorem gatingAndHold : Obligations.GatingAndHold := by
  unfold Obligations.GatingAndHold
  refine ⟨?_, ?_, ?_, ?_, ?_, ?_, ?_, ?_, ?_, ?_, ?_, ?_, ?_, ?_, ?_, ?_, ?_⟩
  · intro i v s
    obtain ⟨fresh, written⟩ := pwrGgateReq_writes i v s
    refine ⟨_, written, ?_, ?_, fun unassigned => ?_⟩
    · rw [deferHeld_frame]
      rfl
    · rw [deferHeld_frame]
      rfl
    · have unheld : ∀ g, graverHolder g (ggateWritten i v s) = none := fun g => holder_unassigned unassigned
      rw [deferHeld_unheld _ _ _ _ unheld]
      exact ⟨rfl, rfl⟩
  · intro d fl s
    obtain ⟨fresh, ports, written⟩ := pwrGate_writes d fl s
    refine ⟨_, written, ?_, ?_, ?_, fun unassigned => ?_⟩
    · rw [deferFlash_frame, deferHeld_frame]
      rfl
    · rw [deferFlash_frame, deferHeld_frame]
      rfl
    · rw [deferFlash_frame, deferHeld_frame]
      rfl
    · have unheld : ∀ p, portHolder p (gateWritten d fl s) = none := fun p => holder_unassigned unassigned
      rw [deferHeld_unheld _ _ _ _ unheld, deferFlash_unheld (s := gateWritten d fl s) unassigned]
      exact ⟨rfl, rfl⟩
  · intro s inside
    exact ⟨congrArg Host.Outcome.next (if_neg inside), congrArg Host.Outcome.next (if_neg inside)⟩
  · intro s boundary flashPend portPend ggatePend gravers ports tdis idle
    rw [gateTakesEffect_boundary boundary, gravelsGated_idle gravers ports ggatePend portPend,
      gateFlash_gates flashPend tdis idle]
  · intro s boundary linkPend flashPend flashGated portPend ggatePend gravers ports tdis
    rw [deferredTakesEffect_boundary boundary, gravelsGated_idle gravers ports ggatePend portPend,
      gateFlash_rests flashPend flashGated]
    have first : linkDeferred s 0 = s := if_neg (by simp [linkPend, bit])
    rw [first, linkDeferred, if_pos (by simp [linkPend, bit]), linkPend]
    rfl
  · intro s on
    refine ⟨congrArg Host.Outcome.next (if_pos on), ?_, ?_⟩
    · rw [enterHold_pwr]
    · rw [enterHold_pwr]
      exact bit_or_pow _ 4
  · intro s may
    have frame := eq_of_besideGravers (besideGravers_gateByNode { s with pwr.hold := false, pwr.holdCause := 0 })
    refine ⟨_, holdExit_leaves may, ?_, ?_⟩
    · rw [frame]
    · rw [frame]
  · intro s stays
    exact congrArg Host.Outcome.next (if_neg (stays ▸ Bool.false_ne_true))
  · intro s on
    refine ⟨_, congrArg Host.Outcome.next (if_pos on), ?_, ?_⟩
    · exact congrArg PowerState.hold (enterHold_pwr 4 s)
    · exact congrArg (fun x : StartState => { x with offAt := some s.time.elapsed }) (enterHold_start 4 s)
  · rintro l sp w x y s on rfl above below whole
    refine congrArg Host.Outcome.next ((if_neg (by simp [on])).trans ((if_pos rfl).trans ?_))
    simp [above, Nat.not_le.mpr below, whole]
  · intro f s
    rfl
  · intro s
    exact ⟨rfl, rfl⟩
  · rintro s t boundary rfl
    exact ⟨gateTakesEffect_boundary boundary, deferredTakesEffect_boundary boundary⟩
  · intro g p l w s
    refine ⟨fun pend free idle => ?_, fun pend busy => ?_, gatePort_waits, ?_⟩
    · exact (gateRequested_pending pend).trans (if_pos (by simp [free, idle]))
    · refine (gateRequested_pending pend).trans (if_neg ?_)
      rcases busy with held | working
      · simp [Option.isSome_iff_ne_none.mp held]
      · simp [working]
    · rintro - rfl held
      exact linkDeferred_held held
  · intro s free
    refine ⟨congrArg Host.Outcome.next ?_, rfl⟩
    simp [execHostPowerManagementRequestState, free]
  · intro p s held unset
    refine congrArg Host.Outcome.next ?_
    simp [execHostPowerManagementRequestState, held, unset]
  · intro l sp w x y s on
    refine ⟨congrArg Host.Outcome.next (if_neg (by simp [on])), fun split_ other => congrArg Host.Outcome.next ?_⟩
    exact (if_neg (by simp [on])).trans ((if_neg (Nat.ne_of_gt other)).trans (if_pos split_))

end Sys2Proof.Proofs

/-! ## The trust core (14_trust_and_isolation.md) -/

namespace Sys2Proof.Proofs

open Sys2Proof Sys2Proof.Machine Sys2Proof.Safety

/-! ### The mailbox and the key commands (R364 to R372) -/

section mail

variable {cmd len : Nat} {s : State}

theorem mailbox_runs {lenOk : Nat → Bool} {ok : List Byte → State → State} (up : trustUp s = true) (idle : s.tru.busy = false)
    (command : mbxCmd s = cmd) (plain : memNat s.mem.mbxReq 4 4 = 0) (fits : lenOk (memNat s.mem.mbxReq 2 2) = true) :
    mailbox cmd lenOk ok s = ok (mbxArgs s) s := by
  simp [mailbox, up, idle, command, plain, fits]

theorem mailReady_runs {ok : List Byte → State → State} (ready : mailReady cmd len s) :
    mailbox cmd (· == len) ok s = ok (mbxArgs s) s := by
  obtain ⟨up, -, idle, command, plain, length⟩ := ready
  exact mailbox_runs up idle command plain (by simp [length])

theorem keyCommand_mailbox {go : Via → List Byte → State → State} (ready : mailReady cmd len s) :
    keyCommand cmd len go s = go .mailbox (mbxArgs s) s := by
  have up : trustUp s = true := ready.1
  have absent : vendorKey cmd s = none := ready.2.1
  simp only [keyCommand, up, absent, if_true]
  exact mailReady_runs ready

/-- The mailbox's request holds BUSY with its command (R372). -/
theorem mbxHold_ready (ready : mailReady cmd len s) : mbxHold s = { s with tru.busy := true, tru.cmd := some cmd } := by
  have command : mbxCmd s = cmd := ready.2.2.2.1
  unfold mbxHold
  rw [command]

/-- A key command that comes as a secured message (R371). -/
abbrev vendorReady (cmd : Nat) (b : Binding) (n r : Nat) (a : List Byte) (s : State) : Prop :=
  trustUp s = true ∧ vendorKey cmd s = some (b, n, r, a)

theorem keyCommand_vendor {go : Via → List Byte → State → State} {b : Binding} {n r : Nat} {a : List Byte}
    (ready : vendorReady cmd b n r a s) : keyCommand cmd len go s =
      if r ≠ 0 then answerKey (.spdm b n) stMalformed 1 [] { s with mgmt.messages := s.mgmt.messages.tail }
      else if a.length = len then go (.spdm b n) a { s with mgmt.messages := s.mgmt.messages.tail }
      else answerKey (.spdm b n) stMalformed 2 [] { s with mgmt.messages := s.mgmt.messages.tail } := by
  obtain ⟨up, carried⟩ := ready
  simp only [keyCommand, up, carried, if_true]

end mail

section keys

variable {via : Via} {a : List Byte} {s : State}

/-- Draws raise the generator's count and change nothing else. -/
theorem drawGo_frame (c epoch k : Nat) (s : State) :
    ∃ n, s.tru.draws < n ∧ (drawGo c epoch k s).2 = { s with tru.draws := n } := by
  induction k generalizing s with
  | zero => exact ⟨_, Nat.lt_succ_self _, rfl⟩
  | succ k ih =>
    unfold drawGo
    dsimp only
    split
    · obtain ⟨n, more, drawn⟩ := ih { s with tru.draws := s.tru.draws + 1 }
      exact ⟨n, Nat.lt_of_succ_lt more, drawn⟩
    · exact ⟨_, Nat.lt_succ_self _, rfl⟩

theorem offerKey_passes (epoch : u a 2 1 < 2) (free : keyRefusal via (u a 0 2) s = none) : offerKey via a s =
    queueCurve (.offerPoint via (u a 0 2) (u a 2 1) (drawGo (u a 0 2) (u a 2 1) 64 s).1)
      (if via = .mailbox then mbxHold (drawGo (u a 0 2) (u a 2 1) 64 s).2 else (drawGo (u a 0 2) (u a 2 1) 64 s).2) := by
  simp only [offerKey, free]
  exact if_neg (by omega)

theorem offerKey_refused {x : Nat × Nat} (epoch : u a 2 1 < 2) (against : keyRefusal via (u a 0 2) s = some x) :
    offerKey via a s = answerKey via x.1 x.2 [] s := by
  simp only [offerKey, against]
  exact if_neg (by omega)

theorem keyRefusal_unused {c : Nat} (unused : (connRec c s).used = false) : keyRefusal via c s = some (stMalformed, 3) :=
  if_pos (by simp [unused])

theorem acceptKey_passes (epoch : u a 2 1 < 2) (free : keyRefusal via (u a 0 2) s = none) : acceptKey via a s =
    if (offerFor (u a 0 2) (u a 2 1) s).isNone then answerKey via stMalformed 4 [] s
    else queueCurve (.accept via (u a 0 2) (u a 2 1) (sub a 3 97)) (if via = .mailbox then mbxHold s else s) := by
  simp only [acceptKey, free]
  exact if_neg (by omega)

theorem eraseKey_passes (mask : u a 2 1 ≤ 3) (free : keyRefusal via (u a 0 2) s = none) : eraseKey via a s =
    let t := if bit (u a 2 1) 0 then eraseConnKey (u a 0 2) 0 s else s
    answerKey via stOk 0 [] (if bit (u a 2 1) 1 then eraseConnKey (u a 0 2) 1 t else t) := by
  simp only [eraseKey, free]
  exact if_neg (by omega)

theorem curveOpDone_early (early : s.time.elapsed < s.tru.curveAt + 7600) : exec .curveOpDone s = .next s := by
  refine congrArg Host.Outcome.next ?_
  unfold execCurveOpDoneState
  split
  · rfl
  · exact if_pos early

theorem curveOpDone_ends {op : CurveOp} {rest : List CurveOp} (queue : s.tru.curve = op :: rest)
    (late : s.tru.curveAt + 7600 ≤ s.time.elapsed) :
    exec .curveOpDone s = .next (curveResult op { s with tru.curve := rest, tru.curveAt := s.time.elapsed }) := by
  refine congrArg Host.Outcome.next ?_
  simp only [execCurveOpDoneState, queue]
  exact if_neg (Nat.not_lt.mpr late)

/-- The count fused for the component that FUSE_SVN names, the burnt one included. -/
def fusedSvn (which : Nat) (s : State) : Nat :=
  if which = 0 then max s.tru.svnTc s.tru.burntTc else max s.tru.svnHub s.tru.burntHub

theorem fuseSvn_ready (ready : mailReady 0x0120 2 s) : exec .fuseSvn s = .next
    (let which := u (mbxArgs s) 0 1
     let n := u (mbxArgs s) 1 1
     if 1 < which || n < fusedSvn which s || runningSvn which s < n || 64 < n then mbxRefuse 6 s
     else mbxEnd stOk 0 [] (if which = 0 then { s with tru.svnTc := n, tru.burntTc := n }
       else { s with tru.svnHub := n, tru.burntHub := n })) := congrArg Host.Outcome.next (mailReady_runs ready)

end keys

/-- Settles O38: the key commands by mailbox and by session, the engine and the fuses, by the lemma above for each. -/
theorem trustKeys : Obligations.TrustKeys := by
  unfold Obligations.TrustKeys
  refine ⟨?_, ?_, ?_, ?_, ?_, ?_, ?_, ?_, ?_, ?_, ?_, ?_, ?_, ?_⟩
  · intro s ready epoch free
    obtain ⟨n, more, drawn⟩ := drawGo_frame (u (mbxArgs s) 0 2) (u (mbxArgs s) 2 1) 64 s
    have command : mbxCmd s = 0x0101 := ready.2.2.2.1
    refine ⟨_, (drawGo (u (mbxArgs s) 0 2) (u (mbxArgs s) 2 1) 64 s).1,
      congrArg Host.Outcome.next ((keyCommand_mailbox ready).trans (offerKey_passes epoch free)), ?_⟩
    rw [drawn, if_pos rfl, mbxHold, show mbxCmd { s with tru.draws := n } = 0x0101 from command]
    exact ⟨rfl, more, rfl⟩
  · intro s ready epoch unused
    exact congrArg Host.Outcome.next
      ((keyCommand_mailbox ready).trans (offerKey_refused epoch (keyRefusal_unused unused)))
  · intro s ready epoch free offers
    have lapsed : (offerFor (u (mbxArgs s) 0 2) (u (mbxArgs s) 2 1) s).isNone = true := by
      unfold offerFor
      rw [offers]
      rfl
    exact congrArg Host.Outcome.next ((keyCommand_mailbox ready).trans ((acceptKey_passes epoch free).trans (if_pos lapsed)))
  · intro s ready epoch free stands
    refine congrArg Host.Outcome.next ((keyCommand_mailbox ready).trans ((acceptKey_passes epoch free).trans ?_))
    rw [if_neg (by simpa using Option.isSome_iff_ne_none.mp stands), if_pos rfl, mbxHold_ready ready]
    rfl
  · rintro c m s t ready rfl rfl mask free rfl
    exact congrArg Host.Outcome.next ((keyCommand_mailbox ready).trans (eraseKey_passes mask free))
  · intro s ready
    refine congrArg Host.Outcome.next ((mailReady_runs ready).trans ?_)
    rw [mbxHold_ready ready]
    rfl
  · intro s early
    exact curveOpDone_early early
  · intro d q rest s queue late bad
    exact (curveOpDone_ends queue late).trans (congrArg Host.Outcome.next (if_pos bad))
  · intro k e s
    rfl
  · intro s ready which fused burnt running most
    rw [fuseSvn_ready ready]
    simp only [which]
    rw [if_neg (by simp [fusedSvn, fused, burnt, running, most]), if_pos trivial]
  · intro s ready which below
    rw [fuseSvn_ready ready]
    simp only [which]
    rw [if_pos (by simp [fusedSvn, below])]
    rfl
  · intro op rest s queue late
    exact curveOpDone_ends queue late
  · rintro n s ready which rfl fused burnt running most
    rw [fuseSvn_ready ready]
    simp only [which]
    rw [if_neg (by simp [fusedSvn, fused, burnt, running, most]), if_neg (by decide)]
  · rintro cmd b n r a s t up carried rfl
    refine ⟨?_, ?_, ?_, ?_⟩
    · rintro rfl framed
      exact congrArg Host.Outcome.next ((keyCommand_vendor ⟨up, carried⟩).trans (if_pos framed))
    · rintro rfl rfl length
      exact congrArg Host.Outcome.next ((keyCommand_vendor ⟨up, carried⟩).trans ((if_neg (by simp)).trans (if_pos length)))
    · rintro rfl rfl length
      exact congrArg Host.Outcome.next ((keyCommand_vendor ⟨up, carried⟩).trans ((if_neg (by simp)).trans (if_pos length)))
    · rintro rfl rfl length
      exact congrArg Host.Outcome.next ((keyCommand_vendor ⟨up, carried⟩).trans ((if_neg (by simp)).trans (if_pos length)))

end Sys2Proof.Proofs

/-! ## Scrubs, sessions, IDE streams and TDISP (14_trust_and_isolation.md) -/

namespace Sys2Proof.Proofs

open Sys2Proof Sys2Proof.Machine Sys2Proof.Safety

section scrubs

variable {t ok : Bool} {id vf : Nat} {x : Scrub} {s : State}

theorem scrub_partition (ready : mailReady 0x0110 3 s) (partition : u (mbxArgs s) 0 1 = 0) (known : u (mbxArgs s) 1 2 < 128) :
    exec .scrub s = .next (mbxEnd stOk 0 [] (if (scrubOf false (u (mbxArgs s) 1 2) s).isSome then s
      else startScrub false (u (mbxArgs s) 1 2) true s)) := by
  refine congrArg Host.Outcome.next ((mailReady_runs ready).trans ?_)
  simp only [partition]
  exact if_neg (by simpa using known)

theorem startScrub_appends (running : Bool) (none_ : scrubOf t id s = none) :
    startScrub t id running s = { s with tru.scrubs := s.tru.scrubs ++ [newScrub t id running s] } := by
  simp only [startScrub, none_]

/-- A scrub that runs, in a powered trust core (R381). -/
structure ScrubRuns (t : Bool) (id : Nat) (x : Scrub) (s : State) : Prop where
  found : scrubOf t id s = some x
  working : x.failed = false
  running : x.running = true
  up : trustUp s = true

theorem scrubStep_waits (runs : ScrubRuns t id x s) (third : x.step = 3) (grace : scrubGraceOver x s = false) :
    exec (.scrubStep t id ok) s = .next s := by
  refine congrArg Host.Outcome.next ?_
  simp only [execScrubStepState, runs.found]
  exact if_pos (by simp [third, grace])

theorem scrubStep_verifies (runs : ScrubRuns t id x s) (last : x.step = 7) :
    exec (.scrubStep t id ok) s = .next (scrubVerified x (ok && scrubReadsZero x s) s) := by
  refine congrArg Host.Outcome.next ?_
  simp only [execScrubStepState, runs.found]
  exact (if_neg (by simp [runs.working, runs.running, runs.up, last])).trans (if_pos last)

theorem scrubStep_works (runs : ScrubRuns t id x s) (early : x.step ≠ 7) (grace : x.step = 3 → scrubGraceOver x s = true) :
    exec (.scrubStep t id ok) s = .next { (scrubWork x s).2 with
      tru.scrubs := replaceWhere (· == x) (fun _ => { (scrubWork x s).1 with step := if x.repeated ∧ x.step = 4 then 7 else x.step + 1 })
        (scrubWork x s).2.tru.scrubs } := by
  refine congrArg Host.Outcome.next ?_
  simp only [execScrubStepState, runs.found]
  refine (if_neg ?_).trans ((if_neg early).trans ?_)
  · simpa [runs.working, runs.running, runs.up] using grace
  · simp only [Bool.and_eq_true, beq_iff_eq]

theorem scrubVerified_again (first : x.repeated = false) : scrubVerified x false s =
    { s with tru.scrubs := replaceWhere (· == x) (fun x => { x with step := 4, repeated := true }) s.tru.scrubs } := by
  simp [scrubVerified, first]

theorem scrubVerified_fails (repeated : x.repeated = true) : scrubVerified x false s =
    raise fScrubFail unitTrust (leBytes 2 x.id ++ leBytes 1 (b2n x.tenantScope)) (tally cScrubFail { s with
      tru.scrubFailed := true
      tru.scrubs := replaceWhere (· == x) (fun x => { x with failed := true, running := false }) s.tru.scrubs }) := by
  simp [scrubVerified, repeated]

theorem scrubWork_third (third : x.step = 3) : scrubWork x s = (x, s) := by
  simp [scrubWork, third]

end scrubs

section devices

variable {b : Binding} {n vf : Nat} {s : State}

/-- The last bytes of an SPDM message that ends with a nonce are the nonce. -/
theorem sub_spdm_nonce (code p1 p2 : Nat) (front nonce : List Byte) :
    sub (spdm code p1 p2 (front ++ padTo 32 nonce)) ((spdm code p1 p2 (front ++ padTo 32 nonce)).length - 32) 32 = padTo 32 nonce := by
  have width : (padTo 32 nonce).length = 32 := by
    simp only [padTo, List.length_take, List.length_append, List.length_replicate]
    omega
  have split_ : spdm code p1 p2 (front ++ padTo 32 nonce) = (asBytes [5, 0x12, code, p1, p2] ++ front) ++ padTo 32 nonce :=
    (List.append_assoc ..).symm
  rw [split_, sub, List.length_append, width, Nat.add_sub_cancel, List.drop_left, List.take_of_length_le (Nat.le_of_eq width)]

theorem getMeasurements_signs {session : Option Nat} (nonce : List Byte) (up : trustUp s = true)
    (inside : ∀ n, session = some n → s.tru.sessions.contains n = true) :
    exec (.getMeasurements b session nonce) s = .next (queueCurve (.sign b session (spdm 0x60 0 0
      (leBytes 1 5 ++ leBytes 3 (measurements s).length ++ measurements s ++ padTo 32 nonce))) s) := by
  refine congrArg Host.Outcome.next ?_
  unfold execGetMeasurementsState
  refine (if_neg (by simp [up])).trans (if_pos ?_)
  cases session with
  | none => rfl
  | some n => exact inside n rfl

/-- A key exchange counts the sessions that the curve engine is opening. -/
theorem keyExchange_queues (q : List Byte) (up : trustUp s = true) (few : s.tru.sessions.length + s.tru.curve.length < 4) :
    exec (.keyExchange b q) s = .next (queueCurve (.exchange b q) s) := by
  refine congrArg Host.Outcome.next ?_
  unfold execKeyExchangeState
  refine (if_neg (by simp [up])).trans (if_neg ?_)
  exact Nat.not_le.mpr (Nat.lt_of_le_of_lt (Nat.add_le_add_left (List.length_filter_le ..) _) few)

theorem keyExchange_full (q : List Byte) (up : trustUp s = true) (full : 4 ≤ s.tru.sessions.length) :
    exec (.keyExchange b q) s = .next (spdmError b 0x0A s) := by
  refine congrArg Host.Outcome.next ?_
  unfold execKeyExchangeState
  exact (if_neg (by simp [up])).trans (if_pos (Nat.le_add_right_of_le full))

theorem tdiError_run (running : tdi vf s = .run) (none_ : scrubOf false vf s = none) :
    tdiError true s vf = { setTdi vf .error s with tru.scrubs := s.tru.scrubs ++ [newScrub false vf true s] } := by
  simp only [tdiError, running]
  exact (if_pos trivial).trans (startScrub_appends (s := setTdi vf .error s) true none_)

/-- A stream that has failed, counted: what IDE_FAIL makes of the stream before it looks at the interface. -/
def failedStream (n : Nat) (x : IdeStream) (s : State) : State :=
  countEvent cIdeFail (unitLink 0) (setStream n { x with secure := false } s)

theorem failedStream_tru (x : IdeStream) : (failedStream n x s).tru = (setStream n { x with secure := false } s).tru := by
  simp [failedStream]

theorem failedStream_frame (x : IdeStream) : failedStream n x s = { s with
    tru := (setStream n { x with secure := false } s).tru, ctr := (failedStream n x s).ctr, flt := (failedStream n x s).flt } :=
  countEvent_frame ..

theorem failedStream_tdi (x : IdeStream) : tdi vf (failedStream n x s) = tdi vf s := by
  rw [tdi, failedStream_tru]
  rfl

theorem failedStream_scrubOf (x : IdeStream) : scrubOf false vf (failedStream n x s) = scrubOf false vf s := by
  rw [scrubOf, failedStream_tru]
  rfl

theorem ideFail_selective {x : IdeStream} (found : ideStream n s = some x) (secure : x.secure = true) (selective : x.vf = some vf) :
    exec (.ideFail n) s = .next (tdiError true (failedStream n x s) vf) := by
  have fails : execIdeFailState n s = tdiError true (failedStream n x s) vf := by
    unfold execIdeFailState
    rw [found]
    simp only [secure, selective, Bool.not_true, Bool.false_eq_true, if_false, failedStream]
  exact congrArg Host.Outcome.next fails

theorem lockInterface_locks (up : trustUp s = true) (inside : s.tru.sessions.contains n = true) (unlocked : tdi vf s = .unlocked)
    (confidential : (partRec vf s).confidential = true) (none_ : scrubOf false vf s = none) (stream : vfStream vf s = true) :
    exec (.lockInterface vf n) s =
      .next { setTdi vf .locked s with tru.tdiSession := put 0 s.tru.tdiSession vf n } := by
  refine congrArg Host.Outcome.next (if_pos ?_)
  rw [up, inside, unlocked, confidential, none_, stream]
  rfl

theorem stopInterface_scrubs (bound : tdi vf s = .run ∨ tdi vf s = .locked ∨ tdi vf s = .error) (up : trustUp s = true) :
    exec (.stopInterface vf) s = .next (startScrub false vf true (setTdi vf .unlocked s)) := by
  refine congrArg Host.Outcome.next ((if_neg (by simp [up])).trans ?_)
  obtain h | h | h := bound <;> rw [h]

end devices

/-- Settles O39: the scrub's steps by `scrubStep_works` and `scrubStep_verifies`, sessions, streams and interfaces by the
lemma for each command. -/
theorem scrubsAndDevices : Obligations.ScrubsAndDevices := by
  unfold Obligations.ScrubsAndDevices
  refine ⟨?_, ?_, ?_, ?_, ?_, ?_, ?_, ?_, ?_, ?_, ?_, ?_, ?_, ?_, ?_, ?_, ?_⟩
  · intro s ready partition known none_
    rw [scrub_partition ready partition known, none_, startScrub_appends true none_]
    rfl
  · intro s x ready partition known pending
    rw [scrub_partition ready partition known, pending]
    rfl
  · intro t id ok x s found working running up third grace
    exact scrubStep_waits ⟨found, working, running, up⟩ third grace
  · intro t id ok x s found working running up third grace
    rw [scrubStep_works ⟨found, working, running, up⟩ (by simp [third]) fun _ => grace, scrubWork_third third]
    simp [third]
  · intro t id x s found working running up last zero
    rw [scrubStep_verifies ⟨found, working, running, up⟩ last, zero]
    rfl
  · intro t id ok x s found working running up last first failed
    rw [scrubStep_verifies ⟨found, working, running, up⟩ last, failed]
    exact congrArg Host.Outcome.next (scrubVerified_again first)
  · intro b session nonce s up inside
    exact ⟨_, getMeasurements_signs nonce up inside, sub_spdm_nonce ..⟩
  · intro b q s up few
    exact keyExchange_queues q up few
  · intro b q s up full
    exact keyExchange_full q up full
  · intro n stream key vf s up inside few
    refine congrArg Host.Outcome.next (if_neg ?_)
    rw [up, inside]
    simpa using few
  · intro n vf x s found secure selective running none_
    refine ⟨_, ideFail_selective found secure selective, ?_⟩
    have tallied := ctrGet_countEvent cIdeFail (unitLink 0) (setStream n { x with secure := false } s) (by decide)
    have frame := failedStream_frame (n := n) (s := s) x
    rw [tdiError_run ((failedStream_tdi x).trans running) ((failedStream_scrubOf x).trans none_)]
    refine ⟨?_, ⟨_, List.mem_append_right _ (List.mem_singleton_self _), rfl, rfl, rfl⟩, tallied, ?_⟩
    · exact congrArg (fun tru => put .unlocked tru.tdis vf .error) (failedStream_tru x)
    · rw [frame]
      rfl
  · intro vf n s up inside unlocked confidential none_ stream
    exact lockInterface_locks up inside unlocked confidential none_ stream
  · intro vf n s plain
    exact congrArg Host.Outcome.next (if_neg (by simp [plain]))
  · intro vf s locked up
    exact congrArg Host.Outcome.next (if_pos ⟨locked, up⟩)
  · intro vf s bound up none_
    exact (stopInterface_scrubs bound up).trans (congrArg Host.Outcome.next (startScrub_appends true none_))
  · intro t id ok x s found working running up last repeated failed
    rw [scrubStep_verifies ⟨found, working, running, up⟩ last, failed]
    exact congrArg Host.Outcome.next (scrubVerified_fails repeated)
  · intro t id ok x y s r found working running up early grace work
    rw [scrubStep_works ⟨found, working, running, up⟩ early grace, work]

end Sys2Proof.Proofs

/-! ## Supplies, reset, the stages and cuts (15_start_power_cooling.md) -/

namespace Sys2Proof.Proofs

open Sys2Proof Sys2Proof.Machine Sys2Proof.Safety

/-! ### What a cut leaves (R386) -/

section cuts

variable {s : State}

/-- A state beside the interfaces and the scrubs. -/
def besideScrubs (s : State) : State := { s with tru.tdis := [], tru.scrubs := [] }

theorem besideScrubs_startScrub (tenant : Bool) (id : Nat) (running : Bool) (s : State) :
    besideScrubs (startScrub tenant id running s) = besideScrubs s := by
  unfold startScrub
  split
  · exact ite_leaves rfl rfl
  · rfl

theorem besideScrubs_tdiError (running : Bool) (s : State) (vf : Nat) : besideScrubs (tdiError running s vf) = besideScrubs s := by
  unfold tdiError
  split
  · exact ite_leaves (besideScrubs_startScrub ..) (besideScrubs_startScrub ..)
  · exact ite_leaves (besideScrubs_startScrub ..) (besideScrubs_startScrub ..)
  · rfl
  · rfl

theorem eq_of_besideScrubs {t : State} (same : besideScrubs t = besideScrubs s) :
    t = { s with tru.tdis := t.tru.tdis, tru.scrubs := t.tru.scrubs } :=
  congrArg (fun x : State => { x with tru.tdis := t.tru.tdis, tru.scrubs := t.tru.scrubs }) same

theorem cutKeys_frame (s : State) : ∃ tdis scrubs ctr flt, cutKeys s = { s with
    tru := { s.tru with keys := [], latches := [], keyWrites := [], streams := [], tdis := tdis, scrubs := scrubs }
    ctr := ctr, flt := flt } := by
  have ended := eq_of_besideScrubs (foldl_leaves (g := besideScrubs) (besideScrubs_tdiError false) (assignedParts s) s)
  unfold cutKeys
  dsimp only
  generalize (assignedParts s).foldl (tdiError false) s = r at ended ⊢
  rw [ended]
  split
  · exact ⟨_, _, _, _, rfl⟩
  · exact ⟨_, _, _, _, countEvent_frame ..⟩

theorem performCut_start (thermal : Bool) (s : State) :
    (performCut thermal s).start.mainOn = false ∧ (performCut thermal s).start.stage = 0 ∧
      (performCut thermal s).start.thermTrip = (s.start.thermTrip || thermal) := by
  refine ⟨rfl, rfl, ?_⟩
  obtain ⟨tdis, scrubs, ctr, flt, cut⟩ := cutKeys_frame (if thermal then tally cShutdown s else s)
  have kept : (if thermal then tally cShutdown s else s).start = s.start := ite_leaves (g := State.start) rfl rfl
  change ((cutKeys (if thermal then tally cShutdown s else s)).start.thermTrip || thermal) = _
  rw [cut, kept]

end cuts

/-! ### The stages (R392, R394) -/

section stages

variable {s : State}

/-- A stage is in progress: the supplies stand, and nothing has stalled it. -/
structure StageRuns (s : State) : Prop where
  vaux : s.start.vaux = true
  reset : s.start.sysRst = true
  running : s.start.stageRunning = true
  free : s.start.stalled = false

theorem stageComplete_runs (runs : StageRuns s) (r : StageResult) : exec (.stageComplete r) s = .next (match r with
    | .done => stageDone s
    | .identityFail => if s.start.stage = 0 then stallStage 1 (loadFuses s) else s
    | .firmwareFail =>
      if s.start.stage = 0 then stallStage 1 { loadFuses s with tru.idOk := true }
      else if s.start.stage = 1 then stallStage 1 { performCut false s with tru.fwOk := false }
      else s
    | .regulatorFail => if s.start.stage = 1 then regulatorFailed s else s
    | .trainingFail m => if s.start.stage = 2 then stacksFail 5 m s else s
    | .testFail m => if s.start.stage = 2 then stacksFail 6 m s else s) := by
  have open_ : ¬ (!s.start.vaux || !s.start.sysRst || !s.start.stageRunning || s.start.stalled) = true := by
    rw [runs.vaux, runs.reset, runs.running, runs.free]
    exact Bool.false_ne_true
  exact congrArg Host.Outcome.next (if_neg open_)

theorem stageDone_zero (zero : s.start.stage = 0) : stageDone s = stageZeroDone s := by
  simp only [stageDone, zero]

theorem stageDone_one (one : s.start.stage = 1) : stageDone s =
    startStage 2 { s with start.regulatorFails := 0, mgmt.hubVersion := bankVersion 1 s.mgmt.hubBank s } := by
  simp only [stageDone, one]

theorem stageDone_two (two : s.start.stage = 2) (mounted : s.fsh.mounted = true ∨ s.fsh.skipped = true)
    (free : s.fsh.stalled = false) : stageDone s = startStage 3 (chainsTrained (memoriesClear s)) := by
  simp only [stageDone, two]
  exact if_pos (by simpa [free] using mounted)

theorem stageDone_three (three : s.start.stage = 3)
    (finished : (∀ p < 8, (fport p s).st = .up) ∨ s.start.stageAt + 40000000 ≤ s.time.elapsed) : stageDone s = startStage 4 s := by
  simp only [stageDone, three]
  refine if_pos ?_
  rw [Bool.or_eq_true, List.all_eq_true, decide_eq_true_eq]
  exact finished.imp_left fun up p hp => beq_iff_eq.mpr (up p (List.mem_range.mp hp))

theorem stageDone_four (four : s.start.stage = 4) (sealed_ : s.plt.st = .sealed) : stageDone s = startStage 5 s := by
  simp only [stageDone, four]
  exact if_pos sealed_

theorem stageDone_five (five : s.start.stage = 5) (runs : s.time.run = 2) : stageDone s = { s with
    start.stage := 6, start.stageRunning := false, tru.scrubs := s.tru.scrubs.map fun x => { x with running := !x.failed } } := by
  simp only [stageDone, five]
  exact if_pos runs

theorem stageZeroDone_boots {a b : Nat} (first : bootBank 0 s.mgmt.tcNext (loadFuses s) = some a)
    (second : bootBank 1 s.mgmt.hubNext (loadFuses s) = some b) :
    (stageZeroDone s).start.stage0Done = true ∧ (stageZeroDone s).start.stageRunning = false ∧ (stageZeroDone s).mgmt.tcBank = a ∧
      (stageZeroDone s).mgmt.hubBank = b ∧ (stageZeroDone s).tru.idOk = true ∧ (stageZeroDone s).tru.fwOk = true := by
  have first' : bootBank 0 (loadFuses s).mgmt.tcNext (loadFuses s) = some a := first
  have second' : bootBank 1 (loadFuses s).mgmt.hubNext (loadFuses s) = some b := second
  simp only [stageZeroDone, first', second', and_self]

/-- The registers of start, the memories and the residency tables. -/
def startAndMemories (s : State) : StartState × MemState × ResState := (s.start, s.mem, s.res)

theorem startAndMemories_chainsTrained (s : State) : startAndMemories (chainsTrained s) = startAndMemories s := by
  refine foldl_leaves (g := startAndMemories) (fun t g => ?_) _ s
  exact ite_leaves rfl rfl

theorem startAndMemories_trainPort (s : State) (p : Nat) : startAndMemories (trainPort s p) = startAndMemories s :=
  ite_leaves rfl rfl

/-- Stage 3 starts on empty memories (R392). -/
theorem startStage_three_clear (s : State) : startAndMemories (startStage 3 (chainsTrained (memoriesClear s))) =
    ({ s.start with stage := 3, stageRunning := true, stageAt := (chainsTrained (memoriesClear s)).time.elapsed
                    stalled := false, cause := 0 },
      (memoriesClear s).mem, (memoriesClear s).res) := by
  refine (foldl_leaves startAndMemories_trainPort _ _).trans ?_
  have kept := startAndMemories_chainsTrained (memoriesClear s)
  generalize chainsTrained (memoriesClear s) = t at kept ⊢
  simp only [startAndMemories, Prod.mk.injEq] at kept ⊢
  obtain ⟨start, mem, res⟩ := kept
  rw [start, mem, res]
  exact ⟨rfl, rfl, rfl⟩

end stages

/-- Settles O40: the supplies, the reset and the stages by the lemma for each, and cuts by `cutKeys_frame`. -/
theorem startUpAndCuts : Obligations.StartUpAndCuts := by
  unfold Obligations.StartUpAndCuts
  refine ⟨?_, ?_, ?_, ?_, ?_, ?_, ?_, ?_, ?_, ?_, ?_, ?_, ?_, ?_, ?_, ?_, ?_, ?_, ?_, ?_, ?_⟩
  · intro mv ns smb b s least most off high
    have starts : execVauxInRangeState mv ns b smb s = startZero b smb { s with start.vaux := true } :=
      (if_neg (by omega)).trans ((if_neg (by omega)).trans ((if_pos (by simp [least, most, off])).trans (if_pos high)))
    exact ⟨_, congrArg Host.Outcome.next starts, rfl, rfl, rfl, rfl, rfl, rfl, rfl⟩
  · intro mv ns smb b s low long on
    have off : execVauxInRangeState mv ns b smb s = allOff s :=
      (if_neg (by omega)).trans ((if_pos low).trans (if_pos (by simp [on, long])))
    exact congrArg Host.Outcome.next off
  · intro mv ns s on outside long
    refine congrArg Host.Outcome.next ?_
    have bad : decide (11400 ≤ mv ∧ mv ≤ 12600) = false := decide_eq_false (by omega)
    simp only [execVinMainRangeState, bad]
    exact (if_neg (by simp [on])).trans (if_pos (by simp [outside, long]))
  · intro mv ns s least most
    refine congrArg Host.Outcome.next ?_
    have good : decide (11400 ≤ mv ∧ mv ≤ 12600) = true := decide_eq_true ⟨least, most⟩
    simp only [execVinMainRangeState, good]
    exact if_pos (Bool.or_true _)
  · intro b smb n s low vaux
    have starts : execSysRstNState true n b smb s = startZero b smb { s with start.sysRst := true } :=
      (if_pos rfl).trans ((if_neg (by simp [low])).trans (if_pos vaux))
    exact ⟨_, congrArg Host.Outcome.next starts, rfl, rfl, rfl, rfl, rfl⟩
  · intro b smb n s short
    exact congrArg Host.Outcome.next ((if_neg Bool.false_ne_true).trans (if_pos (by simp [short])))
  · intro s zero done free steady quiet flows
    exact ⟨_, congrArg Host.Outcome.next (if_pos ⟨zero, done, by simp [free], steady, quiet, flows⟩), rfl, rfl, rfl⟩
  · intro s vaux reset running free four sealed_
    refine ⟨_, (stageComplete_runs ⟨vaux, reset, running, free⟩ .done).trans (congrArg _ (stageDone_four four sealed_)), ?_⟩
    exact ⟨rfl, rfl, rfl, rfl⟩
  · intro s vaux reset running free five runs
    refine ⟨_, (stageComplete_runs ⟨vaux, reset, running, free⟩ .done).trans (congrArg _ (stageDone_five five runs)), ?_⟩
    exact ⟨rfl, rfl⟩
  · intro m s vaux reset running free two some_
    exact (stageComplete_runs ⟨vaux, reset, running, free⟩ (.trainingFail m)).trans
      (congrArg Host.Outcome.next ((if_pos two).trans (if_neg some_)))
  · intro s two stalled gravers
    exact congrArg Host.Outcome.next (if_pos ⟨two, stalled, gravers⟩)
  · intro s two stalled vaults
    exact congrArg Host.Outcome.next (if_neg fun h => Nat.not_lt.mpr vaults h.2.2)
  · intro s zero stalled four
    exact congrArg Host.Outcome.next (if_pos ⟨zero, stalled, four⟩)
  · intro s on
    refine ⟨_, congrArg Host.Outcome.next (if_pos on), ?_⟩
    obtain ⟨mainOff_, zero, trip⟩ := performCut_start false s
    refine ⟨mainOff_, zero, trip.trans (Bool.or_false _), ?_⟩
    obtain ⟨tdis, scrubs, ctr, flt, cut⟩ := cutKeys_frame s
    have cut_ : performCut false s = { mainOff (cutKeys s) with start := (performCut false s).start } := rfl
    rw [cut_, cut]
    exact ⟨rfl, rfl, rfl, rfl, rfl, rfl, rfl, rfl, rfl, rfl, rfl, rfl, rfl, rfl, rfl, rfl, rfl, rfl, rfl, rfl⟩
  · intro mv ns smb b s high
    have free : execVauxInRangeState mv ns b smb s = if (pick 2 s).1 = 0 then (pick 2 s).2 else allOff (pick 2 s).2 := if_pos high
    by_cases stays : (pick 2 s).1 = 0
    · exact Or.inl (congrArg Host.Outcome.next (free.trans (if_pos stays)))
    · exact Or.inr (congrArg Host.Outcome.next (free.trans (if_neg stays)))
  · intro mv ns s on outside brief first
    refine congrArg Host.Outcome.next ?_
    have bad : decide (11400 ≤ mv ∧ mv ≤ 12600) = false := decide_eq_false (by omega)
    simp only [execVinMainRangeState, bad]
    refine (if_neg (by simp [on])).trans ((if_neg ?_).trans (if_neg (by simp [first])))
    simp only [Bool.and_eq_true, Bool.or_eq_true, decide_eq_true_eq]
    omega
  · intro b smb n s long high
    refine congrArg Host.Outcome.next ((if_neg Bool.false_ne_true).trans (if_neg ?_))
    simp [high, long]
  · intro s vaux reset running free one
    have completes := stageComplete_runs ⟨vaux, reset, running, free⟩
    refine ⟨(completes .done).trans (congrArg _ (stageDone_one one)),
      (completes .regulatorFail).trans (congrArg _ (if_pos one)), _,
      (completes .firmwareFail).trans (congrArg _ ((if_neg (by omega)).trans (if_pos one))), rfl, rfl, rfl⟩
  · intro s vaux reset running free two mounted unstalled
    refine ⟨_, (stageComplete_runs ⟨vaux, reset, running, free⟩ .done).trans
      (congrArg _ (stageDone_two two mounted unstalled)), ?_⟩
    have starts := startStage_three_clear s
    generalize startStage 3 (chainsTrained (memoriesClear s)) = t at starts ⊢
    simp only [startAndMemories, Prod.mk.injEq] at starts
    obtain ⟨start, mem, res⟩ := starts
    rw [start, mem, res]
    exact ⟨rfl, rfl, rfl, rfl, rfl, rfl⟩
  · intro s vaux reset running free three finished
    exact (stageComplete_runs ⟨vaux, reset, running, free⟩ .done).trans (congrArg _ (stageDone_three three finished))
  · intro a b s vaux reset running free zero first second
    exact ⟨_, (stageComplete_runs ⟨vaux, reset, running, free⟩ .done).trans (congrArg _ (stageDone_zero zero)),
      stageZeroDone_boots first second⟩

end Sys2Proof.Proofs

/-! ## Firmware update (17_management_and_registers.md) -/

namespace Sys2Proof.Proofs

open Sys2Proof Sys2Proof.Machine Sys2Proof.Safety

section update

variable {s : State}

/-- The bank that the update in progress writes, and what it holds (R449). -/
def written (s : State) : Bank := bankOf s.mgmt.component (spareBank s.mgmt.component s) s

/-- The SVN that the fuses ask of the component in progress (R361). -/
def fuseFor (s : State) : Nat := if s.mgmt.component = 0 then s.tru.svnTc else s.tru.svnHub

theorem verifyComponent_decides (up : trustUp s = true) (verifying : s.mgmt.update = .verify) : exec .verifyComponent s = .next
    (if (written s).signatureOk && decide (fuseFor s ≤ (written s).svn) then
      answerPldm 0 [] (setBank s.mgmt.component (spareBank s.mgmt.component s) { written s with valid := true }
        { s with mgmt.update := .apply })
    else answerPldm 1 [] (countEvent cUpdateFail unitNode
      (setBank s.mgmt.component (spareBank s.mgmt.component s) { written s with valid := false }
        { s with mgmt.update := .ready, mgmt.verifyFailed := true }))) :=
  congrArg Host.Outcome.next (if_neg (by simp [up, verifying]))

theorem applyComplete_marks (up : trustUp s = true) (applying : s.mgmt.update = .apply) : exec .applyComplete s = .next
    (if s.mgmt.component = 0 then { s with mgmt.update := .ready, mgmt.tcNext := spareBank s.mgmt.component s }
    else { s with mgmt.update := .ready, mgmt.hubNext := spareBank s.mgmt.component s }) :=
  congrArg Host.Outcome.next (if_neg (by simp [up, applying]))

/-- What a PLDM answer changes: the message it answers, and what is sent. -/
theorem answerPldm_frame (code : Nat) (body : List Byte) (s : State) : ∃ messages out,
    answerPldm code body s = { s with mgmt.messages := messages, out := out } := by
  unfold answerPldm takeMessage
  split <;> exact ⟨_, _, rfl⟩

end update

/-- Settles O47, with `verifyComponent_decides` for the verification. -/
theorem firmwareUpdate : Obligations.FirmwareUpdate := by
  unfold Obligations.FirmwareUpdate
  refine ⟨?_, ?_, ?_, ?_, ?_, ?_, ?_, ?_, ?_, ?_⟩
  · intro s up idle
    exact congrArg Host.Outcome.next ((if_neg (by simp [up])).trans (if_neg (by simp [idle])))
  · intro s up busy
    exact congrArg Host.Outcome.next ((if_neg (by simp [up])).trans (if_pos busy))
  · intro k image svn v ok s up open_ known size small
    refine congrArg Host.Outcome.next ((if_neg ?_).trans ?_)
    · have learning : (s.mgmt.update == .learn || s.mgmt.update == .ready) = true := by simpa using open_
      have component : (k + 1 == 1 || k + 1 == 2) = true := by simp; omega
      rw [up, learning, component, decide_eq_false (Nat.not_lt.mpr size)]
      exact Bool.false_ne_true
    · simp only [Nat.mod_eq_of_lt small]
      rfl
  · intro s up verifying signed least
    refine (verifyComponent_decides up verifying).trans (congrArg _ (if_pos ?_))
    exact Bool.and_eq_true_iff.mpr ⟨signed, decide_eq_true least⟩
  · intro s up verifying fails
    refine ⟨_, (verifyComponent_decides up verifying).trans (congrArg _ (if_neg ?_)), ?_⟩
    · rw [Bool.and_eq_true_iff, decide_eq_true_eq]
      rintro ⟨signed, least⟩
      exact fails.elim (fun unsigned => Bool.false_ne_true (unsigned.symm.trans signed)) (Nat.not_lt.mpr least)
    · have tallied := ctrGet_countEvent cUpdateFail unitNode (setBank s.mgmt.component (spareBank s.mgmt.component s)
        { written s with valid := false } { s with mgmt.update := .ready, mgmt.verifyFailed := true }) (by decide)
      obtain ⟨messages, out, answered⟩ := answerPldm_frame 1 [] (countEvent cUpdateFail unitNode
        (setBank s.mgmt.component (spareBank s.mgmt.component s) { written s with valid := false }
          { s with mgmt.update := .ready, mgmt.verifyFailed := true }))
      rw [answered]
      refine ⟨?_, ?_, ?_, tallied⟩ <;> simp [setBank, written]
  · intro s up applying core
    refine (applyComplete_marks up applying).trans (congrArg _ ((if_pos core).trans ?_))
    rw [core]
    rfl
  · intro s up applying hub
    exact (applyComplete_marks up applying).trans (congrArg _ (if_neg hub))
  · intro s up ready
    have open_ : ¬ (!trustUp s || s.mgmt.update != .ready) = true := by simp [up, ready]
    exact ⟨congrArg Host.Outcome.next ((if_neg open_).trans (if_pos rfl)),
      congrArg Host.Outcome.next ((if_neg open_).trans (if_neg Bool.false_ne_true))⟩
  · intro s up busy
    exact congrArg Host.Outcome.next (if_pos (by simp [up, busy]))
  · intro s up busy silent
    exact congrArg Host.Outcome.next (if_pos (by simp [up, busy, silent]))

end Sys2Proof.Proofs

/-! ## Power samples, the cap, temperatures and the coolant (15_start_power_cooling.md) -/

namespace Sys2Proof.Proofs

open Sys2Proof Sys2Proof.Machine Sys2Proof.Safety

/-! ### What entering hold mode leaves of the counters and of the window of errors (R434) -/

section ledger

variable {c : Ctr}

/-- A counter that no work counts as it ends. -/
structure NotOfWork (c : Ctr) : Prop where
  merges : c.key ≠ cColMerges.key
  collapsed : c.key ≠ cCovCollapsed.key
  late : c.key ≠ cSourceLate.key
  mismatch : c.key ≠ cMismatch.key
  aborted : c.key ≠ cDeltasAborted.key

/-- The errors that stand in the window, and one counter. -/
def ledger (c : Ctr) (s : State) : List (Nat × Nat) × Nat := (s.flt.ueSeen, ctrGet c s)

theorem ledger_logRecord (r : Record) (s : State) : ledger c (logRecord r s) = ledger c s := ite_leaves rfl rfl

theorem look_put_other {α : Type} [DecidableEq α] (d : α) (m : Store α) (k j : Nat) (v : α) (apart : j ≠ k) :
    look d (put d m k v) j = look d m j := by
  by_cases plain : v = d
  · subst plain
    induction m with
    | nil => simp [put_nil]
    | cons x t ih =>
      obtain ⟨k', v'⟩ := x
      rw [put_cons]
      split
      · simp
      · split
        case isTrue _ same =>
          subst same
          simp [Ne.symm apart]
        case isFalse => simp [ih]
  · exact look_put_other_ne m k j plain apart

theorem ledger_countEvent {d : Ctr} (wide : 0 < d.width) (apart : c.key ≠ d.key) (unit : Nat) (s : State) :
    ledger c (countEvent d unit s) = ledger c s := by
  have seen : (countEvent d unit s).flt.ueSeen = s.flt.ueSeen :=
    (congrArg Prod.fst (ledger_logRecord (c := c) _ (tally d s)) :)
  exact Prod.ext seen (ctrGet_countEvent_other d c unit s wide apart)

theorem ledger_handOver (r : Req) (i : ImprMsg) (s : State) : ledger c (handOver r i s) = ledger c s := by
  have noted : ledger c (noteClosed r s) = ledger c s := ite_leaves rfl rfl
  rw [← noted]
  unfold handOver
  generalize noteClosed r s = t
  dsimp only
  split
  · rw [hostImpr, endCommand_frame, b2Write_frame]
    rfl
  · rw [queueMsg_frame]
    rfl
  · rfl

theorem ledger_countMerges (apart : NotOfWork c) (n : Nat) (e : ColEntry) (s : State) :
    ledger c (countMerges n e s).2 = ledger c s :=
  Prod.ext rfl (look_put_other 0 _ _ _ _ apart.merges)

theorem ledger_answerEntry (apart : NotOfWork c) (r : Req) (e : ColEntry) (codes : List Nat) (s : State) :
    ledger c (answerEntry r e codes s) = ledger c s := by
  have sent (extra : List Cov) (t : State) : ledger c (sendResult r e extra codes t) = ledger c t :=
    (ledger_handOver ..).trans ((ledger_countMerges apart ..).trans
      (ite_leaves (ledger_countEvent (by decide) apart.collapsed ..) rfl))
  exact (sent ..).trans (ite_leaves (foldl_leaves (fun t _ => ledger_countEvent (by decide) apart.late _ t) _ s) rfl)

theorem ledger_joinArrival (apart : NotOfWork c) (r : Req) (e : ColEntry) (a : Arrival) (bad : List Nat) (s : State) :
    ledger c (joinArrival r e a bad s).2 = ledger c s := by
  have refused (x : ColEntry × State) (a : Arrival) : ledger c (refuseSource r x a).2 = ledger c x.2 :=
    ledger_countEvent (by decide) apart.mismatch ..
  exact ite_leaves (g := fun x : ColEntry × State => ledger c x.2) rfl <|
    ite_leaves (g := fun x : ColEntry × State => ledger c x.2) (refused (e, s) a) <|
      (ledger_countMerges apart ..).trans (foldl_leaves (g := fun x : ColEntry × State => ledger c x.2) refused _ _)

theorem ledger_joined (apart : NotOfWork c) (r : Req) (l : List Arrival) (x : ColEntry × State) :
    ledger c (l.foldl (fun x a => joinArrival r x.1 a [] x.2) x).2 = ledger c x.2 :=
  foldl_leaves (g := fun x : ColEntry × State => ledger c x.2) (fun x a => ledger_joinArrival apart r x.1 a [] x.2) l x

theorem ledger_endRequest (apart : NotOfWork c) (status : Nat) (s : State) (r : Req) :
    ledger c (endRequest status s r) = ledger c s := by
  unfold endRequest
  cases r.phase with
  | taken | answered => rfl
  | checked | lookups => exact (ledger_answerEntry apart ..).trans (ledger_joined apart ..)
  | dispatched =>
    exact (ledger_answerEntry apart ..).trans ((ledger_joined apart ..).trans (ledger_joined apart ..))

theorem ledger_endMoveOut (m : MoveOut) (status : Nat) (s : State) : ledger c (endMoveOut m status s) = ledger c s := by
  rw [endMoveOut, settle_frame, finishCmd_frame]
  rfl

theorem ledger_endOp (o : ResOp) (status : Nat) (s : State) : ledger c (endOp o status s) = ledger c s := by
  obtain ⟨_, ends⟩ := endOp_frame o status s
  rw [ends]
  rfl

theorem ledger_fenceWork (s : State) : ledger c (fenceWork s) = ledger c s := by
  have posted (t : State) : ledger c (postDrops t) = ledger c t := by
    unfold postDrops
    refine foldl_leaves (fun s d => ?_) _ _
    rfl
  exact (posted _).trans <|
    (foldl_leaves (f := slotAwaits) (fun _ _ => rfl) _ _).trans <|
      (foldl_leaves (fun s o => ledger_endOp o stFenced s) _ _).trans
        (foldl_leaves (fun s m => ledger_endMoveOut m stFenced s) _ s)

theorem ledger_enterHold (apart : NotOfWork c) (cause : Nat) (s : State) : ledger c (enterHold cause s) = ledger c s := by
  have aborted (u : State) : ledger c (abortDelta u) = ledger c u := ledger_countEvent (by decide) apart.aborted ..
  have ended (u : State) : ledger c (fenceWork (u.sch.reqs.foldl (endRequest stPageAbsent) u)) = ledger c u :=
    (ledger_fenceWork _).trans (foldl_leaves (ledger_endRequest apart stPageAbsent) _ _)
  have effects (u : State) : ledger c (holdEffects u) = ledger c u := by
    unfold holdEffects
    dsimp only
    rw [ended]
    cases u.plt.phase with
    | armed | committed => exact aborted _
    | idle | loaded => rfl
  exact ite_leaves (g := ledger c) rfl (effects _)

end ledger

/-! ### Power samples (R396 to R398) -/

section samples

variable {w da mv : Nat} {s : State}

/-- The state in which the cap that was written last is in force. -/
def capped (s : State) : State := { s with pwr.capEff := min 3200 (max 1200 s.pwr.cap) }

/-- The samples in a row above 3,200 W at full demand (R398). -/
def fullSamples (w da : Nat) (s : State) : Nat :=
  if (nextDemand w da (capped s)).1 = 15 ∧ 3200 < w then s.pwr.at15 + 1 else 0

/-- The power registers after a sample. -/
def sampled (w da mv : Nat) (s : State) : State :=
  let d := nextDemand w da (capped s)
  let p := (capped s).pwr
  { s with pwr := { p with
      demand := d.1, below := d.2, at15 := fullSamples w da s, vin := mv, iin := da, lastWatts := w
      sumPass := p.sumPass + w, numPass := p.numPass + 1, sumSec := p.sumSec + w, numSec := p.numSec + 1
      sumTel := p.sumTel + w, numTel := p.numTel + 1 } }

/-- A sample, with the rise of the demand counted. -/
def limited (w da mv : Nat) (s : State) : State :=
  if s.pwr.demand < (nextDemand w da (capped s)).1 then countEvent cCapLimit unitNode (sampled w da mv s) else sampled w da mv s

theorem powerSample_runs (on : s.start.vaux = true) : exec (.powerSample w da mv) s = .next
    (let t := if 2800 < da then countEvent cCurrentLimit unitNode (limited w da mv s) else limited w da mv s
     if fullSamples w da s = 1000 then raise fPowerHold unitNode [] t else t) :=
  congrArg Host.Outcome.next (if_neg (by simp [on]))

theorem powerSample_counts (on : s.start.vaux = true) (low : da ≤ 2800)
    (calm : ¬ ((nextDemand w da (capped s)).1 = 15 ∧ 3200 < w)) :
    exec (.powerSample w da mv) s = .next (limited w da mv s) := by
  have none_ : fullSamples w da s = 0 := if_neg calm
  rw [powerSample_runs on, none_, if_neg (Nat.not_lt.mpr low)]
  rfl

theorem nextDemand_far (far : plimit (capped s) + 200 < w) :
    nextDemand w da (capped s) = (min 15 (s.pwr.demand + 4), 0) := if_pos (Or.inl far)

theorem nextDemand_above (low : da ≤ 2800) (near : w ≤ plimit (capped s) + 200) (above : plimit (capped s) < w) :
    nextDemand w da (capped s) = (min 15 (s.pwr.demand + 1), 0) :=
  (if_neg (by omega)).trans (if_pos above)

theorem nextDemand_within (low : da ≤ 2800) (below : w ≤ plimit (capped s)) (close : 95 * plimit (capped s) ≤ 100 * w) :
    nextDemand w da (capped s) = (s.pwr.demand, 0) :=
  (if_neg (by omega)).trans ((if_neg (Nat.not_lt.mpr below)).trans (if_neg (Nat.not_lt.mpr close)))

theorem nextDemand_falls (low : da ≤ 2800) (below : 100 * w < 95 * plimit (capped s)) (last : s.pwr.below = 63) :
    nextDemand w da (capped s) = (s.pwr.demand - 1, 0) := by
  have counted : ¬ (capped s).pwr.below + 1 < 64 := by
    change ¬ s.pwr.below + 1 < 64
    omega
  exact (if_neg (by omega)).trans ((if_neg (by omega)).trans ((if_pos below).trans (if_neg counted)))

end samples

/-! ### Temperatures and the coolant (R401, R402, R404, R405) -/

section heat

variable {st d : Nat} {x : Int} {s : State}

theorem setHeat_frame (st : Nat) (v : StackThermal) (s : State) : ∃ h, setHeat st v s = { s with
    pwr.stacks8 := put {} s.pwr.stacks8 st h } ∧ h.temp = v.temp ∧ h.band = v.band ∧ h.demand = v.demand := by
  unfold setHeat
  dsimp only
  split
  · exact ⟨v, rfl, rfl, rfl, rfl⟩
  · exact ⟨{ v with demandAt := s.time.elapsed }, rfl, rfl, rfl, rfl⟩

theorem clearCause_frame (b : Nat) (s : State) : ∃ cause, clearCause b s = { s with pwr.holdCause := cause } := by
  unfold clearCause
  split <;> exact ⟨_, rfl⟩

theorem clearThermal_frame (s : State) : ∃ cause, clearThermal s = { s with pwr.holdCause := cause } := by
  unfold clearThermal
  split
  · exact clearCause_frame ..
  · exact ⟨_, rfl⟩

theorem dramTempSample_cuts (hot : 105 < x) (on : s.start.mainOn = true) : ∃ v,
    exec (.dramTempSample st x) s = .next (performCut true (setHeat st v s)) :=
  ⟨_, congrArg Host.Outcome.next (if_pos ⟨hot, on⟩)⟩

/-- A stack's reading takes its band at the next pass boundary, not here (R401). -/
theorem dramTempSample_reads (cool : x ≤ 105) : ∃ since next, exec (.dramTempSample st x) s =
    .next (clearThermal (setHeat st { stackHeat st s with temp := x, hotSince := since, next := next } s)) :=
  ⟨_, _, congrArg Host.Outcome.next (if_neg fun h => absurd h.1 (Int.not_lt.mpr cool))⟩

theorem junctionCritical_cool (unit : Nat) (s : State) : junctionCritical unit none s = clearThermal s :=
  if_neg Bool.false_ne_true

theorem clearThermal_hub (warm : 98 < s.pwr.hubJunction) : clearThermal s = s := by
  refine if_neg ?_
  rw [decide_eq_false (Int.not_le.mpr warm), Bool.and_false]
  exact Bool.false_ne_true

theorem junctionSample_cuts (hot : 120 ≤ x) (on : s.start.mainOn = true) : ∃ t,
    exec (.junctionTemperatureSample d x) s = .next (performCut true t) := by
  by_cases base_ : d < 6
  · exact ⟨setHeat d { stackHeat d s with
      junction := x, junctionHot := if 110 ≤ x then some ((stackHeat d s).junctionHot.getD s.time.elapsed) else none } s,
      congrArg Host.Outcome.next ((if_pos base_).trans (if_pos ⟨hot, on⟩))⟩
  · exact ⟨{ s with
      pwr.hubJunction := x, pwr.hubHot := if 110 ≤ x then some (s.pwr.hubHot.getD s.time.elapsed) else none },
      congrArg Host.Outcome.next ((if_neg base_).trans (if_pos ⟨hot, on⟩))⟩

/-- A thermal cut ends with the regulators off, THERMTRIP_N driven, and no plate (R386). -/
theorem performCut_thermal (s : State) : (performCut true s).start.mainOn = false ∧ (performCut true s).start.thermTrip = true ∧
    (performCut true s).plt = {} := by
  obtain ⟨off, -, trip⟩ := performCut_start true s
  exact ⟨off, trip.trans (Bool.or_true _), rfl⟩

theorem performCut_tier (thermal : Bool) (s : State) : (performCut thermal s).mem.tier = s.mem.tier := by
  obtain ⟨tdis, scrubs, ctr, flt, cut⟩ := cutKeys_frame (if thermal then tally cShutdown s else s)
  have kept : (if thermal then tally cShutdown s else s).mem = s.mem := ite_leaves (g := State.mem) rfl rfl
  change (cutKeys (if thermal then tally cShutdown s else s)).mem.tier = _
  rw [cut, kept]

/-- The coolant registers after a window (R404). -/
def flowed (x : CoolSample) (s : State) : State :=
  let now := s.time.elapsed
  let c := s.cool
  { s with cool := { c with
      inTop := x.inTop.toNat, outTop := x.outTop.toNat, inBot := x.inBot.toNat, outBot := x.outBot.toNat
      flowTop := x.flowTop, flowBot := x.flowBot, warn := coolantBad x s, windows := 1
      warnSince := if coolantBad x s && !c.warn then now else c.warnSince
      lastWarn := if coolantBad x s then some now else c.lastWarn
      lowFlowSince := if x.flowTop < 50 ∨ x.flowBot < 50 then some (c.lowFlowSince.getD (now - secStrokes)) else none } }

theorem flowWindow_reads (x : CoolSample) (vaux : s.start.vaux = true) (reset : s.start.sysRst = true) :
    exec (.flowWindow x) s = .next (if coolantBad x s && !s.cool.warn && s.start.mainOn then
        raise fCoolant unitNode [] (tally cCoolantWarn (flowed x s))
      else if coolantQuiet (secs 10) (flowed x s) then clearCause 1 (flowed x s)
      else flowed x s) :=
  congrArg Host.Outcome.next (if_neg (by simp [vaux, reset]))

/-- A flow below 0.5 L/min is a warning (R404). -/
theorem coolantBad_flow {x : CoolSample} (low : x.flowTop < 50 ∨ x.flowBot < 50) : coolantBad x s = true := by
  rcases low with low | low
  · simp [coolantBad, topLow, low]
  · simp [coolantBad, botLow, low]

theorem enterHold_cool (cause : Nat) (s : State) : (enterHold cause s).cool = s.cool := by
  have cool := congrArg State.cool (besideWork_enterHold cause s)
  exact cool

/-- The coolant fault enters hold mode with its cause bit, and counts one warning (R405, R412). -/
theorem coolantFault_holds (s : State) :
    (raise fCoolant unitNode [] (tally cCoolantWarn s)).cool = s.cool ∧
      (raise fCoolant unitNode [] (tally cCoolantWarn s)).pwr.hold = true ∧
      bit (raise fCoolant unitNode [] (tally cCoolantWarn s)).pwr.holdCause 1 = true ∧
      ctrGet cCoolantWarn (raise fCoolant unitNode [] (tally cCoolantWarn s)) =
        min (2 ^ cCoolantWarn.width - 1) (ctrGet cCoolantWarn s + 1) := by
  rw [raise_hold (code := fCoolant) rfl, enterHold_pwr]
  refine ⟨?_, rfl, bit_or_pow _ 1, ?_⟩
  · rw [enterHold_cool, raiseRecord_frame]
    rfl
  · have kept : ctrGet cCoolantWarn (enterHold 1 (raiseRecord fCoolant unitNode [] (tally cCoolantWarn s))) =
        ctrGet cCoolantWarn (raiseRecord fCoolant unitNode [] (tally cCoolantWarn s)) :=
      congrArg Prod.snd (ledger_enterHold ⟨by decide, by decide, by decide, by decide, by decide⟩ 1 _)
    rw [kept, ctrGet_raiseRecord_other (by decide)]
    exact ctrGet_tallyBy 1 cCoolantWarn s (by decide) (by decide)

theorem coolantCut_cuts (hold : s.pwr.hold = true)
    (due : (s.cool.warn = true ∧ s.cool.warnSince + 240000000 ≤ s.time.elapsed) ∨
      ∃ n, s.cool.lowFlowSince = some n ∧ n + 40000000 ≤ s.time.elapsed) :
    exec .coolantCut s = .next (performCut true s) := by
  refine congrArg Host.Outcome.next (if_pos ⟨hold, due.imp_right ?_⟩)
  rintro ⟨n, since, late⟩
  rw [since]
  exact decide_eq_true late

end heat

/-- Settles O41: power samples by `powerSample_counts`, temperatures and flows by the lemma for each, and the coolant fault's
entry into hold mode by `ledger_enterHold`. -/
theorem powerAndHeat : Obligations.PowerAndHeat := by
  unfold Obligations.PowerAndHeat
  refine ⟨?_, ?_, ?_, ?_, ?_, ?_, ?_, ?_, ?_, ?_, ?_, ?_, ?_, ?_, ?_⟩
  · intro w da mv s on far low calm room
    have demand := nextDemand_far (s := s) (da := da) far
    refine ⟨_, (powerSample_counts on low ?_).trans (congrArg _ (if_pos ?_)), ?_⟩
    · rw [demand]
      dsimp only
      omega
    · rw [demand]
      dsimp only
      omega
    · have tallied := ctrGet_countEvent cCapLimit unitNode (sampled w da mv s) (by decide)
      refine ⟨?_, ?_, ?_, ?_, tallied, ?_⟩
      · simp [sampled, demand]
      · simp [sampled]
      · simp [sampled]
      · simp [sampled]
      · rw [countEvent_frame]
        rfl
  · intro w da mv s on under low last most
    have demand := nextDemand_falls (s := s) low under last
    refine ⟨_, (powerSample_counts on low ?_).trans (congrArg _ (if_neg ?_)), ?_, ?_, rfl⟩
    · rw [demand]
      dsimp only
      omega
    · rw [demand]
      dsimp only
      omega
    · exact congrArg Prod.fst demand
    · exact congrArg Prod.snd demand
  · intro w s
    rfl
  · intro st x s hot on
    obtain ⟨v, cuts⟩ := dramTempSample_cuts (st := st) hot on
    obtain ⟨off, trip, plt⟩ := performCut_thermal (setHeat st v s)
    exact ⟨_, cuts, off, trip, plt, performCut_tier true (setHeat st v s)⟩
  · intro st x s cool
    obtain ⟨since, next, reads⟩ := dramTempSample_reads (st := st) (s := s) cool
    obtain ⟨h, heated, temp, band, demand⟩ :=
      setHeat_frame st { stackHeat st s with temp := x, hotSince := since, next := next } s
    obtain ⟨cause, cleared⟩ := clearThermal_frame
      (setHeat st { stackHeat st s with temp := x, hotSince := since, next := next } s)
    refine ⟨_, h, reads, ?_⟩
    rw [cleared, heated]
    exact ⟨rfl, temp, band, demand, rfl⟩
  · intro d x s hot on
    obtain ⟨t, cuts⟩ := junctionSample_cuts (d := d) hot on
    exact ⟨_, cuts, performCut_thermal t⟩
  · intro d x s hub cool warm
    refine congrArg Host.Outcome.next ((if_neg (Nat.not_lt.mpr hub)).trans ?_)
    dsimp only
    rw [if_neg (Int.not_le.mpr cool), if_neg fun h => absurd h.1 (by omega), junctionCritical_cool]
    exact clearThermal_hub warm
  · intro st s known rising room waited
    refine congrArg Host.Outcome.next ((if_neg (Nat.not_le.mpr known)).trans (if_pos ⟨rising, room, ?_⟩))
    exact decide_eq_true waited
  · intro x s vaux reset bad first on
    have reads := flowWindow_reads x vaux reset
    rw [bad, first, on] at reads
    obtain ⟨cool, hold, bit_, counted⟩ := coolantFault_holds (flowed x s)
    refine ⟨_, reads.trans (congrArg _ (if_pos rfl)), ?_, ?_, ?_, ?_, hold, bit_, counted⟩
    · rw [cool]
      exact bad
    · rw [cool]
      exact if_pos (by simp [bad, first])
    · rw [cool]
      rfl
    · rw [cool]
      rfl
  · intro x s vaux reset good calm never clear_
    have reads := flowWindow_reads x vaux reset
    rw [good] at reads
    refine ⟨flowed x s, reads.trans (congrArg _ ((if_neg Bool.false_ne_true).trans (ite_leaves (g := id) ?_ rfl))), ?_, rfl⟩
    · exact if_neg (by simp [flowed, clear_])
    · have enough : ¬ (x.flowTop < 50 ∨ x.flowBot < 50) := fun low => by simp [coolantBad_flow low] at good
      simp [flowed, good, enough, calm, never]
  · intro s hold due
    exact coolantCut_cuts hold due
  · intro s out
    exact congrArg Host.Outcome.next (if_neg (by simp [out]))
  · rintro d x s t base_ cool rfl
    refine congrArg Host.Outcome.next ((if_pos base_).trans ?_)
    dsimp only
    rw [if_neg (Int.not_le.mpr cool), if_neg fun h => absurd h.1 (by omega), junctionCritical_cool]
  · intro st s known falling some_ waited
    refine congrArg Host.Outcome.next ((if_neg (Nat.not_le.mpr known)).trans ((if_neg ?_).trans (if_pos ⟨falling, some_, ?_⟩)))
    · simp [falling]
    · exact decide_eq_true waited
  · rintro w da mv n s on rfl close near low room most
    by_cases above : min 3200 (min 3200 (max 1200 s.pwr.cap)) < w
    · have demand := nextDemand_above (s := s) low near above
      have rises : (nextDemand w da (capped s)).1 = s.pwr.demand + 1 := by
        rw [demand]
        dsimp only
        omega
      refine ⟨_, (powerSample_counts on low (by omega)).trans (congrArg _ (if_pos (by omega))), ?_, ?_⟩
      · rw [if_pos above, countEvent_pwr]
        exact rises
      · rw [countEvent_frame]
        rfl
    · have demand := nextDemand_within (s := s) low (Nat.not_lt.mp above) close
      have stays : (nextDemand w da (capped s)).1 = s.pwr.demand := congrArg Prod.fst demand
      refine ⟨_, (powerSample_counts on low (by omega)).trans (congrArg _ (if_neg (by omega))), ?_, rfl⟩
      rw [if_neg above]
      exact stays

end Sys2Proof.Proofs

/-! ## Counted events and uncorrectable errors (16_faults_and_recovery.md) -/

namespace Sys2Proof.Proofs

open Sys2Proof Sys2Proof.Machine Sys2Proof.Safety

section counted

variable {c d : Ctr} {s : State}

theorem key_ne (hc : c.lo < 64) (hd : d.lo < 64) (apart : (d.off, d.lo) ≠ (c.off, c.lo)) : d.key ≠ c.key := by
  intro same
  refine apart (Prod.ext ?_ ?_) <;>
    · unfold Ctr.key at same
      dsimp only
      omega

/-- The record of a counted event (R470). -/
def countedRecord (c : Ctr) (unit : Nat) (s : State) : Record :=
  ⟨s.time.now, c.cls, 0, eventCode c.cls 0xFF, unit, padTo 40 (leBytes 4 c.off ++ [BitVec.ofNat 8 c.lo])⟩

theorem countEvent_flt_room (unit : Nat) (room : s.flt.fifo.length < 56) : (countEvent c unit s).flt = { s.flt with
    fifo := s.flt.fifo ++ [countedRecord c unit s], fifoPeak := max s.flt.fifoPeak (s.flt.fifo.length + 1) } := by
  have logged : countEvent c unit s = { tally c s with
      flt.fifo := s.flt.fifo ++ [countedRecord c unit s], flt.fifoPeak := max s.flt.fifoPeak (s.flt.fifo.length + 1) } := if_pos room
  rw [logged]
  rfl

theorem countEvent_flt_full (unit : Nat) (full : 56 ≤ s.flt.fifo.length) : (countEvent c unit s).flt = { s.flt with
    fold := upd 0 s.flt.fold c.cls fun n => min 0xFFFF (n + 1), lost := min 0xFFFFFFFF (s.flt.lost + 1)
    lostSinceRead := min 0xFFFFFFFF (s.flt.lostSinceRead + 1) } := by
  have folded : countEvent c unit s = { tally c s with
      flt.fold := upd 0 s.flt.fold c.cls fun n => min 0xFFFF (n + 1), flt.lost := min 0xFFFFFFFF (s.flt.lost + 1)
      flt.lostSinceRead := min 0xFFFFFFFF (s.flt.lostSinceRead + 1) } := if_neg (Nat.not_lt.mpr full)
  rw [folded]
  rfl

end counted

/-- Settles O2: the counter by `ctrGet_countEvent`, the record by `countEvent_flt_room` and `countEvent_flt_full`. -/
theorem countedEvent : Obligations.CountedEvent := by
  unfold Obligations.CountedEvent
  intro c unit s low wide
  refine ⟨ctrGet_countEvent c unit s wide, fun d dlow apart => ?_, fun room => ?_, fun full => ?_, countEvent_frame c unit s⟩
  · exact ctrGet_countEvent_other c d unit s wide (key_ne low dlow apart)
  · exact countEvent_flt_room unit room
  · rw [countEvent_flt_full unit full]
    exact ⟨look_put_self_ne _ _ (Nat.ne_of_gt (Nat.lt_min.mpr ⟨by decide, Nat.succ_pos _⟩)), rfl, rfl⟩

/-! ### The window of uncorrectable errors (R415, R416) -/

section registers

theorem pack_cons (lo w v : Nat) (fs : List (Nat × Nat × Nat)) : pack ((lo, w, v) :: fs) = v % 2 ^ w * 2 ^ lo + pack fs := by
  simp only [pack, List.map_cons, List.sum_cons]

theorem pack_nil : pack [] = 0 := rfl

theorem field_eq (n lo w : Nat) : field n lo w = n / 2 ^ lo % 2 ^ w := rfl

variable {off : Nat} {s : State}

/-- The registers of the fault block (R438). -/
theorem regFields_flt (first : 0x700000 ≤ off) (last : off < 0x701078) : regFields off s = readFlt off s := by
  unfold regFields
  rw [if_neg (by omega), if_neg (by omega), if_neg (by omega), if_neg (by omega), if_neg (by omega), if_neg (by omega),
    if_neg (by omega), if_neg (by omega), if_neg (by omega), if_neg (by omega), if_pos ⟨first, last⟩]

/-- The registers of the power block (R409). -/
theorem regFields_pwr (first : 0x600000 ≤ off) (last : off < 0x601028) : regFields off s = readPwr off s := by
  unfold regFields
  rw [if_neg (by omega), if_neg (by omega), if_neg (by omega), if_neg (by omega), if_neg (by omega), if_neg (by omega),
    if_neg (by omega), if_neg (by omega), if_neg (by omega), if_pos ⟨first, last⟩]

theorem regFields_fltStatus : regFields 0x700000 s =
    pack [(0, 16, s.flt.lastCode), (16, 24, s.flt.lastUnit), (40, 16, (ueRecent s).length)] := by
  rw [regFields_flt (by decide) (by decide)]
  unfold readFlt
  exact if_pos rfl

theorem regFields_pwrStage : regFields 0x600000 s =
    pack [(0, 3, s.start.stage), (3, 1, (stageView s).1), (4, 4, (stageView s).2), (8, 8, s.start.failedStacks),
      (16, 1, b2n s.pwr.hold), (17, 6, s.pwr.holdCause), (32, 32, s.start.nodeStrokes / msStrokes)] := by
  rw [regFields_pwr (by decide) (by decide)]
  unfold readPwr
  exact if_pos rfl

end registers

section window

variable {a x : Nat} {s : State}

/-- What a fault leaves on record beside its trace record: the window, and the code and unit of the last fault. -/
def lastFault (s : State) : List (Nat × Nat) × Nat × Nat := (s.flt.ueSeen, s.flt.lastCode, s.flt.lastUnit)

theorem lastFault_raiseRecord (code unit : Nat) (args : List Byte) (s : State) :
    lastFault (raiseRecord code unit args s) = (s.flt.ueSeen, code, unit) := by
  change lastFault (logRecord _ (tally ctrFaults { s with flt.lastCode := code, flt.lastUnit := unit })) = _
  exact ite_leaves rfl rfl

/-- A DRAM error is told of by a fault that does not enter hold mode. -/
theorem raise_ueData (x : Nat) (s : State) : raise fUeData x [] s = raiseRecord fUeData x [] s := raise_plain rfl x [] s

theorem ueData_tells (x : Nat) (s : State) :
    lastFault (raise fUeData x [] s) = (s.flt.ueSeen, fUeData, x) ∧ (raise fUeData x [] s).pwr = s.pwr := by
  rw [raise_ueData]
  refine ⟨lastFault_raiseRecord .., ?_⟩
  rw [raiseRecord_frame]

theorem wearUe_frame (x : Nat) (s : State) : ∃ wear, wearUe x s = { s with flt.wearIn := wear } := by
  unfold wearUe
  split <;> exact ⟨_, rfl⟩

theorem countUe_known (seen : (ueRecent s).any (fun y => y.1 == a) = true) :
    ∃ wear, countUe a fUeData x [] s = raise fUeData x [] { s with flt.wearIn := wear, flt.ueSeen := ueRecent s } := by
  obtain ⟨wear, counted⟩ := wearUe_frame x s
  unfold countUe
  rw [counted]
  exact ⟨wear, if_pos seen⟩

theorem countUe_new (fresh : (ueRecent s).any (fun y => y.1 == a) = false) : ∃ t,
    t.flt.ueSeen = ueRecent s ++ [(a, passNow s)] ∧ t.pwr = s.pwr ∧ countUe a fUeData x [] s =
      if (ueRecent s).length + 1 = 16 then raise fUeRepeat unitNode [] (raise fUeData x [] t) else raise fUeData x [] t := by
  obtain ⟨wear, counted⟩ := wearUe_frame x s
  unfold countUe
  rw [counted]
  refine ⟨{ s with flt.wearIn := wear, flt.ueSeen := ueRecent s ++ [(a, passNow s)] }, rfl, rfl, ?_⟩
  exact if_neg (fresh ▸ Bool.false_ne_true)

/-- The sixteenth error enters hold mode and stays in the window (R416). -/
theorem ueRepeat_holds (s : State) : (raise fUeRepeat unitNode [] s).flt.ueSeen = s.flt.ueSeen ∧
    (raise fUeRepeat unitNode [] s).flt.lastCode = fUeRepeat ∧ (raise fUeRepeat unitNode [] s).pwr.hold = true ∧
      (raise fUeRepeat unitNode [] s).pwr.holdCause.testBit 3 = true := by
  have told := lastFault_raiseRecord fUeRepeat unitNode [] s
  have kept := congrArg Prod.fst (ledger_enterHold (c := cCoolantWarn) ⟨by decide, by decide, by decide, by decide, by decide⟩ 3
    (raiseRecord fUeRepeat unitNode [] s))
  have code := congrArg (fun t : State => t.flt.lastCode) (besideWork_enterHold 3 (raiseRecord fUeRepeat unitNode [] s))
  rw [raise_hold (code := fUeRepeat) rfl, enterHold_pwr]
  exact ⟨kept.trans (congrArg Prod.fst told), code.trans (congrArg (fun y => y.2.1) told), rfl, by rw [Nat.testBit_or, Nat.testBit_two_pow_self, Bool.or_true]⟩

end window

/-- Settles O53: the window by `countUe_known` and `countUe_new`, the sixteenth error by `ueRepeat_holds`. -/
theorem uncorrectableErrors : Obligations.UncorrectableErrors := by
  unfold Obligations.UncorrectableErrors
  refine ⟨?_, ?_, ?_, ?_⟩
  · intro s small
    rw [regFields_fltStatus, pack_cons, pack_cons, pack_cons, pack_nil, field_eq]
    omega
  · intro a x s seen
    obtain ⟨wear, known⟩ := countUe_known (x := x) seen
    obtain ⟨told, pwr⟩ := ueData_tells x { s with flt.wearIn := wear, flt.ueSeen := ueRecent s }
    rw [known]
    exact ⟨congrArg Prod.fst told, congrArg (fun y => y.2.1) told, congrArg (fun y => y.2.2) told, pwr⟩
  · intro a x s fresh few
    obtain ⟨t, window, same, counted⟩ := countUe_new (x := x) fresh
    obtain ⟨told, pwr⟩ := ueData_tells x t
    rw [counted, if_neg few]
    exact ⟨(congrArg Prod.fst told).trans window, congrArg (fun y => y.2.1) told, congrArg PowerState.hold (pwr.trans same)⟩
  · intro a x s fresh last
    obtain ⟨t, window, -, counted⟩ := countUe_new (x := x) fresh
    obtain ⟨told, -⟩ := ueData_tells x t
    obtain ⟨kept, code, hold, cause⟩ := ueRepeat_holds (raise fUeData x [] t)
    rw [counted, if_pos last]
    exact ⟨kept.trans ((congrArg Prod.fst told).trans window), code, hold, cause⟩

/-! ### The status outputs (R458, R461, R462) -/

/-- PWR_STAGE.STALLED reads 0 or 1. -/
theorem stageView_stalled_lt (s : State) : (stageView s).1 < 2 := by
  unfold stageView
  dsimp only
  split_ifs <;> simp

theorem pwrStage_stalled (s : State) : field (regFields 0x600000 s) 3 1 = (stageView s).1 := by
  have small := stageView_stalled_lt s
  rw [regFields_pwrStage, pack_cons, pack_cons, pack_cons, pack_cons, pack_cons, pack_cons, pack_cons, pack_nil, field_eq]
  omega

/-- Settles O54: PWR_STAGE.STALLED is what FAULT_N looks at, by `pwrStage_stalled`. -/
theorem statusOutputs : Obligations.StatusOutputs := by
  unfold Obligations.StatusOutputs
  intro s
  refine ⟨?_, ?_, fun small => ?_⟩
  · rw [pwrStage_stalled, faultN, Bool.not_eq_false', Bool.or_eq_true, beq_iff_eq]
  · rw [smbAlertN, List.isEmpty_eq_false_iff]
  · rw [smbusAddress, Nat.mod_eq_of_lt small]

end Sys2Proof.Proofs

/-! ## Fences, restarts and the return of a unit (16_faults_and_recovery.md) -/

namespace Sys2Proof.Proofs

open Sys2Proof Sys2Proof.Machine Sys2Proof.Safety

section leases

variable {k p : Nat} {s : State}

/-- A unit identifier is its class and its index (R418). -/
theorem unit_class_index (c : Nat) (small : p < 65536) : unitClass (c * 65536 + p) = c ∧ unitIndex (c * 65536 + p) = p := by
  unfold unitClass unitIndex
  omega

/-- An expired lease is told of: its counter and its fault (R418). -/
def leaseTold (unit : Nat) (s : State) : State := raise fLeaseRevoked unit [] (tally ctrLeaseRevoked s)

theorem leaseRevoked_port (known : p < 8) :
    exec (.leaseRevoked (0x30000 + p)) s = .next (fencePort p (leaseTold (0x30000 + p) (zeroRanks p s))) := by
  obtain ⟨cls, idx⟩ := unit_class_index (p := p) 3 (by omega)
  refine congrArg Host.Outcome.next ?_
  unfold execLeaseRevokedState
  simp only [cls, idx, if_true, if_pos known, leaseTold]

theorem leaseRevoked_channel (known : p < 16) :
    exec (.leaseRevoked (0x60000 + p)) s = .next (fenceChannel p (leaseTold (0x60000 + p) s)) := by
  obtain ⟨cls, idx⟩ := unit_class_index (p := p) 6 (by omega)
  refine congrArg Host.Outcome.next ?_
  unfold execLeaseRevokedState
  simp only [cls, idx]
  exact (if_neg (by decide)).trans ((if_pos trivial).trans (if_pos known))

theorem leaseRevoked_core (known : k < 4) :
    exec (.leaseRevoked (0x70000 + k)) s = exec (.coreReset k) (tally ctrLeaseRevoked s) := by
  obtain ⟨cls, idx⟩ := unit_class_index (p := k) 7 (by omega)
  refine congrArg Host.Outcome.next ?_
  unfold execLeaseRevokedState
  simp only [cls, idx]
  exact (if_neg (by decide)).trans ((if_neg (by decide)).trans ((if_pos trivial).trans (if_pos known)))

theorem leaseRevoked_tier : exec (.leaseRevoked 0xC0000) s = .next (tierLeaseEnds (leaseTold 0xC0000 s)) := rfl

theorem raiseRecord_channels (code unit : Nat) (args : List Byte) (s : State) :
    (raiseRecord code unit args s).flt.fencedChannels = s.flt.fencedChannels := by
  change (logRecord _ (tally ctrFaults { s with flt.lastCode := code, flt.lastUnit := unit })).flt.fencedChannels = _
  exact ite_leaves (g := fun t : State => t.flt.fencedChannels) rfl rfl

/-- The resets of control cores within the last second (R424). -/
def recentResets (s : State) : List Nat := s.flt.coreResets.filter fun t => decide (s.time.elapsed < t + 4000000)

/-- A control core's reset, on record and told of. -/
def coreTold (k : Nat) (s : State) : State :=
  raise fCoreReset (unitCore k) [] { s with flt.coreResets := recentResets s ++ [s.time.elapsed] }

theorem coreReset_resets (known : k < 4) (on : s.start.mainOn = true) : exec (.coreReset k) s = .next
    (if 3 ≤ (recentResets s ++ [s.time.elapsed]).length then enterHold 5 (coreTold k s) else coreTold k s) :=
  congrArg Host.Outcome.next (if_neg (by simp [on, known]))

theorem coreTold_pwr (k : Nat) (s : State) : (coreTold k s).pwr = s.pwr := by
  rw [coreTold, raise_plain (code := fCoreReset) rfl, raiseRecord_frame]

end leases

section returns

variable {known : Bool} {x : Nat} {s : State}

theorem unfence_allowed (out : unitOut x s = true) (agreed : s.flt.reconBad.contains x = false) :
    ¬ (!unitOut x s || s.flt.reconBad.contains x) = true := by
  rw [out, agreed]
  exact Bool.false_ne_true

theorem unfence_decides (ready : mailReady 0x0140 4 s) : exec (.unfence known) s = .next
    (let x := u (mbxArgs s) 0 4
     if !unitOut x s || s.flt.reconBad.contains x then mbxRefuse 4 s
     else if unitClass x = 1 ∧ !known then mbxRefuse 6 s
     else mbxEnd stOk 0 [] { s with flt.unfencing := once (s.flt.unfencing ++ [x]) }) :=
  congrArg Host.Outcome.next (mailReady_runs ready)

end returns

/-- What TRUST_RESTART leaves of the trust core's state: every key, and no offer or request (R424). -/
def trustReset (s : State) : State :=
  { s with tru.offers := [], tru.curve := [], tru.cmd := none, tru.code := if s.tru.busy then stFenced else s.tru.code, tru.busy := false }

theorem trustRestart_restarts {s : State} (up : trustUp s = true) :
    exec .trustRestart s = .next (enterHold 5 (raiseRecord fTrustRestart unitTrust [] (trustReset s))) := by
  rw [← raise_hold (code := fTrustRestart) rfl]
  exact congrArg Host.Outcome.next (if_neg (by simp [up]))

theorem enterHold_tru (cause : Nat) (s : State) : (enterHold cause s).tru = s.tru := by
  have tru := congrArg State.tru (besideWork_enterHold cause s)
  exact tru

theorem enterHold_lastCode (cause : Nat) (s : State) : (enterHold cause s).flt.lastCode = s.flt.lastCode := by
  have code := congrArg (fun t : State => t.flt.lastCode) (besideWork_enterHold cause s)
  exact code

/-- Settles O43: leases by the lemma for each class of unit, core and trust resets by their entry into hold mode, and UNFENCE by
`unfence_decides`. -/
theorem fencesAndRestarts : Obligations.FencesAndRestarts := by
  unfold Obligations.FencesAndRestarts
  refine ⟨?_, ?_, ?_, ?_, ?_, ?_, ?_, ?_, ?_, ?_, ?_, ?_, ?_⟩
  · intro g s working late
    exact congrArg Host.Outcome.next (if_pos ⟨working, late⟩)
  · intro g s early
    exact congrArg Host.Outcome.next (if_neg fun h => absurd h.2 (Nat.not_le.mpr early))
  · intro p s known
    exact leaseRevoked_port known
  · intro i s known
    have told := lastFault_raiseRecord fLeaseRevoked (0x60000 + i) [] (tally ctrLeaseRevoked s)
    refine ⟨_, leaseRevoked_channel known, ?_⟩
    rw [leaseTold, raise_plain (code := fLeaseRevoked) rfl]
    refine ⟨?_, congrArg (fun y => y.2.1) told, congrArg (fun y => y.2.2) told, ?_, ?_⟩
    · exact congrArg (· ||| 2 ^ i) (raiseRecord_channels ..)
    · rw [raiseRecord_frame]
      rfl
    · rw [raiseRecord_frame]
      rfl
  · intro k s known on few
    refine ⟨_, (coreReset_resets known on).trans (congrArg _ (if_neg ?_)), rfl, congrArg PowerState.hold (coreTold_pwr k s)⟩
    rw [List.length_append, List.length_singleton, recentResets]
    omega
  · intro k s known on many
    refine ⟨_, (coreReset_resets known on).trans (congrArg _ (if_pos ?_)), ?_⟩
    · rw [List.length_append, List.length_singleton, recentResets]
      omega
    · rw [enterHold_pwr]
      exact ⟨rfl, by rw [Nat.testBit_or, Nat.testBit_two_pow_self, Bool.or_true]⟩
  · intro s up
    refine ⟨_, trustRestart_restarts up, ?_⟩
    rw [enterHold_pwr, enterHold_tru, enterHold_lastCode]
    refine ⟨?_, rfl, by rw [Nat.testBit_or, Nat.testBit_two_pow_self, Bool.or_true], ?_⟩
    · rw [raiseRecord_frame]
      rfl
    · exact congrArg (fun y => y.2.1) (lastFault_raiseRecord fTrustRestart unitTrust [] (trustReset s))
  · intro known s ready inside
    exact (unfence_decides ready).trans (congrArg _ (if_pos (by simp [inside])))
  · intro known s ready disagreed
    exact (unfence_decides ready).trans (congrArg _ (if_pos (Bool.or_eq_true_iff.mpr (Or.inr disagreed))))
  · intro s ready out cls agreed
    exact (unfence_decides ready).trans (congrArg _ ((if_neg (unfence_allowed out agreed)).trans (if_pos ⟨cls, rfl⟩)))
  · rintro known x s ready rfl out agreed answer
    refine (unfence_decides ready).trans (congrArg _ ((if_neg (unfence_allowed out agreed)).trans (if_neg ?_)))
    rintro ⟨cls, unknown⟩
    simp [answer cls] at unknown
  · intro k s known
    exact leaseRevoked_core known
  · rintro pr rest t s rfl programs
    refine leaseRevoked_tier.trans (congrArg _ ?_)
    unfold tierLeaseEnds leaseTold
    rw [programs]

end Sys2Proof.Proofs

/-! ## Reconciliation, the trace ring, the clearing of hold causes, and wear (16_faults_and_recovery.md) -/

namespace Sys2Proof.Proofs

open Sys2Proof Sys2Proof.Machine Sys2Proof.Safety

section recon

variable {s : State}

theorem reconcile_compares (counting : s.time.counting = true) (due : s.time.now % 1000000 = 0) (once_ : s.flt.recon ≠ s.time.now) :
    exec .reconcile s = .next ((disagreeing s).foldl reconFence
      { s with flt.recon := s.time.now, flt.reconBad := disagreeing s }) :=
  congrArg Host.Outcome.next (if_pos (by simp [counting, due, once_]))

end recon

/-! ### The trace ring (R430 to R433, R448) -/

section ring

variable {r : Record} {rest : List Record} {n : Nat} {s : State}

theorem queueFault_plain (plain : r.severity ≠ 1) (n : Nat) (s : State) : queueFault r n s = s := if_neg plain

/-- A fault's event waits for a poll while there is no receiver (R448). -/
theorem queueFault_waits (fault : r.severity = 1) (room : s.mgmt.events.length < 64) (none_ : s.mgmt.receiver = none) :
    queueFault r n s = { s with
      mgmt.events := s.mgmt.events ++ [0xF0#8 :: ((recordBytes r n).take 16 ++ leBytes 8 n)] } := by
  refine (if_pos fault).trans ((if_neg (Nat.not_le.mpr room)).trans ?_)
  unfold pushEvent
  simp only [none_]
  rfl

theorem traceRecordWrite_oldest (front : s.flt.fifo = r :: rest) (whole : s.flt.lost = 0 ∨ 32 ≤ s.flt.fifo.length) :
    exec .traceRecordWrite s = .next (commitRecord r { s with flt.fifo := rest }) := by
  refine congrArg Host.Outcome.next ((if_neg ?_).trans ?_)
  · rintro ⟨few, lost⟩
    exact whole.elim lost (Nat.not_le.mpr few)
  · rw [front]

theorem traceRecordWrite_fold (few : s.flt.fifo.length < 32) (lost : s.flt.lost ≠ 0) :
    exec .traceRecordWrite s = .next (commitRecord (foldRecord s) { s with flt.fold := [], flt.lost := 0 }) :=
  congrArg Host.Outcome.next (if_pos ⟨few, lost⟩)

end ring

/-! ### The causes of hold mode (R436) -/

section causes

variable {b : Nat} {s : State}

theorem bit_eq_testBit (n b : Nat) : bit n b = n.testBit b := by
  rw [Nat.testBit_eq_decide_div_mod_eq]
  rfl

theorem testBit_sub_pow {n b : Nat} (set : n.testBit b = true) : (n - 2 ^ b).testBit b = false := by
  rw [Nat.testBit_eq_decide_div_mod_eq, decide_eq_true_eq] at set
  rw [Nat.testBit_eq_decide_div_mod_eq, decide_eq_false_iff_not]
  have least : 2 ^ b ≤ n := by
    by_contra below
    rw [Nat.div_eq_of_lt (Nat.not_le.mp below)] at set
    exact absurd set (by decide)
  have steps : (n - 2 ^ b) / 2 ^ b = n / 2 ^ b - 1 := by
    rw [← Nat.sub_mul_div n (2 ^ b) 1, Nat.mul_one]
  omega

theorem clearCause_clears (set : s.pwr.holdCause.testBit b = true) :
    clearCause b s = { s with pwr.holdCause := s.pwr.holdCause - 2 ^ b } := if_pos ((bit_eq_testBit ..).trans set)

end causes

/-! ### Wear scores (R437) -/

section wear

variable {x : WearInput} {xs : List WearInput} {s : State}

/-- The state beside the fault state, and the second of the last wear update. -/
def besideWear (s : State) : State × Nat := ({ s with flt := {} }, s.flt.wearSecond)

theorem besideWear_wearOne (xs : List WearInput) (s : State) (unit : Nat) : besideWear (wearOne xs s unit) = besideWear s := by
  unfold wearOne
  refine ite_leaves (g := besideWear) ?_ rfl
  exact ite_leaves (g := besideWear) rfl rfl

/-- The units that a wear update looks at. -/
def wornUnits (xs : List WearInput) (s : State) : List Nat :=
  once ((s.flt.wear.map (·.1)) ++ (s.flt.wearIn.map (·.1)) ++ (xs.map (·.unit)).filter hasWear)

/-- The scores after a second. -/
def scored (xs : List WearInput) (s : State) : State :=
  (wornUnits xs s).foldl (wearOne xs) { s with flt.wearSecond := s.time.now / 1000000000 }

theorem wearUpdate_scores (due : s.flt.wearSecond < s.time.now / 1000000000) :
    exec (.wearUpdate xs) s = .next { scored xs s with flt.wearIn := [] } := congrArg Host.Outcome.next (if_pos due)

theorem scored_frame (xs : List WearInput) (s : State) : scored xs s = { s with flt := (scored xs s).flt } ∧
    (scored xs s).flt.wearSecond = s.time.now / 1000000000 := by
  have kept := foldl_leaves (g := besideWear) (besideWear_wearOne xs) (wornUnits xs s)
    { s with flt.wearSecond := s.time.now / 1000000000 }
  exact ⟨congrArg (fun y : State × Nat => { y.1 with flt := (scored xs s).flt }) kept, congrArg Prod.snd kept⟩

/-- The first score of a unit whose operand tells of what it counted. -/
theorem wearOne_first {n : Nat} (fresh : s.flt.wear = []) (idle : s.flt.wearIn = [])
    (operand : [1, 3, 4].contains (x.unit / 65536) = false)
    (score : n = min 0xFFFF (x.c / (if x.unit / 65536 = 6 then 16 else 1) + 8 * x.r + 64 * x.t + 512 * x.u)) :
    (wearOne [x] s x.unit).flt.wear = put {} [] x.unit { score := n, warn := decide (0x2000 ≤ n), peak := n } := by
  have counted : wearCounted [x] x.unit s = ⟨x.c, x.r, x.t, x.u⟩ := by
    have own : look {} s.flt.wearIn x.unit = ({} : WearCount) := congrArg (look {} · x.unit) idle
    have named : [x].find? (fun i => i.unit == x.unit && !([1, 3, 4].contains (unitClass x.unit))) = some x :=
      List.find?_cons_of_pos (by rw [beq_self_eq_true, show [1, 3, 4].contains (unitClass x.unit) = false from operand]; rfl)
    simp only [wearCounted, own, named, Nat.zero_add]
  have divisor : wearDivisor x.unit = if x.unit / 65536 = 6 then 16 else 1 := by
    have notLane : unitClass x.unit ≠ 4 := fun lane => by
      rw [show x.unit / 65536 = 4 from lane] at operand
      exact absurd operand (by decide)
    exact if_neg notLane
  have next : wearNext x.unit 0 (wearCounted [x] x.unit s) = n := by
    rw [counted, wearNext, divisor, score]
    dsimp only
    omega
  have old : look {} s.flt.wear x.unit = ({} : Wear) := congrArg (look {} · x.unit) fresh
  have unlogged (r : Record) (t : State) : (logRecord r t).flt.wear = t.flt.wear :=
    ite_leaves (g := fun t : State => t.flt.wear) rfl rfl
  unfold wearOne
  simp only [old, next]
  refine (ite_leaves (g := fun t : State => t.flt.wear) (unlogged ..) rfl).trans ?_
  simp [fresh]

end wear

/-- Settles O44: the comparison, the ring, the causes and the scores by the lemma for each. -/
theorem reconcileAndTrace : Obligations.ReconcileAndTrace := by
  unfold Obligations.ReconcileAndTrace
  refine ⟨?_, ?_, ?_, ?_, ?_, ?_, ?_, ?_, ?_, ?_, ?_, ?_, ?_⟩
  · intro s counting due once_ agree
    rw [reconcile_compares counting due once_, agree]
    rfl
  · intro s between
    exact congrArg Host.Outcome.next (if_neg (by simp [between]))
  · intro r rest s front whole
    exact ⟨traceRecordWrite_oldest front whole, fun plain n t => queueFault_plain plain n t⟩
  · intro r rest s front whole fault room none_
    exact (traceRecordWrite_oldest front (Or.inl whole)).trans (congrArg _ (queueFault_waits fault room none_))
  · rintro r s few lost rfl
    exact (traceRecordWrite_fold few lost).trans (congrArg _ (queueFault_plain (Nat.succ_ne_self 1) _ _))
  · intro i s
    rfl
  · intro s set
    refine ⟨_, congrArg Host.Outcome.next (clearCause_clears (s := { s with flt.ueSeen := [] }) set), rfl, ?_, rfl, rfl⟩
    exact testBit_sub_pow set
  · intro s reg collator power set
    refine ⟨_, congrArg Host.Outcome.next ((if_neg ?_).trans (clearCause_clears set)), testBit_sub_pow set, rfl⟩
    simp [reg, collator, Nat.not_lt.mpr power]
  · intro s barred
    refine congrArg Host.Outcome.next (if_pos ?_)
    rcases barred with reg | collator | power
    · simp [reg]
    · simp [collator]
    · simp [power]
  · rintro x n d s due fresh idle has operand rfl score
    refine ⟨_, wearUpdate_scores due, ?_, ?_⟩
    · have units : wornUnits [x] s = [x.unit] := by
        rw [wornUnits, fresh, idle]
        simp [has, once]
      change (scored [x] s).flt.wear = _
      rw [scored, units]
      exact wearOne_first (s := { s with flt.wearSecond := s.time.now / 1000000000 }) fresh idle operand score
    · rw [(scored_frame [x] s).1]
  · intro xs s within
    exact congrArg Host.Outcome.next (if_neg (Nat.not_lt.mpr within))
  · intro s counting due once_
    exact reconcile_compares counting due once_
  · intro xs s due
    obtain ⟨frame, second⟩ := scored_frame xs s
    refine ⟨_, wearUpdate_scores due, rfl, second, ?_, ?_⟩
    · rw [frame]
    · rintro rfl idle fresh
      have units : wornUnits [] s = [] := by
        rw [wornUnits, idle, fresh]
        rfl
      change (scored [] s).flt.wear = []
      rw [scored, units]
      exact fresh

end Sys2Proof.Proofs

/-! ## MCTP packets and the mailbox's BAR2 access (17_management_and_registers.md) -/

namespace Sys2Proof.Proofs

open Sys2Proof Sys2Proof.Machine Sys2Proof.Safety

section packets

variable {bd : Binding} {e : Bool} {q tag : Nat} {p : List Byte} {s : State}

/-- A first packet of a type that the node accepts: a vendor-defined type carries the node's identifier (R441). -/
structure Accepted (p : List Byte) : Prop where
  known : mctpTypes.contains (u p 0 1) = true
  vendor : u p 0 1 = 0x7E → u p 1 2 = Config.pciVendor.toNat

/-- The message that a binding assembles. -/
def assembling (bd : Binding) (s : State) : Assembly := look noAssembly s.mgmt.assembly (bindingNum bd)

theorem mctpPacket_first (up : bindingUp bd s = true) : exec (.mctpPacket bd true e q tag p) s = .next
    (if !mctpTypes.contains (u p 0 1) || (u p 0 1 == 0x7E && u p 1 2 != Config.pciVendor.toNat) then mctpDrop (bindingNum bd) s
    else if bindingEid bd s = 0 ∧ u p 0 1 ≠ 0 then s
    else mctpJoin (bindingNum bd) e ⟨tag, (q + 1) % 4, p⟩ s) :=
  congrArg Host.Outcome.next ((if_neg (by simp [up])).trans (if_pos rfl))

theorem accepted_passes (accepted : Accepted p) :
    ¬ (!mctpTypes.contains (u p 0 1) || (u p 0 1 == 0x7E && u p 1 2 != Config.pciVendor.toNat)) = true := by
  obtain ⟨known, vendor⟩ := accepted
  rw [known]
  simpa using vendor

theorem mctpPacket_starts (up : bindingUp bd s = true) (accepted : Accepted p) (answers : bindingEid bd s ≠ 0 ∨ u p 0 1 = 0) :
    exec (.mctpPacket bd true e q tag p) s = .next (mctpJoin (bindingNum bd) e ⟨tag, (q + 1) % 4, p⟩ s) := by
  refine (mctpPacket_first up).trans (congrArg _ ((if_neg (accepted_passes accepted)).trans (if_neg ?_)))
  rintro ⟨silent, other⟩
  exact answers.elim (· silent) other

theorem mctpPacket_continues (up : bindingUp bd s = true) (open_ : assembling bd s ≠ noAssembly) :
    exec (.mctpPacket bd false e q tag p) s = .next
      (if (assembling bd s).tag ≠ tag ∨ (assembling bd s).nextSeq ≠ q then mctpDrop (bindingNum bd) s
      else mctpJoin (bindingNum bd) e { assembling bd s with nextSeq := (q + 1) % 4, bytes := (assembling bd s).bytes ++ p } s) :=
  congrArg Host.Outcome.next ((if_neg (by simp [up])).trans ((if_neg Bool.false_ne_true).trans (if_neg open_)))

theorem mctpJoin_long {b : Nat} {a : Assembly} (long : 4160 < a.bytes.length) : mctpJoin b e a s = mctpDrop b s := if_pos long

theorem mctpJoin_whole {b : Nat} {a : Assembly} (fits : a.bytes.length ≤ 4160) : mctpJoin b true a s =
    setAssembly b noAssembly { s with mgmt.messages := s.mgmt.messages ++ [(b, a.bytes)] } :=
  (if_neg (Nat.not_lt.mpr fits)).trans (if_pos rfl)

end packets

/-! ### The mailbox's BAR2 access (R446) -/

section bar2

variable {n : Nat} {s : State}

theorem b2Write_decides (ready : mailReady 0x0150 (8 + n) s) (len : u (mbxArgs s) 4 2 = n) (plain : u (mbxArgs s) 6 2 = 0) :
    exec .b2Write s = .next (match b2Refusal (u (mbxArgs s) 0 4) n s with
      | some r => mbxRefuse r s
      | none =>
        if !hubUp s then mbxEnd stTargetDead 0 [] s
        else mbxEnd stOk 0 [] { s with mem.bar2 := memWrite s.mem.bar2 (u (mbxArgs s) 0 4) (padTo n ((mbxArgs s).drop 8)) }) := by
  obtain ⟨up, -, idle, command, clear_, length⟩ := ready
  subst len
  refine congrArg Host.Outcome.next ((mailbox_runs (lenOk := fun l => l == 8 + u (mbxArgs s) 4 2) up idle command
    clear_ (beq_iff_eq.mpr length)).trans ?_)
  exact if_neg (by simp [plain])

theorem b2Read_decides (ready : mailReady 0x0151 8 s) (plain : u (mbxArgs s) 6 2 = 0) :
    exec .b2Read s = .next (match b2Refusal (u (mbxArgs s) 0 4) (u (mbxArgs s) 4 2) s with
      | some r => mbxRefuse r s
      | none =>
        if !hubUp s then mbxEnd stTargetDead 0 [] s
        else mbxEnd stOk 0 (memRead s.mem.bar2 (u (mbxArgs s) 0 4) (u (mbxArgs s) 4 2)) s) := by
  refine congrArg Host.Outcome.next ((mailReady_runs ready).trans ?_)
  exact if_neg (by simp [plain])

theorem b2Refusal_unaligned {off len : Nat} (odd : off % 64 ≠ 0) : b2Refusal off len s = some 2 := if_pos (by simp [odd])

end bar2

/-- Settles O45: packets by `mctpPacket_first` and `mctpPacket_continues`, the mailbox by `b2Write_decides` and
`b2Read_decides`. -/
theorem mctpMessages : Obligations.MctpMessages := by
  unfold Obligations.MctpMessages
  refine ⟨?_, ?_, ?_, ?_, ?_, ?_, ?_, ?_, ?_, ?_, ?_, ?_⟩
  · intro bd q tag p s up known vendor eid fits closed
    exact ⟨_, (mctpPacket_starts up ⟨known, vendor⟩ (Or.inl eid)).trans (congrArg _ (mctpJoin_whole fits)), rfl, rfl, rfl⟩
  · intro bd e q tag p s up other
    refine (mctpPacket_first up).trans (congrArg _ (if_pos ?_))
    rcases other with unknown | ⟨vendor, foreign⟩
    · rw [unknown]
      rfl
    · simp [vendor, foreign]
  · intro bd e q tag p s up open_ gap
    exact (mctpPacket_continues up open_).trans (congrArg _ (if_pos (Or.inr gap)))
  · intro bd e q tag p s up some_ next same long
    have open_ : assembling bd s ≠ noAssembly := fun none_ => some_ (congrArg Assembly.bytes none_)
    refine (mctpPacket_continues up open_).trans (congrArg _ ((if_neg ?_).trans (mctpJoin_long ?_)))
    · exact fun gap => gap.elim (· same) (· next)
    · rw [List.length_append]
      exact long
  · intro bd e q tag p s up silent known other vendor
    exact (mctpPacket_first up).trans
      (congrArg _ ((if_neg (accepted_passes ⟨known, vendor⟩)).trans (if_pos ⟨silent, other⟩)))
  · intro b n s up small
    have byte : n % 256 = n := Nat.mod_eq_of_lt small
    refine congrArg Host.Outcome.next ((if_neg (by simp [up])).trans ?_)
    cases b with
    | smbus => exact congrArg (fun eid => ({ s with mgmt.eidSmbus := eid } : State)) byte
    | i3c => exact congrArg (fun eid => ({ s with mgmt.eidI3c := eid } : State)) byte
    | pcie => exact congrArg (fun eid => ({ s with mgmt.eidPcie := eid } : State)) byte
  · intro n s ready len plain allowed stage
    rw [b2Write_decides ready len plain, allowed]
    exact congrArg Host.Outcome.next (if_neg (by simp [hubUp, stage]))
  · intro n s ready len plain odd
    rw [b2Write_decides ready len plain, b2Refusal_unaligned odd]
    rfl
  · intro s ready plain allowed stage
    rw [b2Read_decides ready plain, allowed]
    exact congrArg Host.Outcome.next (if_neg (by simp [hubUp, stage]))
  · intro s ready plain allowed early
    rw [b2Read_decides ready plain, allowed]
    exact congrArg Host.Outcome.next (if_pos (by simp [hubUp, early]))
  · intro bd e q tag p s up known vendor answers
    exact mctpPacket_starts up ⟨known, vendor⟩ answers
  · rintro bd e q tag p a s up rfl open_ rfl rfl
    exact (mctpPacket_continues up open_).trans (congrArg _ (if_neg fun gap => gap.elim (· rfl) (· rfl)))

end Sys2Proof.Proofs

/-! ## PLDM sensors and events (17_management_and_registers.md) -/

namespace Sys2Proof.Proofs

open Sys2Proof Sys2Proof.Machine Sys2Proof.Safety

/-! ### Sensors (R445, R447) -/

section sensors

variable {n h : Nat} {s : State}

theorem sensorIds_contains (n : Nat) : sensorIds.contains n = decide (1 ≤ n ∧ n ≤ 25) := by
  rw [Bool.eq_iff_iff, List.contains_iff_mem, decide_eq_true_eq, List.mem_map]
  constructor
  · rintro ⟨k, known, rfl⟩
    have small := List.mem_range.mp known
    omega
  · rintro ⟨least, most⟩
    exact ⟨n - 1, List.mem_range.mpr (by omega), by omega⟩

theorem getSensorReading_answers (up : trustUp s = true) (known : sensorIds.contains n = true) :
    exec (.getSensorReading n) s = .next (if !sensorUp n s then answerPldm 0 (leBytes 2 n ++ leBytes 1 2) s
      else answerPldm 0 (leBytes 2 n ++ leBytes 1 0 ++ intBytes (look 0 s.mgmt.sensors n)) s) :=
  congrArg Host.Outcome.next ((if_neg (by simp [up])).trans (if_neg (by rw [known]; exact Bool.false_ne_true)))

/-- The last sensor shows the stage, and 7 in hold mode (R447). -/
theorem sensorNow_stage (s : State) : sensorNow 25 s = if s.pwr.hold then 7 else (s.start.stage : Int) := by
  simp [sensorNow]

/-- The sources of the sensors that a refresh leaves as they are. -/
def sources (s : State) : PowerState × CoolState × StartState := (s.pwr, s.cool, s.start)

theorem pushEvent_frame (s : State) : ∃ tries at_ out,
    pushEvent s = { s with mgmt.tries := tries, mgmt.triedAt := at_, out := out } := by
  unfold pushEvent
  split
  · split <;> exact ⟨_, _, _, rfl⟩
  · exact ⟨_, _, _, rfl⟩

/-- An event that waits changes no sensor and no source. -/
theorem queueEvent_kept (data : List Byte) (s : State) :
    sources (queueEvent data s) = sources s ∧ (queueEvent data s).mgmt.sensors = s.mgmt.sensors := by
  unfold queueEvent
  split
  · rw [countEvent_frame]
    exact ⟨rfl, rfl⟩
  · obtain ⟨tries, at_, out, pushed⟩ := pushEvent_frame { s with mgmt.events := s.mgmt.events ++ [data] }
    dsimp only
    rw [pushed]
    exact ⟨rfl, rfl⟩

theorem sources_refreshSensor (s : State) (n : Nat) : sources (refreshSensor s n) = sources s := by
  unfold refreshSensor
  refine ite_leaves rfl ?_
  exact ite_leaves rfl (queueEvent_kept ..).1

theorem refreshSensor_reads (up : sensorUp n s = true) :
    (refreshSensor s n).mgmt.sensors = put 0 s.mgmt.sensors n (sensorNow n s) := by
  have refreshed : refreshSensor s n = _ := if_neg (by simp [up])
  rw [refreshed]
  exact ite_leaves (g := fun t : State => t.mgmt.sensors) rfl (queueEvent_kept ..).2

/-- The stage is the last sensor that a refresh reads. -/
theorem sensorRefresh_stage (up : trustUp s = true) (some_ : sensorNow 25 s ≠ 0) : ∃ t, exec .sensorRefresh s = .next t ∧
    look 0 t.mgmt.sensors 25 = sensorNow 25 s ∧ sources t = sources s := by
  have last : sensorIds.foldl refreshSensor s =
      refreshSensor (((List.range 24).map (· + 1)).foldl refreshSensor s) 25 := by
    rw [sensorIds, List.range_succ, List.map_append, List.foldl_append, List.map_singleton, List.foldl_cons,
      List.foldl_nil]
  have before := foldl_leaves (g := sources) sources_refreshSensor ((List.range 24).map (· + 1)) s
  generalize ((List.range 24).map (· + 1)).foldl refreshSensor s = r at last before
  have same : sensorNow 25 r = sensorNow 25 s := by
    simp only [sources, Prod.mk.injEq] at before
    obtain ⟨pwr, -, start⟩ := before
    rw [sensorNow_stage, sensorNow_stage, pwr, start]
  refine ⟨_, congrArg Host.Outcome.next (if_pos up), ?_⟩
  rw [last, refreshSensor_reads rfl, same]
  exact ⟨look_put_self_ne _ _ some_, (sources_refreshSensor r 25).trans before⟩

end sensors

/-! ### Events (R448) -/

section events

variable {r : Nat} {e : List Byte} {es : List (List Byte)} {s : State}

theorem pushEvent_sends (receiver : s.mgmt.receiver = some r) (front : s.mgmt.events = e :: es) (unsent : s.mgmt.tries = 0) :
    pushEvent s = emit (.mctp r e) { s with mgmt.tries := 1, mgmt.triedAt := s.time.elapsed } := by
  unfold pushEvent
  rw [receiver, front]
  exact if_pos unsent

theorem pushEvent_unheard (receiver : s.mgmt.receiver = none) : pushEvent s = s := by
  unfold pushEvent
  rw [receiver]

theorem pushEvent_empty (none_ : s.mgmt.events = []) : pushEvent s = s := by
  unfold pushEvent
  rw [none_]
  cases s.mgmt.receiver <;> rfl

theorem setEventReceiver_sets (receiver : Option Nat) (up : trustUp s = true) : exec (.setEventReceiver receiver) s =
    .next (pushEvent { s with mgmt.receiver := receiver, mgmt.tries := 0 }) := congrArg Host.Outcome.next (if_pos up)

theorem poll_hands (up : trustUp s = true) (front : s.mgmt.events = e :: es) :
    exec .pollForPlatformEvent s = .next (popEvent (answerPldm 0 e s)) := by
  refine congrArg Host.Outcome.next ((if_neg (by simp [up])).trans ?_)
  rw [front]

/-- With no message that waits, an answer goes to the SMBus. -/
theorem answerPldm_unasked (code : Nat) (body : List Byte) (none_ : s.mgmt.messages = []) :
    answerPldm code body s = emit (.mctp 0 (leBytes 1 1 ++ leBytes 1 code ++ body)) s := by
  unfold answerPldm takeMessage
  rw [none_]
  rfl

theorem retry_decides (acked : Bool) (up : trustUp s = true) (receiver : s.mgmt.receiver = some r)
    (front : s.mgmt.events = e :: es) (sent : 1 ≤ s.mgmt.tries) : exec (.platformEventRetry acked) s = .next
      (if acked then popEvent s
      else if s.mgmt.tries < 3 ∧ s.mgmt.triedAt + 1000000 ≤ s.time.elapsed then
        emit (.mctp r e) { s with mgmt.tries := s.mgmt.tries + 1, mgmt.triedAt := s.time.elapsed }
      else s) := by
  refine congrArg Host.Outcome.next ?_
  unfold execPlatformEventRetryState
  rw [receiver, front]
  refine if_neg ?_
  simp [up, Nat.ne_of_gt sent]

/-- An event that has been sent three times waits for a poll. -/
theorem retry_exhausted (many : 3 ≤ s.mgmt.tries) : exec (.platformEventRetry false) s = .next s := by
  refine congrArg Host.Outcome.next ?_
  unfold execPlatformEventRetryState
  split
  · refine ite_leaves (g := id) rfl ((if_neg Bool.false_ne_true).trans (if_neg fun h => absurd h.1 (Nat.not_lt.mpr many)))
  · rfl

end events

/-- Settles O46: readings and records by `sensorIds_contains`, the refresh by `sensorRefresh_stage`, events by the lemmas of
`pushEvent` and `retry_decides`. -/
theorem sensorsAndEvents : Obligations.SensorsAndEvents := by
  unfold Obligations.SensorsAndEvents
  refine ⟨?_, ?_, ?_, ?_, ?_, ?_, ?_, ?_, ?_, ?_, ?_, ?_, ?_, ?_, ?_⟩
  · intro n s up known powered
    exact (getSensorReading_answers up known).trans (congrArg _ (if_neg (by simp [powered])))
  · intro n s up least most early
    have known : sensorIds.contains n = true := (sensorIds_contains n).trans (decide_eq_true ⟨least, by omega⟩)
    refine (getSensorReading_answers up known).trans (congrArg _ (if_pos ?_))
    simp [sensorUp, hubUp, most, early]
  · rintro h n s up rfl least most
    have known := (sensorIds_contains (if h = 0 then 1 else h)).trans (decide_eq_true ⟨least, most⟩)
    refine congrArg Host.Outcome.next ((if_neg (by simp [up])).trans ((if_neg (by rw [known]; exact Bool.false_ne_true)).trans ?_))
    simp only [b2n, beq_iff_eq]
  · intro n s up beyond
    have zero : n ≠ 0 := by omega
    have unknown := (sensorIds_contains n).trans (decide_eq_false (by omega))
    refine congrArg Host.Outcome.next ((if_neg (by simp [up])).trans ?_)
    dsimp only
    rw [if_neg zero, unknown]
    rfl
  · intro r e es s up front
    exact (setEventReceiver_sets (some r) up).trans
      (congrArg _ (pushEvent_sends (s := { s with mgmt.receiver := some r, mgmt.tries := 0 }) rfl front rfl))
  · intro e es s up front receiver none_
    refine (poll_hands up front).trans (congrArg _ ?_)
    rw [answerPldm_unasked 0 e none_]
    refine (pushEvent_unheard (by exact receiver)).trans ?_
    have popped : s.mgmt.events.tail = es := congrArg List.tail front
    rw [← popped]
    rfl
  · intro r e es s up front receiver sent few late
    exact (retry_decides false up receiver front sent).trans
      (congrArg _ ((if_neg Bool.false_ne_true).trans (if_pos ⟨few, late⟩)))
  · intro r e s up front receiver sent
    refine (retry_decides true up receiver front sent).trans (congrArg _ ((if_pos rfl).trans ?_))
    have popped : s.mgmt.events.tail = [] := congrArg List.tail front
    rw [popEvent, popped]
    exact pushEvent_empty rfl
  · intro s many
    exact retry_exhausted many
  · intro s up hold
    have seven : sensorNow 25 s = 7 := (sensorNow_stage s).trans (if_pos hold)
    obtain ⟨t, refreshed, reads, same⟩ := sensorRefresh_stage up (seven.trans_ne (by decide))
    simp only [sources, Prod.mk.injEq] at same
    exact ⟨t, refreshed, reads.trans seven, same⟩
  · intro s up out some_
    have stage : sensorNow 25 s = s.start.stage := (sensorNow_stage s).trans (if_neg (by simp [out]))
    obtain ⟨t, refreshed, reads, same⟩ := sensorRefresh_stage up (stage.trans_ne (Int.natCast_ne_zero.mpr some_))
    simp only [sources, Prod.mk.injEq] at same
    exact ⟨t, refreshed, reads.trans stage, same⟩
  · intro r s up
    exact setEventReceiver_sets r up
  · intro s up none_
    refine congrArg Host.Outcome.next ((if_neg (by simp [up])).trans ?_)
    rw [none_]
  · intro e es s up front
    exact poll_hands up front
  · intro r e es s up front receiver sent
    exact (retry_decides true up receiver front sent).trans (congrArg _ (if_pos rfl))

end Sys2Proof.Proofs

/-! ## Register requests over MCTP (17_management_and_registers.md) -/

namespace Sys2Proof.Proofs

open Sys2Proof Sys2Proof.Machine Sys2Proof.Safety

section requests

variable {b : Binding} {m : List Byte} {off : Nat} {s : State}

/-- A field behind a header is the message's field. -/
theorem u_drop (m : List Byte) (k off n : Nat) : u (m.drop k) off n = u m (k + off) n := by
  rw [u, sub, List.drop_drop, u, sub]

/-- A request that a binding has received. -/
structure Received (b : Binding) (write : Bool) (m : List Byte) (s : State) : Prop where
  up : trustUp s = true
  message : regMessage b write s = some m

/-- A request of the form that R443 asks for names whole registers of BAR0. -/
theorem regRefused_range (formed : regRefused (m.drop 3) = false) : u m 7 4 % 8 = 0 ∧ u m 7 4 + 8 * u m 5 2 ≤ 0x4000000 := by
  simp only [regRefused, u_drop, Bool.or_eq_false_iff, decide_eq_false_iff_not, bne_eq_false_iff_eq, beq_eq_false_iff_ne] at formed
  obtain ⟨⟨⟨⟨⟨-, aligned⟩, -⟩, -⟩, inside⟩, -⟩ := formed
  exact ⟨aligned, Nat.not_lt.mp inside⟩

theorem earlyReg_iff (off : Nat) : earlyReg off = true ↔ off < 0x1000 ∨ (0x900000 ≤ off ∧ off < 0x903000) ∨ off = 0x600000 ∨
    off = 0x601018 ∨ off = 0x601020 := by
  simp only [earlyReg, Bool.or_eq_true, decide_eq_true_eq, beq_iff_eq, or_assoc]

theorem regDead_early (early : s.start.stage < 2) (other : ∃ i < u m 5 2, earlyReg (u m 7 4 + 8 * i) = false) :
    regDead (m.drop 3) (dropMessage b m s) = true := by
  obtain ⟨i, inside, outside⟩ := other
  have down : hubUp (dropMessage b m s) = false := decide_eq_false (Nat.not_le.mpr early)
  rw [regDead, down, u_drop, u_drop, Bool.not_false, Bool.true_and, List.any_eq_true]
  exact ⟨i, List.mem_range.mpr inside, by rw [outside]; rfl⟩

theorem regDead_one (one : u m 5 2 = 1) (early : earlyReg (u m 7 4) = true) : regDead (m.drop 3) (dropMessage b m s) = false := by
  rw [regDead, u_drop, u_drop, one]
  simp [early]

theorem regDead_up (up : 2 ≤ s.start.stage) : regDead (m.drop 3) (dropMessage b m s) = false := by
  have on : hubUp (dropMessage b m s) = true := decide_eq_true up
  rw [regDead, on]
  rfl

theorem regRead_decides (received : Received b false m s) : exec (.regRead b) s = .next
    (if regRefused (m.drop 3) then regAnswer b m stMalformed 0 [] (countEvent cRegRefused unitNode (dropMessage b m s))
    else if regDead (m.drop 3) (dropMessage b m s) then regAnswer b m stTargetDead 0 [] (dropMessage b m s)
    else regAnswer b m stOk (u m 5 2) (readWords (u m 5 2) (u m 7 4) (dropMessage b m s)).1
      (readWords (u m 5 2) (u m 7 4) (dropMessage b m s)).2) := by
  obtain ⟨up, message⟩ := received
  refine congrArg Host.Outcome.next ?_
  simp only [execRegReadState, up, message, if_true, u_drop]

theorem regWrite_decides (received : Received b true m s) : exec (.regWrite b) s = .next
    (if regRefused (m.drop 3) then regAnswer b m stMalformed 0 [] (countEvent cRegRefused unitNode (dropMessage b m s))
    else if regDead (m.drop 3) (dropMessage b m s) then regAnswer b m stTargetDead 0 [] (dropMessage b m s)
    else regAnswer b m stOk (u m 5 2) [] (writeWords (u m 5 2) (u m 7 4) (m.drop 11) (dropMessage b m s))) := by
  obtain ⟨up, message⟩ := received
  change execRegWrite b s = _
  simp only [execRegWrite, up, message, if_true, u_drop, List.drop_drop]
  split
  · rfl
  · split <;> rfl

theorem regRead_done (received : Received b false m s) (formed : regRefused (m.drop 3) = false)
    (alive : regDead (m.drop 3) (dropMessage b m s) = false) : exec (.regRead b) s = .next
      (regAnswer b m stOk (u m 5 2) (readWords (u m 5 2) (u m 7 4) (dropMessage b m s)).1
        (readWords (u m 5 2) (u m 7 4) (dropMessage b m s)).2) := by
  rw [regRead_decides received, formed, alive]
  rfl

theorem regWrite_done (received : Received b true m s) (formed : regRefused (m.drop 3) = false)
    (alive : regDead (m.drop 3) (dropMessage b m s) = false) : exec (.regWrite b) s = .next
      (regAnswer b m stOk (u m 5 2) [] (writeWords (u m 5 2) (u m 7 4) (m.drop 11) (dropMessage b m s))) := by
  rw [regWrite_decides received, formed, alive]
  rfl

theorem reached_own (inside : off < 0x4000000) (unowned : portOwner off = none) : reached 0 off s = some off := by
  have view : viewOff 0 off s = some off := (if_pos rfl).trans (if_pos inside)
  have shown : hiddenFrom 0 off s = false := by
    rw [hiddenFrom, unowned]
    rfl
  simp [reached, view, shown]

theorem portOwner_early (early : earlyReg off = true) : portOwner off = none := by
  rw [earlyReg_iff] at early
  exact (if_neg (by omega)).trans (if_neg (by omega))

theorem readWords_one (own : reached 0 off s = some off) :
    readWords 1 off s = (leBytes 8 (regValue off s), clearRc off true true (endLatch 0 off s)) := by
  simp [readWords, readWhole, own]

theorem writeWords_one (off : Nat) (bs : List Byte) (s : State) :
    writeWords 1 off bs s = fnWrite 0 off ⟨true, true, u bs 0 8⟩ s := rfl

theorem regRead_one (received : Received b false m s) (formed : regRefused (m.drop 3) = false)
    (alive : regDead (m.drop 3) (dropMessage b m s) = false) (one : u m 5 2 = 1) (unowned : portOwner (u m 7 4) = none) :
    exec (.regRead b) s = .next (regAnswer b m stOk 1 (leBytes 8 (regValue (u m 7 4) (dropMessage b m s)))
      (clearRc (u m 7 4) true true (endLatch 0 (u m 7 4) (dropMessage b m s)))) := by
  obtain ⟨-, inside⟩ := regRefused_range formed
  rw [regRead_done received formed alive, one, readWords_one (reached_own (by omega) unowned)]

theorem regWrite_one (received : Received b true m s) (formed : regRefused (m.drop 3) = false)
    (alive : regDead (m.drop 3) (dropMessage b m s) = false) (one : u m 5 2 = 1) : exec (.regWrite b) s = .next
      (regAnswer b m stOk 1 [] (fnWrite 0 (u m 7 4) ⟨true, true, u m 11 8⟩ (dropMessage b m s))) := by
  rw [regWrite_done received formed alive, one, writeWords_one, u_drop]

theorem writeNode_mailbox {w : WriteData} (first : 0x901000 ≤ off) (last : off < 0x902000) : writeNode off w s = { s with
    mem.mbxReq := if w.hi then memWrite (if w.lo then memWrite s.mem.mbxReq (off - 0x901000) (leBytes 4 (w.v % 2 ^ 32))
        else s.mem.mbxReq) (off - 0x901000 + 4) (leBytes 4 (w.v / 2 ^ 32))
      else if w.lo then memWrite s.mem.mbxReq (off - 0x901000) (leBytes 4 (w.v % 2 ^ 32)) else s.mem.mbxReq } := by
  unfold writeNode
  dsimp only
  iterate 18 rw [if_neg (by omega)]
  exact if_pos ⟨first, last⟩

/-- A whole word of the mailbox's request is written (R371). -/
theorem fnWrite_mailbox {k v : Nat} (inside : k < 512) : fnWrite 0 (0x901000 + 8 * k) ⟨true, true, v⟩ s = { s with
    mem.mbxReq := memWrite (memWrite s.mem.mbxReq (8 * k) (leBytes 4 (v % 2 ^ 32))) (8 * k + 4) (leBytes 4 (v / 2 ^ 32)) } := by
  have early : earlyReg (0x901000 + 8 * k) = true := (earlyReg_iff _).mpr (by omega)
  have word : regWrite (0x901000 + 8 * k) ⟨true, true, v⟩ s = writeNode (0x901000 + 8 * k) ⟨true, true, v⟩ s :=
    (if_neg (by omega)).trans (if_neg (by omega))
  rw [fnWrite, reached_own (by omega) (portOwner_early early)]
  dsimp only
  rw [word, writeNode_mailbox (by omega) (by omega), Nat.add_sub_cancel_left]
  rfl

theorem leNat_lt (bs : List Byte) : leNat bs < 2 ^ (8 * bs.length) := by
  induction bs with
  | nil => exact Nat.one_pos
  | cons x t ih =>
    have byte : x.toNat < 256 := x.isLt
    rw [List.length_cons, Nat.mul_succ, Nat.pow_add, leNat]
    omega

theorem u_lt (m : List Byte) (off n : Nat) : u m off n < 2 ^ (8 * n) :=
  Nat.lt_of_lt_of_le (leNat_lt _) (Nat.pow_le_pow_right Nat.two_pos (Nat.mul_le_mul_left 8 (List.length_take_le ..)))

/-- A write over MCTP is PF0's write of the whole register (R444). -/
theorem registerWrite_whole {v : Nat} (aligned : off % 8 = 0) (small : v < 2 ^ 64) :
    exec (.registerWrite 0 off 8 (BitVec.ofNat 64 v)) s = .next (fnWrite 0 off ⟨true, true, v⟩ s) := by
  have value : (BitVec.ofNat 64 v).toNat = v := Nat.mod_eq_of_lt small
  refine (if_neg (by simp [badAccess, aligned])).trans ((if_pos rfl).trans ?_)
  rw [value]

end requests

/-- Settles O49: a request that touches a word outside the trust core's by `regDead_early`, others by `regRead_one` and
`regWrite_one`. -/
theorem earlyRegisterRequests : Obligations.EarlyRegisterRequests := by
  unfold Obligations.EarlyRegisterRequests
  have outside {m : List Byte} (other : ∃ i < u m 5 2, ¬ ((u m 7 4 + 8 * i) < 0x1000 ∨ (0x900000 ≤ (u m 7 4 + 8 * i) ∧
      (u m 7 4 + 8 * i) < 0x903000) ∨ (u m 7 4 + 8 * i) = 0x600000 ∨ (u m 7 4 + 8 * i) = 0x601018 ∨
      (u m 7 4 + 8 * i) = 0x601020)) : ∃ i < u m 5 2, earlyReg (u m 7 4 + 8 * i) = false := by
    obtain ⟨i, inside, not_⟩ := other
    exact ⟨i, inside, Bool.eq_false_iff.mpr fun early => not_ ((earlyReg_iff _).mp early)⟩
  refine ⟨?_, ?_, ?_, ?_⟩
  · intro b m s up message formed early other
    rw [regRead_decides ⟨up, message⟩, formed, regDead_early early (outside other)]
    rfl
  · intro b m s up message formed early other
    rw [regWrite_decides ⟨up, message⟩, formed, regDead_early early (outside other)]
    rfl
  · intro b m s up message formed early one trusted
    have known := (earlyReg_iff _).mpr trusted
    exact regRead_one ⟨up, message⟩ formed (regDead_one one known) one (portOwner_early known)
  · intro b m k s up message formed early one word inside
    have known : earlyReg (u m 7 4) = true := (earlyReg_iff _).mpr (by omega)
    rw [regWrite_one ⟨up, message⟩ formed (regDead_one one known) one, word, fnWrite_mailbox inside]
    rfl

/-- Settles O50, by `regRead_decides` and `regWrite_decides`. -/
theorem registerRequests : Obligations.RegisterRequests := by
  unfold Obligations.RegisterRequests
  refine ⟨?_, ?_, ?_, ?_, ?_⟩
  · intro b m s up message refused
    rw [regRead_decides ⟨up, message⟩, refused]
    rfl
  · intro b m s up message refused
    rw [regWrite_decides ⟨up, message⟩, refused]
    rfl
  · intro b m s up message formed stage one unowned
    exact regRead_one ⟨up, message⟩ formed (regDead_up stage) one unowned
  · intro b m s up message formed stage one
    exact ⟨regWrite_one ⟨up, message⟩ formed (regDead_up stage) one,
      registerWrite_whole (regRefused_range formed).1 (u_lt m 11 8)⟩
  · intro b m s up formed stage
    exact ⟨fun message => regWrite_done ⟨up, message⟩ formed (regDead_up stage),
      fun message => regRead_done ⟨up, message⟩ formed (regDead_up stage)⟩

end Sys2Proof.Proofs
